-- ==== Sys2Proof/Word.lean ====
section
/-! DEFINITION. The word types of the SX-2: lane words, bytes, virtual addresses, lane masks. -/

namespace Sys2Proof

/-- A 32-bit register element (R18, R85). -/
abbrev Word := BitVec 32

/-- The smallest addressable unit (R4). -/
abbrev Byte := BitVec 8

/-- A 56-bit virtual byte address, the width of the program counter (R78). -/
abbrev Addr := BitVec 56

/-- A 64-bit register pair (R86). -/
abbrev DWord := BitVec 64

/-- A set of lanes of one group: bit l is lane number l of the group (R19). -/
abbrev LMask := BitVec 64

/-- A 6-bit register field (R85). -/
abbrev Reg := BitVec 6

/-- A 5-bit register field: v0 to v31 only (R85). -/
abbrev Reg5 := BitVec 5

end Sys2Proof
end

