-- ==== Sys2Proof/Config.lean ====
section
/-! DEFINITION. What an implementation fixes and the values the spec leaves open. An opaque constant here has no value that Lean
can see, so a claim holds whatever it is; the assumption log names each. -/

namespace Sys2Proof.Config

/-- The special functions whose results Table 5-7 bounds and does not fix. -/
inductive Sfu where | rcp | rsq | exp2 | log2 | sin | cos
  deriving DecidableEq, Repr

/-- The result of a special function on an input that has no exact case (R133), taken when it lies within the bound. -/
opaque sfuResult : Sfu → Word → Word

/-- The result of ATTR for an exact value `num / den` with its sign, taken when it lies within the bound of R291. -/
opaque attrResult : Bool → Nat → Nat → Word

/-- A value that the spec leaves open, for the n-th time one is needed. -/
opaque freeWord : Nat → Word

/-- Bytes whose content the spec leaves to a standard it does not reproduce, such as an AV1 tile group. -/
opaque freeByte : Nat → Byte

/-- What a byte of configuration space or of a management mailbox reads as (R328), by its place and the byte last written there, if any: the
spec describes neither layout nor content. -/
opaque controlByte : Nat → Option Byte → Byte

/-- A length that the spec leaves open. -/
opaque freeLength : Nat → Nat

/-- The fixed order of evaluation of lens correction (R307), which the spec does not name, as a choice among those of the model. -/
opaque lensOrder : Nat

/-- The lanes of a DisplayPort output's trained link (Table 13-8): 1, 2 or 4 for 0, 1 or another remainder modulo 3. -/
opaque dpLanes : Nat → Nat

/-- Whether DSC of a stream runs at 12 bits per pixel and not at 8 (Table 13-8). -/
opaque dscWide : Nat → Bool

/-- A digest under SHA3-512, as an uninterpreted function of the bytes digested (R338, R339). -/
opaque digest : List Nat → Nat

/-- A signature under the part's ML-DSA-87 identity key, as an uninterpreted function of what is signed (R339). -/
opaque signature : List Nat → Nat

/-- The part's certificate chain (R338), as an uninterpreted constant. -/
opaque certificate : Nat

end Sys2Proof.Config
end

