-- ==== Sys2Proof/Syntax.lean ====
section
/-! DEFINITION. The instructions of Brynric and the other steps of the SX-2: one constructor for each row of the opcode table.
The first 152 constructors are instruction encodings. The other 80 are the device's own steps, with the operands that name
which unit acts and, for a step that starts outside the module, what arrives. -/

namespace Sys2Proof

/-- The rounding field of Table 4-13 (R84). -/
inductive Rnd where | mode | rne | rz | rp
  deriving DecidableEq, Repr

/-- ICMP conditions (Table 4-15). -/
inductive ICond where | eq | ne | lt | le | gt | ge | ltu | leu | gtu | geu
  deriving DecidableEq, Repr

/-- FCMP conditions (Table 4-15). -/
inductive FCond where | eq | ne | lt | le | gt | ge | ord | unord
  deriving DecidableEq, Repr

/-- FCVT conversion codes 0x00 to 0x13 (Table 4-16), named source then destination. -/
inductive Cvt where
  | f32f16 | f16f32 | f32bf16 | bf16f32 | f32e4m3 | e4m3f32 | f32e5m2 | e5m2f32 | f32int | intf32
  | f32uint | uintf32 | f32e2m1 | e2m1f32 | i4f32 | p4f32 | h4f32 | f32i4 | f32p4 | f32h4
  deriving DecidableEq, Repr

/-- FDOT kinds (Table 17-7). -/
inductive DotKind where | h | bf | e4 | e5
  deriving DecidableEq, Repr

/-- Cross-lane modes (Table 4-11). -/
inductive XMode where | bc | xor | dn | up
  deriving DecidableEq, Repr

/-- VOTE kinds (Table 18-9). -/
inductive VoteKind where | bal | balh | any | all | first
  deriving DecidableEq, Repr

/-- XRED operators (R425). -/
inductive RedOp where | iadd | fadd | imin | imax | fmin | fmax | and | or | xor
  deriving DecidableEq, Repr

/-- Interpolation codes of ATTR (R291). -/
inductive AttrKind where | persp | lin | flat
  deriving DecidableEq, Repr

/-- Scopes (Table 7-1). -/
inductive Scope where | grp | team | dev | sys
  deriving DecidableEq, Repr

/-- Access sizes of format M (Table 4-9). -/
inductive Size where | b32 | b64 | b128 | z16
  deriving DecidableEq, Repr

/-- Atomic operations (Table 16-4). -/
inductive AtomOp where | add | min | max | minu | maxu | and | or | xor | exch | cas | fadd
  deriving DecidableEq, Repr

/-- MPACK output formats (Table 9-8). -/
inductive PackFmt where | e4m3 | e5m2 | bf16 | i8
  deriving DecidableEq, Repr

/-- One sensor's answer at a tick: the matrix engine of a quadrant, and its reading in 1/16 degrees, or no answer (R324). -/
structure Sensor where
  core : Nat
  quad : Nat
  reading : Option Int
  deriving DecidableEq, Repr

/-- What the power controller reads at a tick: the sensors, the board energy above what the cold plate removed over the tick in
microjoules (R318), and the board power of the tick in milliwatts (R326). -/
structure PowerEnv where
  sensors : List Sensor
  meltMicroJ : Int
  powerMilliW : Nat
  deriving DecidableEq, Repr

/-- An access by the host or a peer: a read of `size` bytes, or a write of `data`, at a physical address (R186). -/
structure OutsideAccess where
  pa : Nat
  size : Nat
  data : Option (List Byte)
  deriving DecidableEq, Repr

/-- The slice of a group in a wave slot that takes the slot's pending asynchronous cause (R262). -/
structure AsyncTarget where
  slot : Nat
  group : Nat
  slice : Nat
  deriving DecidableEq, Repr

/-- A request for configuration space of function `fn`, or for the management mailboxes: a read of `size` bytes, or a write of `data`, at an
offset (R328, R336). -/
structure ConfigRequest where
  fn : Nat
  mailbox : Bool
  off : Nat
  size : Nat
  data : Option (List Byte)
  deriving DecidableEq, Repr

/-- Where hardware checking finds a fault (R337, Table 15-6). -/
structure HwFault where
  unit : Nat
  inst : Nat
  loc : Nat
  bytes : Nat
  uncorrected : Bool
  deriving DecidableEq, Repr

/-- A firmware image as the management core checks it (R338): whether its form is good, whether its signature verifies under the
fused key, its security version, and its digest. -/
structure FwImage where
  formOk : Bool
  sigOk : Bool
  version : Nat
  digest : Nat
  deriving DecidableEq, Repr

/-- One row of the opcode table each. `ea`, `eb` are the E bits (R60). -/
inductive Instr where
  -- major 0x01 (R378, R343, R395, R403)
  | iadd (ea eb : Bool) (d a b : Reg)
  | isub (ea eb : Bool) (d a b : Reg)
  | imul (ea eb : Bool) (d a b : Reg)
  | imulh (ea eb : Bool) (d a b : Reg)
  | imulhu (ea eb : Bool) (d a b : Reg)
  | imin (ea eb : Bool) (d a b : Reg)
  | imax (ea eb : Bool) (d a b : Reg)
  | iminu (ea eb : Bool) (d a b : Reg)
  | imaxu (ea eb : Bool) (d a b : Reg)
  | and (ea eb : Bool) (d a b : Reg)
  | or (ea eb : Bool) (d a b : Reg)
  | xor (ea eb : Bool) (d a b : Reg)
  | andn (ea eb : Bool) (d a b : Reg)
  | shl (ea eb : Bool) (d a b : Reg)
  | shr (ea eb : Bool) (d a b : Reg)
  | sar (ea eb : Bool) (d a b : Reg)
  | iadds (ea eb : Bool) (d a b : Reg)
  | isubs (ea eb : Bool) (d a b : Reg)
  -- major 0x02
  | iaddi (ea : Bool) (d a : Reg) (imm : BitVec 9)
  | imuli (ea : Bool) (d a : Reg) (imm : BitVec 9)
  | andi (ea : Bool) (d a : Reg) (imm : BitVec 9)
  | ori (ea : Bool) (d a : Reg) (imm : BitVec 9)
  | xori (ea : Bool) (d a : Reg) (imm : BitVec 9)
  | shli (ea : Bool) (d a : Reg) (n : BitVec 5)
  | shri (ea : Bool) (d a : Reg) (n : BitVec 5)
  | sari (ea : Bool) (d a : Reg) (n : BitVec 5)
  -- major 0x03
  | mov (ea : Bool) (d a : Reg)
  | not (ea : Bool) (d a : Reg)
  | ineg (ea : Bool) (d a : Reg)
  | iabs (ea : Bool) (d a : Reg)
  | popc (ea : Bool) (d a : Reg)
  | clz (ea : Bool) (d a : Reg)
  | brev (ea : Bool) (d a : Reg)
  -- majors 0x04 to 0x0A
  | imad (d a b : Reg) (c : Reg5)
  | imadwUint (d a b : Reg) (c : Reg5)
  | imadwInt (d a b : Reg) (c : Reg5)
  | iaddw (ea eb : Bool) (d a b : Reg)
  | isubw (ea eb : Bool) (d a b : Reg)
  | shlw (ea eb : Bool) (d a b : Reg)
  | icmp (cond : ICond) (ea eb : Bool) (d a b : Reg)
  | sel (d a b : Reg) (c : Reg5)
  | bfe (d a : Reg) (c : Reg5)
  | bfeu (d a : Reg) (c : Reg5)
  | bfi (d a b : Reg) (c : Reg5)
  | bperm (d a b : Reg) (c : Reg5)
  | movi (d : Reg) (imm : BitVec 16)
  | movhi (d : Reg) (imm : BitVec 16)
  -- majors 0x0B to 0x17
  | fadd (sat negB negA : Bool) (rnd : Rnd) (ea eb : Bool) (d a b : Reg)
  | fmul (sat negB negA : Bool) (rnd : Rnd) (ea eb : Bool) (d a b : Reg)
  | fmin (nan : Bool) (ea eb : Bool) (d a b : Reg)
  | fmax (nan : Bool) (ea eb : Bool) (d a b : Reg)
  | ffma (rnd : Rnd) (d a b : Reg) (c : Reg5)
  | fcmp (cond : FCond) (ea eb : Bool) (d a b : Reg)
  | frcp (ea : Bool) (d a : Reg)
  | frsq (ea : Bool) (d a : Reg)
  | fsqrt (ea : Bool) (d a : Reg)
  | fexp2 (ea : Bool) (d a : Reg)
  | flog2 (ea : Bool) (d a : Reg)
  | fsin (ea : Bool) (d a : Reg)
  | fcos (ea : Bool) (d a : Reg)
  | fclass (ea : Bool) (d a : Reg)
  | fabs (ea : Bool) (d a : Reg)
  | fneg (ea : Bool) (d a : Reg)
  | frnd (rnd : Rnd) (ea : Bool) (d a : Reg)
  | fcvt (code : Cvt) (el : BitVec 3) (rnd : Rnd) (ea : Bool) (d a : Reg)
  | hpadd (sat : Bool) (rnd : Rnd) (ea eb : Bool) (d a b : Reg)
  | hpmul (sat : Bool) (rnd : Rnd) (ea eb : Bool) (d a b : Reg)
  | hpmin (ea eb : Bool) (d a b : Reg)
  | hpmax (ea eb : Bool) (d a b : Reg)
  | hpfma (rnd : Rnd) (d a b : Reg) (c : Reg5)
  | bpfma (rnd : Rnd) (d a b : Reg) (c : Reg5)
  | fdot (kind : DotKind) (d a b : Reg) (c : Reg5)
  | sobol (f32 : Bool) (d a b : Reg) (c : Reg5)
  -- majors 0x18 to 0x1F
  | xmov (mode : XMode) (k : BitVec 5) (d a : Reg)
  | xfadd (mode : XMode) (k : BitVec 5) (d a b : Reg)
  | xiadd (mode : XMode) (k : BitVec 5) (d a b : Reg)
  | vote (kind : VoteKind) (ea : Bool) (d a : Reg)
  | xred (op : RedOp) (scan : Bool) (ea : Bool) (d a : Reg)
  | emitv (ea eb : Bool) (a b : Reg)
  | emitp (ea eb : Bool) (a b : Reg)
  | attr (kind : AttrKind) (n : BitVec 4) (d : Reg)
  | disc (ea : Bool) (a : Reg)
  | zout (ea : Bool) (a : Reg)
  | pxout (blend : Bool) (ea : Bool) (a : Reg)
  | tex (ea eb : Bool) (d a b : Reg)
  | texg (ea eb : Bool) (d a b : Reg)
  | tileld (depth : Bool) (ea : Bool) (d a : Reg)
  | tilest (depth : Bool) (ea : Bool) (d a : Reg)
  | raygo (ea : Bool) (a : Reg)
  -- majors 0x20 to 0x2E
  | bra (ea : Bool) (a : Reg) (off : BitVec 18)
  | brz (ea : Bool) (a : Reg) (off : BitVec 18)
  | jmp (off : BitVec 25)
  | call (off : BitVec 25)
  | ret (ea : Bool) (a : Reg)
  | brx (ea eb : Bool) (a b : Reg)
  | regang (span : Bool)
  | exit
  | bar (id : BitVec 2)
  | barTeam
  | yield
  | fence (scope : Scope) (sc : Bool)
  | qfence (mask : BitVec 8)
  | sleep (n : BitVec 16)
  | leaseReq (d : Reg) (n : BitVec 16)
  | leaseFree
  | leaseQuery (d : Reg)
  | sysrd (d : Reg) (n : BitVec 9)
  | syswr (n : BitVec 9) (ea : Bool) (a : Reg)
  | cyc (d : Reg) (hi : Bool)
  | trap (n : BitVec 9)
  | rett
  | brk (n : BitVec 9)
  -- majors 0x30 to 0x3E
  | ld (size : Size) (scope : Scope) (acq : Bool) (ea : Bool) (d a : Reg) (off : BitVec 6)
  | st (size : Size) (scope : Scope) (rel : Bool) (ea : Bool) (d a : Reg) (off : BitVec 6)
  | ldl (size : Size) (team : Bool) (acq : Bool) (ea : Bool) (d a : Reg) (off : BitVec 6)
  | stl (size : Size) (team : Bool) (rel : Bool) (ea : Bool) (d a : Reg) (off : BitVec 6)
  | atom (op : AtomOp) (scope : Scope) (ar : Bool) (d a b : Reg)
  | atoml (op : AtomOp) (team : Bool) (ar : Bool) (d a b : Reg)
  | clinePf (scope : Scope) (ea : Bool) (a : Reg) (off : BitVec 6)
  | clineWb (scope : Scope) (ea : Bool) (a : Reg) (off : BitVec 6)
  | clineInv (scope : Scope) (ea : Bool) (a : Reg) (off : BitVec 6)
  | stashMap (ea : Bool) (d a : Reg)
  | stashUnmap (ea : Bool) (a : Reg)
  | stashFlush (ea : Bool) (a : Reg)
  | cpy (ea : Bool) (a : Reg)
  | slotw (free : Bool) (ea : Bool) (d a : Reg)
  | slotr (ea : Bool) (a : Reg)
  | slotp (ea : Bool) (a : Reg)
  | slote (ea : Bool) (a : Reg)
  | qstrm (q : BitVec 3) (ea eb : Bool) (a b : Reg)
  | mma (i32 bq outl unf acc : Bool) (d a b : Reg)
  | mpack (fmt : PackFmt) (ea eb : Bool) (d a b : Reg)
  | mtake
  | mpass (rank : BitVec 16)
  | tspawn (ea : Bool) (a : Reg)
  | tsucc (ea : Bool) (a : Reg)
  -- the 16-bit format (R80): with `k`, s is an immediate
  | mov16 (k : Bool) (d s : Reg5)
  | iadd16 (k : Bool) (d s : Reg5)
  | isub16 (k : Bool) (d s : Reg5)
  | imul16 (k : Bool) (d s : Reg5)
  | and16 (k : Bool) (d s : Reg5)
  | or16 (k : Bool) (d s : Reg5)
  | xor16 (k : Bool) (d s : Reg5)
  | shl16 (k : Bool) (d s : Reg5)
  | shr16 (k : Bool) (d s : Reg5)
  | sar16 (k : Bool) (d s : Reg5)
  | imin16 (k : Bool) (d s : Reg5)
  | imax16 (k : Bool) (d s : Reg5)
  | fadd16 (k : Bool) (d s : Reg5)
  | fsub16 (k : Bool) (d s : Reg5)
  | fmul16 (k : Bool) (d s : Reg5)
  | fmax16 (k : Bool) (d s : Reg5)
  -- steps of the engines and of issue
  | postedResultArrival (id : Nat)
  | asynchronousCauseDelivery (target : AsyncTarget)
  | matrixOperation (core quad : Nat)
  | slateObtained (core quad : Nat)
  | copyOperation (core : Nat)
  | copyRingPublication (core : Nat)
  | streamEntryFetch (group : Nat) (queue : Nat)
  | textureOperation (core : Nat)
  | rayLaunch (cluster : Nat)
  | stashFill (team side window sector : Nat)
  | nvmeReadCompletion (entry : Nat) (sct sc : Byte) (block : List Byte)
  | swappedGroupPlacement (group : Nat)
  | taskDispatch (core : Nat)
  | deviceEnqueue (n : Nat)
  | launchCompletion (launch : Nat)
  -- steps of a raster pass and of the display
  | rasterRecordTake (part queue : Nat)
  | passStartClear (pass : Nat)
  | meshletRasterisation (pass : Nat)
  | pixelGroupStart (pass : Nat)
  | pixelCommit (core : Nat)
  | tilePublication (pass : Nat)
  | passCompletion (pass : Nat)
  | lensCorrection (part stream : Nat)
  | stripScanout (part stream : Nat) (late : Bool)
  | stripCountdownEnd (part stream : Nat)
  | av1StripSend (part stream : Nat)
  | streamEnable (part stream : Nat)
  -- steps of power, time and gating
  | powerTick (env : PowerEnv)
  | leaseRequestDecision (slot : Nat)
  | leaseExpiry (cluster : Nat)
  | migration (team : Nat)
  | hangWatchdogExpiry (group : Nat)
  | yieldTimeout (group slice : Nat)
  | sleepExpiry (group slice : Nat)
  | activeSetTimeout (slot : Nat)
  | activeSetIdleLeave (slot : Nat)
  | activeSetEntry (slot : Nat)
  | gateSequenceBegin (cluster : Nat)
  | gateCommit (cluster : Nat)
  | clusterWakeUp (cluster : Nat)
  | saveBoundExpiry
  | resizeStopAndMove (team : Nat)
  -- context commands (Table 11-4), on the registers of the bank PSEL selects
  | stop
  | resume
  | save
  | restore
  | kill
  | regrd
  | regwr
  | step
  | ctxcmdUndefinedOp (op : BitVec 4)
  -- writes of privileged registers and system steps
  | tlbinvPage
  | tlbinvPartition
  | tlbInvalidationDone
  | quietReq
  | quietDetectionEnd
  | partitionReset
  | partitionEnable (en : Bool)
  | coreMaskWrite (word : BitVec 2) (value : Word)
  | l2ModeChange (priv : Bool)
  | evctlEnable (value : Word)
  | registerWrite (num : BitVec 9) (value : Word)
  | eventRingWrite
  | peerLinkFailure (link : Nat)
  | hostAccess (acc : OutsideAccess)
  | peerAccess (acc : OutsideAccess)
  | hardwareFaultDetection (f : HwFault)
  | functionReady (bit : Nat)
  | firmwareImageAccept (img : FwImage)
  | moduleReset
  | getVersion
  | getCapabilities
  | negotiateAlgorithms
  | getDigests
  | getCertificate
  | challenge (nonce : Nat)
  | getMeasurements
  | copyOnWriteCompletion (entry : Nat)
  | configurationRequest (cxlIo : Bool) (req : ConfigRequest)
  | hostSnoop (line : Nat) (invalidate : Bool)
  deriving DecidableEq, Repr

/-- The device's own steps, which have no encoding. -/
def Instr.isDeviceStep : Instr → Bool
  | .postedResultArrival _ | .asynchronousCauseDelivery _ | .matrixOperation _ _ | .slateObtained _ _ | .copyOperation _
  | .copyRingPublication _ | .streamEntryFetch _ _ | .textureOperation _ | .rayLaunch _ | .stashFill _ _ _ _
  | .nvmeReadCompletion _ _ _ _ | .swappedGroupPlacement _ | .taskDispatch _ | .deviceEnqueue _ | .launchCompletion _
  | .rasterRecordTake _ _ | .passStartClear _ | .meshletRasterisation _ | .pixelGroupStart _ | .pixelCommit _
  | .tilePublication _ | .passCompletion _ | .lensCorrection _ _ | .stripScanout _ _ _ | .stripCountdownEnd _ _
  | .av1StripSend _ _ | .streamEnable _ _ | .powerTick _ | .leaseRequestDecision _ | .leaseExpiry _ | .migration _
  | .hangWatchdogExpiry _ | .yieldTimeout _ _ | .sleepExpiry _ _ | .activeSetTimeout _ | .activeSetIdleLeave _
  | .activeSetEntry _ | .gateSequenceBegin _ | .gateCommit _ | .clusterWakeUp _ | .saveBoundExpiry | .resizeStopAndMove _
  | .stop | .resume | .save | .restore | .kill | .regrd | .regwr | .step | .ctxcmdUndefinedOp _ | .tlbinvPage
  | .tlbinvPartition | .tlbInvalidationDone | .quietReq | .quietDetectionEnd | .partitionReset | .partitionEnable _
  | .coreMaskWrite _ _ | .l2ModeChange _ | .evctlEnable _ | .registerWrite _ _ | .eventRingWrite | .peerLinkFailure _
  | .hostAccess _ | .peerAccess _ | .hardwareFaultDetection _ | .functionReady _ | .firmwareImageAccept _ | .moduleReset
  | .getVersion | .getCapabilities | .negotiateAlgorithms | .getDigests | .getCertificate | .challenge _ | .getMeasurements
  | .copyOnWriteCompletion _ | .configurationRequest _ _ | .hostSnoop _ _ => true
  | _ => false

end Sys2Proof
end

