-- ==== Sys2Proof/WellFormed.lean ====
section
/-! DEFINITION. Which instruction terms are well formed: the operand limits of Table 4-14, R86, R90, R91 and the reference entries,
and, for the device's own steps, the bounds of the unit numbers they name. -/

namespace Sys2Proof

/-- A pair field holds the even register of the pair (R86). -/
def evenReg (r : Reg) : Bool := r.toNat % 2 == 0

/-- The field of a four-register operand: a multiple of 4, at most 52 (R86). -/
def quadReg (r : Reg) : Bool := r.toNat % 4 == 0 && r.toNat ≤ 52

/-- The first of eight command or descriptor registers (R192, R206). -/
def octReg (r : Reg) : Bool := r.toNat % 8 == 0 && r.toNat ≤ 48

/-- An even register field of at most 54 (R301, R417). -/
def evenTo54 (r : Reg) : Bool := r.toNat % 2 == 0 && r.toNat ≤ 54

/-- The register limit of a data field d at an access size (R86, R386, R411). -/
def dataReg (z : Size) (d : Reg) : Bool :=
  match z with
  | .b32 => true
  | .z16 => true
  | .b64 => evenReg d
  | .b128 => quadReg d

/-- Elements per register of a conversion code (Table 4-16). -/
def Cvt.elements : Cvt → Nat
  | .f32f16 | .f16f32 | .f32bf16 | .bf16f32 => 2
  | .f32e4m3 | .e4m3f32 | .f32e5m2 | .e5m2f32 => 4
  | .f32int | .intf32 | .f32uint | .uintf32 => 1
  | .f32e2m1 | .e2m1f32 | .i4f32 | .p4f32 | .h4f32 | .f32i4 | .f32p4 | .f32h4 => 8

/-- MPACK's output register: a multiple of 4 whose range ends at or below v55 (R91). -/
def packReg (f : PackFmt) (d : Reg) : Bool :=
  d.toNat % 4 == 0 && (if f = .bf16 then d.toNat ≤ 48 else d.toNat ≤ 52)

/-- An accumulator base: 0, 16 or 32 (R91, R213). -/
def accReg (r : Reg) : Bool := r.toNat == 0 || r.toNat == 16 || r.toNat == 32

/-- The operand limits of one instruction. -/
def Instr.wellFormed : Instr → Bool
  | .imadwUint d _ _ _ => evenReg d
  | .imadwInt d _ _ _ => evenReg d
  | .iaddw _ _ d a b => evenReg d && evenReg a && evenReg b
  | .isubw _ _ d a b => evenReg d && evenReg a && evenReg b
  | .shlw _ _ d a _ => evenReg d && evenReg a
  | .fcvt c el _ _ _ _ => el.toNat < c.elements
  | .emitv _ _ _ b => b.toNat % 4 == 0
  | .pxout _ _ a => evenTo54 a
  | .tex _ _ d a _ => quadReg d && evenTo54 a
  | .texg _ _ d a _ => quadReg d && evenTo54 a
  | .tileld depth _ d _ => depth || evenTo54 d
  | .tilest depth _ d _ => depth || evenTo54 d
  | .ret _ a => evenReg a
  | .brx _ _ _ b => evenReg b
  | .ld z _ _ _ d a _ => evenReg a && dataReg z d
  | .st z _ _ _ d a _ => evenReg a && dataReg z d
  | .ldl z _ _ _ d _ _ => dataReg z d
  | .stl z _ _ _ d _ _ => dataReg z d
  | .atom op _ _ _ a b => evenReg a && (op != .cas || evenReg b)
  | .atoml op _ _ _ _ b => op != .cas || evenReg b
  | .clinePf _ _ a _ => evenReg a
  | .clineWb _ _ a _ => evenReg a
  | .clineInv _ _ a _ => evenReg a
  | .cpy _ a => octReg a
  | .qstrm _ _ _ a _ => octReg a
  | .mma _ bq _ _ _ d _ b => accReg d && (if bq then 56 ≤ b.toNat else b.toNat ≤ 55)
  | .mpack f _ _ d a b => packReg f d && accReg a && (b.toNat % 8 == 0 && b.toNat ≤ 40)
  | .mpass r => r.toNat ≤ 5 || r.toNat == 0xFFFF
  | .tspawn _ a => evenReg a
  | .tsucc _ a => evenReg a
  | .matrixOperation core quad => core < 128 && quad < 4
  | .slateObtained core quad => core < 128 && quad < 4
  | .copyOperation core => core < 128
  | .copyRingPublication core => core < 128
  | .streamEntryFetch _ q => q < 16
  | .textureOperation core => core < 128
  | .rayLaunch cluster => cluster < 32
  | .stashFill _ side window _ => side < 2 && window < 8
  | .nvmeReadCompletion _ _ _ block => block.length == 4096
  | .taskDispatch core => core < 128
  | .rasterRecordTake part queue => part < 16 && queue < 4
  | .pixelCommit core => core < 128
  | .lensCorrection part stream => part < 16 && stream < 16
  | .stripScanout part stream _ => part < 16 && stream < 16
  | .stripCountdownEnd part stream => part < 16 && stream < 16
  | .av1StripSend part stream => part < 16 && stream < 16
  | .streamEnable part stream => part < 16 && stream < 16
  | .leaseExpiry cluster => cluster < 32
  | .gateSequenceBegin cluster => cluster < 32
  | .gateCommit cluster => cluster < 32
  | .clusterWakeUp cluster => cluster < 32
  | .yieldTimeout _ slice => slice < 16
  | .sleepExpiry _ slice => slice < 16
  | .ctxcmdUndefinedOp op => op.toNat == 0 || 9 ≤ op.toNat
  | .peerLinkFailure link => link < 8
  | .functionReady bit => bit < 13
  | _ => true

/-- The instructions that have an encoding. -/
def Instr.encodable (i : Instr) : Bool := !i.isDeviceStep

end Sys2Proof
end

