-- ==== Sys2Proof/Decode.lean ====
section
/-! DEFINITION. The decoder, total on any bytes (R77 to R95), and the encoder, both written from Tables 4-1 to 4-18. -/

namespace Sys2Proof

/-- Why a decode is refused. -/
inductive DecodeError where
  /-- Fewer bytes than the instruction's length bit asks for. -/
  | truncated
  /-- Major 0x00, 0x2F or 0x3F (R93). -/
  | reservedMajor
  /-- A function field value that Table 4-14 does not assign (R93). -/
  | reservedFunction
  /-- A field that must be zero or lie in a range holds another value (R93). -/
  | reservedField
  deriving DecidableEq, Repr

/-- The field of `len` bits from bit `lo` (R3). -/
def fld (w : BitVec 32) (lo len : Nat) : BitVec len := w.extractLsb' lo len

/-- One bit as a Bool. -/
def bitAt (w : BitVec 32) (n : Nat) : Bool := w.getLsbD n

def fD (w : BitVec 32) : Reg := fld w 7 6
def fA (w : BitVec 32) : Reg := fld w 13 6
def fB (w : BitVec 32) : Reg := fld w 19 6
def fC (w : BitVec 32) : Reg5 := fld w 25 5
def fM5 (w : BitVec 32) : BitVec 5 := fld w 27 5
def fM2 (w : BitVec 32) : BitVec 2 := fld w 30 2
def fImm9 (w : BitVec 32) : BitVec 9 := fld w 23 9
def fF3 (w : BitVec 32) : BitVec 3 := fld w 20 3
def fImm16 (w : BitVec 32) : BitVec 16 := fld w 16 16
def fWF3 (w : BitVec 32) : BitVec 3 := fld w 13 3

/-- Table 4-13. -/
def Rnd.ofCode (c : BitVec 2) : Rnd := match c.toNat with | 0 => .mode | 1 => .rne | 2 => .rz | _ => .rp
def Rnd.code : Rnd → BitVec 2 | .mode => 0 | .rne => 1 | .rz => 2 | .rp => 3

/-- Table 7-1. -/
def Scope.ofCode (c : BitVec 2) : Scope := match c.toNat with | 0 => .grp | 1 => .team | 2 => .dev | _ => .sys
def Scope.code : Scope → BitVec 2 | .grp => 0 | .team => 1 | .dev => 2 | .sys => 3

/-- Table 4-9. -/
def Size.ofCode (c : BitVec 2) : Size := match c.toNat with | 0 => .b32 | 1 => .b64 | 2 => .b128 | _ => .z16
def Size.code : Size → BitVec 2 | .b32 => 0 | .b64 => 1 | .b128 => 2 | .z16 => 3

/-- Table 4-11. -/
def XMode.ofCode (c : BitVec 2) : XMode := match c.toNat with | 0 => .bc | 1 => .xor | 2 => .dn | _ => .up
def XMode.code : XMode → BitVec 2 | .bc => 0 | .xor => 1 | .dn => 2 | .up => 3

/-- Table 17-7. -/
def DotKind.ofCode (c : BitVec 2) : DotKind := match c.toNat with | 0 => .h | 1 => .bf | 2 => .e4 | _ => .e5
def DotKind.code : DotKind → BitVec 2 | .h => 0 | .bf => 1 | .e4 => 2 | .e5 => 3

/-- Table 4-15, ICMP. -/
def ICond.ofCode (c : BitVec 5) : Option ICond :=
  match c.toNat with
  | 0 => some .eq | 1 => some .ne | 2 => some .lt | 3 => some .le | 4 => some .gt | 5 => some .ge
  | 6 => some .ltu | 7 => some .leu | 8 => some .gtu | 9 => some .geu | _ => none
def ICond.code : ICond → BitVec 5
  | .eq => 0 | .ne => 1 | .lt => 2 | .le => 3 | .gt => 4 | .ge => 5 | .ltu => 6 | .leu => 7 | .gtu => 8 | .geu => 9

/-- Table 4-15, FCMP. -/
def FCond.ofCode (c : BitVec 5) : Option FCond :=
  match c.toNat with
  | 0 => some .eq | 1 => some .ne | 2 => some .lt | 3 => some .le | 4 => some .gt | 5 => some .ge
  | 6 => some .ord | 7 => some .unord | _ => none
def FCond.code : FCond → BitVec 5
  | .eq => 0 | .ne => 1 | .lt => 2 | .le => 3 | .gt => 4 | .ge => 5 | .ord => 6 | .unord => 7

/-- Table 4-16. -/
def Cvt.ofCode (c : BitVec 6) : Option Cvt :=
  match c.toNat with
  | 0 => some .f32f16 | 1 => some .f16f32 | 2 => some .f32bf16 | 3 => some .bf16f32 | 4 => some .f32e4m3 | 5 => some .e4m3f32
  | 6 => some .f32e5m2 | 7 => some .e5m2f32 | 8 => some .f32int | 9 => some .intf32 | 10 => some .f32uint | 11 => some .uintf32
  | 12 => some .f32e2m1 | 13 => some .e2m1f32 | 14 => some .i4f32 | 15 => some .p4f32 | 16 => some .h4f32 | 17 => some .f32i4
  | 18 => some .f32p4 | 19 => some .f32h4 | _ => none
def Cvt.code : Cvt → BitVec 6
  | .f32f16 => 0 | .f16f32 => 1 | .f32bf16 => 2 | .bf16f32 => 3 | .f32e4m3 => 4 | .e4m3f32 => 5 | .f32e5m2 => 6 | .e5m2f32 => 7
  | .f32int => 8 | .intf32 => 9 | .f32uint => 10 | .uintf32 => 11 | .f32e2m1 => 12 | .e2m1f32 => 13 | .i4f32 => 14 | .p4f32 => 15
  | .h4f32 => 16 | .f32i4 => 17 | .f32p4 => 18 | .f32h4 => 19

/-- Table 18-9. -/
def VoteKind.ofCode (c : BitVec 5) : Option VoteKind :=
  match c.toNat with
  | 0 => some .bal | 1 => some .balh | 2 => some .any | 3 => some .all | 4 => some .first | _ => none
def VoteKind.code : VoteKind → BitVec 5 | .bal => 0 | .balh => 1 | .any => 2 | .all => 3 | .first => 4

/-- R425. -/
def RedOp.ofCode (c : BitVec 4) : Option RedOp :=
  match c.toNat with
  | 0 => some .iadd | 1 => some .fadd | 2 => some .imin | 3 => some .imax | 4 => some .fmin | 5 => some .fmax
  | 6 => some .and | 7 => some .or | 8 => some .xor | _ => none
def RedOp.code : RedOp → BitVec 4
  | .iadd => 0 | .fadd => 1 | .imin => 2 | .imax => 3 | .fmin => 4 | .fmax => 5 | .and => 6 | .or => 7 | .xor => 8

/-- Table 16-4. -/
def AtomOp.ofCode (c : BitVec 4) : Option AtomOp :=
  match c.toNat with
  | 0 => some .add | 1 => some .min | 2 => some .max | 3 => some .minu | 4 => some .maxu | 5 => some .and | 6 => some .or
  | 7 => some .xor | 8 => some .exch | 9 => some .cas | 10 => some .fadd | _ => none
def AtomOp.code : AtomOp → BitVec 4
  | .add => 0 | .min => 1 | .max => 2 | .minu => 3 | .maxu => 4 | .and => 5 | .or => 6 | .xor => 7 | .exch => 8 | .cas => 9
  | .fadd => 10

/-- Table 12-7, the a field of ATTR. -/
def AttrKind.ofCode (c : BitVec 6) : Option AttrKind :=
  match c.toNat with | 0 => some .persp | 1 => some .lin | 2 => some .flat | _ => none
def AttrKind.code : AttrKind → BitVec 6 | .persp => 0 | .lin => 1 | .flat => 2

/-- Table 9-8. -/
def PackFmt.ofCode (c : BitVec 5) : Option PackFmt :=
  match c.toNat with | 0 => some .e4m3 | 1 => some .e5m2 | 2 => some .bf16 | 3 => some .i8 | _ => none
def PackFmt.code : PackFmt → BitVec 5 | .e4m3 => 0 | .e5m2 => 1 | .bf16 => 2 | .i8 => 3

/-- A checked decode: the instruction when every required field is zero (`zero`) and its operands are well formed. -/
def checked (zero : Bool) (i : Instr) : Except DecodeError Instr :=
  if zero && i.wellFormed then .ok i else .error .reservedField

/-- A decode whose selector has no meaning for the field's value is refused by name. -/
def selected {α : Type} (x : Option α) (f : α → Except DecodeError Instr) : Except DecodeError Instr :=
  match x with
  | some y => f y
  | none => .error .reservedFunction

/-- Major 0x01 (Table 17-10). -/
def decode01 (w : BitVec 32) : Except DecodeError Instr :=
  let ea := bitAt w 25; let eb := bitAt w 26; let d := fD w; let a := fA w; let b := fB w
  match (fM5 w).toNat with
  | 0 => .ok (.iadd ea eb d a b) | 1 => .ok (.isub ea eb d a b) | 2 => .ok (.imul ea eb d a b)
  | 3 => .ok (.imulh ea eb d a b) | 4 => .ok (.imulhu ea eb d a b) | 5 => .ok (.imin ea eb d a b)
  | 6 => .ok (.imax ea eb d a b) | 7 => .ok (.iminu ea eb d a b) | 8 => .ok (.imaxu ea eb d a b)
  | 9 => .ok (.and ea eb d a b) | 10 => .ok (.or ea eb d a b) | 11 => .ok (.xor ea eb d a b)
  | 12 => .ok (.andn ea eb d a b) | 13 => .ok (.shl ea eb d a b) | 14 => .ok (.shr ea eb d a b)
  | 15 => .ok (.sar ea eb d a b) | 16 => .ok (.iadds ea eb d a b) | 17 => .ok (.isubs ea eb d a b)
  | _ => .error .reservedFunction

/-- Major 0x02 (R380, R343, R395, R403). -/
def decode02 (w : BitVec 32) : Except DecodeError Instr :=
  let ea := bitAt w 19; let d := fD w; let a := fA w; let imm := fImm9 w
  let sh := fld w 23 5
  let shOk := fld w 28 4 == 0#4
  match (fF3 w).toNat with
  | 0 => .ok (.iaddi ea d a imm) | 1 => .ok (.imuli ea d a imm) | 2 => .ok (.andi ea d a imm)
  | 3 => .ok (.ori ea d a imm) | 4 => .ok (.xori ea d a imm)
  | 5 => checked shOk (.shli ea d a sh) | 6 => checked shOk (.shri ea d a sh) | _ => checked shOk (.sari ea d a sh)

/-- Major 0x03 (R391, R377, R351). -/
def decode03 (w : BitVec 32) : Except DecodeError Instr :=
  let ea := bitAt w 25; let d := fD w; let a := fA w
  let z := fld w 19 6 == 0#6 && !bitAt w 26
  match (fM5 w).toNat with
  | 0 => checked z (.mov ea d a) | 1 => checked z (.not ea d a) | 2 => checked z (.ineg ea d a) | 3 => checked z (.iabs ea d a)
  | 4 => checked z (.popc ea d a) | 5 => checked z (.clz ea d a) | 6 => checked z (.brev ea d a)
  | _ => .error .reservedFunction

/-- Major 0x10 (Tables 17-1, 17-5, R365). -/
def decode10 (w : BitVec 32) : Except DecodeError Instr :=
  let ea := bitAt w 25; let d := fD w; let a := fA w
  let z := fld w 19 6 == 0#6 && !bitAt w 26
  match (fM5 w).toNat with
  | 0 => checked z (.frcp ea d a) | 1 => checked z (.frsq ea d a) | 2 => checked z (.fsqrt ea d a) | 3 => checked z (.fexp2 ea d a)
  | 4 => checked z (.flog2 ea d a) | 5 => checked z (.fsin ea d a) | 6 => checked z (.fcos ea d a) | 7 => checked z (.fclass ea d a)
  | 8 => checked z (.fabs ea d a) | 9 => checked z (.fneg ea d a)
  | _ => .error .reservedFunction

/-- Major 0x13 (Table 17-9): bit [31] saturates, bits [30:29] choose, bits [28:27] round. -/
def decode13 (w : BitVec 32) : Except DecodeError Instr :=
  let ea := bitAt w 25; let eb := bitAt w 26; let d := fD w; let a := fA w; let b := fB w
  let rnd := Rnd.ofCode (fld w 27 2)
  let z := !bitAt w 31 && fld w 27 2 == 0#2
  match (fld w 29 2).toNat with
  | 0 => .ok (.hpadd (bitAt w 31) rnd ea eb d a b) | 1 => .ok (.hpmul (bitAt w 31) rnd ea eb d a b)
  | 2 => checked z (.hpmin ea eb d a b) | _ => checked z (.hpmax ea eb d a b)

/-- Major 0x1D (Tables 12-7, 13-3). -/
def decode1D (w : BitVec 32) : Except DecodeError Instr :=
  let ea := bitAt w 25; let eb := bitAt w 26; let a := fA w; let b := fB w
  let zd := fld w 7 6 == 0#6
  let zb := fld w 19 6 == 0#6 && !eb
  match (fM5 w).toNat with
  | 0 => checked zd (.emitv ea eb a b) | 1 => checked zd (.emitp ea eb a b)
  | 2 => selected (AttrKind.ofCode a) fun k => checked (!ea && !eb && fld w 23 2 == 0#2) (.attr k (fld w 19 4) (fD w))
  | 3 => checked (zd && zb) (.disc ea a) | 4 => checked (zd && zb) (.zout ea a)
  | 5 => checked (zd && !eb && fld w 20 5 == 0#5) (.pxout (bitAt w 19) ea a)
  | _ => .error .reservedFunction

/-- Major 0x1F (Tables 13-4, 13-10). -/
def decode1F (w : BitVec 32) : Except DecodeError Instr :=
  let ea := bitAt w 25; let eb := bitAt w 26; let d := fD w; let a := fA w
  let zc := !eb && fld w 20 5 == 0#5
  match (fM5 w).toNat with
  | 0 => checked zc (.tileld (bitAt w 19) ea d a) | 1 => checked zc (.tilest (bitAt w 19) ea d a)
  | 2 => checked (fld w 7 6 == 0#6 && fld w 19 6 == 0#6 && !eb) (.raygo ea a)
  | _ => .error .reservedFunction

/-- Major 0x2D (Table 14-2, R320). -/
def decode2D (w : BitVec 32) : Except DecodeError Instr :=
  let zd := fld w 7 6 == 0#6
  let zi := fImm16 w == 0#16
  match (fWF3 w).toNat with
  | 0 => .ok (.leaseReq (fD w) (fImm16 w)) | 1 => checked (zd && zi) .leaseFree | 2 => checked zi (.leaseQuery (fD w))
  | _ => .error .reservedFunction

/-- Major 0x2E (Table 4-18). -/
def decode2E (w : BitVec 32) : Except DecodeError Instr :=
  let n := fImm9 w; let d := fD w; let a := fA w; let ea := bitAt w 19
  let zd := d == 0#6
  let za := fld w 13 6 == 0#6 && !ea
  match (fF3 w).toNat with
  | 0 => checked za (.sysrd d n) | 1 => checked zd (.syswr n ea a)
  | 2 => checked (za && fld w 24 8 == 0#8) (.cyc d (bitAt w 23))
  | 3 => checked (zd && za) (.trap n) | 4 => checked (zd && za && n == 0#9) .rett | 5 => checked (zd && za) (.brk n)
  | _ => .error .reservedFunction

/-- Majors 0x30 to 0x33 (Tables 17-11, 18-6, R388, R414): `n` is the major less 0x30. Order 01 is acquire and 10 release. -/
def decodeMem (n : Nat) (w : BitVec 32) : Except DecodeError Instr :=
  let z := Size.ofCode (fld w 20 2); let sc := Scope.ofCode (fld w 22 2)
  let ea := bitAt w 19; let d := fD w; let a := fA w; let off := fld w 26 6
  let o0 := bitAt w 24; let o1 := bitAt w 25; let narrow := !bitAt w 23
  match n with
  | 0 => checked (!o1) (.ld z sc o0 ea d a off)
  | 1 => checked (!o0) (.st z sc o1 ea d a off)
  | 2 => checked (!o1 && narrow) (.ldl z (bitAt w 22) o0 ea d a off)
  | _ => checked (!o0 && narrow) (.stl z (bitAt w 22) o1 ea d a off)

/-- Major 0x36 (Table 16-9). -/
def decode36 (w : BitVec 32) : Except DecodeError Instr :=
  let sc := Scope.ofCode (fld w 22 2); let ea := bitAt w 19; let a := fA w; let off := fld w 26 6
  let z := fld w 20 2 == 0#2 && fld w 24 2 == 0#2
  match (fD w).toNat with
  | 0 => checked z (.clinePf sc ea a off) | 1 => checked z (.clineWb sc ea a off) | 2 => checked z (.clineInv sc ea a off)
  | _ => .error .reservedFunction

/-- Major 0x37 (Table 6-2). -/
def decode37 (w : BitVec 32) : Except DecodeError Instr :=
  let ea := bitAt w 25; let zb := fld w 19 6 == 0#6 && !bitAt w 26; let zd := fld w 7 6 == 0#6
  match (fM5 w).toNat with
  | 0 => checked zb (.stashMap ea (fD w) (fA w)) | 1 => checked (zb && zd) (.stashUnmap ea (fA w))
  | 2 => checked (zb && zd) (.stashFlush ea (fA w))
  | _ => .error .reservedFunction

/-- Major 0x39 (Table 8-4). -/
def decode39 (w : BitVec 32) : Except DecodeError Instr :=
  let ea := bitAt w 25; let zb := fld w 19 6 == 0#6 && !bitAt w 26; let zd := fld w 7 6 == 0#6
  match (fM5 w).toNat with
  | 0 => checked (!bitAt w 26 && fld w 20 5 == 0#5) (.slotw (bitAt w 19) ea (fD w) (fA w))
  | 1 => checked (zb && zd) (.slotr ea (fA w)) | 2 => checked (zb && zd) (.slotp ea (fA w))
  | 3 => checked (zb && zd) (.slote ea (fA w))
  | _ => .error .reservedFunction

/-- A 32-bit word by its major opcode (Table 4-14). -/
def decode32 (w : BitVec 32) : Except DecodeError Instr :=
  let ea := bitAt w 25; let eb := bitAt w 26; let d := fD w; let a := fA w; let b := fB w; let c := fC w
  let zd := fld w 7 6 == 0#6
  let zb := fld w 19 6 == 0#6 && !eb
  let zm5 := fM5 w == 0#5
  let zm2 := fM2 w == 0#2
  let zf3 := fWF3 w == 0#3
  let zimm := fImm16 w == 0#16
  match (fld w 1 6).toNat with
  | 0x01 => decode01 w
  | 0x02 => decode02 w
  | 0x03 => decode03 w
  | 0x04 => checked zm2 (.imad d a b c)
  | 0x05 => match (fM2 w).toNat with
    | 0 => checked true (.imadwUint d a b c) | 1 => checked true (.imadwInt d a b c) | _ => .error .reservedFunction
  | 0x06 => match (fM5 w).toNat with
    | 0 => checked true (.iaddw ea eb d a b) | 1 => checked true (.isubw ea eb d a b) | 2 => checked true (.shlw ea eb d a b)
    | _ => .error .reservedFunction
  | 0x07 => selected (ICond.ofCode (fM5 w)) fun k => .ok (.icmp k ea eb d a b)
  | 0x08 => checked zm2 (.sel d a b c)
  | 0x09 => match (fM2 w).toNat with
    | 0 => checked (fld w 19 6 == 0#6) (.bfe d a c) | 1 => checked (fld w 19 6 == 0#6) (.bfeu d a c)
    | 2 => .ok (.bfi d a b c) | _ => .ok (.bperm d a b c)
  | 0x0A => match (fWF3 w).toNat with
    | 0 => .ok (.movi d (fImm16 w)) | 1 => .ok (.movhi d (fImm16 w)) | _ => .error .reservedFunction
  | 0x0B => .ok (.fadd (bitAt w 31) (bitAt w 30) (bitAt w 29) (Rnd.ofCode (fld w 27 2)) ea eb d a b)
  | 0x0C => .ok (.fmul (bitAt w 31) (bitAt w 30) (bitAt w 29) (Rnd.ofCode (fld w 27 2)) ea eb d a b)
  | 0x0D => if fld w 29 3 == 0#3 then
      (if bitAt w 27 then .ok (.fmax (bitAt w 28) ea eb d a b) else .ok (.fmin (bitAt w 28) ea eb d a b))
      else .error .reservedField
  | 0x0E => .ok (.ffma (Rnd.ofCode (fM2 w)) d a b c)
  | 0x0F => selected (FCond.ofCode (fM5 w)) fun k => .ok (.fcmp k ea eb d a b)
  | 0x10 => decode10 w
  | 0x11 => checked (zb && fld w 29 3 == 0#3) (.frnd (Rnd.ofCode (fld w 27 2)) ea d a)
  | 0x12 => selected (Cvt.ofCode b) fun k => checked (!eb) (.fcvt k (fld w 29 3) (Rnd.ofCode (fld w 27 2)) ea d a)
  | 0x13 => decode13 w
  | 0x14 => .ok (.hpfma (Rnd.ofCode (fM2 w)) d a b c)
  | 0x15 => .ok (.bpfma (Rnd.ofCode (fM2 w)) d a b c)
  | 0x16 => .ok (.fdot (DotKind.ofCode (fM2 w)) d a b c)
  | 0x17 => checked (!bitAt w 31) (.sobol (bitAt w 30) d a b c)
  | 0x18 => checked (fld w 19 6 == 0#6) (.xmov (XMode.ofCode (fld w 25 2)) (fM5 w) d a)
  | 0x19 => .ok (.xfadd (XMode.ofCode (fld w 25 2)) (fM5 w) d a b)
  | 0x1A => .ok (.xiadd (XMode.ofCode (fld w 25 2)) (fM5 w) d a b)
  | 0x1B => selected (VoteKind.ofCode (fM5 w)) fun k => checked zb (.vote k ea d a)
  | 0x1C => selected (RedOp.ofCode (fld w 27 4)) fun k => checked zb (.xred k (bitAt w 31) ea d a)
  | 0x1D => decode1D w
  | 0x1E => match (fM5 w).toNat with
    | 0 => checked true (.tex ea eb d a b) | 1 => checked true (.texg ea eb d a b) | _ => .error .reservedFunction
  | 0x1F => decode1F w
  | 0x20 => .ok (.bra (bitAt w 13) (fld w 7 6) (fld w 14 18))
  | 0x21 => .ok (.brz (bitAt w 13) (fld w 7 6) (fld w 14 18))
  | 0x22 => .ok (.jmp (fld w 7 25))
  | 0x23 => .ok (.call (fld w 7 25))
  | 0x24 => checked (zd && zb && zm5) (.ret ea a)
  | 0x25 => checked (zd && zm5) (.brx ea eb a b)
  | 0x26 => checked (zd && zf3 && fld w 17 15 == 0#15) (.regang (bitAt w 16))
  | 0x27 => checked (zd && zf3 && zimm) .exit
  | 0x28 => match (fWF3 w).toNat with
    | 0 => checked (zd && fld w 18 14 == 0#14) (.bar (fld w 16 2)) | 1 => checked (zd && zimm) .barTeam
    | _ => .error .reservedFunction
  | 0x29 => checked (zd && zf3 && zimm) .yield
  | 0x2A => checked (zd && zimm) (.fence (Scope.ofCode (fld w 13 2)) (bitAt w 15))
  | 0x2B => checked (zd && zf3 && fld w 24 8 == 0#8) (.qfence (fld w 16 8))
  | 0x2C => checked (zd && zf3) (.sleep (fImm16 w))
  | 0x2D => decode2D w
  | 0x2E => decode2E w
  | 0x30 => decodeMem 0 w
  | 0x31 => decodeMem 1 w
  | 0x32 => decodeMem 2 w
  | 0x33 => decodeMem 3 w
  | 0x34 => selected (AtomOp.ofCode (fld w 25 4)) fun op => checked true (.atom op (Scope.ofCode (fld w 29 2)) (bitAt w 31) d a b)
  | 0x35 => selected (AtomOp.ofCode (fld w 25 4)) fun op => checked (!bitAt w 30) (.atoml op (bitAt w 29) (bitAt w 31) d a b)
  | 0x36 => decode36 w
  | 0x37 => decode37 w
  | 0x38 => checked (zd && zb && zm5) (.cpy ea a)
  | 0x39 => decode39 w
  | 0x3A => checked (zd && fld w 30 2 == 0#2) (.qstrm (fld w 27 3) ea eb a b)
  | 0x3B => checked (fld w 30 2 == 0#2) (.mma (bitAt w 29) (bitAt w 28) (bitAt w 27) (bitAt w 26) (bitAt w 25) d a b)
  | 0x3C => selected (PackFmt.ofCode (fM5 w)) fun k => checked true (.mpack k ea eb d a b)
  | 0x3D => match (fWF3 w).toNat with
    | 0 => checked (zd && zimm) .mtake | 1 => checked zd (.mpass (fImm16 w)) | _ => .error .reservedFunction
  | 0x3E => match (fM5 w).toNat with
    | 0 => checked (zd && zb) (.tspawn ea a) | 1 => checked (zd && zb) (.tsucc ea a) | _ => .error .reservedFunction
  | _ => .error .reservedMajor

/-- A 16-bit word: every one is an instruction (R81). -/
def decode16 (w : BitVec 16) : Instr :=
  let k := w.getLsbD 15; let s := w.extractLsb' 10 5; let d := w.extractLsb' 5 5
  match (w.extractLsb' 1 4).toNat with
  | 0 => .mov16 k d s | 1 => .iadd16 k d s | 2 => .isub16 k d s | 3 => .imul16 k d s | 4 => .and16 k d s | 5 => .or16 k d s
  | 6 => .xor16 k d s | 7 => .shl16 k d s | 8 => .shr16 k d s | 9 => .sar16 k d s | 10 => .imin16 k d s | 11 => .imax16 k d s
  | 12 => .fadd16 k d s | 13 => .fsub16 k d s | 14 => .fmul16 k d s | _ => .fmax16 k d s

/-- A fetched instruction word by its length bit (R77). -/
inductive Code where
  | half (w : BitVec 16)
  | word (w : BitVec 32)
  deriving DecidableEq, Repr

/-- The instruction of a fetched word. -/
def decodeCode : Code → Except DecodeError Instr
  | .half w => .ok (decode16 w)
  | .word w => decode32 w

/-- The word as TADDR of cause 0x01 holds it: a 16-bit word is zero-extended (Table 11-2). -/
def Code.zext : Code → Word
  | .half w => w.setWidth 32
  | .word w => w

/-- The bytes of a word, the byte at the lowest address first (R4, R77). -/
def Code.bytes : Code → List Byte
  | .half w => [w.extractLsb' 0 8, w.extractLsb' 8 8]
  | .word w => [w.extractLsb' 0 8, w.extractLsb' 8 8, w.extractLsb' 16 8, w.extractLsb' 24 8]

/-- The word that starts a byte sequence, by the length bit of its first halfword, and the rest (R77). -/
def splitCode : List Byte → Option (Code × List Byte)
  | b0 :: b1 :: rest =>
    if b0.getLsbD 0 then
      match rest with
      | b2 :: b3 :: rest' => some (.word (b3 ++ b2 ++ b1 ++ b0), rest')
      | _ => none
    else some (.half (b1 ++ b0), rest)
  | _ => none

/-- The instruction at the head of a byte sequence, and the rest. -/
def decode (bs : List Byte) : Except DecodeError (Instr × List Byte) :=
  match splitCode bs with
  | none => .error .truncated
  | some (c, rest) =>
    match decodeCode c with
    | .ok i => .ok (i, rest)
    | .error e => .error e

/-- Format R3 (Table 4-3). -/
def encR3 (major : BitVec 6) (m5 : BitVec 5) (ea eb : Bool) (d a b : Reg) : Option Code :=
  some (.word (m5 ++ BitVec.ofBool eb ++ BitVec.ofBool ea ++ b ++ a ++ d ++ major ++ 1#1))
/-- Format R4 (Table 4-4). -/
def encR4 (major : BitVec 6) (m2 : BitVec 2) (d a b : Reg) (c : Reg5) : Option Code :=
  some (.word (m2 ++ c ++ b ++ a ++ d ++ major ++ 1#1))
/-- Format I (Table 4-5). -/
def encI (major : BitVec 6) (f3 : BitVec 3) (ea : Bool) (d a : Reg) (imm : BitVec 9) : Option Code :=
  some (.word (imm ++ f3 ++ BitVec.ofBool ea ++ a ++ d ++ major ++ 1#1))
/-- Format W (Table 4-6). -/
def encW (major : BitVec 6) (f3 : BitVec 3) (d : Reg) (imm : BitVec 16) : Option Code :=
  some (.word (imm ++ f3 ++ d ++ major ++ 1#1))
/-- Format B (Table 4-7). -/
def encB (major : BitVec 6) (ea : Bool) (a : Reg) (off : BitVec 18) : Option Code :=
  some (.word (off ++ BitVec.ofBool ea ++ a ++ major ++ 1#1))
/-- Format J (Table 4-8). -/
def encJ (major : BitVec 6) (off : BitVec 25) : Option Code := some (.word (off ++ major ++ 1#1))
/-- Format M (Table 4-9). -/
def encM (major : BitVec 6) (off : BitVec 6) (order scope size : BitVec 2) (ea : Bool) (d a : Reg) : Option Code :=
  some (.word (off ++ order ++ scope ++ size ++ BitVec.ofBool ea ++ a ++ d ++ major ++ 1#1))
/-- Format A (Table 4-10). -/
def encA (major : BitVec 6) (ar : Bool) (scope : BitVec 2) (op : BitVec 4) (d a b : Reg) : Option Code :=
  some (.word (BitVec.ofBool ar ++ scope ++ op ++ b ++ a ++ d ++ major ++ 1#1))
/-- Format X (Table 4-11). -/
def encX (major : BitVec 6) (k : BitVec 5) (m : XMode) (d a b : Reg) : Option Code :=
  some (.word (k ++ m.code ++ b ++ a ++ d ++ major ++ 1#1))
/-- Table 4-1. -/
def enc16 (op : BitVec 4) (k : Bool) (d s : Reg5) : Option Code := some (.half (BitVec.ofBool k ++ s ++ d ++ op ++ 0#1))

/-- The word of an instruction; a device step has none. -/
def encode : Instr → Option Code
  | .iadd ea eb d a b => encR3 0x01 0 ea eb d a b
  | .isub ea eb d a b => encR3 0x01 1 ea eb d a b
  | .imul ea eb d a b => encR3 0x01 2 ea eb d a b
  | .imulh ea eb d a b => encR3 0x01 3 ea eb d a b
  | .imulhu ea eb d a b => encR3 0x01 4 ea eb d a b
  | .imin ea eb d a b => encR3 0x01 5 ea eb d a b
  | .imax ea eb d a b => encR3 0x01 6 ea eb d a b
  | .iminu ea eb d a b => encR3 0x01 7 ea eb d a b
  | .imaxu ea eb d a b => encR3 0x01 8 ea eb d a b
  | .and ea eb d a b => encR3 0x01 9 ea eb d a b
  | .or ea eb d a b => encR3 0x01 10 ea eb d a b
  | .xor ea eb d a b => encR3 0x01 11 ea eb d a b
  | .andn ea eb d a b => encR3 0x01 12 ea eb d a b
  | .shl ea eb d a b => encR3 0x01 13 ea eb d a b
  | .shr ea eb d a b => encR3 0x01 14 ea eb d a b
  | .sar ea eb d a b => encR3 0x01 15 ea eb d a b
  | .iadds ea eb d a b => encR3 0x01 16 ea eb d a b
  | .isubs ea eb d a b => encR3 0x01 17 ea eb d a b
  | .iaddi ea d a imm => encI 0x02 0 ea d a imm
  | .imuli ea d a imm => encI 0x02 1 ea d a imm
  | .andi ea d a imm => encI 0x02 2 ea d a imm
  | .ori ea d a imm => encI 0x02 3 ea d a imm
  | .xori ea d a imm => encI 0x02 4 ea d a imm
  | .shli ea d a n => encI 0x02 5 ea d a (0#4 ++ n)
  | .shri ea d a n => encI 0x02 6 ea d a (0#4 ++ n)
  | .sari ea d a n => encI 0x02 7 ea d a (0#4 ++ n)
  | .mov ea d a => encR3 0x03 0 ea false d a 0
  | .not ea d a => encR3 0x03 1 ea false d a 0
  | .ineg ea d a => encR3 0x03 2 ea false d a 0
  | .iabs ea d a => encR3 0x03 3 ea false d a 0
  | .popc ea d a => encR3 0x03 4 ea false d a 0
  | .clz ea d a => encR3 0x03 5 ea false d a 0
  | .brev ea d a => encR3 0x03 6 ea false d a 0
  | .imad d a b c => encR4 0x04 0 d a b c
  | .imadwUint d a b c => encR4 0x05 0 d a b c
  | .imadwInt d a b c => encR4 0x05 1 d a b c
  | .iaddw ea eb d a b => encR3 0x06 0 ea eb d a b
  | .isubw ea eb d a b => encR3 0x06 1 ea eb d a b
  | .shlw ea eb d a b => encR3 0x06 2 ea eb d a b
  | .icmp k ea eb d a b => encR3 0x07 k.code ea eb d a b
  | .sel d a b c => encR4 0x08 0 d a b c
  | .bfe d a c => encR4 0x09 0 d a 0 c
  | .bfeu d a c => encR4 0x09 1 d a 0 c
  | .bfi d a b c => encR4 0x09 2 d a b c
  | .bperm d a b c => encR4 0x09 3 d a b c
  | .movi d imm => encW 0x0A 0 d imm
  | .movhi d imm => encW 0x0A 1 d imm
  | .fadd s nb na r ea eb d a b => encR3 0x0B (BitVec.ofBool s ++ BitVec.ofBool nb ++ BitVec.ofBool na ++ r.code) ea eb d a b
  | .fmul s nb na r ea eb d a b => encR3 0x0C (BitVec.ofBool s ++ BitVec.ofBool nb ++ BitVec.ofBool na ++ r.code) ea eb d a b
  | .fmin n ea eb d a b => encR3 0x0D (0#3 ++ BitVec.ofBool n ++ 0#1) ea eb d a b
  | .fmax n ea eb d a b => encR3 0x0D (0#3 ++ BitVec.ofBool n ++ 1#1) ea eb d a b
  | .ffma r d a b c => encR4 0x0E r.code d a b c
  | .fcmp k ea eb d a b => encR3 0x0F k.code ea eb d a b
  | .frcp ea d a => encR3 0x10 0 ea false d a 0
  | .frsq ea d a => encR3 0x10 1 ea false d a 0
  | .fsqrt ea d a => encR3 0x10 2 ea false d a 0
  | .fexp2 ea d a => encR3 0x10 3 ea false d a 0
  | .flog2 ea d a => encR3 0x10 4 ea false d a 0
  | .fsin ea d a => encR3 0x10 5 ea false d a 0
  | .fcos ea d a => encR3 0x10 6 ea false d a 0
  | .fclass ea d a => encR3 0x10 7 ea false d a 0
  | .fabs ea d a => encR3 0x10 8 ea false d a 0
  | .fneg ea d a => encR3 0x10 9 ea false d a 0
  | .frnd r ea d a => encR3 0x11 (0#3 ++ r.code) ea false d a 0
  | .fcvt k el r ea d a => encR3 0x12 (el ++ r.code) ea false d a k.code
  | .hpadd s r ea eb d a b => encR3 0x13 (BitVec.ofBool s ++ 0#2 ++ r.code) ea eb d a b
  | .hpmul s r ea eb d a b => encR3 0x13 (BitVec.ofBool s ++ 1#2 ++ r.code) ea eb d a b
  | .hpmin ea eb d a b => encR3 0x13 0x08 ea eb d a b
  | .hpmax ea eb d a b => encR3 0x13 0x0C ea eb d a b
  | .hpfma r d a b c => encR4 0x14 r.code d a b c
  | .bpfma r d a b c => encR4 0x15 r.code d a b c
  | .fdot k d a b c => encR4 0x16 k.code d a b c
  | .sobol f d a b c => encR4 0x17 (0#1 ++ BitVec.ofBool f) d a b c
  | .xmov m k d a => encX 0x18 k m d a 0
  | .xfadd m k d a b => encX 0x19 k m d a b
  | .xiadd m k d a b => encX 0x1A k m d a b
  | .vote k ea d a => encR3 0x1B k.code ea false d a 0
  | .xred op sc ea d a => encR3 0x1C (BitVec.ofBool sc ++ op.code) ea false d a 0
  | .emitv ea eb a b => encR3 0x1D 0 ea eb 0 a b
  | .emitp ea eb a b => encR3 0x1D 1 ea eb 0 a b
  | .attr k n d => encR3 0x1D 2 false false d k.code (0#2 ++ n)
  | .disc ea a => encR3 0x1D 3 ea false 0 a 0
  | .zout ea a => encR3 0x1D 4 ea false 0 a 0
  | .pxout o ea a => encR3 0x1D 5 ea false 0 a (0#5 ++ BitVec.ofBool o)
  | .tex ea eb d a b => encR3 0x1E 0 ea eb d a b
  | .texg ea eb d a b => encR3 0x1E 1 ea eb d a b
  | .tileld z ea d a => encR3 0x1F 0 ea false d a (0#5 ++ BitVec.ofBool z)
  | .tilest z ea d a => encR3 0x1F 1 ea false d a (0#5 ++ BitVec.ofBool z)
  | .raygo ea a => encR3 0x1F 2 ea false 0 a 0
  | .bra ea a off => encB 0x20 ea a off
  | .brz ea a off => encB 0x21 ea a off
  | .jmp off => encJ 0x22 off
  | .call off => encJ 0x23 off
  | .ret ea a => encR3 0x24 0 ea false 0 a 0
  | .brx ea eb a b => encR3 0x25 0 ea eb 0 a b
  | .regang sp => encW 0x26 0 0 (0#15 ++ BitVec.ofBool sp)
  | .exit => encW 0x27 0 0 0
  | .bar n => encW 0x28 0 0 (0#14 ++ n)
  | .barTeam => encW 0x28 1 0 0
  | .yield => encW 0x29 0 0 0
  | .fence s sc => encW 0x2A (BitVec.ofBool sc ++ s.code) 0 0
  | .qfence m => encW 0x2B 0 0 (0#8 ++ m)
  | .sleep n => encW 0x2C 0 0 n
  | .leaseReq d n => encW 0x2D 0 d n
  | .leaseFree => encW 0x2D 1 0 0
  | .leaseQuery d => encW 0x2D 2 d 0
  | .sysrd d n => encI 0x2E 0 false d 0 n
  | .syswr n ea a => encI 0x2E 1 ea 0 a n
  | .cyc d hi => encI 0x2E 2 false d 0 (0#8 ++ BitVec.ofBool hi)
  | .trap n => encI 0x2E 3 false 0 0 n
  | .rett => encI 0x2E 4 false 0 0 0
  | .brk n => encI 0x2E 5 false 0 0 n
  | .ld z s q ea d a off => encM 0x30 off (0#1 ++ BitVec.ofBool q) s.code z.code ea d a
  | .st z s q ea d a off => encM 0x31 off (BitVec.ofBool q ++ 0#1) s.code z.code ea d a
  | .ldl z t q ea d a off => encM 0x32 off (0#1 ++ BitVec.ofBool q) (0#1 ++ BitVec.ofBool t) z.code ea d a
  | .stl z t q ea d a off => encM 0x33 off (BitVec.ofBool q ++ 0#1) (0#1 ++ BitVec.ofBool t) z.code ea d a
  | .atom op s ar d a b => encA 0x34 ar s.code op.code d a b
  | .atoml op t ar d a b => encA 0x35 ar (0#1 ++ BitVec.ofBool t) op.code d a b
  | .clinePf s ea a off => encM 0x36 off 0 s.code 0 ea 0 a
  | .clineWb s ea a off => encM 0x36 off 0 s.code 0 ea 1 a
  | .clineInv s ea a off => encM 0x36 off 0 s.code 0 ea 2 a
  | .stashMap ea d a => encR3 0x37 0 ea false d a 0
  | .stashUnmap ea a => encR3 0x37 1 ea false 0 a 0
  | .stashFlush ea a => encR3 0x37 2 ea false 0 a 0
  | .cpy ea a => encR3 0x38 0 ea false 0 a 0
  | .slotw f ea d a => encR3 0x39 0 ea false d a (0#5 ++ BitVec.ofBool f)
  | .slotr ea a => encR3 0x39 1 ea false 0 a 0
  | .slotp ea a => encR3 0x39 2 ea false 0 a 0
  | .slote ea a => encR3 0x39 3 ea false 0 a 0
  | .qstrm q ea eb a b => encR3 0x3A (0#2 ++ q) ea eb 0 a b
  | .mma i bq o u ac d a b =>
    some (.word (0#2 ++ BitVec.ofBool i ++ BitVec.ofBool bq ++ BitVec.ofBool o ++ BitVec.ofBool u ++ BitVec.ofBool ac
      ++ b ++ a ++ d ++ 0x3B#6 ++ 1#1))
  | .mpack f ea eb d a b => encR3 0x3C f.code ea eb d a b
  | .mtake => encW 0x3D 0 0 0
  | .mpass r => encW 0x3D 1 0 r
  | .tspawn ea a => encR3 0x3E 0 ea false 0 a 0
  | .tsucc ea a => encR3 0x3E 1 ea false 0 a 0
  | .mov16 k d s => enc16 0 k d s
  | .iadd16 k d s => enc16 1 k d s
  | .isub16 k d s => enc16 2 k d s
  | .imul16 k d s => enc16 3 k d s
  | .and16 k d s => enc16 4 k d s
  | .or16 k d s => enc16 5 k d s
  | .xor16 k d s => enc16 6 k d s
  | .shl16 k d s => enc16 7 k d s
  | .shr16 k d s => enc16 8 k d s
  | .sar16 k d s => enc16 9 k d s
  | .imin16 k d s => enc16 10 k d s
  | .imax16 k d s => enc16 11 k d s
  | .fadd16 k d s => enc16 12 k d s
  | .fsub16 k d s => enc16 13 k d s
  | .fmul16 k d s => enc16 14 k d s
  | .fmax16 k d s => enc16 15 k d s
  | _ => none

/-- The instruction read from the opcode table's bits: `nbits` of them, the missing ones 0, laid out as the hardware stores them. -/
def tableBytes (w : Nat) : List Byte :=
  [BitVec.ofNat 8 w, BitVec.ofNat 8 (w / 0x100), BitVec.ofNat 8 (w / 0x10000), BitVec.ofNat 8 (w / 0x1000000)]

/-- The decoder on a word of the opcode table. -/
def decodeTableWord (_nbits w : Nat) : Option Instr :=
  match decode (tableBytes w) with
  | .ok (i, _) => some i
  | .error _ => none

end Sys2Proof
end

