-- ==== Sys2Proof/Machine/State.lean ====
section
/-! DEFINITION. The state of the SX-2 as plain data, the state after reset, and the two closed types of reasons to stop. Tables are
lists of keyed entries in ascending key order. Every physical unit is numbered as R12 numbers it. A wave slot's key is
24 times its core, plus 6 times its quadrant, plus its slot number (R72). -/

namespace Sys2Proof.Machine

/-- A table of entries under natural-number keys, in ascending key order. -/
abbrev Tab (α : Type) := List (Nat × α)

/-- One element of a register: its value and poison bit, or the number of the posted result it awaits (R48, R56, R57). -/
inductive Elem where
  | full (v : Word) (poison : Bool)
  | empty (tag : Nat)
  deriving DecidableEq, Repr

/-- A lane, or the one lane of a grip or management context (R165). -/
inductive LaneId where
  | wave (group lidx : Nat)
  | grip (team : Nat)
  | mgmt (n : Nat)
  deriving DecidableEq, Repr

/-- Which context an issue acts for: one gang of a wave slot, named by the slot's key and the gang's label; a team's grip context;
a management core; or none. -/
inductive Focus where
  | wave (slot gang : Nat)
  | grip (team : Nat)
  | mgmt (n : Nat)
  | none
  deriving DecidableEq, Repr

/-- One entry of the agenda: what the module and its surroundings do next. Plain data, so that a schedule is part of a state. With
`issueLate` the accesses of the instruction are left to be performed later, each by a `perform` (R170). -/
inductive Happening where
  | issue (f : Focus)
  | issueLate (f : Focus)
  | perform (id : Nat)
  | elapse (core clocks : Nat)
  | event (i : Instr)
  deriving DecidableEq, Repr

/-! ### Slices, frames and groups -/

/-- A pending entry of a slice (R25). -/
structure PendEntry where
  pc : Addr
  lanes : LMask
  deriving DecidableEq, Repr

/-- A parked entry of a slice: the REGANG's address, whether its span is 1, and its lanes (R29). -/
structure ParkEntry where
  pc : Addr
  own : Bool
  lanes : LMask
  deriving DecidableEq, Repr

/-- One level of divergence: the running set and its counter, the pending table, and the parked entries (R23, R259). -/
structure Level where
  pc : Addr
  running : LMask
  pending : List PendEntry
  parked : List ParkEntry
  deriving DecidableEq, Repr

/-- A queue entry held for the lanes that will execute their instruction again (R63): source field, the element of each lane, and, while
the entry has not been delivered, the key of its queue and its number in the stream. -/
structure BoundPop where
  field : Nat
  elems : Tab Elem
  due : Option (Nat × Nat)
  deriving DecidableEq, Repr

/-- A trap frame (R258, Table 11-1): the faulting address, the lanes of the handler, TLANES and TDONE by lane number, each lane's
TADDR, bound pops, h registers keyed by 64 times the register plus the lane, and the handler's own divergence. -/
structure Frame where
  cause : Nat
  pc : Addr
  lanes : LMask
  tlanes : LMask
  tdone : LMask
  taddr : Tab Nat
  pops : List BoundPop
  hregs : Tab Elem
  level : Level
  deriving DecidableEq, Repr

/-- The record of an escalated trap or of a debugger stop, `debug` saying which, with the lanes that completed (R260, R269, R352). -/
structure Halt where
  cause : Nat
  debug : Bool
  pc : Addr
  tlanes : LMask
  tdone : LMask
  taddr : Tab Nat
  pops : List BoundPop
  deriving DecidableEq, Repr

/-- What a slice's running set waits for (R37, R229, R271, R321, R406). The numbers are the clock at which the wait began, and for
SLEEP its length; a lease request names its destination, its length and the tick before it. -/
inductive Wait where
  | none
  | bar (id : Nat)
  | teamBar
  | slate
  | yield (since : Nat)
  | sleep (since n : Nat)
  | lease (dest n tick : Nat)
  deriving DecidableEq, Repr

/-- One slice: the program's divergence, its frames with the newest first, what it waits for, its gang's label, the pops that its
next issue uses again, its halt record, whether a debugger lets it retire one instruction, and the BRK that it passes once: its address
and the number of frames below it (R352). -/
structure Slice where
  prog : Level
  frames : List Frame
  wait : Wait
  gang : Nat
  redo : List BoundPop
  halt : Option Halt
  stepping : Bool
  skipBrk : Option (Addr × Nat)
  deriving DecidableEq, Repr

/-- A queue register's stream: its descriptor, the side of the team whose scratchpad offsets it uses, the entries popped by
retired instructions, and the entries delivered beyond them (R62, R206, R209). -/
structure Queue where
  desc : List Word
  popped : Nat
  entries : List (List Elem)
  deriving DecidableEq, Repr

/-- A filled primitive slot of a meshlet (R285). -/
structure Prim where
  v0 : Nat
  v1 : Nat
  v2 : Nat
  views : Nat
  deriving DecidableEq, Repr

/-- A mesh group's meshlet: vertex slots, each four coordinates and the attributes, and primitive slots (R284). -/
structure Mesh where
  verts : Tab (List Word)
  prims : Tab Prim
  handed : Bool
  deriving DecidableEq, Repr

/-- A vertex in NDC after projection: X, Y in units of 2^-22, and its depth (R287). -/
structure NdcVertex where
  x : Int
  y : Int
  z : Word
  deriving DecidableEq, Repr

/-- The geometry a pixel block carries: view, the primitive's three clip-space vertices with their attributes, and the fan
triangle's vertices (R287, R291). -/
structure PixGeom where
  view : Nat
  clip : List (List Word)
  attrs : List (List Word)
  fan : List NdcVertex
  deriving DecidableEq, Repr

/-- What a pixel lane left for its commit: colour pair with its blend code, and output depth (R292, R302). -/
structure PixOut where
  colour : Option (Word × Word × Bool)
  depth : Option Word
  deriving DecidableEq, Repr

/-- A pixel group's own state: its pass, its place in pass order, TEAM of the owner team of its tile (R300), block origin, geometry, each lane's interpolated depth and what
each lane has output. -/
structure Pix where
  pass : Nat
  order : Nat
  owner : Nat
  i0 : Nat
  j0 : Nat
  geom : PixGeom
  depths : Tab Word
  outs : Tab PixOut
  deriving DecidableEq, Repr

/-- Whether a group runs, is stopped for the context interface, or is swapped out for a storage fault (R159, R265). -/
inductive GStatus where | run | stopped | swapped
  deriving DecidableEq, Repr

/-- A group (R18, R19, R21). Registers are keyed by 64 times the register plus the lane number; queues by 8 times the half plus the
queue. `seats` are the wave slots, and `base` is the position of lane 0. `pages` are the page reads it waits for, and `failed` the
entries whose read failed while it waited (R158); `fenced` are the lanes that have executed a FENCE at team scope (R171, R177). `spent` are
the clocks that it was resident on each core before its present residence there (R244). -/
structure Group where
  team : Nat
  gidx : Nat
  width : Nat
  seats : List Nat
  base : Nat
  regs : Tab Elem
  mode : Word
  fstat : Word
  merr0 : Word
  merr1 : Word
  view : Word
  slices : List Slice
  exited : LMask
  queues : Tab Queue
  status : GStatus
  ended : Bool
  mesh : Option Mesh
  pix : Option Pix
  pages : List Nat
  failed : List Nat
  fenced : LMask
  startClk : Nat
  spent : Tab Nat
  quiet : Nat
  deriving DecidableEq, Repr

/-! ### Slots, teams, launches -/

/-- An asynchronous cause pending for a wave (R262), with the team whose operation or lease it comes from. -/
structure AsyncCause where
  cause : Nat
  addr : Nat
  team : Nat
  deriving DecidableEq, Repr

/-- An entry of a reorder buffer (R52): its place in the quadrant's order of renaming, the slices that its gang's issue covers with
their active lanes, the address and the instruction (none where the fetch gives a cause), the physical registers it reads, and for each
architectural register it writes the physical register bound to it and the one bound before; and whether it has executed (R53). -/
structure RobEntry where
  stamp : Nat
  slices : List (Nat × Nat × LMask)
  pc : Addr
  instr : Option Instr
  reads : List Nat
  writes : List (Nat × Nat × Nat)
  executed : Bool
  deriving DecidableEq, Repr

/-- An occupied wave slot: its launch, the instructions its wave has retired, the lowest slice of the gang that issued last, its
pending asynchronous causes, whether it is in the active set and since when, the clock at which an entry was last ready, its order of
residence, the turns that a SLEEP still passes, whether its holder takes the slate back first (R73, R230, R252); its rename map and the
lowest slice of the gang renamed last, its reorder buffer with the oldest entry first, the registers whose lines lie in its register
image, and the registers whose elements its operand register cache holds, the latest first (R49, R52, R69 to R71, R250). -/
structure Slot where
  launch : Nat
  retired : Nat
  lastGang : Nat
  asyncs : List AsyncCause
  active : Bool
  since : Nat
  readyAt : Nat
  order : Nat
  sleepTurns : Nat
  reclaim : Bool
  map : Tab Nat
  lastNamed : Nat
  rob : List RobEntry
  stored : List Nat
  cached : List Nat
  deriving DecidableEq, Repr

/-- The bytes of a 128-byte sector of a bound stash window that are written and not written back (R140). -/
structure StashSector where
  dirty : BitVec 128
  deriving DecidableEq, Repr

/-- A bound stash window of a team on one of its cores (R138). A sector is filled when `pages` names its physical address; `sectors` holds the
dirty bytes of each. -/
structure Window where
  side : Nat
  num : Nat
  gaddr : Nat
  soff : Nat
  len : Nat
  sectors : Tab StashSector
  pages : Tab Nat
  deriving DecidableEq, Repr

/-- A grip context (R188 to R191): registers by number, its counter, whether it has ended, is stopped, or holds a cause from a
failed copy, its halt record (cause, detail, and whether a debugger stopped it), its retired instructions, its place in the issue order, and
whether it has executed a FENCE at team scope (R177). -/
structure Grip where
  regs : Tab Elem
  pc : Addr
  ended : Bool
  stopped : Bool
  stepping : Bool
  skipBrk : Option Addr
  pend : Option AsyncCause
  halt : Option (Nat × Nat × Bool)
  retired : Nat
  readyAt : Nat
  sleepUntil : Nat
  sleepTurns : Nat
  pages : List Nat
  failed : List Nat
  fenced : Bool
  deriving DecidableEq, Repr

/-- A team (R41 to R43): its launch, TEAM, coordinate, core (the even one of a pair), logical core, and its scratchpad by core
side: key 2^24 times the side plus the offset, tile memory above SCR (R297). `moving` names the groups, and says whether the grip context
too, that were stopped to be moved (R274); `doomed` says that a KILL waits for that move (R273, R276). -/
structure Team where
  launch : Nat
  no : Nat
  tx : Word
  ty : Word
  tz : Word
  core : Nat
  lcore : Nat
  pair : Bool
  scr : Nat
  tmem : Nat
  groups : List Nat
  scratch : Tab Byte
  bad : List Nat
  windows : List Window
  grip : Option Grip
  stopped : Bool
  killed : Bool
  ended : Bool
  stashErr : Bool
  resizeAt : Option Nat
  rszHeld : Bool
  moving : Option (List Nat × Bool)
  doomed : Bool
  deriving DecidableEq, Repr

/-- Where a launch came from: a task queue of its partition, or a raster pass as its mesh or pixel launch (R235, R278). -/
inductive Source where
  | queue (cls : Nat)
  | mesh (pass : Nat)
  | pixels (pass : Nat)
  deriving DecidableEq, Repr

/-- A launch (R236): its partition, source and slot, the address of its queue's descriptor when the record was taken (R256), the record's
sixteen words as copied, the kernel's two addresses (R107), the teams it has in all, has started and has ended, whether a team of it was
killed, whether its completion step is done, its core and the position of its rotation in rehearsal mode, and the core whose wake-up its
next team waits for (R255). -/
structure Launch where
  part : Nat
  src : Source
  slot : Nat
  desc : Option Nat
  words : List Word
  exec : Addr
  access : Addr
  total : Nat
  started : Nat
  ended : Nat
  killed : Bool
  complete : Bool
  rehCore : Option Nat
  rot : Nat
  hold : Option Nat
  deriving DecidableEq, Repr

/-! ### Posted results and engine operations -/

/-- What fills a posted result: data that has been read, data of an access that is still to be performed, a tile load, a special function with the flags it raises when it lands, a wait on a slot
ring, a matrix operation, or a texture operation. -/
inductive PostedKind where
  | data
  | late
  | tile
  | special (group fl : Nat)
  | slotw (header : Nat) (free : Bool) (team side : Nat)
  | matrix
  | texture
  deriving DecidableEq, Repr

/-- The result of a posted instruction that has retired (R56): its number, what fills it, its destination elements with the
values that will land, whether they land poisoned, and the peer link that a load was sent on (R330). -/
structure Posted where
  id : Nat
  kind : PostedKind
  dests : List (LaneId × Nat × Word × Bool)
  link : Option Nat
  deriving DecidableEq, Repr

/-- What an access that is still to be performed does. -/
inductive LateOp where
  | load
  | store (bs : List Byte)
  | atom (op : AtomOp) (v c1 : Word)
  deriving DecidableEq, Repr

/-- An access of a retired instruction that is still to be performed (R170): its number and that of its instruction's issue, its lane, what it
does, the team and side whose scratchpad it touches or none for global memory, its physical address or local offset, the physical address
that a bound stash window gives a scratchpad access (R184), its size, the G bit of its translation, its scope, whether it is an acquire, a
release, and the write of a team-scope release side (R171, R177), the posted result it fills and the first register of it (0 for a store),
and whether a FENCE that follows it makes every later store of the lane wait for it (R175). A b128 access is two of them (R168). -/
structure Late where
  id : Nat
  issue : Nat
  lane : LaneId
  op : LateOp
  place : Option (Nat × Nat)
  addr : Nat
  ga : Option Nat
  size : Nat
  g : Bool
  sc : Scope
  acq : Bool
  rel : Bool
  tag : Bool
  post : Nat
  dst : Nat
  fenced : Bool
  deriving DecidableEq, Repr

/-- The replacement of a leaf that a deduplicating copy has prepared (R204): the leaf's address, what it held and is to hold, the
descriptor, and whether the descriptor was made for it. -/
structure LeafSwap where
  entry : Nat
  old : Nat
  new : Nat
  desc : Nat
  fresh : Bool
  deriving DecidableEq, Repr

/-- A copy in a core's copy queue (R194): its command; once it has begun, the scratchpad offset of the ring slot it fills (0 where it fills
none); the rows, or the pages of a deduplicating copy, that are done; the replacement of a leaf that is under way; and whether all its
writes are performed. -/
structure CopyOp where
  team : Nat
  cmd : List Word
  dest : Option Nat
  parts : Nat
  swap : Option LeafSwap
  moved : Bool
  deriving DecidableEq, Repr

/-- A matrix operation of one group (R222), with the A and B records as R216 checked them (log entry 89). -/
structure MatOp where
  id : Nat
  group : Nat
  side : Nat
  i32 : Bool
  outl : Bool
  unf : Bool
  acc : Bool
  d : Nat
  ra : List Byte
  rb : List Byte
  lanes : LMask
  accIn : List (Nat × List Elem)
  deriving DecidableEq, Repr

/-- A texture operation of one group: the posted result, the gathered or filtered form, the descriptor's words, and each lane's
coordinates. -/
structure TexOp where
  id : Nat
  group : Nat
  gather : Bool
  d : Nat
  desc : List Word
  coords : List (Nat × Word × Word)
  deriving DecidableEq, Repr

/-- A ray launch in its cluster's queue (R312): its group and lanes, team and side, the record's words, the gaze once it has been read,
and the samples of the rectangle already passed. -/
structure RayOp where
  group : Nat
  lanes : LMask
  team : Nat
  side : Nat
  words : List Word
  gaze : Option (Word × Word)
  next : Nat
  deriving DecidableEq, Repr

/-- The commit of a pixel lane (R302). -/
structure TbeOp where
  pass : Nat
  order : Nat
  view : Nat
  i : Nat
  j : Nat
  depth : Word
  out : Option PixOut
  deriving DecidableEq, Repr

/-- The tile loads or stores of one group's issue (R303): the posted result of a TILELD and its first register, the group and side, and for
each lane the offset in the scratchpad and the bytes stored; a TILELD of `words` words stores none. -/
structure TileAccess where
  id : Option Nat
  group : Nat
  side : Nat
  d : Nat
  words : Nat
  lanes : List (Nat × Nat × List Byte)
  deriving DecidableEq, Repr

/-- An operation in the queue of a core's tile back end (R180). -/
inductive TileOp where
  | commit (o : TbeOp)
  | access (a : TileAccess)
  deriving DecidableEq, Repr

/-! ### Caches and translation -/

/-- A sector held in a core's L1: its physical address, the partition that filled it and the G bit of its translation, its bytes and the
dirty ones (R143, R147). -/
structure L1Sector where
  pa : Nat
  part : Nat
  g : Bool
  data : List Byte
  dirty : BitVec 128
  deriving DecidableEq, Repr

/-- A releaser tag on a line: the line, the core and the team (R177). -/
structure RelTag where
  line : Nat
  core : Nat
  team : Nat
  deriving DecidableEq, Repr

/-- A line present in the L2: its number, its home slice, the sectors filled and dirty, the partition tag, and, under their offsets, the
bytes that this home holds while memory, or another home of the line, holds others (R146, R147, R151). Lines are kept in the order in
which they were filled. -/
structure L2Line where
  line : Nat
  slice : Nat
  filled : BitVec 2
  dirty : BitVec 2
  part : Nat
  own : Tab Byte
  deriving DecidableEq, Repr

/-- A translation held by a TLB (R155): the page's number and size as a power of two, its frame, its permissions, the D bit, the
entry it came from, and the descriptor it was made through (0 for a normal leaf). -/
structure TlbEntry where
  part : Nat
  va : Nat
  bits : Nat
  frame : Nat
  r : Bool
  w : Bool
  x : Bool
  g : Bool
  dirty : Bool
  entry : Nat
  desc : Nat
  deriving DecidableEq, Repr

/-- A page read in progress (R158): the entry's address, the value it is expected to hold, the frame taken, the port, namespace and block
asked for, and the status and block of its completion once that has come; or a copy-on-write in progress (R162), with the frame once it has
been taken and the page copied there. `waiters` are the engines that wait for it. -/
structure PageRead where
  id : Nat
  part : Nat
  entry : Nat
  value : DWord
  frame : Nat
  taken : Bool
  result : Option (Byte × Byte × List Byte)
  port : Nat
  nsid : Nat
  lba : Nat
  cow : Bool
  va : Nat
  waiters : List Nat
  deriving DecidableEq, Repr

/-! ### Units of a core, a cluster and the module -/

/-- A quadrant: the slate's holder (the first wave slot's key), the holders that wait for it in order, its matrix queue, its throttle
level, the level at which R325 began to hold it, the entries renamed so far, the wave slot that renamed last, and the clock of its last
issue (R250). -/
structure Quad where
  slate : Option Nat
  waiters : List Nat
  mq : List MatOp
  level : Nat
  heldFrom : Option Nat
  named : Nat
  lastSlot : Nat
  issuedAt : Nat
  deriving DecidableEq, Repr

/-- A core: its cycle counter, its engine queues, its L1 and L1 TLB, its hottest sensor, MIGREQ.THERM, and the hold of R325. -/
structure Core where
  clk : Nat
  quads : List Quad
  copies : List CopyOp
  tex : List TexOp
  tbe : List TileOp
  l1 : List L1Sector
  tlb : List TlbEntry
  thot : Int
  hotQuad : Nat
  therm : Bool
  hot : Bool
  deriving DecidableEq, Repr

/-- A lease: the keys of its holder's wave slots, the team that asked for it, and the microseconds that remain (R320). -/
structure Lease where
  slots : List Nat
  team : Nat
  us : Nat
  deriving DecidableEq, Repr

/-- A cluster's clock gate (R255): running with the clock at which it last became idle, sequence begun at a clock, stopped, or
waking. -/
inductive Gate where
  | on
  | seq (since : Nat)
  | off
  | waking
  deriving DecidableEq, Repr

/-- A cluster: its lease, its clock in MHz, how far R326 has lowered its sprint clock, its gate, the count of its clocks and the clock since which it is idle, and its ray
queue. -/
structure Cluster where
  lease : Option Lease
  mhz : Nat
  lowered : Nat
  gate : Gate
  clk : Nat
  idleAt : Nat
  rays : List RayOp
  deriving DecidableEq, Repr

/-- An enqueue under way (R241): its partition, who asked for it (lanes of a group, a grip context, a management core, or, with none of
them, the completion of a launch), the record's words, the slot reserved if any, whether its record has been written there, and whether
the write has failed. -/
structure EnqOp where
  part : Nat
  group : Option (Nat × LMask)
  grip : Option Nat
  mgmt : Option Nat
  words : List Word
  slot : Option Nat
  written : Bool
  failed : Bool
  deriving DecidableEq, Repr

/-- A record at the head of a task queue whose teams are being placed (R247), with its HEAD value. -/
structure HeadRec where
  launch : Nat
  head : Nat
  deriving DecidableEq, Repr

/-- A refusal that the dispatcher still has to record (R240, R458): the descriptor's address if there is one, whether it is a raster
queue's, the queue, the slot index, the code, and the class that an event of code 7 names. -/
structure Refused where
  desc : Option Nat
  raster : Bool
  queue : Nat
  ridx : Nat
  code : Nat
  cls : Nat
  deriving DecidableEq, Repr

/-- An eviction schedule entry as read when EVCTL.EN was written (Table 6-3). -/
structure EvEntry where
  base : Nat
  limit : Nat
  prio : Nat
  deriving DecidableEq, Repr

/-- A live descriptor of the deduplication index (R204). -/
structure DedupEntry where
  fp : DWord
  desc : Nat
  deriving DecidableEq, Repr

/-- A partition: its banked registers that hold other values than reset ones, by number; its dispatcher's pass and deficits, the
queue it visits next and whether it was backlogged; the records being placed; its enqueues under way, the refusals still to be recorded,
page reads, the entries whose read failed with the engine that waited, the dedup index and the place of the next descriptor; its schedule;
whether a TLB invalidation, a reset or a termination detection is in progress; its raster queues' passes; the digest of its configuration
when EN was last set; the cores being removed from it; and the messages that each die has sent for it over the die-to-die and peer links, and
received (R254). -/
structure Part where
  regs : Tab Word
  pass : Nat
  deficits : Tab Int
  cursor : Nat
  backlogged : Bool
  heads : Tab HeadRec
  enqs : List EnqOp
  refusals : List Refused
  reads : List PageRead
  failed : List (Nat × Nat)
  index : List DedupEntry
  descNext : Nat
  sched : List EvEntry
  quietAt : Option (List Nat)
  resetting : Bool
  badDesc : List Nat
  measured : Nat
  removing : List Nat
  sent : Tab Nat
  received : Tab Nat
  deriving DecidableEq, Repr

/-- A pixel block that waits for its pixel group (R289). -/
structure PixBlock where
  i0 : Nat
  j0 : Nat
  order : Nat
  mask : LMask
  geom : PixGeom
  depths : Tab Word
  deriving DecidableEq, Repr

/-- How far a raster pass is. -/
inductive PassPhase where | taken | cleared | publishing (q : Nat) | done
  deriving DecidableEq, Repr

/-- A raster pass (R277, R289): the partition and queue, the slot its record came from, the record's 48 words as copied, the view
records' words, the latched gaze of each view, its mesh, pixel and owner launches, how many meshlets were rasterised, the pixel
blocks that wait, the order number of the next block, its phase, and the hierarchical bounds: lowest and highest depth of the 8 by 8
block (i, j) of view v under the key 2^24 v + 2^12 j + i (R293). -/
structure Pass where
  part : Nat
  queue : Nat
  head : Nat
  recAddr : Nat
  words : List Word
  views : List (List Word)
  gaze : Tab (Word × Word)
  mesh : Nat
  pixels : Nat
  owner : Nat
  rasterised : Nat
  blocks : List PixBlock
  nextOrder : Nat
  phase : PassPhase
  hier : Tab (Word × Word)
  deriving DecidableEq, Repr

/-- The colour description that the sequence header of an AV1 stream carries (R307). -/
structure Av1Header where
  colorPrimaries : Nat
  transferCharacteristics : Nat
  matrixCoefficients : Nat
  colorRange : Nat
  chromaSamplePosition : Nat
  deriving DecidableEq, Repr

/-- A display stream (R306 to R311): its descriptor's and timing record's words as read, the microsecond at which each strip was
latched, the strips corrected and waiting, those sent late that are discarded when they become ready, the codes last sent for each
strip, the bytes of an AV1 stream's tile groups, the colour description of the sequence header sent with them, its clock, and the output
slots that are read and wait for an older slot of their ring before they are released, each by its team and its index. -/
structure Stream where
  on : Bool
  desc : List Word
  timing : List Word
  latches : Tab Nat
  ready : Tab (List Word)
  expired : List Nat
  sent : Tab (List Word)
  out : List Byte
  header : Option Av1Header
  us : Nat
  taken : List (Nat × Nat)
  deriving DecidableEq, Repr

/-- A step of the controller's history (R326): a quadrant raised by one level, or a cluster's clock lowered by 50 MHz. -/
inductive PowerStep where
  | raise (core quad : Nat)
  | slow (cluster : Nat)
  deriving DecidableEq, Repr

/-- The power controller (R316 to R326): ticks taken, the melted energy in microjoules, refreeze state and count, the reading and
the unanswered ticks of each sensor, the history with the latest step first, the board power in milliwatts of a tick whose lease decisions
are not all taken, and the leases as they stood at the end of the latest tick. -/
structure Power where
  ticks : Nat
  meltMicroJ : Nat
  refreeze : Bool
  count : Nat
  full : Bool
  sensors : Tab (Int × Nat)
  history : List PowerStep
  opened : Option Nat
  leases : Tab Lease
  deriving DecidableEq, Repr

/-- A management core: the registers and counter of its context (R96, R97), its cycle counter (R268), and whether its firmware runs or
has stopped on a cause. -/
structure Mgmt where
  regs : Tab Elem
  clk : Nat
  pc : Addr
  running : Bool
  cause : Nat
  retired : Nat
  sleepUntil : Nat
  pages : List Nat
  failed : List Nat
  deriving DecidableEq, Repr

/-- Root of trust (R338, R339): whether an image is verified and runs, its digest and version, the one accepted for the next reset,
how far the responder's negotiation is, and its last reply. -/
structure Trust where
  verified : Bool
  digest : Nat
  version : Nat
  pending : Option (Nat × Nat)
  stage : Nat
  reply : List Nat
  deriving DecidableEq, Repr

/-- What was read back for the outside: the last host or peer read, and the last configuration answer; the lines of device memory that
the host holds, with those that it holds modified (R186); and the bytes that requests have written to configuration space and to the
management mailboxes (R328). -/
structure Outside where
  data : List Byte
  poison : Bool
  status : Nat
  hostLines : List Nat
  hostDirty : List Nat
  control : Tab Byte
  deriving DecidableEq, Repr

/-- The part of a context image whose form is not architectural (R266), kept beside the image's bytes under a number that the image
holds: the team's number, the team, its groups by number, its slots in placement order, and the rotation's position (R253). -/
structure Image where
  id : Nat
  tid : Nat
  team : Team
  groups : Tab Group
  slots : List (Nat × Slot)
  rot : Nat
  deriving DecidableEq, Repr

/-- A save in progress (R266, R268): the bank, the team, the image's address, the management core's cycle counter at its start, the pieces
of the image written so far, and the image's number. -/
structure Saving where
  part : Nat
  team : Nat
  pa : Nat
  since : Nat
  pieces : Nat
  id : Nat
  deriving DecidableEq, Repr

/-- The fuses that CAPS and CAPS2 report (R336). -/
structure Fuses where
  ver : Nat
  ncore : Nat
  nslice : Nat
  nhbm : Nat
  nssd : Nat
  npeer : Nat
  ngfe : Nat
  nav1 : Nat
  ndp : Nat
  svn : Nat
  deriving DecidableEq, Repr

/-- Entities that programs create: groups, slots, teams, launches, passes, streams and images, by number. -/
structure Work where
  groups : Tab Group
  slots : Tab Slot
  teams : Tab Team
  launches : Tab Launch
  passes : Tab Pass
  streams : Tab Stream
  images : List Image
  nextId : Nat
  deriving DecidableEq, Repr

/-- Units and controllers of the module. `tagReads` are the tagged lines that a lane has read, by number: a later FENCE of the lane at a wide
scope makes the read an acquire (R171, R178). `badNs` are the namespaces, as port and NSID, whose active LBA format is not one of 4,096-byte
data without metadata (R332). -/
structure Units where
  cores : Tab Core
  clusters : Tab Cluster
  parts : Tab Part
  dieTlb : List (Nat × TlbEntry)
  l2 : List L2Line
  tags : List RelTag
  tagReads : List (LaneId × Nat)
  power : Power
  mgmt : List Mgmt
  trust : Trust
  events : List (List Byte)
  saving : List Saving
  sysRegs : Tab Word
  ready : BitVec 13
  fuses : Fuses
  linkDown : List Nat
  badNs : List (Nat × Nat)
  deriving DecidableEq, Repr

/-- The machine. `mem` holds bytes by physical address in canonical form, `memPoison` the poisoned ones, `nextTag` the number of
the next posted result, `late` the accesses that are still to be performed, the oldest first, `deferring` the number of the issue whose
instruction leaves its accesses there (R170), `freeIx` the counter that indexes free values, `agenda` what happens next, and `focus` who issues. -/
structure State where
  mem : List Host.Cell
  memPoison : List Nat
  work : Work
  units : Units
  posted : List Posted
  nextTag : Nat
  late : List Late
  deferring : Option Nat
  freeIx : Nat
  outside : Outside
  agenda : List Happening
  focus : Focus
  deriving DecidableEq, Repr

/-- Why a step can stop the model. -/
inductive Fault where
  /-- Raised by the meaning of an instruction with an encoding when no context issues it: `focus` is `none` or names no gang with
  a running set, no grip context and no management core. Safe: the part issues an instruction only for a context. -/
  | noIssuer
  deriving DecidableEq, Repr

/-- Why an instruction has no meaning. -/
inductive Refusal where
  /-- Answered by an arm of `exec` whose instruction is not modelled yet. Safe. -/
  | notModelled (mnemonic : String)
  deriving DecidableEq, Repr

/-- An idle quadrant at reset. -/
def Quad.reset : Quad :=
  { slate := none, waiters := [], mq := [], level := 0, heldFrom := none, named := 0, lastSlot := 0, issuedAt := 0 }

/-- A core at reset: counter 0 (R46), empty queues and caches. -/
def Core.reset : Core :=
  { clk := 0, quads := [Quad.reset, Quad.reset, Quad.reset, Quad.reset], copies := [], tex := [], tbe := [], l1 := [], tlb := [],
    thot := 0, hotQuad := 0, therm := false, hot := false }

/-- A cluster at reset: no lease, the main clock (R317). -/
def Cluster.reset : Cluster := { lease := none, mhz := 1700, lowered := 0, gate := .on, clk := 0, idleAt := 0, rays := [] }

/-- A partition at reset: every banked register at its reset value, pass and deficits 0 (R244, R246). -/
def Part.reset : Part :=
  { regs := [], pass := 0, deficits := [], cursor := 0, backlogged := false, heads := [], enqs := [], refusals := [], reads := [], failed := [], index := [],
    descNext := 0, sched := [], quietAt := none, resetting := false, badDesc := [], measured := 0, removing := [], sent := [], received := [] }

/-- A management core at reset: no firmware verified (R338). -/
def Mgmt.reset : Mgmt :=
  { regs := [], clk := 0, pc := 0, running := false, cause := 0, retired := 0, sleepUntil := 0, pages := [], failed := [] }

/-- The full part's fuses (R12, R13, R336), version 1. -/
def Fuses.full : Fuses :=
  { ver := 1, ncore := 128, nslice := 256, nhbm := 64, nssd := 8, npeer := 8, ngfe := 8, nav1 := 16, ndp := 2, svn := 0 }

def Power.reset : Power :=
  { ticks := 0, meltMicroJ := 0, refreeze := false, count := 0, full := false, sensors := [], history := [],
    opened := none, leases := [] }

def Trust.reset : Trust := { verified := false, digest := 0, version := 0, pending := none, stage := 0, reply := [] }

def Outside.reset : Outside := { data := [], poison := false, status := 0, hostLines := [], hostDirty := [], control := [] }

def Work.reset : Work :=
  { groups := [], slots := [], teams := [], launches := [], passes := [], streams := [], images := [], nextId := 0 }

def Units.reset : Units :=
  { cores := [], clusters := [], parts := [], dieTlb := [], l2 := [], tags := [], tagReads := [], power := Power.reset,
    mgmt := [Mgmt.reset, Mgmt.reset], trust := Trust.reset, events := [], saving := [], sysRegs := [], ready := 0,
    fuses := Fuses.full, linkDown := [], badNs := [] }

/-- The machine right after module reset: nothing placed, every register at its reset value, memory with nothing listed. -/
def State.reset : State :=
  { mem := [], memPoison := [], work := Work.reset, units := Units.reset, posted := [], nextTag := 1, late := [], deferring := none, freeIx := 0,
    outside := Outside.reset, agenda := [], focus := .none }

end Sys2Proof.Machine
end

