-- ==== Sys2Proof/Machine/Maps.lean ====
section
/-! DEFINITION. Reading and writing tables, and lists of lane numbers. -/

namespace Sys2Proof.Machine

/-- The entry under key `k`. -/
def tget? {α : Type} (t : Tab α) (k : Nat) : Option α :=
  match t with
  | [] => none
  | (k', v) :: rest => if k' = k then some v else tget? rest k

/-- The entry under key `k`, or `d`. -/
def tgetD {α : Type} (t : Tab α) (k : Nat) (d : α) : α := (tget? t k).getD d

/-- The table with `v` under key `k`, in key order. -/
def tput {α : Type} (t : Tab α) (k : Nat) (v : α) : Tab α :=
  match t with
  | [] => [(k, v)]
  | (k', v') :: rest =>
    if k < k' then (k, v) :: (k', v') :: rest
    else if k = k' then (k, v) :: rest
    else (k', v') :: tput rest k v

/-- The table without key `k`. -/
def tdel {α : Type} (t : Tab α) (k : Nat) : Tab α := t.filter (fun e => e.1 != k)

/-- The table with the entry under `k`, if any, changed by `f`. -/
def tmod {α : Type} (t : Tab α) (k : Nat) (f : α → α) : Tab α :=
  match tget? t k with
  | some v => tput t k (f v)
  | none => t

/-- The keys that are not below `k` are moved to the end: one turn of a cyclic order that begins at `k`. -/
def rotateFrom (keys : List Nat) (k : Nat) : List Nat := keys.filter (k ≤ ·) ++ keys.filter (· < k)

/-- The lane numbers of a mask in ascending order. -/
def lanesOf (m : LMask) : List Nat := (List.range 64).filter m.getLsbD

/-- The mask of one lane. -/
def laneBit (l : Nat) : LMask := 1#64 <<< l

/-- The mask of a list of lanes. -/
def maskOf (ls : List Nat) : LMask := ls.foldl (fun m l => m ||| laneBit l) 0

/-- The four lanes of slice `n` of a group. -/
def sliceMask (n : Nat) : LMask := 0xF#64 <<< (4 * n)

/-- Insertion in ascending order without repetition. -/
def insertNat (k : Nat) : List Nat → List Nat
  | [] => [k]
  | x :: xs => if k < x then k :: x :: xs else if k = x then x :: xs else x :: insertNat k xs

/-- The distinct members of a list in ascending order. -/
def sortNat (l : List Nat) : List Nat := l.foldl (fun acc x => insertNat x acc) []

/-- The least member of a list, if any. -/
def leastOf (l : List Nat) : Option Nat := l.foldl (fun m x => match m with | none => some x | some y => some (min x y)) none

/-- The member of a list with the least measure, the first among equals. -/
def argMin {α : Type} (f : α → Nat) : List α → Option α
  | [] => none
  | x :: xs =>
    match argMin f xs with
    | none => some x
    | some y => if f y < f x then some y else some x

/-- `xs` with the element at `n` changed. -/
def modifyNth {α : Type} (xs : List α) (n : Nat) (f : α → α) : List α :=
  match xs, n with
  | [], _ => []
  | x :: xs, 0 => f x :: xs
  | x :: xs, n + 1 => x :: modifyNth xs n f

/-- Bits `hi` down to `lo` of a number (R3). -/
def bits (x hi lo : Nat) : Nat := x / 2 ^ lo % 2 ^ (hi + 1 - lo)

/-- One bit of a number. -/
def bit (x n : Nat) : Bool := x / 2 ^ n % 2 = 1

/-- A 32-bit word read as int32. -/
def sint (w : Word) : Int := w.toInt

/-- The two's complement value of the low `n` bits of `x`. -/
def sextNat (x n : Nat) : Int :=
  let m := x % 2 ^ n
  if 2 * m < 2 ^ n then m else (m : Int) - (2 ^ n : Nat)

/-- A natural number read modulo 2^32. -/
def w32 (n : Nat) : Word := BitVec.ofNat 32 n

/-- An integer modulo 2^32. -/
def wInt (n : Int) : Word := BitVec.ofInt 32 n

/-- A 64-bit value from its low and high words. -/
def pairNat (lo hi : Word) : Nat := lo.toNat + 0x100000000 * hi.toNat

/-- The little-endian value of a list of bytes (R4). -/
def leNat : List Byte → Nat
  | [] => 0
  | b :: bs => b.toNat + 256 * leNat bs

/-- `n` little-endian bytes of a value (R4). -/
def leBytes : Nat → Nat → List Byte
  | 0, _ => []
  | n + 1, v => BitVec.ofNat 8 v :: leBytes n (v / 256)

/-- The 32-bit words of a list of bytes. -/
def wordsOf : List Byte → List Word
  | a :: b :: c :: d :: rest => w32 (leNat [a, b, c, d]) :: wordsOf rest
  | _ => []

/-- The bytes of a list of words. -/
def bytesOf (ws : List Word) : List Byte := ws.flatMap (fun w => leBytes 4 w.toNat)

/-- Word `n` of a record. -/
def wordAt (ws : List Word) (n : Nat) : Nat := (ws.getD n 0).toNat

/-- The 64-bit value at words `n` and `n + 1` of a record. -/
def dwordAt (ws : List Word) (n : Nat) : Nat := wordAt ws n + 0x100000000 * wordAt ws (n + 1)

end Sys2Proof.Machine
end

