-- ==== Sys2Proof/Machine/Flags.lean ====
section
/-! DEFINITION. Number formats, rounding and flags (R111 to R126, R133): values are exact until they are rounded. -/

namespace Sys2Proof.Machine

/-- Rounding modes as MODE[1:0] numbers them (Table 5-2). -/
inductive RMode where | rne | rtz | rup | rdn
  deriving DecidableEq, Repr

/-- MODE[1:0]. -/
def modeRm (mode : Word) : RMode :=
  match mode.toNat % 4 with | 0 => .rne | 1 => .rtz | 2 => .rup | _ => .rdn

/-- An instruction's rounding field resolved against MODE (Table 4-13). -/
def resolveRm (r : Rnd) (mode : Word) : RMode :=
  match r with | .mode => modeRm mode | .rne => .rne | .rz => .rtz | .rp => .rup

/-- MODE[3], flush subnormals. -/
def modeFtz (mode : Word) : Bool := mode.getLsbD 3

/-- MODE[2], FP8 saturation. -/
def modeSat (mode : Word) : Bool := mode.getLsbD 2

/-- An exact value: a NaN (signalling or not), an infinity, or `± num / den` with a signed zero. -/
inductive Num where
  | nan (signalling : Bool)
  | inf (neg : Bool)
  | fin (neg : Bool) (num den : Nat)
  deriving DecidableEq, Repr

/-- A binary format of Table 5-1: fraction and exponent bits, bias, and whether it has infinities. -/
structure Fmt where
  fbits : Nat
  ebits : Nat
  bias : Nat
  hasInf : Bool
  deriving DecidableEq, Repr

def fp32 : Fmt := ⟨23, 8, 127, true⟩
def fp16 : Fmt := ⟨10, 5, 15, true⟩
def bf16 : Fmt := ⟨7, 8, 127, true⟩
def e4m3 : Fmt := ⟨3, 4, 7, false⟩
def e5m2 : Fmt := ⟨2, 5, 15, true⟩

/-- The width of a format. -/
def fmtWidth (f : Fmt) : Nat := 1 + f.ebits + f.fbits

/-- The magnitude code of the largest finite value (Table 5-1). -/
def fmtMax (f : Fmt) : Nat :=
  if f.hasInf then (2 ^ f.ebits - 1) * 2 ^ f.fbits - 1 else 2 ^ (f.ebits + f.fbits) - 2

/-- The magnitude code of infinity; for E4M3, of its NaN. -/
def fmtInf (f : Fmt) : Nat := if f.hasInf then (2 ^ f.ebits - 1) * 2 ^ f.fbits else 2 ^ (f.ebits + f.fbits) - 1

/-- The canonical NaN (R113). -/
def fmtNan (f : Fmt) : Nat :=
  if f.hasInf then (2 ^ f.ebits - 1) * 2 ^ f.fbits + 2 ^ (f.fbits - 1) else 2 ^ (f.ebits + f.fbits) - 1

/-- A sign bit placed above a magnitude code. -/
def withSign (f : Fmt) (neg : Bool) (code : Nat) : Nat := if neg then code + 2 ^ (f.ebits + f.fbits) else code

/-- `m × 2^e` as an exact value. -/
def scaled (neg : Bool) (m : Nat) (e : Int) : Num :=
  if 0 ≤ e then .fin neg (m * 2 ^ e.toNat) 1 else .fin neg m (2 ^ (-e).toNat)

/-- The value of a code (R111, R112). Signalling NaNs exist in FP32, FP16 and BF16 only. -/
def decodeFp (f : Fmt) (code : Nat) : Num :=
  let neg := bit code (f.ebits + f.fbits)
  let ex := code / 2 ^ f.fbits % 2 ^ f.ebits
  let fr := code % 2 ^ f.fbits
  if f.hasInf && ex = 2 ^ f.ebits - 1 then
    if fr = 0 then .inf neg else .nan (fr < 2 ^ (f.fbits - 1) && f.fbits ≠ 2)
  else if !f.hasInf && code % 2 ^ (f.ebits + f.fbits) = 2 ^ (f.ebits + f.fbits) - 1 then .nan false
  else if ex = 0 then scaled neg fr (1 - (f.bias : Int) - f.fbits)
  else scaled neg (2 ^ f.fbits + fr) ((ex : Int) - f.bias - f.fbits)

/-- Whether a code is a subnormal other than zero. -/
def isSubnormal (f : Fmt) (code : Nat) : Bool :=
  code / 2 ^ f.fbits % 2 ^ f.ebits = 0 && code % 2 ^ f.fbits ≠ 0

/-- A code as vector arithmetic reads it: with `ftz`, a subnormal is a zero of its sign (R115). -/
def readFp (f : Fmt) (ftz : Bool) (code : Nat) : Num :=
  if ftz && isSubnormal f code then .fin (bit code (f.ebits + f.fbits)) 0 1 else decodeFp f code

/-- FSTAT flags as a number: 1 invalid, 2 divide-by-zero, 4 overflow, 8 underflow, 16 inexact (Table 5-2). -/
abbrev Flags := Nat

def flInv : Flags := 1
def flDz : Flags := 2
def flOvf : Flags := 4
def flUnf : Flags := 8
def flInx : Flags := 16

/-- The flags of two steps together. -/
def flOr (a b : Flags) : Flags := a ||| b

/-- Whether a quotient `k` with remainder `r` of `d` is rounded up in magnitude. -/
def roundUp (rm : RMode) (neg : Bool) (k r d : Nat) : Bool :=
  match rm with
  | .rne => 2 * r > d || (2 * r = d && k % 2 = 1)
  | .rtz => false
  | .rup => r ≠ 0 && !neg
  | .rdn => r ≠ 0 && neg

/-- The exponent of a non-zero magnitude: the e with 2^e ≤ num ÷ den < 2^(e+1). -/
def magExp (num den : Nat) : Int :=
  let l : Int := (num.log2 : Int) - den.log2
  let below := if 0 ≤ l then num < den * 2 ^ l.toNat else num * 2 ^ (-l).toNat < den
  if below then l - 1 else l

/-- `num ÷ (den × 2^q)` as quotient, remainder and divisor. -/
def divScaled (num den : Nat) (q : Int) : Nat × Nat × Nat :=
  if 0 ≤ q then
    let d := den * 2 ^ q.toNat
    (num / d, num % d, d)
  else
    let n := num * 2 ^ (-q).toNat
    (n / den, n % den, den)

/-- A magnitude rounded to a format's spacing, as a magnitude code that may exceed the format's largest, and whether it is exact. -/
def roundMag (f : Fmt) (rm : RMode) (neg : Bool) (num den : Nat) : Nat × Bool :=
  if num = 0 then (0, true)
  else
    let e := magExp num den
    let q := max (e - f.fbits) (1 - (f.bias : Int) - f.fbits)
    let (k, r, d) := divScaled num den q
    let k' := if roundUp rm neg k r d then k + 1 else k
    (((q + f.fbits + f.bias - 1).toNat) * 2 ^ f.fbits + k', r = 0)

/-- Whether an overflow under a mode gives an infinity (R114). -/
def overflowsToInf (rm : RMode) (neg : Bool) : Bool :=
  match rm with | .rne => true | .rtz => false | .rup => !neg | .rdn => neg

/-- Whether a magnitude lies below the format's smallest normal (R118). -/
def belowNormal (f : Fmt) (num den : Nat) : Bool := num ≠ 0 && num * 2 ^ (f.bias - 1) < den

/-- R114, R115 and R118: the code of an exact value in FP32, FP16 or BF16, and its flags. -/
def roundFp (f : Fmt) (rm : RMode) (ftz : Bool) (x : Num) : Nat × Flags :=
  match x with
  | .nan s => (fmtNan f, if s then flInv else 0)
  | .inf neg => (withSign f neg (fmtInf f), 0)
  | .fin neg num den =>
    let (c, exact) := roundMag f rm neg num den
    if fmtMax f < c then
      (withSign f neg (if overflowsToInf rm neg then fmtInf f else fmtMax f), flOvf + flInx)
    else if ftz && c ≠ 0 && c < 2 ^ f.fbits then (withSign f neg 0, flUnf + flInx)
    else if exact then (withSign f neg c, 0)
    else (withSign f neg c, (if belowNormal f num den then flUnf else 0) + flInx)

/-- R116: conversion into E4M3 or E5M2 with saturation `sat`. -/
def roundFp8 (f : Fmt) (rm : RMode) (sat : Bool) (x : Num) : Nat × Flags :=
  match x with
  | .nan s => (fmtNan f, if s then flInv else 0)
  | .inf neg =>
    (withSign f neg (if sat then fmtMax f else fmtInf f), if f.hasInf then 0 else flInv)
  | .fin neg num den =>
    let (c, exact) := roundMag f rm neg num den
    if fmtMax f < c then
      (withSign f neg (if sat then fmtMax f else if overflowsToInf rm neg then fmtInf f else fmtMax f), flOvf + flInx)
    else if exact then (withSign f neg c, 0)
    else (withSign f neg c, (if belowNormal f num den then flUnf else 0) + flInx)

/-! ### Exact arithmetic -/

/-- The negative of a value. -/
def numNeg : Num → Num
  | .nan s => .nan s
  | .inf n => .inf (!n)
  | .fin n a b => .fin (!n) a b

/-- Whether a value is a NaN, and whether it is a signalling one. -/
def isNan : Num → Bool | .nan _ => true | _ => false
def isSnan : Num → Bool | .nan s => s | _ => false

/-- The invalid flag that signalling NaN operands raise (R118). -/
def snanFlag (xs : List Num) : Flags := if xs.any isSnan then flInv else 0

/-- A finite magnitude as a signed numerator. -/
def sgn (neg : Bool) (n : Nat) : Int := if neg then -(n : Int) else n

/-- The exact sum; `rm` decides only the sign of an exact zero sum of opposite signs (R114). -/
def numAdd (rm : RMode) (x y : Num) : Num × Flags :=
  let f := snanFlag [x, y]
  match x, y with
  | .nan _, _ => (.nan false, f)
  | _, .nan _ => (.nan false, f)
  | .inf a, .inf b => if a = b then (.inf a, f) else (.nan false, flInv)
  | .inf a, _ => (.inf a, f)
  | _, .inf b => (.inf b, f)
  | .fin na a b, .fin nc c d =>
    let s := sgn na (a * d) + sgn nc (c * b)
    if s = 0 then
      (.fin (if a = 0 && c = 0 && na = nc then na else rm = .rdn) 0 1, f)
    else (.fin (s < 0) s.natAbs (b * d), f)

/-- The exact product. -/
def numMul (x y : Num) : Num × Flags :=
  let f := snanFlag [x, y]
  match x, y with
  | .nan _, _ => (.nan false, f)
  | _, .nan _ => (.nan false, f)
  | .inf a, .inf b => (.inf (a != b), f)
  | .inf a, .fin b n _ => if n = 0 then (.nan false, flInv) else (.inf (a != b), f)
  | .fin a n _, .inf b => if n = 0 then (.nan false, flInv) else (.inf (a != b), f)
  | .fin na a b, .fin nc c d => (.fin (na != nc) (a * c) (b * d), f)

/-- The exact `x × y + z`. -/
def numFma (rm : RMode) (x y z : Num) : Num × Flags :=
  let (p, f) := numMul x y
  let (s, g) := numAdd rm p z
  (s, flOr f g)

/-- `x × 2^s`. -/
def numScale (x : Num) (s : Int) : Num :=
  match x with
  | .fin n a b => if 0 ≤ s then .fin n (a * 2 ^ s.toNat) b else .fin n a (b * 2 ^ (-s).toNat)
  | y => y

/-- Order of two values that are not NaN: less, equal or greater. -/
def numCmp (x y : Num) : Ordering :=
  match x, y with
  | .inf a, .inf b => if a = b then .eq else if a then .lt else .gt
  | .inf a, _ => if a then .lt else .gt
  | _, .inf b => if b then .gt else .lt
  | .fin na a b, .fin nc c d => compare (sgn na (a * d)) (sgn nc (c * b))
  | _, _ => .eq

/-- An integer as an exact value. -/
def numInt (i : Int) : Num := .fin (i < 0) i.natAbs 1

/-- A finite value rounded to an integer, and whether it was exact. -/
def roundInt (rm : RMode) (neg : Bool) (num den : Nat) : Int × Bool :=
  let k := num / den
  let r := num % den
  let k' := if roundUp rm neg k r den then k + 1 else k
  (sgn neg k', r = 0)

/-- Conversion to an integer clamped to `lo` … `hi` (Table 5-4, codes 0x08 and 0x0A). -/
def toIntClamped (rm : RMode) (lo hi : Int) (x : Num) : Int × Flags :=
  match x with
  | .nan _ => (0, flInv)
  | .inf neg => (if neg then lo else hi, flInv)
  | .fin neg num den =>
    let (k, exact) := roundInt rm neg num den
    if k < lo then (lo, flInv) else if hi < k then (hi, flInv) else (k, if exact then 0 else flInx)

/-! ### 4-bit codes (R121, R122) -/

/-- The 4-bit kinds in the order of CODE (Table 5-6). -/
inductive Nib where | i4 | e2m1 | p4 | h4
  deriving DecidableEq, Repr

/-- Magnitudes of codes 0 to 7 in eighths, and the guard value (Table 5-3, R122). -/
def nibMags : Nib → List Nat
  | .i4 => []
  | .e2m1 => [0, 4, 8, 12, 16, 24, 32, 48, 64]
  | .p4 => [0, 1, 2, 4, 8, 16, 32, 64, 128]
  | .h4 => [0, 8, 16, 24, 32, 40, 48, 64, 80]

/-- The value of a 4-bit code. -/
def nibValue (k : Nib) (code : Nat) : Num :=
  match k with
  | .i4 => numInt (sextNat code 4)
  | k => .fin (bit code 3) ((nibMags k).getD (code % 8) 0) 8

/-- The index, in the extended set, of the magnitude `num / den` (in eighths) rounded, searched from index `i`. -/
def nibRound (rm : RMode) (neg : Bool) (num den : Nat) (i : Nat) : List Nat → Nat × Bool
  | lo :: hi :: rest =>
    if num = lo * den then (i, true)
    else if num < hi * den then
      let up := match rm with
        | .rne => 2 * num > (lo + hi) * den || (2 * num = (lo + hi) * den && i % 2 = 1)
        | .rtz => false
        | .rup => !neg
        | .rdn => neg
      (if up then i + 1 else i, false)
    else nibRound rm neg num den (i + 1) (hi :: rest)
  | [lo] => (i, num = lo * den)
  | [] => (i, true)

/-- R122. -/
def toNib (k : Nib) (rm : RMode) (x : Num) : Nat × Flags :=
  match k, x with
  | _, .nan _ => (0, flInv)
  | .i4, .inf neg => (if neg then 8 else 7, flInv)
  | _, .inf neg => (if neg then 15 else 7, flOvf + flInx)
  | .i4, .fin neg num den =>
    let (v, exact) := roundInt rm neg num den
    if v < -8 then (8, flInv) else if 7 < v then (7, flInv)
    else ((BitVec.ofInt 4 v).toNat, if exact then 0 else flInx)
  | k, .fin neg num den =>
    let (i, exact) := nibRound rm neg (8 * num) den 0 (nibMags k)
    if 8 ≤ i then (if neg then 15 else 7, flOvf + flInx)
    else (if neg && num ≠ 0 then 8 + i else if neg then 8 else i, if exact then 0 else flInx)

/-! ### Special functions (R133, Table 5-7) -/

/-- The integer square root by binary digits, from digit `b` down. -/
def isqrtFrom : Nat → Nat → Nat → Nat
  | 0, n, acc => if (acc + 1) * (acc + 1) ≤ n then acc + 1 else acc
  | b + 1, n, acc =>
    let c := acc + 2 ^ (b + 1)
    isqrtFrom b n (if c * c ≤ n then c else acc)

def isqrt (n : Nat) : Nat := isqrtFrom (n.log2 / 2 + 1) n 0

/-- The square root of a positive magnitude, exact or with a sticky bit below 64 places more than any format holds. -/
def sqrtNum (num den : Nat) : Num :=
  let n := num * den * 2 ^ 512
  let r := isqrt n
  .fin false (2 * r + (if r * r = n then 0 else 1)) (2 * den * 2 ^ 256)

/-- The ulp of the exactly rounded FP32 result of a magnitude (R133): `2^e` as a pair of numerator and denominator. That of a result
rounded to 0, of which the spec does not speak, is taken as the smallest subnormal (log entry 13). -/
def ulp32 (num den : Nat) : Nat × Nat :=
  let e := match decodeFp fp32 (roundFp fp32 .rne false (.fin false num den)).1 with
    | .fin _ a b => if a = 0 then (-149 : Int) else magExp a b - 23
    | _ => magExp num den - 23
  let q := max e (-149)
  if 0 ≤ q then (2 ^ q.toNat, 1) else (1, 2 ^ (-q).toNat)

/-- Whether FP32 code `c` lies within `k` ulp of the value `± num / den`. -/
def within (k : Nat) (neg : Bool) (num den : Nat) (c : Word) : Bool :=
  match decodeFp fp32 c.toNat with
  | .fin n a b =>
    let d := (sgn n (a * den) - sgn neg (num * b)).natAbs
    let (un, ud) := ulp32 num den
    d * ud ≤ k * un * b * den
  | _ => false

/-- Fraction bits kept by the series below. -/
def fxBits : Nat := 96

/-- `2^(f / 2^96)` for a fraction f, as a fixed-point number, from the square roots of 2. -/
def exp2Frac (f : Nat) : Nat → Nat → Nat → Nat
  | 0, _, acc => acc
  | n + 1, root, acc =>
    let root' := isqrt (root * 2 ^ fxBits)
    exp2Frac f n root' (if bit f n then acc * root' / 2 ^ fxBits else acc)

/-- log2 of a fixed-point number in [1, 2), bit by bit. -/
def log2Frac : Nat → Nat → Nat → Nat
  | 0, _, acc => acc
  | n + 1, x, acc =>
    let y := x * x / 2 ^ fxBits
    if 2 ^ (fxBits + 1) ≤ y then log2Frac n (y / 2) (2 * acc + 1) else log2Frac n y (2 * acc)

/-- π × 2^160, rounded down. -/
def piFx : Nat := 0x3243F6A8885A308D313198A2E03707344A4093822

/-- The terms of the sine series from `x^k / k!` on, alternating, at 96 fraction bits. -/
def sineSeries : Nat → Nat → Int → Int → Int
  | 0, _, _, acc => acc
  | n + 1, k, term, acc =>
    let x2k : Int := (k + 1) * (k + 2)
    sineSeries n (k + 2) (-(term / x2k)) (acc + term)

/-- sin or cos of an angle given as a signed fixed-point number of 96 fraction bits below 8 in magnitude. -/
def sinFx : Nat → Nat → Int → Int → Int → Int
  | 0, _, _, _, acc => acc
  | n + 1, k, x, term, acc =>
    sinFx n (k + 2) x (-(term * x / 2 ^ fxBits * x / 2 ^ fxBits / ((k + 1) * (k + 2) : Nat))) (acc + term)

/-- An angle of magnitude `num / den`, reduced modulo 2π, at 96 fraction bits. -/
def reduceAngle (num den : Nat) : Nat :=
  let tau := 2 * piFx
  (num * 2 ^ 160 / den) % tau / 2 ^ 64

/-- sin (or cos) of a magnitude, as a fixed-point number of 97 fraction bits. The last one tells on which side of the series' value the exact
one lies for a small angle: above it where bits of the angle were cut off, and else below it. -/
def trigFx (cosine : Bool) (num den : Nat) : Int :=
  let x : Int := reduceAngle num den
  if cosine then 2 * sinFx 32 0 x (2 ^ fxBits) 0 - 1
  else 2 * sinFx 32 1 x x 0 + (if num * 2 ^ fxBits % den = 0 then -1 else 1)

/-- A power of two as its exponent: `num / den = 2^e`. -/
def powExp (num den : Nat) : Option Int :=
  let e := magExp num den
  if (if 0 ≤ e then num = den * 2 ^ e.toNat else num * 2 ^ (-e).toNat = den) then some e else none

/-- A part's own result as it is delivered: a subnormal one is flushed when MODE[3] is 1 (R115). -/
def flushOwn (ftz : Bool) (c : Word) (fl : Flags) : Word × Flags :=
  if ftz && isSubnormal fp32 c.toNat then (w32 (withSign fp32 (c.getLsbD 31) 0), flOr fl (flUnf + flInx)) else (c, flOr fl flInx)

/-- The result and flags of a bounded function with exact value `± num / den`: the part's own result when it lies within `k` ulp,
else the nearest value; then R115. -/
def boundedResult (fn : Config.Sfu) (x : Word) (k : Nat) (ftz neg : Bool) (num den : Nat) : Word × Flags :=
  let (near, fl) := roundFp fp32 .rne ftz (.fin neg num den)
  if bitOf fl then (w32 near, fl)
  else
    let c := Config.sfuResult fn x
    if within k neg num den c then flushOwn ftz c fl else (w32 near, flOr fl flInx)
where
  /-- Whether the nearest value overflowed. -/
  bitOf (fl : Flags) : Bool := bit fl 2

/-- FRCP. -/
def sfuRcp (ftz : Bool) (x : Word) : Word × Flags :=
  match readFp fp32 ftz x.toNat with
  | .nan s => (w32 (fmtNan fp32), if s then flInv else 0)
  | .inf n => (w32 (withSign fp32 n 0), 0)
  | .fin n a b =>
    if a = 0 then (w32 (withSign fp32 n (fmtInf fp32)), flDz)
    else match powExp b a with
      | some _ => let (c, f) := roundFp fp32 .rne ftz (.fin n b a); (w32 c, f)
      | none => boundedResult .rcp x 1 ftz n b a

/-- FRSQ. -/
def sfuRsq (ftz : Bool) (x : Word) : Word × Flags :=
  match readFp fp32 ftz x.toNat with
  | .nan s => (w32 (fmtNan fp32), if s then flInv else 0)
  | .inf n => if n then (w32 (fmtNan fp32), flInv) else (0, 0)
  | .fin n a b =>
    if a = 0 then (w32 (withSign fp32 n (fmtInf fp32)), flDz)
    else if n then (w32 (fmtNan fp32), flInv)
    else match powExp b a with
      | some e =>
        if e % 2 = 0 then let (c, f) := roundFp fp32 .rne ftz (scaled false 1 (e / 2)); (w32 c, f)
        else bound x a b
      | none => bound x a b
where
  bound (x : Word) (a b : Nat) : Word × Flags :=
    match sqrtNum b a with
    | .fin _ p q => boundedResult .rsq x 2 ftz false p q
    | _ => (w32 (fmtNan fp32), 0)

/-- FSQRT, correctly rounded under MODE[1:0]. Table 5-7 lists no root as exact, so every root of a positive number sets inexact (R133; log
entry 93). -/
def sfuSqrt (rm : RMode) (ftz : Bool) (x : Word) : Word × Flags :=
  match readFp fp32 ftz x.toNat with
  | .nan s => (w32 (fmtNan fp32), if s then flInv else 0)
  | .inf n => if n then (w32 (fmtNan fp32), flInv) else (x, 0)
  | .fin n a b =>
    if a = 0 then (w32 (withSign fp32 n 0), 0)
    else if n then (w32 (fmtNan fp32), flInv)
    else let (c, f) := roundFp fp32 rm ftz (sqrtNum a b); (w32 c, flOr f flInx)

/-- 2 to the power `± a / b`, not an integer, as a magnitude that lies on the same side as the exact value of every FP32 number and of
every number some ulp away from one: the series rounds down, and the last bit is sticky. -/
def exp2Num (n : Bool) (a b : Nat) : Num :=
  let fx : Nat := if 200 * b < a then 401 * 2 ^ (fxBits - 1) else a * 2 ^ fxBits / b
  let lost : Bool := decide (a ≤ 200 * b) && decide (a * 2 ^ fxBits % b ≠ 0)
  let v : Int := if n then -(fx + (if lost then 1 else 0) : Nat) else fx
  let e := v / (2 ^ fxBits : Nat)
  let m := exp2Frac (v % (2 ^ fxBits : Nat)).toNat fxBits (2 ^ (fxBits + 1)) (2 ^ fxBits)
  scaled false (2 * m + 1) (e - fxBits - 1)

/-- FEXP2. A non-integer below -150 is bounded as every other (log entry 13). -/
def sfuExp2 (ftz : Bool) (x : Word) : Word × Flags :=
  match readFp fp32 ftz x.toNat with
  | .nan s => (w32 (fmtNan fp32), if s then flInv else 0)
  | .inf n => (if n then 0 else x, 0)
  | .fin n a b =>
    if a % b = 0 then
      let e : Int := sgn n (min (a / b) 200)
      if 128 ≤ e then (w32 (fmtInf fp32), flOvf + flInx)
      else if e ≤ -150 then (0, flUnf + flInx)
      else let (c, f) := roundFp fp32 .rne ftz (scaled false 1 e); (w32 c, f)
    else match exp2Num n a b with
      | .fin _ p q => boundedResult .exp2 x 2 ftz false p q
      | _ => (0, 0)

/-- FLOG2. -/
def sfuLog2 (ftz : Bool) (x : Word) : Word × Flags :=
  match readFp fp32 ftz x.toNat with
  | .nan s => (w32 (fmtNan fp32), if s then flInv else 0)
  | .inf n => if n then (w32 (fmtNan fp32), flInv) else (x, 0)
  | .fin n a b =>
    if a = 0 then (w32 (withSign fp32 true (fmtInf fp32)), flDz)
    else if n then (w32 (fmtNan fp32), flInv)
    else
      let e := magExp a b
      match powExp a b with
      | some k => let (c, f) := roundFp fp32 .rne ftz (numInt k); (w32 c, f)
      | none =>
        let (m, _, _) := divScaled a b (e - fxBits)
        let v : Int := e * (2 ^ fxBits : Nat) + log2Frac fxBits m 0
        boundedResult .log2 x 2 ftz (v < 0) v.natAbs (2 ^ fxBits)

/-- FSIN and FCOS. The sine of a magnitude up to 2^-126 is below the smallest normal, and never exact (R118). -/
def sfuTrig (cosine ftz : Bool) (x : Word) : Word × Flags :=
  match readFp fp32 ftz x.toNat with
  | .nan s => (w32 (fmtNan fp32), if s then flInv else 0)
  | .inf _ => (w32 (fmtNan fp32), flInv)
  | .fin n a b =>
    if a = 0 then (if cosine then w32 0x3F800000 else w32 (withSign fp32 n 0), 0)
    else
      let v := trigFx cosine a b
      let v := if n && !cosine then -v else v
      let c := Config.sfuResult (if cosine then .cos else .sin) x
      let (near, fl) := roundFp fp32 .rne ftz (.fin (v < 0) v.natAbs (2 ^ (fxBits + 1)))
      let unf : Flags := if !cosine && a * 2 ^ 126 ≤ b then flUnf else 0
      if inBound v a b c then flushOwn ftz c unf else (w32 near, flOr fl (flOr unf flInx))
where
  /-- The absolute bound of Table 5-7, and the range [-1, 1]. -/
  inBound (v : Int) (a b : Nat) (c : Word) : Bool :=
    match decodeFp fp32 c.toNat with
    | .fin m p q =>
      let d := (sgn m (p * 2 ^ (fxBits + 1)) - v * q).natAbs
      p ≤ q && (if a ≤ 2 ^ 16 * b then d * 2 ^ 21 ≤ q * 2 ^ (fxBits + 1)
        else d * 2 ^ 41 * b ≤ q * 2 ^ (fxBits + 1) * (2 ^ 20 * b + a))
    | _ => false

end Sys2Proof.Machine
end

