-- ==== Sys2Proof/Machine/Ops.lean ====
section
/-! DEFINITION. Named operations over the state: units, work, registers, control registers, divergence, and taking an exception and
returning from one. -/

namespace Sys2Proof.Machine

/-! ### Units and work -/

def coreOf (s : State) (c : Nat) : Core := tgetD s.units.cores c Core.reset
def setCore (s : State) (c : Nat) (x : Core) : State := { s with units := { s.units with cores := tput s.units.cores c x } }
def modCore (s : State) (c : Nat) (f : Core → Core) : State := setCore s c (f (coreOf s c))

def clusterOf (s : State) (c : Nat) : Cluster := tgetD s.units.clusters c Cluster.reset
def setCluster (s : State) (c : Nat) (x : Cluster) : State :=
  { s with units := { s.units with clusters := tput s.units.clusters c x } }

def partOf (s : State) (p : Nat) : Part := tgetD s.units.parts p Part.reset
def setPart (s : State) (p : Nat) (x : Part) : State := { s with units := { s.units with parts := tput s.units.parts p x } }
def modPart (s : State) (p : Nat) (f : Part → Part) : State := setPart s p (f (partOf s p))

def quadOf (s : State) (c q : Nat) : Quad := (coreOf s c).quads.getD q Quad.reset
def modQuad (s : State) (c q : Nat) (f : Quad → Quad) : State :=
  modCore s c (fun k => { k with quads := modifyNth k.quads q f })

def group? (s : State) (g : Nat) : Option Group := tget? s.work.groups g
def setGroup (s : State) (g : Nat) (x : Group) : State := { s with work := { s.work with groups := tput s.work.groups g x } }
def modGroup (s : State) (g : Nat) (f : Group → Group) : State :=
  { s with work := { s.work with groups := tmod s.work.groups g f } }

def team? (s : State) (t : Nat) : Option Team := tget? s.work.teams t
def setTeam (s : State) (t : Nat) (x : Team) : State := { s with work := { s.work with teams := tput s.work.teams t x } }
def modTeam (s : State) (t : Nat) (f : Team → Team) : State := { s with work := { s.work with teams := tmod s.work.teams t f } }

def launch? (s : State) (l : Nat) : Option Launch := tget? s.work.launches l
def modLaunch (s : State) (l : Nat) (f : Launch → Launch) : State :=
  { s with work := { s.work with launches := tmod s.work.launches l f } }

def slot? (s : State) (k : Nat) : Option Slot := tget? s.work.slots k
def modSlot (s : State) (k : Nat) (f : Slot → Slot) : State := { s with work := { s.work with slots := tmod s.work.slots k f } }

def pass? (s : State) (p : Nat) : Option Pass := tget? s.work.passes p
def modPass (s : State) (p : Nat) (f : Pass → Pass) : State :=
  { s with work := { s.work with passes := tmod s.work.passes p f } }

/-- The wave slot's core, quadrant and number in its key (R72). A key of 3,072 or more names a wave that is swapped out and holds no
slot (R159). -/
def slotCore (k : Nat) : Nat := k / 24 % 128
def slotQuad (k : Nat) : Nat := k % 24 / 6
def slotNum (k : Nat) : Nat := k % 6

/-- The launch of a team, and the partition of a launch. -/
def teamLaunch? (s : State) (t : Nat) : Option Launch := (team? s t).bind (fun x => launch? s x.launch)
def teamPart (s : State) (t : Nat) : Nat := ((teamLaunch? s t).map (·.part)).getD 0
def groupPart (s : State) (g : Nat) : Nat := ((group? s g).map (fun x => teamPart s x.team)).getD 0

/-- Bits of REH and PAIR in a launch's record (Table 10-1). -/
def launchReh (l : Launch) : Bool := bit (wordAt l.words 7) 25

/-- Whether a team runs in rehearsal mode. -/
def teamReh (s : State) (t : Nat) : Bool := ((teamLaunch? s t).map launchReh).getD false

/-! ### Control registers -/

/-- How the bits of a privileged register behave (R6): read-write, write-one-to-clear, write-only and read-only masks, reset value,
and whether it is banked per partition. Other bits are reserved. -/
structure RegSpec where
  rw : Nat
  w1c : Nat
  wo : Nat
  ro : Nat
  reset : Nat
  banked : Bool
  deriving DecidableEq, Repr

/-- The privileged control registers: Tables 3-2, 6-4, 10-5, 11-3, 12-1, 13-9, 14-1 and 15-2. -/
def regSpec (n : Nat) : Option RegSpec :=
  let rw (m : Nat) : Option RegSpec := some ⟨m, 0, 0, 0, 0, true⟩
  let sys (m r : Nat) : Option RegSpec := some ⟨m, 0, 0, 0, r, false⟩
  match n with
  | 0x150 => rw 0xFFFFFE00
  | 0x151 => rw 0xFFFFF
  | 0x152 => rw 0x1F
  | 0x160 => rw 0xFFFFFFFF
  | 0x161 => rw 0xFFFFFFFF
  | 0x162 => rw 0xFFFFFFFF
  | 0x163 => rw 0xFFFFFFFF
  | 0x170 => rw 0xFFFFF000
  | 0x171 => rw 0xFFFFF
  | 0x172 => rw 0xFFFFFFC0
  | 0x173 => rw 0xFFFFF
  | 0x174 => some ⟨0, 0, 3, 0x80000000, 0, true⟩
  | 0x175 => rw 0xFFFFF000
  | 0x176 => rw 0xFFFFFF
  | 0x180 => rw 0xFFFFFC00
  | 0x181 => rw 0xFFFFFF
  | 0x182 => some ⟨0xFFFF, 0, 0, 0, 1, true⟩
  | 0x183 => some ⟨2, 0, 0, 1, 0, true⟩
  | 0x190 => rw 0xFFFFFFFE
  | 0x191 => rw 0xFFFFFF
  | 0x192 => rw 0xFFFF
  | 0x193 => some ⟨0xFFFF, 0, 0, 0, 500, true⟩
  | 0x194 => some ⟨0, 0, 0xF, 0x80000000, 0, true⟩
  | 0x195 => rw 0x1F
  | 0x196 => rw 0xFFFFFFFF
  | 0x197 => rw 0xFFFFFFFF
  | 0x198 => rw 0xFFFFF000
  | 0x199 => rw 0xFFFFF
  | 0x19A => rw 0x3F33F
  | 0x19B => some ⟨0, 0, 0, 0xFF, 0, true⟩
  | 0x19C => rw 0xFFE00000
  | 0x19D => rw 0xFFFFF
  | 0x1A0 => rw 0xFFFFFF00
  | 0x1A1 => rw 0xFFFFFF
  | 0x1B0 => rw 0xFFFFFC00
  | 0x1B1 => rw 0xFFFFFF
  | 0x1B2 => some ⟨0, 0xFFFFFFFF, 0, 0, 0, true⟩
  | 0x1B3 => some ⟨0, 0xFFFF, 0, 0, 0, true⟩
  | 0x1C0 => sys 0xFFFFFF 0x4005F0
  | 0x1C1 => some ⟨1, 0, 0, 0, 1, true⟩
  | 0x1D0 => sys 0xF 0
  | 0x1D1 => sys 1 0
  | 0x1D2 => sys 7 0
  | 0x1D3 => sys 0xFFFFFFFF 0
  | 0x1D4 => sys 0xFFFFFFC0 0
  | 0x1D5 => sys 0xFFFFF 0
  | 0x1D6 => some ⟨0, 0, 0, 0xFFFFFF, 0, false⟩
  | 0x1D7 => sys 1 1
  | 0x1E0 => some ⟨1, 0, 2, 0x80000000, 0, true⟩
  | 0x1E1 => rw 0xFFFFFFFF
  | 0x1E2 => rw 0xFFFFFFFF
  | 0x1E3 => rw 0xFFFF
  | 0x1E4 => rw 0x3FFFFFF
  | 0x1E5 => rw 0xFFFFFFF8
  | 0x1E6 => rw 0xFFFFF
  | 0x1E7 => rw 0xFFFFFFFF
  | 0x1E8 => rw 0xFFFFFFFF
  | 0x1E9 => rw 0xFFFFFFFF
  | 0x1EA => rw 0xFF
  | _ => none

/-- The stored value of a register of partition `p` (EVPHASE, 0x040, included). -/
def bankReg (s : State) (p n : Nat) : Word :=
  tgetD (partOf s p).regs n (match regSpec n with | some r => w32 r.reset | none => 0)

/-- The stored value of a device-wide register. -/
def sysReg (s : State) (n : Nat) : Word :=
  tgetD s.units.sysRegs n (match regSpec n with | some r => w32 r.reset | none => 0)

def setBankReg (s : State) (p n : Nat) (v : Word) : State := modPart s p (fun x => { x with regs := tput x.regs n v })
def setSysReg (s : State) (n : Nat) (v : Word) : State :=
  { s with units := { s.units with sysRegs := tput s.units.sysRegs n v } }

/-- A 64-bit value held by a low and a high banked register. -/
def bankPair (s : State) (p lo hi : Nat) : Nat := pairNat (bankReg s p lo) (bankReg s p hi)

/-- PCTL.EN (Table 15-2). -/
def partEnabled (s : State) (p : Nat) : Bool := (bankReg s p 0x1E0).getLsbD 0

/-- Whether logical core `c` belongs to partition `p` (PCORL, PCORH, 0x1E8, 0x1E9). -/
def partHasCore (s : State) (p c : Nat) : Bool :=
  (bankReg s p (match c / 32 with | 0 => 0x1E1 | 1 => 0x1E2 | 2 => 0x1E8 | _ => 0x1E9)).getLsbD (c % 32)

/-- The partition selected by PSEL (R333). -/
def psel (s : State) : Nat := (sysReg s 0x1D0).toNat % 16

/-- FWSTAT.CODE is set. -/
def setFwCode (s : State) (code : Nat) : State :=
  setSysReg s 0x1D6 (w32 ((sysReg s 0x1D6).toNat / 256 * 256 + code % 256))

/-- Memory capacity in bytes: 6 GiB for each channel (R336, Table 15-1). -/
def capacity (s : State) : Nat := s.units.fuses.nhbm * 6 * 2 ^ 30

/-- CAPS and CAPS2 (Table 15-4). -/
def caps (f : Fuses) : Word :=
  w32 (f.ver * 2 ^ 28 + f.ncore * 2 ^ 20 + f.nslice * 2 ^ 11 + f.nhbm * 16 + f.nssd)
def caps2 (f : Fuses) : Word := w32 (f.npeer * 2 ^ 13 + f.ngfe * 2 ^ 9 + f.nav1 * 16 + f.ndp * 4)

/-- An event record (Table 15-6): type, partition, flags, bytes 4 to 7, then words at 8, 12, and 64 bits at 16. -/
def eventRec (ty part flags b4 b5 b6 b7 w8 w12 d16 : Nat) : List Byte :=
  leBytes 1 ty ++ leBytes 1 part ++ leBytes 2 flags ++ leBytes 1 b4 ++ leBytes 1 b5 ++ leBytes 1 b6 ++ leBytes 1 b7
    ++ leBytes 4 w8 ++ leBytes 4 w12 ++ leBytes 8 d16 ++ leBytes 8 0

/-- The device holds an event until EVENT_RING_WRITE finds room in the ring (R335). -/
def raiseEvent (s : State) (r : List Byte) : State := { s with units := { s.units with events := s.units.events ++ [r] } }

/-! ### Lanes -/

/-- Element `r` of a register set keyed by 64 times the register plus the lane; an unlisted one is 0, full, not poisoned (R70). -/
def regElem (t : Tab Elem) (r l : Nat) : Elem := tgetD t (64 * r + l) (.full 0 false)
def setRegElem (t : Tab Elem) (r l : Nat) (e : Elem) : Tab Elem := tput t (64 * r + l) e

/-- The slice of a group that holds lane `l`. -/
def sliceOf (g : Group) (l : Nat) : Option Slice := g.slices[l / 4]?

/-- The divergence that a slice executes: its newest frame's, or the program's (R259). -/
def levelOf (x : Slice) : Level := match x.frames with | f :: _ => f.level | [] => x.prog

/-- A slice with its current level replaced. -/
def setLevel (x : Slice) (v : Level) : Slice :=
  match x.frames with
  | f :: fs => { x with frames := { f with level := v } :: fs }
  | [] => { x with prog := v }

/-- Whether a slice runs a handler. -/
def inHandler (x : Slice) : Bool := !x.frames.isEmpty

/-- Change slice `n` of group `g`. -/
def modSlice (s : State) (g n : Nat) (f : Slice → Slice) : State :=
  modGroup s g (fun x => { x with slices := modifyNth x.slices n f })

/-- A register element of a lane: v0 to v55, or an h register of the current frame for 56 to 63 in a handler (R85). -/
def laneElem (s : State) (l : LaneId) (r : Nat) : Elem :=
  match l with
  | .wave g i =>
    match group? s g with
    | some x =>
      if r < 56 then regElem x.regs r i
      else match (sliceOf x i).bind (fun c => c.frames.head?) with
        | some f => regElem f.hregs (r - 56) i
        | none => .full 0 false
    | none => .full 0 false
  | .grip t =>
    match (team? s t).bind (·.grip) with
    | some x => tgetD x.regs r (.full 0 false)
    | none => .full 0 false
  | .mgmt n =>
    match s.units.mgmt[n]? with
    | some x => tgetD x.regs r (.full 0 false)
    | none => .full 0 false

/-- The same element written. -/
def setLaneElem (s : State) (l : LaneId) (r : Nat) (e : Elem) : State :=
  match l with
  | .wave g i =>
    if r < 56 then modGroup s g (fun x => { x with regs := setRegElem x.regs r i e })
    else modSlice s g (i / 4) (fun c =>
      match c.frames with
      | f :: fs => { c with frames := { f with hregs := setRegElem f.hregs (r - 56) i e } :: fs }
      | [] => c)
  | .grip t => modTeam s t (fun x => { x with grip := x.grip.map (fun k => { k with regs := tput k.regs r e }) })
  | .mgmt n => { s with units := { s.units with mgmt := modifyNth s.units.mgmt n (fun k => { k with regs := tput k.regs r e }) } }

/-- A result written to a register of a lane: full, not poisoned (R57). -/
def writeLane (s : State) (l : LaneId) (r : Nat) (v : Word) : State := setLaneElem s l r (.full v false)

/-- Several registers of a lane written. -/
def writeLanes (s : State) (l : LaneId) (ws : List (Nat × Word)) : State := ws.foldl (fun s w => writeLane s l w.1 w.2) s

/-- The position in its wave slot of lane `i` of a group, and the seat it sits in (R19). -/
def lanePos (g : Group) (i : Nat) : Nat := if g.width = 64 then i % 32 else g.base + i
def laneSeat (g : Group) (i : Nat) : Nat := g.seats.getD (if g.width = 64 then i / 32 else 0) 0

/-- The slices of a group that sit in wave slot `k`. -/
def seatSlices (g : Group) (k : Nat) : List Nat :=
  (List.range (g.width / 4)).filter (fun n => laneSeat g (4 * n) = k)

/-- The slice number within its wave slot of slice `n` of a group. -/
def slotSlice (g : Group) (n : Nat) : Nat := lanePos g (4 * n) / 4

/-- Groups with a seat in slot `k`, by their lowest lane position. -/
def slotGroups (s : State) (k : Nat) : List (Nat × Group) :=
  let gs := s.work.groups.filter (fun e => !e.2.ended && e.2.seats.contains k)
  (List.range 8).flatMap (fun n => gs.filter (fun e => e.2.base = 4 * n))

/-- Slices of slot `k` in ascending order, as group, slice of the group, and the slice. -/
def slotSliceList (s : State) (k : Nat) : List (Nat × Nat × Slice) :=
  (slotGroups s k).flatMap (fun e =>
    (seatSlices e.2 k).filterMap (fun n => (e.2.slices[n]?).map (fun x => (e.1, n, x))))

/-- Whether a slice may issue: it has a running set, waits for nothing, and is neither stopped nor halted, or is being stepped. -/
def sliceGoes (g : Group) (x : Slice) : Bool :=
  (levelOf x).running ≠ 0 && x.wait = .none &&
    (match g.status with | .run => true | .stopped => x.stepping | .swapped => false)

/-- The slices of a gang that issue (R24). -/
def gangSlices (s : State) (k gang : Nat) : List (Nat × Nat) :=
  (slotSliceList s k).filterMap (fun e =>
    if e.2.2.gang = gang && ((group? s e.1).map (sliceGoes · e.2.2)).getD false then some (e.1, e.2.1) else none)

/-- The active lanes of a context, in ascending lane position (R8). -/
def activeLanes (s : State) (f : Focus) : List LaneId :=
  match f with
  | .wave k gang =>
    (gangSlices s k gang).flatMap (fun e =>
      match (group? s e.1).bind (·.slices[e.2]?) with
      | some x => ((List.range 4).map (4 * e.2 + ·)).filterMap (fun i =>
          if (levelOf x).running.getLsbD i then some (.wave e.1 i) else none)
      | none => [])
  | .grip t =>
    match (team? s t).bind (·.grip) with
    | some x => if x.ended then [] else [.grip t]
    | none => []
  | .mgmt n => if ((s.units.mgmt[n]?).map (·.running)).getD false then [.mgmt n] else []
  | .none => []

/-- The address of the instruction that a context issues next. -/
def focusPc (s : State) (f : Focus) : Addr :=
  match f with
  | .wave k gang =>
    match gangSlices s k gang with
    | e :: _ => match (group? s e.1).bind (·.slices[e.2]?) with
      | some x => (levelOf x).pc
      | none => 0
    | [] => 0
  | .grip t => ((team? s t).bind (·.grip)).elim 0 (·.pc)
  | .mgmt n => (s.units.mgmt[n]?).elim 0 (·.pc)
  | .none => 0

/-- The core a context runs on. -/
def focusCore (s : State) (f : Focus) : Nat :=
  match f with
  | .wave k _ => slotCore k
  | .grip t => ((team? s t).map (·.core)).getD 0
  | _ => 0

/-- The team a lane belongs to. -/
def laneTeam (s : State) (l : LaneId) : Nat :=
  match l with
  | .wave g _ => ((group? s g).map (·.team)).getD 0
  | .grip t => t
  | .mgmt _ => 0

/-- The partition whose address space and registers a lane uses; PSEL's for a management core (R333). -/
def lanePart (s : State) (l : LaneId) : Nat :=
  match l with
  | .wave g _ => groupPart s g
  | .grip t => teamPart s t
  | .mgmt _ => psel s

/-- The core a lane runs on. Both management cores translate through core 0's L1 TLB and die 0's L2 TLB: the spec names no TLB of theirs, and
that these two serve them is the model's choice (log entry 63). -/
def laneCore (s : State) (l : LaneId) : Nat :=
  match l with
  | .wave g i => ((group? s g).map (fun x => slotCore (laneSeat x i))).getD 0
  | .grip t => ((team? s t).map (·.core)).getD 0
  | .mgmt _ => 0

/-- Which side of its team's core pair a lane runs on. -/
def laneSide (s : State) (l : LaneId) : Nat :=
  match team? s (laneTeam s l) with
  | some t => if t.pair then laneCore s l - t.core else 0
  | none => 0

/-- The MODE register a lane's group holds (R117); 0 on a grip or management core. -/
def laneMode (s : State) (l : LaneId) : Word :=
  match l with
  | .wave g _ => ((group? s g).map (·.mode)).getD 0
  | _ => 0

/-- Whether a lane runs a trap handler. -/
def laneHandler (s : State) (l : LaneId) : Bool :=
  match l with
  | .wave g i => (((group? s g).bind (sliceOf · i)).map inHandler).getD false
  | _ => false

/-- VIEW.ROLE of a lane's group (Table 12-8). -/
def laneRole (s : State) (l : LaneId) : Nat :=
  match l with
  | .wave g _ => ((group? s g).map (fun x => x.view.toNat / 2 ^ 30)).getD 0
  | _ => 0

/-- The lanes that share a group (or are the one lane of a context) with `l`. -/
def sameGroup (l m : LaneId) : Bool :=
  match l, m with
  | .wave g _, .wave h _ => g = h
  | a, b => a = b

/-- The lowest active lane of the group of `l` (R457). -/
def leadLane (active : List LaneId) (l : LaneId) : LaneId := (active.find? (sameGroup l)).getD l

/-- The lanes that act for their groups, in ascending order of lowest lane position (R457). -/
def leads (active : List LaneId) : List LaneId := active.filter (fun l => leadLane active l = l)

/-! ### Posted results and free values -/

/-- The number of the next posted result. -/
def freshTag (s : State) : Nat × State := (s.nextTag, { s with nextTag := s.nextTag + 1 })

/-- A retired instruction's result is posted: its destinations are empty until it lands (R56). -/
def post (s : State) (kind : PostedKind) (dests : List (LaneId × Nat × Word × Bool)) : State :=
  let id := s.nextTag
  let s := dests.foldl (fun s d => setLaneElem s d.1 d.2.1 (.empty id)) { s with nextTag := id + 1 }
  { s with posted := s.posted ++ [{ id := id, kind := kind, dests := dests, link := none }] }

/-- A free value, and the state after it is drawn. -/
def drawWord (s : State) : Word × State := (Config.freeWord s.freeIx, { s with freeIx := s.freeIx + 1 })

/-! ### Gangs -/

/-- The number under which a slice of slot `k` is known. -/
def gangKey (s : State) (e : Nat × Nat) : Nat := ((group? s e.1).map (fun g => slotSlice g e.2)).getD 0

/-- The label of a slice's gang among some slices of one wave: of the slices that were in its gang and share its program counter, the
lowest. A slice without a running set stands alone. -/
def gangLabel (s : State) (es : List (Nat × Nat)) (e : Nat × Nat) : Nat :=
  let own := gangKey s e
  match (group? s e.1).bind (·.slices[e.2]?) with
  | none => own
  | some x =>
    if (levelOf x).running = 0 then own
    else (leastOf ((es.filter (fun e' =>
      match (group? s e'.1).bind (·.slices[e'.2]?) with
      | some y => (levelOf y).running ≠ 0 && y.gang = x.gang && (levelOf y).pc = (levelOf x).pc
      | none => false)).map (gangKey s))).getD own

/-- The gangs of some slices of one wave part into one gang for each program counter; a gang's label is its lowest slice (R24). -/
def regroup (s : State) (es : List (Nat × Nat)) : State :=
  es.foldl (fun t e => modSlice t e.1 e.2 (fun y => { y with gang := gangLabel s es e })) s

/-- The gangs of a wave part by program counter. Every slice of the wave is among those labelled, so that no two gangs share a label. -/
def partWave (s : State) (k : Nat) : State := regroup s ((slotSliceList s k).map (fun e => (e.1, e.2.1)))

/-- The gangs of the waves that a group sits in part by program counter. -/
def partGroup (s : State) (g : Nat) : State := ((group? s g).elim [] (·.seats)).foldl partWave s

/-! ### Pending entries -/

/-- A pending entry recorded: merged with one of the same address, else last (R25). -/
def addPending (ps : List PendEntry) (pc : Addr) (lanes : LMask) : List PendEntry :=
  if lanes = 0 then ps
  else if ps.any (·.pc = pc) then ps.map (fun p => if p.pc = pc then { p with lanes := p.lanes ||| lanes } else p)
  else ps ++ [{ pc := pc, lanes := lanes }]

/-- Classes of lanes by target, in ascending order of each class's lowest lane (R33). -/
def targetClasses : List (Nat × Addr) → List (Addr × LMask)
  | ts => ts.foldl (fun acc t =>
      if acc.any (·.1 = t.2) then acc.map (fun c => if c.1 = t.2 then (c.1, c.2 ||| laneBit t.1) else c)
      else acc ++ [(t.2, laneBit t.1)]) []

/-! ### Stopping, taking an exception, and returning from one -/

/-- How the work of a team is named for the context interface and events (R260, R290): raster flag, queue, slot and TEAM. -/
def workName (s : State) (t : Nat) : Nat × Nat × Nat × Nat :=
  match team? s t with
  | none => (0, 0, 0, 0)
  | some x =>
    match launch? s x.launch with
    | none => (0, 0, 0, x.no)
    | some l =>
      match l.src with
      | .queue c => (0, c, l.slot, x.no)
      | .mesh p => (1, ((pass? s p).map (·.queue)).getD 0, l.slot, x.no)
      | .pixels p => (1, ((pass? s p).map (·.queue)).getD 0, l.slot, 0x40000000 + x.no)

/-- A wait that belongs to an instruction that has not retired is squashed, and the instruction executes again (R55, R276, R389); an
arrival at a barrier stays. -/
def squashWait (w : Wait) : Wait := match w with | .bar n => .bar n | .teamBar => .teamBar | _ => .none

/-! ### The reorder buffer (R52 to R55) -/

/-- Entries of a reorder buffer. -/
def robSize : Nat := 96

/-- A write of a squashed entry undone: the register's next younger write, or the map, takes the physical register bound before. -/
def unbind (x : Slot) (younger : List RobEntry) (w : Nat × Nat × Nat) : Tab Nat × List RobEntry :=
  if younger.any (fun e => e.writes.any (fun v => v.1 = w.1 && v.2.2 = w.2.1)) then
    (x.map, younger.map (fun e => { e with writes := e.writes.map (fun v =>
      if v.1 = w.1 && v.2.2 = w.2.1 then (v.1, v.2.1, w.2.2) else v) }))
  else if tget? x.map w.1 = some w.2.1 then (tput x.map w.1 w.2.2, younger)
  else (x.map, younger)

/-- The entry with a stamp squashed: its physical registers are freed (R55). -/
def squashEntry (x : Slot) (stamp : Nat) : Slot :=
  let older := x.rob.takeWhile (fun e => e.stamp != stamp)
  match x.rob.dropWhile (fun e => e.stamp != stamp) with
  | [] => x
  | e :: younger =>
    e.writes.foldl (fun x w =>
      let r := unbind x (x.rob.drop older.length) w
      { x with map := r.1, rob := older ++ r.2 }) { x with rob := older ++ younger }

/-- The entries of some slices of a wave squashed; an entry that covers other slices too stays for them. -/
def squashSlices (x : Slot) (gone : Nat → Nat → Bool) : Slot :=
  let rob := x.rob.map (fun e => { e with slices := e.slices.filter (fun y => !gone y.1 y.2.1) })
  ((rob.filter (fun e => e.slices.isEmpty)).reverse).foldl (fun x e => squashEntry x e.stamp) { x with rob := rob }

/-- The entries of a group squashed in every wave that it sits in. -/
def squashRob (s : State) (g : Nat) : State :=
  match group? s g with
  | none => s
  | some x => x.seats.foldl (fun s k => modSlot s k (fun y => squashSlices y (fun h _ => h = g))) s

/-- The oldest entry of a wave retires: the physical registers bound before its writes return to the pool (R50), since nothing names
them any more. -/
def retireEntry (s : State) (k stamp : Nat) : State :=
  modSlot s k (fun x => { x with rob := x.rob.filter (fun e => e.stamp != stamp) })

/-- A group's unretired entries are squashed, and it no longer waits for a slate. -/
def squashGroup (s : State) (g : Nat) : State :=
  match group? s g with
  | none => s
  | some x =>
    let s := squashRob s g
    let waited := x.slices.any (fun y => y.wait = .slate)
    let s := modGroup s g (fun x => { x with slices := x.slices.map (fun y => { y with wait := squashWait y.wait }) })
    match waited, x.seats with
    | true, k :: _ =>
      let others := s.work.groups.any (fun e => e.1 ≠ g && !e.2.ended && e.2.seats.contains k && e.2.slices.any (fun y => y.wait = .slate))
      if others then s else modQuad s (slotCore k) (slotQuad k) (fun q => { q with waiters := q.waiters.filter (· != k) })
    | _, _ => s

/-- STOP of one group: it leaves `run` (R265). A swapped-out group stays swapped out. -/
def stopGroup (s : State) (g : Nat) : State :=
  modGroup (squashGroup s g) g (fun x => if x.status = .run then { x with status := .stopped } else x)

/-- STOP of a team: its groups and its grip context (R265). -/
def stopTeam (s : State) (t : Nat) : State :=
  match team? s t with
  | none => s
  | some x =>
    let s := x.groups.foldl stopGroup s
    modTeam s t (fun x => { x with stopped := true, grip := x.grip.map (fun k => { k with stopped := true }) })

/-- TVEC of a partition (Table 11-3). -/
def tvec (s : State) (p : Nat) : Addr := BitVec.ofNat 56 (bankPair s p 0x190 0x191)

/-- Frames held by the slices of group `x` that sit with slice `n` (R258). -/
def framesUsed (x : Group) (n : Nat) : Nat :=
  ((seatSlices x (laneSeat x (4 * n))).map (fun m => ((x.slices[m]?).map (fun c => c.frames.length)).getD 0)).foldl (· + ·) 0

/-- What a slice's lanes took at an instruction (R66): the delivered cause, TLANES, the lanes that completed, each faulting lane's
TADDR, and the queue entries its lanes hold. -/
structure Trap where
  cause : Nat
  tlanes : LMask
  tdone : LMask
  taddr : Tab Nat
  pops : List BoundPop
  deriving DecidableEq, Repr

/-- The frame that a trap forms (R257): the lanes in `lanes` enter the handler. -/
def trapFrame (t : Trap) (pc vec : Addr) (lanes : LMask) : Frame :=
  { cause := t.cause, pc := pc, lanes := lanes, tlanes := t.tlanes, tdone := t.tdone, taddr := t.taddr, pops := t.pops, hregs := [],
    level := { pc := vec, running := lanes, pending := [], parked := [] } }

/-- Escalation (R260): the slice stops at the instruction with its completed lanes recorded, its group stops, and an event of type 1
is raised. -/
def escalate (s : State) (g n : Nat) (pc : Addr) (t : Trap) (cause : Nat) : State :=
  match group? s g with
  | none => s
  | some x =>
    let (rq, q, slot, team) := workName s x.team
    let h : Halt := { cause := cause, debug := false, pc := pc, tlanes := t.tlanes, tdone := t.tdone, taddr := t.taddr, pops := t.pops }
    let s := modSlice s g n (fun y => { y with halt := some h })
    raiseEvent (stopGroup s g) (eventRec 1 (teamPart s x.team) rq q cause (slotSlice x n) x.gidx slot team pc.toNat)

/-- A debugger stop (R269): the team stops, and the slice holds no frame. -/
def debugStop (s : State) (g n : Nat) (pc : Addr) (t : Trap) : State :=
  match group? s g with
  | none => s
  | some x =>
    let h : Halt := { cause := t.cause, debug := true, pc := pc, tlanes := t.tlanes, tdone := t.tdone, taddr := t.taddr, pops := t.pops }
    stopTeam (modSlice s g n (fun y => { y with halt := some h })) x.team

/-- TAKING AN EXCEPTION (R257, R258, R260, R269). Slice `n` of group `g` traps at `pc` with its running set in `lanes` (the lanes
that completed a branch excepted, R342). The trap stops the team when DBGMASK names its cause, is escalated when TVEC is 0 or no
frame is free, and otherwise forms a frame whose handler runs the lanes at TVEC. -/
def takeTrap (s : State) (g n : Nat) (pc : Addr) (lanes : LMask) (t : Trap) : State :=
  match group? s g with
  | none => s
  | some x =>
    let p := teamPart s x.team
    if t.cause < 32 && (bankReg s p 0x1E7).getLsbD t.cause then debugStop s g n pc t
    else if tvec s p = 0 then escalate s g n pc t t.cause
    else if 4 ≤ framesUsed x n then escalate s g n pc t 0x15
    else modSlice s g n (fun y =>
      { y with frames := trapFrame t pc (tvec s p) lanes :: y.frames, redo := [], wait := .none, stepping := false })

/-- The level a slice runs after an exception is returned from (R259): the lanes that execute the instruction again, or, with none,
the lanes that completed it; the others wait as a pending entry after it. -/
def resumeLevel (v : Level) (pc : Addr) (len : Nat) (redo done : LMask) : Level :=
  if redo ≠ 0 then
    { v with pc := pc, running := redo, pending := addPending v.pending (pc + BitVec.ofNat 56 len) done }
  else { v with pc := pc + BitVec.ofNat 56 len, running := done }

/-- RETURNING FROM AN EXCEPTION (R259): the newest frame `f` of the slice is freed. -/
def returnFrame (x : Slice) (f : Frame) (rest : List Frame) (len : Nat) : Slice :=
  let redo := f.lanes &&& ~~~f.tdone
  let y := { x with frames := rest, redo := if redo ≠ 0 then f.pops else [] }
  setLevel y (resumeLevel (levelOf y) f.pc len redo (f.lanes &&& f.tdone))

/-- RESUME of a halted slice (R260, R269): as RETT places its lanes; the BRK of a debugger stop is passed once (R352). -/
def resumeHalt (x : Slice) (h : Halt) (len : Nat) : Slice :=
  let v := levelOf x
  let redo := v.running &&& ~~~h.tdone
  let y := { x with halt := none, redo := if redo ≠ 0 then h.pops else [], 
                    skipBrk := if h.debug && h.cause = 0x0E then some (h.pc, x.frames.length) else x.skipBrk }
  setLevel y (resumeLevel v h.pc len redo (v.running &&& h.tdone))

/-- A grip context takes a cause (R191, R260): it stops at the instruction and an event of type 1 is raised. -/
def gripTrap (s : State) (t : Nat) (cause detail : Nat) : State :=
  match (team? s t).bind (·.grip) with
  | none => s
  | some k =>
    let p := teamPart s t
    let (rq, q, slot, team) := workName s t
    let debug : Bool := cause < 32 && (bankReg s p 0x1E7).getLsbD cause
    let s := modTeam s t (fun x => { x with grip := some { k with stopped := true, stepping := false, halt := some (cause, detail, debug) } })
    if debug then stopTeam s t
    else raiseEvent s (eventRec 1 p (rq + 2) q cause 0 0 slot team k.pc.toNat)

/-- A management core takes a cause: its context stops (no receiver is stated for it). -/
def mgmtTrap (s : State) (n cause : Nat) : State :=
  { s with units := { s.units with mgmt := modifyNth s.units.mgmt n (fun k => { k with running := false, cause := cause }) } }

/-- An asynchronous cause of a team becomes pending for a wave (R262), lower codes first. -/
def addAsync (s : State) (k team cause addr : Nat) : State :=
  modSlot s k (fun x =>
    { x with asyncs := x.asyncs.filter (·.cause ≤ cause) ++ [{ cause := cause, addr := addr, team := team }] ++ x.asyncs.filter (cause < ·.cause) })

end Sys2Proof.Machine
end

