-- ==== Sys2Proof/Machine/Memory.lean ====
section
/-! DEFINITION. Memory: bytes by physical address, the L2 as a tag store, each core's L1, releaser tags, translation, the fault
servicer's pool and page reads, and the scratchpad with its stash windows (R134 to R164, R177 to R179). -/

namespace Sys2Proof.Machine

/-! ### Bytes -/

/-- What an unlisted address reads as. -/
def emptyByte : Byte := 0

/-- The byte at an address. -/
def memGet (m : List Host.Cell) (a : Nat) : Byte :=
  match m with
  | [] => emptyByte
  | (a', b) :: rest => if a' = a then b else memGet rest a

/-- The list with byte `b` at address `a`, in canonical form: addresses rise and no entry holds the empty byte. -/
def memPut (m : List Host.Cell) (a : Nat) (b : Byte) : List Host.Cell :=
  match m with
  | [] => if b = emptyByte then [] else [(a, b)]
  | (a', b') :: rest =>
    if a < a' then (if b = emptyByte then (a', b') :: rest else (a, b) :: (a', b') :: rest)
    else if a = a' then (if b = emptyByte then rest else (a, b) :: rest)
    else (a', b') :: memPut rest a b

/-- Addresses above `lo` rise strictly and no entry holds the empty byte. -/
def memSorted (lo : Nat) : List Host.Cell → Bool
  | [] => true
  | (a, b) :: rest => decide (lo ≤ a) && b != emptyByte && memSorted (a + 1) rest

/-- The canonical form of memory. -/
def Memory.wf (m : List Host.Cell) : Bool := memSorted 0 m

/-- `n` bytes from an address, and the bytes of a list written from an address. -/
def readMem (s : State) (pa n : Nat) : List Byte := (List.range n).map (fun i => memGet s.mem (pa + i))
def memPuts (m : List Host.Cell) (a : Nat) : List Byte → List Host.Cell
  | [] => m
  | b :: bs => memPuts (memPut m a b) (a + 1) bs

/-- Whether one of `n` bytes is poisoned. -/
def memBad (s : State) (pa n : Nat) : Bool := s.memPoison.any (fun a => pa ≤ a && a < pa + n)

/-- Bytes stored at a physical address; a stored byte is no longer poisoned. -/
def storeMem (s : State) (pa : Nat) (bs : List Byte) : State :=
  { s with mem := memPuts s.mem pa bs, memPoison := s.memPoison.filter (fun a => a < pa || pa + bs.length ≤ a) }

/-- Bytes stored after a line of them that the host caches is snooped away (R186). -/
def storeSnoop (s : State) (pa : Nat) (bs : List Byte) : State :=
  let apart (l : Nat) : Bool := l < pa / 256 || (pa + bs.length - 1) / 256 < l
  storeMem { s with outside := { s.outside with
    hostLines := s.outside.hostLines.filter apart, hostDirty := s.outside.hostDirty.filter apart } } pa bs

/-- A line that the host holds modified is snooped before the device or a peer reads it (R186): the host keeps a copy that is not modified
(log entry 97). -/
def snoopRead (s : State) (line : Nat) : State :=
  if s.outside.hostDirty.contains line then
    { s with outside := { s.outside with hostDirty := s.outside.hostDirty.filter (· != line) } }
  else s

/-- Bytes of memory poisoned, by address. -/
def poisonAt (s : State) (as : List Nat) : State := { s with memPoison := as.foldl (fun acc a => insertNat a acc) s.memPoison }

/-- A little-endian number read from, or written to, a physical address. -/
def readNum (s : State) (pa n : Nat) : Nat := leNat (readMem s pa n)

/-! ### The physical address map -/

/-- Table 15-1. -/
inductive PaTarget where | local | host | peer (m : Nat) | none
  deriving DecidableEq, Repr

def paTarget (s : State) (pa : Nat) : PaTarget :=
  if 2 ^ 52 ≤ pa then .none
  else if pa / 2 ^ 50 = 1 then .host
  else if bit pa 51 then (if bits pa 50 47 = 0 then .peer (bits pa 46 44) else .none)
  else if pa < capacity s then .local else .none

/-- Whether a working link joins module `m` (R330). -/
def peerReach (s : State) (m : Nat) : Bool :=
  let cfg := (sysReg s 0x1D3).toNat
  m ≠ (sysReg s 0x1D2).toNat % 8 &&
    (List.range s.units.fuses.npeer).any (fun n => bit cfg (4 * n + 3) && bits cfg (4 * n + 2) (4 * n) = m && !s.units.linkDown.contains n)

/-- The link on which an access to a peer's memory is sent (R330): the accesses are spread by address over the links whose remote it is. -/
def peerLink (s : State) (pa : Nat) : Option Nat :=
  match paTarget s pa with
  | .peer m =>
    let cfg := (sysReg s 0x1D3).toNat
    let ns := (List.range s.units.fuses.npeer).filter (fun n =>
      bit cfg (4 * n + 3) && bits cfg (4 * n + 2) (4 * n) = m && !s.units.linkDown.contains n)
    ns[pa / 256 % max 1 ns.length]?
  | _ => none

/-- A message of a partition that a die has sent over a link, or received (R254). -/
def countSent (s : State) (p die : Nat) : State := modPart s p (fun x => { x with sent := tput x.sent die (tgetD x.sent die 0 + 1) })
def countGot (s : State) (p die : Nat) : State := modPart s p (fun x => { x with received := tput x.received die (tgetD x.received die 0 + 1) })

/-- The die that a lane runs on. -/
def laneDie (s : State) (l : LaneId) : Nat := match l with | .mgmt n => n | _ => laneCore s l / 64

/-- A lane's load with a posted result is known to have been sent on a link: a message of its partition (R254). -/
def noteLinkAt (s : State) (l : LaneId) (pa id : Nat) : State :=
  match peerLink s pa with
  | none => s
  | some n =>
    countSent { s with posted := s.posted.map (fun p => if p.id = id then { p with link := some n } else p) } (lanePart s l) (laneDie s l)

/-- The same for the load that was posted last. -/
def noteLink (s : State) (l : LaneId) (pa : Nat) : State := noteLinkAt s l pa (s.nextTag - 1)

/-- The reply to a load that was sent on a link is received. -/
def noteReply (s : State) (p : Posted) : State :=
  match p.link, p.dests with
  | some _, d :: _ => countGot s (lanePart s d.1) (laneDie s d.1)
  | _, _ => s

/-- Whether an access can use a physical address (R329, R330). -/
def paOk (s : State) (pa : Nat) : Bool :=
  match paTarget s pa with
  | .local => true
  | .host => true
  | .peer m => peerReach s m
  | .none => false

/-- The register-image area of a partition (R72), as base and size. -/
def rimBase (s : State) (p : Nat) : Nat := bankPair s p 0x19C 0x19D
def inRim (s : State) (pa : Nat) : Bool :=
  (List.range 16).any (fun p => rimBase s p ≠ 0 && rimBase s p ≤ pa && pa < rimBase s p + 24 * 2 ^ 20)

/-! ### Homes of lines (R146, R147) -/

/-- The slices that home a line for a partition (R147): of the slices 0 to NSLICE - 1 that a part has (log entry 85), all of them, or, in
private mode and with G = 0, the partition's own. -/
def homeSlices (s : State) (p : Nat) (g : Bool) : List Nat :=
  let all := List.range s.units.fuses.nslice
  if (sysReg s 0x1D1).getLsbD 0 && !g then
    all.filter (fun n => (bankReg s p 0x1E3).getLsbD (n / 16))
  else all

/-- The home slice of a line: its number modulo the count of the slices that may home it (log entry 61). -/
def homeSlice (s : State) (p : Nat) (g : Bool) (line : Nat) : Nat :=
  if (sysReg s 0x1D1).getLsbD 0 && !g then
    let hs := homeSlices s p g
    hs.getD (line % max hs.length 1) 0
  else line % max s.units.fuses.nslice 1

/-- The messages of a lane's access to global memory that is no posted load from a peer, each with its reply (R254): a store to a peer's memory,
and an access whose line is homed on the other die, the request from one die to the other and the reply back (log entry 84). -/
def countAccess (s : State) (l : LaneId) (g load : Bool) (pa : Nat) : State :=
  let p := lanePart s l
  let d := laneDie s l
  match paTarget s pa with
  | .peer _ => if load then s else countGot (countSent s p d) p d
  | _ =>
    let h := homeSlice s p g (pa / 256) / 128
    if h = d then s else countGot (countSent (countGot (countSent s p d) p h) p h) p d

/-- The bytes that a partition reads at the L2 within one line: those of the line's home. A home holds what memory holds but for its own
bytes. -/
def l2Read (s : State) (p : Nat) (g : Bool) (pa n : Nat) : List Byte :=
  match s.units.l2.find? (fun x => x.line = pa / 256 && !x.own.isEmpty && x.slice = homeSlice s p g (pa / 256)) with
  | some x => (List.range n).map (fun i => tgetD x.own ((pa + i) % 256) (memGet s.mem (pa + i)))
  | none => readMem s pa n

/-- A number read at the L2. -/
def l2Num (s : State) (p : Nat) (g : Bool) (pa n : Nat) : Nat := leNat (l2Read s p g pa n)

/-- The bytes that a home keeps of its own when those that `hit` names are written through another home. -/
def ownAfter (m : List Host.Cell) (x : L2Line) (hit : Nat → Bool) : Tab Byte :=
  let held := (List.range 256).filter (fun i => hit (256 * x.line + i) && x.filled.getLsbD (i / 128))
  held.foldl (fun own i => tput own i (tgetD x.own i (memGet m (256 * x.line + i)))) x.own

/-- Before bytes of a line are written through one home, its other homes keep the bytes that they hold (R147: the homes are not kept
coherent). -/
def keepHomes (s : State) (home line : Nat) (hit : Nat → Bool) : State :=
  if s.units.l2.any (fun x => x.line = line && (x.slice != home || !x.own.isEmpty)) then
    { s with units := { s.units with l2 := s.units.l2.map (fun x =>
        if x.line ≠ line then x
        else if x.slice = home then { x with own := x.own.filter (fun b => !hit (256 * line + b.1)) }
        else { x with own := ownAfter s.mem x hit }) } }
  else s

/-- Bytes within one sector written at their home. -/
def landL2 (s : State) (p : Nat) (g : Bool) (pa : Nat) (bs : List Byte) : State :=
  storeSnoop (keepHomes s (homeSlice s p g (pa / 256)) (pa / 256) (fun a => pa ≤ a && a < pa + bs.length)) pa bs

/-- Some bytes of the sector at `base` written at their home, `mask` naming them. -/
def landMask (s : State) (p : Nat) (g : Bool) (base : Nat) (mask : BitVec 128) (data : List Byte) : State :=
  let s := keepHomes s (homeSlice s p g (base / 256)) (base / 256) (fun a => base ≤ a && a < base + 128 && mask.getLsbD (a - base))
  (List.range 128).foldl (fun s i => if mask.getLsbD i then storeSnoop s (base + i) [data.getD i 0] else s) s

/-- A line's priority under its partition's schedule (R149). -/
def linePriority (s : State) (l : L2Line) : Nat :=
  let x := partOf s l.part
  if (bankReg s l.part 0x152).getLsbD 0 then
    match x.sched.find? (fun e => e.base ≤ l.line / 16 && l.line / 16 < e.limit) with
    | some e => bits e.prio (3 * ((bankReg s l.part 0x040).toNat % 8) + 2) (3 * ((bankReg s l.part 0x040).toNat % 8))
    | none => 0
  else 0

/-- A charge counter of a partition raised by `n` sectors (R151). -/
def charge (s : State) (p lo n : Nat) : State :=
  let v := bankPair s p lo (lo + 1) + n
  setBankReg (setBankReg s p lo (w32 v)) p (lo + 1) (w32 (v / 2 ^ 32))

/-- Sectors set in a two-sector mask. -/
def sectorCount (m : BitVec 2) : Nat := (if m.getLsbD 0 then 1 else 0) + (if m.getLsbD 1 then 1 else 0)

/-! ### Scratchpads, stash windows and L1 sectors as data (R138 to R143) -/

/-- Scratchpad keys: the side times 2^24 plus the offset. -/
def scratchKey (side off : Nat) : Nat := side * 2 ^ 24 + off
def scratchGet (t : Team) (side off : Nat) : Byte := tgetD t.scratch (scratchKey side off) 0
def scratchRead (t : Team) (side off n : Nat) : List Byte := (List.range n).map (fun i => scratchGet t side (off + i))
def scratchNum (t : Team) (side off n : Nat) : Nat := leNat (scratchRead t side off n)
def scratchBad (t : Team) (side off n : Nat) : Bool :=
  t.bad.any (fun k => scratchKey side off ≤ k && k < scratchKey side off + n)
def scratchPut (t : Team) (side off : Nat) (bs : List Byte) : Team :=
  { t with
    scratch := (List.range bs.length).foldl (fun m i => tput m (scratchKey side (off + i)) (bs.getD i 0)) t.scratch,
    bad := t.bad.filter (fun k => k < scratchKey side off || scratchKey side off + bs.length ≤ k) }

/-- The window that binds an offset, if any, and the sector's number. -/
def windowAt (t : Team) (side off : Nat) : Option (Window × Nat) :=
  (t.windows.find? (fun w => w.side = side && w.soff ≤ off && off < w.soff + w.len)).map (fun w => (w, (off - w.soff) / 128))

/-- Whether a sector of a window is filled, and its dirty bytes (R140). -/
def sectorFilled (w : Window) (n : Nat) : Bool := (tget? w.pages n).isSome
def sectorDirty (w : Window) (n : Nat) : BitVec 128 := match tget? w.sectors n with | some x => x.dirty | none => 0

/-- The offsets among the bytes of a window's sector that `mask` names and that are poisoned. -/
def sectorBad (t : Team) (w : Window) (n : Nat) (mask : BitVec 128) : List Nat :=
  (List.range 128).filter (fun i => mask.getLsbD i && t.bad.contains (scratchKey w.side (w.soff + 128 * n + i)))

/-- A team's window replaced. -/
def setWindow (t : Team) (w : Window) : Team :=
  { t with windows := t.windows.map (fun x => if x.side = w.side && x.num = w.num then w else x) }

/-- Stash sectors that hold the 128-byte sector at a physical address, as team, window and sector number (R141). -/
def stashHolders (s : State) (pa : Nat) : List (Nat × Window × Nat) :=
  s.work.teams.flatMap (fun e => e.2.windows.flatMap (fun w =>
    (w.pages.filter (fun x => x.2 = pa / 128 * 128)).map (fun x => (e.1, w, x.1))))

/-- A core's L1 sector that holds an address. -/
def l1Find (s : State) (c pa : Nat) : Option L1Sector := (coreOf s c).l1.find? (fun x => x.pa = pa / 128 * 128)

/-- Bytes of a core's view of memory: its dirty L1 bytes over the home's, or its whole L1 sector at narrow scope. -/
def viewBytes (s : State) (c p : Nat) (g : Bool) (pa n : Nat) (narrow : Bool) : List Byte :=
  match l1Find s c pa with
  | some x =>
    let under := l2Read s p g pa n
    (List.range n).map (fun i =>
      if narrow || x.dirty.getLsbD (pa % 128 + i) then x.data.getD (pa % 128 + i) 0 else under.getD i 0)
  | none => l2Read s p g pa n

/-- Bytes placed in a held L1 sector, and marked dirty or clean. -/
def patchL1 (s : State) (c pa : Nat) (bs : List Byte) (dirty : Bool) : State :=
  modCore s c (fun k => { k with l1 := k.l1.map (fun x =>
    if x.pa = pa / 128 * 128 then
      (List.range bs.length).foldl (fun x i =>
        let b := pa % 128 + i
        { x with data := x.data.set b (bs.getD i 0),
                 dirty := if dirty then x.dirty ||| (1#128 <<< b) else x.dirty &&& ~~~(1#128 <<< b) }) x
    else x) })

/-- Bytes of a sector placed in a core's copy of it, `mask` naming them; what is dirty there stays dirty. -/
def mergeL1 (s : State) (c base : Nat) (mask : BitVec 128) (data : List Byte) : State :=
  modCore s c (fun k => { k with l1 := k.l1.map (fun y =>
    if y.pa = base then
      { y with data := (List.range 128).map (fun i => if mask.getLsbD i then data.getD i 0 else y.data.getD i 0) }
    else y) })

/-- Whether a scope is narrow for a team (R143): group scope, or team scope in a team on one core. -/
def narrowScope (pair : Bool) (sc : Scope) : Bool :=
  match sc with | .grp => true | .team => !pair | .dev => false | .sys => false

/-- Whether a scope reaches the device. -/
def wideScope (sc : Scope) : Bool := match sc with | .dev => true | .sys => true | _ => false

/-! ### Translation (R152 to R155) -/

/-- What an access needs of a leaf. -/
inductive Acc where | r | w | rw | x | any
  deriving DecidableEq, Repr

/-- The end of a walk: a leaf, a storage-backed page, a copy-on-write, a cause (Table of R154), or a table in memory that is not ready
(R336). -/
inductive Walk where
  | leaf (e : TlbEntry)
  | page (entry value : Nat)
  | cow (entry desc : Nat)
  | fault (cause : Nat)
  | hold
  deriving DecidableEq, Repr

/-- Whether the port and namespace slot of a storage-backed leaf are configured (R332); the ports of a part are 0 to NSSD - 1 (log entry
85). -/
def nsEntry (s : State) (p slot : Nat) : Nat := readNum s (bankPair s p 0x1E5 0x1E6 + 8 * slot) 8
def nsConfigured (s : State) (p port slot : Nat) : Bool :=
  let e := nsEntry s p slot
  bit e 63 && bits e 62 35 = 0 && bits e 34 32 = port && (bankReg s p 0x1EA).getLsbD port && port < s.units.fuses.nssd &&
    !s.units.badNs.contains (port, e % 2 ^ 32)

/-- Whether a leaf's permissions allow an access. -/
def permits (a : Acc) (r w x : Bool) : Bool :=
  match a with | .r => r | .w => w | .rw => r && w | .x => x | .any => true

def needsWrite (a : Acc) : Bool := match a with | .w => true | .rw => true | _ => false

/-- Whether the functions that an access to a physical address uses are ready (R336). -/
def unitsReady (s : State) (pa : Nat) : Bool :=
  s.units.ready.getLsbD 2 &&
    (match paTarget s pa with
     | .local => s.units.ready.getLsbD 1
     | .host => s.units.ready.getLsbD 5
     | .peer _ => s.units.ready.getLsbD 7
     | .none => true)

/-- The 64 KiB page of a level-0 entry `e` at `ea` with C = 1 (R152): its frame, and whether every entry has D set; none where its 16 entries
disagree. -/
def contigPage (s : State) (ea e : Nat) : Option (Nat × Bool) :=
  let first := ea / 128 * 128
  let f := bits (readNum s first 8) 51 12
  let es := (List.range 16).map (fun k => (k, readNum s (first + 8 * k) 8))
  if f % 16 = 0 && es.all (fun x => x.2 % 4 = 1 && bit x.2 2 && bit x.2 8 && !bit x.2 7 && bits x.2 11 10 = 0 &&
      bits x.2 6 3 = bits e 6 3 && bits x.2 51 12 = f + x.1) then
    some (f * 4096, es.all (fun x => bit x.2 9))
  else none

/-- The translation that a level-0 leaf gives an access: that of its 64 KiB page where its 16 entries agree, but for a write while one of them
has D clear, which sets D in its own entry (R152, R155). -/
def contigLeaf (s : State) (va : Nat) (a : Acc) (e : Nat) (x : TlbEntry) : TlbEntry :=
  match (if bit e 8 then contigPage s x.entry e else none) with
  | some (f, d) => if needsWrite a && !d then x else { x with va := va / 2 ^ 16 * 2 ^ 16, bits := 16, frame := f, dirty := d }
  | none => x

/-- The 4 KiB part of a leaf's page that an address lies in. -/
def smallLeaf (va : Nat) (x : TlbEntry) : TlbEntry :=
  if x.bits = 16 then { x with va := va / 4096 * 4096, bits := 12, frame := x.frame + va % 2 ^ 16 / 4096 * 4096 } else x

/-- One level of a walk (R152 to R154); a pointer goes to the level below. A storage-backed or dedup-shared entry whose L bit is 0 breaks
Table 6-5, which gives no result for it: the model's cause 0x04 is log entry 86. -/
def walkLevel (s : State) (p va : Nat) (a : Acc) : Nat → Nat → Walk
  | 0, _ => .fault 4
  | n + 1, table =>
    let lvl := n
    let ea := table + 8 * (va / 2 ^ (12 + 9 * lvl) % (if lvl = 4 then 256 else 512))
    if !paOk s ea then .fault 4
    else if !unitsReady s ea then .hold
    else
      let e := readNum s ea 8
      let vbase := va / 2 ^ (12 + 9 * lvl) * 2 ^ (12 + 9 * lvl)
      match e % 4 with
      | 0 => .fault 4
      | 1 =>
        if bits e 11 10 ≠ 0 || bit e 7 then .fault 4
        else if !bit e 2 then
          if bits e 9 3 ≠ 0 then .fault 4 else walkLevel s p va a n (bits e 51 12 * 4096)
        else if 3 ≤ lvl || (bit e 8 && lvl ≠ 0) || (bits e 51 12 * 4096) % 2 ^ (12 + 9 * lvl) ≠ 0 then .fault 4
        else if !permits a (bit e 3) (bit e 4) (bit e 5) then .fault 5
        else .leaf (contigLeaf s va a e
          { part := p, va := vbase, bits := 12 + 9 * lvl, frame := bits e 51 12 * 4096, r := bit e 3, w := bit e 4, x := bit e 5,
            g := bit e 6, dirty := bit e 9, entry := ea, desc := 0 })
      | 2 =>
        if lvl ≠ 0 || bit e 7 || !bit e 2 then .fault 4
        else if !nsConfigured s p (bits e 10 8) (bits e 14 11) then .fault 4
        else .page ea e
      | _ =>
        if lvl ≠ 0 || bits e 63 52 ≠ 0 || !bit e 2 then .fault 4
        else
          let d := bits e 51 6 * 64
          let f := if paOk s d then readNum s d 8 else 0
          if paOk s d && !unitsReady s d then .hold
          else if !bit f 0 then .fault 4
          else if !permits (match a with | .rw => .r | .w => .any | b => b) true false (bit e 4) then .fault 5
          else if needsWrite a then (if bit e 3 then .cow ea d else .fault 5)
          else .leaf
            { part := p, va := vbase, bits := 12, frame := bits f 51 12 * 4096, r := true, w := false, x := bit e 4,
              g := bit e 5, dirty := false, entry := ea, desc := d }

/-- The frame of a dedup descriptor (R161). -/
def descFrame (s : State) (d : Nat) : Nat := bits (readNum s d 8) 51 12 * 4096

/-- A walk from the partition's root, with the checks on the frame that it gives or that a write copies (R72, R329). -/
def walk (s : State) (p va : Nat) (a : Acc) : Walk :=
  let held (pa : Nat) (ok : Walk) : Walk := if inRim s pa then .fault 5 else if !paOk s pa then .fault 4 else ok
  if 2 ^ 56 ≤ va then .fault 4
  else match walkLevel s p va a 5 (bankPair s p 0x170 0x171) with
    | .leaf e => held (e.frame + va % 2 ^ e.bits) (.leaf e)
    | .cow entry d => held (descFrame s d + va % 4096) (.cow entry d)
    | x => x

/-- A TLB entry that serves an access: of the partition and page, with the permission, and D set for a write (R155). -/
def tlbServes (p va : Nat) (a : Acc) (e : TlbEntry) : Bool :=
  e.part = p && e.va = va / 2 ^ e.bits * 2 ^ e.bits && permits a e.r e.w e.x && (!needsWrite a || e.dirty)

def dieOf (core : Nat) : Nat := core / 64

def tlbHit (s : State) (core p va : Nat) (a : Acc) : Option TlbEntry :=
  match (coreOf s core).tlb.find? (tlbServes p va a) with
  | some e => some e
  | none => (s.units.dieTlb.find? (fun x => x.1 = dieOf core && tlbServes p va a x.2)).map (·.2)

/-- The page read or copy-on-write begun last for an entry and still in progress (R158, R162). -/
def readFor (s : State) (p entry : Nat) : Option PageRead := ((partOf s p).reads.filter (fun r => r.entry = entry)).getLast?

/-- Whether an access to a storage-backed leaf that holds `e` joins a read in progress: BUSY is set, and the servicer has one (R158). -/
def joinsRead (s : State) (p entry e : Nat) : Bool := bit e 15 && (readFor s p entry).any (fun r => !r.cow)

/-- Whether an access to a dedup-shared leaf that holds `e` joins a copy-on-write in progress. -/
def joinsCow (s : State) (p entry e : Nat) : Bool := (readFor s p entry).any (fun r => r.cow && r.value.toNat = e)

/-- Whether a pool header counts as usable: CAP a power of two from 1 to 2^20 (R157). -/
def powTwo (n lim : Nat) : Bool := n ≠ 0 && n ≤ lim && (n &&& (n - 1)) = 0

def poolHead (s : State) (p : Nat) : Nat := bankPair s p 0x172 0x173

/-- Whether the header of a ring with the layout of Table 6-6, and its slot of an index, lie at addresses that the map assigns (R329). -/
def ringPlaced (s : State) (h ix : Nat) : Bool :=
  paOk s h && paOk s (readNum s (h + 16) 8 + 8 * (ix % max 1 (readNum s (h + 8) 4)))

/-- Whether no frame can be taken from a partition's pool: one whose header, or whose next entry, lies at an unassigned address counts as empty
(R329). -/
def poolEmpty (s : State) (p : Nat) : Bool :=
  let h := poolHead s p
  !powTwo (readNum s (h + 8) 4) (2 ^ 20) || readNum s h 4 = readNum s (h + 4) 4 || !ringPlaced s h (readNum s h 4)

/-- The answer to an access: an address, a cause, a page to wait for, an empty pool (cause 0x04, R158, R162), or a wait
for a function whose READY bit is 0 (R336). -/
inductive Trans where
  | ok (pa : Nat) (g : Bool)
  | fault (cause : Nat)
  | wait (entry : Nat)
  | noFrame
  | hold
  deriving DecidableEq, Repr

/-- An access to a translated address: a peer that no working link reaches gives cause 0x04 (R330), through a TLB entry too. -/
def reach (s : State) (va : Nat) (e : TlbEntry) : Trans :=
  let pa := e.frame + va % 2 ^ e.bits
  if !paOk s pa then .fault 4 else if unitsReady s pa then .ok pa e.g else .hold

/-- Translation of an access by a core (R154, R155). -/
def translate (s : State) (core p va : Nat) (a : Acc) : Trans :=
  match tlbHit s core p va a with
  | some e => reach s va e
  | none =>
    match walk s p va a with
    | .leaf e => reach s va e
    | .fault c => .fault c
    | .hold => .hold
    | .page entry e => if !joinsRead s p entry e && poolEmpty s p then .noFrame else .wait entry
    | .cow entry d =>
      if !joinsCow s p entry (readNum s entry 8) && readNum s (d + 8) 4 ≠ 1 && poolEmpty s p then .noFrame else .wait entry

/-- A translation entered in the core's and the die's TLB, the oldest leaving (R155). -/
def tlbFill (s : State) (core : Nat) (e : TlbEntry) : State :=
  let same := fun (x : TlbEntry) => x.part = e.part && x.va = e.va && x.bits = e.bits
  let s := modCore s core (fun k => { k with tlb := ((k.tlb.filter (!same ·)) ++ [e]).reverse.take 256 |>.reverse })
  let mine := (s.units.dieTlb.filter (fun x => x.1 = dieOf core && !same x.2)) ++ [(dieOf core, e)]
  { s with units := { s.units with
      dieTlb := s.units.dieTlb.filter (fun x => x.1 != dieOf core) ++ (mine.reverse.take 16384).reverse } }

/-- TLB entries removed (R156). -/
def tlbDrop (s : State) (f : TlbEntry → Bool) : State :=
  { s with units := { s.units with
      dieTlb := s.units.dieTlb.filter (fun x => !f x.2),
      cores := s.units.cores.map (fun e => (e.1, { e.2 with tlb := e.2.tlb.filter (!f ·) })) } }

/-! ### Descriptors as system software writes them (Table 10-3) -/

/-- The descriptor's address: of a task queue, or with `raster` of a raster queue (R239, R277); none without a table. -/
def descAddr (s : State) (p : Nat) (raster : Bool) (q : Nat) : Option Nat :=
  let tab := if raster then bankPair s p 0x1A0 0x1A1 else bankPair s p 0x180 0x181
  if tab = 0 then none else some (tab + 64 * q)

/-- The FLAGS byte of each queue descriptor of a partition that the device can reach: its physical address and what it holds (R239, R277). -/
def flagBytes (s : State) (p : Nat) : List (Nat × Byte) :=
  let place (raster : Bool) (q : Nat) : Option (Nat × Byte) :=
    match (descAddr s p raster q).map (fun va => translate s 0 p (va + 28) .r) with
    | some (.ok pa g) => some (pa, (l2Read s p g pa 1).headD 0)
    | _ => none
  (List.range 16).filterMap (place false) ++ (List.range 4).filterMap (place true)

/-- A byte as system software writes it over FLAGS: REF (bit 1) is cleared by a 1 and kept by a 0 (Table 10-3). -/
def writeFlags (old b : Byte) : Byte := (b &&& ~~~2#8) ||| (old &&& ~~~b &&& 2#8)

/-- The bytes that a write of system software leaves: one from outside, or a store of a management core (log entry 94). -/
def softBytes (s : State) (pa : Nat) (bs : List Byte) : List Byte :=
  let flags := s.units.parts.flatMap (fun e => flagBytes s e.1)
  bs.zipIdx.map (fun x => match flags.find? (fun e => e.1 = pa + x.2) with | some e => writeFlags e.2 x.1 | none => x.1)

/-! ### Writes by the device itself (R141, R142, R186) -/

/-- A writeback that fails sets its team's error flag and raises an event of type 7 (R142); the bytes stay in the scratchpad. -/
def stashFails (s : State) (tm va cause : Nat) : State :=
  let (rq, q, slot, team) := workName s tm
  raiseEvent (modTeam s tm (fun t => { t with stashErr := true })) (eventRec 7 (teamPart s tm) rq q cause 0 0 slot team va)

/-- A sector of a window left clean, at its physical address, or unfilled; one that was unfilled stays so. -/
def stashLeave (s : State) (tm : Nat) (w : Window) (sec pa : Nat) (unfill : Bool) : State :=
  modTeam s tm (fun t => setWindow t (if unfill || !sectorFilled w sec then { w with sectors := tdel w.sectors sec, pages := tdel w.pages sec }
    else { w with sectors := tput w.sectors sec { dirty := 0 }, pages := tput w.pages sec pa }))

/-- The dirty bytes of a stash sector written at the home of its physical address, with their poison (R57, R142). -/
def stashLand (s : State) (t : Team) (w : Window) (sec p : Nat) (g : Bool) (pa : Nat) : State :=
  let m := sectorDirty w sec
  poisonAt (landMask s p g pa m (scratchRead t w.side (w.soff + 128 * sec) 128)) ((sectorBad t w sec m).map (pa + ·))

/-- D set in a leaf by a write (R155). -/
def setD (s : State) (e : TlbEntry) : State := storeSnoop s e.entry (leBytes 8 (readNum s e.entry 8 ||| 0x200))

/-- A stash sector that a write of the device itself recalls (R141): its dirty bytes are written back and it is unfilled. While its page is
absent or shared it stays as it is (log entry 87). -/
def recallOne (s : State) (h : Nat × Window × Nat) : State :=
  match (team? s h.1).bind (fun t => (t.windows.find? (fun w => w.side = h.2.1.side && w.num = h.2.1.num)).map (fun w => (t, w))) with
  | none => s
  | some (t, w) =>
    let va := w.gaddr + 128 * h.2.2
    if sectorDirty w h.2.2 = 0 then stashLeave s h.1 w h.2.2 0 true
    else match walk s (teamPart s h.1) va .w with
      | .leaf e =>
        let s := if e.dirty then s else setD s e
        stashLeave (stashLand s t w h.2.2 e.part e.g (e.frame + va % 2 ^ e.bits)) h.1 w h.2.2 0 true
      | .fault c => stashFails s h.1 va c
      | _ => s

/-- The stash sectors that hold bytes of a range recalled. -/
def recallDev (s : State) (pa n : Nat) : State :=
  ((List.range ((pa + n - 1) / 128 + 1 - pa / 128)).map (fun k => (pa / 128 + k) * 128)).foldl (fun s a => (stashHolders s a).foldl recallOne s) s

/-- Bytes stored by the device itself: stash sectors that hold them are recalled first (R141), and host copies snooped away (R186). -/
def storeDev (s : State) (pa : Nat) (bs : List Byte) : State := storeSnoop (recallDev s pa bs.length) pa bs

/-! ### The frame pool and page service (R157, R158) -/

/-- Frame pool: the frame at HEAD, taken (R157). -/
def takeFrame (s : State) (p : Nat) : Option (Nat × State) :=
  if poolEmpty s p then none
  else
    let h := poolHead s p
    let head := readNum s h 4
    let f := readNum s (readNum s (h + 16) 8 + 8 * (head % readNum s (h + 8) 4)) 8
    some (f, storeDev s h (leBytes 4 (head + 1)))

/-- A frame given back to the pool, or reported by an event of type 3, kind 2 (R157). -/
def giveFrame (s : State) (p f : Nat) : State :=
  let h := poolHead s p
  let cap := readNum s (h + 8) 4
  let head := readNum s h 4
  let tail := readNum s (h + 4) 4
  if !powTwo cap (2 ^ 20) || (tail + 2 ^ 32 - head) % 2 ^ 32 = cap || !ringPlaced s h tail then
    raiseEvent s (eventRec 3 p 0 0 2 0 0 0 0 f)
  else
    let s := storeDev s (readNum s (h + 16) 8 + 8 * (tail % cap)) (leBytes 8 f)
    storeDev s (h + 4) (leBytes 4 (tail + 1))

/-- The number under which a page read or copy is known. -/
def readId (s : State) (p entry : Nat) : Nat := ((readFor s p entry).map (·.id)).getD 0

/-- An operation put into a partition's queue of the storage and fault service. -/
def addRead (s : State) (p : Nat) (r : PageRead) : State :=
  modPart { s with nextTag := r.id + 1 } p (fun x => { x with reads := x.reads ++ [r] })

/-- The pool is empty: the access raises cause 0x04, and an event of type 3, kind 1, says so (Table 15-6). -/
def poolEvent (s : State) (p : Nat) : State := raiseEvent s (eventRec 3 p 0 0 1 0 0 0 0 0)

/-- Service of a storage-backed leaf that holds `e` (R158, steps 1 to 3): an access joins the read in progress when BUSY is set; otherwise
BUSY is set, where it is clear, and a frame is taken; with an empty pool BUSY is cleared. -/
def startRead (s : State) (p va entry e : Nat) : State :=
  if joinsRead s p entry e then s
  else
    let busy := if bit e 15 then e else e + 0x8000
    match takeFrame s p with
    | none => poolEvent (if bit e 15 then storeDev s entry (leBytes 8 (e - 0x8000)) else s) p
    | some (f, s) =>
      addRead (if bit e 15 then s else storeDev s entry (leBytes 8 busy)) p
        { id := s.nextTag, part := p, entry := entry, value := BitVec.ofNat 64 busy, frame := f, taken := true, result := none,
          port := bits e 10 8, nsid := nsEntry s p (bits e 14 11) % 2 ^ 32, lba := bits e 63 16, cow := false, va := va, waiters := [] }

/-- Service of a write to a dedup-shared leaf that holds `e` begins (R162), or the access joins it. -/
def startCow (s : State) (p va entry e : Nat) : State :=
  if joinsCow s p entry e then s
  else addRead s p
    { id := s.nextTag, part := p, entry := entry, value := BitVec.ofNat 64 e, frame := 0, taken := false, result := none, port := 0,
      nsid := 0, lba := 0, cow := true, va := va, waiters := [] }

/-- What an access leaves behind in translation: a TLB entry, D set in the leaf, a page read or copy-on-write begun, or the empty-pool
event. -/
def noteAccess (s : State) (core p va : Nat) (a : Acc) : State :=
  match tlbHit s core p va a with
  | some _ => s
  | none =>
    match walk s p va a with
    | .leaf e =>
      if needsWrite a && !e.dirty then
        tlbFill (storeDev s e.entry (leBytes 8 (readNum s e.entry 8 ||| 0x200))) core { e with dirty := true }
      else tlbFill s core e
    | .page entry e => startRead s p va entry e
    | .cow entry d =>
      if !joinsCow s p entry (readNum s entry 8) && readNum s (d + 8) 4 ≠ 1 && poolEmpty s p then poolEvent s p
      else startCow s p va entry (readNum s entry 8)
    | .fault _ => s
    | .hold => s

/-! ### The dedup index and copy-on-write (R161, R162) -/

/-- A descriptor that is live no longer: out of the index, its live bit clear, its TLB entries gone (R154, R162). -/
def retireDesc (s : State) (p d : Nat) : State :=
  let s := modPart s p (fun x => { x with index := x.index.filter (fun e => e.desc != d) })
  let s := storeDev s d (leBytes 8 (readNum s d 8 / 2 * 2))
  tlbDrop s (fun e => e.part = p && e.desc = d)

/-- The descriptor that a dedup-shared entry names. -/
def entryDesc (e : Nat) : Nat := bits e 51 6 * 64

/-- The normal leaf that a copy-on-write leaves: R, W and D set, X and G as before. -/
def ownLeaf (e f : Nat) : Nat := f + 0x200 + (if bit e 5 then 0x40 else 0) + (if bit e 4 then 0x20 else 0) + 0x1D

/-- The filled stash sectors of a page whose frame has changed are known by their new addresses (R141). -/
def movePages (s : State) (p va f : Nat) : State :=
  { s with work := { s.work with teams := s.work.teams.map (fun e =>
      if teamPart s e.1 ≠ p then e
      else (e.1, { e.2 with windows := e.2.windows.map (fun w => { w with pages := w.pages.map (fun x =>
        let a := w.gaddr + 128 * x.1
        if a / 4096 = va / 4096 then (x.1, f + a % 4096) else x) }) })) } }

/-- The compare-and-swap that ends a copy-on-write (R162): the entry takes the normal leaf if it still holds `e`; else a frame that was
taken goes back to the pool. -/
def installOwn (s : State) (p va entry e f : Nat) (taken : Bool) : State :=
  if readNum s entry 8 = e then
    movePages (tlbDrop (storeDev s entry (leBytes 8 (ownLeaf e f))) (fun x => x.part = p && x.entry = entry)) p va f
  else if taken then giveFrame s p f else s

/-- How the first part of a copy-on-write ends: the page is copied to a frame, all is done, or the pool is empty. -/
inductive CowPart where | copied (f : Nat) | over | empty
  deriving DecidableEq, Repr

/-- The first part of a copy-on-write of an entry that held `e` (R162): with COUNT 1 the writer keeps the frame; otherwise a frame is taken
and the page copied. A descriptor that is live no longer is not used (R154): the access walks again. -/
def cowBegin (s : State) (p va entry e : Nat) : State × CowPart :=
  let d := entryDesc e
  if !bit (readNum s d 8) 0 then (s, .over)
  else if readNum s (d + 8) 4 = 1 then
    let f := descFrame s d
    (installOwn (retireDesc (storeDev s (d + 8) (leBytes 4 0)) p d) p va entry e f false, .over)
  else match takeFrame s p with
    | none => (poolEvent s p, .empty)
    | some (f, t) =>
      let bad := (s.memPoison.filter (fun a => descFrame s d ≤ a && a < descFrame s d + 4096)).map (fun a => f + (a - descFrame s d))
      (poisonAt (storeDev t f (readMem t (descFrame t d) 4096)) bad, .copied f)

/-- The second part: COUNT is decremented, and the descriptor of a count that falls to 0 is retired, its frame given back. -/
def cowEnd (s : State) (p va entry e f : Nat) : State :=
  let d := entryDesc e
  let c := readNum s (d + 8) 4
  let s := storeDev s (d + 8) (leBytes 4 ((c + 2 ^ 32 - 1) % 2 ^ 32))
  let s := if c = 1 then retireDesc (giveFrame s p (descFrame s d)) p d else s
  installOwn s p va entry e f true

/-! ### Writebacks and the L2 as a tag store (R141 to R151, R177 to R179)

The functions that write back take as `touch` the access to a line's tag that a write makes, since that access may evict a tagged line,
which asks for a writeback in turn. -/

/-- A touch of the L2: partition, G bit, whether it writes, and the address. -/
abbrev Touch := State → Nat → Bool → Bool → Nat → State

/-- The read of an entry failed for a group or the grip context of a team that waited for it (R158). -/
def teamFailed (s : State) (tm entry : Nat) : Bool :=
  match team? s tm with
  | some t => t.groups.any (fun g => match group? s g with | some x => x.failed.contains entry | none => false) ||
      (match t.grip with | some k => k.failed.contains entry | none => false)
  | none => false

/-- The dirty bytes of one stash sector written back through translation (R142), and the sector left clean or unfilled. A page that is
absent or to be copied is asked for, and the sector stays dirty. -/
def stashCleanOne (touch : Touch) (s : State) (tm side num sec : Nat) (unfill : Bool) : State :=
  match team? s tm with
  | none => s
  | some t =>
    match t.windows.find? (fun w => w.side = side && w.num = num) with
    | none => s
    | some w =>
      if sectorDirty w sec = 0 then stashLeave s tm w sec (tgetD w.pages sec 0) unfill
      else
        let p := teamPart s tm
        let va := w.gaddr + 128 * sec
        let core := t.core + side
        match translate s core p va .w with
        | .ok pa g =>
          let s := stashLand (touch (noteAccess s core p va .w) p g true pa) t w sec p g pa
          stashLeave (mergeL1 s core pa (sectorDirty w sec) (scratchRead t side (w.soff + 128 * sec) 128)) tm w sec pa unfill
        | .fault c => stashFails s tm va c
        | .noFrame => stashFails s tm va 4
        | .wait entry => if teamFailed s tm entry then stashFails s tm va 4 else noteAccess s core p va .w
        | .hold => s

/-- A recall (R141): before another agent's store or atomic, stash sectors that hold the line's sector write back and are unfilled. -/
def recallWith (touch : Touch) (s : State) (pa : Nat) : State :=
  (stashHolders s pa).foldl (fun s h => stashCleanOne touch s h.1 h.2.1.side h.2.1.num h.2.2 true) s

/-- A store to a sector that a stash still holds because its writeback waits for a page: the stored bytes replace those of the stash. -/
def shareStore (s : State) (pa : Nat) (bs : List Byte) : State :=
  (stashHolders s pa).foldl (fun s h =>
    let w := h.2.1
    match team? s h.1, tget? w.sectors h.2.2 with
    | some t, some x =>
      match translate s (t.core + w.side) (teamPart s h.1) (w.gaddr + 128 * h.2.2) .w with
      | .wait _ =>
        let gone : BitVec 128 := (List.range bs.length).foldl (fun m i => m ||| (1#128 <<< (pa % 128 + i))) 0
        modTeam s h.1 (fun t => setWindow (scratchPut t w.side (w.soff + 128 * h.2.2 + pa % 128) bs)
          { w with sectors := tput w.sectors h.2.2 { dirty := x.dirty &&& ~~~gone } })
      | _ => s
    | _, _ => s) s

/-- The dirty bytes of one L1 sector written at the L2, stash sectors recalled first, and the sector left clean (R141, R143). -/
def cleanWith (touch : Touch) (s : State) (c : Nat) (x : L1Sector) : State :=
  if x.dirty = 0 then s
  else
    let s := touch (recallWith touch s x.pa) x.part x.g true x.pa
    let s := landMask s x.part x.g x.pa x.dirty x.data
    modCore s c (fun k => { k with l1 := k.l1.map (fun y => if y.pa = x.pa then { y with dirty := 0 } else y) })

/-- Every dirty byte of a core's L1 written at the L2 (R144). -/
def writebackWith (touch : Touch) (s : State) (c : Nat) : State := (coreOf s c).l1.foldl (fun s x => cleanWith touch s c x) s

/-- Releaser tags removed, with the records of who has read their lines. -/
def dropTags (s : State) (f : RelTag → Bool) : State :=
  let gone := (s.units.tags.filter f).map (·.line)
  { s with units := { s.units with tags := s.units.tags.filter (fun t => !f t),
                                   tagReads := s.units.tagReads.filter (fun r => !gone.contains r.2) } }

/-- The bytes of its own that a dirty line holds written to memory, when it is written back (R147). -/
def ownBack (s : State) (l : L2Line) : State :=
  let mine := l.own.filter (fun b => l.dirty.getLsbD (b.1 / 128))
  mine.foldl (fun s b => storeSnoop s (256 * l.line + b.1) [b.2])
    (keepHomes s l.slice l.line (fun a => mine.any (fun b => 256 * l.line + b.1 = a)))

/-- A victim leaves the L2: its releaser tag's writeback `wb`, then its dirty sectors are written back and charged (R149, R151, R179). -/
def evictWith (wb : State → Nat → State) (s : State) (l : L2Line) : State :=
  let s := match s.units.tags.find? (fun t => t.line = l.line) with
    | some t => wb (dropTags s (fun u => u.line = l.line)) t.core
    | none => s
  match s.units.l2.find? (fun x => x.line = l.line && x.slice = l.slice) with
  | none => s
  | some l =>
    let s := ownBack (charge s l.part 0x162 (sectorCount l.dirty)) l
    { s with units := { s.units with l2 := s.units.l2.filter (fun x => !(x.line = l.line && x.slice = l.slice)) } }

/-- The place of a line in its slice: one of 256 sets (log entry 61). -/
def l2Set (s : State) (line : Nat) : Nat := line / max s.units.fuses.nslice 1 % 256

/-- An access of a partition to a line at its home: a miss fills the sector and is charged, with a victim chosen by R149; a write marks
the sector dirty; the fill and the write set the partition tag. A peer's memory is accessed at that peer's L2, and a line that the host holds
modified is snooped first (R186). -/
def touchWith (wb : State → Nat → State) (s : State) (p : Nat) (g write : Bool) (pa : Nat) : State :=
  match paTarget s pa with
  | .peer _ => s
  | _ =>
    let line := pa / 256
    let s := snoopRead s line
    let sec : BitVec 2 := 1#2 <<< (pa / 128 % 2)
    let home := homeSlice s p g line
    let present := s.units.l2.any (fun x => x.line = line && x.slice = home)
    let s :=
      if present then s
      else
        let sameSet := s.units.l2.filter (fun x => x.slice = home && l2Set s x.line = l2Set s line)
        let s := if sameSet.length < 16 then s
          else match argMin (linePriority s) sameSet with
            | some v => evictWith wb s v
            | none => s
        { s with units := { s.units with
            l2 := s.units.l2 ++ [{ line := line, slice := home, filled := 0, dirty := 0, part := p, own := [] }] } }
    let missing := s.units.l2.any (fun x => x.line = line && x.slice = home && (x.filled &&& sec) = 0)
    let s := if missing then charge s p 0x160 1 else s
    { s with units := { s.units with l2 := s.units.l2.map (fun x =>
        if x.line = line && x.slice = home then
          { x with filled := x.filled ||| sec, dirty := if write then x.dirty ||| sec else x.dirty,
                   part := if write || missing then p else x.part }
        else x) } }

/-- A touch in which at most `n` evictions of tagged lines follow one from another. -/
def touchFuel : Nat → Touch
  | 0 => touchWith (fun s _ => s)
  | n + 1 => touchWith (fun s c => writebackWith (touchFuel n) s c)

/-- An access to a line's tag: each eviction of a tagged line takes a tag away, so that there are at most as many as tags. -/
def touchL2 : Touch := fun s => touchFuel s.units.tags.length s

def evictLine (s : State) (l : L2Line) : State := evictWith (fun s c => writebackWith touchL2 s c) s l
def cleanSector (s : State) (c : Nat) (x : L1Sector) : State := cleanWith touchL2 s c x
def writebackL1 (s : State) (c : Nat) : State := writebackWith touchL2 s c
def recallStash (s : State) (pa : Nat) : State := recallWith touchL2 s pa

/-- The tag of a line removed with the writeback that it asks for (R178, R179). -/
def clearTag (s : State) (t : RelTag) : State := writebackL1 (dropTags s (fun u => u.line = t.line)) t.core

/-- Promotion (R178): an outside reader at device or system scope of a tagged line makes the named core write back first. -/
def promote (s : State) (team : Option Nat) (line : Nat) : State :=
  match s.units.tags.find? (fun t => t.line = line) with
  | some t => if team = some t.team then s else clearTag s t
  | none => s

/-- Bytes written at the home L2 slice: stash sectors are recalled, host copies are snooped away (R186), then the bytes land. -/
def writeL2 (s : State) (p : Nat) (g : Bool) (pa : Nat) (bs : List Byte) : State :=
  shareStore (landL2 (touchL2 (recallStash s pa) p g true pa) p g pa bs) pa bs

/-- A sector brought into an L1 from its home, merged over its dirty bytes; the set's oldest line leaves when 16 are held (R143). -/
def fillL1 (s : State) (c p : Nat) (g : Bool) (pa : Nat) : State :=
  let base := pa / 128 * 128
  match l1Find s c pa with
  | some x =>
    let s := touchL2 s p g false pa
    let data := l2Read s p g base 128
    mergeL1 s c base (~~~x.dirty) data
  | none =>
    let sameSet := (coreOf s c).l1.filter (fun x => x.pa / 256 % 512 = pa / 256 % 512)
    let lines := (sameSet.map (fun x => x.pa / 256)).foldl (fun acc l => if acc.contains l then acc else acc ++ [l]) []
    let s := if lines.contains (pa / 256) || lines.length < 16 then s
      else
        let old := lines.headD 0
        let s := (sameSet.filter (fun x => x.pa / 256 = old)).foldl (fun s x => cleanSector s c x) s
        modCore s c (fun k => { k with l1 := k.l1.filter (fun x => x.pa / 256 != old) })
    let s := touchL2 s p g false pa
    let data := l2Read s p g base 128
    modCore s c (fun k => { k with l1 := k.l1 ++ [{ pa := base, part := p, g := g, data := data, dirty := 0 }] })

/-- A core's L1 emptied after a writeback (R144). -/
def invalidateL1 (s : State) (c : Nat) : State := modCore (writebackL1 s c) c (fun k => { k with l1 := [] })

/-- The L1s of the cores that a team starts on, or is placed on, emptied: its lanes find every write that happens before their accesses
(R169, R174, R185). -/
def freshL1 (s : State) (c : Nat) (pair : Bool) : State :=
  let s := invalidateL1 s c
  if pair then invalidateL1 s (c + 1) else s

/-! ### The scratchpad's checks, stash fills and writebacks -/

/-- R135: the side and local offset of an effective offset, or its cause. -/
def scratchCheck (t : Team) (side e size : Nat) : Except Nat (Nat × Nat) :=
  let partner := bit e 23
  let o := if partner then e - 2 ^ 23 else e
  if o % size ≠ 0 then .error 6
  else if partner && !t.pair then .error 0x14
  else if t.scr < o + size then .error 7
  else .ok (if partner then 1 - side else side, o)

/-- What a stash sector needs before an access at an offset: nothing, a fill from an address, a wait, or a cause. A fill is an operation of
its partition's queue of the storage and fault service, and waits while an earlier one is in progress there (R180). -/
def stashNeed (s : State) (tm : Nat) (t : Team) (side off : Nat) : Option Trans :=
  match windowAt t side off with
  | none => none
  | some (w, n) =>
    if sectorFilled w n then none
    else some (match translate s (t.core + side) (teamPart s tm) (w.gaddr + 128 * n) .r with
      | .ok pa g => if (partOf s (teamPart s tm)).reads.isEmpty then .ok pa g else .hold
      | r => r)

/-- A sector filled with bytes, some of them poisoned: the bytes that are dirty already stay, with their poison. -/
def fillWindow (t : Team) (w : Window) (n pa : Nat) (bs : List Byte) (bad : List Nat) : Team :=
  let off := w.soff + 128 * n
  let m := sectorDirty w n
  let kept := sectorBad t w n m
  let t := scratchPut t w.side off ((List.range 128).map (fun i => if m.getLsbD i then scratchGet t w.side (off + i) else bs.getD i 0))
  setWindow { t with bad := (kept ++ bad.filter (fun i => !m.getLsbD i)).foldl (fun b i => insertNat (scratchKey w.side (off + i)) b) t.bad }
    { w with sectors := tput w.sectors n { dirty := m }, pages := tput w.pages n pa }

/-- An unfilled sector filled from global memory at device scope (R140), after the core's own L1 bytes of it; a copy in that L1 takes the
bytes too (R169). With an operation of its partition's queue in progress the fill waits (R180). -/
def stashFillAt (s : State) (tm side off : Nat) : State :=
  match team? s tm with
  | none => s
  | some t =>
    match windowAt t side off with
    | none => s
    | some (w, n) =>
      if sectorFilled w n then s
      else
        let p := teamPart s tm
        let va := w.gaddr + 128 * n
        let core := t.core + side
        match translate s core p va .r with
        | .ok pa g =>
          if !(partOf s p).reads.isEmpty then s
          else
            let s := noteAccess s core p va .r
            let s := match l1Find s core pa with
              | some y => cleanSector s core y
              | none => s
            let s := touchL2 s p g false pa
            let bs := l2Read s p g pa 128
            modTeam (mergeL1 s core pa (BitVec.allOnes 128) bs) tm (fun t =>
              fillWindow t w n pa bs ((List.range 128).filter (fun i => memBad s (pa + i) 1)))
        | _ => noteAccess s core p va .r

/-- A range cut at multiples of `unit`, as starts and lengths. -/
def chunks (unit : Nat) : Nat → Nat → Nat → List (Nat × Nat)
  | 0, _, _ => []
  | k + 1, va, n =>
    if n = 0 then []
    else
      let m := min n (unit - va % unit)
      (va, m) :: chunks unit k (va + m) (n - m)

def pageChunks (va n : Nat) : List (Nat × Nat) := chunks 4096 (n / 4096 + 2) va n
def sectorChunks (va n : Nat) : List (Nat × Nat) := chunks 128 (n / 128 + 2) va n

/-- Every stash sector of a range filled, where it can be. -/
def scratchReady (s : State) (tm side off n : Nat) : State :=
  (sectorChunks off n).foldl (fun s c => stashFillAt s tm side c.1) s

/-- Bytes stored in a team's scratchpad: an unfilled sector of a bound window is filled first, where it can be, and the bytes are marked
dirty where a window binds them (R140), so that a later fill keeps them. -/
def scratchStore (s : State) (tm side off : Nat) (bs : List Byte) : State :=
  modTeam (scratchReady s tm side off bs.length) tm (fun t =>
    let t := scratchPut t side off bs
    (List.range bs.length).foldl (fun t i =>
      match windowAt t side (off + i) with
      | some (w, n) => setWindow t { w with sectors := tput w.sectors n { dirty := sectorDirty w n ||| (1#128 <<< ((off + i - w.soff) % 128)) } }
      | none => t) t)

/-- Writeback of one sector (R142); other stash sectors that hold the line are recalled first. -/
def stashClean (s : State) (tm side num sec : Nat) (unfill : Bool) : State :=
  match (team? s tm).bind (fun t => t.windows.find? (fun w => w.side = side && w.num = num)) with
  | none => s
  | some w =>
    let s := if sectorDirty w sec != 0 then
        (stashHolders s (tgetD w.pages sec 0)).foldl (fun s h =>
          if h.1 = tm && h.2.1.side = side && h.2.1.num = num then s
          else stashCleanOne touchL2 s h.1 h.2.1.side h.2.1.num h.2.2 true) s
      else s
    stashCleanOne touchL2 s tm side num sec unfill

/-- Every dirty sector of a team's windows on one side written back (R142). -/
def stashCleanAll (s : State) (tm side : Nat) (unfill : Bool) : State :=
  match team? s tm with
  | none => s
  | some t => t.windows.foldl (fun s w =>
      if w.side = side then w.sectors.foldl (fun s x => stashClean s tm side w.num x.1 unfill) s else s) s

/-- Whether the writeback of a sector at a virtual address waits: its page is storage-backed and not present, or shared and to be copied
(R158, R162). -/
def writebackWaits (s : State) (tm va : Nat) : Bool :=
  let p := teamPart s tm
  match walk s p va .w with
  | .page entry e => !(teamFailed s tm entry || (!joinsRead s p entry e && poolEmpty s p))
  | .cow entry d =>
    !(teamFailed s tm entry || (!joinsCow s p entry (readNum s entry 8) && readNum s (d + 8) 4 ≠ 1 && poolEmpty s p))
  | _ => false

/-- The first dirty sector of a team's windows on a side whose writeback waits. -/
def stashAbsent (s : State) (tm side : Nat) (pick : Window → Bool) : Option Nat :=
  match team? s tm with
  | none => none
  | some t => t.windows.findSome? (fun w =>
      if w.side = side && pick w then
        w.sectors.findSome? (fun (x : Nat × StashSector) =>
          if x.2.dirty = (0 : BitVec 128) || !writebackWaits s tm (w.gaddr + 128 * x.1) then none else some (w.gaddr + 128 * x.1))
      else none)

/-- The first dirty stash sector of a core that holds a physical address and whose writeback waits (R387). -/
def ownAbsent (s : State) (core pa : Nat) : Option (Nat × Nat) :=
  (stashHolders s pa).findSome? (fun h =>
    match team? s h.1 with
    | some t =>
      let va := h.2.1.gaddr + 128 * h.2.2
      if t.core + h.2.1.side = core && sectorDirty h.2.1 h.2.2 ≠ 0 && writebackWaits s h.1 va then some (h.1, va) else none
    | none => none)

/-- A device-scope or system-scope release by a lane (R142, R144, R179): its team's stash on that core and the core's L1 are written
back, and the core's tags go. -/
def releaseWide (s : State) (tm core side : Nat) : State :=
  dropTags (writebackL1 (stashCleanAll s tm side false) core) (fun t => t.core = core)

/-! ### The device's own accesses (R458) -/

/-- The outcome of a device access: bytes, a cause that the servicer did not resolve, or a page to wait for. -/
inductive DevRead where
  | ok (bs : List Byte)
  | fault (cause : Nat)
  | wait (entry : Nat)
  deriving DecidableEq, Repr

/-- A device read within one page, translated in a partition's address space. -/
def devRead (s : State) (p va n : Nat) (a : Acc) : DevRead :=
  match translate s 0 p va a with
  | .ok pa g => .ok (l2Read s p g pa n)
  | .fault c => .fault c
  | .wait e => .wait e
  | .noFrame => .fault 4
  | .hold => .wait 0

/-- What a device read leaves behind. -/
def devNote (s : State) (p va : Nat) (a : Acc) : State :=
  match translate s 0 p va a with
  | .ok pa g => touchL2 (noteAccess s 0 p va a) p g false pa
  | _ => noteAccess s 0 p va a

/-- A system-scope acquire read by the device promotes the line that it reads first (R178). -/
def devPromote (s : State) (p va : Nat) : State :=
  match translate s 0 p va .r with | .ok pa _ => promote s none (pa / 256) | _ => s

/-- A device write within one page, at device or system scope; none when it fails or waits. -/
def devWrite (s : State) (p va : Nat) (bs : List Byte) : Option State :=
  match translate s 0 p va .w with
  | .ok pa g => some (writeL2 (noteAccess s 0 p va .w) p g pa bs)
  | _ => none

/-- A 32-bit field read by the device, 0 where it cannot be read. -/
def devNum (s : State) (p va n : Nat) : Nat :=
  match devRead s p va n .r with | .ok bs => leNat bs | _ => 0

/-- A field written by the device where it can be. -/
def devPut (s : State) (p va n v : Nat) : State := (devWrite s p va (leBytes n v)).getD s

/-! ### Fetching -/

/-- The bytes of an instruction at an address: two, and two more when the length bit asks for them (R77, R79). -/
def fetchBytes (s : State) (core p : Nat) (pc : Addr) : DevRead :=
  match translate s core p pc.toNat .x with
  | .fault c => .fault c
  | .wait e => .wait e
  | .noFrame => .fault 4
  | .hold => .wait 0
  | .ok pa _ =>
    let lo := readMem s pa 2
    if bit (leNat lo) 0 then
      match translate s core p ((pc + 2).toNat) .x with
      | .fault c => .fault c
      | .wait e => .wait e
      | .noFrame => .fault 4
      | .hold => .wait 0
      | .ok pb _ => .ok (lo ++ readMem s pb 2)
    else .ok lo

/-- The length of the instruction at an address: 4 when its length bit is 1 or it cannot be read. -/
def instrLen (s : State) (core p : Nat) (pc : Addr) : Nat :=
  match fetchBytes s core p pc with | .ok bs => bs.length | _ => 4

end Sys2Proof.Machine
end

