-- ==== Sys2Proof/Machine/Access.lean ====
section
/-! DEFINITION. Accesses of lanes: what a load, a store and an atomic do when they are performed, the accesses of retired instructions that
are still to be performed, and the order that is kept among them (R136, R143, R144, R168 to R171, R175 to R179, R183, R184, R386, R411,
R345). -/

namespace Sys2Proof.Machine

/-! ### A lane's place in the memory system -/

/-- Whether a lane's team spans a core pair. -/
def lanePair (s : State) (l : LaneId) : Bool := ((team? s (laneTeam s l)).map (·.pair)).getD false

/-- Whether an access of a lane at a scope uses its core's L1 (R143): never on a management core, and not in rehearsal mode, where
every access is performed at device scope before the next turn (R252). -/
def laneNarrow (s : State) (l : LaneId) (sc : Scope) : Bool :=
  match l with
  | .mgmt _ => false
  | _ => narrowScope (lanePair s l) sc && !teamReh s (laneTeam s l)

/-- Bytes as the L1 and the L2 give them to a lane: a management core has no L1. -/
def laneView (s : State) (l : LaneId) (g : Bool) (pa n : Nat) (narrow : Bool) : List Byte :=
  match l with
  | .mgmt _ => l2Read s (lanePart s l) g pa n
  | _ => viewBytes s (laneCore s l) (lanePart s l) g pa n narrow

/-- Whether one of `n` bytes that a lane reads is poisoned; its core's dirty L1 bytes are not. -/
def laneBad (s : State) (l : LaneId) (pa n : Nat) : Bool :=
  match l with
  | .mgmt _ => memBad s pa n
  | _ =>
    match l1Find s (laneCore s l) pa with
    | some x => (List.range n).any (fun i => !x.dirty.getLsbD (pa % 128 + i) && memBad s (pa + i) 1)
    | none => memBad s pa n

/-- The sector of an address brought in for a lane (R143): at narrow scope a sector that the L1 holds is served as it is, and otherwise it
is filled from its home. A management core reads at the home. -/
def laneFetch (s : State) (l : LaneId) (g narrow : Bool) (pa : Nat) : State :=
  match l with
  | .mgmt _ => touchL2 s (lanePart s l) g false pa
  | _ => if narrow && (l1Find s (laneCore s l) pa).isSome then s else fillL1 s (laneCore s l) (lanePart s l) g pa

/-- Dirty stash sectors of the issuing core at an address, written back before a load (R387). -/
def ownStash (s : State) (l : LaneId) (pa : Nat) : State :=
  match l with
  | .mgmt _ => s
  | _ => (stashHolders s pa).foldl (fun s h =>
      match team? s h.1 with
      | some t =>
        if t.core + h.2.1.side = laneCore s l && sectorDirty h.2.1 h.2.2 ≠ 0 then stashCleanOne touchL2 s h.1 h.2.1.side h.2.1.num h.2.2 true else s
      | none => s) s

/-- The acquire of a lane at a scope (R144): at a wide scope, and in a pair-spanning team at team scope, its core's L1 is written back
and invalidated. -/
def acquireLane (s : State) (l : LaneId) (sc : Scope) : State :=
  match l with
  | .mgmt _ => s
  | _ =>
    if wideScope sc then invalidateL1 s (laneCore s l)
    else match sc with
      | .team => if lanePair s l then invalidateL1 s (laneCore s l) else s
      | _ => s

/-- The writebacks before a release by a lane at a scope (R142, R144, R177). -/
def releaseLane (s : State) (l : LaneId) (sc : Scope) : State :=
  match l with
  | .mgmt _ => s
  | _ =>
    if wideScope sc then releaseWide s (laneTeam s l) (laneCore s l) (laneSide s l)
    else match sc with
      | .team => if lanePair s l then writebackL1 s (laneCore s l) else s
      | _ => s

/-! ### Releaser tags (R171, R177, R178) -/

/-- Whether a lane has executed a FENCE at team scope, so that each store or atomic after it is the write of a release side (R171). -/
def laneFenced (s : State) (l : LaneId) : Bool :=
  match l with
  | .wave g i => (group? s g).any (fun x => x.fenced.getLsbD i)
  | .grip t => ((team? s t).bind (·.grip)).any (·.fenced)
  | .mgmt _ => false

/-- Whether a store or atomic of a lane is the write W of a team-scope release side in a team on one core (R177): a release at team scope,
or any write after a FENCE at team scope but a release at a wider one. -/
def tagsLine (s : State) (l : LaneId) (sc : Scope) (rel : Bool) : Bool :=
  match l with
  | .mgmt _ => false
  | _ => !lanePair s l && ((rel && sc = .team) || (laneFenced s l && !(rel && wideScope sc)))

/-- A releaser tag set on a line; an old tag's writeback is done first (R177, R179). -/
def setTag (s : State) (l : LaneId) (pa : Nat) : State :=
  let t : RelTag := { line := pa / 256, core := laneCore s l, team := laneTeam s l }
  match s.units.tags.find? (fun u => u.line = t.line) with
  | some u =>
    if u = t then s
    else
      let s := clearTag s u
      { s with units := { s.units with tags := s.units.tags ++ [t] } }
  | none => { s with units := { s.units with tags := s.units.tags ++ [t] } }

/-- The team that an acquire by a lane belongs to. -/
def acquireTeam (s : State) (l : LaneId) : Option Nat := match l with | .mgmt _ => none | _ => some (laneTeam s l)

/-- Promotion by a lane's acquire at a wide scope (R178). -/
def promoteFor (s : State) (l : LaneId) (sc : Scope) (pa : Nat) : State :=
  if wideScope sc then promote s (acquireTeam s l) (pa / 256) else s

/-- A read of a tagged line by a lane outside the tagged team is remembered: a FENCE of the lane at a wide scope makes it an acquire. -/
def noteTagRead (s : State) (l : LaneId) (pa : Nat) : State :=
  if s.units.tags.any (fun t => t.line = pa / 256 && acquireTeam s l ≠ some t.team) && !s.units.tagReads.contains (l, pa / 256) then
    { s with units := { s.units with tagReads := s.units.tagReads ++ [(l, pa / 256)] } }
  else s

/-- The tagged lines that a lane has read are promoted at its FENCE at a wide scope (R171, R178). -/
def promoteReads (s : State) (l : LaneId) : State :=
  let lines := (s.units.tagReads.filter (fun r => r.1 = l)).map (·.2)
  let s := lines.foldl (fun s line => promote s (acquireTeam s l) line) s
  { s with units := { s.units with tagReads := s.units.tagReads.filter (fun r => r.1 != l) } }

/-! ### Accesses performed -/

/-- A load of global memory performed (R143, R386, R387): the bytes, and whether one of them has an uncorrectable error. -/
def loadAt (s : State) (l : LaneId) (sc : Scope) (acq g : Bool) (pa n : Nat) : State × List Byte × Bool :=
  let s := noteTagRead (ownStash s l pa) l pa
  let s := if acq then promoteFor s l sc pa else s
  let narrow := laneNarrow s l sc
  let s := laneFetch s l g narrow pa
  (s, laneView s l g pa n narrow, laneBad s l pa n)

/-- The bytes that a lane's store leaves: a management core runs system software (Table 10-3, log entry 94). -/
def laneBytes (s : State) (l : LaneId) (pa : Nat) (bs : List Byte) : List Byte :=
  match l with | .mgmt _ => softBytes s pa bs | _ => bs

/-- A store to global memory performed (R143, R144, R177, R412); with `tag` it is the write of a team-scope release side. -/
def storeAt (s : State) (l : LaneId) (sc : Scope) (rel tag g : Bool) (pa : Nat) (bs : List Byte) : State :=
  let s := if rel then releaseLane s l sc else s
  let bs := laneBytes s l pa bs
  let c := laneCore s l
  if laneNarrow s l sc && !tag then
    patchL1 (laneFetch (recallStash s pa) l g true pa) c pa bs true
  else
    let s := writeL2 s (lanePart s l) g pa bs
    let s := match l with | .mgmt _ => s | _ => patchL1 s c pa bs false
    if tag then setTag s l pa else s

/-- The lesser and the greater of two words, as int32 or uint32. -/
def minInt (a b : Word) : Word := if a.slt b then a else b
def maxInt (a b : Word) : Word := if b.slt a then a else b
def minUint (a b : Word) : Word := if a.ult b then a else b
def maxUint (a b : Word) : Word := if b.ult a then a else b

/-- The value an atomic writes, if it writes (Table 16-4): `v` and, for cas, the second data word. -/
def atomValue (op : AtomOp) (old v c1 : Word) : Option Word :=
  match op with
  | .add => some (old + v)
  | .min => some (minInt old v)
  | .max => some (maxInt old v)
  | .minu => some (minUint old v)
  | .maxu => some (maxUint old v)
  | .and => some (old &&& v)
  | .or => some (old ||| v)
  | .xor => some (old ^^^ v)
  | .exch => some v
  | .cas => if old = v then some c1 else none
  | .fadd => some (w32 (roundFp fp32 .rne false (numAdd .rne (decodeFp fp32 old.toNat) (decodeFp fp32 v.toNat)).1).1)

/-- Whether an atomic is performed by the host's coherence agent: at system scope, on host memory (R143, R187). -/
def hostAtomic (s : State) (sc : Scope) (pa : Nat) : Bool := sc = .sys && paTarget s pa = .host

/-- The L2's copies of a line given up to the host, which performs an atomic on it. -/
def yieldLine (s : State) (pa : Nat) : State := (s.units.l2.filter (fun x => x.line = pa / 256)).foldl evictLine s

/-- A global atomic performed (R143, R187, R345), at the home slice or by the host's coherence agent: the old value and whether it is
poisoned. A word with an uncorrectable error is not written; a copy that the L1 holds is updated. With `tag` its write is that of a team-scope
release side. -/
def atomAt (s : State) (l : LaneId) (op : AtomOp) (sc : Scope) (ar tag g : Bool) (pa : Nat) (v c1 : Word) : State × Word × Bool :=
  let s := noteTagRead (if ar then promoteFor (releaseLane s l sc) l sc pa else s) l pa
  let c := laneCore s l
  let s := match l, l1Find s c pa with
    | .mgmt _, _ => s
    | _, some x => cleanSector s c x
    | _, none => s
  let s := recallStash s pa
  let s := if hostAtomic s sc pa then yieldLine s pa else s
  let old := w32 (l2Num s (lanePart s l) g pa 4)
  let bad := memBad s pa 4
  let patch (s : State) (w : Word) : State := match l with | .mgmt _ => s | _ => patchL1 s c pa (leBytes 4 w.toNat) false
  let s := match (if bad then none else atomValue op old v c1) with
    | some w =>
      let bs := leBytes 4 w.toNat
      let s := patch (if hostAtomic s sc pa then storeMem s pa bs else writeL2 s (lanePart s l) g pa bs) w
      if tag then setTag s l pa else s
    | none => patch (if hostAtomic s sc pa then s else touchL2 s (lanePart s l) g false pa) old
  (s, old, bad)

/-- The physical address that a bound stash window gives a scratchpad offset (R184). -/
def windowPa (s : State) (tm side off : Nat) : Option Nat :=
  match (team? s tm).bind (fun t => (windowAt t side off).map (fun w => (t, w))) with
  | none => none
  | some (t, w, n) =>
    match tget? w.pages n with
    | some pa => some (pa + (off - w.soff) % 128)
    | none => match translate s (t.core + side) (teamPart s tm) (w.gaddr + 128 * n) .r with
      | .ok pa _ => some (pa + (off - w.soff) % 128)
      | _ => none

/-- The bytes of a scratchpad access that lies in a stash sector which could not be filled (log entry 87): dirty ones, and the others of
memory at `ga`. -/
def unfilledBytes (s : State) (t : Team) (w : Window) (n side off k ga : Nat) : List Byte :=
  (List.range k).map (fun i =>
    if (sectorDirty w n).getLsbD ((off + i - w.soff) % 128) then scratchGet t side (off + i) else memGet s.mem (ga + i))

/-- A load of a team's scratchpad performed (R388). -/
def loadScratchAt (s : State) (tm side off n : Nat) (ga : Option Nat) : State × List Byte × Bool :=
  let s := scratchReady s tm side off n
  match team? s tm with
  | some t =>
    match windowAt t side off, ga with
    | some (w, k), some a =>
      if sectorFilled w k then (s, scratchRead t side off n, scratchBad t side off n)
      else (s, unfilledBytes s t w k side off n a, memBad s a n)
    | _, _ => (s, scratchRead t side off n, scratchBad t side off n)
  | none => (s, List.replicate n 0, false)

/-- A scratchpad atomic performed (R345). -/
def atomScratchAt (s : State) (op : AtomOp) (tm side off : Nat) (ga : Option Nat) (v c1 : Word) : State × Word × Bool :=
  let r := loadScratchAt s tm side off 4 ga
  let old := w32 (leNat r.2.1)
  match (if r.2.2 then none else atomValue op old v c1) with
  | some w => (scratchStore r.1 tm side off (leBytes 4 w.toNat), old, r.2.2)
  | none => (r.1, old, r.2.2)

/-! ### Accesses still to be performed (R170, R176) -/

/-- The physical address of the first byte of an access, where it is one to global memory (R184). -/
def lateGlobal (e : Late) : Option Nat := match e.place with | none => some e.addr | some _ => e.ga

/-- Whether two ranges meet. -/
def rangesMeet (a m b n : Nat) : Bool := a < b + n && b < a + m

/-- Whether two accesses touch a common byte: of one scratchpad, or of global memory, where a byte of a bound stash window is its global
byte (R184). -/
def sharesByte (a b : Late) : Bool :=
  (a.place = b.place && rangesMeet a.addr a.size b.addr b.size) ||
    (match lateGlobal a, lateGlobal b with
     | some x, some y => rangesMeet x a.size y b.size
     | _, _ => false)

/-- Whether an access writes, and whether it is an atomic. -/
def lateWrites (e : Late) : Bool := match e.op with | .load => false | _ => true
def lateAtomic (e : Late) : Bool := match e.op with | .atom _ _ _ => true | _ => false

/-- Whether an earlier access `a` that is still to be performed must be performed before a later one: of the same lane by Table 7-3 and R175
(a common byte, an acquire first, a release last, a release before an acquire, or a FENCE between them with the later one writing), or of a
lower lane position of the same instruction, to a common byte or as an atomic (R136). -/
def mustPrecede (a b : Late) : Bool :=
  (a.lane = b.lane && (sharesByte a b || a.acq || b.rel || (a.rel && b.acq) || (a.fenced && lateWrites b))) ||
    (a.issue = b.issue && a.lane ≠ b.lane && (sharesByte a b || (lateAtomic a && lateAtomic b)))

/-- The accesses that `seed` names, and those that must precede them, the oldest first. -/
def lateClosure (seed : Late → Bool) (xs : List Late) : List Late :=
  xs.foldr (fun a acc => if seed a || acc.any (mustPrecede a) then a :: acc else acc) []

/-- The value of a load lands in the posted result that awaits it; with an uncorrectable error every element of the lane's result is
poisoned (R57). The result can arrive once the last of its accesses is performed. -/
def lateValue (s : State) (e : Late) (bs : List Byte) (bad : Bool) : State :=
  { s with posted := s.posted.map (fun p =>
      if p.id = e.post then
        { p with kind := if s.late.any (fun x => x.post = e.post) then .late else .data,
                 dests := p.dests.map (fun d =>
                   (d.1, d.2.1,
                     if e.dst ≤ d.2.1 && d.2.1 < e.dst + (e.size + 3) / 4 then w32 (leNat ((bs.drop (4 * (d.2.1 - e.dst))).take 4)) else d.2.2.1,
                     d.2.2.2 || bad)) }
      else p) }

/-- Whether an access is to a peer that no working link reaches any more (R330). -/
def cutOff (s : State) (pa : Nat) : Bool := match paTarget s pa with | .peer m => !peerReach s m | _ => false

/-- One access performed: a release after its writebacks, an acquire before its invalidation (R142, R144). With no link left to its peer, a store
is lost, a load is poisoned, and an atomic is poisoned and may or may not be performed (R330, R340). -/
def performOne (s : State) (e : Late) : State :=
  let s := { s with late := s.late.filter (fun x => x.id != e.id) }
  let done (s : State) : State := if e.acq then acquireLane s e.lane e.sc else s
  let before (s : State) : State := if e.rel then releaseLane s e.lane e.sc else s
  match e.op, e.place with
  | .load, none =>
    let r := loadAt (countAccess s e.lane e.g true e.addr) e.lane e.sc e.acq e.g e.addr e.size
    done (noteLinkAt (lateValue r.1 e r.2.1 (r.2.2 || cutOff s e.addr)) e.lane e.addr e.post)
  | .load, some (tm, side) =>
    let r := loadScratchAt s tm side e.addr e.size e.ga
    done (lateValue r.1 e r.2.1 r.2.2)
  | .store bs, none =>
    if cutOff s e.addr then before s
    else storeAt (countAccess s e.lane e.g false e.addr) e.lane e.sc e.rel e.tag e.g e.addr bs
  | .store bs, some (tm, side) => scratchStore (before s) tm side e.addr bs
  | .atom op v c1, none =>
    if cutOff s e.addr && (Config.freeWord s.freeIx).getLsbD 0 then lateValue { before s with freeIx := s.freeIx + 1 } e (leBytes 4 0) true
    else
    let r := atomAt (countAccess s e.lane e.g true e.addr) e.lane op e.sc e.acq e.tag e.g e.addr v c1
    done (noteLinkAt (lateValue r.1 e (leBytes 4 r.2.1.toNat) (r.2.2 || cutOff s e.addr)) e.lane e.addr e.post)
  | .atom op v c1, some (tm, side) =>
    let r := atomScratchAt (before s) op tm side e.addr e.ga v c1
    done (lateValue r.1 e (leBytes 4 r.2.1.toNat) r.2.2)

/-- The accesses that `seed` names performed, after those that must precede them. -/
def performThose (s : State) (seed : Late → Bool) : State := (lateClosure seed s.late).foldl performOne s

/-- One access performed, by number. -/
def performLate (s : State) (id : Nat) : State := performThose s (fun e => e.id = id)

/-- Every access of a lane, of a group, or of a team performed. -/
def drainLane (s : State) (l : LaneId) : State := performThose s (fun e => e.lane = l)
def drainGroup (s : State) (g : Nat) : State := performThose s (fun e => match e.lane with | .wave h _ => h = g | _ => false)
def drainTeam (s : State) (tm : Nat) : State := performThose s (fun e => laneTeam s e.lane = tm)

/-- Every access to a frame of global memory performed: those that used a translation to it come before that translation goes (R156, R162,
R441). -/
def drainFrame (s : State) (f : Nat) : State :=
  performThose s (fun e => match lateGlobal e with | some a => a / 4096 = f / 4096 | none => false)

/-- A lane's next access makes those be performed first that must precede it (Table 7-3). -/
def beforeAccess (s : State) (e : Late) : State := performThose s (fun a => mustPrecede a e)

/-- An access of a lane as it is issued. -/
def access (s : State) (l : LaneId) (op : LateOp) (place : Option (Nat × Nat)) (addr n : Nat) (g : Bool) (sc : Scope) (acq rel : Bool)
    (post dst : Nat) : Late :=
  { id := 0, issue := s.deferring.getD 0, lane := l, op := op, place := place, addr := addr,
    ga := (match place with | some (tm, side) => windowPa s tm side addr | none => none), size := n, g := g, sc := sc, acq := acq, rel := rel,
    tag := (place.isNone && (match op with | .load => false | _ => tagsLine s l sc rel)), post := post, dst := dst, fenced := false }

/-- Whether an access of a lane is left to be performed later: the schedule says so, and the lane's team is not in rehearsal mode, where an
access is performed before the next turn (R252). -/
def isLate (s : State) (l : LaneId) : Bool := s.deferring.isSome && !teamReh s (laneTeam s l)

/-- The single-copy-atomic parts of an access: a b128 access is two 8-byte halves (R168). -/
def accessParts (n : Nat) : List (Nat × Nat) := if n = 16 then [(0, 8), (8, 8)] else [(0, n)]

/-- An access added to those still to be performed. -/
def addLate (s : State) (e : Late) : State := { s with late := s.late ++ [{ e with id := s.nextTag }], nextTag := s.nextTag + 1 }

/-- The parts of an access added; `mk` gives each part's operation. Before a release is left, the lane's earlier accesses are performed and the
dirty bytes that it covers are written back. -/
def addParts (s : State) (e : Late) (mk : Nat → Nat → LateOp) : State :=
  let s := if e.rel then releaseLane (drainLane s e.lane) e.lane e.sc else s
  (accessParts e.size).foldl (fun s p => addLate s
    { e with op := mk p.1 p.2, addr := e.addr + p.1, ga := e.ga.map (· + p.1), size := p.2, dst := e.dst + p.1 / 4 }) s

/-- The destinations of a load of `n` bytes into register `d` on. -/
def loadDests (l : LaneId) (d n : Nat) (bs : List Byte) (bad : Bool) : List (LaneId × Nat × Word × Bool) :=
  (List.range ((n + 3) / 4)).map (fun k => (l, d + k, w32 (leNat ((bs.drop (4 * k)).take 4)), bad))

/-- A load of a lane: performed at once with its value posted, or left to be performed. -/
def loadAccess (s : State) (l : LaneId) (sc : Scope) (acq g : Bool) (d pa n : Nat) : State :=
  let e := access s l .load none pa n g sc acq false s.nextTag d
  if isLate s l then addParts (post s .late (loadDests l d n [] false)) e (fun _ _ => .load)
  else
    let r := loadAt (countAccess (beforeAccess s e) l g true pa) l sc acq g pa n
    let s := noteLink (post r.1 .data (loadDests l d n r.2.1 r.2.2)) l pa
    if acq then acquireLane s l sc else s

/-- A store of a lane: performed at once, or left to be performed. -/
def storeAccess (s : State) (l : LaneId) (sc : Scope) (rel g : Bool) (pa : Nat) (bs : List Byte) : State :=
  let e := access s l (.store bs) none pa bs.length g sc false rel 0 0
  if isLate s l then addParts s e (fun k n => .store ((bs.drop k).take n))
  else storeAt (countAccess (beforeAccess s e) l g false pa) l sc rel e.tag g pa bs

/-- An atomic of a lane. -/
def atomAccess (s : State) (l : LaneId) (op : AtomOp) (sc : Scope) (ar g : Bool) (d pa : Nat) (v c1 : Word) : State :=
  let e := access s l (.atom op v c1) none pa 4 g sc ar ar s.nextTag d
  if isLate s l then addParts (post s .late (loadDests l d 4 [] false)) e (fun _ _ => .atom op v c1)
  else
    let r := atomAt (countAccess (beforeAccess s e) l g true pa) l op sc ar e.tag g pa v c1
    let s := noteLink (post r.1 .data [(l, d, r.2.1, r.2.2)]) l pa
    if ar then acquireLane s l sc else s

/-- The scope of a scratchpad access. -/
def localScope (team : Bool) : Scope := if team then .team else .grp

/-- A scratchpad load of a lane at a local offset, with `sync` for an acquire and `team` for team scope. -/
def loadLocal (s : State) (l : LaneId) (team sync : Bool) (tm side off d n : Nat) : State :=
  let e := access s l .load (some (tm, side)) off n false (localScope team) sync false s.nextTag d
  if isLate s l then addParts (post s .late (loadDests l d n [] false)) e (fun _ _ => .load)
  else
    let r := loadScratchAt (beforeAccess s e) tm side off n e.ga
    let s := post r.1 .data (loadDests l d n r.2.1 r.2.2)
    if sync && team then acquireLane s l .team else s

/-- A scratchpad store of a lane. -/
def storeLocal (s : State) (l : LaneId) (team sync : Bool) (tm side off : Nat) (bs : List Byte) : State :=
  let e := access s l (.store bs) (some (tm, side)) off bs.length false (localScope team) false sync 0 0
  if isLate s l then addParts s e (fun k n => .store ((bs.drop k).take n))
  else
    let s := beforeAccess s e
    scratchStore (if sync && team then releaseLane s l .team else s) tm side off bs

/-- A scratchpad atomic of a lane. -/
def atomLocal (s : State) (l : LaneId) (op : AtomOp) (team sync : Bool) (tm side off d : Nat) (v c1 : Word) : State :=
  let e := access s l (.atom op v c1) (some (tm, side)) off 4 false (localScope team) sync sync s.nextTag d
  if isLate s l then addParts (post s .late (loadDests l d 4 [] false)) e (fun _ _ => .atom op v c1)
  else
    let s := beforeAccess s e
    let r := atomScratchAt (if sync && team then releaseLane s l .team else s) op tm side off e.ga v c1
    let s := post r.1 .data [(l, d, r.2.1, r.2.2)]
    if sync && team then acquireLane s l .team else s

/-! ### FENCE (R175) -/

/-- What a FENCE makes of a lane's accesses that are still to be performed: its loads and atomics, and its stores at a narrow scope or to a
scratchpad, are performed; with `sc` its other stores too; otherwise these stay, and every later write of the lane waits for them. -/
def fenceAccesses (s : State) (l : LaneId) (sc : Bool) : State :=
  let stays (e : Late) : Bool := !sc && (match e.op with | .store _ => true | _ => false) && e.place.isNone && !laneNarrow s l e.sc
  let s := performThose s (fun e => e.lane = l && !stays e)
  { s with late := s.late.map (fun e => if e.lane = l then { e with fenced := true } else e) }

/-- A lane's FENCE at team scope makes its later writes those of release sides (R171). -/
def markFenced (s : State) (l : LaneId) : State :=
  match l with
  | .wave g i => modGroup s g (fun x => { x with fenced := x.fenced ||| laneBit i })
  | .grip t => modTeam s t (fun x => { x with grip := x.grip.map (fun k => { k with fenced := true }) })
  | .mgmt _ => s

/-! ### The acquire of a SLOTW (R170, R183) -/

/-- Whether a SLOTW of a lane, an acquire, is still waiting: no later access of the lane is performed before it. -/
def awaitsRing (s : State) (l : LaneId) : Bool :=
  s.posted.any (fun p => (match p.kind with | .slotw _ _ _ _ => true | _ => false) && p.dests.any (fun d => d.1 = l))

/-- Whether an access of a lane that its plan itself reads has to wait: for a SLOTW, or for accesses of the lane that are still to be
performed. -/
def accessHeld (s : State) (l : LaneId) : Bool := awaitsRing s l || s.late.any (fun e => e.lane = l)

end Sys2Proof.Machine
end

