-- ==== Sys2Proof/Machine/Life.lean ====
section
/-! DEFINITION. Divergence and the ends of things: REGANG, barriers, exits, holders, and the ends of groups and teams (R23 to R43,
R228, R259, R323, R361). -/

namespace Sys2Proof.Machine

/-! ### REGANG and settling -/

/-- The parked entry with the lowest address. -/
def lowestParked (v : Level) : Option ParkEntry := argMin (fun p => p.pc.toNat) v.parked

/-- R29, steps 2 to 4, for a level without a running set: the oldest pending entry runs; else the lanes parked at the lowest address
run past it when its REGANG joins the slice only, as every REGANG does in a handler (R259). -/
def settleLevel (handler : Bool) (v : Level) : Level :=
  if v.running ≠ 0 then v
  else match v.pending with
    | p :: ps => { v with pc := p.pc, running := p.lanes, pending := ps }
    | [] =>
      match lowestParked v with
      | some p =>
        if p.own || handler then
          { v with pc := p.pc + 4, running := p.lanes, parked := v.parked.filter (fun q => q.pc != p.pc) }
        else v
      | none => v

/-- A slice whose current level has no running set goes on: its level settles, and a frame whose lanes have all exited is freed
(R259). -/
def settleSlice (x : Slice) : Slice :=
  go x.frames.length x
where
  go : Nat → Slice → Slice
    | 0, x => setLevel x (settleLevel (inHandler x) (levelOf x))
    | n + 1, x =>
      let y := setLevel x (settleLevel (inHandler x) (levelOf x))
      match y.frames with
      | f :: fs =>
        if f.level.running = 0 && f.level.pending.isEmpty && f.level.parked.isEmpty then go n { y with frames := fs, redo := [] } else y
      | [] => y

/-- R29, step 1: the running lanes of a level park at its address. -/
def parkLevel (own : Bool) (v : Level) : Level :=
  let parked := if v.parked.any (fun p => p.pc = v.pc)
    then v.parked.map (fun p => if p.pc = v.pc then { p with lanes := p.lanes ||| v.running } else p)
    else v.parked ++ [{ pc := v.pc, own := own, lanes := v.running }]
  { v with running := 0, parked := parked }

/-- Every lane of a group. -/
def allLanes (g : Group) : LMask := maskOf (List.range g.width)

/-- The lanes of slice `n` that have not exited. -/
def liveLanes (g : Group) (n : Nat) : LMask := sliceMask n &&& allLanes g &&& ~~~g.exited

/-- The slices of a group that hold a lane that has not exited, with their numbers. -/
def liveSlices (g : Group) : List (Nat × Slice) :=
  (List.range (g.width / 4)).filterMap (fun n =>
    if liveLanes g n = 0 then none else (g.slices[n]?).map (fun x => (n, x)))

/-- The address at which a slice is settled for a span-0 REGANG, if it is (R30). -/
def settledAt (x : Slice) : Option Addr :=
  if x.frames.isEmpty && x.halt.isNone && x.prog.running = 0 && x.prog.pending.isEmpty then
    match lowestParked x.prog with
    | some p => if p.own then none else some p.pc
    | none => none
  else none

/-- R30: a group whose live slices are all settled completes the span-0 REGANG at the lowest address; in each wave slot the slices that
it releases form one gang. -/
def completeRegang (s : State) (g : Nat) : State :=
  match group? s g with
  | none => s
  | some x =>
    let ls := liveSlices x
    let at? := ls.map (fun e => settledAt e.2)
    if ls.isEmpty || at?.any Option.isNone then s
    else match leastOf (at?.filterMap (fun a => a.map BitVec.toNat)) with
      | none => s
      | some m =>
        let free := ls.filter (fun e => settledAt e.2 = some (BitVec.ofNat 56 m))
        free.foldl (fun s e =>
          let label := (leastOf ((free.filter (fun f => laneSeat x (4 * f.1) = laneSeat x (4 * e.1))).map
            (fun f => slotSlice x f.1))).getD 0
          modSlice s g e.1 (fun y =>
            match lowestParked y.prog with
            | some p =>
              { y with gang := label,
                       prog := { y.prog with pc := p.pc + 4, running := p.lanes,
                                             parked := y.prog.parked.filter (fun q => q.pc != p.pc) } }
            | none => y)) s

/-! ### Barriers (R37 to R39) -/

/-- Whether every lane of a group that has not exited waits in the same way. -/
def allWait (x : Group) (w : Wait) : Bool :=
  (liveSlices x).all (fun e => e.2.wait = w && e.2.frames.isEmpty && e.2.halt.isNone && e.2.prog.running = liveLanes x e.1)

/-- The waiting lanes of a group go on past the barrier. -/
def releaseBar (s : State) (g : Nat) (w : Wait) : State :=
  partGroup (modGroup s g (fun x => { x with slices := x.slices.map (fun y =>
    if y.wait = w then { y with wait := .none, prog := { y.prog with pc := y.prog.pc + 4 } } else y) })) g

/-- A group barrier that is complete releases its lanes; a group with no live lane completes nothing. -/
def completeBar (s : State) (g : Nat) : State :=
  match group? s g with
  | none => s
  | some x =>
    if (liveSlices x).isEmpty then s
    else (List.range 4).foldl (fun s n => if allWait x (.bar n) then releaseBar s g (.bar n) else s) s

/-- Whether the team barrier is complete. -/
def teamBarDone (s : State) (t : Team) : Bool :=
  t.groups.all (fun g => match group? s g with | some x => allWait x .teamBar | none => true) &&
    t.groups.any (fun g => match group? s g with | some x => !(liveSlices x).isEmpty | none => false)

/-- The team barrier, with its acquire-release at team scope: a pair-spanning team's two L1s write back and are invalidated. -/
def completeTeamBar (s : State) (tm : Nat) : State :=
  match team? s tm with
  | none => s
  | some t =>
    if teamBarDone s t then
      let s := t.groups.foldl (fun s g => releaseBar s g .teamBar) s
      if t.pair then invalidateL1 (invalidateL1 s t.core) (t.core + 1) else s
    else s

/-! ### Holders of slates and leases (R228, R320) -/

/-- The groups of a wave slot that have a live lane. -/
def slotAlive (s : State) (k : Nat) : Bool := (slotGroups s k).any (fun e => e.2.exited ≠ allLanes e.2)

/-- A holder's name: the first wave slot of its group. -/
def holderOf (x : Group) (k : Nat) : Nat := if x.width = 64 then x.seats.headD k else k

/-- The holder that a wave slot belongs to. -/
def slotHolder (s : State) (k : Nat) : Nat :=
  match slotGroups s k with
  | e :: _ => holderOf e.2 k
  | [] => k

/-- The holders of a team in a quadrant, in ascending order of the lowest group number of that team that each holds (R228); a group whose lanes
have all exited is over (R43). -/
def teamHolders (s : State) (t : Team) (core quad : Nat) : List Nat :=
  let gs := t.groups.filterMap (fun g => group? s g)
  let hs := (gs.filter (fun x => !x.ended && x.exited ≠ allLanes x && x.seats.any (fun k => k < 3072 && slotCore k = core && slotQuad k = quad))).map
    (fun x => (x.gidx, holderOf x (x.seats.headD 0)))
  (sortNat (hs.map (·.1))).foldl (fun acc i =>
    match hs.find? (fun h => h.1 = i) with
    | some h => if acc.contains h.2 then acc else acc ++ [h.2]
    | none => acc) []

/-- The slate given to a holder, or freed (R229). -/
def setSlate (s : State) (core quad : Nat) (h : Option Nat) : State := modQuad s core quad (fun q => { q with slate := h })

/-- A lease ends; `trap` says whether its holder takes cause 0x0C (R323), once, on its first slot. -/
def endLease (s : State) (cl : Nat) (trap : Bool) : State :=
  match (clusterOf s cl).lease with
  | none => s
  | some l =>
    let s := setCluster s cl { clusterOf s cl with lease := none, mhz := 1700, lowered := 0 }
    if trap then (match l.slots with | k :: _ => addAsync s k l.team 0x0C 0 | [] => s) else s

/-- What a wave slot without a live group leaves: the slate, its place among the slate's waiters, its lease, and its pending causes
(R228, R323, R361). -/
def dropHolder (s : State) (k : Nat) : State :=
  if slotAlive s k then s
  else
    let c := slotCore k
    let q := slotQuad k
    let s := modSlot s k (fun x => { x with asyncs := [] })
    let s := modQuad s c q (fun x =>
      { x with slate := if x.slate = some k then none else x.slate, waiters := x.waiters.filter (· != k) })
    match (clusterOf s (c / 4)).lease with
    | some l => if l.slots.all (fun j => !slotAlive s j) && l.slots.contains k then endLease s (c / 4) false else s
    | none => s

/-! ### The ends of groups and teams -/

/-- Whether a posted result is destined for a group. -/
def awaited (s : State) (g : Nat) : Bool :=
  s.posted.any (fun p => p.dests.any (fun d => match d.1 with | .wave h _ => h = g | _ => false))

/-- The commits, and the tile accesses, of a tile back end's queue. -/
def commitsOf (q : List TileOp) : List TbeOp := q.filterMap (fun o => match o with | .commit c => some c | .access _ => none)
def accessesOf (q : List TileOp) : List TileAccess := q.filterMap (fun o => match o with | .access a => some a | .commit _ => none)

/-- Engine operations that a team started and that target its scratchpad (R43). -/
def engineBusy (s : State) (tm : Nat) : Bool :=
  s.units.cores.any (fun e =>
    e.2.copies.any (fun o => o.team = tm) ||
    e.2.tex.any (fun o => ((group? s o.group).map (·.team)) = some tm) ||
    (accessesOf e.2.tbe).any (fun o => ((group? s o.group).map (·.team)) = some tm) ||
    e.2.quads.any (fun q => q.mq.any (fun o => ((group? s o.group).map (·.team)) = some tm)))
  || s.units.clusters.any (fun e => e.2.rays.any (fun o => o.team = tm))

/-- A group's residence up to now counted for its core (R244). A group whose wave slots are given up is not resident. -/
def leaveClock (s : State) (x : Group) : Group :=
  let k := x.seats.headD 0
  if k < 3072 then
    let c := slotCore k
    let clk := (coreOf s c).clk
    { x with spent := tput x.spent c (tgetD x.spent c 0 + (clk - x.startClk)), startClk := clk }
  else x

/-- A group's charge (R244): for each core it ran on, its resident time in core clocks times width ÷ 32, rounded down; and their sum. -/
def groupCharge (x : Group) : Nat := (x.spent.map (fun e => e.2 * x.width / 32)).foldl (· + ·) 0

/-- A charge of a retired group to its partition and queue (R245, R246). -/
def chargeLaunch (s : State) (lid c : Nat) : State :=
  match launch? s lid with
  | none => s
  | some l =>
    let tkt := max 1 ((bankReg s l.part 0x182).toNat % 65536)
    modPart s l.part (fun p =>
      { p with pass := p.pass + c * (2 ^ 20 / tkt),
               deficits := match l.src with
                 | .queue q => tput p.deficits q (tgetD p.deficits q 0 - c)
                 | _ => p.deficits })

/-- The charge of a group that retires. -/
def chargeGroup (s : State) (g : Nat) : State :=
  match group? s g with
  | none => s
  | some x =>
    match team? s x.team with
    | none => s
    | some t => chargeLaunch s t.launch (groupCharge (leaveClock s x))

/-- Cores being removed that hold none of a partition's teams leave the partition (R274). -/
def leaveCores (s : State) (p : Nat) : State :=
  modPart s p (fun x => { x with removing := x.removing.filter (fun c =>
    s.work.teams.any (fun e => !e.2.ended && teamPart s e.1 = p && (e.2.core = c || (e.2.pair && e.2.core + 1 = c)))) })

/-- The end of a team (R43, R142): its stash is written back, its grip context ends, and its scratchpad is released. -/
def endTeam (s : State) (tm : Nat) : State :=
  match team? s tm with
  | none => s
  | some t =>
    let s := stashCleanAll s tm 0 true
    let s := if t.pair then stashCleanAll s tm 1 true else s
    let s := modTeam s tm (fun t =>
      { t with ended := true, windows := [], scratch := [], bad := [], grip := t.grip.map (fun k => { k with ended := true }) })
    let x := clusterOf s (t.core / 4)
    leaveCores (modLaunch (setCluster s (t.core / 4) { x with idleAt := x.clk }) t.launch (fun l => { l with ended := l.ended + 1 })) (teamPart s tm)

/-- The page that the writeback of a team's stash meets absent, with the core whose access it is (R142). -/
def endAbsent (s : State) (tm : Nat) (t : Team) : Option (Nat × Nat) :=
  match stashAbsent s tm 0 (fun _ => true) with
  | some va => some (t.core, va)
  | none => if t.pair then (stashAbsent s tm 1 (fun _ => true)).map (fun va => (t.core + 1, va)) else none

/-- A team ends once its groups have ended and no engine operation of it targets the scratchpad; its end waits for the pages that the
writeback of its stash meets absent (R142). -/
def tryEndTeam (s : State) (tm : Nat) : State :=
  match team? s tm with
  | none => s
  | some t =>
    if !t.ended && t.groups.all (fun g => ((group? s g).map (·.ended)).getD true) && !engineBusy s tm then
      let s := drainTeam s tm
      match endAbsent s tm t with
      | some (core, va) => noteAccess s core (teamPart s tm) va .w
      | none => endTeam s tm
    else s

/-- A group whose lanes have all exited and for which no posted result is in flight frees its slot positions (R43). -/
def tryEndGroup (s : State) (g : Nat) : State :=
  match group? s g with
  | none => s
  | some x =>
    if x.ended || x.exited ≠ allLanes x || awaited s g then s
    else
      let s := chargeGroup s g
      let s := modGroup s g (fun x => { x with ended := true, queues := [], regs := [] })
      let s := x.seats.foldl (fun s k =>
        if (slotGroups s k).isEmpty then { s with work := { s.work with slots := tdel s.work.slots k } } else s) s
      tryEndTeam s x.team

/-- When the last lane of a group exits (R191, R284, R361): its holders may free what they hold, a mesh group hands its meshlet over,
and with the team's last group its grip context stops. -/
def groupExited (s : State) (g : Nat) : State :=
  match group? s g with
  | none => s
  | some x =>
    if x.exited ≠ allLanes x then s
    else
      let s := modGroup s g (fun x => { x with mesh := x.mesh.map (fun m => { m with handed := true }) })
      let s := x.seats.foldl dropHolder s
      let done := match team? s x.team with
        | some t => t.groups.all (fun h => match group? s h with | some y => y.exited = allLanes y | none => true)
        | none => false
      let s := if done then modTeam s x.team (fun t => { t with grip := t.grip.map (fun k => { k with ended := true }) }) else s
      tryEndGroup s g

/-- The commit of a pixel lane when it exits (R302): its sample enters the tile back end's queue of its core. -/
def commitPixel (s : State) (g l : Nat) (discarded : Bool) : State :=
  match group? s g with
  | none => s
  | some x =>
    match x.pix with
    | none => s
    | some p =>
      if discarded then s
      else
        let out := tget? p.outs l
        let op : TbeOp :=
          { pass := p.pass, order := 64 * p.order + l, view := p.geom.view, i := p.i0 + l % 8, j := p.j0 + l / 8,
            depth := match out.bind (·.depth) with | some d => d | none => tgetD p.depths l 0, out := out }
        modCore s (slotCore (laneSeat x l)) (fun k => { k with tbe := k.tbe ++ [.commit op] })

/-- Lanes leave every set of a level. -/
def levelMinus (v : Level) (m : LMask) : Level :=
  { v with running := v.running &&& ~~~m,
           pending := (v.pending.map (fun p => { p with lanes := p.lanes &&& ~~~m })).filter (fun p => p.lanes != 0),
           parked := (v.parked.map (fun p => { p with lanes := p.lanes &&& ~~~m })).filter (fun p => p.lanes != 0) }

/-- Lanes leave a slice, its frames included. -/
def sliceMinus (x : Slice) (m : LMask) : Slice :=
  { x with prog := levelMinus x.prog m,
           frames := x.frames.map (fun f => { f with lanes := f.lanes &&& ~~~m, level := levelMinus f.level m }) }

/-- Lanes of one slice of a group exit (R360, R361), with `discarded` for DISC. -/
def exitLanes (s : State) (g n : Nat) (m : LMask) (discarded : Bool) : State :=
  let s := (lanesOf m).foldl (fun s l => commitPixel (drainLane s (.wave g l)) g l discarded) s
  modGroup s g (fun x =>
    { x with exited := x.exited ||| m,
             slices := modifyNth x.slices n (fun y =>
               let y := settleSlice (sliceMinus y m)
               if (levelOf y).running = 0 then { y with wait := .none, redo := [], stepping := false } else y) })

/-- What an exit or a parking may complete in a group: a span-0 REGANG, barriers, the group's end. -/
def groupProgress (s : State) (g : Nat) : State :=
  let s := completeRegang s g
  let s := completeBar s g
  let s := match group? s g with | some x => completeTeamBar s x.team | none => s
  groupExited s g

end Sys2Proof.Machine
end

