-- ==== Sys2Proof/Machine/Regfile.lean ====
section
/-! DEFINITION. The front end of a wave: the registers that an instruction names, each quadrant's file of 1,024 physical registers, the
rename map and the reorder buffer of a wave slot, the register image in device memory, and the moves of a wave's lines between them
(R48 to R55, R69 to R73).

The elements of a register have one home, the group that holds the lane (`Group.regs`). A physical register is a binding of a line of
32 positions: `physElems` computes what it holds. A register whose line lies in the register image holds the image's bytes, which
`fetchLine` reads back. -/

namespace Sys2Proof.Machine

/-! ### Which pass a lane draws for -/

/-- NATTR of a raster record. -/
def rrNattr (w : List Word) : Nat := bits (wordAt w 33) 4 0

/-- The pass of a lane's mesh or pixel-shader group. -/
def lanePass (s : State) (l : LaneId) : Option Pass :=
  match teamLaunch? s (laneTeam s l) with
  | some x => match x.src with
    | .mesh p => pass? s p
    | .pixels p => pass? s p
    | .queue _ => none
  | none => none

def laneRecord (s : State) (l : LaneId) : List Word := ((lanePass s l).map (·.words)).getD []
/-- Attributes per vertex of the pass that a lane's mesh group draws for; 0 without one. -/
def laneNattr (s : State) (l : LaneId) : Nat := rrNattr (laneRecord s l)

/-! ### The registers that an instruction names -/

/-- The lane that a cross-lane source names (R34): the mode and constant, applied to the reading lane. -/
def crossLane (mode : XMode) (k l : Nat) : Option Nat :=
  match mode with
  | .bc => some k
  | .xor => some (l ^^^ k)
  | .dn => if l < k then none else some (l - k)
  | .up => some (l + k)

/-- A register source of an instruction: the register, the field it stands in (0 a, 1 b, 2 c, 3 d) and that field's value, its E bit,
whether it is taken from one lane of each group (R457), and a cross-lane mode. -/
structure Src where
  reg : Nat
  fld : Nat
  val : Nat
  e : Bool
  one : Bool
  x : Option (XMode × Nat)

/-- A source read by each lane from its own register. -/
def src (fld : Nat) (r : Reg) (e : Bool) : Src := ⟨r.toNat, fld, r.toNat, e, false, none⟩
/-- A source in the 5-bit field c. -/
def srcC (r : Reg5) : Src := ⟨r.toNat, 2, r.toNat, false, false, none⟩
/-- A source taken from one lane of each group. -/
def srcOne (fld : Nat) (r : Reg) (e : Bool) : Src := ⟨r.toNat, fld, r.toNat, e, true, none⟩
/-- Register `r + n` of a range that field `fld` names by `r`. -/
def srcN (fld : Nat) (r : Reg) (n : Nat) (e one : Bool) : Src := ⟨r.toNat + n, fld, r.toNat, e, one, none⟩
/-- The two registers of a pair. -/
def srcPair (fld : Nat) (r : Reg) (e : Bool) : List Src := [srcN fld r 0 e false, srcN fld r 1 e false]

/-- A cross-lane source (Table 4-11). -/
def srcX (mode : XMode) (k : BitVec 5) (r : Reg) : Src := ⟨r.toNat, 0, r.toNat, false, false, some (mode, k.toNat)⟩
/-- A source in the 5-bit field d or s of a 16-bit form. -/
def srcH (fld : Nat) (r : Reg5) : Src := ⟨r.toNat, fld, r.toNat, false, false, none⟩
/-- `n` registers of a range that field `fld` names by `r`. -/
def srcRange (fld : Nat) (r : Reg) (n : Nat) (e : Bool) : List Src := (List.range n).map (fun k => srcN fld r k e false)
/-- Registers of a range that begins at `r`. -/
def regRange (r n : Nat) : List Nat := (List.range n).map (r + ·)

/-- The registers that an instruction names: its sources; those that its unit reads after it has retired (MMA's accumulator inputs, R341);
and those that it writes. -/
structure Named where
  srcs : List Src
  later : List Nat
  writes : List Nat

/-- Registers of a memory operand's data (Table 4-14). -/
def sizeWords (z : Size) : Nat := match z with | .b32 => 1 | .b64 => 2 | .b128 => 4 | .z16 => 1

/-- Registers of an atomic operation's operand: CAS takes a pair (R344). -/
def atomWords (op : AtomOp) : Nat := match op with | .cas => 2 | _ => 1

/-- Registers of MPACK's result: four bytes or two elements each (R231). -/
def packWordsOf (f : PackFmt) : Nat := match f with | .bf16 => 8 | _ => 4

/-- Whether FCVT writes one element of a packed register, and so reads it (R51). -/
def cvtReadsDest (c : Cvt) : Bool :=
  match c with
  | .f32f16 | .f32bf16 | .f32e4m3 | .f32e5m2 | .f32e2m1 | .f32i4 | .f32p4 | .f32h4 => true
  | _ => false

/-- The registers that an instruction names (chapters 16 to 18), for a mesh group's `nattr` attributes; an EMITV whose range leaves the file
reads none (R285). -/
def instrNames (nattr : Nat) (i : Instr) : Named :=
  let r3 (ea eb : Bool) (d a b : Reg) : Named := ⟨[src 0 a ea, src 1 b eb], [], [d.toNat]⟩
  let r2 (ea : Bool) (d a : Reg) : Named := ⟨[src 0 a ea], [], [d.toNat]⟩
  let r4 (d a b : Reg) (c : Reg5) : Named := ⟨[src 0 a false, src 1 b false, srcC c], [], [d.toNat]⟩
  let half (k : Bool) (d s : Reg5) : Named := ⟨if k then [srcH 0 d] else [srcH 0 d, srcH 1 s], [], [d.toNat]⟩
  let reads (xs : List Src) : Named := ⟨xs, [], []⟩
  match i with
  | .iadd ea eb d a b | .isub ea eb d a b | .imul ea eb d a b | .imulh ea eb d a b | .imulhu ea eb d a b | .imin ea eb d a b
  | .imax ea eb d a b | .iminu ea eb d a b | .imaxu ea eb d a b | .and ea eb d a b | .or ea eb d a b | .xor ea eb d a b
  | .andn ea eb d a b | .shl ea eb d a b | .shr ea eb d a b | .sar ea eb d a b | .iadds ea eb d a b | .isubs ea eb d a b
  | .icmp _ ea eb d a b | .fadd _ _ _ _ ea eb d a b | .fmul _ _ _ _ ea eb d a b | .fmin _ ea eb d a b | .fmax _ ea eb d a b
  | .fcmp _ ea eb d a b | .hpadd _ _ ea eb d a b | .hpmul _ _ ea eb d a b | .hpmin ea eb d a b | .hpmax ea eb d a b => r3 ea eb d a b
  | .iaddi ea d a _ | .imuli ea d a _ | .andi ea d a _ | .ori ea d a _ | .xori ea d a _ | .shli ea d a _ | .shri ea d a _
  | .sari ea d a _ | .mov ea d a | .not ea d a | .ineg ea d a | .iabs ea d a | .popc ea d a | .clz ea d a | .brev ea d a
  | .frcp ea d a | .frsq ea d a | .fsqrt ea d a | .fexp2 ea d a | .flog2 ea d a | .fsin ea d a | .fcos ea d a | .fclass ea d a
  | .fabs ea d a | .fneg ea d a | .frnd _ ea d a | .vote _ ea d a | .xred _ _ ea d a => r2 ea d a
  | .imad d a b c | .sel d a b c | .bfi d a b c | .bperm d a b c | .ffma _ d a b c | .hpfma _ d a b c | .bpfma _ d a b c
  | .fdot _ d a b c | .sobol _ d a b c => r4 d a b c
  | .bfe d a c | .bfeu d a c => ⟨[src 0 a false, srcC c], [], [d.toNat]⟩
  | .imadwUint d a b c | .imadwInt d a b c => ⟨[src 0 a false, src 1 b false, srcC c], [], regRange d.toNat 2⟩
  | .iaddw ea eb d a b | .isubw ea eb d a b => ⟨srcRange 0 a 2 ea ++ srcRange 1 b 2 eb, [], regRange d.toNat 2⟩
  | .shlw ea eb d a b => ⟨srcRange 0 a 2 ea ++ [src 1 b eb], [], regRange d.toNat 2⟩
  | .movi d _ => ⟨[], [], [d.toNat]⟩
  | .movhi d _ => ⟨[src 3 d false], [], [d.toNat]⟩
  | .fcvt c _ _ ea d a => ⟨if cvtReadsDest c then [src 0 a ea, src 3 d false] else [src 0 a ea], [], [d.toNat]⟩
  | .xmov mode k d a => ⟨[srcX mode k a], [], [d.toNat]⟩
  | .xfadd mode k d a b | .xiadd mode k d a b => ⟨[srcX mode k a, src 1 b false], [], [d.toNat]⟩
  | .emitv ea eb a b => reads (if 55 < b.toNat + 3 + nattr then [] else src 0 a ea :: srcRange 1 b (4 + nattr) eb)
  | .emitp ea eb a b => reads [src 0 a ea, src 1 b eb]
  | .attr _ _ d => ⟨[], [], [d.toNat]⟩
  | .disc ea a | .zout ea a | .bra ea a _ | .brz ea a _ => reads [src 0 a ea]
  | .pxout _ ea a | .ret ea a | .tspawn ea a | .tsucc ea a | .clinePf _ ea a _ | .clineWb _ ea a _ | .clineInv _ ea a _ =>
    reads (srcPair 0 a ea)
  | .tex ea eb d a b | .texg ea eb d a b => ⟨srcPair 0 a ea ++ [srcOne 1 b eb], [], regRange d.toNat 4⟩
  | .tileld depth ea d a => ⟨[src 0 a ea], [], regRange d.toNat (if depth then 1 else 2)⟩
  | .tilest depth ea d a => reads (src 0 a ea :: srcRange 3 d (if depth then 1 else 2) false)
  | .raygo ea a | .syswr _ ea a | .slotr ea a | .slotp ea a | .slote ea a | .stashUnmap ea a | .stashFlush ea a => reads [srcOne 0 a ea]
  | .stashMap ea d a => reads [srcOne 3 d false, srcOne 0 a ea]
  | .slotw _ ea d a => ⟨[srcOne 0 a ea], [], [d.toNat]⟩
  | .brx ea eb a b => reads [src 0 a ea, srcN 1 b 0 eb true, srcN 1 b 1 eb true]
  | .call _ => ⟨[], [], [54, 55]⟩
  | .leaseReq d _ | .leaseQuery d | .sysrd d _ | .cyc d _ => ⟨[], [], [d.toNat]⟩
  | .ld z _ _ ea d a _ => ⟨srcPair 0 a ea, [], regRange d.toNat (sizeWords z)⟩
  | .st z _ _ ea d a _ => reads (srcPair 0 a ea ++ srcRange 3 d (sizeWords z) false)
  | .ldl z _ _ ea d a _ => ⟨[src 0 a ea], [], regRange d.toNat (sizeWords z)⟩
  | .stl z _ _ ea d a _ => reads (src 0 a ea :: srcRange 3 d (sizeWords z) false)
  | .atom op _ _ d a b => ⟨srcPair 0 a false ++ srcRange 1 b (atomWords op) false, [], [d.toNat]⟩
  | .atoml op _ _ d a b => ⟨src 0 a false :: srcRange 1 b (atomWords op) false, [], [d.toNat]⟩
  | .mma _ _ _ _ acc d a b => ⟨[srcOne 0 a false, srcOne 1 b false], if acc then regRange d.toNat 16 else [], regRange d.toNat 16⟩
  | .mpack f ea eb d a b => ⟨srcRange 0 a 16 ea ++ srcRange 1 b 16 eb, [], regRange d.toNat (packWordsOf f)⟩
  | .iadd16 k d s | .isub16 k d s | .imul16 k d s | .and16 k d s | .or16 k d s | .xor16 k d s | .shl16 k d s | .shr16 k d s
  | .sar16 k d s | .imin16 k d s | .imax16 k d s | .fadd16 k d s | .fsub16 k d s | .fmul16 k d s | .fmax16 k d s => half k d s
  | .mov16 k d s => ⟨if k then [] else [srcH 0 s], [], [d.toNat]⟩
  | _ => ⟨[], [], []⟩

/-- Whether an instruction retires before its result arrives (Table 3-1). -/
def isPosted (i : Instr) : Bool :=
  match i with
  | .ld _ _ _ _ _ _ _ | .ldl _ _ _ _ _ _ _ | .atom _ _ _ _ _ _ | .atoml _ _ _ _ _ _ | .tex _ _ _ _ _ | .texg _ _ _ _ _
  | .tileld _ _ _ _ | .mma _ _ _ _ _ _ _ _ | .frcp _ _ _ | .frsq _ _ _ | .fsqrt _ _ _ | .fexp2 _ _ _ | .flog2 _ _ _ | .fsin _ _ _
  | .fcos _ _ _ | .slotw _ _ _ _ => true
  | _ => false

/-- The registers v0 to v55 that it reads, and those that it writes. -/
def renamedReads (nattr : Nat) (i : Instr) : List Nat :=
  let n := instrNames nattr i
  sortNat ((n.srcs.map (·.reg) ++ n.later).filter (· < 56))
def renamedWrites (i : Instr) : List Nat := sortNat ((instrNames 0 i).writes.filter (· < 56))

/-- Whether the address of the next instruction of a gang is known only when an instruction has retired: branches, parkings, exits,
waits, and the ways in and out of a handler. -/
def endsRename (i : Instr) : Bool :=
  match i with
  | .bra _ _ _ | .brz _ _ _ | .jmp _ | .call _ | .ret _ _ | .brx _ _ _ _ | .regang _ | .exit | .bar _ | .barTeam | .yield | .disc _ _
  | .trap _ | .rett | .brk _ => true
  | _ => false

/-- The bytes of an instruction. -/
def lengthOf (i : Instr) : Nat := match encode i with | some (.half _) => 2 | _ => 4

/-! ### The physical register file (R48) -/

/-- Physical registers of a quadrant, and the bank of one. -/
def physRegs : Nat := 1024
def physBank (p : Nat) : Nat := p % 8

/-- The waves whose lines a quadrant's file may hold: those in its slots, and those that have left a slot of it (R71). -/
def fileSlots (s : State) (c q : Nat) : List (Nat × Slot) := s.work.slots.filter (fun e => slotCore e.1 = c && slotQuad e.1 = q)

/-- The physical registers that a wave's map or an unretired entry of it names. -/
def slotPhys (x : Slot) : List Nat :=
  x.map.map (·.2) ++ x.rob.flatMap (fun e => e.reads ++ e.writes.flatMap (fun w => [w.2.1, w.2.2]))

/-- The free pool of a quadrant (R50). -/
def freePhys (s : State) (c q : Nat) : List Nat :=
  let used := (fileSlots s c q).flatMap (fun e => slotPhys e.2)
  (List.range physRegs).filter (fun p => !used.contains p)

/-- The groups that hold lanes of a wave, the ended ones left out. -/
def waveGroups (s : State) (k : Nat) : List (Nat × Group) := s.work.groups.filter (fun e => !e.2.ended && e.2.seats.contains k)

/-- The lane at a position of a wave: its group's number and its number in the group. -/
def posLane (s : State) (k pos : Nat) : Option (Nat × Nat) :=
  (waveGroups s k).findSome? (fun e =>
    ((List.range e.2.width).find? (fun i => laneSeat e.2 i = k && lanePos e.2 i = pos)).map (fun i => (e.1, i)))

/-- The element of a register at a position of a wave; a position without a lane holds 0. -/
def waveElem (s : State) (k r pos : Nat) : Elem :=
  match posLane s k pos with
  | some (g, i) => (group? s g).elim (.full 0 false) (fun x => regElem x.regs r i)
  | none => .full 0 false

/-- Whether a position of a wave lies in the lane mask of an entry. -/
def entryCovers (s : State) (k : Nat) (e : RobEntry) (pos : Nat) : Bool :=
  match posLane s k pos with
  | some (g, i) => e.slices.any (fun y => y.1 = g && y.2.2.getLsbD i)
  | none => false

/-- The unretired writes of an architectural register, the oldest first: the entry, its physical register and the one bound before. -/
def pendingWrites (x : Slot) (r : Nat) : List (RobEntry × Nat × Nat) :=
  x.rob.flatMap (fun e => (e.writes.filter (fun w => w.1 = r)).map (fun w => (e, w.2)))

/-- The physical register that holds the architectural elements of a register: the one bound before its oldest unretired write. -/
def archPhys (x : Slot) (r : Nat) : Option Nat :=
  match pendingWrites x r with | w :: _ => some w.2.2 | [] => tget? x.map r

/-- The element at a position of the line that the last of some unretired writes binds (R49): a position inside its lane mask is empty, since
an entry delivers its results when it retires (log entry 7), and one outside it has the element of the register bound before; the
architectural element is under them all. -/
def lineElem (s : State) (k r pos : Nat) (ws : List (RobEntry × Nat × Nat)) : Elem :=
  if ws.any (fun w => entryCovers s k w.1 pos) then .empty 0 else waveElem s k r pos

/-- A wave's binding of a physical register: the architectural register and the unretired writes up to the one that bound it. -/
def physBinding (x : Slot) (p : Nat) : Option (Nat × List (RobEntry × Nat × Nat)) :=
  (List.range 56).findSome? (fun r =>
    if archPhys x r = some p then some (r, [])
    else
      let ws := pendingWrites x r
      (ws.zipIdx.find? (fun w => w.1.2.1 = p)).map (fun w => (r, ws.take (w.2 + 1))))

/-- What a physical register holds: the elements of the line that a wave's map or an unretired write binds to it; a free register is
empty. -/
def physElems (s : State) (c q p : Nat) : List Elem :=
  match (fileSlots s c q).findSome? (fun e => (physBinding e.2 p).map (fun b => (e.1, b))) with
  | some (k, r, ws) => (List.range 32).map (fun pos => lineElem s k r pos ws)
  | none => List.replicate 32 (.empty 0)

/-! ### The register image (R69, R70, R72) -/

/-- The address of the image of a wave: that of the slot it holds, or held last. -/
def imageBase (s : State) (k : Nat) : Nat :=
  let p := ((slot? s k).bind (fun x => launch? s x.launch)).elim 0 (·.part)
  rimBase s p + 8192 * (k % 3072)

/-- The addresses of a register's line and of its poison mask. -/
def lineAddr (base r : Nat) : Nat := base + 128 * r
def maskAddr (base r : Nat) : Nat := base + 7168 + 4 * r

/-- An element as an image holds it: an awaited one is 0 (R70). -/
def elemWord (e : Elem) : Word := match e with | .full v _ => v | .empty _ => 0
def elemBad (e : Elem) : Bool := match e with | .full _ b => b | .empty _ => false
def elemEmpty (e : Elem) : Bool := match e with | .empty _ => true | _ => false

/-- A mask of 32 positions. -/
def posMask (xs : List Bool) : Nat := (xs.zipIdx.map (fun e => if e.1 then 2 ^ e.2 else 0)).foldl (· + ·) 0

/-- A line and its poison mask written to the image at `base`. -/
def storeLine (s : State) (base r : Nat) (es : List Elem) : State :=
  storeDev (storeDev s (lineAddr base r) (es.flatMap (fun e => leBytes 4 (elemWord e).toNat))) (maskAddr base r)
    (leBytes 4 (posMask (es.map elemBad)))

/-- The element at a position of a line as the image at `base` holds it; an error in its bytes poisons it (R57). -/
def imageElem (s : State) (base r pos : Nat) : Elem :=
  let a := lineAddr base r + 4 * pos
  .full (w32 (readNum s a 4)) ((readNum s (maskAddr base r) 4).testBit pos || memBad s a 4)

/-- An element that is filled while its line lies in the image is written there too (R70). -/
def landImage (s : State) (k r pos : Nat) (e : Elem) : State :=
  match slot? s k with
  | some x =>
    if x.stored.contains r then
      let base := imageBase s k
      let m := readNum s (maskAddr base r) 4
      let m' := if elemBad e then (if m.testBit pos then m else m + 2 ^ pos) else (if m.testBit pos then m - 2 ^ pos else m)
      storeDev (storeDev s (lineAddr base r + 4 * pos) (leBytes 4 (elemWord e).toNat)) (maskAddr base r) (leBytes 4 m')
    else s
  | none => s

/-- Whether an element lets its line be written to the image: it is full, or awaits a retired SLOTW (R70), or awaits nothing any more, its
lane having exited before its result arrived (R361). -/
def imageReady (s : State) (e : Elem) : Bool :=
  match e with
  | .empty n => (s.posted.find? (fun p => p.id = n)).all (fun p => match p.kind with | .slotw _ _ _ _ => true | _ => false)
  | .full _ _ => true

/-- A register of a wave whose line lies in the image is read back; an element that a SLOTW is still to fill stays awaited. -/
def fetchLine (s : State) (k r : Nat) : State :=
  match slot? s k with
  | none => s
  | some x =>
    if x.stored.contains r then
      let base := imageBase s k
      let s := (List.range 32).foldl (fun s pos =>
        match posLane s k pos with
        | some (g, i) => modGroup s g (fun y =>
            if elemEmpty (regElem y.regs r i) then y else { y with regs := setRegElem y.regs r i (imageElem s base r pos) })
        | none => s) s
      modSlot s k (fun x => { x with stored := x.stored.filter (· != r) })
    else s

/-- Every line of a wave that lies in the image is read back. -/
def fetchLines (s : State) (k : Nat) : State :=
  match slot? s k with | some x => x.stored.foldl (fun s r => fetchLine s k r) s | none => s

/-- Whether a line may be written to the image: it belongs to retired writes only, and every element is full or awaits a SLOTW (R70). -/
def lineReady (s : State) (k : Nat) (x : Slot) (r : Nat) : Bool :=
  !x.rob.any (fun e => e.writes.any (fun w => w.1 = r)) && (List.range 32).all (fun pos => imageReady s (waveElem s k r pos))

/-- A line leaves the physical file for the image (R70, R71). -/
def evictReg (s : State) (k r : Nat) : State :=
  modSlot (storeLine s (imageBase s k) r ((List.range 32).map (waveElem s k r))) k
    (fun x => { x with map := tdel x.map r, stored := insertNat r x.stored, cached := x.cached.filter (· != r) })

/-- Whether a wave is stopped: its lines are written to the image only if its team is then saved (R265). -/
def waveStopped (s : State) (k : Nat) : Bool := (waveGroups s k).any (fun e => e.2.status = .stopped)

/-- The lines of a quadrant that may be evicted, of waves that have left a slot first and then of waves outside the active set. -/
def evictable (s : State) (c q : Nat) : List (Nat × Nat) :=
  let of (e : Nat × Slot) := (e.2.map.filter (fun b => lineReady s e.1 e.2 b.1)).map (fun b => (e.1, b.1))
  ((fileSlots s c q).filter (fun e => 3072 ≤ e.1)).flatMap of ++ ((fileSlots s c q).filter (fun e =>
    e.1 < 3072 && !e.2.active && !waveStopped s e.1)).flatMap of

/-- Lines evicted until `n` physical registers are free, or no line is left to evict (R50). -/
def makeRoom (s : State) (c q n : Nat) : State :=
  ((evictable s c q).take (n - (freePhys s c q).length)).foldl (fun s e => evictReg s e.1 e.2) s

/-! ### Renaming (R49 to R51) -/

/-- A register's elements in the operand register cache of its wave: six registers, the latest used first (R69). -/
def cacheRegs (x : Slot) (rs : List Nat) : Slot :=
  { x with cached := ((rs ++ x.cached.filter (fun r => !rs.contains r))).take 6 }

/-- Registers bound to physical registers of the pool `free`, one after another; none when the pool is too small. -/
def bindAll (m : Tab Nat) : List Nat → List Nat → Option (Tab Nat × List Nat)
  | [], free => some (m, free)
  | r :: rs, free =>
    match tget? m r, free with
    | some _, free => bindAll m rs free
    | none, p :: ps => bindAll (tput m r p) rs ps
    | none, [] => none

/-- Fresh physical registers for the writes of an instruction, with those bound before. -/
def bindWrites (m : Tab Nat) : List Nat → List Nat → Option (Tab Nat × List (Nat × Nat × Nat))
  | [], _ => some (m, [])
  | r :: rs, p :: free => (bindWrites (tput m r p) rs free).map (fun x => (x.1, (r, p, tgetD m r p) :: x.2))
  | _ :: _, [] => none

/-- The attributes per vertex that hold for the lanes of some slices (R285). -/
def slicesNattr (s : State) (slices : List (Nat × Nat × LMask)) : Nat :=
  match slices with | e :: _ => laneNattr s (.wave e.1 (4 * e.2.1)) | [] => 0

/-- An instruction of a wave renamed: the lines it names are held in the file, its writes have fresh physical registers, and its entry is
the youngest of the buffer. With too few free registers, lines of other waves are evicted; where that frees too few, renaming waits. -/
def renameInstr (s : State) (k : Nat) (slices : List (Nat × Nat × LMask)) (pc : Addr) (i : Option Instr) : Option State :=
  let c := slotCore k
  let q := slotQuad k
  let reads := i.elim [] (renamedReads (slicesNattr s slices))
  let writes := i.elim [] renamedWrites
  match slot? s k with
  | none => none
  | some x =>
    if robSize ≤ x.rob.length then none
    else
      let named := sortNat (reads ++ writes)
      let need := (named.filter (fun r => (tget? x.map r).isNone)).length + writes.length
      let s := makeRoom (named.foldl (fun s r => fetchLine s k r) s) c q need
      match bindAll x.map named (freePhys s c q) with
      | none => none
      | some (m, free) =>
        match bindWrites m writes free with
        | none => none
        | some (m', ws) =>
          let stamp := (quadOf s c q).named
          let e : RobEntry := { stamp := stamp, slices := slices, pc := pc, instr := i, reads := reads.map (fun r => tgetD m r 0), writes := ws, executed := false }
          let s := modQuad s c q (fun y => { y with named := stamp + 1, lastSlot := slotNum k })
          some (modSlot s k (fun y => cacheRegs { y with map := m', rob := y.rob ++ [e] } (sortNat (reads ++ writes))))

/-! ### Moves of a wave (R71, R72) -/

/-- The lines that another wave, which has left slot `k`, has in the image of that place are read back before the place is used again;
the spec names no other place for them. -/
def clearPlace (s : State) (k : Nat) : State :=
  (s.work.slots.filter (fun e => 3072 ≤ e.1 && e.1 % 3072 = k % 3072)).foldl (fun s e => fetchLines s e.1) s

/-- A wave's lines follow it to another slot's place: within a quadrant the file keeps them; otherwise those that may be are written to
the image, and every line in the image is copied to the new place (R71, R72). -/
def moveLines (s : State) (k j : Nat) : State :=
  match slot? s k with
  | none => s
  | some x =>
    if k % 3072 = j % 3072 then s
    else
      let s := clearPlace s j
      let near := slotCore k = slotCore j && slotQuad k = slotQuad j
      let s := if near then s else (x.map.filter (fun b => lineReady s k x b.1)).foldl (fun s b => evictReg s k b.1) s
      let base := imageBase s k
      let there := imageBase s k - 8192 * (k % 3072) + 8192 * (j % 3072)
      let stored := (slot? s k).elim [] (·.stored)
      let s := stored.foldl (fun s r => storeLine s there r ((List.range 32).map (imageElem s base r))) s
      if near then s else modSlot s k (fun y => { y with map := [], cached := [] })

end Sys2Proof.Machine
end

