-- ==== Sys2Proof/Machine/Operands.lean ====
section
/-! DEFINITION. How an issue gathers its operands and ends: legality in the executing context, empty and poisoned sources, queue pops,
the causes of each lane and slice, the writes of the lanes that complete, traps, and the program counter (R59 to R68, R86, R94, R96,
R341, R342, R457). -/

namespace Sys2Proof.Machine

/-! ### Sources -/

/-- Where an instruction may execute and which of its fields the context restricts: the grip, singles (56 to 63 illegal on a grip),
pairs (56 and above illegal outside a handler), and a single-register destination (a queue there is cause 0x11). -/
structure Form where
  grip : Bool
  srcs : List Src
  pairs : List Reg
  dst : Option Reg
  len : Nat

/-- Whether a field of an instruction may name what it names in the context of a lane (R85, R86). -/
def fieldsLegal (s : State) (f : Form) (l : LaneId) : Bool :=
  match l with
  | .wave _ _ => laneHandler s l || f.pairs.all (fun r => r.toNat < 56)
  | _ => f.pairs.all (fun r => r.toNat < 56) && f.srcs.all (fun x => x.val < 56) &&
      (match f.dst with | some d => d.toNat < 56 | none => true)

/-- Whether an instruction is available to a lane (Table 4-19). -/
def available (f : Form) (l : LaneId) : Bool :=
  match l with | .wave _ _ => true | _ => f.grip

/-- Whether a source of a lane is a queue pop: 56 to 63 in field a, b or c in a wave outside a handler (R62, R65, R95). -/
def isPop (s : State) (l : LaneId) (x : Src) : Bool :=
  match l with | .wave _ _ => x.fld < 3 && 56 ≤ x.val && !laneHandler s l | _ => false

/-- A queue's stream: its total number of entries (R207). -/
def queueTotal (q : Queue) : Nat :=
  let n := fun k => wordAt q.desc k
  (n 2 % 65536) * (n 2 / 65536) * (n 3 % 65536) * (n 3 / 65536)

/-- The queue a source pops for a lane. -/
def popQueue? (s : State) (l : LaneId) (x : Src) : Option Queue :=
  match l with
  | .wave g i => (group? s g).bind (fun y => tget? y.queues (8 * (if y.width = 64 then i / 32 else 0) + (x.val - 56)))
  | _ => none

/-- How many earlier fields of the instruction pop the same queue (R62). -/
def popIndex (s : State) (l : LaneId) (xs : List Src) (x : Src) : Nat :=
  ((xs.filter (fun y => isPop s l y && y.val = x.val && y.fld < x.fld)).map (·.fld)).eraseDups.length

/-- The entry that a lane's slice holds for a field from an earlier execution (R63). -/
def heldPop? (s : State) (l : LaneId) (x : Src) : Option BoundPop :=
  match l with
  | .wave g i => (((group? s g).bind (sliceOf · i)).bind (fun y => y.redo.find? (fun b => b.field = x.fld)))
  | _ => none

/-- The lane whose element a source reads for lane `l` (R34, R457), among the active lanes. -/
def readLane (s : State) (active : List LaneId) (l : LaneId) (x : Src) : LaneId :=
  if x.one then leadLane active l
  else match x.x, l with
    | some (m, k), .wave g i =>
      match crossLane m k i with
      | some j =>
        match group? s g with
        | some y => if j < y.width && laneSeat y j = laneSeat y i && active.contains (.wave g j) then .wave g j else l
        | none => l
      | none => l
    | _, _ => l

/-- What a source delivers to a lane: an element, or a misused queue (R64). -/
inductive Got where
  | elem (e : Elem)
  | misuse
  deriving DecidableEq, Repr

/-- One source read for one lane. -/
def gather (s : State) (active : List LaneId) (xs : List Src) (l : LaneId) (x : Src) : Got :=
  let m := readLane s active l x
  if isPop s m x then
    match heldPop? s m x, m with
    | some b, .wave _ i => .elem (tgetD b.elems i (.full 0 false))
    | _, .wave g i =>
      match popQueue? s m x, group? s g with
      | some q, some y =>
        let k := popIndex s m xs x
        if queueTotal q ≤ q.popped + k then .misuse
        else match q.entries[k]? with
          | some e => .elem (e.getD (lanePos y i) (.full 0 false))
          | none => .elem (.empty 0)
      | _, _ => .misuse
    | _, _ => .misuse
  else .elem (laneElem s m x.reg)

/-! ### What becomes of a lane -/

/-- A lane's outcome: it completes with register writes and flags, and a branch target if it takes one; it takes a cause with its
TADDR (and the flags of cause 0x0B); it waits; or it meets a page that is not present. -/
inductive Act where
  | done (ws : List (Nat × Word)) (fl : Flags) (tgt : Option Addr)
  | fault (cause detail : Nat) (fl : Flags)
  | wait
  | swap
  deriving DecidableEq, Repr

/-- A source's condition (Table 16-1): nothing, a wait, or a cause. -/
def srcAct (g : Got) (x : Src) : Option Act :=
  match g with
  | .elem (.empty _) => if x.e then some (.fault 3 x.val 0) else some .wait
  | _ => none

def srcPoison (g : Got) (x : Src) : Option Act :=
  match g with
  | .elem (.full _ true) => some (.fault 0x10 x.val 0)
  | _ => none

def srcMisuse (g : Got) (x : Src) : Option Act :=
  match g with
  | .misuse => some (.fault 0x11 x.val 0)
  | _ => none

/-- The word a source delivered. -/
def gotWord : Got → Word
  | .elem (.full v _) => v
  | _ => 0

/-- The sources of a form as they are delivered to a lane. -/
def gathered (s : State) (f : Form) (active : List LaneId) (l : LaneId) : List (Got × Src) :=
  f.srcs.map (fun x => (gather s active f.srcs l x, x))

/-- The first cause of some sources: an empty element with E = 1, then a poisoned one. -/
def elemCause (gs : List (Got × Src)) : Option Act :=
  match gs.findSome? (fun e => srcAct e.1 e.2) with
  | some a => some a
  | none => gs.findSome? (fun e => srcPoison e.1 e.2)

/-- The rows of Table 16-1 that come before a lane's own operands are judged: a wait, and the causes of an operand taken from one lane of
the group, which stand in place of the lane's own (R341, R457). -/
def oneAct (s : State) (f : Form) (active : List LaneId) (l : LaneId) : Option Act :=
  let gs := gathered s f active l
  match gs.findSome? (fun e => match srcAct e.1 e.2 with | some .wait => some Act.wait | _ => none) with
  | some a => some a
  | none => elemCause (gs.filter (fun e => e.2.one))

/-- The rows of Table 16-1 for a lane's own operands and its destination, in their order. -/
def ownAct (s : State) (f : Form) (active : List LaneId) (l : LaneId) : Option Act :=
  let gs := gathered s f active l
  match elemCause gs with
  | some a => some a
  | none =>
    match gs.findSome? (fun e => srcMisuse e.1 e.2) with
    | some a => some a
    | none =>
      match f.dst, l with
      | some d, .wave _ _ => if 56 ≤ d.toNat && !laneHandler s l then some (.fault 0x11 d.toNat 0) else none
      | _, _ => none

/-- The rows of Table 16-1 before an entry's own checks; none when the lane's operands are at hand. -/
def commonAct (s : State) (f : Form) (active : List LaneId) (l : LaneId) : Option Act :=
  match oneAct s f active l with
  | some a => some a
  | none => ownAct s f active l

/-- The words of a lane's sources. -/
def laneVals (s : State) (f : Form) (active : List LaneId) (l : LaneId) : List Word :=
  f.srcs.map (fun x => gotWord (gather s active f.srcs l x))

/-! ### Meanings as entries -/

/-- A meaning: its form; whether it is legal for a lane beyond its form; what it does for a lane whose operands are at hand; what a
lane that takes a cause or meets an absent page leaves behind; the effect of a lane that completes, besides register writes; whether
it is a branch (R342); the checks of an operand taken from one lane that come before a lane's own operands are judged; and, for an
instruction that acts once for each group (R457), its effect for the lanes of a group that complete, each with its operands. -/
structure Entry where
  form : Form
  legal : LaneId → Bool
  plan : LaneId → List Word → Act
  note : LaneId → List Word → State → State
  eff : LaneId → List Word → State → State
  branch : Bool
  before : LaneId → List Word → Option Act := fun _ _ => none
  once : Option (List (LaneId × List Word) → State → State) := none

/-- The outcome of one lane for which the instruction is legal. -/
def laneAct (s : State) (e : Entry) (active : List LaneId) (l : LaneId) : Act :=
  let vs := laneVals s e.form active l
  match oneAct s e.form active l with
  | some a => a
  | none =>
    match e.before l vs with
    | some a => a
    | none => match ownAct s e.form active l with | some a => a | none => e.plan l vs

/-- The outcomes of the active lanes. -/
def entryActs (s : State) (e : Entry) (active : List LaneId) : List (LaneId × Act) :=
  active.map (fun l => (l, laneAct s e active l))

/-- The lowest cause of a list of outcomes (R66). -/
def lowestCause (as : List (LaneId × Act)) : Option Nat :=
  leastOf (as.filterMap (fun a => match a.2 with | .fault c _ _ => some c | _ => none))

/-- A lane's number within its group. -/
def lidxOf : LaneId → Nat | .wave _ i => i | _ => 0

/-- Flags a slice raises (R118, R119): those of lanes that complete, and of lanes that take the delivered cause 0x0B. -/
def actFlags (cause : Option Nat) (a : Act) : Flags :=
  match a with
  | .done _ fl _ => fl
  | .fault c _ fl => if c = 0x0B && cause = some 0x0B then fl else 0
  | _ => 0

/-- Flags raised into a group's FSTAT. -/
def raiseFlags (s : State) (g : Nat) (fl : Flags) : State :=
  modGroup s g (fun x => { x with fstat := x.fstat ||| w32 fl })

/-- A level after lanes complete with targets (R25, R33): the first class that branches runs, or the lanes go on past the instruction;
other classes become pending entries. -/
def placeLevel (v : Level) (len : Nat) (ts : List (Nat × Option Addr)) : Level :=
  let next := v.pc + BitVec.ofNat 56 len
  let cs := targetClasses (ts.filterMap (fun t => t.2.map (fun a => (t.1, a))))
  let fall := maskOf ((ts.filter (fun t => t.2.isNone)).map (·.1))
  match cs with
  | [] => { v with pc := next, running := fall }
  | c :: rest =>
    { v with pc := c.1, running := c.2,
             pending := rest.foldl (fun ps d => addPending ps d.1 d.2) (addPending v.pending next fall) }

/-- The completed lanes of a branch that faults in other lanes become pending entries (R342). -/
def placeDone (v : Level) (len : Nat) (ts : List (Nat × Option Addr)) : Level :=
  let next := v.pc + BitVec.ofNat 56 len
  let cs := targetClasses (ts.map (fun t => (t.1, t.2.getD next)))
  { v with running := v.running &&& ~~~maskOf (ts.map (·.1)), pending := cs.foldl (fun ps c => addPending ps c.1 c.2) v.pending }

/-- The key of the queue that a source pops for a lane, and the number of the entry in its stream. -/
def popEntry? (s : State) (l : LaneId) (xs : List Src) (x : Src) : Option (Nat × Nat) :=
  match l, popQueue? s l x with
  | .wave g i, some q => (group? s g).map (fun y => (8 * (if y.width = 64 then i / 32 else 0) + (x.val - 56), q.popped + popIndex s l xs x))
  | _, _ => none

/-- The queue entries that the lanes of a trapping slice hold (R63): those that they held before, and, when `kept` says that the
instruction completed in some lanes of the group, those that the issue popped. Otherwise the pops are rolled back. -/
def slicePops (s : State) (f : Form) (active : List LaneId) (kept : Bool) (ls : List LaneId) : List BoundPop :=
  let pops := f.srcs.filter (fun x => ls.any (fun l => isPop s l x))
  pops.filterMap (fun x =>
    match ls.findSome? (fun l => heldPop? s l x) with
    | some b => some b
    | none =>
      if kept then
        let es := ls.map (fun l => (lidxOf l, match gather s active f.srcs l x with | .elem e => e | .misuse => .full 0 false))
        some { field := x.fld, elems := es,
               due := if es.any (fun e => elemEmpty e.2) then ls.findSome? (fun l => popEntry? s l f.srcs x) else none }
      else none)

/-- The BRK that a slice still passes once it has retired an instruction (R352): a handler entered since then keeps it. -/
def skipAfter (x : Slice) : Option (Addr × Nat) := x.skipBrk.filter (fun b => b.2 < x.frames.length)

/-- Whether some lane of a group completes. -/
def groupDone (as : List (LaneId × Act)) (g : Nat) : Bool :=
  as.any (fun a => match a.1, a.2 with | .wave h _, .done _ _ _ => h = g | _, _ => false)

/-- The end of an issue for one slice of a wave (R54, R66); `kept` says whether the instruction completes in some lane of its group. -/
def settleWaveSlice (s0 : State) (s : State) (e : Entry) (active : List LaneId) (kept : Bool) (g n : Nat) (as : List (LaneId × Act)) : State :=
  let cause := lowestCause as
  let s := raiseFlags s g ((as.map (fun a => actFlags cause a.2)).foldl flOr 0)
  let done := as.filterMap (fun a => match a.2 with | .done _ _ tgt => some (lidxOf a.1, tgt) | _ => none)
  match cause with
  | none =>
    modSlice s g n (fun x =>
      { setLevel x (placeLevel (levelOf x) e.form.len done) with redo := [], stepping := false, skipBrk := skipAfter x })
  | some c =>
    let tl := as.filterMap (fun a => match a.2 with | .fault c' d _ => if c' = c then some (lidxOf a.1, d) else none | _ => none)
    let t : Trap :=
      { cause := c, tlanes := maskOf (tl.map (·.1)), tdone := if e.branch then 0 else maskOf (done.map (·.1)), taddr := tl,
        pops := slicePops s0 e.form active kept (as.map (·.1)) }
    let s := if e.branch then modSlice s g n (fun x => setLevel x (placeDone (levelOf x) e.form.len done)) else s
    match (group? s g).bind (·.slices[n]?) with
    | some x => takeTrap s g n (levelOf x).pc (levelOf x).running t
    | none => s

/-- The lanes that complete. -/
def doneLanes (as : List (LaneId × Act)) : List LaneId :=
  as.filterMap (fun a => match a.2 with | .done _ _ _ => some a.1 | _ => none)

/-- Queue entries consumed by an issue: each queue that a completing or partly completing group popped moves on (R62, R63). -/
def consumePops (s0 s : State) (f : Form) (as : List (LaneId × Act)) : State :=
  (leads (doneLanes as)).foldl (fun s l =>
    match l with
    | .wave g i =>
      let pops := f.srcs.filter (fun x => isPop s0 l x && (heldPop? s0 l x).isNone)
      let flds := pops.foldl (fun acc x => if acc.any (fun y => y.fld = x.fld) then acc else acc ++ [x]) []
      flds.foldl (fun s x => modGroup s g (fun y =>
        let key := 8 * (if y.width = 64 then i / 32 else 0) + (x.val - 56)
        { y with queues := match tget? y.queues key with
            | some q => tput y.queues key { q with popped := q.popped + 1, entries := q.entries.tail }
            | none => y.queues })) s
    | _ => s) s

/-- A cause taken by every active lane before any operand is read (R94), with its TADDR. -/
def illegalActs (active : List LaneId) (word : Nat) : List (LaneId × Act) := active.map (fun l => (l, .fault 1 word 0))

/-- A page read that a lane's group or context waits for. -/
def addPage (s : State) (l : LaneId) (id : Nat) : State :=
  match l with
  | .wave g _ => modGroup s g (fun x => { x with pages := insertNat id x.pages })
  | .grip t => modTeam s t (fun x => { x with grip := x.grip.map (fun k => { k with pages := insertNat id k.pages }) })
  | .mgmt n => { s with units := { s.units with mgmt := modifyNth s.units.mgmt n (fun k => { k with pages := insertNat id k.pages }) } }

/-- The entries whose read failed while a lane's group or context waited. -/
def laneFailed (s : State) (l : LaneId) : List Nat :=
  match l with
  | .wave g _ => ((group? s g).map (·.failed)).getD []
  | .grip t => (((team? s t).bind (·.grip)).map (·.failed)).getD []
  | .mgmt n => ((s.units.mgmt[n]?).map (·.failed)).getD []

/-- A translation as a lane takes it: the page of a failed read raises cause 0x04 (R158). -/
def failedTrans (s : State) (l : LaneId) (t : Trans) : Trans :=
  match t with
  | .wait entry => if (laneFailed s l).contains entry then .fault 4 else .wait entry
  | r => r

/-- The failed reads of the lanes of an issue that has ended are forgotten. -/
def clearFailed (s : State) (ls : List LaneId) : State :=
  ls.foldl (fun s l =>
    if (laneFailed s l).isEmpty then s
    else match l with
      | .wave g _ => modGroup s g (fun x => { x with failed := [] })
      | .grip t => modTeam s t (fun x => { x with grip := x.grip.map (fun k => { k with failed := [] }) })
      | .mgmt n => { s with units := { s.units with mgmt := modifyNth s.units.mgmt n (fun k => { k with failed := [] }) } }) s

/-- What an access by a lane leaves behind in translation; a lane that meets an absent page waits for its read (R158, R159). -/
def noteLane (s : State) (l : LaneId) (va : Nat) (a : Acc) : State :=
  let core := laneCore s l
  let p := lanePart s l
  match translate s core p va a with
  | .wait entry =>
    if (laneFailed s l).contains entry then s
    else
      let s' := noteAccess s core p va a
      addPage s' l (readId s' p entry)
  | _ => noteAccess s core p va a

/-- A slate whose holder's waves have become evictable is released, and taken back before its next use (R230). -/
def releaseSlate (s : State) (k : Nat) : State :=
  let h := slotHolder s k
  let c := slotCore k
  let q := slotQuad k
  if (quadOf s c q).slate = some h then modSlot (setSlate s c q none) h (fun x => { x with reclaim := true }) else s

/-- Wave slots renamed in the holders of the leases that `mine` tells, those recorded at the latest tick included (R320, R322). -/
def seatLeases (u : Units) (mine : Lease → Bool) (seat : Nat → Nat) : Units :=
  let move (l : Lease) : Lease := if mine l then { l with slots := l.slots.map seat } else l
  { u with clusters := u.clusters.map (fun e => (e.1, { e.2 with lease := e.2.lease.map move }))
           power := { u.power with leases := u.power.leases.map (fun e => (e.1, move e.2)) } }

/-- A wave moves from one slot to another: its lines, its slot's record, its groups' seats and its lease follow it. -/
def moveSlot (s : State) (k j : Nat) : State :=
  let s := moveLines s k j
  let seat (n : Nat) : Nat := if n = k then j else n
  let slots := match tget? s.work.slots k with
    | some x => tput (tdel s.work.slots k) j x
    | none => s.work.slots
  { s with
    work := { s.work with slots := slots,
                          groups := s.work.groups.map (fun e => (e.1, if e.2.ended then e.2 else { e.2 with seats := e.2.seats.map seat })) }
    units := seatLeases s.units (fun _ => true) seat }

/-- A wave slot whose groups are all swapped out is given up: the slate is released (R230), and the wave keeps a key that names no
slot (R159). -/
def vacateSlot (s : State) (k : Nat) : State :=
  let s := releaseSlate s k
  let s := modQuad s (slotCore k) (slotQuad k) (fun q => { q with waiters := q.waiters.filter (· != k) })
  let s := (slotGroups s k).foldl (fun s e => modGroup s e.1 (leaveClock s)) s
  let m := s.work.nextId + 1
  moveSlot { s with work := { s.work with nextId := m } } k (3072 * m + k)

/-- A wave slot is given up once each of its groups is swapped out or over, and one is swapped out (R159, R230). -/
def vacateAway (s : State) (k : Nat) : State :=
  let gs := slotGroups s k
  let gone (x : Group) : Bool := x.exited = allLanes x
  if k < 3072 && gs.all (fun e => e.2.status = .swapped || gone e.2) && gs.any (fun e => e.2.status = .swapped && !gone e.2) then vacateSlot s k
  else s

/-- The wave slots of a group that may be given up. -/
def vacateSeats (s : State) (g : Nat) : State := match group? s g with | some x => x.seats.foldl vacateAway s | none => s

/-- A group is swapped out (R159). -/
def swapGroup (s : State) (g : Nat) : State :=
  vacateSeats (modGroup (squashGroup (drainGroup s g) g) g (fun x => { x with status := .swapped })) g

/-- What an exit may complete in a group and in its wave slots. -/
def exitProgress (s : State) (g : Nat) : State := vacateSeats (groupProgress s g) g

/-- Groups whose lanes meet absent pages are swapped out (R159); a grip or management context waits (R160). -/
def swapOut (s : State) (ls : List LaneId) : State :=
  ls.foldl (fun s l => match l with | .wave g _ => swapGroup s g | _ => s) s

/-- The slices of the issuing lanes with their outcomes. -/
def bySlice (as : List (LaneId × Act)) : List ((Nat × Nat) × List (LaneId × Act)) :=
  let keys := as.foldl (fun acc a => match a.1 with
    | .wave g i => if acc.contains (g, i / 4) then acc else acc ++ [(g, i / 4)]
    | _ => acc) []
  keys.map (fun k => (k, as.filter (fun a => match a.1 with | .wave g i => (g, i / 4) = k | _ => false)))

/-- Whether a wait belongs to an instruction that has not retired: for the slate, at YIELD, SLEEP or a lease request. -/
def waitHolds (w : Wait) : Bool :=
  match w with | .slate => true | .yield _ => true | .sleep _ _ => true | .lease _ _ _ => true | _ => false

/-- Whether a lane has retired the instruction that it issued: it has completed it, and its slice does not wait at it. -/
def laneRetired (s : State) (a : LaneId × Act) : Bool :=
  match a.1, a.2 with
  | .wave g i, .done _ _ _ => !((group? s g).bind (sliceOf · i)).any (fun x => waitHolds x.wait)
  | _, .done _ _ _ => true
  | _, _ => false

/-- An instruction of a wave has retired: its count, and the clocks of its core at which the wave and the groups did so (R252, R270). -/
def waveRetired (s : State) (k : Nat) (gs : List Nat) : State :=
  let clk := (coreOf s (slotCore k)).clk
  gs.foldl (fun s g => modGroup s g (fun x => { x with quiet := clk })) (modSlot s k (fun x => { x with retired := x.retired + 1, readyAt := clk }))

/-- The groups of some lanes that have retired an instruction. -/
def retiredGroups (s : State) (as : List (LaneId × Act)) : List Nat :=
  sortNat (as.filterMap (fun a => match a.1 with | .wave g _ => if laneRetired s a then some g else none | _ => none))

/-- The gang that issued last, and, where the instruction has retired, the number of instructions retired and the clock of that (R252, R253,
R270). -/
def noteRetired (s : State) (f : Focus) (as : List (LaneId × Act)) : State :=
  let s := match f with | .wave k gang => modSlot s k (fun x => { x with lastGang := gang }) | _ => s
  if as.any (fun a => match a.2 with | .done _ _ _ => true | _ => false) then
    match f with
    | .wave k _ => if as.any (laneRetired s) then waveRetired s k (retiredGroups s as) else s
    | .grip t => modTeam s t (fun x => { x with
        grip := x.grip.map (fun k => { k with retired := k.retired + 1, readyAt := (coreOf s x.core).clk }) })
    | .mgmt n => { s with units := { s.units with mgmt := modifyNth s.units.mgmt n (fun k => { k with retired := k.retired + 1 }) } }
    | .none => s
  else s

/-- The end of an issue on a grip or management core: the counter moves, or the context takes its cause. -/
def settleSingle (s : State) (len : Nat) (l : LaneId) (a : Act) : State :=
  match l, a with
  | .grip t, .done _ _ tgt =>
    modTeam s t (fun x => { x with
      grip := x.grip.map (fun k => { k with pc := tgt.getD (k.pc + BitVec.ofNat 56 len), stepping := false, skipBrk := none }) })
  | .grip t, .fault c d _ => gripTrap s t c d
  | .mgmt n, .done _ _ tgt =>
    { s with units := { s.units with mgmt := modifyNth s.units.mgmt n (fun k => { k with pc := tgt.getD (k.pc + BitVec.ofNat 56 len) }) } }
  | .mgmt n, .fault c _ _ => mgmtTrap s n c
  | _, _ => s

/-- The gangs of the issuing wave part by program counter (R24): slices that trap together share TVEC's, and stay one gang. -/
def partFocus (s : State) : State := match s.focus with | .wave k _ => partWave s k | _ => s

/-- The end of an issue whose instruction moves slices itself: a slice without a cause takes `f`, the others trap; then what exits and
parkings complete. -/
def settleGang (s : State) (e : Entry) (active : List LaneId) (as : List (LaneId × Act)) (f : State → Nat → Nat → State) : State :=
  let parts := bySlice as
  let s' := parts.foldl (fun t p =>
    if (lowestCause p.2).isSome then settleWaveSlice s t e active (groupDone as p.1.1) p.1.1 p.1.2 p.2
    else f (modSlice t p.1.1 p.1.2 (fun x => { x with redo := [], stepping := false, skipBrk := skipAfter x })) p.1.1 p.1.2) s
  let s' := partFocus s'
  (sortNat (parts.map (·.1.1))).foldl exitProgress s'

/-- The end of an issue for every slice of its gang, or for its one-lane context. -/
def settleAll (s0 s : State) (e : Entry) (active : List LaneId) (as : List (LaneId × Act)) : State :=
  match s.focus with
  | .wave _ _ =>
    let parts := bySlice as
    partFocus (parts.foldl (fun s p => settleWaveSlice s0 s e active (groupDone as p.1.1) p.1.1 p.1.2 p.2) s)
  | _ => as.foldl (fun s a => settleSingle s e.form.len a.1 a.2) s

/-- The effects of the lanes of one instruction, in ascending lane position. A lane that takes a cause performs nothing; one whose
translation ends in cause 0x04 leaves a note of it, once for a page, so that an empty pool is reported (R158). -/
def applyActs (s0 : State) (e : Entry) (active : List LaneId) (seen : List Nat) : State → List (LaneId × Act) → State
  | s, [] => s
  | s, a :: as =>
    match a.2 with
    | .done ws _ _ => applyActs s0 e active seen (e.eff a.1 (laneVals s0 e.form active a.1) (writeLanes s a.1 ws)) as
    | .fault cause detail _ =>
      if cause ≠ 4 || seen.contains (detail / 4096) then applyActs s0 e active seen s as
      else applyActs s0 e active (detail / 4096 :: seen) (e.note a.1 (laneVals s0 e.form active a.1) s) as
    | _ => applyActs s0 e active seen s as

/-- The actions of an instruction that acts once for each group, for the lanes that complete, in ascending order of each group's lowest lane
position (R457). -/
def groupEffects (s0 : State) (e : Entry) (active done : List LaneId) (s : State) : State :=
  match e.once with
  | none => s
  | some f => (leads done).foldl (fun t l => f ((done.filter (sameGroup l)).map (fun m => (m, laneVals s0 e.form active m))) t) s

/-- The writes and effects of the lanes that complete. -/
def applyDone (s0 s : State) (e : Entry) (active : List LaneId) (as : List (LaneId × Act)) : State :=
  groupEffects s0 e active (doneLanes as) (applyActs s0 e active [] s as)

/-- The word of an instruction that has an encoding, zero-extended (TADDR of cause 0x01). -/
def wordOf (i : Instr) : Nat := match encode i with | some c => c.zext.toNat | none => 0

/-- An issue with the outcomes of its lanes known: a wait changes nothing; an absent page swaps the groups that met it out, and no lane
takes a cause; otherwise the instruction ends for each slice. -/
def finish (s : State) (e : Entry) (active : List LaneId) (as : List (LaneId × Act)) : State :=
  if as.any (fun a => a.2 = .wait) then s
  else if as.any (fun a => a.2 = .swap) then
    let ls := (as.filter (fun a => a.2 = .swap)).map (·.1)
    swapOut (ls.foldl (fun s' l => e.note l (laneVals s e.form active l) s') s) ls
  else
    let s1 := applyDone s s e active as
    let s2 := consumePops s s1 e.form as
    let s3 := settleAll s s2 e active as
    clearFailed (noteRetired s3 s.focus as) active

/-- Whether an instruction may execute for every one of some lanes. -/
def legalFor (s : State) (e : Entry) (l : LaneId) : Bool := available e.form l && fieldsLegal s e.form l && e.legal l

/-- The lanes' outcomes with cause 0x01 first (R94). -/
def actsOf (s : State) (e : Entry) (word : Nat) (active : List LaneId) : List (LaneId × Act) :=
  if active.all (legalFor s e) then entryActs s e active
  else
    let ok := active.filter (legalFor s e)
    active.map (fun l => (l, if ok.contains l then laneAct s e active l else .fault 1 word 0))

/-- One issue of an instruction by the context in `focus`. -/
def runEntry (s : State) (i : Instr) (e : Entry) : Host.Outcome State Fault Refusal :=
  let active := activeLanes s s.focus
  if active.isEmpty then .fault .noIssuer
  else .next (finish s e active (actsOf s e (wordOf i) active))

/-- One issue of an instruction that moves slices (or a one-lane context) itself, by `f` (or `g`). -/
def runMove (s : State) (i : Instr) (e : Entry) (f : State → Nat → Nat → State) (g : State → LaneId → State) :
    Host.Outcome State Fault Refusal :=
  let active := activeLanes s s.focus
  if active.isEmpty then .fault .noIssuer
  else
    let as := actsOf s e (wordOf i) active
    if as.any (fun a => a.2 = .wait) then .next s
    else match s.focus with
      | .wave _ _ => .next (noteRetired (settleGang s e active as f) s.focus as)
      | _ => .next (noteRetired (as.foldl (fun t a =>
          match a.2 with
          | .done _ _ _ => g t a.1
          | _ => settleSingle t e.form.len a.1 a.2) s) s.focus as)

/-- The counter of a one-lane context moved past an instruction. -/
def stepSingle (len : Nat) (s : State) (l : LaneId) : State := settleSingle s len l (.done [] 0 none)

/-- A form without operands. -/
def plainForm (grip : Bool) : Form := { grip := grip, srcs := [], pairs := [], dst := none, len := 4 }

/-- An entry of a register instruction: no effect but its writes. -/
def pureEntry (form : Form) (plan : LaneId → List Word → Act) : Entry :=
  { form := form, legal := fun _ => true, plan := plan, note := fun _ _ s => s, eff := fun _ _ s => s, branch := false }

/-- The state that a group's action meets: what `act` does for the earlier groups of the gang, whose operands are at hand, is done (R457). -/
def groupBefore (s : State) (form : Form) (active : List LaneId) (act : LaneId → List Word → State → State) (l : LaneId) : State :=
  ((leads active).takeWhile (fun m => m ≠ leadLane active l)).foldl (fun t m =>
    if (commonAct s form active m).isNone then act m (laneVals s form active m) t else t) s

/-- A result in one register, with no flag. -/
def result (d : Reg) (v : Word) : Act := .done [(d.toNat, v)] 0 none

/-- A result in a pair. -/
def result2 (d : Reg) (v : Nat) : Act := .done [(d.toNat, w32 v), (d.toNat + 1, w32 (v / 2 ^ 32))] 0 none

end Sys2Proof.Machine
end

