-- ==== Sys2Proof/Machine/IntOps.lean ====
section
/-! DEFINITION. Integer, bit and move instructions (R343, R348, R351, R377 to R384, R391, R392, R395, R403 to R405). -/

namespace Sys2Proof.Machine

/-! ### Shared shapes -/

/-- A register instruction of the three-register format with two sources. -/
def regForm (grip : Bool) (ea eb : Bool) (d a b : Reg) : Form :=
  { grip := grip, srcs := [src 0 a ea, src 1 b eb], pairs := [], dst := some d, len := 4 }

/-- A register instruction with one source. -/
def regForm1 (grip : Bool) (ea : Bool) (d a : Reg) : Form :=
  { grip := grip, srcs := [src 0 a ea], pairs := [], dst := some d, len := 4 }

/-- A register instruction of the four-register format. -/
def regForm4 (grip : Bool) (d a b : Reg) (c : Reg5) : Form :=
  { grip := grip, srcs := [src 0 a false, src 1 b false, srcC c], pairs := [], dst := some d, len := 4 }

/-- A 5-bit register field widened. -/
def reg5 (r : Reg5) : Reg := r.zeroExtend 6

/-- The 16-bit format: d op s, with s an immediate when `k` (R80). -/
def halfForm (grip : Bool) (k : Bool) (d s : Reg5) : Form :=
  { grip := grip, srcs := if k then [src 0 (reg5 d) false] else [src 0 (reg5 d) false, src 1 (reg5 s) false], pairs := [],
    dst := some (reg5 d), len := 2 }

/-- A lane's n-th source. -/
def val (vs : List Word) (n : Nat) : Word := vs.getD n 0

/-- d := f a b. -/
def execBinary (i : Instr) (ea eb : Bool) (d a b : Reg) (f : Word → Word → Word) (s : State) : Host.Outcome State Fault Refusal :=
  runEntry s i (pureEntry (regForm true ea eb d a b) (fun _ vs => result d (f (val vs 0) (val vs 1))))

/-- d := f a. -/
def execUnary (i : Instr) (ea : Bool) (d a : Reg) (f : Word → Word) (s : State) : Host.Outcome State Fault Refusal :=
  runEntry s i (pureEntry (regForm1 true ea d a) (fun _ vs => result d (f (val vs 0))))

/-- d := f a b c. -/
def execTernary (i : Instr) (d a b : Reg) (c : Reg5) (f : Word → Word → Word → Word) (s : State) :
    Host.Outcome State Fault Refusal :=
  runEntry s i (pureEntry (regForm4 true d a b c) (fun _ vs => result d (f (val vs 0) (val vs 1) (val vs 2))))

/-- The pair d := f a b c. -/
def execTernaryWide (i : Instr) (d a b : Reg) (c : Reg5) (f : Word → Word → Word → Nat) (s : State) :
    Host.Outcome State Fault Refusal :=
  runEntry s i (pureEntry { regForm4 true d a b c with dst := none, pairs := [d] }
    (fun _ vs => result2 d (f (val vs 0) (val vs 1) (val vs 2))))

/-- The pair d := f (pair a) (pair b). -/
def execPair (i : Instr) (ea eb : Bool) (d a b : Reg) (f : Nat → Nat → Nat) (s : State) : Host.Outcome State Fault Refusal :=
  runEntry s i (pureEntry
    { grip := true, srcs := srcPair 0 a ea ++ srcPair 1 b eb, pairs := [d, a, b], dst := none, len := 4 }
    (fun _ vs => result2 d (f (pairNat (val vs 0) (val vs 1)) (pairNat (val vs 2) (val vs 3)))))

/-- A 16-bit integer instruction: d := f d s. -/
def execHalf (i : Instr) (k : Bool) (d s : Reg5) (f : Word → Word → Word) (st : State) : Host.Outcome State Fault Refusal :=
  runEntry st i (pureEntry (halfForm true k d s)
    (fun _ vs => result (reg5 d) (f (val vs 0) (if k then s.zeroExtend 32 else val vs 1))))

/-- A 9-bit immediate as a word. -/
def imm9 (x : BitVec 9) : Word := x.signExtend 32

/-! ### Operations -/

/-- int32 clamped to its range. -/
def clampInt (x : Int) : Word := if x < -2147483648 then 0x80000000 else if 2147483647 < x then 0x7FFFFFFF else wInt x


/-- Bits [63:32] of a signed and of an unsigned product. -/
def mulHigh (a b : Word) : Word := wInt ((sint a * sint b) / 4294967296)
def mulHighU (a b : Word) : Word := w32 (a.toNat * b.toNat / 2 ^ 32)

/-- Shifts by the low five bits of the amount. -/
def shlWord (a b : Word) : Word := a <<< (b.toNat % 32)
def shrWord (a b : Word) : Word := a >>> (b.toNat % 32)
def sarWord (a b : Word) : Word := a.sshiftRight (b.toNat % 32)

/-- Leading zeros of a word; 32 for 0. -/
def leadingZeros (a : Word) : Nat := if a = 0 then 32 else 31 - a.toNat.log2

/-- One bits of a word. -/
def onesCount (a : Word) : Nat := ((List.range 32).filter a.getLsbD).length

/-- Bits in reverse order. -/
def reverseBits (a : Word) : Word := w32 (((List.range 32).map (fun k => if a.getLsbD (31 - k) then 2 ^ k else 0)).foldl (· + ·) 0)

/-- A predicate (R382). -/
def predicate (b : Bool) : Word := if b then 0xFFFFFFFF else 0

/-- Table 4-15, ICMP. -/
def compareInt (c : ICond) (a b : Word) : Bool :=
  match c with
  | .eq => a == b
  | .ne => a != b
  | .lt => a.slt b
  | .le => a.sle b
  | .gt => b.slt a
  | .ge => b.sle a
  | .ltu => a.ult b
  | .leu => a.ule b
  | .gtu => b.ult a
  | .geu => b.ule a

/-- A bit field's position and effective width from its control word (R348). -/
def fieldPos (c : Word) : Nat := c.toNat % 32
def fieldWidth (c : Word) : Nat := min (min (bits c.toNat 13 8) 32) (32 - fieldPos c)

def bitField (a c : Word) : Nat := a.toNat / 2 ^ fieldPos c % 2 ^ fieldWidth c

def bitFieldSigned (a c : Word) : Word := if fieldWidth c = 0 then 0 else wInt (sextNat (bitField a c) (fieldWidth c))

def bitFieldInsert (a b c : Word) : Word :=
  let m := w32 ((2 ^ fieldWidth c - 1) * 2 ^ fieldPos c)
  (b &&& ~~~m) ||| ((a <<< fieldPos c) &&& m)

/-- BPERM: four bytes chosen from the eight of a and b. -/
def permBytes (a b c : Word) : Word :=
  w32 (leNat ((List.range 4).map (fun k =>
    let sel := bits c.toNat (4 * k + 3) (4 * k)
    if 8 ≤ sel then 0 else BitVec.ofNat 8 (pairNat a b / 2 ^ (8 * sel)))))

/-- IADD (R378). -/
def execIadd (ea eb : Bool) (d a b : Reg) (s : State) : Host.Outcome State Fault Refusal :=
  execBinary (.iadd ea eb d a b) ea eb d a b (· + ·) s

/-- ISUB (R378). -/
def execIsub (ea eb : Bool) (d a b : Reg) (s : State) : Host.Outcome State Fault Refusal :=
  execBinary (.isub ea eb d a b) ea eb d a b (· - ·) s

/-- IMUL (R378). -/
def execImul (ea eb : Bool) (d a b : Reg) (s : State) : Host.Outcome State Fault Refusal :=
  execBinary (.imul ea eb d a b) ea eb d a b (· * ·) s

/-- IMULH (R378). -/
def execImulh (ea eb : Bool) (d a b : Reg) (s : State) : Host.Outcome State Fault Refusal :=
  execBinary (.imulh ea eb d a b) ea eb d a b mulHigh s

/-- IMULHU (R378). -/
def execImulhu (ea eb : Bool) (d a b : Reg) (s : State) : Host.Outcome State Fault Refusal :=
  execBinary (.imulhu ea eb d a b) ea eb d a b mulHighU s

/-- IMIN (R378). -/
def execImin (ea eb : Bool) (d a b : Reg) (s : State) : Host.Outcome State Fault Refusal :=
  execBinary (.imin ea eb d a b) ea eb d a b minInt s

/-- IMAX (R378). -/
def execImax (ea eb : Bool) (d a b : Reg) (s : State) : Host.Outcome State Fault Refusal :=
  execBinary (.imax ea eb d a b) ea eb d a b maxInt s

/-- IMINU (R378). -/
def execIminu (ea eb : Bool) (d a b : Reg) (s : State) : Host.Outcome State Fault Refusal :=
  execBinary (.iminu ea eb d a b) ea eb d a b minUint s

/-- IMAXU (R378). -/
def execImaxu (ea eb : Bool) (d a b : Reg) (s : State) : Host.Outcome State Fault Refusal :=
  execBinary (.imaxu ea eb d a b) ea eb d a b maxUint s

/-- AND (R343). -/
def execAnd (ea eb : Bool) (d a b : Reg) (s : State) : Host.Outcome State Fault Refusal :=
  execBinary (.and ea eb d a b) ea eb d a b (· &&& ·) s

/-- OR (R395). -/
def execOr (ea eb : Bool) (d a b : Reg) (s : State) : Host.Outcome State Fault Refusal :=
  execBinary (.or ea eb d a b) ea eb d a b (· ||| ·) s

/-- XOR (R395). -/
def execXor (ea eb : Bool) (d a b : Reg) (s : State) : Host.Outcome State Fault Refusal :=
  execBinary (.xor ea eb d a b) ea eb d a b (· ^^^ ·) s

/-- ANDN (R343). -/
def execAndn (ea eb : Bool) (d a b : Reg) (s : State) : Host.Outcome State Fault Refusal :=
  execBinary (.andn ea eb d a b) ea eb d a b (fun x y => x &&& ~~~y) s

/-- SHL (R403). -/
def execShl (ea eb : Bool) (d a b : Reg) (s : State) : Host.Outcome State Fault Refusal :=
  execBinary (.shl ea eb d a b) ea eb d a b shlWord s

/-- SHR (R403). -/
def execShr (ea eb : Bool) (d a b : Reg) (s : State) : Host.Outcome State Fault Refusal :=
  execBinary (.shr ea eb d a b) ea eb d a b shrWord s

/-- SAR (R403). -/
def execSar (ea eb : Bool) (d a b : Reg) (s : State) : Host.Outcome State Fault Refusal :=
  execBinary (.sar ea eb d a b) ea eb d a b sarWord s

/-- IADDS (R378). -/
def execIadds (ea eb : Bool) (d a b : Reg) (s : State) : Host.Outcome State Fault Refusal :=
  execBinary (.iadds ea eb d a b) ea eb d a b (fun x y => clampInt (sint x + sint y)) s

/-- ISUBS (R378). -/
def execIsubs (ea eb : Bool) (d a b : Reg) (s : State) : Host.Outcome State Fault Refusal :=
  execBinary (.isubs ea eb d a b) ea eb d a b (fun x y => clampInt (sint x - sint y)) s

/-- IADDI (R380). -/
def execIaddi (ea : Bool) (d a : Reg) (imm : BitVec 9) (s : State) : Host.Outcome State Fault Refusal :=
  execUnary (.iaddi ea d a imm) ea d a (· + imm9 imm) s

/-- IMULI (R380). -/
def execImuli (ea : Bool) (d a : Reg) (imm : BitVec 9) (s : State) : Host.Outcome State Fault Refusal :=
  execUnary (.imuli ea d a imm) ea d a (· * imm9 imm) s

/-- ANDI (R343). -/
def execAndi (ea : Bool) (d a : Reg) (imm : BitVec 9) (s : State) : Host.Outcome State Fault Refusal :=
  execUnary (.andi ea d a imm) ea d a (· &&& imm9 imm) s

/-- ORI (R395). -/
def execOri (ea : Bool) (d a : Reg) (imm : BitVec 9) (s : State) : Host.Outcome State Fault Refusal :=
  execUnary (.ori ea d a imm) ea d a (· ||| imm9 imm) s

/-- XORI (R395). -/
def execXori (ea : Bool) (d a : Reg) (imm : BitVec 9) (s : State) : Host.Outcome State Fault Refusal :=
  execUnary (.xori ea d a imm) ea d a (· ^^^ imm9 imm) s

/-- SHLI (R403). -/
def execShli (ea : Bool) (d a : Reg) (n : BitVec 5) (s : State) : Host.Outcome State Fault Refusal :=
  execUnary (.shli ea d a n) ea d a (· <<< n.toNat) s

/-- SHRI (R403). -/
def execShri (ea : Bool) (d a : Reg) (n : BitVec 5) (s : State) : Host.Outcome State Fault Refusal :=
  execUnary (.shri ea d a n) ea d a (· >>> n.toNat) s

/-- SARI (R403). -/
def execSari (ea : Bool) (d a : Reg) (n : BitVec 5) (s : State) : Host.Outcome State Fault Refusal :=
  execUnary (.sari ea d a n) ea d a (fun x => x.sshiftRight n.toNat) s

/-- MOV (R391). -/
def execMov (ea : Bool) (d a : Reg) (s : State) : Host.Outcome State Fault Refusal :=
  execUnary (.mov ea d a) ea d a (fun x => x) s

/-- NOT (R391). -/
def execNot (ea : Bool) (d a : Reg) (s : State) : Host.Outcome State Fault Refusal :=
  execUnary (.not ea d a) ea d a (fun x => ~~~x) s

/-- INEG (R377). -/
def execIneg (ea : Bool) (d a : Reg) (s : State) : Host.Outcome State Fault Refusal :=
  execUnary (.ineg ea d a) ea d a (fun x => 0 - x) s

/-- IABS (R377). -/
def execIabs (ea : Bool) (d a : Reg) (s : State) : Host.Outcome State Fault Refusal :=
  execUnary (.iabs ea d a) ea d a (fun x => if x.slt 0 then 0 - x else x) s

/-- POPC (R391). -/
def execPopc (ea : Bool) (d a : Reg) (s : State) : Host.Outcome State Fault Refusal :=
  execUnary (.popc ea d a) ea d a (fun x => w32 (onesCount x)) s

/-- CLZ (R351). -/
def execClz (ea : Bool) (d a : Reg) (s : State) : Host.Outcome State Fault Refusal :=
  execUnary (.clz ea d a) ea d a (fun x => w32 (leadingZeros x)) s

/-- BREV (R351). -/
def execBrev (ea : Bool) (d a : Reg) (s : State) : Host.Outcome State Fault Refusal :=
  execUnary (.brev ea d a) ea d a reverseBits s

/-- IMAD (R383). -/
def execImad (d a b : Reg) (c : Reg5) (s : State) : Host.Outcome State Fault Refusal :=
  execTernary (.imad d a b c) d a b c (fun x y z => x * y + z) s

/-- IMADW.uint (R384). -/
def execImadwUint (d a b : Reg) (c : Reg5) (s : State) : Host.Outcome State Fault Refusal :=
  execTernaryWide (.imadwUint d a b c) d a b c (fun x y z => x.toNat * y.toNat + z.toNat) s

/-- IMADW.int (R384). -/
def execImadwInt (d a b : Reg) (c : Reg5) (s : State) : Host.Outcome State Fault Refusal :=
  execTernaryWide (.imadwInt d a b c) d a b c (fun x y z => (BitVec.ofInt 64 (sint x * sint y + sint z)).toNat) s

/-- IADDW (R381). -/
def execIaddw (ea eb : Bool) (d a b : Reg) (s : State) : Host.Outcome State Fault Refusal :=
  execPair (.iaddw ea eb d a b) ea eb d a b (fun x y => (x + y) % 2 ^ 64) s

/-- ISUBW (R381). -/
def execIsubw (ea eb : Bool) (d a b : Reg) (s : State) : Host.Outcome State Fault Refusal :=
  execPair (.isubw ea eb d a b) ea eb d a b (fun x y => (x + 2 ^ 64 - y) % 2 ^ 64) s

/-- SHLW (R405): the amount is the low six bits of b. -/
def execShlw (ea eb : Bool) (d a b : Reg) (s : State) : Host.Outcome State Fault Refusal :=
  runEntry s (.shlw ea eb d a b) (pureEntry
    { grip := true, srcs := srcPair 0 a ea ++ [src 1 b eb], pairs := [d, a], dst := none, len := 4 }
    (fun _ vs => result2 d (pairNat (val vs 0) (val vs 1) * 2 ^ ((val vs 2).toNat % 64) % 2 ^ 64)))

/-- ICMP (R382). -/
def execIcmp (cond : ICond) (ea eb : Bool) (d a b : Reg) (s : State) : Host.Outcome State Fault Refusal :=
  execBinary (.icmp cond ea eb d a b) ea eb d a b (fun x y => predicate (compareInt cond x y)) s

/-- SEL (R404). -/
def execSel (d a b : Reg) (c : Reg5) (s : State) : Host.Outcome State Fault Refusal :=
  execTernary (.sel d a b c) d a b c (fun x y z => if z = 0 then y else x) s

/-- BFE (R348). -/
def execBfe (d a : Reg) (c : Reg5) (s : State) : Host.Outcome State Fault Refusal :=
  runEntry s (.bfe d a c) (pureEntry { grip := true, srcs := [src 0 a false, srcC c], pairs := [], dst := some d, len := 4 }
    (fun _ vs => result d (bitFieldSigned (val vs 0) (val vs 1))))

/-- BFEU (R348). -/
def execBfeu (d a : Reg) (c : Reg5) (s : State) : Host.Outcome State Fault Refusal :=
  runEntry s (.bfeu d a c) (pureEntry { grip := true, srcs := [src 0 a false, srcC c], pairs := [], dst := some d, len := 4 }
    (fun _ vs => result d (w32 (bitField (val vs 0) (val vs 1)))))

/-- BFI (R348). -/
def execBfi (d a b : Reg) (c : Reg5) (s : State) : Host.Outcome State Fault Refusal :=
  execTernary (.bfi d a b c) d a b c bitFieldInsert s

/-- BPERM (R348). -/
def execBperm (d a b : Reg) (c : Reg5) (s : State) : Host.Outcome State Fault Refusal :=
  execTernary (.bperm d a b c) d a b c permBytes s

/-- MOVI (R392). -/
def execMovi (d : Reg) (imm : BitVec 16) (s : State) : Host.Outcome State Fault Refusal :=
  runEntry s (.movi d imm) (pureEntry { grip := true, srcs := [], pairs := [], dst := some d, len := 4 }
    (fun _ _ => result d (imm.signExtend 32)))

/-- MOVHI (R392). -/
def execMovhi (d : Reg) (imm : BitVec 16) (s : State) : Host.Outcome State Fault Refusal :=
  runEntry s (.movhi d imm) (pureEntry { grip := true, srcs := [src 3 d false], pairs := [], dst := some d, len := 4 }
    (fun _ vs => result d (imm ++ (val vs 0).extractLsb' 0 16)))

/-- The form of the 16-bit MOV, which reads `s` only, as the 32-bit MOV reads its one source (R80, R105). -/
def moveForm (k : Bool) (d r : Reg5) : Form :=
  { halfForm true k d r with srcs := if k then [] else [src 1 (reg5 r) false] }

/-- The 16-bit MOV (R391). -/
def execMov16 (k : Bool) (d r : Reg5) (s : State) : Host.Outcome State Fault Refusal :=
  runEntry s (.mov16 k d r) (pureEntry (moveForm k d r) (fun _ vs => result (reg5 d) (if k then r.zeroExtend 32 else val vs 0)))

/-- The 16-bit IADD (R378). -/
def execIadd16 (k : Bool) (d r : Reg5) (s : State) : Host.Outcome State Fault Refusal :=
  execHalf (.iadd16 k d r) k d r (· + ·) s

/-- The 16-bit ISUB (R378). -/
def execIsub16 (k : Bool) (d r : Reg5) (s : State) : Host.Outcome State Fault Refusal :=
  execHalf (.isub16 k d r) k d r (· - ·) s

/-- The 16-bit IMUL (R378). -/
def execImul16 (k : Bool) (d r : Reg5) (s : State) : Host.Outcome State Fault Refusal :=
  execHalf (.imul16 k d r) k d r (· * ·) s

/-- The 16-bit AND (R343). -/
def execAnd16 (k : Bool) (d r : Reg5) (s : State) : Host.Outcome State Fault Refusal :=
  execHalf (.and16 k d r) k d r (· &&& ·) s

/-- The 16-bit OR (R395). -/
def execOr16 (k : Bool) (d r : Reg5) (s : State) : Host.Outcome State Fault Refusal :=
  execHalf (.or16 k d r) k d r (· ||| ·) s

/-- The 16-bit XOR (R395). -/
def execXor16 (k : Bool) (d r : Reg5) (s : State) : Host.Outcome State Fault Refusal :=
  execHalf (.xor16 k d r) k d r (· ^^^ ·) s

/-- The 16-bit SHL (R403). -/
def execShl16 (k : Bool) (d r : Reg5) (s : State) : Host.Outcome State Fault Refusal :=
  execHalf (.shl16 k d r) k d r shlWord s

/-- The 16-bit SHR (R403). -/
def execShr16 (k : Bool) (d r : Reg5) (s : State) : Host.Outcome State Fault Refusal :=
  execHalf (.shr16 k d r) k d r shrWord s

/-- The 16-bit SAR (R403). -/
def execSar16 (k : Bool) (d r : Reg5) (s : State) : Host.Outcome State Fault Refusal :=
  execHalf (.sar16 k d r) k d r sarWord s

/-- The 16-bit IMIN (R378). -/
def execImin16 (k : Bool) (d r : Reg5) (s : State) : Host.Outcome State Fault Refusal :=
  execHalf (.imin16 k d r) k d r minInt s

/-- The 16-bit IMAX (R378). -/
def execImax16 (k : Bool) (d r : Reg5) (s : State) : Host.Outcome State Fault Refusal :=
  execHalf (.imax16 k d r) k d r maxInt s

end Sys2Proof.Machine
end

