-- ==== Sys2Proof/Machine/FloatOps.lean ====
section
/-! DEFINITION. Scalar floating-point instructions (R113 to R123, R133, R362 to R374). -/

namespace Sys2Proof.Machine

/-! ### Shared pieces -/

/-- The flags whose enable bits MODE[8:4] hold 1 (Table 5-2). -/
def enabledFlags (mode : Word) (fl : Flags) : Flags := fl &&& (mode.toNat / 16 % 32)

/-- A lane's last step (R119, R362): its flags, and then its result or cause 0x0B with TADDR the flags. -/
def fpResult (mode : Word) (d : Nat) (r : Word × Flags) : Act :=
  if enabledFlags mode r.2 = 0 then .done [(d, r.1)] r.2 none else .fault 0x0B r.2 r.2

/-- An FP32 operand as vector arithmetic reads it under MODE. -/
def rd32 (mode : Word) (x : Word) : Num := readFp fp32 (modeFtz mode) x.toNat

/-- An exact value rounded to FP32 under MODE[3], with flags raised before and by the rounding. -/
def put32 (rm : RMode) (mode : Word) (x : Num × Flags) : Word × Flags :=
  let r := roundFp fp32 rm (modeFtz mode) x.1
  (w32 r.1, flOr x.2 r.2)

/-- Saturation to [+0, 1] of a code in a format, NaN and -0 becoming +0 (R364). -/
def saturate (f : Fmt) (c : Nat) : Nat :=
  let one := f.bias * 2 ^ f.fbits
  if bit c (f.ebits + f.fbits) || isNan (decodeFp f c) then 0 else min c one

/-- The optional negation of an operand (R104). -/
def negIf (b : Bool) (x : Num) : Num := if b then numNeg x else x

/-- The code of an operand after the input flush (R372). -/
def flushCode (f : Fmt) (ftz : Bool) (c : Nat) : Nat :=
  if ftz && isSubnormal f c then withSign f (bit c (f.ebits + f.fbits)) 0 else c

/-- Whether `x` is less than `y` with -0 below +0, neither being NaN. -/
def codeLess (f : Fmt) (x y : Nat) : Bool :=
  match numCmp (decodeFp f x) (decodeFp f y) with
  | .lt => true
  | .gt => false
  | .eq => bit x (f.ebits + f.fbits) && !bit y (f.ebits + f.fbits) && y % 2 ^ (f.ebits + f.fbits) = 0

/-- R372: the lesser or greater of two codes. -/
def minMax (f : Fmt) (ftz nan greater : Bool) (a b : Nat) : Nat × Flags :=
  let x := flushCode f ftz a
  let y := flushCode f ftz b
  let nx := decodeFp f x
  let ny := decodeFp f y
  let fl := snanFlag [nx, ny]
  if isNan nx && isNan ny then (fmtNan f, fl)
  else if nan && (isNan nx || isNan ny) then (fmtNan f, fl)
  else if isNan nx then (y, fl)
  else if isNan ny then (x, fl)
  else if greater then (if codeLess f x y then y else x, fl)
  else (if codeLess f y x then y else x, fl)

/-- An exact sum of any number of values, which does not depend on their order (R369, R425): NaN for a NaN or for infinities of
opposite sign. -/
def sumTerms (rm : RMode) (xs : List Num) : Num × Flags :=
  let p := xs.any (· = .inf false)
  let n := xs.any (· = .inf true)
  let fl := flOr (snanFlag xs) (if p && n then flInv else 0)
  if xs.any isNan || (p && n) then (.nan false, fl)
  else match xs with
    | [] => (.fin false 0 1, fl)
    | x :: rest => (rest.foldl (fun a y => (numAdd rm a y).1) x, fl)

/-- FADD's result (R364) on two FP32 words. -/
def addWords (rm : RMode) (mode : Word) (sat negA negB : Bool) (a b : Word) : Word × Flags :=
  let r := put32 rm mode (numAdd rm (negIf negA (rd32 mode a)) (negIf negB (rd32 mode b)))
  (if sat then w32 (saturate fp32 r.1.toNat) else r.1, r.2)

/-- FMUL's result (R373). -/
def mulWords (rm : RMode) (mode : Word) (sat negA negB : Bool) (a b : Word) : Word × Flags :=
  let r := put32 rm mode (numMul (negIf negA (rd32 mode a)) (negIf negB (rd32 mode b)))
  (if sat then w32 (saturate fp32 r.1.toNat) else r.1, r.2)

/-- FFMA's result (R371). -/
def fmaWords (rm : RMode) (mode : Word) (a b c : Word) : Word × Flags :=
  put32 rm mode (numFma rm (rd32 mode a) (rd32 mode b) (rd32 mode c))

/-- FMIN's and FMAX's result (R372). -/
def minMaxWords (mode : Word) (nan greater : Bool) (a b : Word) : Word × Flags :=
  let r := minMax fp32 (modeFtz mode) nan greater a.toNat b.toNat
  (w32 r.1, r.2)

/-- Table 17-4. -/
def compareFp (c : FCond) (x y : Num) : Bool × Flags :=
  let un := isNan x || isNan y
  let quiet := snanFlag [x, y]
  let loud := if un then flInv else 0
  let o := numCmp x y
  match c with
  | .eq => (!un && o == .eq, quiet)
  | .ne => (un || o != .eq, quiet)
  | .lt => (!un && o == .lt, loud)
  | .le => (!un && o != .gt, loud)
  | .gt => (!un && o == .gt, loud)
  | .ge => (!un && o != .lt, loud)
  | .ord => (!un, quiet)
  | .unord => (un, quiet)

/-- Table 17-3. -/
def classify (a : Word) : Word :=
  let neg := bit a.toNat 31
  match decodeFp fp32 a.toNat with
  | .nan s => if s then 0x100 else 0x200
  | .inf _ => if neg then 1 else 0x80
  | .fin _ n _ =>
    if n = 0 then (if neg then 8 else 0x10)
    else if isSubnormal fp32 a.toNat then (if neg then 4 else 0x20)
    else (if neg then 2 else 0x40)

/-- R374: a value rounded to an integral FP32 value. -/
def roundIntegral (rm : RMode) (x : Num) : Word × Flags :=
  match x with
  | .nan s => (w32 (fmtNan fp32), if s then flInv else 0)
  | .inf n => (w32 (withSign fp32 n (fmtInf fp32)), 0)
  | .fin n a b => (w32 (roundFp fp32 .rne false (.fin n (roundInt rm n a b).1.natAbs 1)).1, 0)

/-- A register's element `k` of `w` bits, and the register with that element replaced (R90). -/
def elemAt (x : Word) (w k : Nat) : Nat := x.toNat / 2 ^ (w * k) % 2 ^ w
def elemPut (x : Word) (w k v : Nat) : Word := w32 (x.toNat - elemAt x w k * 2 ^ (w * k) + v % 2 ^ w * 2 ^ (w * k))

/-- The width of the packed side of a conversion, and whether it is the destination. -/
def cvtPacked : Cvt → Nat × Bool
  | .f32f16 | .f32bf16 => (16, true)
  | .f16f32 | .bf16f32 => (16, false)
  | .f32e4m3 | .f32e5m2 => (8, true)
  | .e4m3f32 | .e5m2f32 => (8, false)
  | .f32e2m1 | .f32i4 | .f32p4 | .f32h4 => (4, true)
  | .e2m1f32 | .i4f32 | .p4f32 | .h4f32 => (4, false)
  | .f32int | .intf32 | .f32uint | .uintf32 => (32, false)

/-- Table 5-4: the conversion of one code, `x` being an element or a whole word. -/
def convert (c : Cvt) (rm : RMode) (mode : Word) (x : Nat) : Nat × Flags :=
  let ftz := modeFtz mode
  let n := readFp fp32 ftz x
  let widen (f : Fmt) (z : Bool) := roundFp fp32 .rne false (readFp f z x)
  match c with
  | .f32f16 => roundFp fp16 rm ftz n
  | .f16f32 => widen fp16 ftz
  | .f32bf16 => roundFp bf16 rm ftz n
  | .bf16f32 => widen bf16 ftz
  | .f32e4m3 => roundFp8 e4m3 rm (modeSat mode) n
  | .e4m3f32 => widen e4m3 false
  | .f32e5m2 => roundFp8 e5m2 rm (modeSat mode) n
  | .e5m2f32 => widen e5m2 false
  | .f32int => let r := toIntClamped rm (-2147483648) 2147483647 n; ((wInt r.1).toNat, r.2)
  | .intf32 => roundFp fp32 rm ftz (numInt (sint (w32 x)))
  | .f32uint => let r := toIntClamped rm 0 4294967295 n; ((wInt r.1).toNat, r.2)
  | .uintf32 => roundFp fp32 rm ftz (numInt x)
  | .f32e2m1 => toNib .e2m1 rm n
  | .e2m1f32 => roundFp fp32 .rne false (nibValue .e2m1 x)
  | .i4f32 => roundFp fp32 .rne false (nibValue .i4 x)
  | .p4f32 => roundFp fp32 .rne false (nibValue .p4 x)
  | .h4f32 => roundFp fp32 .rne false (nibValue .h4 x)
  | .f32i4 => toNib .i4 rm n
  | .f32p4 => toNib .p4 rm n
  | .f32h4 => toNib .h4 rm n

/-- FCVT on the words of a and of d (R368). -/
def convertWord (c : Cvt) (k : Nat) (rm : RMode) (mode a d : Word) : Word × Flags :=
  let (w, into) := cvtPacked c
  if into then let r := convert c rm mode a.toNat; (elemPut d w k r.1, r.2)
  else let r := convert c rm mode (elemAt a w k); (w32 r.1, r.2)

/-- An immediate of the 16-bit format as FP32 (R80). -/
def immFloat (s : Reg5) : Word := w32 (roundFp fp32 .rne false (numInt s.toNat)).1

/-! ### Shapes -/

/-- A wave-only instruction with a floating-point result: `f` gives the result from MODE and the source words. -/
def execFp (i : Instr) (form : Form) (d : Nat) (f : Word → List Word → Word × Flags) (s : State) : Host.Outcome State Fault Refusal :=
  runEntry s i (pureEntry form (fun l vs => fpResult (laneMode s l) d (f (laneMode s l) vs)))

/-- A special function (R367): posted, unless an enable bit of MODE is set. -/
def execSpecial (i : Instr) (ea : Bool) (d a : Reg) (f : Word → Word → Word × Flags) (s : State) : Host.Outcome State Fault Refusal :=
  let res (l : LaneId) (vs : List Word) := f (laneMode s l) (val vs 0)
  let posted (l : LaneId) : Bool := (laneMode s l).toNat / 16 % 32 = 0
  runEntry s i
    { pureEntry (regForm1 false ea d a)
        (fun l vs => if posted l then .done [] 0 none else fpResult (laneMode s l) d.toNat (res l vs)) with
      eff := fun l vs t =>
        if posted l then
          match l with
          | .wave g _ => post t (.special g (res l vs).2) [(l, d.toNat, (res l vs).1, false)]
          | _ => t
        else t }

/-- A 16-bit floating-point instruction. -/
def execHalfFp (i : Instr) (k : Bool) (d s : Reg5) (f : Word → Word → Word → Word × Flags) (st : State) :
    Host.Outcome State Fault Refusal :=
  execFp i (halfForm false k d s) d.toNat (fun m vs => f m (val vs 0) (if k then immFloat s else val vs 1)) st

/-! ### Meanings -/

/-- FADD (R364). -/
def execFadd (sat negB negA : Bool) (rnd : Rnd) (ea eb : Bool) (d a b : Reg) (s : State) : Host.Outcome State Fault Refusal :=
  execFp (.fadd sat negB negA rnd ea eb d a b) (regForm false ea eb d a b) d.toNat
    (fun m vs => addWords (resolveRm rnd m) m sat negA negB (val vs 0) (val vs 1)) s

/-- FMUL (R373). -/
def execFmul (sat negB negA : Bool) (rnd : Rnd) (ea eb : Bool) (d a b : Reg) (s : State) : Host.Outcome State Fault Refusal :=
  execFp (.fmul sat negB negA rnd ea eb d a b) (regForm false ea eb d a b) d.toNat
    (fun m vs => mulWords (resolveRm rnd m) m sat negA negB (val vs 0) (val vs 1)) s

/-- FMIN (R372). -/
def execFmin (nan ea eb : Bool) (d a b : Reg) (s : State) : Host.Outcome State Fault Refusal :=
  execFp (.fmin nan ea eb d a b) (regForm false ea eb d a b) d.toNat
    (fun m vs => minMaxWords m nan false (val vs 0) (val vs 1)) s

/-- FMAX (R372). -/
def execFmax (nan ea eb : Bool) (d a b : Reg) (s : State) : Host.Outcome State Fault Refusal :=
  execFp (.fmax nan ea eb d a b) (regForm false ea eb d a b) d.toNat
    (fun m vs => minMaxWords m nan true (val vs 0) (val vs 1)) s

/-- FFMA (R371). -/
def execFfma (rnd : Rnd) (d a b : Reg) (c : Reg5) (s : State) : Host.Outcome State Fault Refusal :=
  execFp (.ffma rnd d a b c) (regForm4 false d a b c) d.toNat
    (fun m vs => fmaWords (resolveRm rnd m) m (val vs 0) (val vs 1) (val vs 2)) s

/-- FCMP (R366). -/
def execFcmp (cond : FCond) (ea eb : Bool) (d a b : Reg) (s : State) : Host.Outcome State Fault Refusal :=
  execFp (.fcmp cond ea eb d a b) (regForm false ea eb d a b) d.toNat
    (fun m vs => let r := compareFp cond (rd32 m (val vs 0)) (rd32 m (val vs 1)); (predicate r.1, r.2)) s

/-- FRCP (R133, R367). -/
def execFrcp (ea : Bool) (d a : Reg) (s : State) : Host.Outcome State Fault Refusal :=
  execSpecial (.frcp ea d a) ea d a (fun m x => sfuRcp (modeFtz m) x) s

/-- FRSQ (R133, R367). -/
def execFrsq (ea : Bool) (d a : Reg) (s : State) : Host.Outcome State Fault Refusal :=
  execSpecial (.frsq ea d a) ea d a (fun m x => sfuRsq (modeFtz m) x) s

/-- FSQRT (R133, R367). -/
def execFsqrt (ea : Bool) (d a : Reg) (s : State) : Host.Outcome State Fault Refusal :=
  execSpecial (.fsqrt ea d a) ea d a (fun m x => sfuSqrt (modeRm m) (modeFtz m) x) s

/-- FEXP2 (R133, R367). -/
def execFexp2 (ea : Bool) (d a : Reg) (s : State) : Host.Outcome State Fault Refusal :=
  execSpecial (.fexp2 ea d a) ea d a (fun m x => sfuExp2 (modeFtz m) x) s

/-- FLOG2 (R133, R367). -/
def execFlog2 (ea : Bool) (d a : Reg) (s : State) : Host.Outcome State Fault Refusal :=
  execSpecial (.flog2 ea d a) ea d a (fun m x => sfuLog2 (modeFtz m) x) s

/-- FSIN (R133, R367). -/
def execFsin (ea : Bool) (d a : Reg) (s : State) : Host.Outcome State Fault Refusal :=
  execSpecial (.fsin ea d a) ea d a (fun m x => sfuTrig false (modeFtz m) x) s

/-- FCOS (R133, R367). -/
def execFcos (ea : Bool) (d a : Reg) (s : State) : Host.Outcome State Fault Refusal :=
  execSpecial (.fcos ea d a) ea d a (fun m x => sfuTrig true (modeFtz m) x) s

/-- FCLASS (R365). -/
def execFclass (ea : Bool) (d a : Reg) (s : State) : Host.Outcome State Fault Refusal :=
  execFp (.fclass ea d a) (regForm1 false ea d a) d.toNat (fun _ vs => (classify (val vs 0), 0)) s

/-- FABS (R363). -/
def execFabs (ea : Bool) (d a : Reg) (s : State) : Host.Outcome State Fault Refusal :=
  execFp (.fabs ea d a) (regForm1 false ea d a) d.toNat (fun _ vs => (val vs 0 &&& 0x7FFFFFFF, 0)) s

/-- FNEG (R363). -/
def execFneg (ea : Bool) (d a : Reg) (s : State) : Host.Outcome State Fault Refusal :=
  execFp (.fneg ea d a) (regForm1 false ea d a) d.toNat (fun _ vs => (val vs 0 ^^^ 0x80000000, 0)) s

/-- FRND (R374). -/
def execFrnd (rnd : Rnd) (ea : Bool) (d a : Reg) (s : State) : Host.Outcome State Fault Refusal :=
  execFp (.frnd rnd ea d a) (regForm1 false ea d a) d.toNat
    (fun m vs => roundIntegral (resolveRm rnd m) (rd32 m (val vs 0))) s

/-- FCVT's form: d is a source too when it is the packed side (R90). -/
def cvtForm (c : Cvt) (ea : Bool) (d a : Reg) : Form :=
  { regForm1 false ea d a with srcs := if (cvtPacked c).2 then [src 0 a ea, src 3 d false] else [src 0 a ea] }

/-- FCVT (R123, R368). -/
def execFcvt (code : Cvt) (el : BitVec 3) (rnd : Rnd) (ea : Bool) (d a : Reg) (s : State) : Host.Outcome State Fault Refusal :=
  execFp (.fcvt code el rnd ea d a) (cvtForm code ea d a) d.toNat
    (fun m vs => convertWord code el.toNat (resolveRm rnd m) m (val vs 0) (val vs 1)) s

/-- FADD, 16-bit (R80, R364). -/
def execFadd16 (k : Bool) (d s : Reg5) (st : State) : Host.Outcome State Fault Refusal :=
  execHalfFp (.fadd16 k d s) k d s (fun m x y => addWords (modeRm m) m false false false x y) st

/-- FSUB, 16-bit (R80, R364). -/
def execFsub16 (k : Bool) (d s : Reg5) (st : State) : Host.Outcome State Fault Refusal :=
  execHalfFp (.fsub16 k d s) k d s (fun m x y => addWords (modeRm m) m false false true x y) st

/-- FMUL, 16-bit (R80, R373). -/
def execFmul16 (k : Bool) (d s : Reg5) (st : State) : Host.Outcome State Fault Refusal :=
  execHalfFp (.fmul16 k d s) k d s (fun m x y => mulWords (modeRm m) m false false false x y) st

/-- FMAX, 16-bit (R80, R372). -/
def execFmax16 (k : Bool) (d s : Reg5) (st : State) : Host.Outcome State Fault Refusal :=
  execHalfFp (.fmax16 k d s) k d s (fun m x y => minMaxWords m false true x y) st

end Sys2Proof.Machine
end

