-- ==== Sys2Proof/Machine/PackedOps.lean ====
section
/-! DEFINITION. Packed floating point, dot products and Sobol points (R349, R369, R375, R376, R409, R410). -/

namespace Sys2Proof.Machine

/-- Two elements of a format computed separately, with the flags of both (R349, R375). -/
def packed2 (f : Nat → Nat × Flags) : Word × Flags :=
  let x := f 0
  let y := f 1
  (w32 (x.1 + 65536 * y.1), flOr x.2 y.2)

/-- Element `k` of a packed register as a value under MODE[3]. -/
def rdElem (f : Fmt) (mode x : Word) (k : Nat) : Num := readFp f (modeFtz mode) (elemAt x (fmtWidth f) k)

/-- A rounded element, with flags raised before it. -/
def putElem (f : Fmt) (rm : RMode) (mode : Word) (x : Num × Flags) : Nat × Flags :=
  let r := roundFp f rm (modeFtz mode) x.1
  (r.1, flOr x.2 r.2)

/-- HPADD and HPMUL on whole registers (R375). -/
def packedArith (op : Num → Num → Num × Flags) (sat : Bool) (rm : RMode) (mode a b : Word) : Word × Flags :=
  packed2 (fun k =>
    let r := putElem fp16 rm mode (op (rdElem fp16 mode a k) (rdElem fp16 mode b k))
    (if sat then saturate fp16 r.1 else r.1, r.2))

/-- HPMIN and HPMAX on whole registers (R375). -/
def packedMinMax (greater : Bool) (mode a b : Word) : Word × Flags :=
  packed2 (fun k => minMax fp16 (modeFtz mode) false greater (elemAt a 16 k) (elemAt b 16 k))

/-- HPFMA and BPFMA on whole registers (R349, R376). -/
def packedFma (f : Fmt) (rm : RMode) (mode a b c : Word) : Word × Flags :=
  packed2 (fun k => putElem f rm mode (numFma rm (rdElem f mode a k) (rdElem f mode b k) (rdElem f mode c k)))

/-- FDOT (R369): the exact sum of the addend and the products, rounded once. -/
def dotWords (kind : DotKind) (mode a b c : Word) : Word × Flags :=
  let f := match kind with | .h => fp16 | .bf => bf16 | .e4 => e4m3 | .e5 => e5m2
  let narrow := fmtWidth f = 8
  let rd (x : Word) (k : Nat) := if narrow then decodeFp f (elemAt x 8 k) else rdElem f mode x k
  let ps := (List.range (32 / fmtWidth f)).map (fun k => numMul (rd a k) (rd b k))
  let s := sumTerms (modeRm mode) (rd32 mode c :: ps.map (·.1))
  put32 (modeRm mode) mode (s.1, flOr s.2 ((ps.map (·.2)).foldl flOr 0))

/-- Direction number `V[j]` of a base dimension (R410), from the three before it. -/
def sobolNext (dim : Nat) (v1 v2 v3 : Word) : Word :=
  match dim with
  | 0 => v1 >>> 1
  | 1 => v1 ^^^ (v1 >>> 1)
  | 2 => v1 ^^^ v2 ^^^ (v2 >>> 2)
  | _ => v2 ^^^ v3 ^^^ (v3 >>> 3)

/-- The direction numbers of a base dimension. -/
def sobolDirs (dim : Nat) : List Word :=
  let start : List Word := match dim with
    | 0 => [0x80000000]
    | 1 => [0x80000000]
    | 2 => [0xC0000000, 0x80000000]
    | _ => [0x20000000, 0xC0000000, 0x80000000]
  let go (acc : List Word) (_ : Nat) : List Word := sobolNext dim (acc.getD 0 0) (acc.getD 1 0) (acc.getD 2 0) :: acc
  ((List.range (32 - start.length)).foldl go start).reverse

/-- The unscrambled point of an index. -/
def sobolPoint (dim : Nat) (index : Word) : Word :=
  ((sobolDirs dim).zipIdx).foldl (fun x v => if index.getLsbD v.2 then x ^^^ v.1 else x) 0

/-- The scramble of a key and a dimension. -/
def sobolScramble (key dim : Word) : Word :=
  let h := key ^^^ (dim * 0x9E3779B9)
  let h := (h ^^^ (h >>> 16)) * 0x7FEB352D
  let h := (h ^^^ (h >>> 15)) * 0x846CA68B
  h ^^^ (h >>> 16)

/-- SOBOL's result (R410). -/
def sobolWord (f32 : Bool) (key index dim : Word) : Word :=
  let r := sobolPoint (dim.toNat % 4) index ^^^ sobolScramble key dim
  if f32 then w32 (roundFp fp32 .rne false (.fin false (r.toNat / 256) (2 ^ 24))).1 else r

/-- HPADD (R375). -/
def execHpadd (sat : Bool) (rnd : Rnd) (ea eb : Bool) (d a b : Reg) (s : State) : Host.Outcome State Fault Refusal :=
  execFp (.hpadd sat rnd ea eb d a b) (regForm false ea eb d a b) d.toNat
    (fun m vs => packedArith (numAdd (resolveRm rnd m)) sat (resolveRm rnd m) m (val vs 0) (val vs 1)) s

/-- HPMUL (R375). -/
def execHpmul (sat : Bool) (rnd : Rnd) (ea eb : Bool) (d a b : Reg) (s : State) : Host.Outcome State Fault Refusal :=
  execFp (.hpmul sat rnd ea eb d a b) (regForm false ea eb d a b) d.toNat
    (fun m vs => packedArith numMul sat (resolveRm rnd m) m (val vs 0) (val vs 1)) s

/-- HPMIN (R375). -/
def execHpmin (ea eb : Bool) (d a b : Reg) (s : State) : Host.Outcome State Fault Refusal :=
  execFp (.hpmin ea eb d a b) (regForm false ea eb d a b) d.toNat (fun m vs => packedMinMax false m (val vs 0) (val vs 1)) s

/-- HPMAX (R375). -/
def execHpmax (ea eb : Bool) (d a b : Reg) (s : State) : Host.Outcome State Fault Refusal :=
  execFp (.hpmax ea eb d a b) (regForm false ea eb d a b) d.toNat (fun m vs => packedMinMax true m (val vs 0) (val vs 1)) s

/-- HPFMA (R376). -/
def execHpfma (rnd : Rnd) (d a b : Reg) (c : Reg5) (s : State) : Host.Outcome State Fault Refusal :=
  execFp (.hpfma rnd d a b c) (regForm4 false d a b c) d.toNat
    (fun m vs => packedFma fp16 (resolveRm rnd m) m (val vs 0) (val vs 1) (val vs 2)) s

/-- BPFMA (R349). -/
def execBpfma (rnd : Rnd) (d a b : Reg) (c : Reg5) (s : State) : Host.Outcome State Fault Refusal :=
  execFp (.bpfma rnd d a b c) (regForm4 false d a b c) d.toNat
    (fun m vs => packedFma bf16 (resolveRm rnd m) m (val vs 0) (val vs 1) (val vs 2)) s

/-- FDOT (R369). -/
def execFdot (kind : DotKind) (d a b : Reg) (c : Reg5) (s : State) : Host.Outcome State Fault Refusal :=
  execFp (.fdot kind d a b c) (regForm4 false d a b c) d.toNat
    (fun m vs => dotWords kind m (val vs 0) (val vs 1) (val vs 2)) s

/-- SOBOL (R409, R410). -/
def execSobol (f32 : Bool) (d a b : Reg) (c : Reg5) (s : State) : Host.Outcome State Fault Refusal :=
  execFp (.sobol f32 d a b c) (regForm4 false d a b c) d.toNat
    (fun _ vs => (sobolWord f32 (val vs 0) (val vs 1) (val vs 2), 0)) s

end Sys2Proof.Machine
end

