-- ==== Sys2Proof/Machine/CrossLane.lean ====
section
/-! DEFINITION. Cross-lane instructions (R34, R35, R423 to R425). -/

namespace Sys2Proof.Machine

/-- XMOV (R424). -/
def execXmov (mode : XMode) (k : BitVec 5) (d a : Reg) (s : State) : Host.Outcome State Fault Refusal :=
  runEntry s (.xmov mode k d a) (pureEntry { grip := false, srcs := [srcX mode k a], pairs := [], dst := some d, len := 4 }
    (fun _ vs => result d (val vs 0)))

/-- The form of XFADD and XIADD. -/
def crossForm (mode : XMode) (k : BitVec 5) (d a b : Reg) : Form :=
  { grip := false, srcs := [srcX mode k a, src 1 b false], pairs := [], dst := some d, len := 4 }

/-- XFADD (R424). -/
def execXfadd (mode : XMode) (k : BitVec 5) (d a b : Reg) (s : State) : Host.Outcome State Fault Refusal :=
  execFp (.xfadd mode k d a b) (crossForm mode k d a b) d.toNat
    (fun m vs => addWords (modeRm m) m false false false (val vs 0) (val vs 1)) s

/-- XIADD (R424). -/
def execXiadd (mode : XMode) (k : BitVec 5) (d a b : Reg) (s : State) : Host.Outcome State Fault Refusal :=
  runEntry s (.xiadd mode k d a b) (pureEntry (crossForm mode k d a b) (fun _ vs => result d (val vs 0 + val vs 1)))

/-- The lanes that take part in a collective with lane `l` (R35), with their values: active lanes of its group that do not trap on
reading a. -/
def partakers (s : State) (form : Form) (active : List LaneId) (l : LaneId) : List (Nat × Word) :=
  (active.filter (fun m => sameGroup l m && (commonAct s form active m).isNone)).map
    (fun m => (lidxOf m, val (laneVals s form active m) 0))

/-- The mask of lane numbers modulo 32 of the lanes whose value satisfies `f`. -/
def laneMask (f : Word → Bool) (ps : List (Nat × Word)) : Word :=
  ps.foldl (fun m p => if f p.2 then m ||| (1#32 <<< (p.1 % 32)) else m) 0

/-- Table 18-9. -/
def voteResult (kind : VoteKind) (ps : List (Nat × Word)) : Word :=
  match kind with
  | .bal => laneMask (· != 0) ps
  | .balh => laneMask (·.getLsbD 31) ps
  | .any => predicate (ps.any (fun p => p.2 != 0))
  | .all => predicate (ps.all (fun p => p.2 != 0))
  | .first => match leastOf ((ps.filter (fun p => p.2 != 0)).map (·.1)) with | some n => w32 n | none => 0xFFFFFFFF

/-- VOTE (R423). -/
def execVote (kind : VoteKind) (ea : Bool) (d a : Reg) (s : State) : Host.Outcome State Fault Refusal :=
  let form := regForm1 false ea d a
  runEntry s (.vote kind ea d a) (pureEntry form
    (fun l _ => result d (voteResult kind (partakers s form (activeLanes s s.focus) l))))

/-- A bitwise or integer operator over a list, from its first member. -/
def foldWords (f : Word → Word → Word) (xs : List Word) : Word :=
  match xs with | [] => 0 | x :: rest => rest.foldl f x

/-- fmin and fmax over a set (R425): a number beats NaN, and all NaN gives the canonical NaN. -/
def reduceMinMax (greater : Bool) (mode : Word) (xs : List Word) : Word × Flags :=
  let fl := snanFlag (xs.map (rd32 mode))
  match xs.filter (fun x => !isNan (rd32 mode x)) with
  | [] => (w32 (fmtNan fp32), fl)
  | x :: rest =>
    (rest.foldl (fun a y => (minMaxWords mode false greater a y).1) (w32 (flushCode fp32 (modeFtz mode) x.toNat)), fl)

/-- R425. -/
def reduceWords (op : RedOp) (mode : Word) (xs : List Word) : Word × Flags :=
  match op with
  | .iadd => (foldWords (· + ·) xs, 0)
  | .fadd => put32 (modeRm mode) mode (sumTerms (modeRm mode) (xs.map (rd32 mode)))
  | .imin => (foldWords minInt xs, 0)
  | .imax => (foldWords maxInt xs, 0)
  | .fmin => reduceMinMax false mode xs
  | .fmax => reduceMinMax true mode xs
  | .and => (foldWords (· &&& ·) xs, 0)
  | .or => (foldWords (· ||| ·) xs, 0)
  | .xor => (foldWords (· ^^^ ·) xs, 0)

/-- XRED (R425). -/
def execXred (op : RedOp) (scan : Bool) (ea : Bool) (d a : Reg) (s : State) : Host.Outcome State Fault Refusal :=
  let form := regForm1 false ea d a
  runEntry s (.xred op scan ea d a) (pureEntry form (fun l _ =>
    let ps := partakers s form (activeLanes s s.focus) l
    let ps := if scan then ps.filter (fun p => p.1 ≤ lidxOf l) else ps
    fpResult (laneMode s l) d.toNat (reduceWords op (laneMode s l) (ps.map (·.2)))))

end Sys2Proof.Machine
end

