-- ==== Sys2Proof/Machine/Branch.lean ====
section
/-! DEFINITION. Branches, calls and returns (R25, R31 to R33, R350, R353, R354, R385, R401). -/

namespace Sys2Proof.Machine

/-- A branch target: the branch's address plus twice a signed halfword offset, modulo 2^56 (R78). -/
def branchTarget {n : Nat} (pc : Addr) (off : BitVec n) : Addr := pc + off.signExtend 56 + off.signExtend 56

/-- The form of BRA and BRZ. -/
def braForm (ea : Bool) (a : Reg) : Form := { plainForm true with srcs := [src 0 a ea] }

/-- BRA (R25, R350). -/
def execBra (ea : Bool) (a : Reg) (off : BitVec 18) (s : State) : Host.Outcome State Fault Refusal :=
  let t := branchTarget (focusPc s s.focus) off
  runEntry s (.bra ea a off)
    { pureEntry (braForm ea a) (fun _ vs => .done [] 0 (if val vs 0 ≠ 0 then some t else none)) with branch := true }

/-- BRZ (R25, R350). -/
def execBrz (ea : Bool) (a : Reg) (off : BitVec 18) (s : State) : Host.Outcome State Fault Refusal :=
  let t := branchTarget (focusPc s s.focus) off
  runEntry s (.brz ea a off)
    { pureEntry (braForm ea a) (fun _ vs => .done [] 0 (if val vs 0 = 0 then some t else none)) with branch := true }

/-- JMP (R385). -/
def execJmp (off : BitVec 25) (s : State) : Host.Outcome State Fault Refusal :=
  let t := branchTarget (focusPc s s.focus) off
  runEntry s (.jmp off) (pureEntry (plainForm true) (fun _ _ => .done [] 0 (some t)))

/-- CALL (R354): the return address in v54 and v55. -/
def execCall (off : BitVec 25) (s : State) : Host.Outcome State Fault Refusal :=
  let pc := focusPc s s.focus
  let r := (pc + 4).toNat
  runEntry s (.call off) (pureEntry (plainForm true)
    (fun _ _ => .done [(54, w32 r), (55, w32 (r / 2 ^ 32))] 0 (some (branchTarget pc off))))

/-- What RET does with a lane's pair (R401). -/
def retAct (x : Nat) : Act :=
  if 2 ^ 56 ≤ x then .fault 4 x 0 else if bit x 0 then .fault 6 x 0 else .done [] 0 (some (BitVec.ofNat 56 x))

/-- RET (R401). -/
def execRet (ea : Bool) (a : Reg) (s : State) : Host.Outcome State Fault Refusal :=
  runEntry s (.ret ea a)
    { pureEntry { plainForm true with srcs := srcPair 0 a ea, pairs := [a] } (fun _ vs => retAct (pairNat (val vs 0) (val vs 1))) with
      branch := true }

/-- A lane's read of global memory at group scope, without its effects on the L1. -/
def laneRead (s : State) (l : LaneId) (va n : Nat) : DevRead :=
  match failedTrans s l (translate s (laneCore s l) (lanePart s l) va .r) with
  | .ok pa g => .ok (laneView (ownStash s l pa) l g pa n true)
  | .fault c => .fault c
  | .wait e => .wait e
  | .noFrame => .fault 4
  | .hold => .wait 0

/-- What follows a lane's read. -/
def readThen (r : DevRead) (va : Nat) (f : Nat → Act) : Act :=
  match r with
  | .ok bs => f (leNat bs)
  | .fault c => .fault c va 0
  | .wait _ => .swap

/-- Whether fetched bytes are a REGANG. -/
def isRegang (bs : List Byte) : Bool :=
  match decode bs with | .ok (.regang _, _) => true | _ => false

/-- The checks of a group's table at address `t` (R353), made by the lane whose pair gives it, after that lane's earlier accesses; `f` goes on
with the table's first entry. TADDR of cause 0x0A is a lane's index, and 0 where it has none. -/
def brxTable (s : State) (l : LaneId) (i t : Nat) (f : Nat → Act) : Act :=
  if t % 8 ≠ 0 then .fault 6 t 0
  else if accessHeld s l then .wait
  else readThen (laneRead s l t 8) t (fun e0 =>
    let rc := e0 % 2 ^ 56
    match fetchBytes s (laneCore s l) (lanePart s l) (BitVec.ofNat 56 rc) with
    | .fault c => .fault c rc 0
    | .wait e => if (laneFailed s l).contains e then .fault 4 rc 0 else .swap
    | .ok bs => if bit rc 0 || !isRegang bs then .fault 0x0A i 0 else f e0)

/-- BRX for one lane with index `i` in a table that has passed its checks (R32, R353). -/
def brxAct (s : State) (l : LaneId) (i t : Nat) : Act :=
  brxTable s l i t (fun e0 =>
    if e0 / 2 ^ 56 ≤ i then .fault 0x0A i 0
    else readThen (laneRead s l (t + 8 * (i + 1)) 8) (t + 8 * (i + 1)) (fun e =>
      if 2 ^ 56 ≤ e || bit e 0 then .fault 0x0A i 0 else .done [] 0 (some (BitVec.ofNat 56 e))))

/-- The accesses that a lane's BRX reaches, in order. -/
def brxPath (s : State) (l : LaneId) (i t : Nat) : List (Nat × Acc) :=
  if t % 8 ≠ 0 then []
  else match laneRead s l t 8 with
    | .ok bs =>
      let rc := leNat bs % 2 ^ 56
      match fetchBytes s (laneCore s l) (lanePart s l) (BitVec.ofNat 56 rc) with
      | .ok ws => if isRegang ws && i < leNat bs / 2 ^ 56 then [(t, .r), (rc, .x), (rc + 2, .x), (t + 8 * (i + 1), .r)]
                  else [(t, .r), (rc, .x)]
      | _ => [(t, .r), (rc, .x), (rc + 2, .x)]
    | _ => [(t, .r)]

/-- What a lane's BRX leaves behind in translation and in the L1. -/
def brxNote (l : LaneId) (i t : Nat) (s : State) : State :=
  (brxPath s l i t).foldl (fun s e =>
    let s' := noteLane s l e.1 e.2
    match e.2, translate s' (laneCore s l) (lanePart s l) e.1 .r with
    | .r, .ok pa g => laneFetch (ownStash s' l pa) l g true pa
    | _, _ => s') s

/-- BRX (R31 to R33, R353). -/
def execBrx (ea eb : Bool) (a b : Reg) (s : State) : Host.Outcome State Fault Refusal :=
  let idx (vs : List Word) := (val vs 0).toNat
  let tab (vs : List Word) := pairNat (val vs 1) (val vs 2)
  runEntry s (.brx ea eb a b)
    { form := { plainForm true with srcs := [src 0 a ea, srcN 1 b 0 eb true, srcN 1 b 1 eb true], pairs := [b] },
      legal := fun _ => true,
      plan := fun l vs => brxAct s l (idx vs) (tab vs),
      note := fun l vs t => brxNote l (idx vs) (tab vs) t,
      eff := fun l vs t => brxNote l (idx vs) (tab vs) t,
      branch := true,
      before := fun l vs => match brxTable s l (idx vs) (tab vs) (fun _ => .done [] 0 none) with | .done _ _ _ => none | a => some a }

end Sys2Proof.Machine
end

