-- ==== Sys2Proof/Machine/Sync.lean ====
section
/-! DEFINITION. REGANG, exits, barriers, waits, fences, traps and the return from one (R28 to R30, R36 to R39, R106, R175, R182, R259,
R271, R347, R352, R360, R361, R370, R397, R400, R402, R406, R421, R426). -/

namespace Sys2Proof.Machine

/-- An entry without operands and with no effect of its own. -/
def bareEntry (grip : Bool) : Entry := pureEntry (plainForm grip) (fun _ _ => .done [] 0 none)

/-- A slice executes REGANG: its lanes park, and the slice goes on (R29). -/
def regangSlice (span : Bool) (x : Slice) : Slice := settleSlice (setLevel x (parkLevel span (levelOf x)))

/-- REGANG (R28 to R30, R400); on the grip it retires with no effect (R97). -/
def execRegang (span : Bool) (s : State) : Host.Outcome State Fault Refusal :=
  runMove s (.regang span) (bareEntry true) (fun t g n => modSlice t g n (regangSlice span)) (stepSingle 4)

/-- The running lanes of a slice. -/
def runningOf (s : State) (g n : Nat) : LMask :=
  match (group? s g).bind (·.slices[n]?) with | some x => (levelOf x).running | none => 0

/-- EXIT of a one-lane context (R191, R361). -/
def exitSingle (s : State) (l : LaneId) : State :=
  match l with
  | .grip t => modTeam (drainLane s l) t (fun x => { x with grip := x.grip.map (fun k => { k with ended := true }) })
  | .mgmt n =>
    let s := drainLane s l
    { s with units := { s.units with mgmt := modifyNth s.units.mgmt n (fun k => { k with running := false }) } }
  | .wave _ _ => s

/-- EXIT (R360, R361). -/
def execExit (s : State) : Host.Outcome State Fault Refusal :=
  runMove s .exit (bareEntry true) (fun t g n => exitLanes t g n (runningOf t g n) false) exitSingle

/-- A slice's running set waits where it is. -/
def waitSlice (w : Wait) (s : State) (g n : Nat) : State := modSlice s g n (fun x => { x with wait := w })

/-- A slice arrives at a barrier: the accesses of its group that are still to be performed come before it (R39). -/
def arriveSlice (w : Wait) (s : State) (g n : Nat) : State := waitSlice w (drainGroup s g) g n

/-- BAR, illegal in a handler and on the grip (R36, R37, R259, R347). -/
def execBar (id : BitVec 2) (s : State) : Host.Outcome State Fault Refusal :=
  runMove s (.bar id) { bareEntry false with legal := fun l => !laneHandler s l } (arriveSlice (.bar id.toNat)) (stepSingle 4)

/-- BAR.team (R36, R37). -/
def execBarTeam (s : State) : Host.Outcome State Fault Refusal :=
  runMove s .barTeam { bareEntry false with legal := fun l => !laneHandler s l } (arriveSlice .teamBar) (stepSingle 4)

/-- MIGREQ of a core as a partition reads it: REQ, THERM and RSZ in bits 0 to 2 (Table 14-1, R274). -/
def migreq (s : State) (core part : Nat) : Word :=
  (if (coreOf s core).therm then 3 else 0) ||| (if (partOf s part).removing.contains core then 5 else 0)

/-- MIGREQ as a lane's team reads it. -/
def laneMigreq (s : State) (l : LaneId) : Word := migreq s (laneCore s l) (lanePart s l)

/-- The slices of an issue go on past the instruction. -/
def passSlice (len : Nat) (s : State) (g n : Nat) : State :=
  modSlice s g n (fun x => setLevel x { levelOf x with pc := (levelOf x).pc + BitVec.ofNat 56 len })

/-- YIELD (R271): it waits while MIGREQ reads set, and otherwise, in a handler and on the grip, has no effect. -/
def execYield (s : State) : Host.Outcome State Fault Refusal :=
  runMove s .yield (bareEntry true)
    (fun t g n =>
      let l := LaneId.wave g (4 * n)
      if laneHandler t l || laneMigreq t l = 0 then passSlice 4 t g n
      else waitSlice (.yield (coreOf t (laneCore t l)).clk) t g n)
    (stepSingle 4)

/-- SLEEP in a wave (R406): SLEEP #0 retires; in rehearsal mode the wave passes its next n turns (R252). -/
def sleepSlice (n : Nat) (s : State) (g k : Nat) : State :=
  if n = 0 then passSlice 4 s g k
  else
    let l := LaneId.wave g (4 * k)
    let s := waitSlice (.sleep (coreOf s (laneCore s l)).clk n) s g k
    if teamReh s (laneTeam s l) then
      match group? s g with
      | some x => modSlot s (laneSeat x (4 * k)) (fun y => { y with sleepTurns := n })
      | none => s
    else s

/-- SLEEP in a one-lane context: it issues nothing before its core's clock has advanced by n. -/
def sleepSingle (n : Nat) (s : State) (l : LaneId) : State :=
  let s := stepSingle 4 s l
  match l with
  | .grip t => modTeam s t (fun x => { x with grip := x.grip.map (fun k =>
      { k with sleepUntil := (coreOf s x.core).clk + n, sleepTurns := n }) })
  | .mgmt m => { s with units := { s.units with mgmt := modifyNth s.units.mgmt m (fun k =>
      { k with sleepUntil := k.clk + n }) } }
  | .wave _ _ => s

/-- SLEEP (R106, R406). -/
def execSleep (n : BitVec 16) (s : State) : Host.Outcome State Fault Refusal :=
  runMove s (.sleep n) (bareEntry true) (sleepSlice n.toNat) (sleepSingle n.toNat)

/-! ### FENCE and QFENCE -/

/-- A fence by a lane (R175, R370): the lane's accesses that are still to be performed take their order; at a wide scope the L1 and the stash
are written back, the L1 is invalidated, and the tagged lines that the lane has read are promoted; at team scope in a pair-spanning team the
L1 is written back and invalidated. -/
def fenceLane (scope : Scope) (sc : Bool) (l : LaneId) (s : State) : State :=
  let s := fenceAccesses s l sc
  let c := laneCore s l
  match l with
  | .mgmt _ => if wideScope scope then promoteReads s l else s
  | _ =>
    if wideScope scope then promoteReads (invalidateL1 (releaseWide s (laneTeam s l) c (laneSide s l)) c) l
    else match scope with
      | .team => markFenced (if lanePair s l then invalidateL1 s c else s) l
      | _ => s

/-- FENCE (R175, R370). -/
def execFence (scope : Scope) (sc : Bool) (s : State) : Host.Outcome State Fault Refusal :=
  let absent (l : LaneId) : Option Nat :=
    match l with
    | .mgmt _ => none
    | _ => if wideScope scope then stashAbsent s (laneTeam s l) (laneSide s l) (fun _ => true) else none
  runEntry s (.fence scope sc)
    { bareEntry true with
      plan := fun l _ => if (absent l).isSome then .swap else .done [] 0 none,
      note := fun l _ t => match absent l with | some va => noteLane t l va .w | none => t,
      eff := fun l _ t => fenceLane scope sc l t }

/-- Whether a mask of lanes holds a lane. -/
def inLanes (m : LMask) (i : Nat) : Bool := m.getLsbD i

/-- Whether an access of a lane is still to be performed, or its data still to return (R182, bit 7). -/
def accessPending (s : State) (l : LaneId) : Bool :=
  s.late.any (fun e => e.lane = l) ||
    s.posted.any (fun p => (match p.kind with | .data => true | .late => true | .slotw _ _ _ _ => true | _ => false) &&
      p.dests.any (fun d => d.1 = l))

/-- Whether a lane has work in the queue of one QFENCE bit (R182, R210). The storage and stash work of an issued instruction
is complete when it retires. -/
def joins (s : State) (l : LaneId) (b : Nat) : Bool :=
  let c := laneCore s l
  let tm := laneTeam s l
  match l with
  | .mgmt n =>
    match b with
    | 6 => (partOf s (lanePart s l)).enqs.any (fun e => e.mgmt = some n)
    | 7 => accessPending s l
    | _ => false
  | _ =>
    match b with
    | 0 => s.units.cores.any (fun e => e.2.copies.any (fun o => o.team = tm))
    | 1 => match l with
      | .wave g i => (coreOf s c).quads.any (fun q => q.mq.any (fun o => o.group = g && inLanes o.lanes i))
      | _ => false
    | 2 => match l with
      | .wave g i => (coreOf s c).tex.any (fun o => o.group = g && o.coords.any (fun x => x.1 = i))
      | _ => false
    | 4 => match l with
      | .wave g i => (accessesOf (coreOf s c).tbe).any (fun o => o.group = g && o.lanes.any (fun x => x.1 = i))
      | _ => false
    | 3 => match l with
      | .wave g i => s.units.clusters.any (fun e => e.2.rays.any (fun o => o.group = g && inLanes o.lanes i))
      | _ => false
    | 6 => match l with
      | .wave g i => (partOf s (lanePart s l)).enqs.any (fun e => match e.group with | some (h, m) => h = g && inLanes m i | none => false)
      | .grip t => (partOf s (lanePart s l)).enqs.any (fun e => e.grip = some t)
      | _ => false
    | 7 => accessPending s l
    | _ => false

/-- QFENCE (R182, R210, R397): it waits until every joined queue holds nothing of the agent's. -/
def execQfence (mask : BitVec 8) (s : State) : Host.Outcome State Fault Refusal :=
  runEntry s (.qfence mask)
    { bareEntry true with
      plan := fun l _ => if (List.range 8).any (fun b => mask.getLsbD b && joins s l b) then .wait else .done [] 0 none }

/-! ### Traps -/

/-- TRAP (R421): cause 0x0D in every active lane. -/
def execTrap (n : BitVec 9) (s : State) : Host.Outcome State Fault Refusal :=
  runEntry s (.trap n) { bareEntry true with plan := fun _ _ => .fault 0x0D n.toNat 0 }

/-- Whether a lane passes the BRK that it is at (R352). -/
def brkPassed (s : State) (l : LaneId) : Bool :=
  match l with
  | .wave g i => ((group? s g).bind (sliceOf · i)).any (fun x => x.skipBrk = some ((levelOf x).pc, x.frames.length))
  | .grip t => ((team? s t).bind (·.grip)).any (fun k => k.skipBrk = some k.pc)
  | .mgmt _ => false

/-- BRK (R352): cause 0x0E in every active lane, but for one execution after a debugger's RESUME. -/
def execBrk (n : BitVec 9) (s : State) : Host.Outcome State Fault Refusal :=
  runEntry s (.brk n) { bareEntry true with
    plan := fun l _ => if brkPassed s l then .done [] 0 none else .fault 0x0E n.toNat 0 }

/-- The condition of RETT for a slice (R259): it runs a handler whose frame's lanes all run, with none pending or parked. -/
def rettOk (x : Slice) : Bool :=
  match x.frames with
  | f :: _ => f.level.running = f.lanes && f.level.pending.isEmpty && f.level.parked.isEmpty
  | [] => false

/-- RETT for one slice. -/
def rettSlice (s : State) (g n : Nat) : State :=
  modSlice s g n (fun x =>
    match x.frames with
    | f :: rest =>
      let l := LaneId.wave g (4 * n)
      { returnFrame x f rest (instrLen s (laneCore s l) (lanePart s l) f.pc) with stepping := false }
    | [] => x)

/-- RETT (R259, R402); outside a handler, on the grip and on the management core it is illegal. -/
def execRett (s : State) : Host.Outcome State Fault Refusal :=
  runMove s .rett
    { bareEntry false with
      legal := fun l => match l with
        | .wave g i => ((group? s g).bind (sliceOf · i)).any rettOk
        | _ => false }
    rettSlice (fun t _ => t)

end Sys2Proof.Machine
end

