-- ==== Sys2Proof/Machine/MemoryOps.lean ====
section
/-! DEFINITION. Loads, stores, cache-line operations and the stash (R135 to R145, R386 to R388, R411 to R414, R355, R139). -/

namespace Sys2Proof.Machine

/-- Bytes of an access size (Table 4-9). -/
def sizeBytes : Size → Nat | .b32 => 4 | .b64 => 8 | .b128 => 16 | .z16 => 2

/-- Registers of an access size. -/
def sizeRegs : Size → Nat | .b32 => 1 | .b64 => 2 | .b128 => 4 | .z16 => 1

/-- The effective address of format M on a pair: pair + sext(off6) × scale, modulo 2^64 (R386). -/
def effAddr (lo hi : Word) (off : BitVec 6) (scale : Nat) : Nat :=
  (BitVec.ofNat 64 (pairNat lo hi) + off.signExtend 64 * BitVec.ofNat 64 scale).toNat

/-- The effective offset of format M on one register: modulo 2^32 (R135). -/
def effOffset (a : Word) (off : BitVec 6) (scale : Nat) : Nat := (a + off.signExtend 32 * w32 scale).toNat

/-- A lane's answer to a checked translation. -/
def transAct (t : Trans) (va : Nat) (ok : Act) : Act :=
  match t with
  | .ok _ _ => ok
  | .fault c => .fault c va 0
  | .noFrame => .fault 4 va 0
  | .wait _ => .swap
  | .hold => .wait

/-- A lane's translation. -/
def laneTrans (s : State) (l : LaneId) (va : Nat) (a : Acc) : Trans :=
  failedTrans s l (translate s (laneCore s l) (lanePart s l) va a)

/-- An access that passes its checks waits while a SLOTW of its lane, an acquire, still waits (R170, R183). -/
def afterRing (s : State) (l : LaneId) (ok : Act) : Act := if awaitsRing s l then .wait else ok

/-- The checks of a global access by a lane: range, alignment, translation (R386, R411, R345). -/
def globalAct (s : State) (l : LaneId) (va size : Nat) (a : Acc) (ok : Act) : Act :=
  if 2 ^ 56 ≤ va then .fault 4 va 0
  else if va % size ≠ 0 then .fault 6 va 0
  else transAct (laneTrans s l va a) va (afterRing s l ok)

/-- The page that the writeback of the issuing core's own dirty stash bytes of a line waits for, before a load of the line (R387). -/
def loadAbsent (s : State) (l : LaneId) (va : Nat) : Option (Nat × Nat) :=
  match l, laneTrans s l va .r with
  | .mgmt _, _ => none
  | _, .ok pa _ => ownAbsent s (laneCore s l) pa
  | _, _ => none

/-- What a lane leaves behind whose load waits for such a writeback. -/
def noteOwn (s : State) (l : LaneId) (tm va : Nat) : State :=
  let p := teamPart s tm
  let s := noteAccess s (laneCore s l) p va .w
  match walk s p va .w with
  | .page entry _ => addPage s l (readId s p entry)
  | .cow entry _ => addPage s l (readId s p entry)
  | _ => s

/-- What a lane leaves behind whose access waits: for its own page, or, when that is present, for the page that the writeback of a release
meets absent. -/
def noteWait (s : State) (l : LaneId) (va : Nat) (a : Acc) (absent : Option Nat) : State :=
  match laneTrans s l va a, absent with
  | .ok _ _, some v => noteLane s l v .w
  | _, _ => noteLane s l va a

/-! ### Global loads -/

/-- A lane's load, whose value is posted (R386, R387). -/
def loadLane (z : Size) (sc : Scope) (acq : Bool) (d : Reg) (l : LaneId) (va : Nat) (s : State) : State :=
  match laneTrans s l va .r with
  | .ok pa g => loadAccess (noteLane s l va .r) l sc acq g d.toNat pa (sizeBytes z)
  | _ => s

/-- The form of a load: address registers, destination. -/
def loadForm (srcs : List Src) (pairs : List Reg) (z : Size) (d : Reg) : Form :=
  { grip := true, srcs := srcs, pairs := (match z with | .b64 => pairs ++ [d] | _ => pairs),
    dst := (match z with | .b32 => some d | .z16 => some d | _ => none), len := 4 }

/-- LD (R386, R387). -/
def execLd (size : Size) (scope : Scope) (acq : Bool) (ea : Bool) (d a : Reg) (off : BitVec 6) (s : State) :
    Host.Outcome State Fault Refusal :=
  let n := sizeBytes size
  let addr (vs : List Word) := effAddr (val vs 0) (val vs 1) off n
  runEntry s (.ld size scope acq ea d a off)
    { form := loadForm (srcPair 0 a ea) [a] size d,
      legal := fun _ => true,
      plan := fun l vs => globalAct s l (addr vs) n .r (if (loadAbsent s l (addr vs)).isSome then .swap else .done [] 0 none),
      note := fun l vs t => match loadAbsent t l (addr vs) with | some r => noteOwn t l r.1 r.2 | none => noteLane t l (addr vs) .r,
      eff := fun l vs t => loadLane size scope acq d l (addr vs) t,
      branch := false }

/-! ### Global stores -/

/-- The bytes a store writes from its data registers (R411). -/
def storeBytes (z : Size) (ws : List Word) : List Byte := (bytesOf ws).take (sizeBytes z)

/-- A lane's store (R143, R144, R177, R412). -/
def storeLane (sc : Scope) (rel : Bool) (l : LaneId) (va : Nat) (bs : List Byte) (s : State) : State :=
  match laneTrans s l va .w with
  | .ok pa g => storeAccess (noteLane s l va .w) l sc rel g pa bs
  | _ => s

/-- The data registers of a store as sources. -/
def dataSrcs (z : Size) (d : Reg) : List Src :=
  match z with
  | .b32 => [src 3 d false]
  | .z16 => [src 3 d false]
  | _ => (List.range (sizeRegs z)).map (fun k => srcN 3 d k false false)

/-- A page that the stash writeback of a release meets absent. -/
def releaseAbsent (s : State) (l : LaneId) (sc : Scope) (rel : Bool) : Option Nat :=
  match l with
  | .mgmt _ => none
  | _ => if rel && wideScope sc then stashAbsent s (laneTeam s l) (laneSide s l) (fun _ => true) else none

/-- ST (R411, R412). -/
def execSt (size : Size) (scope : Scope) (rel : Bool) (ea : Bool) (d a : Reg) (off : BitVec 6) (s : State) :
    Host.Outcome State Fault Refusal :=
  let n := sizeBytes size
  let addr (vs : List Word) := effAddr (val vs 0) (val vs 1) off n
  let absent (l : LaneId) := releaseAbsent s l scope rel
  runEntry s (.st size scope rel ea d a off)
    { form := loadForm (srcPair 0 a ea ++ dataSrcs size d) [a] size d,
      legal := fun _ => true,
      plan := fun l vs => globalAct s l (addr vs) n .w (if (absent l).isSome then .swap else .done [] 0 none),
      note := fun l vs t => noteWait t l (addr vs) .w (absent l),
      eff := fun l vs t => storeLane scope rel l (addr vs) (storeBytes size (vs.drop 2)) t,
      branch := false }

/-! ### The scratchpad -/

/-- A lane's access to its team's scratchpad: the team, the side and the local offset; or a cause (R135). A management core has no
allocation. -/
def scratchTarget (s : State) (l : LaneId) (e n : Nat) : Except Nat (Nat × Team × Nat × Nat) :=
  match l with
  | .mgmt _ => .error (if e % 2 ^ 23 % n ≠ 0 then 6 else if bit e 23 then 0x14 else 7)
  | _ =>
    match team? s (laneTeam s l) with
    | none => .error 7
    | some t =>
      match scratchCheck t (laneSide s l) e n with
      | .ok r => .ok (laneTeam s l, t, r.1, r.2)
      | .error c => .error c

/-- The checks of a scratchpad access, the fill of a stash sector included (R135, R140). TADDR of a fill's cause is the global address of
the sector (log entry 88). -/
def scratchAct (s : State) (l : LaneId) (e n : Nat) (ok : Act) : Act :=
  match scratchTarget s l e n with
  | .error c => .fault c e 0
  | .ok r =>
    match stashNeed s r.1 r.2.1 r.2.2.1 r.2.2.2, windowAt r.2.1 r.2.2.1 r.2.2.2 with
    | some t, some w => transAct (failedTrans s l t) (w.1.gaddr + 128 * w.2) (afterRing s l ok)
    | _, _ => afterRing s l ok

/-- The fill of a stash sector that an access needs; a lane that meets an absent page waits for it. -/
def scratchFill (l : LaneId) (e n : Nat) (s : State) : State :=
  match scratchTarget s l e n with
  | .error _ => s
  | .ok r =>
    match stashNeed s r.1 r.2.1 r.2.2.1 r.2.2.2 with
    | some (.wait entry) =>
      if (laneFailed s l).contains entry then s
      else
        let s' := stashFillAt s r.1 r.2.2.1 r.2.2.2
        addPage s' l (readId s' (teamPart s r.1) entry)
    | _ => stashFillAt s r.1 r.2.2.1 r.2.2.2

/-- A lane's scratchpad load, whose value is posted (R388). -/
def loadScratch (z : Size) (sc : Bool) (acq : Bool) (d : Reg) (l : LaneId) (e : Nat) (s : State) : State :=
  let s := scratchFill l e (sizeBytes z) s
  match scratchTarget s l e (sizeBytes z) with
  | .error _ => s
  | .ok r => loadLocal s l sc acq r.1 r.2.2.1 r.2.2.2 d.toNat (sizeBytes z)

/-- A lane's scratchpad store (R414). -/
def storeScratch (team rel : Bool) (l : LaneId) (e : Nat) (bs : List Byte) (s : State) : State :=
  let s := scratchFill l e bs.length s
  match scratchTarget s l e bs.length with
  | .error _ => s
  | .ok r => storeLocal s l team rel r.1 r.2.2.1 r.2.2.2 bs

/-- LDL (R388). -/
def execLdl (size : Size) (team acq : Bool) (ea : Bool) (d a : Reg) (off : BitVec 6) (s : State) :
    Host.Outcome State Fault Refusal :=
  let n := sizeBytes size
  let addr (vs : List Word) := effOffset (val vs 0) off n
  runEntry s (.ldl size team acq ea d a off)
    { form := loadForm [src 0 a ea] [] size d,
      legal := fun _ => true,
      plan := fun l vs => scratchAct s l (addr vs) n (.done [] 0 none),
      note := fun l vs t => scratchFill l (addr vs) n t,
      eff := fun l vs t => loadScratch size team acq d l (addr vs) t,
      branch := false }

/-- STL (R414). -/
def execStl (size : Size) (team rel : Bool) (ea : Bool) (d a : Reg) (off : BitVec 6) (s : State) :
    Host.Outcome State Fault Refusal :=
  let n := sizeBytes size
  let addr (vs : List Word) := effOffset (val vs 0) off n
  runEntry s (.stl size team rel ea d a off)
    { form := loadForm (src 0 a ea :: dataSrcs size d) [] size d,
      legal := fun _ => true,
      plan := fun l vs => scratchAct s l (addr vs) n (.done [] 0 none),
      note := fun l vs t => scratchFill l (addr vs) n t,
      eff := fun l vs t => storeScratch team rel l (addr vs) (storeBytes size (vs.drop 1)) t,
      branch := false }

/-! ### CLINE -/

/-- The form of CLINE. -/
def clineForm (ea : Bool) (a : Reg) : Form := { plainForm true with srcs := srcPair 0 a ea, pairs := [a] }

/-- CLINE.pf for a lane (R145, R355): the line is filled into the L2 when it may be read. -/
def prefetchLane (l : LaneId) (va : Nat) (s : State) : State :=
  if 2 ^ 56 ≤ va then s
  else match laneTrans s l va .r with
    | .ok pa g =>
      let s := noteLane s l va .r
      let base := pa / 256 * 256
      touchL2 (touchL2 s (lanePart s l) g false base) (lanePart s l) g false (base + 128)
    | _ => s

/-- The checks of CLINE.wb and CLINE.inv: a page that is not present completes with no effect, whether or not a read of it has failed. -/
def clineAct (s : State) (l : LaneId) (va : Nat) : Act :=
  if 2 ^ 56 ≤ va then .fault 4 va 0
  else match translate s (laneCore s l) (lanePart s l) va .any with
    | .fault c => .fault c va 0
    | _ => .done [] 0 none

/-- The line's dirty L1 bytes written back, and with `inv` the line invalidated (R145); accesses of the lane to the line come first. -/
def clineLane (inv : Bool) (l : LaneId) (va : Nat) (s : State) : State :=
  match laneTrans s l va .any, l with
  | .ok _ _, .mgmt _ => s
  | .ok pa _, _ =>
    let c := laneCore s l
    let s := noteLane (beforeAccess s (access s l .load none (pa / 256 * 256) 256 false .grp false false 0 0)) l va .any
    let s := ((coreOf s c).l1.filter (fun x => x.pa / 256 = pa / 256)).foldl (fun s x => cleanSector s c x) s
    if inv then modCore s c (fun k => { k with l1 := k.l1.filter (fun x => x.pa / 256 != pa / 256) }) else s
  | _, _ => s

/-- CLINE.pf (R145, R355). -/
def execClinePf (scope : Scope) (ea : Bool) (a : Reg) (off : BitVec 6) (s : State) : Host.Outcome State Fault Refusal :=
  let addr (vs : List Word) := effAddr (val vs 0) (val vs 1) off 4
  runEntry s (.clinePf scope ea a off)
    { pureEntry (clineForm ea a) (fun _ _ => .done [] 0 none) with eff := fun l vs t => prefetchLane l (addr vs) t }

/-- CLINE.wb (R145, R355). -/
def execClineWb (scope : Scope) (ea : Bool) (a : Reg) (off : BitVec 6) (s : State) : Host.Outcome State Fault Refusal :=
  let addr (vs : List Word) := effAddr (val vs 0) (val vs 1) off 4
  runEntry s (.clineWb scope ea a off)
    { pureEntry (clineForm ea a) (fun l vs => clineAct s l (addr vs)) with eff := fun l vs t => clineLane false l (addr vs) t }

/-- CLINE.inv (R145, R355). -/
def execClineInv (scope : Scope) (ea : Bool) (a : Reg) (off : BitVec 6) (s : State) : Host.Outcome State Fault Refusal :=
  let addr (vs : List Word) := effAddr (val vs 0) (val vs 1) off 4
  runEntry s (.clineInv scope ea a off)
    { pureEntry (clineForm ea a) (fun l vs => clineAct s l (addr vs)) with eff := fun l vs t => clineLane true l (addr vs) t }

/-! ### STASH (R138, R139) -/

/-- The lane of a group that acts for it (R457), among the issuing context's lanes. -/
def actsFor (s : State) (l : LaneId) : Bool := leadLane (activeLanes s s.focus) l = l

/-- A stash record as STASH.map reads it. -/
def stashRecord (t : Team) (side off : Nat) : Nat × Nat × Nat :=
  (scratchNum t side off 8, scratchNum t side (off + 8) 4, scratchNum t side (off + 12) 4)

/-- The checks of a STASH operation that reads or fills a stash sector at a local offset, if that sector is unfilled (R140). -/
def fillAct (s : State) (l : LaneId) (tm : Nat) (t : Team) (side off : Nat) (ok : Act) : Act :=
  match stashNeed s tm t side off, windowAt t side off with
  | some r, some w => transAct (failedTrans s l r) (w.1.gaddr + 128 * w.2) ok
  | _, _ => ok

/-- A stash sector filled for a lane; a lane that meets an absent page waits for it. -/
def fillNote (l : LaneId) (tm side off : Nat) (s : State) : State :=
  match (team? s tm).bind (fun t => stashNeed s tm t side off) with
  | some (.wait entry) =>
    if (laneFailed s l).contains entry then s
    else
      let s' := stashFillAt s tm side off
      addPage s' l (readId s' (teamPart s tm) entry)
  | _ => stashFillAt s tm side off

/-- The record of a STASH.map, its sector filled first. -/
def stashMapRecord (s : State) (tm side off : Nat) : Nat × Nat × Nat :=
  ((team? (stashFillAt s tm side off) tm).map (fun t => stashRecord t side off)).getD (0, 0, 0)

/-- The causes of a STASH.map whose record is at hand (R139); the windows are those that the group's action meets. TADDR of cause 0x07 is the
record's offset, a window number above 7 included (log entry 88). -/
def stashMapCause (s : State) (tm side off win : Nat) : Option (Nat × Nat) :=
  match team? s tm with
  | none => some (7, off)
  | some t =>
    let (ga, so, len) := stashMapRecord s tm side off
    let overlap := t.windows.any (fun w => w.side = side && w.num ≠ win && so < w.soff + w.len && w.soff < so + len)
    if 7 < win || so % 128 ≠ 0 || bit so 23 || len % 128 ≠ 0 || len < 128 || 786432 < len || t.scr < so + len || overlap then some (7, off)
    else if 2 ^ 56 ≤ ga || ga % 128 ≠ 0 then some (4, ga)
    else none

/-- Whether a record's offset may be read: it is aligned and in the allocation. -/
def stashPlace (s : State) (l : LaneId) (off : Nat) : Option Nat :=
  if off % 16 ≠ 0 then some 6
  else match team? s (laneTeam s l), l with
    | some t, .wave _ _ => if t.scr < off + 16 then some 7 else none
    | some t, .grip _ => if t.scr < off + 16 then some 7 else none
    | _, _ => some 7

/-- The checks of STASH.map (R139): `u` is the state that the group's action meets, after those of the earlier groups of the gang (R457). -/
def stashMapAct (s u : State) (l : LaneId) (off win : Nat) : Act :=
  let tm := laneTeam s l
  let side := laneSide s l
  match stashPlace s l off, team? u tm with
  | some c, _ => .fault c off 0
  | none, none => .fault 7 off 0
  | none, some t =>
    if accessHeld s l then .wait
    else fillAct u l tm t side off (
      match stashMapCause u tm side off win with
      | some (c, d) => .fault c d 0
      | none => match stashAbsent u tm side (fun w => w.num = win) with
        | some _ => .swap
        | none => .done [] 0 none)

/-- A window written back, its sectors left unfilled or clean (R142), after the accesses to its team's scratchpad that are still to be
performed. -/
def stashFlushWindow (s : State) (tm side num : Nat) (unfill : Bool) : State :=
  let s := performThose s (fun e => e.place = some (tm, side))
  match (team? s tm).bind (fun t => t.windows.find? (fun w => w.side = side && w.num = num)) with
  | some w => w.sectors.foldl (fun s x => stashClean s tm side num x.1 unfill) s
  | none => s

/-- The offsets of a window's unfilled sectors. -/
def unfilledSectors (w : Window) : List Nat :=
  ((List.range (w.len / 128)).filter (fun n => !sectorFilled w n)).map (fun n => w.soff + 128 * n)

/-- A window flushed: written back, and every sector filled and clean (Table 6-2). -/
def stashFlushFill (s : State) (tm side num : Nat) : State :=
  let s := stashFlushWindow s tm side num false
  match (team? s tm).bind (fun t => t.windows.find? (fun w => w.side = side && w.num = num)) with
  | some w => (unfilledSectors w).foldl (fun s off => stashFillAt s tm side off) s
  | none => s

/-- A window unbound after its writeback. -/
def stashDrop (s : State) (tm side num : Nat) : State :=
  modTeam (stashFlushWindow s tm side num true) tm (fun t =>
    { t with windows := t.windows.filter (fun w => !(w.side = side && w.num = num)) })

/-- STASH.map for a group. -/
def stashMapLane (l : LaneId) (off win : Nat) (s : State) : State :=
  let tm := laneTeam s l
  let side := laneSide s l
  let s := performThose (stashFillAt s tm side off) (fun e => e.place = some (tm, side))
  let s := stashDrop s tm side win
  match team? s tm with
  | none => s
  | some t =>
    let (ga, so, len) := stashRecord t side off
    modTeam s tm (fun t => { t with windows := t.windows ++
      [{ side := side, num := win, gaddr := ga, soff := so, len := len, sectors := [], pages := [] }] })

/-- STASH.map for a group that passes its checks. -/
def stashMapEffect (l : LaneId) (vs : List Word) (t : State) : State :=
  let off := (val vs 0).toNat
  let win := (val vs 1).toNat
  if (stashPlace t l off).isNone && (stashMapCause t (laneTeam t l) (laneSide t l) off win).isNone then stashMapLane l off win t else t

/-- The checks of STASH.unmap and, with `fill`, of STASH.flush, which fills the sectors that are unfilled. TADDR of cause 0x07 is the window
number (log entry 88). -/
def stashWinAct (s : State) (l : LaneId) (win : Nat) (fill : Bool) : Act :=
  if 7 < win then .fault 7 win 0
  else match l with
    | .mgmt _ => .done [] 0 none
    | _ =>
      if accessHeld s l then .wait
      else match stashAbsent s (laneTeam s l) (laneSide s l) (fun w => w.num = win) with
        | some _ => .swap
        | none =>
          match team? s (laneTeam s l) with
          | none => .done [] 0 none
          | some t =>
            match t.windows.find? (fun w => w.side = laneSide s l && w.num = win) with
            | none => .done [] 0 none
            | some w =>
              if fill then
                ((unfilledSectors w).findSome? (fun off =>
                  match fillAct s l (laneTeam s l) t (laneSide s l) off (.done [] 0 none) with
                  | .done _ _ _ => none
                  | a => some a)).getD (.done [] 0 none)
              else .done [] 0 none

/-- The page read that a writeback or, with `fill`, a fill of a window waits for. -/
def stashWinNote (l : LaneId) (win : Nat) (fill : Bool) (s : State) : State :=
  match stashAbsent s (laneTeam s l) (laneSide s l) (fun w => w.num = win) with
  | some va => noteLane s l va .w
  | none =>
    match (team? s (laneTeam s l)).bind (fun t => t.windows.find? (fun w => w.side = laneSide s l && w.num = win)) with
    | some w => if fill then (unfilledSectors w).foldl (fun s off => fillNote l (laneTeam s l) (laneSide s l) off s) s else s
    | none => s

/-- STASH.map (R139, R413): d is a source, and a queue in it is cause 0x11 (R95). -/
def execStashMap (ea : Bool) (d a : Reg) (s : State) : Host.Outcome State Fault Refusal :=
  let off (vs : List Word) := (val vs 0).toNat
  let win (vs : List Word) := (val vs 1).toNat
  let form : Form := { plainForm true with srcs := [srcOne 3 d false, srcOne 0 a ea], dst := some d }
  let active := activeLanes s s.focus
  runEntry s (.stashMap ea d a)
    { form := form,
      legal := fun _ => true,
      plan := fun l vs => stashMapAct s (groupBefore s form active stashMapEffect l) (leadLane active l) (off vs) (win vs),
      note := fun l vs t => if actsFor s l then stashWinNote l (win vs) false (fillNote l (laneTeam t l) (laneSide t l) (off vs) t) else t,
      eff := fun l vs t => if actsFor s l then stashMapLane l (off vs) (win vs) t else t,
      branch := false }

/-- STASH.unmap (R139, R413). -/
def execStashUnmap (ea : Bool) (a : Reg) (s : State) : Host.Outcome State Fault Refusal :=
  let win (vs : List Word) := (val vs 0).toNat
  runEntry s (.stashUnmap ea a)
    { form := { plainForm true with srcs := [srcOne 0 a ea] },
      legal := fun _ => true,
      plan := fun l vs => stashWinAct s l (win vs) false,
      note := fun l vs t => if actsFor s l then stashWinNote l (win vs) false t else t,
      eff := fun l vs t => if actsFor s l then stashDrop t (laneTeam t l) (laneSide t l) (win vs) else t,
      branch := false }

/-- STASH.flush (R139, R413). -/
def execStashFlush (ea : Bool) (a : Reg) (s : State) : Host.Outcome State Fault Refusal :=
  let win (vs : List Word) := (val vs 0).toNat
  runEntry s (.stashFlush ea a)
    { form := { plainForm true with srcs := [srcOne 0 a ea] },
      legal := fun _ => true,
      plan := fun l vs => stashWinAct s l (win vs) true,
      note := fun l vs t => if actsFor s l then stashWinNote l (win vs) true t else t,
      eff := fun l vs t => if actsFor s l then stashFlushFill t (laneTeam t l) (laneSide t l) (win vs) else t,
      branch := false }

end Sys2Proof.Machine
end

