-- ==== Sys2Proof/Machine/Atomics.lean ====
section
/-! DEFINITION. ATOM and ATOML (R136, R168, R344, R345). -/

namespace Sys2Proof.Machine

/-- The data registers of an atomic: one, or for cas a pair (Table 16-4). -/
def atomSrcs (op : AtomOp) (b : Reg) : List Src :=
  match op with | .cas => srcPair 1 b false | _ => [src 1 b false]

/-- The pairs among an atomic's fields. -/
def atomPairs (op : AtomOp) (b : Reg) : List Reg := match op with | .cas => [b] | _ => []

/-- One lane's global atomic (R143, R345). -/
def atomLane (op : AtomOp) (sc : Scope) (ar : Bool) (d : Reg) (l : LaneId) (va : Nat) (v c1 : Word) (s : State) : State :=
  match laneTrans s l va .rw with
  | .ok pa g => atomAccess (noteLane s l va .rw) l op sc ar g d.toNat pa v c1
  | _ => s

/-- ATOM (R345). -/
def execAtom (op : AtomOp) (scope : Scope) (ar : Bool) (d a b : Reg) (s : State) : Host.Outcome State Fault Refusal :=
  let addr (vs : List Word) := pairNat (val vs 0) (val vs 1)
  let absent (l : LaneId) := releaseAbsent s l scope ar
  runEntry s (.atom op scope ar d a b)
    { form := { grip := true, srcs := srcPair 0 a false ++ atomSrcs op b, pairs := a :: atomPairs op b, dst := some d, len := 4 },
      legal := fun _ => true,
      plan := fun l vs => globalAct s l (addr vs) 4 .rw (if (absent l).isSome then .swap else .done [] 0 none),
      note := fun l vs t => noteWait t l (addr vs) .rw (absent l),
      eff := fun l vs t => atomLane op scope ar d l (addr vs) (val vs 2) (val vs 3) t,
      branch := false }

/-- One lane's scratchpad atomic (R345). -/
def atomScratch (op : AtomOp) (team ar : Bool) (d : Reg) (l : LaneId) (e : Nat) (v c1 : Word) (s : State) : State :=
  let s := scratchFill l e 4 s
  match scratchTarget s l e 4 with
  | .error _ => s
  | .ok r => atomLocal s l op team ar r.1 r.2.2.1 r.2.2.2 d.toNat v c1

/-- ATOML (R345). -/
def execAtoml (op : AtomOp) (team ar : Bool) (d a b : Reg) (s : State) : Host.Outcome State Fault Refusal :=
  let off (vs : List Word) := (val vs 0).toNat
  runEntry s (.atoml op team ar d a b)
    { form := { grip := true, srcs := src 0 a false :: atomSrcs op b, pairs := atomPairs op b, dst := some d, len := 4 },
      legal := fun _ => true,
      plan := fun l vs => scratchAct s l (off vs) 4 (.done [] 0 none),
      note := fun l vs t => scratchFill l (off vs) 4 t,
      eff := fun l vs t => atomScratch op team ar d l (off vs) (val vs 1) (val vs 2) t,
      branch := false }

end Sys2Proof.Machine
end

