-- ==== Sys2Proof/Machine/Spans.lean ====
section
/-! DEFINITION. Accesses of engines to ranges of global memory and of a team's scratchpad, and slot rings (R140, R160, R196, R198). -/

namespace Sys2Proof.Machine

/-! ### Global ranges -/

/-- Why an engine cannot go on: a page to wait for, or a cause at an address. -/
inductive Block where
  | wait (va : Nat) (a : Acc)
  | fault (cause va : Nat)
  deriving DecidableEq, Repr

/-- Engines as page reads name them. -/
def engCopy (core : Nat) : Nat := 1000 + core
def engTex (core : Nat) : Nat := 2000 + core
def engMatrix (core quad : Nat) : Nat := 3000 + 4 * core + quad
def engRay (cluster : Nat) : Nat := 4000 + cluster
def engDisplay (stream : Nat) : Nat := 5000 + stream
def engTile (core : Nat) : Nat := 6000 + core
def engStream (group key : Nat) : Nat := 10000 + 16 * group + key

/-- Whether the read of an entry failed while an engine waited for it. -/
def engFailed (s : State) (p eng entry : Nat) : Bool := (partOf s p).failed.contains (entry, eng)

/-- An engine has reported its fault: its failed reads are forgotten. -/
def engDone (s : State) (p eng : Nat) : State := modPart s p (fun x => { x with failed := x.failed.filter (fun e => e.2 != eng) })

/-- What keeps an engine from one page. A page to be copied before a write is waited for, as one that is absent (R160, R162). -/
def pageBlock (s : State) (eng core p va : Nat) (a : Acc) : Option Block :=
  if translate s core p va a = .hold then some (.wait va a)
  else match tlbHit s core p va a with
  | some _ => none
  | none =>
    match walk s p va a with
    | .leaf _ => none
    | .fault c => some (.fault c va)
    | .hold => some (.wait va a)
    | .page entry e =>
      if engFailed s p eng entry || (!joinsRead s p entry e && poolEmpty s p) then some (.fault 4 va) else some (.wait va a)
    | .cow entry d =>
      if engFailed s p eng entry || (!joinsCow s p entry (readNum s entry 8) && readNum s (d + 8) 4 ≠ 1 && poolEmpty s p) then some (.fault 4 va)
      else some (.wait va a)

/-- What keeps an engine from a range, page by page. -/
def spanBlock (s : State) (eng core p va n : Nat) (a : Acc) : Option Block :=
  (pageChunks va n).findSome? (fun c => pageBlock s eng core p c.1 a)

/-- The bytes of a range whose pages translate. -/
def spanRead (s : State) (core p va n : Nat) (a : Acc) : List Byte :=
  (pageChunks va n).flatMap (fun c =>
    match translate s core p c.1 a with
    | .ok pa g => (sectorChunks pa c.2).flatMap (fun d => l2Read s p g d.1 d.2)
    | _ => List.replicate c.2 0)

/-- Whether a byte of a range is poisoned. -/
def spanBad (s : State) (core p va n : Nat) (a : Acc) : Bool :=
  (pageChunks va n).any (fun c => match translate s core p c.1 a with | .ok pa _ => memBad s pa c.2 | _ => false)

/-- What the reads of a range leave behind in translation and in the L2. -/
def spanNote (s : State) (core p va n : Nat) (a : Acc) : State :=
  (sectorChunks va n).foldl (fun s c =>
    match translate s core p c.1 a with
    | .ok pa g => touchL2 (noteAccess s core p c.1 a) p g false pa
    | _ => s) s

/-- An engine's access that cause 0x04 ends because the pool is empty leaves that behind: BUSY clear, and the event (R157, R158, R162). -/
def poolNote (s : State) (eng core p va : Nat) (a : Acc) : State :=
  if pageBlock s eng core p va a ≠ some (.fault 4 va) then s
  else match walk s p va a with
    | .page entry _ => if engFailed s p eng entry then s else noteAccess s core p va a
    | .cow entry _ => if engFailed s p eng entry then s else noteAccess s core p va a
    | _ => s

/-- The pages of a range taken one after another; or what keeps the engine from one, with the state in which it meets that. -/
def spanTake (eng core p : Nat) (a : Acc) : List (Nat × Nat) → State → Except (State × Block) State
  | [], s => .ok s
  | c :: cs, s =>
    match pageBlock s eng core p c.1 a with
    | some b => .error (poolNote s eng core p c.1 a, b)
    | none => spanTake eng core p a cs s

/-- The poison of stored bytes: the addresses of a range become poisoned. -/
def poisonMem (s : State) (pa n : Nat) : State :=
  { s with memPoison := (List.range n).foldl (fun acc i => insertNat (pa + i) acc) s.memPoison }

/-- Bytes written to a range at device scope, sector by sector; a copy in the engine's core's L1 takes them too (R174, R183). -/
def spanWrite (s : State) (core p va : Nat) (bs : List Byte) (bad : Bool) : State :=
  (sectorChunks va bs.length).foldl (fun s c =>
    match translate s core p c.1 .w with
    | .ok pa g =>
      let data := (bs.drop (c.1 - va)).take c.2
      let s := patchL1 (writeL2 (noteAccess s core p c.1 .w) p g pa data) core pa data false
      if bad then poisonMem s pa c.2 else s
    | _ => s) s

/-- Single bytes of a range poisoned, as a list of flags says (R57). -/
def spanMark (s : State) (core p va : Nat) (bad : List Bool) : State :=
  bad.zipIdx.foldl (fun s b =>
    if b.1 then (match translate s core p (va + b.2) .w with | .ok pa _ => poisonMem s pa 1 | _ => s) else s) s

/-- The poison flags of the bytes of a range. -/
def spanFlags (s : State) (core p va n : Nat) (a : Acc) : List Bool :=
  (pageChunks va n).flatMap (fun c =>
    match translate s core p c.1 a with
    | .ok pa _ => (List.range c.2).map (fun i => memBad s (pa + i) 1)
    | _ => List.replicate c.2 false)

/-- An engine that meets an absent page, or one to be copied, starts its service, or joins it (R158, R160, R162). -/
def spanWait (s : State) (eng core p va : Nat) (a : Acc) : State :=
  let join (entry : Nat) (s : State) : State := modPart s p (fun x => { x with reads := x.reads.map (fun r =>
    if r.entry = entry then { r with waiters := insertNat eng r.waiters } else r) })
  match walk s p va a with
  | .page entry _ => join entry (noteAccess s core p va a)
  | .cow entry _ => join entry (noteAccess s core p va a)
  | _ => noteAccess s core p va a

/-! ### Scratchpad ranges -/

/-- Whether an offset lies in a stash sector that is unfilled. -/
def unfilledAt (t : Team) (side off : Nat) : Bool :=
  match windowAt t side off with
  | some (w, k) => !sectorFilled w k
  | none => false

/-- The first unfilled stash sector of a range that cannot be filled at once (R140). -/
def scratchBlock (s : State) (eng tm : Nat) (t : Team) (side off n : Nat) : Option Block :=
  (sectorChunks off n).findSome? (fun c =>
    match windowAt t side c.1, stashNeed s tm t side c.1 with
    | some (w, k), some r =>
      match r with
      | .ok _ _ => none
      | .fault cause => some (.fault cause (w.gaddr + 128 * k))
      | .noFrame => some (.fault 4 (w.gaddr + 128 * k))
      | .hold => some (.wait (w.gaddr + 128 * k) .r)
      | .wait entry =>
        if engFailed s (teamPart s tm) eng entry then some (.fault 4 (w.gaddr + 128 * k)) else some (.wait (w.gaddr + 128 * k) .r)
    | _, _ => none)

/-- What keeps an engine from a scratchpad range, with the state in which it meets that. -/
def scratchHold (s : State) (eng tm side off n : Nat) : Option (State × Block) :=
  (team? s tm).bind (fun t => (scratchBlock s eng tm t side off n).map (fun b =>
    match b with
    | .fault 4 va => (poolNote s eng (t.core + side) (teamPart s tm) va .r, b)
    | _ => (s, b)))

/-- Bytes stored in a scratchpad range, poisoned or not. -/
def scratchWrite (s : State) (tm side off : Nat) (bs : List Byte) (bad : Bool) : State :=
  let s := scratchStore s tm side off bs
  if bad then modTeam s tm (fun t =>
    { t with bad := (List.range bs.length).foldl (fun acc i => insertNat (scratchKey side (off + i)) acc) t.bad }) else s

/-- Single bytes of a scratchpad range poisoned, as a list of flags says (R57). -/
def scratchMark (s : State) (tm side off : Nat) (bad : List Bool) : State :=
  modTeam s tm (fun t => { t with bad := bad.zipIdx.foldl (fun acc b => if b.1 then insertNat (scratchKey side (off + b.2)) acc else acc) t.bad })

/-- The poison flags of the bytes of a scratchpad range. -/
def scratchFlags (t : Team) (side off n : Nat) : List Bool := (List.range n).map (fun i => scratchBad t side (off + i) 1)

/-! ### Slot rings (R198) -/

/-- Word `k` of a ring header. -/
def ringWord (t : Team) (side off k : Nat) : Nat := scratchNum t side (off + 4 * k) 4

def ringWidx (t : Team) (side off : Nat) : Nat := ringWord t side off 0
def ringRidx (t : Team) (side off : Nat) : Nat := ringWord t side off 1
def ringCount (t : Team) (side off : Nat) : Nat := ringWord t side off 2
def ringSize (t : Team) (side off : Nat) : Nat := ringWord t side off 3
def ringBase (t : Team) (side off : Nat) : Nat := ringWord t side off 4
def ringEos (t : Team) (side off : Nat) : Bool := bit (ringWord t side off 5) 0
def ringErr (t : Team) (side off : Nat) : Bool := bit (ringWord t side off 5) 1

/-- Slots published and not released. -/
def ringUsed (t : Team) (side off : Nat) : Nat := (ringWidx t side off + 2 ^ 32 - ringRidx t side off) % 2 ^ 32

/-- Whether a header lies in the allocation. -/
def ringInside (t : Team) (off : Nat) : Bool := off + 64 ≤ t.scr

/-- Whether a header is valid (R198). -/
def ringValid (t : Team) (side off : Nat) : Bool :=
  ringInside t off && powTwo (ringCount t side off) 256 && ringSize t side off % 128 = 0 && 128 ≤ ringSize t side off &&
    ringBase t side off % 128 = 0 && ringWord t side off 5 < 4 && ringUsed t side off ≤ ringCount t side off &&
    ringBase t side off + ringCount t side off * ringSize t side off ≤ t.scr

/-- A word of a header written by the device. -/
def ringPut (s : State) (tm side off k v : Nat) : State := scratchStore s tm side (off + 4 * k) (leBytes 4 v)

/-- A word of a header changed: its stash sector is filled first (R140). -/
def ringChange (s : State) (tm side off k : Nat) (f : Nat → Nat) : State :=
  let s := scratchReady s tm side off 64
  match team? s tm with
  | some t => ringPut s tm side off k (f (ringWord t side off k))
  | none => s

/-- WIDX or RIDX advanced by one, and a flag set. -/
def ringAdvance (s : State) (tm side off k : Nat) : State := ringChange s tm side off k (fun v => (v + 1) % 2 ^ 32)
def ringFlag (s : State) (tm side off f : Nat) : State := ringChange s tm side off 5 (fun v => v ||| f)

end Sys2Proof.Machine
end

