-- ==== Sys2Proof/Machine/Grip.lean ====
section
/-! DEFINITION. Bulk copies, slot rings and operand streams (R188 to R211, R356, R398, R407, R408). -/

namespace Sys2Proof.Machine

/-! ### Copy commands (Table 8-2) -/

def cmdRing (c : List Word) : Nat := wordAt c 0 / 65536
def cmdHasRing (c : List Word) : Bool := cmdRing c ≠ 0xFFFF
def cmdHeader (c : List Word) : Nat := 64 * cmdRing c
def cmdDdup (c : List Word) : Bool := bit (wordAt c 0) 12
def cmdEos (c : List Word) : Bool := bit (wordAt c 0) 11
def cmdBlk (c : List Word) : Bool := bit (wordAt c 0) 10
def cmdSat (c : List Word) : Bool := bit (wordAt c 0) 9
def cmdRnd (c : List Word) : RMode := modeRm (w32 (bits (wordAt c 0) 8 7))
def cmdKind (c : List Word) : Fmt := if bit (wordAt c 0) 6 then e5m2 else e4m3
def cmdConv (c : List Word) : Nat := bits (wordAt c 0) 5 4
def cmdDir (c : List Word) : Nat := bits (wordAt c 0) 3 0
def cmdLen (c : List Word) : Nat := wordAt c 1
def cmdGaddr (c : List Word) : Nat := dwordAt c 2
def cmdSoff (c : List Word) : Nat := wordAt c 4
def cmdShift (c : List Word) : Int := sextNat (wordAt c 5) 8
def cmdRows (c : List Word) : Nat := wordAt c 6
def cmdGstr (c : List Word) : Nat := wordAt c 7

/-- OLEN of a command, if LEN keeps R193. -/
def cmdOlen (c : List Word) : Option Nat :=
  let n := cmdLen c
  if n = 0 then none
  else match cmdConv c, cmdBlk c with
    | 0, false => if n % 4 = 0 then some n else none
    | 1, false => if n % 8 = 0 then some (n / 2) else none
    | 1, true => if n % 4 = 0 then some (64 * ((n / 2 + 61) / 62)) else none
    | 2, false => if n % 4 = 0 then some (2 * n) else none
    | 2, true => if n % 64 = 0 then some (124 * (n / 64)) else none
    | _, _ => none

/-- Row lengths on the global and on the scratchpad side. -/
def cmdGrow (c : List Word) : Nat := if cmdDir c = 0 then cmdLen c else (cmdOlen c).getD 0
def cmdSrow (c : List Word) : Nat := if cmdDir c = 0 then (cmdOlen c).getD 0 else cmdLen c

/-- R203's limits on a deduplicating copy. -/
def cmdDdupOk (c : List Word) : Bool :=
  !cmdDdup c || (cmdDir c = 1 && cmdConv c = 0 && !cmdBlk c && cmdRows c = 1 && cmdLen c % 4096 = 0 && cmdGaddr c % 4096 = 0 &&
    cmdSoff c % 128 = 0)

/-- Whether a side of the copy holds blocks: the destination of BF16 to FP8, the source of FP8 to BF16. -/
def cmdBlockSide (c : List Word) (global : Bool) : Bool :=
  cmdBlk c && (if cmdConv c = 1 then (cmdDir c = 1) = global else (cmdDir c = 0) = global)

/-- Whether the scratchpad side is the ring's slot. -/
def cmdSlot (c : List Word) : Bool := cmdHasRing c && cmdDir c = 0

/-- R194: the cause of the first failing check of a command's own fields, for team `t` with its grip on side 0. TADDR of cause 0x06 is
GADDR, whichever field is misaligned (log entry 88). -/
def cmdFields (t : Team) (c : List Word) : Option (Nat × Nat) :=
  if bits (wordAt c 0) 15 13 ≠ 0 || 1 < cmdDir c || 2 < cmdConv c || wordAt c 3 / 2 ^ 24 ≠ 0 || wordAt c 5 / 256 ≠ 0 ||
      (cmdOlen c).isNone || cmdRows c = 0 || 65536 < cmdRows c || wordAt c 5 % 256 = 128 || !cmdDdupOk c then some (0x11, 0)
  else
    let gAlign := if cmdBlockSide c true then 64 else 4
    let sAlign := if cmdBlockSide c false then 64 else 4
    if cmdGaddr c % gAlign ≠ 0 || cmdGstr c % gAlign ≠ 0 || (!cmdSlot c && cmdSoff c % sAlign ≠ 0) then some (6, cmdGaddr c)
    else
      let extent := cmdRows c * cmdSrow c
      let e := cmdSoff c
      if !cmdSlot c && bit e 23 && !t.pair then some (0x14, e)
      else if !cmdSlot c && t.scr < (if bit e 23 then e - 2 ^ 23 else e) + extent then some (7, e)
      else none

/-- R194: the cause of a ring that a command cannot use. -/
def cmdRing? (t : Team) (c : List Word) : Option (Nat × Nat) :=
  if cmdHasRing c && (!ringValid t 0 (cmdHeader c) || ringErr t 0 (cmdHeader c) || ringEos t 0 (cmdHeader c) ||
      (cmdDir c = 0 && ringSize t 0 (cmdHeader c) < (cmdOlen c).getD 0 * cmdRows c)) then some (0x12, cmdHeader c)
  else none

/-- R194: the cause of the first failing check of a command. -/
def cmdCheck (t : Team) (c : List Word) : Option (Nat × Nat) :=
  match cmdFields t c with
  | some x => some x
  | none => cmdRing? t c

/-- Copies of a team in the queues of cores other than `core` (R211). -/
def strayCopies (s : State) (tm core : Nat) : Bool :=
  s.units.cores.any (fun e => e.1 ≠ core && e.2.copies.any (fun o => o.team = tm))

/-- Whether a lane is a grip context. -/
def onGrip : LaneId → Bool | .grip _ => true | _ => false

/-- CPY's decision for a grip context (R194): the ring's header is read last, after its stash sector has been filled (R140). -/
def cpyAct (s : State) (l : LaneId) (a : Reg) (cmd : List Word) : Act :=
  let tm := laneTeam s l
  match team? s tm with
  | none => .done [] 0 none
  | some t =>
    match cmdFields t cmd with
    | some (c, d) => .fault c (if c = 0x11 then a.toNat else d) 0
    | none =>
      let rest (t : Team) : Act := match cmdRing? t cmd with
        | some (c, d) => .fault c d 0
        | none => if 64 ≤ (coreOf s t.core).copies.length || strayCopies s tm t.core then .wait else .done [] 0 none
      if !cmdHasRing cmd then rest t
      else fillAct s l tm t 0 (cmdHeader cmd) (rest ((team? (stashFillAt s tm 0 (cmdHeader cmd)) tm).getD t))

/-- The stash sector of a command's ring header filled. -/
def cpyFill (s : State) (l : LaneId) (cmd : List Word) : State :=
  if cmdHasRing cmd then fillNote l (laneTeam s l) 0 (cmdHeader cmd) s else s

/-- CPY (R192 to R194, R356): the copy enters the core's queue. -/
def execCpy (ea : Bool) (a : Reg) (s : State) : Host.Outcome State Fault Refusal :=
  runEntry s (.cpy ea a)
    { form := { plainForm true with srcs := (List.range 8).map (fun k => srcN 0 a k ea false) },
      legal := onGrip,
      plan := fun l vs => cpyAct s l a vs,
      note := fun l vs t => cpyFill t l vs,
      eff := fun l vs t =>
        modCore (cpyFill t l vs) (laneCore s l) (fun k => { k with copies := k.copies ++
          [{ team := laneTeam s l, cmd := vs.take 8, dest := none, parts := 0, swap := none, moved := false }] }),
      branch := false }

/-! ### Row conversion (R195) -/

/-- Elements of `n` bytes each, as numbers. -/
def elements (n : Nat) : Nat → List Byte → List Nat
  | 0, _ => []
  | k + 1, bs => if bs.isEmpty then [] else leNat (bs.take n) :: elements n k (bs.drop n)

/-- BF16 elements rounded to FP8 after the shift. -/
def toFp8 (c : List Word) (bs : List Byte) : List Byte :=
  (elements 2 bs.length bs).map (fun x =>
    BitVec.ofNat 8 (roundFp8 (cmdKind c) (cmdRnd c) (cmdSat c) (numScale (decodeFp bf16 x) (cmdShift c))).1)

/-- FP8 values as BF16 after the shift. -/
def fromFp8 (c : List Word) (xs : List Num) : List Byte :=
  xs.flatMap (fun x => leBytes 2 (roundFp bf16 (cmdRnd c) false (numScale x (cmdShift c))).1)

/-- FP8 codes laid out as blocks of 62 elements (R124, R195). -/
def layBlocks (c : List Word) : Nat → List Byte → List Byte
  | 0, _ => []
  | k + 1, bs =>
    if bs.isEmpty then []
    else
      let part := bs.take 62
      [if bit (wordAt c 0) 6 then 0x10 else 0x00, BitVec.ofInt 8 (-(cmdShift c))] ++ part
        ++ List.replicate (62 - part.length) 0 ++ layBlocks c k (bs.drop 62)

/-- The elements of source blocks, or the offset of a block whose format ends the copy with cause 0x09. `bad` flags the damaged bytes: a
block whose format or scale byte is damaged is not checked, and its elements are delivered poisoned. -/
def readBlocks : Nat → Nat → List Byte → List Bool → Except Nat (List Num)
  | 0, _, _, _ => .ok []
  | k + 1, at_, bs, bad =>
    if bs.isEmpty then .ok []
    else
      let fmt := (bs.getD 0 0).toNat
      let scale := (bs.getD 1 0).toNat
      let zero := bad.getD 1 false || scale = 0x80 || bad.getD 0 false
      if !zero && (fmt % 16 ≠ 0 || 2 ≤ fmt / 16) then .error at_
      else match readBlocks k (at_ + 64) (bs.drop 64) (bad.drop 64) with
        | .ok xs => .ok ((if zero then List.replicate 62 (Num.fin false 0 1) else ((bs.drop 2).take 62).map (fun b =>
            numScale (decodeFp (if fmt / 16 = 0 then e4m3 else e5m2) b.toNat) (sextNat scale 8))) ++ xs)
        | e => e

/-- One row converted; an error gives the offset of the offending block in the row. -/
def convertRow (c : List Word) (bs : List Byte) (bad : List Bool) : Except Nat (List Byte) :=
  match cmdConv c, cmdBlk c with
  | 1, false => .ok (toFp8 c bs)
  | 1, true => .ok (layBlocks c bs.length (toFp8 c bs))
  | 2, false => .ok (fromFp8 c (bs.map (fun b => decodeFp (cmdKind c) b.toNat)))
  | 2, true => match readBlocks bs.length 0 bs bad with | .ok xs => .ok (fromFp8 c xs) | .error e => .error e
  | _, _ => .ok bs

/-- The bytes of a converted row that are made from a damaged source byte (R57, R195). Of a block whose SCALE byte is 0x80 no other byte is
fetched (R126). -/
def rowFlags (c : List Word) (bs : List Byte) (bad : List Bool) : List Bool :=
  let hurt (k : Nat) : Bool := bad.getD k false
  match cmdConv c, cmdBlk c with
  | 1, false => (List.range (bs.length / 2)).map (fun i => hurt (2 * i) || hurt (2 * i + 1))
  | 1, true => (List.range (64 * ((bs.length / 2 + 61) / 62))).map (fun i =>
      let e := 62 * (i / 64) + i % 64 - 2
      2 ≤ i % 64 && (hurt (2 * e) || hurt (2 * e + 1)))
  | 2, false => (List.range (2 * bs.length)).map (fun i => hurt (i / 2))
  | 2, true => (List.range (124 * (bs.length / 64))).map (fun i =>
      let k := 64 * (i / 124)
      hurt (k + 1) || ((bs.getD (k + 1) 0) ≠ 0x80 && (hurt k || hurt (k + 2 + i % 124 / 2))))
  | _, _ => bad

/-! ### Deduplication (R203 to R205) -/

/-- One byte of CRC-64/ECMA-182. -/
def crcByte (crc : BitVec 64) (b : Byte) : BitVec 64 :=
  (List.range 8).foldl (fun c _ => if c.getLsbD 63 then (c <<< 1) ^^^ 0x42F0E1EBA9EA3693 else c <<< 1) (crc ^^^ ((b.zeroExtend 64) <<< 56))

/-- The fingerprint of a page (R204). -/
def fingerprint (bs : List Byte) : BitVec 64 := bs.foldl crcByte 0

/-- TLB entries of a partition that cover an address removed. -/
def dropPage (s : State) (p va : Nat) : State :=
  tlbDrop s (fun e => e.part = p && e.va ≤ va && va < e.va + 2 ^ e.bits)

/-- A dedup-shared leaf that replaces a normal one (R204). -/
def sharedLeaf (e : TlbEntry) (d : Nat) : Nat := d + (if e.g then 0x20 else 0) + (if e.x then 0x10 else 0) + 0xF

/-- A 64-byte place for a descriptor, from the pool 64 to a frame. -/
def takeDesc (s : State) (p : Nat) : Option (Nat × State) :=
  let n := (partOf s p).descNext
  if n % 4096 = 0 then
    match takeFrame s p with
    | some (f, s) => some (f, modPart s p (fun x => { x with descNext := f + 64 }))
    | none => none
  else some (n, modPart s p (fun x => { x with descNext := n + 64 }))

/-- The live descriptor whose frame equals a page (R204, step 2). -/
def dedupMatch (s : State) (p : Nat) (fp : BitVec 64) (bs : List Byte) : Option Nat :=
  ((partOf s p).index.find? (fun e => e.fp = fp && bit (readNum s e.desc 8) 0 &&
    readMem s (bits (readNum s e.desc 8) 51 12 * 4096) 4096 = bs)).map (·.desc)

/-- What the first part of a page's treatment comes to: the replacement of its leaf, the page written and done, or a leaf that has changed, so
that the page is treated again. -/
inductive DedupPage where
  | swap (w : LeafSwap)
  | done
  | again
  deriving DecidableEq, Repr

/-- Steps 2 and 3 of R204 for one page whose destination is writable, up to the compare-and-swap of its leaf. No TLB holds the page, so that
one walk serves the whole of it. A page with a damaged source byte is written without deduplication (log entry 90). Bytes 24 to 63 of a new
descriptor, which Table 6-7 leaves to the device, are zeros (log entry 98). -/
def dedupPrepare (s : State) (core p va : Nat) (bs : List Byte) (bad : List Bool) : State × DedupPage :=
  let plain (s : State) : State := spanMark (spanWrite s core p va bs false) core p va bad
  match walk s p va .w with
  | .leaf e =>
    let e := smallLeaf va e
    if e.bits ≠ 12 || bad.any (·) then (plain s, .done)
    else
      let fp := fingerprint bs
      let swap (d : Nat) (fresh : Bool) : LeafSwap :=
        { entry := e.entry, old := readNum s e.entry 8, new := sharedLeaf e d, desc := d, fresh := fresh }
      match dedupMatch s p fp bs with
      | some d => (storeDev s (d + 8) (leBytes 4 ((readNum s (d + 8) 4 + 1) % 2 ^ 32)), .swap (swap d false))
      | none =>
        let s := plain s
        match takeDesc s p with
        | none => (dropPage s p va, .done)
        | some (d, t) =>
          let t := storeDev t d (leBytes 8 (e.frame + 1) ++ leBytes 4 1 ++ leBytes 4 0 ++ leBytes 8 fp.toNat ++ leBytes 40 0)
          (modPart t p (fun x => { x with index := x.index ++ [{ fp := fp, desc := d }] }),
           .swap { swap d true with old := readNum t e.entry 8 })
  | _ => (s, .again)

/-- The frame that a page leaves when another takes its place: accesses to it that are still to be performed and the stash's bytes of it
come first, and the copies in the copying core's L1 are older than the page's new contents. -/
def leaveFrame (s : State) (core f : Nat) : State :=
  modCore (recallDev (drainFrame s f) f 4096) core (fun k => { k with l1 := k.l1.filter (fun x => x.pa / 4096 != f / 4096) })

/-- The compare-and-swap of a page's leaf (R204): true when the page is done; after one that fails the device undoes its own step. -/
def dedupSwap (s : State) (core p va : Nat) (w : LeafSwap) : State × Bool :=
  let old := bits w.old 51 12 * 4096
  let s := if w.fresh then drainFrame s old else s
  if readNum s w.entry 8 = w.old then
    let f := descFrame s w.desc
    let s := if w.fresh then s else leaveFrame s core old
    let s := storeDev s w.entry (leBytes 8 w.new)
    let s := if w.fresh then s else giveFrame s p old
    (movePages (dropPage s p va) p va f, true)
  else if w.fresh then (retireDesc s p w.desc, false)
  else
    let c := readNum s (w.desc + 8) 4
    let f := descFrame s w.desc
    let s := storeDev s (w.desc + 8) (leBytes 4 ((c + 2 ^ 32 - 1) % 2 ^ 32))
    (if c = 1 then retireDesc (giveFrame s p f) p w.desc else s, false)

/-! ### COPY_OPERATION -/

/-- A copy has failed (R197, R201): the ring's ERR is set, the grip context will take the cause, and the team's later copies are
discarded. -/
def copyFail (s : State) (core : Nat) (o : CopyOp) (cause addr : Nat) : State :=
  let s := if cmdHasRing o.cmd then ringFlag s o.team 0 (cmdHeader o.cmd) 2 else s
  let s := modCore s core (fun k => { k with copies := k.copies.tail.filter (fun q => q.team ≠ o.team) })
  tryEndTeam (modTeam s o.team (fun t => { t with grip := t.grip.map (fun k =>
    if k.ended then k else { k with pend := some { cause := cause, addr := addr, team := o.team } }) })) o.team

/-- A copy leaves the queue once it is complete; its team may end (R43). -/
def copyDone (s : State) (core : Nat) (o : CopyOp) : State :=
  tryEndTeam (modCore s core (fun k => { k with copies := k.copies.tail })) o.team

/-- The head copy of a core's queue changed. -/
def modCopy (s : State) (core : Nat) (f : CopyOp → CopyOp) : State :=
  modCore s core (fun k => { k with copies := modifyNth k.copies 0 f })

/-- The scratchpad place of row `r` of a copy that has begun: side and offset. -/
def copyPlace (c : List Word) (dest r : Nat) : Nat × Nat :=
  if cmdSlot c then (0, dest + r * cmdSrow c)
  else
    let e := cmdSoff c
    (if bit e 23 then 1 else 0, (if bit e 23 then e - 2 ^ 23 else e) + r * cmdSrow c)

/-- Where row `r` lies in global memory. -/
def copyGlobal (c : List Word) (r : Nat) : Nat := cmdGaddr c + r * cmdGstr c

/-- Whether a copy may begin (R201): the slot whose offset row 0 fills, a wait for a free slot, or the end as a failed copy. -/
inductive CopyStart where
  | go (dest : Nat)
  | wait
  | fail
  deriving DecidableEq, Repr

/-- R200, R201: the wait for a free slot before the first write, which tests its condition, ERR and EOS only on a valid header. -/
def copyStart (t : Team) (c : List Word) : CopyStart :=
  if !cmdHasRing c then .go 0
  else
    let h := cmdHeader c
    if !ringValid t 0 h then .wait
    else if ringErr t 0 h || ringEos t 0 h then .fail
    else if ringCount t 0 h ≤ ringUsed t 0 h then .wait
    else .go (ringBase t 0 h + ringWidx t 0 h % max 1 (ringCount t 0 h) * ringSize t 0 h)

/-- One row copied to a global or a scratchpad range that is at hand, or the fault that its contents raise. TADDR of a scratchpad source block
is its local offset, without the partner bit (log entry 88). -/
def copyRow (s : State) (core p : Nat) (o : CopyOp) (pl : Nat × Nat) (ga : Nat) : Except (State × Block) State :=
  let c := o.cmd
  if cmdDir c = 0 then
    let bs := spanRead s core p ga (cmdLen c) .r
    let bad := spanFlags s core p ga (cmdLen c) .r
    match convertRow c bs bad with
    | .error k => .error (s, .fault 9 (ga + k))
    | .ok out =>
      let s := scratchReady (spanNote s core p ga (cmdLen c) .r) o.team pl.1 pl.2 out.length
      .ok (scratchMark (scratchWrite s o.team pl.1 pl.2 out false) o.team pl.1 pl.2 (rowFlags c bs bad))
  else
    let s := scratchReady s o.team pl.1 pl.2 (cmdLen c)
    match team? s o.team with
    | none => .ok s
    | some t =>
      let bs := scratchRead t pl.1 pl.2 (cmdLen c)
      let bad := scratchFlags t pl.1 pl.2 (cmdLen c)
      match convertRow c bs bad with
      | .error k => .error (s, .fault 9 (pl.2 + k))
      | .ok out => .ok (spanMark (spanWrite s core p ga out false) core p ga (rowFlags c bs bad))

/-- What a part of a copy needs before it is performed: its global pages, then its scratchpad sectors. -/
def partTake (s : State) (core p : Nat) (o : CopyOp) (pl : Nat × Nat) (ga gn sn : Nat) : Except (State × Block) State :=
  match spanTake (engCopy core) core p (if cmdDir o.cmd = 0 then .r else .w) (pageChunks ga gn) s with
  | .error e => .error e
  | .ok s =>
    match scratchHold s (engCopy core) o.team pl.1 pl.2 sn with
    | some e => .error e
    | none => .ok s

/-- A copy's next part is done: the copy goes on, waits for its publication, or is complete. -/
def partDone (s : State) (core : Nat) (o : CopyOp) : State :=
  let n := if cmdDdup o.cmd then cmdLen o.cmd / 4096 else cmdRows o.cmd
  if o.parts + 1 < n then modCopy s core (fun q => { q with parts := q.parts + 1, swap := none })
  else if cmdHasRing o.cmd then modCopy s core (fun q => { q with parts := q.parts + 1, swap := none, moved := true })
  else copyDone s core o

/-- A copy that cannot go on: it waits for a page, or fails. -/
def copyEnds (core : Nat) (o : CopyOp) (e : State × Block) : State :=
  let p := teamPart e.1 o.team
  match e.2 with
  | .wait va a => spanWait e.1 (engCopy core) core p va a
  | .fault cause va => copyFail (engDone e.1 p (engCopy core)) core o cause va

/-- The next row of a copy that has begun, or the next step of a page of a deduplicating copy (R195, R197, R204). -/
def copyPart (s : State) (core dest : Nat) (o : CopyOp) : State :=
  let p := teamPart s o.team
  let c := o.cmd
  if cmdDdup c then
    let va := cmdGaddr c + 4096 * o.parts
    match o.swap with
    | some w =>
      match dedupSwap s core p va w with
      | (s, true) => partDone s core o
      | (s, false) => modCopy s core (fun q => { q with swap := none })
    | none =>
      let s := dropPage s p va
      let pl := ((copyPlace c dest 0).1, (copyPlace c dest 0).2 + 4096 * o.parts)
      match partTake s core p o pl va 4096 4096 with
      | .error e => copyEnds core o e
      | .ok s =>
        let s := scratchReady s o.team pl.1 pl.2 4096
        match team? s o.team with
        | none => s
        | some t =>
          match dedupPrepare s core p va (scratchRead t pl.1 pl.2 4096) (scratchFlags t pl.1 pl.2 4096) with
          | (s, .swap w) => modCopy s core (fun q => { q with swap := some w })
          | (s, .done) => partDone s core o
          | (s, .again) => s
  else
    let pl := copyPlace c dest o.parts
    let ga := copyGlobal c o.parts
    match partTake s core p o pl ga (cmdGrow c) (cmdSrow c) with
    | .error e => copyEnds core o e
    | .ok s =>
      match copyRow s core p o pl ga with
      | .error e => copyEnds core o e
      | .ok s => partDone s core o

/-- The head copy of a core's queue begins, or goes on with its next row or page (R195 to R197, R201). -/
def copyStep (s : State) (core : Nat) : State :=
  match (coreOf s core).copies with
  | [] => s
  | o :: _ =>
    let drop (s : State) := modCore s core (fun k => { k with copies := k.copies.tail })
    if o.moved then s
    else match team? s o.team with
      | none => drop s
      | some t =>
        match o.dest with
        | some d => copyPart s core d o
        | none =>
          match (if cmdHasRing o.cmd then scratchHold s (engCopy core) o.team 0 (cmdHeader o.cmd) 64 else none) with
          | some e => copyEnds core o e
          | none =>
            let s := if cmdHasRing o.cmd then scratchReady s o.team 0 (cmdHeader o.cmd) 64 else s
            match copyStart ((team? s o.team).getD t) o.cmd with
            | .wait => s
            | .fail => copyFail s core o 0x12 (cmdHeader o.cmd)
            | .go d => copyPart (modCopy s core (fun q => { q with dest := some d })) core d { o with dest := some d }

/-- COPY_OPERATION (R195, R204). -/
def execCopyOperation (core : Nat) (s : State) : Host.Outcome State Fault Refusal := .next (copyStep s core)

/-- The ring publication of a copy whose writes are performed (R183, R201): the header's stash sector is filled first (R140), and a valid
header without a free slot is waited for. -/
def publishStep (s : State) (core : Nat) : State :=
  match (coreOf s core).copies with
  | [] => s
  | o :: _ =>
    let h := cmdHeader o.cmd
    if !o.moved || !cmdHasRing o.cmd then s
    else match scratchHold s (engCopy core) o.team 0 h 64 with
      | some e => copyEnds core o e
      | none =>
        let s := scratchReady s o.team 0 h 64
        if (team? s o.team).any (fun t => ringValid t 0 h && ringCount t 0 h ≤ ringUsed t 0 h) then s
        else
          let s := ringAdvance s o.team 0 h 0
          copyDone (if cmdEos o.cmd then ringFlag s o.team 0 h 1 else s) core o

/-- COPY_RING_PUBLICATION (R201). -/
def execCopyRingPublication (core : Nat) (s : State) : Host.Outcome State Fault Refusal := .next (publishStep s core)

/-! ### Slot instructions (R199, R200) -/

/-- The four slot operations. -/
inductive SlotOp where | await (free : Bool) | release | publish | endStream
  deriving DecidableEq, Repr

/-- R200: the cause of a header offset that is misaligned or outside the allocation. -/
def slotPlace (t : Team) (off : Nat) : Option Nat :=
  if off % 64 ≠ 0 then some 6 else if bit off 23 || !ringInside t off then some 7 else none

/-- R200: the cause of the first failing check. -/
def slotCheck (t : Team) (side off : Nat) (op : SlotOp) : Option Nat :=
  if (slotPlace t off).isSome then slotPlace t off
  else if !ringValid t side off || ringErr t side off then some 0x12
  else
    let eos := ringEos t side off
    let bad := match op with
      | .await free => free && eos
      | .release => ringUsed t side off = 0
      | .publish => ringUsed t side off = ringCount t side off || eos
      | .endStream => eos
    if bad then some 0x12 else none

/-- The effect of a slot operation on the ring, a release by its lane first (R183). -/
def slotApply (s : State) (l : LaneId) (off : Nat) (op : SlotOp) : State :=
  let tm := laneTeam s l
  let side := laneSide s l
  match op with
  | .await _ => s
  | .release => ringAdvance (releaseLane s l .team) tm side off 1
  | .publish => ringAdvance (releaseLane s l .team) tm side off 0
  | .endStream => ringFlag (releaseLane s l .team) tm side off 1

/-- A slot operation of a group, if it passes its checks. -/
def slotEffect (op : SlotOp) (l : LaneId) (vs : List Word) (t : State) : State :=
  let off := (val vs 0).toNat
  let tm := laneTeam t l
  if (team? t tm).all (fun x => (slotPlace x off).isSome) then t
  else
    let t := stashFillAt t tm (laneSide t l) off
    if (team? t tm).any (fun x => (slotCheck x (laneSide t l) off op).isNone) then slotApply t l off op else t

/-- What a slot operation does for a lane in the state `t` that its group's action meets, `s` being the state before the issue: the
header's stash sector is filled first, the operation waits for the earlier accesses of its lane, and then its checks apply. -/
def slotAct (s t : State) (lead l : LaneId) (off : Nat) (op : SlotOp) : Act :=
  let tm := laneTeam t l
  let side := laneSide t l
  match team? t tm with
  | none => .fault 7 off 0
  | some x =>
    match slotPlace x off with
    | some c => .fault c off 0
    | none =>
      if accessHeld s lead then .wait
      else fillAct t l tm x side off (
        match slotCheck ((team? (stashFillAt t tm side off) tm).getD x) side off op with
        | some c => .fault c off 0
        | none => .done [] 0 none)

/-- One slot instruction. -/
def execSlot (i : Instr) (ea : Bool) (a : Reg) (d : Option Reg) (op : SlotOp) (s : State) : Host.Outcome State Fault Refusal :=
  let form : Form := { plainForm true with srcs := [srcOne 0 a ea], dst := d }
  let active := activeLanes s s.focus
  runEntry s i
    { form := form,
      legal := fun l => match l with | .mgmt _ => false | _ => true,
      plan := fun l vs => slotAct s (groupBefore s form active (slotEffect op) l) (leadLane active l) l (val vs 0).toNat op,
      note := fun l vs t => fillNote l (laneTeam t l) (laneSide t l) (val vs 0).toNat t,
      eff := fun l vs t =>
        if leadLane active l ≠ l then t
        else
          let off := (val vs 0).toNat
          let t := stashFillAt t (laneTeam t l) (laneSide t l) off
          match op, d with
          | .await free, some r =>
            post t (.slotw off free (laneTeam t l) (laneSide t l))
              ((active.filter (sameGroup l)).map (fun m => (m, r.toNat, (0 : Word), false)))
          | _, _ => slotApply t l off op,
      branch := false }

/-- SLOTW (R200, R407): posted, for every active lane of each group. -/
def execSlotw (free : Bool) (ea : Bool) (d a : Reg) (s : State) : Host.Outcome State Fault Refusal :=
  execSlot (.slotw free ea d a) ea a (some d) (.await free) s

/-- SLOTR (R200, R407). -/
def execSlotr (ea : Bool) (a : Reg) (s : State) : Host.Outcome State Fault Refusal :=
  execSlot (.slotr ea a) ea a none .release s

/-- SLOTP (R200, R407). -/
def execSlotp (ea : Bool) (a : Reg) (s : State) : Host.Outcome State Fault Refusal :=
  execSlot (.slotp ea a) ea a none .publish s

/-- SLOTE (R200, R407). -/
def execSlote (ea : Bool) (a : Reg) (s : State) : Host.Outcome State Fault Refusal :=
  execSlot (.slote ea a) ea a none .endStream s

/-- The result that ends a SLOTW wait, if it ends now (R200). -/
def slotwResult (t : Team) (side off : Nat) (free : Bool) : Option Word :=
  if !ringValid t side off then none
  else if ringErr t side off then some 0xFFFFFFFE
  else if free then
    if ringEos t side off then some 0xFFFFFFFF
    else if ringUsed t side off < ringCount t side off then some (w32 (ringWidx t side off % ringCount t side off)) else none
  else if ringUsed t side off ≠ 0 then some (w32 (ringRidx t side off % ringCount t side off))
  else if ringEos t side off then some 0xFFFFFFFF else none

/-! ### Operand streams (R206 to R209) -/

/-- The four counts and strides of a stream descriptor. -/
def streamDims (d : List Word) : List (Nat × Int) :=
  [(wordAt d 2 % 65536, sint (d.getD 4 0)), (wordAt d 2 / 65536, sint (d.getD 5 0)),
   (wordAt d 3 % 65536, sint (d.getD 6 0)), (wordAt d 3 / 65536, sint (d.getD 7 0))]

/-- The lowest and highest element address of a stream, computed exactly. -/
def streamBounds (d : List Word) : Int × Int :=
  let ends := (streamDims d).map (fun e => ((e.1 : Int) - 1) * e.2)
  ((wordAt d 0 : Int) + (ends.map (fun e => min e 0)).foldl (· + ·) 0,
   (wordAt d 0 : Int) + (ends.map (fun e => max e 0)).foldl (· + ·) 0 + 31 * (wordAt d 1 % 65536 : Nat))

/-- The address of entry `t` at lane position `p` (R207). -/
def streamAddr (d : List Word) (t p : Nat) : Nat :=
  let go (acc : Int × Nat) (e : Nat × Int) : Int × Nat := (acc.1 + ((acc.2 % max 1 e.1 : Nat) : Int) * e.2, acc.2 / max 1 e.1)
  ((((streamDims d).foldl go ((wordAt d 0 : Int), t)).1) + ((p * (wordAt d 1 % 65536) : Nat) : Int)).toNat

/-- The group of a team with a GIDX. -/
def teamGroup (s : State) (t : Team) (gidx : Nat) : Option (Nat × Group) :=
  t.groups.findSome? (fun g => match group? s g with | some x => if x.gidx = gidx then some (g, x) else none | none => none)

/-- The key of a queue in its group. -/
def queueKey (q : BitVec 3) (tgt : Nat) : Nat := 8 * (if bit tgt 5 then 1 else 0) + q.toNat

/-- R208: QSTRM's decision. TADDR of cause 0x06, and of cause 0x07 for the stream's bounds, is BASE (log entry 88). -/
def qstrmAct (s : State) (l : LaneId) (q : BitVec 3) (a : Reg) (d : List Word) (tgt : Nat) : Act :=
  match team? s (laneTeam s l) with
  | none => .fault 0x11 a.toNat 0
  | some t =>
    if wordAt d 1 / 65536 ≠ 0 || tgt / 64 ≠ 0 || (streamDims d).any (fun e => e.1 = 0) then .fault 0x11 a.toNat 0
    else match teamGroup s t (tgt % 32) with
      | none => .fault 0x11 a.toNat 0
      | some (_, g) =>
        if g.ended || g.exited = allLanes g || g.width < 32 || (bit tgt 5 && g.width = 32) then .fault 0x11 a.toNat 0
        else if wordAt d 0 % 4 ≠ 0 || wordAt d 1 % 4 ≠ 0 || (streamDims d).any (fun e => e.2 % 4 ≠ 0) then .fault 6 (wordAt d 0) 0
        else
          let (lo, hi) := streamBounds d
          if lo < 0 || 4294967292 < hi || bit lo.toNat 23 ≠ bit hi.toNat 23 then .fault 7 (wordAt d 0) 0
          else match scratchCheck t 0 lo.toNat 4, scratchCheck t 0 hi.toNat 4 with
            | .error c, _ => .fault c lo.toNat 0
            | _, .error c => .fault c hi.toNat 0
            | .ok _, .ok _ =>
              match tget? g.queues (queueKey q tgt) with
              | some old => if old.popped < queueTotal old then .wait else .done [] 0 none
              | none => .done [] 0 none

/-- QSTRM (R206 to R209, R398). -/
def execQstrm (q : BitVec 3) (ea eb : Bool) (a b : Reg) (s : State) : Host.Outcome State Fault Refusal :=
  let tgt (vs : List Word) := (val vs 8).toNat
  runEntry s (.qstrm q ea eb a b)
    { form := { plainForm true with srcs := (List.range 8).map (fun k => srcN 0 a k ea false) ++ [src 1 b eb] },
      legal := onGrip,
      plan := fun l vs => qstrmAct s l q a (vs.take 8) (tgt vs),
      note := fun _ _ t => t,
      eff := fun l vs t =>
        match (team? t (laneTeam t l)).bind (fun x => teamGroup t x (tgt vs % 32)) with
        | some (g, _) => modGroup t g (fun x =>
            { x with queues := tput x.queues (queueKey q (tgt vs)) { desc := vs.take 8, popped := 0, entries := [] } })
        | none => t,
      branch := false }

/-- One entry of a stream as the scratchpad holds it, by lane position. -/
def streamEntry (t : Team) (d : List Word) (n : Nat) : List Elem :=
  (List.range 32).map (fun p =>
    let e := streamAddr d n p
    let side := if bit e 23 then 1 else 0
    let off := if bit e 23 then e - 2 ^ 23 else e
    Elem.full (w32 (scratchNum t side off 4)) (scratchBad t side off 4))

/-- What keeps an entry from being fetched. -/
def streamBlock (s : State) (eng tm : Nat) (d : List Word) (n : Nat) : Option (State × Block) :=
  (List.range 32).findSome? (fun p =>
    let e := streamAddr d n p
    scratchHold s eng tm (if bit e 23 then 1 else 0) (if bit e 23 then e - 2 ^ 23 else e) 4)

/-- Bound pops that wait for entry `n` of a queue take its elements (R63). -/
def servePop (queue n : Nat) (pos : Nat → Nat) (es : List Elem) (b : BoundPop) : BoundPop :=
  if b.due = some (queue, n) then
    { b with elems := b.elems.map (fun e => (e.1, es.getD (pos e.1) (.full 0 false))), due := none }
  else b

/-- The bound pops of a slice: those of its next issue, of its frames and of its halt record. -/
def slicePopsOf (x : Slice) : List BoundPop := x.redo ++ x.frames.flatMap (·.pops) ++ (x.halt.elim [] (·.pops))
def mapPops (f : BoundPop → BoundPop) (x : Slice) : Slice :=
  { x with redo := x.redo.map f, frames := x.frames.map (fun y => { y with pops := y.pops.map f }),
           halt := x.halt.map (fun h => { h with pops := h.pops.map f }) }

/-- The number of the entry of a queue that is fetched next: one that was popped before it was delivered, else the next one (R63, R209). -/
def nextEntry (x : Group) (queue : Nat) (q : Queue) : Nat :=
  (leastOf (x.slices.flatMap (fun y => (slicePopsOf y).filterMap (fun b =>
    match b.due with | some (k, n) => if k = queue then some n else none | none => none)))).getD (q.popped + q.entries.length)

/-- An entry of a queue delivered: to the lanes that hold its pop, or into one of the queue's eight places. -/
def deliverEntry (x : Group) (queue n : Nat) (q : Queue) (es : List Elem) : Group :=
  if n < q.popped then { x with slices := x.slices.map (mapPops (servePop queue n (lanePos x) es)) }
  else { x with queues := tput x.queues queue { q with entries := q.entries ++ [es] } }

/-- The next entry of a group's queue fetched (R209); a fill that fails is reported to the grip context. -/
def streamStep (s : State) (g queue : Nat) : State :=
  match group? s g with
  | none => s
  | some x =>
    match tget? x.queues queue, team? s x.team with
    | some q, some t =>
      let n := nextEntry x queue q
      if x.status = .swapped || (q.popped ≤ n && 8 ≤ q.entries.length) || queueTotal q ≤ n then s
      else match streamBlock s (engStream g queue) x.team q.desc n with
        | some (s, .wait va a) => spanWait s (engStream g queue) t.core (teamPart s x.team) va a
        | some (s, .fault c va) =>
          modTeam (engDone s (teamPart s x.team) (engStream g queue)) x.team (fun t => { t with grip := t.grip.map (fun k =>
            if k.ended || k.pend.isSome then k else { k with pend := some { cause := c, addr := va, team := x.team } }) })
        | none =>
          let s := (List.range 32).foldl (fun s p =>
            let e := streamAddr q.desc n p
            stashFillAt s x.team (if bit e 23 then 1 else 0) (if bit e 23 then e - 2 ^ 23 else e)) s
          match team? s x.team with
          | some t => modGroup s g (fun y => deliverEntry y queue n q (streamEntry t q.desc n))
          | none => s
    | _, _ => s

/-- STREAM_ENTRY_FETCH (R207, R209). -/
def execStreamEntryFetch (group queue : Nat) (s : State) : Host.Outcome State Fault Refusal := .next (streamStep s group queue)

end Sys2Proof.Machine
end

