-- ==== Sys2Proof/Machine/Matrix.lean ====
section
/-! DEFINITION. Matrix engines: MMA, the matrix operation, MPACK and the slate (R124 to R132, R212 to R234, R390, R393, R394). -/

namespace Sys2Proof.Machine

/-! ### Bytes that an engine reads -/

/-- Whether a byte of the scratchpad is held there: its stash sector is filled, or the byte is dirty in it (R140). -/
def byteHeld (t : Team) (side off : Nat) : Bool :=
  match windowAt t side off with
  | some (w, k) => sectorFilled w k || (sectorDirty w k).getLsbD ((off - w.soff) % 128)
  | none => true

/-- Bytes of a range: those that the scratchpad holds, and the others from `bs`. -/
def heldOver (t : Team) (side off n : Nat) (bs : List Byte) : List Byte :=
  (List.range n).map (fun i => if byteHeld t side (off + i) then scratchGet t side (off + i) else bs.getD i 0)

/-- Bytes of a team's scratchpad as an access would find them: an unfilled stash sector reads as its global memory, and as zero where
that cannot be read. -/
def peek (s : State) (tm : Nat) (t : Team) (side off n : Nat) : List Byte :=
  (sectorChunks off n).flatMap (fun c =>
    match windowAt t side c.1, stashNeed s tm t side c.1 with
    | some (w, _), some (.ok _ _) =>
      match translate s (t.core + side) (teamPart s tm) (w.gaddr + (c.1 - w.soff)) .r with
      | .ok pa g => heldOver t side c.1 c.2 (viewBytes s (t.core + side) (teamPart s tm) g pa c.2 false)
      | _ => heldOver t side c.1 c.2 []
    | some _, some _ => heldOver t side c.1 c.2 []
    | _, _ => scratchRead t side c.1 c.2)

/-- Bytes that an engine reads, a sector that could not be filled reading as zero (R225). -/
def engineRead (t : Team) (side off n : Nat) : List Byte := heldOver t side off n []

/-- Whether the scratchpad reports a byte that an engine reads as damaged (R226). -/
def engineBad (t : Team) (side off : Nat) : Bool := byteHeld t side off && scratchBad t side off 1

/-- What a lane's access to a range of its team's scratchpad meets first in the stash, with the offset: a wait, an absent page or a cause. -/
def rangeAct (s : State) (l : LaneId) (tm : Nat) (t : Team) (side off n : Nat) : Option (Act × Nat) :=
  (sectorChunks off n).findSome? (fun c =>
    match fillAct s l tm t side c.1 (.done [] 0 none) with
    | .done _ _ _ => none
    | a => some (a, c.1))

/-- Word `k` of a list of bytes. -/
def wordIn (bs : List Byte) (k : Nat) : Nat := leNat ((bs.drop (4 * k)).take 4)

/-! ### Tile records (Tables 9-2 to 9-4) -/

def recBase (r : List Byte) : Nat := wordIn r 0
def recStep (r : List Byte) : Nat := wordIn r 1
def recKblk (r : List Byte) : Nat := bits (wordIn r 2) 23 16
def recRows (r : List Byte) : Nat := bits (wordIn r 2) 6 0
def recKoff (r : List Byte) : Nat := wordIn r 3 % 65536
def geoIh (r : List Byte) : Nat := wordIn r 4 / 65536
def geoIw (r : List Byte) : Nat := wordIn r 4 % 65536
def geoPadY (r : List Byte) : Nat := bits (wordIn r 5) 31 28
def geoPadX (r : List Byte) : Nat := bits (wordIn r 5) 27 24
def geoDil (r : List Byte) : Nat := bits (wordIn r 5) 23 20
def geoStr (r : List Byte) : Nat := bits (wordIn r 5) 19 16
def geoFh (r : List Byte) : Nat := bits (wordIn r 5) 15 12
def geoFw (r : List Byte) : Nat := bits (wordIn r 5) 11 8
def geoCb (r : List Byte) : Nat := bits (wordIn r 5) 7 0
def geoOy0 (r : List Byte) : Nat := wordIn r 6 / 65536
def geoOx0 (r : List Byte) : Nat := wordIn r 6 % 65536
def geoOw (r : List Byte) : Nat := wordIn r 7 % 65536
def sideA (r : List Byte) : Nat := wordIn r 4
def sideB (r : List Byte) : Nat := wordIn r 5
def sideN (r : List Byte) : Nat := bits (wordIn r 6) 3 0

/-- Whether bytes 0 to 15 of a record are in order (Table 9-2). -/
def recHeadOk (r : List Byte) (maxRows : Nat) : Bool :=
  recBase r % 64 = 0 && recStep r % 64 = 0 && !bit (recBase r) 23 && wordIn r 2 / 2 ^ 24 = 0 && bits (wordIn r 2) 15 7 = 0 &&
    1 ≤ recKblk r && recKblk r ≤ 8 && 1 ≤ recRows r && recRows r ≤ maxRows && wordIn r 3 / 65536 = 0

/-- The extent of a dense record (R217). -/
def denseExtent (r : List Byte) : Nat := recBase r + (recRows r - 1) * recStep r + 64 * recKblk r

/-- Whether an A record passes R216. -/
def aRecordOk (r : List Byte) (unf : Bool) (scr : Nat) : Bool :=
  recHeadOk r 64 &&
    if unf then
      1 ≤ geoIh r && 1 ≤ geoIw r && 1 ≤ geoDil r && 1 ≤ geoStr r && 1 ≤ geoFh r && 1 ≤ geoFw r && 1 ≤ geoCb r &&
        wordIn r 7 / 65536 = 0 && 1 ≤ geoOw r && recBase r + (geoIh r * geoIw r - 1) * recStep r + 64 * geoCb r ≤ scr
    else recKoff r = 0 && (r.drop 16).all (· == 0) && denseExtent r ≤ scr

/-- Whether a B record passes R216, with the rows of the A record for its side array. -/
def bRecordOk (r : List Byte) (outl : Bool) (aRows scr : Nat) : Bool :=
  recHeadOk r 16 && recKoff r = 0 && denseExtent r ≤ scr &&
    (!outl || (sideA r % 16 = 0 && sideB r % 16 = 0 && wordIn r 6 / 16 = 0 && wordIn r 7 = 0 && 1 ≤ sideN r && sideN r ≤ 8 &&
      sideA r + 16 * aRows ≤ scr && sideB r + 256 ≤ scr))

/-- The offset of block `j` of A row `m`, or none for an all-zero block (R215, R219). -/
def aBlockAt (r : List Byte) (unf : Bool) (m j : Nat) : Option Nat :=
  if recRows r ≤ m || recKblk r ≤ j then none
  else if !unf then some (recBase r + m * recStep r + 64 * j)
  else
    let kb := recKoff r + j
    let oy := geoOy0 r + m / geoOw r
    let ox := geoOx0 r + m % geoOw r
    let cb := kb % geoCb r
    let fx := kb / geoCb r % geoFw r
    let fy := kb / (geoCb r * geoFw r)
    let y := oy * geoStr r + fy * geoDil r
    let x := ox * geoStr r + fx * geoDil r
    if geoFh r ≤ fy || y < geoPadY r || x < geoPadX r || geoIh r ≤ y - geoPadY r || geoIw r ≤ x - geoPadX r then none
    else some (recBase r + ((y - geoPadY r) * geoIw r + (x - geoPadX r)) * recStep r + 64 * cb)

/-- The offset of block `j` of B column `n`. -/
def bBlockAt (r : List Byte) (n j : Nat) : Option Nat :=
  if recRows r ≤ n || recKblk r ≤ j then none else some (recBase r + n * recStep r + 64 * j)

/-! ### Blocks (R124 to R126, R128) -/

/-- A block as the engine uses it: its format and scale bytes and its payload, or all-zero. -/
inductive Tile where
  | zero
  | data (fmt : Nat) (scale : Int) (pay : List Byte)
  deriving DecidableEq, Repr

/-- 64 bytes as a block. -/
def toTile (bs : List Byte) : Tile :=
  let sc := (bs.getD 1 0).toNat
  if sc = 0x80 then .zero else .data (bs.getD 0 0).toNat (sextNat sc 8) (bs.drop 2)

/-- Whether a block has a valid format (R126). -/
def tileOk : Tile → Bool
  | .zero => true
  | .data f _ _ => f / 16 ≤ 4 && bits f 3 2 = 0 && (f / 16 = 2 || f % 4 = 0)

/-- The element width of a format byte. -/
def tileWidth (f : Nat) : Nat := if f / 16 = 2 then 4 else if f / 16 = 3 then 16 else 8

/-- Whether two blocks may pair (R128). -/
def tilesPair (i32 : Bool) (x y : Tile) : Bool :=
  match x, y with
  | .data f sx _, .data g sy _ =>
    tileWidth f = tileWidth g &&
      (!i32 || (sx = 0 && sy = 0 && ((f = 0x40 && g = 0x40) || (f = 0x20 && g = 0x20))))
  | _, _ => true

/-- The elements of a block's payload (R125). -/
def tileElems (f : Nat) (pay : List Byte) : List Num :=
  match f / 16 with
  | 0 => pay.map (fun b => decodeFp e4m3 b.toNat)
  | 1 => pay.map (fun b => decodeFp e5m2 b.toNat)
  | 2 =>
    let k : Nib := match f % 4 with | 0 => .i4 | 1 => .e2m1 | 2 => .p4 | _ => .h4
    pay.flatMap (fun b => [nibValue k (b.toNat % 16), nibValue k (b.toNat / 16)])
  | 3 => (elements 2 31 pay).map (decodeFp bf16)
  | _ => pay.map (fun b => numInt b.toInt)

/-- The exact sum of products of two paired blocks, scaled (R129); none when one is all-zero. -/
def tileSum (x y : Tile) : Option Num :=
  match x, y with
  | .data f sx px, .data g sy py =>
    let ps := List.zipWith (fun a b => (numMul a b).1) (tileElems f px) (tileElems g py)
    some (numScale (sumTerms .rne ps).1 (sx + sy))
  | _, _ => none

/-- One FP32 accumulation (R129, R130). -/
def accumulate (acc : Word) (p : Num) : Word :=
  w32 (roundFp fp32 .rne false (numAdd .rne (decodeFp fp32 acc.toNat) p).1).1

/-- One INT32 accumulation (R130). -/
def accumulateInt (acc : Word) (p : Num) : Word :=
  match p with
  | .fin neg n d => acc + wInt (sgn neg (n / d))
  | _ => acc

/-- Row `as` of A against column `bs` of B, block by block, then the side path's term (R129, R130). -/
def mmaElement (i32 : Bool) (acc : Word) (as bs : List Tile) (side : Option Num) : Word :=
  let acc := (List.zip as bs).foldl (fun a p =>
    match tileSum p.1 p.2 with
    | some v => if i32 then accumulateInt a v else accumulate a v
    | none => a) acc
  match side with
  | some o => accumulate acc o
  | none => acc

/-! ### MMA (R212 to R217, R222, R229) -/

/-- The rows of a group that its active lanes own. -/
def activeRows (active : List LaneId) (l : LaneId) : List Nat := (active.filter (sameGroup l)).map lidxOf

/-- Whether R216 accepts the offset of a record. -/
def recordPlaced (t : Team) (off : Nat) : Bool := off % 32 = 0 && !bit off 23 && off + 32 ≤ t.scr

/-- A cause in which the fill of a scratchpad range's stash ends for a lane, with its address. -/
def rangeFault (s : State) (l : LaneId) (tm : Nat) (t : Team) (side off n : Nat) : Option (Nat × Nat) :=
  match rangeAct s l tm t side off n with
  | some (.fault c va _, _) => some (c, va)
  | _ => none

/-- R216, step 3: a fetched block as it is checked. A block with a damaged format or scale byte, or whose format and scale bytes cannot be
filled, is read as zero (R225, R226), and is not checked. -/
def checkBlock (s : State) (l : LaneId) (tm : Nat) (t : Team) (side off : Nat) : Tile :=
  let gone (o : Nat) : Bool := engineBad t side o || (!byteHeld t side o && (rangeFault s l tm t side o 1).isSome)
  if gone off || gone (off + 1) then .zero else toTile (peek s tm t side off 64)

/-- The offsets of the blocks that an operation fetches (R215, R219). -/
def aBlocks (a : List Byte) (unf : Bool) (rows : List Nat) : List (Nat × Nat) :=
  rows.flatMap (fun m => (List.range 8).filterMap (fun j => (aBlockAt a unf m j).map (fun off => (j, off))))
def bBlocks (b : List Byte) : List (Nat × Nat) :=
  (List.range 16).flatMap (fun n => (List.range 8).filterMap (fun j => (bBlockAt b n j).map (fun off => (j, off))))

/-- A record read for R216: what keeps it from being read or checked, or its bytes. A record whose stash fill ends in a cause reads as zero,
which R216 refuses, and the cause comes asynchronously (R225, R390; log entry 89); a damaged byte is taken as it stands (log entry 89). -/
def recordRead (s : State) (l : LaneId) (tm : Nat) (t : Team) (side off : Nat) : Except (Act × Nat) (List Byte) :=
  if !recordPlaced t off then .error (.fault 8 off 0, off)
  else match rangeAct s l tm t side off 32 with
    | some (.fault _ _ _, _) => .ok (peek s tm t side off 32)
    | some a => .error a
    | none => .ok (peek s tm t side off 32)

/-- The first block that R216 has to wait for. -/
def blockWait (s : State) (l : LaneId) (tm : Nat) (t : Team) (side : Nat) (offs : List Nat) : Option (Act × Nat) :=
  offs.findSome? (fun off =>
    match rangeAct s l tm t side off 64 with
    | some (.fault _ _ _, _) => none
    | r => r)

/-- R216 for one operation, for lane `l` of its group: none when it passes, else what the lane does and the offset whose stash sector that
concerns. Where a table row names no single record (a wrong pairing, INT32 with OUTL), TADDR is the B record's offset (log entry 88). -/
def mmaCheck (s : State) (l : LaneId) (tm : Nat) (t : Team) (side ra rb : Nat) (i32 outl unf : Bool) (rows : List Nat) : Option (Act × Nat) :=
  match recordRead s l tm t side ra with
  | .error a => some a
  | .ok a =>
    if !aRecordOk a unf t.scr then some (.fault 8 ra 0, ra)
    else match recordRead s l tm t side rb with
      | .error b => some b
      | .ok b =>
        if !bRecordOk b outl (recRows a) t.scr then some (.fault 8 rb 0, rb)
        else if i32 && outl then some (.fault 9 rb 0, rb)
        else match blockWait s l tm t side ((aBlocks a unf rows ++ bBlocks b).map (·.2)) with
          | some w => some w
          | none =>
            let ta := (aBlocks a unf rows).map (fun x => (x.1, checkBlock s l tm t side x.2))
            let tb := (bBlocks b).map (fun x => (x.1, checkBlock s l tm t side x.2))
            if ta.any (fun x => !tileOk x.2) then some (.fault 9 ra 0, ra)
            else if tb.any (fun x => !tileOk x.2) then some (.fault 9 rb 0, rb)
            else if ta.any (fun x => tb.any (fun y => x.1 = y.1 && !tilesPair i32 x.2 y.2)) then some (.fault 9 rb 0, rb)
            else none

/-- The wave slot that a lane sits in. -/
def laneSlot (s : State) (l : LaneId) : Nat :=
  match l with | .wave g i => ((group? s g).map (laneSeat · i)).getD 0 | _ => 0

/-- Whether a wave slot's holder holds the slate of its quadrant. -/
def holdsSlate (s : State) (k : Nat) : Bool := (quadOf s (slotCore k) (slotQuad k)).slate = some (slotHolder s k)

/-- Whether a slot's holder first takes its slate back (R230). -/
def mustReclaim (s : State) (k : Nat) : Bool := ((slot? s (slotHolder s k)).map (·.reclaim)).getD false

/-- R216 for the operation of a lane's group. -/
def laneCheck (s : State) (active : List LaneId) (l : LaneId) (i32 outl unf : Bool) (ra rb : Nat) : Option (Act × Nat) :=
  match team? s (laneTeam s l) with
  | none => none
  | some t => mmaCheck s l (laneTeam s l) t (laneSide s l) ra rb i32 outl unf (activeRows active l)

/-- MMA's decision for a lane: its checks come first, and then it waits for the slate (R216, R229). -/
def mmaAct (s : State) (active : List LaneId) (l : LaneId) (i32 outl unf : Bool) (ra rb : Nat) : Act :=
  match laneCheck s active l i32 outl unf ra rb with
  | some a => a.1
  | none => if holdsSlate s (laneSlot s l) then .done [] 0 none else .wait

/-- What an absent page that the checks meet leaves behind: its service begins; a record whose stash fill ends in a cause leaves that cause
pending for the wave (R225). -/
def mmaNote (active : List LaneId) (l : LaneId) (i32 outl unf : Bool) (ra rb : Nat) (s : State) : State :=
  let tm := laneTeam s l
  match laneCheck s active l i32 outl unf ra rb with
  | some (.fault 8 off _, _) =>
    match (team? s tm).bind (fun t => if recordPlaced t off then rangeFault s l tm t (laneSide s l) off 32 else none) with
    | some c => addAsync s (laneSlot s l) tm c.1 c.2
    | none => s
  | some a => fillNote l tm (laneSide s l) a.2 s
  | none => s

/-- The operation of one group enters its quadrant's matrix queue, and its accumulators become empty (R223). -/
def mmaEnter (i32 outl unf acc : Bool) (d : Reg) (active : List LaneId) (l : LaneId) (ra rb : Nat) (s : State) : State :=
  match l with
  | .wave g _ =>
    let k := laneSlot s l
    let ls := active.filter (sameGroup l)
    let ins := if acc then ls.map (fun m => (lidxOf m, (List.range 16).map (fun n => laneElem s m (d.toNat + n)))) else []
    let id := s.nextTag
    let dests := ls.flatMap (fun m => (List.range 16).map (fun n => (m, d.toNat + n, (0 : Word), false)))
    let side := laneSide s l
    let tm := laneTeam s l
    let rec_ (off : Nat) : List Byte := match team? s tm with | some t => peek s tm t side off 32 | none => []
    let a := rec_ ra
    let b := rec_ rb
    let s := post (acquireLane s l .team) .matrix dests
    modQuad s (slotCore k) (slotQuad k) (fun q => { q with mq := q.mq ++
      [{ id := id, group := g, side := side, i32 := i32, outl := outl, unf := unf, acc := acc, d := d.toNat, ra := a, rb := b,
         lanes := maskOf (ls.map lidxOf), accIn := ins }] })
  | _ => s

/-- The holder of a slot takes its quadrant's slate. -/
def takeSlate (s : State) (k : Nat) : State :=
  let h := slotHolder s k
  modSlot (modQuad s (slotCore k) (slotQuad k) (fun q => { q with slate := some h, waiters := q.waiters.filter (· ≠ h) })) h
    (fun x => { x with reclaim := false })

/-- Whether the slate is free for a slot's holder to take, or held by it already (R229). -/
def slateOpen (s : State) (k : Nat) : Bool :=
  let q := quadOf s (slotCore k) (slotQuad k)
  q.slate = some (slotHolder s k) || (q.slate = none && (q.waiters.isEmpty || q.waiters.head? = some (slotHolder s k)))

/-- A slice waits for the slate, its holder behind the earlier waiters. -/
def awaitSlate (s : State) (g n : Nat) : State :=
  let k := laneSlot s (.wave g (4 * n))
  let h := slotHolder s k
  waitSlice .slate (modQuad s (slotCore k) (slotQuad k) (fun q =>
    if q.waiters.contains h then q else { q with waiters := q.waiters ++ [h] })) g n

/-- R230: a holder that is placed again takes its slate back before its first MMA or MPASS; true when the instruction must wait. -/
def reclaimFirst (s : State) : Bool :=
  match s.focus with
  | .wave k _ => mustReclaim s k && !slateOpen s k
  | _ => false

/-- The slate taken back, where that is due and possible. -/
def reclaimNow (s : State) : State :=
  match s.focus with
  | .wave k _ => if mustReclaim s k then takeSlate s k else s
  | _ => s

/-- Every slice of the issuing gang waits for the slate. -/
def gangAwaits (s : State) : State :=
  match s.focus with
  | .wave k gang => (gangSlices s k gang).foldl (fun s e => awaitSlate s e.1 e.2) s
  | _ => s

/-- The meaning of MMA for the lanes of an issue. -/
def mmaEntry (s : State) (active : List LaneId) (i32 outl unf acc : Bool) (d a b : Reg) : Entry :=
  let ra (vs : List Word) := (val vs 0).toNat
  let rb (vs : List Word) := (val vs 1).toNat
  { form := { plainForm false with srcs := [srcOne 0 a false, srcOne 1 b false] },
    legal := fun _ => true,
    plan := fun l vs => mmaAct s active l i32 outl unf (ra vs) (rb vs),
    note := fun l vs t => if leadLane active l = l then mmaNote active l i32 outl unf (ra vs) (rb vs) t else t,
    eff := fun l vs t => if leadLane active l = l then mmaEnter i32 outl unf acc d active l (ra vs) (rb vs) t else t,
    branch := false }

/-- Whether a lane's outcome is one kind or another. -/
def actWaits : Act → Bool | .wait => true | _ => false
def actFaults : Act → Bool | .fault _ _ _ => true | _ => false

/-- The lanes of an issue that pass every check, though they may wait for the slate. -/
def mmaPassing (s : State) (e : Entry) (active : List LaneId) (i32 outl unf : Bool) (as : List (LaneId × Act)) : List LaneId :=
  (as.filter (fun x => (actWaits x.2 || x.2 = .done [] 0 none) &&
    (let vs := laneVals s e.form active x.1
     (laneCheck s active x.1 i32 outl unf (val vs 0).toNat (val vs 1).toNat).isNone))).map (·.1)

/-- What the lanes that fail the checks of R216 leave pending for their waves (R225). -/
def failNotes (s : State) (e : Entry) (active : List LaneId) (as : List (LaneId × Act)) : State :=
  (as.filter (fun x => match x.2 with | .fault 8 _ _ => true | _ => false)).foldl (fun t x => e.note x.1 (laneVals s e.form active x.1) t) s

/-- The lanes that fail their checks take their causes, while the other groups of the gang wait (R216, R229). -/
def settleFailing (s : State) (e : Entry) (active : List LaneId) (as : List (LaneId × Act)) : State :=
  let failing := as.filter (fun x => actFaults x.2)
  if failing.isEmpty then s else finish (failNotes s e active as) e (failing.map (·.1)) failing

/-- The slices of some lanes of the issuing wave wait for the slate. -/
def lanesAwait (s : State) (ls : List LaneId) : State :=
  (bySlice (ls.map (fun l => (l, Act.wait)))).foldl (fun s p => awaitSlate s p.1.1 p.1.2) s

/-- MMA (R212, R216, R222, R223, R229, R230, R390). Its operands are awaited first; then an absent page holds the whole issue back (R159); then
groups whose checks fail trap. A holder that is placed again takes its slate back first, if a group passes. -/
def execMma (i32 bq outl unf acc : Bool) (d a b : Reg) (s : State) : Host.Outcome State Fault Refusal :=
  let active := activeLanes s s.focus
  let e := mmaEntry s active i32 outl unf acc d a b
  let i := Instr.mma i32 bq outl unf acc d a b
  let as := actsOf s e (wordOf i) active
  if active.isEmpty then .fault .noIssuer
  else if active.any (fun l => legalFor s e l && commonAct s e.form active l = some .wait) then .next s
  else
    let away := as.filter (fun x => x.2 = .swap)
    if !away.isEmpty then .next (finish s e active away)
    else
      let ok := mmaPassing s e active i32 outl unf as
      let s' := if reclaimFirst s || ok.isEmpty then s else reclaimNow s
      if reclaimFirst s && !ok.isEmpty then .next (lanesAwait (settleFailing s e active as) ok)
      else
        let e' := mmaEntry s' active i32 outl unf acc d a b
        let as' := actsOf s' e' (wordOf i) active
        if as'.any (fun x => actWaits x.2) then .next (settleFailing s e active as)
        else .next (finish (failNotes s' e' active as') e' active as')

/-! ### MATRIX_OPERATION -/

/-- Whether a lane of a wave has exited: a result in flight to it is discarded on arrival (R361). -/
def laneExited (s : State) (g i : Nat) : Bool := (group? s g).any (fun x => x.exited.getLsbD i)

/-- One lane's element that a result lands in, when it still awaits it; an h register is looked for in every frame. An element whose line
lies in the register image is filled there too (R70). -/
def landElem (s : State) (id : Nat) (l : LaneId) (r : Nat) (v : Word) (bad : Bool) : State :=
  match l with
  | .wave g i =>
    if laneExited s g i then s
    else if r < 56 then
      (if laneElem s l r = .empty id then
        match group? s g with
        | some x => landImage (setLaneElem s l r (.full v bad)) (laneSeat x i) r (lanePos x i) (.full v bad)
        | none => s
       else s)
    else modSlice s g (i / 4) (fun c => { c with frames := c.frames.map (fun f =>
      if regElem f.hregs (r - 56) i = .empty id then { f with hregs := setRegElem f.hregs (r - 56) i (.full v bad) } else f) })
  | _ => if laneElem s l r = .empty id then setLaneElem s l r (.full v bad) else s

/-- Accumulator inputs that await the result take it (R223). -/
def landInputs (s : State) (id g i r : Nat) (v : Word) (bad : Bool) : State :=
  { s with units := { s.units with cores := s.units.cores.map (fun e => (e.1, { e.2 with quads := e.2.quads.map (fun q =>
      { q with mq := q.mq.map (fun o =>
          if o.group = g then
            { o with accIn := o.accIn.map (fun x =>
                if x.1 = i then (x.1, x.2.zipIdx.map (fun y => if y.1 = .empty id && o.d + y.2 = r then .full v bad else y.1)) else x) }
          else o) }) })) } }

/-- A posted result lands: every destination that still awaits it fills (R56 to R58), and its group may end (R43). -/
def landPosted (s : State) (p : Posted) : State :=
  let s := noteReply { s with posted := s.posted.filter (fun q => q.id != p.id) } p
  let s := p.dests.foldl (fun s d =>
    let s := landElem s p.id d.1 d.2.1 d.2.2.1 d.2.2.2
    match d.1 with
    | .wave g i => landInputs s p.id g i d.2.1 d.2.2.1 d.2.2.2
    | _ => s) s
  let gs := sortNat (p.dests.filterMap (fun d => match d.1 with | .wave g _ => some g | _ => none))
  gs.foldl tryEndGroup s

/-- A damaged element of an operand: operand, row, column, block, element and byte offset (R226). -/
structure Damage where
  opnd : Nat
  row : Nat
  col : Nat
  blk : Nat
  elem : Nat
  off : Nat
  deriving DecidableEq, Repr

/-- A block as read at its turn, with damaged elements as +0, and its damage (R226). The format byte of a block whose SCALE byte is 0x80 is not
read (R126). -/
def readTile (t : Team) (side : Nat) (opnd row col blk : Nat) (at_ : Option Nat) : Tile × List Damage :=
  match at_ with
  | none => (.zero, [])
  | some off =>
    let bs := engineRead t side off 64
    let hurt (i : Nat) : Bool := engineBad t side (off + i)
    let mk (e i : Nat) : Damage := ⟨opnd, row, col, blk, e, off + i⟩
    if hurt 1 then (.zero, (if hurt 0 then [mk 127 0] else []) ++ [mk 127 1])
    else match toTile bs with
      | .zero => (.zero, [])
      | .data f sc pay =>
        if hurt 0 then (.zero, [mk 127 0])
        else
          let w := tileWidth f
          let bad := (List.range 62).filter (fun i => hurt (2 + i))
          let elemOf (i : Nat) : Nat := if w = 4 then 2 * i else if w = 16 then i / 2 else i
          let mend := (List.range 62).map (fun i =>
            if bad.any (fun k => elemOf k = elemOf i) then (0 : Byte) else pay.getD i 0)
          (.data f sc mend, bad.map (fun i => mk (elemOf i) (2 + i)))

/-- A side array's row or column: `n` BF16 values, with their damage. -/
def readSide (t : Team) (side opnd row col off n : Nat) : List Num × List Damage :=
  let one (k : Nat) : Num × List Damage :=
    let o := off + 2 * k
    if engineBad t side o || engineBad t side (o + 1) then
      (.fin false 0 1, [⟨opnd, row, col, 0, k, if engineBad t side o then o else o + 1⟩])
    else (decodeFp bf16 (leNat (engineRead t side o 2)), [])
  let es := (List.range n).map one
  (es.map (·.1), es.flatMap (·.2))

/-- The scratchpad ranges that an operation reads (R215, R219, R221). -/
def mmaRanges (o : MatOp) : List (Nat × Nat) :=
  let rows := lanesOf o.lanes
  (aBlocks o.ra o.unf rows ++ bBlocks o.rb).map (fun x => (x.2, 64)) ++
    (if o.outl then (rows.filter (· < recRows o.ra)).map (fun m => (sideA o.rb + 16 * m, 2 * sideN o.rb)) ++
        (List.range 16).map (fun n => (sideB o.rb + 16 * n, 2 * sideN o.rb))
     else [])

/-- MERRLOG0 for a damage (Table 9-5). -/
def merrWord (d : Damage) : Word :=
  w32 (2 ^ 31 + d.opnd * 2 ^ 29 + d.row * 2 ^ 16 + d.col * 2 ^ 12 + d.blk * 2 ^ 8 + d.elem)

/-- Damage noted in a group's FSTAT and logs (R226). -/
def noteDamage (s : State) (g : Nat) (ds : List Damage) : State :=
  match ds with
  | [] => s
  | d :: _ => modGroup s g (fun x =>
      let x := { x with fstat := x.fstat ||| 0x20 }
      if x.merr0.getLsbD 31 then x else { x with merr0 := merrWord d, merr1 := w32 d.off })

/-- The results of an operation, for each active row and column, and the damage met, in the order of R226. -/
def mmaResults (t : Team) (o : MatOp) : List (Nat × Nat × Word × Bool) × List Damage :=
  let a := o.ra
  let b := o.rb
  let rows := lanesOf o.lanes
  let ra := rows.map (fun m => (m, (List.range 8).map (fun j => readTile t o.side 0 m 0 j (aBlockAt a o.unf m j))))
  let rb := (List.range 16).map (fun n => (List.range 8).map (fun j => readTile t o.side 1 0 n j (bBlockAt b n j)))
  let sa := rows.map (fun m => (m, if !o.outl then ([], []) else
    if m < recRows a then readSide t o.side 2 m 0 (sideA b + 16 * m) (sideN b) else (List.replicate (sideN b) (.fin false 0 1), [])))
  let sb := (List.range 16).map (fun n => if o.outl then readSide t o.side 3 0 n (sideB b + 16 * n) (sideN b) else ([], []))
  let fix (x y : Tile) : Tile × Tile :=
    if !tileOk x || !tileOk y || !tilesPair o.i32 x y then (.zero, .zero) else (x, y)
  let out := ra.flatMap (fun r => rb.zipIdx.map (fun c =>
    let prs := List.zipWith (fun x y => fix x.1 y.1) r.2 c.1
    let acc := match o.accIn.find? (fun x => x.1 = r.1) with
      | some x => x.2.getD c.2 (.full 0 false)
      | none => .full 0 false
    let av := ((sa.find? (fun x => x.1 = r.1)).map (fun x => x.2.1)).getD []
    let bv := (sb.getD c.2 ([], [])).1
    let term := (sumTerms .rne (List.zipWith (fun x y => (numMul x y).1) av bv)).1
    match acc with
    | .full v bad => (r.1, c.2, mmaElement o.i32 v (prs.map (·.1)) (prs.map (·.2)) (if o.outl then some term else none), bad)
    | .empty _ => (r.1, c.2, 0, false)))
  (out, ra.flatMap (fun r => r.2.flatMap (·.2)) ++ rb.flatMap (fun c => c.flatMap (·.2)) ++ sa.flatMap (fun x => x.2.2) ++
    sb.flatMap (·.2))

/-- Whether an operation still awaits an accumulator input. -/
def mmaAwaits (o : MatOp) : Bool :=
  o.accIn.any (fun x => x.2.any (fun e => match e with | .empty _ => true | .full _ _ => false))

/-- The head operation of a quadrant's matrix queue performed (R222 to R226). -/
def matrixStep (s : State) (core quad : Nat) : State :=
  match (quadOf s core quad).mq with
  | [] => s
  | o :: _ =>
    let drop (s : State) := modQuad s core quad (fun q => { q with mq := q.mq.filter (fun x => x.id != o.id) })
    match group? s o.group with
    | none => drop s
    | some x =>
      match team? s x.team with
      | none => drop s
      | some t =>
        if mmaAwaits o then s
        else
          let ranges := mmaRanges o
          match ranges.findSome? (fun r => match scratchBlock s (engMatrix core quad) x.team t o.side r.1 r.2 with
              | some (.wait va acc) => some (va, acc) | _ => none) with
          | some (va, acc) => spanWait s (engMatrix core quad) (t.core + o.side) (teamPart s x.team) va acc
          | none =>
            let faults := ranges.filterMap (fun r => match scratchBlock s (engMatrix core quad) x.team t o.side r.1 r.2 with
              | some (.fault c va) => some (c, va) | _ => none)
            let s := ranges.foldl (fun s r => scratchReady s x.team o.side r.1 r.2) s
            let s := match faults with
              | f :: _ => addAsync (engDone s (teamPart s x.team) (engMatrix core quad)) (laneSeat x ((lanesOf o.lanes).headD 0)) x.team f.1 f.2
              | [] => s
            match team? s x.team with
            | none => drop s
            | some t =>
              let (out, ds) := mmaResults t o
              let p : Posted := { id := o.id, kind := .matrix,
                                  dests := out.map (fun r => (LaneId.wave o.group r.1, o.d + r.2.1, r.2.2.1, r.2.2.2)), link := none }
              tryEndTeam (landPosted (drop (noteDamage s o.group ds)) p) x.team

/-- MATRIX_OPERATION (R222 to R226). -/
def execMatrixOperation (core quad : Nat) (s : State) : Host.Outcome State Fault Refusal := .next (matrixStep s core quad)

/-! ### The slate (R227 to R230) -/

/-- MTAKE (R229, R394). -/
def execMtake (s : State) : Host.Outcome State Fault Refusal :=
  runMove s .mtake (bareEntry false)
    (fun t g n =>
      let l := LaneId.wave g (4 * n)
      let k := laneSlot s l
      if slateOpen s k then passSlice 4 (acquireLane (takeSlate t k) l .team) g n else awaitSlate t g n)
    (fun t _ => t)

/-- The slate passed by its holder: to the holder of a rank within a team, or freed (R229). -/
def passSlate (s : State) (k tm rank : Nat) : State :=
  let core := slotCore k
  let quad := slotQuad k
  match team? s tm with
  | none => s
  | some t =>
    match (if rank = 0xFFFF then none else (teamHolders s t core quad)[rank]?) with
    | some h =>
      let s := modQuad s core quad (fun q => { q with slate := some h, waiters := q.waiters.filter (· ≠ h) })
      let s := modSlot s h (fun x => { x with reclaim := false })
      { s with work := { s.work with groups := s.work.groups.map (fun e =>
          if e.2.seats.any (fun j => slotHolder s j = h) then
            (e.1, { e.2 with slices := e.2.slices.map (fun y => if y.wait = .slate then { y with wait := .none } else y) })
          else e) } }
    | none => setSlate s core quad none

/-- A team-scope release by the issuing lanes: their accesses are performed first (R171, R229). -/
def releaseLanes (s : State) (ls : List LaneId) : State := ls.foldl (fun s l => releaseLane (drainLane s l) l .team) s

/-- MPASS (R229, R394): for the issuing holder, within the team of its lowest active group. -/
def execMpass (rank : BitVec 16) (s : State) : Host.Outcome State Fault Refusal :=
  let active := activeLanes s s.focus
  let first := active.headD (.wave 0 0)
  let k := laneSlot s first
  let s' := if reclaimFirst s then s else reclaimNow s
  if reclaimFirst s && !active.isEmpty then .next (gangAwaits s)
  else
    let held := holdsSlate s' k
    runMove s' (.mpass rank) (bareEntry false)
      (fun t g n =>
        let l := LaneId.wave g (4 * n)
        let t := passSlice 4 t g n
        if held && sameGroup first l && n = lidxOf first / 4 then passSlate (releaseLanes t active) k (laneTeam t l) rank.toNat else t)
      (fun t _ => t)

/-- The first waiter for a free slate obtains it; its waiting slices issue again and find it held (R229). -/
def slateStep (s : State) (core quad : Nat) : State :=
  let q := quadOf s core quad
  match q.slate, q.waiters with
  | none, h :: _ =>
    let s := takeSlate s h
    { s with work := { s.work with groups := s.work.groups.map (fun e =>
        if e.2.seats.any (fun j => slotHolder s j = h) then
          (e.1, { e.2 with slices := e.2.slices.map (fun y => if y.wait = .slate then { y with wait := .none } else y) })
        else e) } }
  | _, _ => s

/-- SLATE_OBTAINED (R229). -/
def execSlateObtained (core quad : Nat) (s : State) : Host.Outcome State Fault Refusal := .next (slateStep s core quad)

/-! ### MPACK (R132, R231, R393) -/

/-- One element of MPACK, with its flags. -/
def packElement (f : PackFmt) (mode x c : Word) : Nat × Flags :=
  let rm := modeRm mode
  let (v, fl) := numMul (rd32 mode x) (rd32 mode c)
  let r : Nat × Flags := match f with
    | .e4m3 => roundFp8 e4m3 rm (modeSat mode) v
    | .e5m2 => roundFp8 e5m2 rm (modeSat mode) v
    | .bf16 => roundFp bf16 rm (modeFtz mode) v
    | .i8 => let k := toIntClamped rm (-128) 127 v; ((BitVec.ofInt 8 k.1).toNat, k.2)
  (r.1, flOr fl r.2)

/-- The words that MPACK writes for a lane, and the flags of its 16 elements. -/
def packWords (f : PackFmt) (mode : Word) (xs cs : List Word) : List Word × Flags :=
  let es := List.zipWith (packElement f mode) xs cs
  let bytes := es.flatMap (fun e => leBytes (if f = .bf16 then 2 else 1) e.1)
  (wordsOf bytes, (es.map (·.2)).foldl flOr 0)

/-- MPACK (R231). -/
def execMpack (fmt : PackFmt) (ea eb : Bool) (d a b : Reg) (s : State) : Host.Outcome State Fault Refusal :=
  runEntry s (.mpack fmt ea eb d a b) (pureEntry
    { plainForm false with
      srcs := (List.range 16).map (fun k => srcN 0 a k ea false) ++ (List.range 16).map (fun k => srcN 1 b k eb false) }
    (fun l vs =>
      let r := packWords fmt (laneMode s l) (vs.take 16) (vs.drop 16)
      if enabledFlags (laneMode s l) r.2 = 0 then .done (r.1.zipIdx.map (fun w => (d.toNat + w.2, w.1))) r.2 none
      else .fault 0x0B r.2 r.2))

end Sys2Proof.Machine
end

