-- ==== Sys2Proof/Machine/Place.lean ====
section
/-! DEFINITION. Room on a core, the binding of groups to wave slots, and the start of a team and its groups (R19, R20, R24, R41, R42,
R188, R189, R236, R237, R247, R249, R255). -/

namespace Sys2Proof.Machine

/-! ### Fields of a task record (Table 10-1), by its words -/

def trEntry (w : List Word) : Nat := dwordAt w 0 % 2 ^ 56
def trWidth (w : List Word) : Nat := 8 * 2 ^ bits (wordAt w 7) 1 0
def trGpt (w : List Word) : Nat := bits (wordAt w 7) 15 8
def trClass (w : List Word) : Nat := bits (wordAt w 7) 23 16
def trExt (w : List Word) : Bool := bit (wordAt w 7) 24
def trReh (w : List Word) : Bool := bit (wordAt w 7) 25
def trPair (w : List Word) : Bool := bit (wordAt w 7) 26
def trSucc (w : List Word) : Nat := dwordAt w 8
def trScr (w : List Word) : Nat := wordAt w 10
def trTmem (w : List Word) : Nat := wordAt w 11

/-- Teams of a launch (R236). -/
def trTeams (w : List Word) : Nat := if trExt w then wordAt w 4 * wordAt w 5 * wordAt w 6 else 1

/-- Coordinate of team `n` (R236). -/
def trCoord (w : List Word) (n : Nat) : Word × Word × Word :=
  if trExt w then (w32 (n % wordAt w 4), w32 (n / wordAt w 4 % wordAt w 5), w32 (n / (wordAt w 4 * wordAt w 5)))
  else (w.getD 4 0, w.getD 5 0, w.getD 6 0)

/-- Groups of a team on the even and on the odd core (R242). -/
def evenGroups (w : List Word) : Nat := if trPair w then (trGpt w + 1) / 2 else trGpt w
def oddGroups (w : List Word) : Nat := trGpt w - evenGroups w

/-- Wave slots that `n` groups of a width need on an empty core. -/
def slotsFor (n width : Nat) : Nat := if width = 64 then 2 * n else (n * width + 31) / 32

/-- Scratchpad bytes of a core (R14). -/
def scratchSize : Nat := 786432

/-- Grip contexts of a core (R188). -/
def gripContexts : Nat := 16

/-! ### Room -/

/-- The teams that have not ended on a core. -/
def coreTeams (s : State) (c : Nat) : List (Nat × Team) :=
  s.work.teams.filter (fun e => !e.2.ended && (e.2.core = c || (e.2.pair && e.2.core + 1 = c)))

/-- Free scratchpad bytes of a core, tile memory included. -/
def freeScratch (s : State) (c : Nat) : Nat := scratchSize - ((coreTeams s c).map (fun e => e.2.scr + e.2.tmem)).foldl (· + ·) 0

/-- Free grip contexts of a core. -/
def freeGrips (s : State) (c : Nat) : Nat :=
  gripContexts - ((coreTeams s c).filter (fun e => e.2.core = c && e.2.grip.isSome)).length

/-- Occupied wave slots of a core. -/
def usedSlots (s : State) (c : Nat) : List Nat := (s.work.slots.map (·.1)).filter (fun k => k < 3072 && slotCore k = c)

/-- Positions that the groups of a slot occupy. -/
def usedLanes (s : State) (k : Nat) : LMask :=
  (slotGroups s k).foldl (fun m e => m ||| maskOf ((List.range (min 32 e.2.width)).map (e.2.base + ·))) 0

/-- Slots of a launch on a core, with the positions in use. -/
def openSlots (s : State) (c launch : Nat) : Tab LMask :=
  (s.work.slots.filter (fun e => e.1 < 3072 && slotCore e.1 = c && e.2.launch = launch)).map (fun e => (e.1, usedLanes s e.1))

/-- The free slot numbers of a quadrant, as keys. -/
def freeKeys (occ : List Nat) (c q : Nat) : List Nat := ((List.range 6).map (fun n => 24 * c + 6 * q + n)).filter (fun k => !occ.contains k)

/-- `n` new slots in the quadrant with the fewest occupied ones (R249). -/
def newSlots (occ : List Nat) (c n : Nat) : Option (List Nat) :=
  match argMin (fun q => (occ.filter (fun k => slotCore k = c && slotQuad k = q)).length) (List.range 4) with
  | some q => let ks := freeKeys occ c q; if n ≤ ks.length then some (ks.take n) else none
  | none => none

/-- The lowest free aligned range of an open slot. -/
def openPlace (width : Nat) (slots : Tab LMask) : Option (Nat × Nat) :=
  slots.findSome? (fun e =>
    ((List.range (32 / width)).map (· * width)).findSome? (fun b =>
      if e.2 &&& maskOf ((List.range width).map (b + ·)) = 0 then some (e.1, b) else none))

/-- Groups bound one after another to slots of a core (R249): each group's seats and its first lane position. -/
def bindGroups (c width : Nat) : Nat → List Nat → Tab LMask → Option (List (List Nat × Nat))
  | 0, _, _ => some []
  | n + 1, occ, slots =>
    if width = 64 then
      match newSlots occ c 2 with
      | some ks => (bindGroups c width n (occ ++ ks) slots).map (fun r => (ks, 0) :: r)
      | none => none
    else
      match (if width = 32 then none else openPlace width slots) with
      | some (k, b) =>
        let m := tgetD slots k 0 ||| maskOf ((List.range width).map (b + ·))
        (bindGroups c width n occ (tput slots k m)).map (fun r => ([k], b) :: r)
      | none =>
        match newSlots occ c 1 with
        | some ks =>
          let k := ks.headD 0
          (bindGroups c width n (k :: occ) (tput slots k (maskOf (List.range width)))).map (fun r => ([k], 0) :: r)
        | none => none

/-- The groups of one side of a team bound on a core. -/
def bindSide (s : State) (c launch width n : Nat) : Option (List (List Nat × Nat)) :=
  bindGroups c width n (usedSlots s c) (openSlots s c launch)

/-- Whether a partition places teams on a core (R274, R333, R336). -/
def mayHost (s : State) (p c : Nat) : Bool :=
  c < s.units.fuses.ncore && partHasCore s p c && !(partOf s p).removing.contains c

/-- A rehearsal launch that keeps a core to itself (R251): to the end of its last team, or, when a team of it was killed, of the last one
that started. -/
def rehearsedBy (s : State) (c : Nat) : Option Nat :=
  (s.work.launches.find? (fun e => e.2.rehCore = some c && e.2.ended < (if e.2.killed then e.2.started else e.2.total))).map (·.1)

/-- A team's seats on a core, or on the pair that begins there, if it has room for it: slots, a grip context when `grip` asks for one,
and scratchpad bytes (R247, R251). -/
def roomOn (s : State) (p : Nat) (lid : Nat) (w : List Word) (grip : Bool) (c : Nat) : Option (List (List Nat × Nat)) :=
  let pair := trPair w
  let free (c : Nat) : Bool := mayHost s p c && trScr w + trTmem w ≤ freeScratch s c &&
    (match rehearsedBy s c with | some l => l = lid | none => true) &&
    (!trReh w || (coreTeams s c).all (fun e => e.2.launch = lid))
  if (pair && c % 2 = 1) || !free c || (pair && !free (c + 1)) || (grip && freeGrips s c = 0) then none
  else
    match bindSide s c lid (trWidth w) (evenGroups w), (if pair then bindSide s (c + 1) lid (trWidth w) (oddGroups w) else some []) with
    | some a, some b => some (a ++ b)
    | _, _ => none

/-- The lowest-numbered core with room. -/
def homeCore (s : State) (p lid : Nat) (w : List Word) (grip : Bool) (only : Option Nat) : Option (Nat × List (List Nat × Nat)) :=
  (match only with | some c => [c] | none => List.range s.units.fuses.ncore).findSome? (fun c =>
    (roomOn s p lid w grip c).map (fun b => (c, b)))

/-! ### Starting -/

/-- A new number for an entity. -/
def freshId (s : State) : Nat × State := (s.work.nextId, { s with work := { s.work with nextId := s.work.nextId + 1 } })

/-- Registers that task start sets (R237). -/
def startWords (w : List Word) : List (Nat × Word) :=
  ([w.getD 2 0, w.getD 3 0, w.getD 12 0, w.getD 13 0, w.getD 14 0, w.getD 15 0].zipIdx.map (fun e => (e.2, e.1))).filter (fun e => e.2 ≠ 0)

/-- Registers of a group's lanes at start. -/
def startRegs (w : List Word) (width : Nat) : Tab Elem :=
  (startWords w).flatMap (fun e => (List.range width).map (fun l => (64 * e.1 + l, Elem.full e.2 false)))

/-- A level that runs some lanes at an address. -/
def freshLevel (pc : Addr) (lanes : LMask) : Level := { pc := pc, running := lanes, pending := [], parked := [] }

/-- What a raster pass gives a group: VIEW, the lanes that start exited, its mesh or its pixel data. -/
structure Role where
  view : Word
  exited : LMask
  mesh : Option Mesh
  pix : Option Pix
  deriving DecidableEq, Repr

def computeRole : Role := { view := 0, exited := 0, mesh := none, pix := none }

/-- A group that starts in its seats. -/
def freshGroup (w : List Word) (team gidx : Nat) (seats : List Nat) (base clk : Nat) (pc : Addr) (role : Role) : Group :=
  let width := trWidth w
  { team := team, gidx := gidx, width := width, seats := seats, base := base, regs := startRegs w width, mode := 0, fstat := 0,
    merr0 := 0, merr1 := 0, view := role.view,
    slices := (List.range (width / 4)).map (fun n =>
      { prog := freshLevel pc (sliceMask n &&& ~~~role.exited), frames := [], wait := .none, gang := base / 4, redo := [], halt := none,
        stepping := false, skipBrk := none }),
    exited := role.exited, queues := [], status := .run, ended := false, mesh := role.mesh, pix := role.pix, pages := [], failed := [], fenced := 0,
    startClk := clk, spent := [], quiet := clk }

/-- Active waves of a quadrant (R72). -/
def activeCount (s : State) (c q : Nat) : Nat :=
  (s.work.slots.filter (fun e => e.1 < 3072 && slotCore e.1 = c && slotQuad e.1 = q && e.2.active)).length

/-- A wave slot that a group enters, taken by its launch if it is free: it enters the active set when a place is free (R249). Lines of a slot
in use are read back from its image before the group's registers are set. -/
def openSlot (s : State) (k launch : Nat) : State :=
  let clk := (coreOf s (slotCore k)).clk
  let room := activeCount s (slotCore k) (slotQuad k) < 2
  match slot? s k with
  | some x =>
    let s := fetchLines s k
    if x.active || !room then s else modSlot s k (fun x => { x with active := true, since := clk, readyAt := clk })
  | none =>
    let (id, s) := freshId (clearPlace s k)
    let x : Slot := { launch := launch, retired := 0, lastGang := 7, asyncs := [], active := room, since := clk, readyAt := clk, order := id,
                      sleepTurns := 0, reclaim := false, map := [], lastNamed := 7, rob := [], stored := [], cached := [] }
    { s with work := { s.work with slots := tput s.work.slots k x } }

/-- The gangs of slots in which groups have just started: groups that start together in a new slot form one gang, and a group bound
into a slot in use forms its own (R24). -/
def startGangs (s : State) (gs : List Nat) (old : List Nat) : State :=
  gs.foldl (fun s g => modGroup s g (fun x =>
    { x with slices := x.slices.zipIdx.map (fun e =>
        { e.1 with gang := if old.contains (laneSeat x (4 * e.2)) then x.base / 4 else 0 }) })) s

/-- A team starts on a core in given seats (R41, R42, R189, R237); `role` says what each of its groups is in a raster pass. A slate that a
running launch holds there stays held (R228, log entry 95). -/
def startTeam (s : State) (lid : Nat) (l : Launch) (no : Nat) (coord : Word × Word × Word) (c : Nat) (seats : List (List Nat × Nat))
    (role : Role) (grip : Bool) : State :=
  let w := l.words
  let (tid, s) := freshId s
  let gids := (List.range seats.length).map (fun n => s.work.nextId + n)
  let old := s.work.slots.map (·.1)
  let s := { s with work := { s.work with nextId := s.work.nextId + seats.length } }
  let s := (seats.flatMap (·.1)).foldl (fun s k => openSlot s k lid) s
  let s := ((gids.zip seats).zipIdx).foldl (fun s e =>
    let clk := (coreOf s (slotCore (e.1.2.1.headD 0))).clk
    setGroup s e.1.1 (freshGroup w tid e.2 e.1.2.1 e.1.2.2 clk l.exec role)) s
  let s := startGangs s gids old
  let ctx : Grip :=
    { regs := (startWords w).map (fun e => (e.1, Elem.full e.2 false)), pc := l.access, ended := false, stopped := false,
      stepping := false, skipBrk := none, pend := none, halt := none, retired := 0, readyAt := (coreOf s c).clk, sleepUntil := 0,
      sleepTurns := 0, pages := [], failed := [], fenced := false }
  let t : Team :=
    { launch := lid, no := no, tx := coord.1, ty := coord.2.1, tz := coord.2.2, core := c, lcore := c, pair := trPair w, scr := trScr w,
      tmem := trTmem w, groups := gids, scratch := [], bad := [], windows := [], grip := if grip then some ctx else none,
      stopped := false, killed := false, ended := false, stashErr := false, resizeAt := none, rszHeld := false, moving := none,
      doomed := false }
  modLaunch (setTeam (freshL1 s c (trPair w)) tid t) lid (fun l => { l with started := l.started + 1 })

/-- Whether a launch's kernel has an access slice (R107): its address is the kernel's own when it has none. -/
def launchGrip (l : Launch) : Bool := l.access ≠ l.exec - 8

/-! ### Clusters (R255) -/

/-- What a dispatch to a core meets: whether its cluster's clock runs; a gate sequence that has begun and does not commit in this cycle or
earlier is cancelled, and a stopped cluster begins to wake. -/
def wakeFor (s : State) (c : Nat) : Bool × State :=
  let cl := c / 4
  let x := clusterOf s cl
  match x.gate with
  | .on => (true, s)
  | .seq since =>
    if x.clk < since + 256 then (true, setCluster s cl { x with gate := .on, idleAt := x.clk })
    else (false, setCluster s cl { x with gate := .waking })
  | .off => (false, setCluster s cl { x with gate := .waking })
  | .waking => (false, s)

end Sys2Proof.Machine
end

