-- ==== Sys2Proof/Machine/Tasks.lean ====
section
/-! DEFINITION. Task queues: TSPAWN and TSUCC, enqueues, dispatch, and the completion of a launch (R185, R235 to R249, R422, R458). -/

namespace Sys2Proof.Machine

/-! ### Queue descriptors (Table 10-3) -/

/-- A queue descriptor as read. -/
structure QDesc where
  head : Nat
  tail : Nat
  cap : Nat
  quant : Nat
  base : Nat
  rsv : Nat
  en : Bool
  nref : Nat
  deriving DecidableEq, Repr

def parseDesc (raster : Bool) (bs : List Byte) : QDesc :=
  let w := wordsOf bs
  let cap := wordAt w 2
  let quant := wordAt w 3
  { head := wordAt w 0, tail := wordAt w 1, cap := cap, quant := quant, base := dwordAt w 4, rsv := wordAt w 6,
    en := bit (wordAt w 7) 0 && powTwo cap (2 ^ 20) && (if raster then quant = 0 else 1 ≤ quant && quant ≤ 2 ^ 31),
    nref := wordAt w 8 }

/-- What the dispatcher finds at a descriptor: it can use it, or the descriptor counts as disabled, or its page is waited for. -/
inductive DescState where
  | ok (d : QDesc)
  | bad
  | absent
  | wait (va : Nat)
  deriving DecidableEq, Repr

/-- A device read of a record of the dispatcher, with the engine number 0 for failed reads (R458). -/
def ownRead (s : State) (p va n : Nat) (a : Acc) : DevRead :=
  match devRead s p va n a with
  | .wait e => if engFailed s p 0 e then .fault 4 else .wait e
  | r => r

/-- The device waits for a page (R458). -/
def ownWait (s : State) (p va : Nat) (a : Acc) : State := spanWait s 0 0 p va a

/-- The descriptor that a queue is dispatched from: that of a task queue's record which has been taken, and else the table's (R256). -/
def queueDesc (s : State) (p : Nat) (raster : Bool) (q : Nat) : Option Nat :=
  match (if raster then none else (tget? (partOf s p).heads q).bind (fun h => launch? s h.launch)) with
  | some l => l.desc
  | none => descAddr s p raster q

/-- A descriptor read at its address. -/
def descAt (s : State) (p : Nat) (raster : Bool) (at? : Option Nat) : DescState :=
  match at? with
  | none => .absent
  | some va =>
    match ownRead s p va 64 .rw with
    | .ok bs => .ok (parseDesc raster bs)
    | .fault _ => .bad
    | .wait _ => .wait va

/-- The descriptor of the table, which producers use. -/
def readDesc (s : State) (p : Nat) (raster : Bool) (q : Nat) : DescState := descAt s p raster (descAddr s p raster q)

/-- The descriptor that the dispatcher uses. -/
def headDesc (s : State) (p : Nat) (raster : Bool) (q : Nat) : DescState := descAt s p raster (queueDesc s p raster q)

/-- A descriptor of a queue that is enabled. -/
def enabledDesc (s : State) (p : Nat) (raster : Bool) (q : Nat) : Option QDesc :=
  match readDesc s p raster q with
  | .ok d => if d.en then some d else none
  | _ => none

def backlogged (d : QDesc) : Bool := d.en && d.tail ≠ d.head

/-- The read of a queue's TAIL is a system-scope acquire (R178, R185). The first failure of a descriptor after each write of the table
address is reported (R240). -/
def noteDesc (s : State) (p : Nat) (raster : Bool) (q : Nat) : State :=
  let k := if raster then 16 + q else q
  let s := match descAddr s p raster q with | some va => devPromote s p va | none => s
  match readDesc s p raster q with
  | .bad =>
    if (partOf s p).badDesc.contains k then s
    else
      let s := engDone (modPart s p (fun x => { x with badDesc := insertNat k x.badDesc })) p 0
      raiseEvent s (eventRec 2 p (if raster then 1 else 0) q 11 0 0 0xFFFFFFFF 0 0)
  | .wait va => ownWait s p va .rw
  | _ => s

/-- A field of a descriptor written at system scope. -/
def putDesc (s : State) (p : Nat) (at? : Option Nat) (off v : Nat) : State :=
  match at? with
  | some va => devPut s p (va + off) 4 (v % 2 ^ 32)
  | none => s

/-- A refusal recorded in its descriptor, in the order RIDX, RCODE, NREF, REF, and reported by an event (R240); a descriptor that cannot
be written leaves the event alone. -/
def writeRefusal (s : State) (p : Nat) (r : Refused) : State :=
  let s := match descAt s p r.raster r.desc, r.desc with
    | .ok d, some va =>
      let s := putDesc s p r.desc 36 r.ridx
      let s := putDesc s p r.desc 40 r.code
      let s := putDesc s p r.desc 32 (d.nref + 1)
      putDesc s p r.desc 28 (devNum s p (va + 28) 4 ||| 2)
    | _, _ => s
  raiseEvent (engDone s p 0) (eventRec 2 p (if r.raster then 1 else 0) r.queue r.code r.cls 0 r.ridx 0 0)

/-- The oldest refusal still to be recorded is recorded, unless its descriptor's page is waited for (R458). -/
def refusalStep (s : State) (p : Nat) : State :=
  match (partOf s p).refusals with
  | [] => s
  | r :: rest =>
    match descAt s p r.raster r.desc with
    | .wait va => ownWait s p va .rw
    | _ => writeRefusal (modPart s p (fun x => { x with refusals := rest })) p r

/-- A refusal is recorded after those before it. -/
def recordRefusal (s : State) (p : Nat) (r : Refused) : State :=
  refusalStep (modPart s p (fun x => { x with refusals := x.refusals ++ [r] })) p

/-- A refusal of a task queue's record. -/
def refuseTask (s : State) (p : Nat) (at? : Option Nat) (q ridx code cls : Nat) : State :=
  recordRefusal s p { desc := at?, raster := false, queue := q, ridx := ridx, code := code, cls := cls }

/-- A refusal of a raster queue's record (R279). -/
def refuseRaster (s : State) (p q ridx code : Nat) : State :=
  recordRefusal s p { desc := descAddr s p true q, raster := true, queue := q, ridx := ridx, code := code, cls := 0 }

/-! ### Enqueues (R241) -/

/-- The address of slot `k`. -/
def slotAddr (d : QDesc) (k : Nat) : Nat := d.base + 64 * (k % d.cap)

/-- What one enqueue under way does next. -/
inductive EnqStep where
  | refuse
  | reserve (k : Nat)
  | write (k : Nat) (d : QDesc)
  | publish (k : Nat)
  | fail (k : Nat)
  | wait
  | page (va : Nat) (a : Acc)
  deriving DecidableEq, Repr

/-- The next step of an enqueue. -/
def enqNext (s : State) (e : EnqOp) : EnqStep :=
  let q := trClass e.words
  if 15 < q then (if e.slot.isNone then .refuse else .wait)
  else match readDesc s e.part false q with
    | .wait va => .page va .rw
    | .bad | .absent => if e.slot.isNone then .refuse else .wait
    | .ok d =>
      match e.slot with
      | none => if d.en then .reserve d.rsv else .refuse
      | some k =>
        if e.written then (if d.tail = k then .publish k else .wait)
        else if e.failed || d.cap ≤ (k + 2 ^ 32 - d.head) % 2 ^ 32 then .wait
        else match translate s 0 e.part (slotAddr d k) .w with
          | .ok _ _ => .write k d
          | .wait entry => if engFailed s e.part 0 entry then .fail k else .page (slotAddr d k) .w
          | .hold => .wait
          | .fault _ | .noFrame => .fail k

/-- Whether an earlier enqueue into the same queue has not reserved its slot (R243). -/
def enqBehind (es : List EnqOp) (n : Nat) : Bool :=
  match es[n]? with
  | some e => e.slot.isNone && (es.take n).any (fun f => f.slot.isNone && trClass f.words = trClass e.words)
  | none => true

/-- The enqueues of a partition that can go on, in order. -/
def enqReady (s : State) (p : Nat) : Option (Nat × EnqOp × EnqStep) :=
  let es := (partOf s p).enqs
  (List.range es.length).findSome? (fun n =>
    if enqBehind es n then none
    else (es[n]?).bind (fun e => match enqNext s e with | .wait => none | st => some (n, e, st)))

/-- A record in its slot is published once the earlier slots are; its enqueue is over. -/
def publishRecord (s : State) (p n k : Nat) (e : EnqOp) : State :=
  modPart (putDesc s p (descAddr s p false (trClass e.words)) 4 (k + 1)) p (fun x => { x with enqs := x.enqs.eraseIdx n })

/-- A record written to its slot, and published when it is the next one. -/
def writeRecord (s : State) (p n k : Nat) (d : QDesc) (e : EnqOp) : State :=
  let e := { e with written := true }
  let s := modPart ((devWrite s p (slotAddr d k) (bytesOf e.words)).getD s) p (fun x => { x with enqs := x.enqs.set n e })
  match enqNext s e with
  | .publish k => publishRecord s p n k e
  | _ => s

/-- One step of a partition's enqueues: a record whose queue is not enabled is refused, else it takes a slot; once the queue has room the
record is written, and once the earlier slots are published it is published. -/
def enqueueStep (s : State) (p : Nat) : State :=
  if !s.units.ready.getLsbD 4 then s
  else
  match enqReady s p with
  | none => refusalStep s p
  | some (n, e, st) =>
    let q := trClass e.words
    match st with
    | .refuse =>
      let s := noteDesc s p false (min q 15)
      refuseTask (modPart s p (fun x => { x with enqs := x.enqs.eraseIdx n })) p (descAddr s p false 0) 0 0xFFFFFFFF 7 q
    | .reserve k =>
      let f := { e with slot := some k }
      let s := putDesc (modPart s p (fun x => { x with enqs := x.enqs.set n f })) p (descAddr s p false q) 24 (k + 1)
      match enqNext s f with
      | .write k d => writeRecord s p n k d f
      | _ => s
    | .write k d => writeRecord s p n k d e
    | .publish k => publishRecord s p n k e
    | .fail k =>
      raiseEvent (engDone (modPart s p (fun x => { x with enqs := x.enqs.set n { e with failed := true } })) p 0)
        (eventRec 2 p 0 q 12 0 0 k 0 0)
    | .wait => s
    | .page va a => ownWait s p va a

/-- DEVICE_ENQUEUE: a step of the enqueues of partition `n` (R241, R243). -/
def execDeviceEnqueue (n : Nat) (s : State) : Host.Outcome State Fault Refusal := .next (enqueueStep s n)

/-! ### TSPAWN and TSUCC (R242) -/

/-- The checks of TSPAWN and TSUCC, a page that a release of the stash meets absent among them. -/
def taskAct (s : State) (l : LaneId) (succ : Bool) (x : Nat) : Act :=
  if 2 ^ 56 ≤ x then .fault 4 x 0
  else if x % (if succ then 128 else 64) ≠ 0 then .fault 6 x 0
  else transAct (laneTrans s l x (if succ then .rw else .r)) x
    (afterRing s l (if (releaseAbsent s l .dev true).isSome then .swap else .done [] 0 none))

/-- What a lane that waits leaves behind. -/
def taskNote (l : LaneId) (succ : Bool) (x : Nat) (s : State) : State :=
  if x < 2 ^ 56 then noteWait s l x (if succ then .rw else .r) (releaseAbsent s l .dev true) else s

/-- An enqueue added for a lane: lanes of a group share the queue entry's owner. -/
def addEnqueue (s : State) (l : LaneId) (words : List Word) : State :=
  let e : EnqOp :=
    { part := lanePart s l,
      group := match l with | .wave g i => some (g, laneBit i) | _ => none,
      grip := match l with | .grip t => some t | _ => none,
      mgmt := match l with | .mgmt n => some n | _ => none,
      words := words, slot := none, written := false, failed := false }
  modPart s (lanePart s l) (fun x => { x with enqs := x.enqs ++ [e] })

/-- A lane's TSPAWN: earlier accesses are performed first, then the record is read at device scope and its enqueue begins (R185). -/
def spawnLane (l : LaneId) (x : Nat) (s : State) : State :=
  match laneTrans s l x .r with
  | .ok pa g =>
    let s := releaseLane (drainLane (noteLane s l x .r) l) l .dev
    let s := promoteFor (touchL2 s (lanePart s l) g false pa) l .dev pa
    addEnqueue s l (wordsOf (l2Read s (lanePart s l) g pa 64))
  | _ => s

/-- A lane's TSUCC: the counter is decremented at device scope with acquire-release order, and from 1 the record behind it is enqueued. -/
def succLane (l : LaneId) (x : Nat) (s : State) : State :=
  match laneTrans s l x .rw with
  | .ok pa g =>
    let s := releaseLane (drainLane (noteLane s l x .rw) l) l .dev
    let s := promoteFor s l .dev pa
    let s := recallStash s pa
    let old := l2Num s (lanePart s l) g pa 4
    let s := writeL2 s (lanePart s l) g pa (leBytes 4 ((old + 2 ^ 32 - 1) % 2 ^ 32))
    let s := acquireLane s l .dev
    if old = 1 then addEnqueue s l (wordsOf (l2Read s (lanePart s l) g (pa + 64) 64)) else s
  | _ => s

/-- The form of both. -/
def taskForm (ea : Bool) (a : Reg) : Form := { plainForm true with srcs := srcPair 0 a ea, pairs := [a] }

/-- TSPAWN (R242, R243, R422), on a wave, on the grip and on a management core (Table 4-19). -/
def execTspawn (ea : Bool) (a : Reg) (s : State) : Host.Outcome State Fault Refusal :=
  let x (vs : List Word) := pairNat (val vs 0) (val vs 1)
  runEntry s (.tspawn ea a)
    { form := taskForm ea a, legal := fun _ => true, plan := fun l vs => taskAct s l false (x vs),
      note := fun l vs t => taskNote l false (x vs) t, eff := fun l vs t => spawnLane l (x vs) t, branch := false }

/-- TSUCC (R242, R243, R422). -/
def execTsucc (ea : Bool) (a : Reg) (s : State) : Host.Outcome State Fault Refusal :=
  let x (vs : List Word) := pairNat (val vs 0) (val vs 1)
  runEntry s (.tsucc ea a)
    { form := taskForm ea a, legal := fun _ => true, plan := fun l vs => taskAct s l true (x vs),
      note := fun l vs t => taskNote l true (x vs) t, eff := fun l vs t => succLane l (x vs) t, branch := false }

/-! ### The checks of a record (Table 10-2) -/

/-- What becomes of a record that is checked: it can start, with its kernel's header word 0; it is refused with a code; or a page is
waited for. -/
inductive RecCheck where
  | ok (header : Nat)
  | refuse (code : Nat)
  | page (va : Nat) (a : Acc)
  deriving DecidableEq, Repr

/-- The codes that depend on the record's own fields alone, from 2 on. -/
def fieldCode (w : List Word) : Option Nat :=
  if wordAt w 1 / 2 ^ 24 ≠ 0 || bits (wordAt w 7) 31 27 ≠ 0 || bits (wordAt w 7) 7 2 ≠ 0 then some 2
  else if trGpt w = 0 || 32 < trGpt w || 24 < slotsFor (evenGroups w) (trWidth w) || 24 < slotsFor (oddGroups w) (trWidth w) then some 3
  else if trScr w % 64 ≠ 0 || scratchSize < trScr w || trTmem w % 12288 ≠ 0 || scratchSize < trScr w + trTmem w then some 4
  else if trReh w && trPair w then some 5
  else if trExt w && (trTeams w = 0 || 2 ^ 32 < trTeams w) then some 6
  else none

/-- Whether the partition has a core, or a core pair, for a team at all (code 9). -/
def hasCore (s : State) (p : Nat) (w : List Word) : Bool :=
  let one (c : Nat) : Bool := c < s.units.fuses.ncore && partHasCore s p c
  (List.range s.units.fuses.ncore).any (fun c => one c && (!trPair w || (c % 2 = 0 && one (c + 1))))

/-- The checks of Table 10-2 after code 10, in order (R238); `places` says whether code 9 is checked. -/
def checkRecord (s : State) (p : Nat) (w : List Word) (places : Bool) : RecCheck :=
  let e := trEntry w
  if e % 8 ≠ 0 then .refuse 1
  else match ownRead s p e 8 .x with
    | .fault _ => .refuse 1
    | .wait _ => .page e .x
    | .ok bs =>
      let h := leNat (bs.take 4)
      if h % 2 ≠ 0 || leNat (bs.drop 4) ≠ 0 then .refuse 1
      else match fieldCode w with
        | some c => .refuse c
        | none => if places && !hasCore s p w then .refuse 9 else .ok h

/-- A launch made from a record (R235, R107). -/
def newLaunch (p : Nat) (src : Source) (slot : Nat) (at? : Option Nat) (w : List Word) (header : Nat) : Launch :=
  { part := p, src := src, slot := slot, desc := at?, words := w, exec := BitVec.ofNat 56 (trEntry w + 8),
    access := BitVec.ofNat 56 (trEntry w + header), total := trTeams w, started := 0, ended := 0, killed := false, complete := false,
    rehCore := none, rot := 0, hold := none }

/-! ### Dispatch (R245 to R247) -/

/-- What the dispatcher of a core finds at the head of a queue. -/
inductive HeadState where
  | idle
  | blocked
  | page (va : Nat) (a : Acc)
  | refuse (head code : Nat)
  | place (head : Nat) (lid : Option Nat) (w : List Word) (header : Nat) (seats : List (List Nat × Nat))
  deriving DecidableEq, Repr

/-- The head record of a queue, seen from a core. While every started team of a rehearsal launch is saved, its next team waits. -/
def headState (s : State) (p q core : Nat) : HeadState :=
  match headDesc s p false q with
  | .bad | .absent => .idle
  | .wait va => .page va .rw
  | .ok d =>
    if !backlogged d then .idle
    else match (tget? (partOf s p).heads q).bind (fun h => (launch? s h.launch).map (fun l => (h, l))) with
      | some (h, l) =>
        if launchReh l && l.rehCore.isNone && 0 < l.started then .blocked
        else match homeCore s p h.launch l.words (launchGrip l) (match l.hold with | some c => some c | none => l.rehCore) with
          | some (c, seats) =>
            if c = core then .place d.head (some h.launch) l.words ((l.access - (l.exec - 8)).toNat) seats else .blocked
          | none => .blocked
      | none =>
        match ownRead s p (slotAddr d d.head) 64 .r with
        | .fault _ => .refuse d.head 10
        | .wait _ => .page (slotAddr d d.head) .r
        | .ok bs =>
          let w := wordsOf bs
          match checkRecord s p w true with
          | .refuse c => .refuse d.head c
          | .page va a => .page va a
          | .ok h =>
            match homeCore s p s.work.nextId w (h ≠ 0) none with
            | some (c, seats) => if c = core then .place d.head none w h seats else .blocked
            | none => .blocked

/-- Whether a visit to a queue can end with a team placed or a record refused. -/
def headReady (h : HeadState) : Bool := match h with | .refuse _ _ | .place _ _ _ _ _ => true | _ => false

/-- Whether any queue of a partition is backlogged. -/
def partBacklogged (s : State) (p : Nat) : Bool :=
  (List.range 16).any (fun q => match headDesc s p false q with | .ok d => backlogged d | _ => false)

/-- The running partitions. -/
def runningParts (s : State) : List Nat := (List.range 16).filter (fun p => partEnabled s p)

/-- Whether a queue is not backlogged; a descriptor that cannot be reached counts as disabled (R240). -/
def stoppedQueue (s : State) (p q : Nat) : Bool :=
  match headDesc s p false q with | .ok d => !backlogged d | .wait _ => false | .bad | .absent => true

/-- The pass of a partition that has become backlogged, deficits of queues that have stopped being so, and unreachable descriptors
(R240, R245, R246); it is looked at before and after each change of a queue by the dispatcher. -/
def refreshQueues (s : State) : State :=
  let s := (runningParts s).foldl (fun s p => (List.range 16).foldl (fun s q => noteDesc s p false q) s) s
  let stayed := (runningParts s).filter (fun p => (partOf s p).backlogged && partBacklogged s p)
  let low := leastOf (stayed.map (fun p => (partOf s p).pass))
  (runningParts s).foldl (fun s p =>
    let now := partBacklogged s p
    modPart s p (fun x =>
      { x with
        pass := if now && !x.backlogged then max x.pass (low.getD 0) else x.pass,
        backlogged := now,
        deficits := x.deficits.map (fun e =>
          (e.1, if stoppedQueue s p e.1 && 0 < e.2 then (0 : Int) else e.2)) })) s

/-- Visits to the backlogged queues in cyclic order until one ends with a ready queue that has a positive deficit. -/
def drrVisits (quant : Nat → Int) (ready : Nat → Bool) : List Nat → Tab Int → Option Nat × Tab Int
  | [], ds => (none, ds)
  | q :: qs, ds =>
    let d := tgetD ds q 0
    if 0 < d then (if ready q then (some q, ds) else drrVisits quant ready qs ds)
    else drrVisits quant ready qs (tput ds q (d + quant q))

/-- Rounds of visits that a queue needs before its deficit is positive. -/
def drrNeed (quant : Nat → Int) (ds : Tab Int) (q : Nat) : Nat :=
  let d := tgetD ds q 0
  if 0 < d then 0 else ((-d) / quant q).toNat + 1

/-- The queue that deficit round robin chooses among backlogged queues `bs`, of which some are ready (R246): whole rounds in which every
visit only adds the quantum are taken together. -/
def drrChoose (quant : Nat → Int) (ready : Nat → Bool) (bs : List Nat) (cursor : Nat) (ds : Tab Int) : Option Nat × Tab Int :=
  match leastOf ((bs.filter ready).map (drrNeed quant ds)) with
  | none => (none, ds)
  | some m =>
    let k := m - 1
    let ds := bs.foldl (fun ds q => tput ds q (tgetD ds q 0 + quant q * (min k (drrNeed quant ds q) : Nat))) ds
    let order := rotateFrom bs cursor
    drrVisits quant ready (order ++ order ++ order) ds

/-- A refused record: HEAD moves past it (R238). -/
def refuseHead (s : State) (p q head code : Nat) : State :=
  let at? := queueDesc s p false q
  refuseTask (putDesc s p at? 0 (head + 1)) p at? q head code 0

/-- One team of the head record placed on a core; with its last team HEAD advances (R247). -/
def placeHead (s : State) (p q core head : Nat) (lid? : Option Nat) (w : List Word) (header : Nat) (seats : List (List Nat × Nat)) :
    State :=
  let (lid, s) := match lid? with
    | some l => (l, s)
    | none =>
      let (l, s) := freshId s
      (l, modPart { s with work := { s.work with
            launches := tput s.work.launches l (newLaunch p (.queue q) head (descAddr s p false q) w header) } } p
        (fun x => { x with heads := tput x.heads q { launch := l, head := head } }))
  let (up, s) := wakeFor s core
  if !up then modLaunch s lid (fun l => { l with hold := some core })
  else match launch? s lid with
    | none => s
    | some l =>
      let s := modLaunch s lid (fun l => { l with rehCore := if trReh w then some core else none, hold := none })
      let s := startTeam s lid l l.started (trCoord w l.started) core seats computeRole (launchGrip l)
      if l.started + 1 = l.total then putDesc (modPart s p (fun x => { x with heads := tdel x.heads q })) p l.desc 0 (head + 1)
      else s

/-- What a mesh group starts with (R284, Table 12-8). -/
def meshRole : Role := { view := 0x40000000, exited := 0, mesh := some { verts := [], prims := [], handed := false }, pix := none }

/-- The mesh launch of a pass that has been cleared, with a team whose home is a core (R284). -/
def meshPlacement (s : State) (core : Nat) : Option (Nat × Launch × List (List Nat × Nat)) :=
  s.work.passes.findSome? (fun e =>
    if e.2.phase = .cleared && partEnabled s e.2.part then
      (launch? s e.2.mesh).bind (fun l =>
        if l.started < l.total then
          match homeCore s e.2.part e.2.mesh l.words (launchGrip l) l.hold with
          | some (c, seats) => if c = core then some (e.2.mesh, l, seats) else none
          | none => none
        else none)
    else none)

/-- The dispatcher of a core acts once: a mesh team of a raster pass goes first; else, among the partitions that share the core and have
a team that can be placed there, it takes the one of lowest pass, then a queue by deficit round robin (R244 to R247). -/
def dispatchStep (s : State) (core : Nat) : State :=
  if s.units.ready &&& 0x18 ≠ 0x18 then s
  else if let some (lid, l, seats) := meshPlacement s core then
    let (up, s) := wakeFor s core
    let s := modLaunch s lid (fun l => { l with hold := if up then none else some core })
    if up then startTeam s lid l l.started (trCoord l.words l.started) core seats meshRole (launchGrip l) else s
  else
    let s := refreshQueues s
    let ps := (runningParts s).filter (fun p => mayHost s p core)
    let heads (p : Nat) := (List.range 16).map (fun q => (q, headState s p q core))
    let waits := ps.flatMap (fun p => (heads p).filterMap (fun h => match h.2 with | .page va a => some (p, va, a) | _ => none))
    match argMin (fun p => (partOf s p).pass) (ps.filter (fun p => (heads p).any (fun h => headReady h.2))) with
    | none => waits.foldl (fun s e => ownWait s e.1 e.2.1 e.2.2) s
    | some p =>
      let hs := heads p
      let bs := (hs.filter (fun h => h.2 ≠ .idle)).map (·.1)
      let quant (q : Nat) : Int := match headDesc s p false q with | .ok d => d.quant | _ => 1
      let ready (q : Nat) : Bool := hs.any (fun h => h.1 = q && headReady h.2)
      let (pick, ds) := drrChoose quant ready bs (partOf s p).cursor (partOf s p).deficits
      match pick with
      | none => s
      | some q =>
        let s := modPart s p (fun x => { x with deficits := ds, cursor := (q + 1) % 16 })
        match hs.find? (fun h => h.1 = q) with
        | some (_, .refuse head code) => refreshQueues (refuseHead s p q head code)
        | some (_, .place head lid w header seats) => refreshQueues (placeHead s p q core head lid w header seats)
        | _ => s

/-- TASK_DISPATCH (R244 to R249). -/
def execTaskDispatch (core : Nat) (s : State) : Host.Outcome State Fault Refusal := .next (dispatchStep s core)

/-! ### Completion of a launch (R248) -/

/-- Every core's L1 written back, so that the launch's writes are performed at device scope. -/
def performWrites (s : State) : State := s.units.cores.foldl (fun s e => writebackL1 s e.1) s

/-- The effect of TSUCC on a counter by the device: none when a page is waited for, or a function or link that is not ready (R336), and
otherwise whether it failed. -/
def deviceSucc (s : State) (p va : Nat) : Option (State × Bool) :=
  if 2 ^ 56 ≤ va || va % 128 ≠ 0 then some (s, true)
  else match translate s 0 p va .rw with
    | .wait e => if engFailed s p 0 e then some (engDone s p 0, true) else none
    | .ok pa g =>
      let s := promote (noteAccess s 0 p va .rw) none (pa / 256)
      let s := recallStash s pa
      let old := l2Num s p g pa 4
      let s := writeL2 s p g pa (leBytes 4 ((old + 2 ^ 32 - 1) % 2 ^ 32))
      if old = 1 then
        let e : EnqOp := { part := p, group := none, grip := none, mgmt := none, words := wordsOf (l2Read s p g (pa + 64) 64), slot := none,
                           written := false, failed := false }
        some (modPart s p (fun x => { x with enqs := x.enqs ++ [e] }), false)
      else some (s, false)
    | .hold => none
    | _ => some (s, true)

/-- Whether every team of a launch has started and ended, none of them killed. -/
def launchOver (l : Launch) : Bool := l.started = l.total && l.ended = l.total && !l.killed

/-- A launch of a task queue; the completion of a pass stands for that of its two launches. -/
def isQueued (x : Source) : Bool := match x with | .queue _ => true | _ => false

/-- A launch completes (R248). -/
def completeLaunch (s : State) (lid : Nat) : State :=
  match launch? s lid with
  | none => s
  | some l =>
    if l.complete || !launchOver l || !isQueued l.src then s
    else
      let s := performWrites s
      let done (s : State) := modLaunch s lid (fun l => { l with complete := true })
      if trSucc l.words = 0 then done s
      else match deviceSucc s l.part (trSucc l.words) with
        | none => ownWait s l.part (trSucc l.words) .rw
        | some (s, false) => done s
        | some (s, true) =>
          match l.src with
          | .queue q => done (refuseTask s l.part l.desc q l.slot 8 0)
          | _ => done s

/-- LAUNCH_COMPLETION (R248). -/
def execLaunchCompletion (launch : Nat) (s : State) : Host.Outcome State Fault Refusal := .next (completeLaunch s launch)

end Sys2Proof.Machine
end

