-- ==== Sys2Proof/Machine/Engines.lean ====
section
/-! DEFINITION. Steps that engines take by themselves: posted results, asynchronous causes, stash fills, page reads, copy-on-write, and
the return of a swapped-out group (R56 to R58, R140, R158 to R164, R200, R262). -/

namespace Sys2Proof.Machine

/-! ### Posted results -/

/-- Whether the group that a SLOTW result is for is swapped out, so that its wait is held (R408). -/
def slotwHeld (s : State) (p : Posted) : Bool :=
  p.dests.any (fun d => match d.1 with | .wave g _ => ((group? s g).map (·.status)) = some .swapped | _ => false)

/-- The end of a SLOTW wait: every destination takes the result, and its lanes acquire at team scope (R183, R200). -/
def landSlotw (s : State) (p : Posted) (header : Nat) (free : Bool) (team side : Nat) : State :=
  match team? s team with
  | none => s
  | some t =>
    if slotwHeld s p || (stashNeed s team t side header).isSome then s
    else match slotwResult t side header free with
      | none => s
      | some v =>
        let s := landPosted s { p with dests := p.dests.map (fun d => (d.1, d.2.1, v, false)) }
        match p.dests with
        | d :: _ => acquireLane s d.1 .team
        | [] => s

/-- A posted result arrives, if it can (R56 to R58); a matrix, texture or tile result arrives with its operation. -/
def arrive (s : State) (id : Nat) : State :=
  match s.posted.find? (fun p => p.id = id) with
  | none => s
  | some p =>
    match p.kind with
    | .data => landPosted s p
    | .special g fl => landPosted (raiseFlags s g fl) p
    | .slotw header free team side => landSlotw (stashFillAt s team side header) p header free team side
    | .late => s
    | .matrix => s
    | .texture => s
    | .tile => s

/-- POSTED_RESULT_ARRIVAL. -/
def execPostedResultArrival (id : Nat) (s : State) : Host.Outcome State Fault Refusal := .next (arrive s id)

/-! ### Asynchronous causes (R262) -/

/-- The slots whose slices may take a cause pending in slot `k`: both slots of a 64-lane group for cause 0x0C. -/
def asyncSlots (s : State) (k cause : Nat) : List Nat :=
  match slotGroups s k with
  | e :: _ => if cause = 0x0C && e.2.width = 64 then e.2.seats else [k]
  | [] => [k]

/-- The slices of some slots that are at a retirement boundary, holding running lanes outside a handler. -/
def asyncSlices (s : State) (ks : List Nat) : List (Nat × Nat × Slice) :=
  (ks.flatMap (slotSliceList s)).filter (fun e =>
    !inHandler e.2.2 && ((group? s e.1).map (fun g => sliceGoes g e.2.2 && g.status = .run)).getD false)

/-- The first pending cause of a wave delivered to the first of its slices for which `p` holds. -/
def deliverAsync (s : State) (k : Nat) (p : Nat × Nat → Bool) : State :=
  match (slot? s k).bind (fun x => x.asyncs.head?) with
  | none => s
  | some c =>
    match (asyncSlices s (asyncSlots s k c.cause)).find? (fun e => p (e.1, e.2.1)) with
    | none => s
    | some (g, n, x) =>
      let s := modSlot s k (fun y => { y with asyncs := y.asyncs.tail })
      let run := x.prog.running
      let seat := ((group? s g).map (fun y => laneSeat y (4 * n))).getD k
      let t : Trap :=
        { cause := c.cause, tlanes := run, tdone := 0, taddr := (lanesOf run).map (fun l => (l, c.addr)), pops := x.redo }
      partWave (takeTrap s g n x.prog.pc run t) seat

/-- ASYNCHRONOUS_CAUSE_DELIVERY (R262): any slice at a boundary may be the first (R455). -/
def execAsynchronousCauseDelivery (target : AsyncTarget) (s : State) : Host.Outcome State Fault Refusal :=
  .next (deliverAsync s target.slot (fun e => e = (target.group, target.slice)))

/-- Some slices have reached a retirement boundary: the first of them takes the pending cause of its wave (R262). The two slots of a 64-lane
group are one holder of a lease. -/
def reachBoundary (s : State) (k : Nat) (es : List (Nat × Nat)) : State :=
  let ks := match slotGroups s k with | e :: _ => if e.2.width = 64 then e.2.seats else [k] | [] => [k]
  ks.foldl (fun s j => deliverAsync s j es.contains) s

/-! ### Stash fills (R140) -/

/-- An unfilled sector of a bound window is filled, as an operation of its partition's queue of the storage and fault service: an earlier
one is waited for (R180). -/
def fillSector (s : State) (team side window sector : Nat) : State :=
  match (team? s team).bind (fun t => t.windows.find? (fun w => w.side = side && w.num = window)) with
  | some w =>
    if 128 * sector < w.len then stashFillAt s team side (w.soff + 128 * sector) else s
  | none => s

/-- STASH_FILL (R140). -/
def execStashFill (team side window sector : Nat) (s : State) : Host.Outcome State Fault Refusal :=
  .next (fillSector s team side window sector)

/-! ### Page reads and copies (R158, R162) -/

/-- The partition and the page read in progress for an entry. -/
def readInProgress (s : State) (entry : Nat) (cow : Bool) : Option (Nat × PageRead) :=
  (List.range 16).findSome? (fun p => ((partOf s p).reads.find? (fun r => r.entry = entry && r.cow = cow)).map (fun r => (p, r)))

/-- A page read or copy is over: groups and contexts that waited for it go on, a failure is recorded for them and for engines, and a team
whose end waited for the page ends. -/
def endRead (s : State) (p : Nat) (r : PageRead) (failed : Bool) : State :=
  let less (ps : List Nat) := ps.filter (· != r.id)
  let more (ps fs : List Nat) := if failed && ps.contains r.id then insertNat r.entry fs else fs
  let s := { s with
    work := { s.work with
      groups := s.work.groups.map (fun e => (e.1, { e.2 with pages := less e.2.pages, failed := more e.2.pages e.2.failed }))
      teams := s.work.teams.map (fun e => (e.1, { e.2 with grip := e.2.grip.map (fun k =>
        { k with pages := less k.pages, failed := more k.pages k.failed }) })) }
    units := { s.units with mgmt := s.units.mgmt.map (fun k => { k with pages := less k.pages, failed := more k.pages k.failed }) } }
  let s := modPart s p (fun x =>
    { x with reads := x.reads.filter (fun q => q.id != r.id),
             failed := if failed then x.failed ++ r.waiters.map (fun w => (r.entry, w)) else x.failed })
  s.work.teams.foldl (fun s e => tryEndTeam s e.1) s

/-- The normal leaf that replaces a storage-backed one (R158, step 4). -/
def readLeaf (e frame : Nat) : Nat := frame + bits e 6 3 * 8 + 5

/-- A page read whose completion has come ends (R158): with success the block lands in its frame and the entry is replaced, if it is what
is expected; with an error the frame goes back and BUSY is cleared. -/
def finishRead (s : State) (p : Nat) (r : PageRead) (sct sc : Byte) (block : List Byte) : State :=
  let e := readNum s r.entry 8
  if sct = 0 && sc = 0 then
    let s := storeDev s r.frame block
    let s := if e = r.value.toNat then storeDev s r.entry (leBytes 8 (readLeaf e r.frame)) else giveFrame s p r.frame
    endRead s p r false
  else
    let s := giveFrame s p r.frame
    let s := if e = r.value.toNat then storeDev s r.entry (leBytes 8 (e - 0x8000)) else s
    let s := raiseEvent s (eventRec 3 p 0 r.port 0 sct.toNat sc.toNat r.nsid 0 r.lba)
    endRead s p r true

/-- The next part of a copy-on-write (R162): the frame is taken and the page copied, and in a later step COUNT and the entry change. Accesses
to the shared frame that are still to be performed come before the page leaves it, and the read of COUNT, an acquire, promotes its line
(R178). -/
def cowPart (s : State) (p : Nat) (r : PageRead) : State :=
  let d := entryDesc r.value.toNat
  let s := drainFrame (promote s none ((d + 8) / 256)) (descFrame s d)
  if r.taken then endRead (cowEnd s p r.va r.entry r.value.toNat r.frame) p r false
  else match cowBegin s p r.va r.entry r.value.toNat with
    | (s, .over) => endRead s p r false
    | (s, .empty) => endRead s p r true
    | (s, .copied f) => modPart s p (fun x => { x with reads := x.reads.map (fun q => if q.id = r.id then { q with frame := f, taken := true } else q) })

/-- The oldest operation of a partition's queue of the storage and fault service goes on; a later one waits for it (R180). -/
def serviceStep (s : State) (p : Nat) : State :=
  match (partOf s p).reads with
  | [] => s
  | r :: _ =>
    if r.cow then cowPart s p r
    else match r.result with
      | some (sct, sc, block) => finishRead s p r sct sc block
      | none => s

/-- An NVMe completion with its status and block for the oldest read of an entry that has none yet. -/
def nvmeStep (s : State) (entry : Nat) (sct sc : Byte) (block : List Byte) : State :=
  if !s.units.ready.getLsbD 6 then s
  else
  match (List.range 16).findSome? (fun p =>
      ((partOf s p).reads.find? (fun r => r.entry = entry && !r.cow && r.result.isNone)).map (fun r => (p, r))) with
  | none => s
  | some (p, r) =>
    serviceStep (modPart s p (fun x =>
      { x with reads := x.reads.map (fun q => if q.id = r.id then { q with result := some (sct, sc, block) } else q) })) p

/-- NVME_READ_COMPLETION (R158). -/
def execNvmeReadCompletion (entry : Nat) (sct sc : Byte) (block : List Byte) (s : State) : Host.Outcome State Fault Refusal :=
  .next (nvmeStep s entry sct sc block)

/-- A copy-on-write goes on when it is the oldest operation of its queue. -/
def cowStep (s : State) (entry : Nat) : State :=
  match readInProgress s entry true with
  | none => s
  | some (p, _) =>
    match (partOf s p).reads with
    | q :: _ => if q.entry = entry && q.cow then serviceStep s p else s
    | [] => s

/-- COPY_ON_WRITE_COMPLETION (R162). -/
def execCopyOnWriteCompletion (entry : Nat) (s : State) : Host.Outcome State Fault Refusal := .next (cowStep s entry)

/-! ### Swapped-out groups (R159) -/

/-- Slots of a core for a wave that held `ks`: the ones it left, when they are free, else as R249 takes new ones. -/
def returnSlots (s : State) (c : Nat) (ks : List Nat) : Option (List Nat) :=
  let occ := usedSlots s c
  let own := ks.map (fun k => 24 * c + k % 24)
  if own.all (fun k => !occ.contains k) then some own else newSlots occ c ks.length

/-- A slot that a wave takes again: it enters the active set when a place is free, and waits behind others for a slate it waits for. -/
def resumeSlot (s : State) (k : Nat) : State :=
  let c := slotCore k
  let clk := (coreOf s c).clk
  let room := activeCount s c (slotQuad k) < 2
  let s := modSlot s k (fun x => { x with active := room, since := clk, readyAt := clk })
  if (slotSliceList s k).any (fun e => e.2.2.wait = .slate) then
    modQuad s c (slotQuad k) (fun q => let h := slotHolder s k; if q.waiters.contains h then q else { q with waiters := q.waiters ++ [h] })
  else s

/-- Whether a posted result of some groups, a SLOTW's apart, is in flight, or an operation of theirs is in an engine's queue. -/
def groupsBusy (s : State) (gs : List Nat) : Bool :=
  s.posted.any (fun p => (match p.kind with | .slotw _ _ _ _ => false | _ => true) &&
      p.dests.any (fun d => match d.1 with | .wave g _ => gs.contains g | _ => false)) ||
    s.units.cores.any (fun e => e.2.tex.any (fun o => gs.contains o.group) || (accessesOf e.2.tbe).any (fun o => gs.contains o.group) ||
      e.2.quads.any (fun q => q.mq.any (fun o => gs.contains o.group)))

/-- Whether an element still awaits a posted result. -/
def awaitsElem (s : State) (id : Nat) (l : LaneId) (r : Nat) : Bool :=
  match l with
  | .wave g i =>
    if r < 56 then laneElem s l r = .empty id
    else (((group? s g).bind (·.slices[i / 4]?)).map (fun y => y.frames.any (fun f => regElem f.hregs (r - 56) i = .empty id))).getD false
  | _ => laneElem s l r = .empty id

/-- Whether the register image of some groups' wave cannot be written yet: a result that an element still awaits, a SLOTW's apart, or a matrix or
tile operation of theirs, is outstanding (R70, R76, R234). -/
def groupsAwait (s : State) (gs : List Nat) : Bool :=
  s.posted.any (fun p => (match p.kind with | .slotw _ _ _ _ => false | _ => true) &&
      p.dests.any (fun d => (match d.1 with | .wave g _ => gs.contains g | _ => false) && awaitsElem s p.id d.1 d.2.1)) ||
    s.units.cores.any (fun e => (accessesOf e.2.tbe).any (fun o => gs.contains o.group) ||
      e.2.quads.any (fun q => q.mq.any (fun o => gs.contains o.group)))

/-- A group whose pages have arrived is placed on the core of its team and runs; a wave that gave up its slots takes others only when its
operations are complete, since its register image is written first (R70, R234). -/
def placeSwapped (s : State) (g : Nat) : State :=
  match group? s g with
  | none => s
  | some x =>
    match team? s x.team with
    | none => s
    | some t =>
      if x.status ≠ .swapped || !x.pages.isEmpty || t.stopped then s
      else
        let run (s : State) := modGroup s g (fun y =>
          let clk := (coreOf s (slotCore (y.seats.headD 0))).clk
          { y with status := .run, quiet := clk, startClk := if y.seats = x.seats then y.startClk else clk })
        if x.seats.all (· < 3072) then run s
        else if groupsAwait s (x.seats.flatMap (fun k => (slotGroups s k).map (·.1))) then s
        else
          let c := slotCore (x.seats.headD 0)
          match returnSlots s c x.seats with
          | none => s
          | some ks =>
            let s := (x.seats.zip ks).foldl (fun s e => moveSlot s e.1 e.2) s
            run (ks.foldl resumeSlot s)

/-- SWAPPED_GROUP_PLACEMENT (R159, R164). -/
def execSwappedGroupPlacement (group : Nat) (s : State) : Host.Outcome State Fault Refusal := .next (placeSwapped s group)

end Sys2Proof.Machine
end

