-- ==== Sys2Proof/Machine/Power.lean ====
section
/-! DEFINITION. Power, temperature, leases, timeouts, the active set and clock gating (R44, R73, R255, R270, R271, R316 to R327, R389,
R406). -/

namespace Sys2Proof.Machine

/-! ### Waits that end -/

/-- The slices that issue together with a slice of a slot. -/
def gangMates (s : State) (g n : Nat) : List (Nat × Nat) :=
  match group? s g with
  | none => []
  | some x =>
    match x.slices[n]? with
    | none => []
    | some y => (slotSliceList s (laneSeat x (4 * n))).filterMap (fun e => if e.2.2.gang = y.gang then some (e.1, e.2.1) else none)

/-- What a slice waits for. -/
def waitOf (s : State) (g n : Nat) : Wait := (((group? s g).bind (·.slices[n]?)).map (·.wait)).getD .none

/-- A slice goes on past the instruction it waited at. -/
def passOne (s : State) (g n : Nat) : State := passSlice 4 (modSlice s g n (fun x => { x with wait := .none })) g n

/-- The oldest entry of a wave retires, when it is that of some slices. -/
def retireHead (s : State) (k : Nat) (es : List (Nat × Nat)) : State :=
  match (slot? s k).bind (fun x => x.rob.head?) with
  | some e => if e.slices.any (fun y => es.contains (y.1, y.2.1)) then retireEntry s k e.stamp else s
  | none => s

/-- Slices of a wave go on past the instruction at which they waited: it has retired, the wave's gangs part, and a pending cause is
delivered at the boundary (R262). -/
def passAll (s : State) (k : Nat) (es : List (Nat × Nat)) : State :=
  let s := retireHead s k es
  reachBoundary (partWave (waveRetired (es.foldl (fun s e => passOne s e.1 e.2) s) k (sortNat (es.map (·.1)))) k) k es

/-- The end of a wait of a slice: the slices of its gang that wait with it at the same issue go on past the instruction together, and
slices that are elsewhere now form a gang of their own. -/
def passWait (s : State) (g n : Nat) : State :=
  let mates := gangMates s g n
  let w := waitOf s g n
  passAll s (((group? s g).map (laneSeat · (4 * n))).getD 0) (mates.filter (fun e => waitOf s e.1 e.2 = w))

/-- The clock of the core on which a slice of a group runs. -/
def sliceClk (s : State) (g n : Nat) : Nat := (coreOf s (laneCore s (.wave g (4 * n)))).clk

/-- The end of a YIELD wait: MIGREQ reads clear, or 65,536 clocks have passed (R271). -/
def yieldStep (s : State) (g n : Nat) : State :=
  match waitOf s g n with
  | .yield since =>
    if laneMigreq s (.wave g (4 * n)) = 0 || since + 65536 ≤ sliceClk s g n then passWait s g n else s
  | _ => s

/-- YIELD_TIMEOUT (R271). -/
def execYieldTimeout (group slice : Nat) (s : State) : Host.Outcome State Fault Refusal := .next (yieldStep s group slice)

/-- Every YIELD wait whose MIGREQ reads clear ends. -/
def endYields (s : State) : State :=
  s.work.groups.foldl (fun s e => (List.range e.2.slices.length).foldl (fun s n =>
    match waitOf s e.1 n with
    | .yield _ => if laneMigreq s (.wave e.1 (4 * n)) = 0 then passWait s e.1 n else s
    | _ => s) s) s

/-- The end of a SLEEP: its clocks have passed, or in rehearsal mode its turns (R252, R406). -/
def sleepStep (s : State) (g n : Nat) : State :=
  match waitOf s g n, group? s g with
  | .sleep since k, some x =>
    let ended : Bool := if teamReh s x.team then ((slot? s (laneSeat x (4 * n))).map (fun y => y.sleepTurns == 0)).getD true
      else since + k ≤ sliceClk s g n
    if ended && x.status = .run then passWait s g n else s
  | _, _ => s

/-- SLEEP_EXPIRY (R406). -/
def execSleepExpiry (group slice : Nat) (s : State) : Host.Outcome State Fault Refusal := .next (sleepStep s group slice)

/-! ### The hang watchdog (R270) -/

/-- A group that has retired nothing for PER times 2^20 clocks stops its team, and an event of type 6 is raised. -/
def hangStep (s : State) (g : Nat) : State :=
  match group? s g with
  | none => s
  | some x =>
    let p := teamPart s x.team
    let per := (bankReg s p 0x192).toNat * 2 ^ 20
    if per = 0 || x.ended || x.status ≠ .run || (coreOf s (slotCore (x.seats.headD 0))).clk < x.quiet + per then s
    else
      let (rq, q, slot, team) := workName s x.team
      raiseEvent (stopTeam s x.team) (eventRec 6 p rq q 0 0 0 slot team 0)

/-- HANG_WATCHDOG_EXPIRY (R270). -/
def execHangWatchdogExpiry (group : Nat) (s : State) : Host.Outcome State Fault Refusal := .next (hangStep s group)

/-! ### The active set (R44, R73) -/

/-- The active lanes of some slices, and what a source delivers to each of them. -/
def sliceLanes (slices : List (Nat × Nat × LMask)) : List LaneId := slices.flatMap (fun e => (lanesOf e.2.2).map (fun i => LaneId.wave e.1 i))

/-- Whether some active lane finds a source empty: an element of a register, or a queue entry that has not been delivered. -/
def srcEmpty (s : State) (ls : List LaneId) (xs : List Src) (x : Src) : Bool :=
  ls.any (fun l => match gather s ls xs l x with | .elem e => elemEmpty e | .misuse => false)

/-- Whether an instruction has to wait for an operand (R53, R60), the oldest entry of its buffer as it is: with E = 1 an empty one is a
cause. -/
def operandWaits (s : State) (slices : List (Nat × Nat × LMask)) (i : Instr) : Bool :=
  let ls := sliceLanes slices
  let xs := (instrNames (slicesNattr s slices) i).srcs
  xs.any (fun x => !x.e && srcEmpty s ls xs x)

/-- Whether an instruction waits for a register that a posted result is still to fill (R73). -/
def postedWaits (s : State) (slices : List (Nat × Nat × LMask)) (i : Instr) : Bool :=
  let ls := sliceLanes slices
  let xs := (instrNames (slicesNattr s slices) i).srcs
  xs.any (fun x => !x.e && !ls.any (fun l => isPop s l x) && srcEmpty s ls xs x)

/-- Whether MMA of some slices can only wait for the slate, which it does not take by itself (R229): the holder does not hold it and has no
claim to enter first (R230), the operands are at hand, and every group passes its checks (R216). -/
def mmaWaits (s : State) (slices : List (Nat × Nat × LMask)) (i : Instr) : Bool :=
  match i with
  | .mma i32 _ outl unf acc d a b =>
    let ls := sliceLanes slices
    let f := (mmaEntry s ls i32 outl unf acc d a b).form
    slices.any (fun x => !holdsSlate s (laneSlot s (.wave x.1 (4 * x.2.1))) && !mustReclaim s (laneSlot s (.wave x.1 (4 * x.2.1)))) &&
      (ls.filter (fun l => leadLane ls l = l)).all (fun l => (commonAct s f ls l).isNone &&
        (let vs := laneVals s f ls l
         (laneCheck s ls l i32 outl unf (val vs 0).toNat (val vs 1).toNat).isNone))
  | _ => false

/-- Whether an instruction with its operands at hand waits for the slate (R229); MTAKE does so once it has issued. -/
def slateWaits (s : State) (slices : List (Nat × Nat × LMask)) (i : Instr) : Bool := !operandWaits s slices i && mmaWaits s slices i

/-- Whether QFENCE waits for the queues that it joins. -/
def joinWaits (s : State) (slices : List (Nat × Nat × LMask)) (i : Instr) : Bool :=
  match i with
  | .qfence m => (sliceLanes slices).any (fun l => (List.range 8).any (fun b => m.getLsbD b && joins s l b))
  | _ => false

/-- Whether the instruction of some slices, the oldest of its buffer, can execute now. -/
def instrReady (s : State) (slices : List (Nat × Nat × LMask)) (i : Option Instr) : Bool :=
  match i with
  | some i => !operandWaits s slices i && !slateWaits s slices i && !joinWaits s slices i
  | none => true

/-- The slices of a gang with their running lanes. -/
def gangMasks (s : State) (k gang : Nat) : List (Nat × Nat × LMask) :=
  (gangSlices s k gang).filterMap (fun e => ((group? s e.1).bind (·.slices[e.2]?)).map (fun x => (e.1, e.2, (levelOf x).running)))

/-- The instruction that a gang's slices are at; none where its fetch gives a cause. -/
def gangInstr (s : State) (k gang : Nat) : Option Instr :=
  match gangSlices s k gang with
  | e :: _ =>
    let l := LaneId.wave e.1 (4 * e.2)
    match fetchBytes s (laneCore s l) (lanePart s l) (focusPc s (.wave k gang)) with
    | .ok bs => match decode bs with | .ok (i, _) => some i | .error _ => none
    | _ => none
  | [] => none

/-- The labels of a wave's gangs that may issue, in ascending order. -/
def liveGangs (s : State) (k : Nat) : List Nat :=
  sortNat (((slotSliceList s k).map (·.2.2.gang)).filter (fun g => !(gangSlices s k g).isEmpty))

/-- Whether the slices of an entry may issue. -/
def entryGoes (s : State) (e : RobEntry) : Bool :=
  e.slices.all (fun y => ((group? s y.1).bind (fun g => (g.slices[y.2.1]?).map (sliceGoes g))).getD false)

/-- Whether a source of an entry is at hand behind the older entries of its buffer: the last of them that writes the register for a lane has
executed and is not posted; a queue entry is delivered beyond those that they pop; and an element that none of them writes is full. -/
def behindReady (s : State) (older : List RobEntry) (ls : List LaneId) (xs : List Src) (x : Src) : Bool :=
  ls.all (fun l =>
    let m := readLane s ls l x
    if isPop s m x then
      let taken := (older.map (fun e => ((e.instr.elim [] (fun i => (instrNames 0 i).srcs)).filter (fun y => y.fld < 3 && y.val = x.val)).length)).foldl (· + ·) 0
      match popQueue? s m x with
      | some q => q.popped + popIndex s m xs x + taken < q.popped + q.entries.length
      | none => false
    else
      match m with
      | .wave g i =>
        match (older.filter (fun e => e.slices.any (fun y => y.1 = g && y.2.2.getLsbD i) && e.writes.any (fun w => w.1 = x.reg))).getLast? with
        | some e => e.executed && !(e.instr.elim false isPosted)
        | none => !elemEmpty (laneElem s m x.reg)
      | _ => true)

/-- Whether an instruction may execute before it is the oldest of its buffer: neither one that ends what renaming knows, nor a wait. -/
def runsAhead (i : Instr) : Bool :=
  !endsRename i && (match i with
    | .mma _ _ _ _ _ _ _ _ | .mtake | .mpass _ | .qfence _ | .sleep _ | .leaseReq _ _ | .fence _ _ | .tspawn _ _ | .tsucc _ _ => false
    | _ => true)

/-- Whether an entry that is not the oldest of its buffer is ready (R53). -/
def aheadReady (s : State) (older : List RobEntry) (e : RobEntry) : Bool :=
  match e.instr with
  | some i =>
    let xs := (instrNames (slicesNattr s e.slices) i).srcs
    runsAhead i && entryGoes s e && xs.all (behindReady s older (sliceLanes e.slices) xs)
  | none => false

/-- Whether the oldest entry of a buffer is ready, or has executed and may retire. -/
def oldestReady (s : State) (e : RobEntry) : Bool := entryGoes s e && (e.executed || instrReady s e.slices e.instr)

/-- The entries of a buffer that are ready and have not executed, behind the oldest one. -/
def readyBehind (s : State) : List RobEntry → List RobEntry → List RobEntry
  | _, [] => []
  | older, e :: es =>
    (if !older.isEmpty && !e.executed && aheadReady s older e then [e] else []) ++ readyBehind s (older ++ [e]) es

/-- Whether a wave has a ready entry (R53, R73): one of its buffer, or the next instruction of a gang with none there. -/
def waveReady (s : State) (k : Nat) : Bool :=
  let rob := ((slot? s k).map (·.rob)).getD []
  k < 3072 &&
    ((rob.head?).any (oldestReady s) || !(readyBehind s [] rob).isEmpty ||
      (liveGangs s k).any (fun g => (gangSlices s k g).all (fun e => !rob.any (fun r => r.slices.any (fun y => (y.1, y.2.1) = e))) &&
        instrReady s (gangMasks s k g) (gangInstr s k g)))

/-- Whether the oldest entry of a wave waits on a posted result, a barrier, a REGANG, SLOTW, MTAKE or SLEEP (R73); with an empty buffer its
slices have retired a barrier or a REGANG that is not complete. -/
def oldestWaits (s : State) (k : Nat) : Bool :=
  match ((slot? s k).map (·.rob)).getD [] with
  | e :: _ =>
    e.slices.any (fun y => ((group? s y.1).bind (·.slices[y.2.1]?)).any (fun x => match x.wait with | .slate => true | .sleep _ _ => true | _ => false)) ||
      (!e.executed && (e.instr.elim false (fun i => postedWaits s e.slices i || slateWaits s e.slices i)))
  | [] => (liveGangs s k).isEmpty && (slotSliceList s k).any (fun e =>
      match e.2.2.wait with
      | .bar _ => true
      | .teamBar => true
      | .none => !e.2.2.prog.parked.isEmpty
      | _ => false)

/-- The ready waves of a quadrant outside its active set, the oldest resident first. -/
def readyOutside (s : State) (c q : Nat) : Option Nat :=
  (argMin (fun e => e.2.order) (s.work.slots.filter (fun e =>
    e.1 < 3072 && slotCore e.1 = c && slotQuad e.1 = q && !e.2.active && waveReady s e.1))).map (·.1)

/-- A wave leaves its quadrant's active set; its operand register cache is written back first (R69). -/
def leaveActive (s : State) (k : Nat) : State := modSlot s k (fun x => { x with active := false, cached := [] })

/-- A wave whose time in the set is over counts as the latest resident from then on, so that the ready waves outside enter before it
(R44; the spec names no other order, log entry 81). -/
def leaveLast (s : State) (k : Nat) : State :=
  let n := s.work.nextId
  modSlot (leaveActive { s with work := { s.work with nextId := n + 1 } } k) k (fun x => { x with order := n })

/-- A wave that has held its place for 4,096 clocks while a ready wave waits outside leaves it. -/
def activeTimeout (s : State) (k : Nat) : State :=
  match slot? s k with
  | none => s
  | some x =>
    if x.active && x.since + 4096 ≤ (coreOf s (slotCore k)).clk && (readyOutside s (slotCore k) (slotQuad k)).isSome then leaveLast s k
    else s

/-- ACTIVE_SET_TIMEOUT (R44). -/
def execActiveSetTimeout (slot : Nat) (s : State) : Host.Outcome State Fault Refusal := .next (activeTimeout s slot)

/-- A wave that has had no ready entry for 16 clocks, or whose oldest entry waits while a ready wave is outside, leaves the set (R73). -/
def activeIdle (s : State) (k : Nat) : State :=
  match slot? s k with
  | none => s
  | some x =>
    let quiet := !waveReady s k && x.readyAt + 16 ≤ (coreOf s (slotCore k)).clk
    if x.active && (quiet || (oldestWaits s k && (readyOutside s (slotCore k) (slotQuad k)).isSome)) then leaveActive s k else s

/-- ACTIVE_SET_IDLE_LEAVE (R73). -/
def execActiveSetIdleLeave (slot : Nat) (s : State) : Host.Outcome State Fault Refusal := .next (activeIdle s slot)

/-- A ready wave enters the set when a place is free and no older one waits. -/
def activeEnter (s : State) (k : Nat) : State :=
  let c := slotCore k
  if readyOutside s c (slotQuad k) = some k && activeCount s c (slotQuad k) < 2 then
    modSlot s k (fun x => { x with active := true, since := (coreOf s c).clk, readyAt := (coreOf s c).clk })
  else s

/-- ACTIVE_SET_ENTRY (R73). -/
def execActiveSetEntry (slot : Nat) (s : State) : Host.Outcome State Fault Refusal := .next (activeEnter s slot)

/-! ### Clock gating (R255) -/

/-- Whether a cluster holds no group, no grip context and no engine operation. -/
def clusterIdle (s : State) (cl : Nat) : Bool :=
  !s.work.teams.any (fun e => !e.2.ended && (e.2.core / 4 = cl || (e.2.pair && (e.2.core + 1) / 4 = cl))) &&
    (clusterOf s cl).rays.isEmpty && (List.range 4).all (fun n =>
      let k := coreOf s (4 * cl + n)
      k.copies.isEmpty && k.tex.isEmpty && k.tbe.isEmpty && k.quads.all (fun q => q.mq.isEmpty))

/-- A cluster idle for 4,096 clocks begins a gate sequence. -/
def gateBegin (s : State) (cl : Nat) : State :=
  let x := clusterOf s cl
  if x.gate = .on && clusterIdle s cl && x.idleAt + 4096 ≤ x.clk then setCluster s cl { x with gate := .seq x.clk } else s

/-- GATE_SEQUENCE_BEGIN (R255). -/
def execGateSequenceBegin (cluster : Nat) (s : State) : Host.Outcome State Fault Refusal := .next (gateBegin s cluster)

/-- A gate sequence commits 256 clocks after it began. -/
def gateEnd (s : State) (cl : Nat) : State :=
  let x := clusterOf s cl
  match x.gate with
  | .seq since => if since + 256 ≤ x.clk then setCluster s cl { x with gate := .off } else s
  | _ => s

/-- GATE_COMMIT (R255). -/
def execGateCommit (cluster : Nat) (s : State) : Host.Outcome State Fault Refusal := .next (gateEnd s cluster)

/-- A cluster that wakes runs again, and the team that waited for it is placed. -/
def wakeUp (s : State) (cl : Nat) : State :=
  let x := clusterOf s cl
  if x.gate = .waking then
    (List.range 4).foldl (fun s n => dispatchStep s (4 * cl + n)) (setCluster s cl { x with gate := .on, idleAt := x.clk })
  else s

/-- CLUSTER_WAKE_UP (R255). -/
def execClusterWakeUp (cluster : Nat) (s : State) : Host.Outcome State Fault Refusal := .next (wakeUp s cluster)

/-! ### Leases (R320 to R323) -/

/-- MELTF (R318). -/
def meltf (s : State) : Nat := min 65536 (s.units.power.meltMicroJ * 65536 / 240000000000)

/-- The wave slots that hold what a lane holds: its slot, or both of a 64-lane group. -/
def laneHolder (s : State) (l : LaneId) : List Nat :=
  match l with
  | .wave g i => match group? s g with | some x => if x.width = 64 then x.seats else [laneSeat x i] | none => []
  | _ => []

/-- Clusters with a lease. -/
def leasesNow (s : State) : Tab Lease := s.units.clusters.filterMap (fun e => e.2.lease.map (fun l => (e.1, l)))

/-- PWRCTL.LEN of a partition. -/
def leasesAllowed (s : State) (p : Nat) : Bool := (bankReg s p 0x1C1).getLsbD 0

/-- The longest remaining time of the leases of other clusters, in microseconds. -/
def otherTime (ls : Tab Lease) (cl : Nat) : Nat := (ls.filter (fun e => e.1 ≠ cl)).foldl (fun m e => max m e.2.us) 0

/-- Whether the heat store has room for `us` microseconds: (58,983 - MELTF) × 240,000 J ÷ 65,536 ≥ 900 W × time, exactly. -/
def roomFor (melt us : Nat) : Bool := melt ≤ 58983 && 900 * us * 65536 ≤ (58983 - melt) * 240000 * 1000000

/-- Whether a cluster's lease is free or held by a holder. -/
def leaseOpen (ls : Tab Lease) (cl : Nat) (h : List Nat) : Bool := match tget? ls cl with | some l => l.slots = h | none => true

/-- Whether a request is granted (R321). -/
def leaseGranted (s : State) (p cl : Nat) (h : List Nat) (n : Nat) : Bool :=
  !s.units.power.refreeze && leasesAllowed s p && n ≠ 0 && leaseOpen (leasesNow s) cl h &&
    roomFor (meltf s) (max (64 * n) (otherTime (leasesNow s) cl))

/-- The largest n that a request would have been granted at the latest tick (R322). -/
def leaseLargest (s : State) (p cl : Nat) (h : List Nat) : Nat :=
  let ls := s.units.power.leases
  if s.units.power.refreeze || !leasesAllowed s p || !leaseOpen ls cl h || !roomFor (meltf s) (otherTime ls cl) then 0
  else min 65535 ((58983 - meltf s) * 240000 * 1000000 / (900 * 65536 * 64))

/-- LEASE.query (R322, R389). -/
def execLeaseQuery (d : Reg) (s : State) : Host.Outcome State Fault Refusal :=
  runEntry s (.leaseQuery d)
    (pureEntry { plainForm false with dst := some d } (fun l _ =>
      if !s.units.ready.getLsbD 11 then .wait
      else result d (w32 (leaseLargest s (lanePart s l) (laneCore s l / 4) (laneHolder s l)))))

/-- LEASE.free (R322, R323, R389): the cluster's lease ends at once if the issuer holds it. -/
def execLeaseFree (s : State) : Host.Outcome State Fault Refusal :=
  runEntry s .leaseFree
    { bareEntry false with
      eff := fun l _ t =>
        let cl := laneCore t l / 4
        match (clusterOf t cl).lease with
        | some x => if x.slots = laneHolder t l then endLease t cl false else t
        | none => t }

/-- LEASE.req (R320, R321, R389): the issuing gang waits for the next tick. -/
def execLeaseReq (d : Reg) (n : BitVec 16) (s : State) : Host.Outcome State Fault Refusal :=
  runMove s (.leaseReq d n) { bareEntry false with form := { plainForm false with dst := some d } }
    (waitSlice (.lease d.toNat n.toNat s.units.power.ticks)) (stepSingle 4)

/-- The request of a slice, made before the latest tick: destination and length. -/
def leaseAsked (s : State) (x : Slice) : Option (Nat × Nat) :=
  match x.wait with | .lease d n t => if t < s.units.power.ticks then some (d, n) else none | _ => none

/-- Wave slots with a request to decide, in the order of R321; of two cores of a cluster with equal quadrants and slots, the lower core's
comes first (log entry 96). -/
def leaseWaiters (s : State) : List Nat :=
  let ks := (s.work.slots.map (·.1)).filter (fun k => k < 3072 && (slotSliceList s k).any (fun e =>
    ((group? s e.1).map (·.status)) = some .run && (leaseAsked s e.2.2).isSome))
  let rank (k : Nat) : Nat := 1000 * (slotCore k / 4) + 4 * (k % 24) + slotCore k % 4
  (sortNat (ks.map rank)).filterMap (fun r => ks.find? (fun k => rank k = r))

/-- The clock of a leased cluster: the sprint clock as R326 has lowered it, or the main clock while a core of the cluster is held for
heat (R317, R325). -/
def sprintMhz (s : State) (cl : Nat) : Nat :=
  if (List.range 4).any (fun n => (coreOf s (4 * cl + n)).hot) then 1700 else 2250 - (clusterOf s cl).lowered

/-- A lease given to a holder for a team; a grant to the holder replaces its time. -/
def giveLease (s : State) (cl : Nat) (h : List Nat) (team us : Nat) : State :=
  let x := clusterOf s cl
  setCluster s cl { x with lease := some { slots := h, team := team, us := us }, mhz := if x.lease.isSome then x.mhz else sprintMhz s cl }

/-- The first request of a wave slot decided: its slices receive n or 0 and go on. -/
def decideSlot (s : State) (k : Nat) : State :=
  match (slotSliceList s k).findSome? (fun e => (leaseAsked s e.2.2).map (fun a => (e, a))) with
  | none => s
  | some ((g, n, x), d, len) =>
    let l := LaneId.wave g (4 * n)
    let h := laneHolder s l
    let ok := leaseGranted s (lanePart s l) (slotCore k / 4) h len
    let mine := (slotSliceList s k).filter (fun e => e.2.2.gang = x.gang && e.2.2.wait = x.wait)
    let s := if ok then giveLease s (slotCore k / 4) h (laneTeam s l) (64 * len) else s
    let s := mine.foldl (fun s e =>
      (lanesOf (levelOf e.2.2).running).foldl (fun s i => writeLane s (.wave e.1 i) d (if ok then w32 len else 0)) s) s
    passAll s k (mine.map (fun e => (e.1, e.2.1)))

/-! ### Throttling (R325, R326) -/

def quadLevel (s : State) (c q n : Nat) : State := modQuad s c q (fun x => { x with level := n })

def addSteps (s : State) (xs : List PowerStep) : State :=
  { s with units := { s.units with power := { s.units.power with history := xs.reverse ++ s.units.power.history } } }

/-- The power cap in force, in milliwatts (R317). -/
def powerCap (s : State) : Nat :=
  if s.units.power.refreeze then 1700000 else if (leasesNow s).isEmpty then 2000000 else 2900000

/-- Whether a cluster is held by R325. -/
def clusterHeld (s : State) (cl : Nat) : Bool := (List.range 4).any (fun n => (coreOf s (4 * cl + n)).hot)

/-- Quadrants that a tick over the cap raises: those of clusters without a lease, not held and below level 3. -/
def raisable (s : State) : List (Nat × Nat) :=
  ((List.range s.units.fuses.ncore).filter (fun c => (clusterOf s (c / 4)).lease.isNone && !(coreOf s c).hot)).flatMap (fun c =>
    ((List.range 4).filter (fun q => (quadOf s c q).level < 3)).map (fun q => (c, q)))

/-- Leased clusters whose clock can be lowered. -/
def slowable (s : State) : List Nat :=
  (leasesNow s).filterMap (fun e => if (clusterOf s e.1).lowered < 550 && !clusterHeld s e.1 then some e.1 else none)

/-- Whether a step of the history is held by R325. -/
def stepHeld (s : State) (x : PowerStep) : Bool :=
  match x with
  | .raise c _ => (coreOf s c).hot
  | .slow cl => clusterHeld s cl

/-- A leased cluster runs so many MHz below the sprint clock. -/
def lowerClock (s : State) (cl n : Nat) : State :=
  let s := setCluster s cl { clusterOf s cl with lowered := n }
  setCluster s cl { clusterOf s cl with mhz := sprintMhz s cl }

/-- A step reversed. -/
def undoStep (s : State) (x : PowerStep) : State :=
  match x with
  | .raise c q => quadLevel s c q ((quadOf s c q).level - 1)
  | .slow cl =>
    if (clusterOf s cl).lease.isSome then lowerClock s cl ((clusterOf s cl).lowered - 50) else s

/-- The first step of a history that is not held, and the history without it. -/
def takeStep? (s : State) : List PowerStep → Option (PowerStep × List PowerStep)
  | [] => none
  | x :: xs => if stepHeld s x then (takeStep? s xs).map (fun r => (r.1, x :: r.2)) else some (x, xs)

/-- Step 6 of a tick: the board power against the cap. -/
def throttle (s : State) (powerMilliW : Nat) : State :=
  let cap := powerCap s
  if cap < powerMilliW then
    let qs := raisable s
    if qs.isEmpty then
      let cs := slowable s
      addSteps (cs.foldl (fun s cl => lowerClock s cl ((clusterOf s cl).lowered + 50)) s)
        (cs.map PowerStep.slow)
    else addSteps (qs.foldl (fun s e => quadLevel s e.1 e.2 ((quadOf s e.1 e.2).level + 1)) s) (qs.map (fun e => PowerStep.raise e.1 e.2))
  else if powerMilliW * 100 < cap * 95 then
    match takeStep? s s.units.power.history with
    | some (x, rest) =>
      let s := undoStep s x
      { s with units := { s.units with power := { s.units.power with history := rest } } }
    | none => s
  else s

/-! ### The tick (R316) -/

/-- Clusters whose lease has no time left. -/
def expiredLeases (s : State) : List Nat := ((leasesNow s).filter (fun e => e.2.us = 0)).map (·.1)

/-- Step 6 of a tick ends it, and the leases are recorded. -/
def shutTick (s : State) : State :=
  match s.units.power.opened with
  | none => s
  | some w => throttle { s with units := { s.units with power := { s.units.power with opened := none, leases := leasesNow s } } } w

/-- A tick with no expiry and no decision outstanding ends. -/
def closeTick (s : State) : State := if (expiredLeases s).isEmpty && (leaseWaiters s).isEmpty then shutTick s else s

/-- Step 4 of a tick for one cluster. -/
def expireLease (s : State) (cl : Nat) : State :=
  if s.units.power.opened.isSome && (expiredLeases s).contains cl then closeTick (endLease s cl true) else s

/-- LEASE_EXPIRY (R323). -/
def execLeaseExpiry (cluster : Nat) (s : State) : Host.Outcome State Fault Refusal := .next (expireLease s cluster)

/-- Step 5 of a tick for the wave slot that is first in order. -/
def decideLease (s : State) (k : Nat) : State :=
  if s.units.power.opened.isSome && (expiredLeases s).isEmpty && (leaseWaiters s).head? = some k then closeTick (decideSlot s k) else s

/-- LEASE_REQUEST_DECISION (R321, R389). -/
def execLeaseRequestDecision (slot : Nat) (s : State) : Host.Outcome State Fault Refusal := .next (decideLease s slot)

/-- The remaining steps of a tick that is still open: nothing else happens before they are taken (R316, R327). -/
def finishTick (s : State) : State :=
  let s := (expiredLeases s).foldl expireLease s
  shutTick ((List.range (8 * (leaseWaiters s).length)).foldl (fun s _ =>
    match leaseWaiters s with | k :: _ => decideLease s k | [] => s) s)

/-- One sensor's answer (R324): the fourth tick without one in a row reads as 125 degrees. -/
def readSensor (s : State) (x : Sensor) : State :=
  let k := 4 * x.core + x.quad
  let old := tgetD s.units.power.sensors k (0, 0)
  let now : Int × Nat := match x.reading with
    | some r => (r, 0)
    | none => (if 3 ≤ old.2 then 2000 else old.1, old.2 + 1)
  { s with units := { s.units with power := { s.units.power with sensors := tput s.units.power.sensors k now } } }

/-- The hottest quadrant of a core and its reading; on a tie the lowest. -/
def hottest (s : State) (c : Nat) : Nat × Int :=
  let t (q : Nat) : Int := (tgetD s.units.power.sensors (4 * c + q) (0, 0)).1
  (List.range 4).foldl (fun m q => if m.2 < t q then (q, t q) else m) (0, t 0)

/-- The hold of R325 begins: the core's quadrants go to level 3, and its cluster's lease to the main clock. -/
def beginHold (s : State) (c : Nat) : State :=
  let s := (List.range 4).foldl (fun s q => modQuad s c q (fun x => { x with heldFrom := some x.level, level := 3 })) s
  let s := modCore s c (fun k => { k with hot := true })
  setCluster s (c / 4) { clusterOf s (c / 4) with mhz := 1700 }

/-- The hold ends: a raise is added to the history for each level above the one at which it began. -/
def endHold (s : State) (c : Nat) : State :=
  let steps := (List.range 4).flatMap (fun q =>
    let x := quadOf s c q
    List.replicate (x.level - x.heldFrom.getD x.level) (PowerStep.raise c q))
  let s := addSteps s steps
  let s := (List.range 4).foldl (fun s q => modQuad s c q (fun x => { x with heldFrom := none })) s
  let s := modCore s c (fun k => { k with hot := false })
  let cl := c / 4
  if (clusterOf s cl).lease.isSome then setCluster s cl { clusterOf s cl with mhz := sprintMhz s cl } else s

/-- Step 1 of a tick for one core: THOT, MIGREQ.THERM and the hold of R325 (R324, R325). -/
def senseCore (s : State) (c : Nat) : State :=
  let th := (sysReg s 0x1C0).toNat
  let temp : Int := th % 65536
  let hyst : Int := th / 65536 % 256
  let (q, t) := hottest s c
  let s := modCore s c (fun k =>
    { k with thot := t, hotQuad := q, therm := if temp ≤ t then true else if t < temp - hyst then false else k.therm })
  let hot := (coreOf s c).hot
  if 1680 ≤ t && !hot then beginHold s c else if t < 1600 && hot then endHold s c else s

/-- Steps 2 and 3 of a tick: the heat store, the event of type 5, and the refreeze interval (R318, R319). -/
def meltStep (s : State) (delta : Int) : State :=
  let pw := s.units.power
  let j := (max 0 (min 240000000000 ((pw.meltMicroJ : Int) + delta))).toNat
  let s := { s with units := { s.units with power := { pw with meltMicroJ := j } } }
  let f := meltf s
  let s := if f = 65536 && !pw.full then raiseEvent s (eventRec 5 0xFF 0 0 0 0 0 f 0 0) else s
  let s := { s with units := { s.units with power := { s.units.power with full := f = 65536 } } }
  if !pw.refreeze && 58983 ≤ f then
    let s := { s with units := { s.units with power := { s.units.power with refreeze := true, count := (pw.count + 1) % 65536 } } }
    (leasesNow s).foldl (fun s e => endLease s e.1 true) s
  else if pw.refreeze && f ≤ 16384 then { s with units := { s.units with power := { s.units.power with refreeze := false } } }
  else s

/-- Five microseconds pass for leases and streams. -/
def passMicros (s : State) : State :=
  { s with
    work := { s.work with streams := s.work.streams.map (fun e => (e.1, { e.2 with us := e.2.us + 5 })) }
    units := { s.units with
      clusters := s.units.clusters.map (fun e => (e.1, { e.2 with lease := e.2.lease.map (fun l => { l with us := l.us - 5 }) })) } }

/-- The cores that a tick looks at: those with a sensor reading or a record. -/
def sensedCores (s : State) : List Nat :=
  (List.range s.units.fuses.ncore).filter (fun c =>
    (s.units.cores.any (fun e => e.1 = c)) || s.units.power.sensors.any (fun e => e.1 / 4 = c))

/-- A tick of the power controller. -/
def powerStep (s : State) (env : PowerEnv) : State :=
  if !bit s.units.ready.toNat 11 then s
  else
    let s := passMicros (finishTick s)
    let s := env.sensors.foldl readSensor s
    let s := endYields ((sensedCores s).foldl senseCore s)
    let s := meltStep s env.meltMicroJ
    let pw := s.units.power
    closeTick { s with units := { s.units with power := { pw with ticks := pw.ticks + 1, opened := some env.powerMilliW } } }

/-- POWER_TICK (R316). -/
def execPowerTick (env : PowerEnv) (s : State) : Host.Outcome State Fault Refusal := .next (powerStep s env)

end Sys2Proof.Machine
end

