-- ==== Sys2Proof/Machine/Geometry.lean ====
section
/-! DEFINITION. Exact geometry of a raster pass: warps and sample positions, clip coordinates, clipping, coverage, depth and attribute
interpolation (R280 to R293). Values are exact rationals until they are rounded. -/

namespace Sys2Proof.Machine

/-! ### Rationals -/

/-- The exact value of a finite FP32 word. -/
def ratOf (w : Word) : Option Rat :=
  match decodeFp fp32 w.toNat with
  | .fin n a b => some (mkRat (sgn n a) b)
  | _ => none

/-- The value of a word, with 0 for a non-finite one. -/
def rat (w : Word) : Rat := (ratOf w).getD 0

def numOf (q : Rat) : Num := .fin (q.num < 0) q.num.natAbs q.den

/-- Rounded once to FP32 under rne. -/
def f32 (q : Rat) : Word := w32 (roundFp fp32 .rne false (numOf q)).1

/-- The nearest integer, ties to even. -/
def nearest (q : Rat) : Int := (roundInt .rne (q.num < 0) q.num.natAbs q.den).1

def isFinite (w : Word) : Bool := (ratOf w).isSome

/-- 2^k as a rational. -/
def twoPow (k : Int) : Rat := if 0 ≤ k then mkRat (2 ^ k.toNat) 1 else mkRat 1 (2 ^ (-k).toNat)

/-! ### Warps (R282, R283) -/

/-- Fields of a warp (Table 12-5) in its eight words. -/
def warpRmax (w : List Word) : Nat := bits (wordAt w 0) 28 16
def warpNseg (w : List Word) : Nat := bits (wordAt w 0) 2 0
def warpDen (w : List Word) (k : Nat) : Nat := wordAt w (4 + k)

/-- One unit of NDC: 2^22. -/
def ndcOne : Int := 4194304

/-- A gaze value or breakpoint clamped to the axis. -/
def clampNdc (x : Int) : Int := max (-ndcOne) (min ndcOne x)

/-- Breakpoint k of a warp with gaze G. -/
def warpBreak (w : List Word) (g : Int) (k : Nat) : Int :=
  if k = 0 then -ndcOne else if k = warpNseg w then ndcOne else clampNdc (g + sint (w.getD k 0))

/-- U(X): the sample coordinate of an NDC position in units of 2^-30 samples. -/
def warpU (w : List Word) (g : Int) (x : Int) : Int :=
  ((List.range (warpNseg w)).map (fun k =>
    if warpBreak w g k < x then (warpDen w k : Int) * (min x (warpBreak w g (k + 1)) - warpBreak w g k) else 0)).foldl (· + ·) 0

/-- Samples on the axis. -/
def warpCount (w : List Word) (g : Int) : Nat := min (warpRmax w) (warpU w g ndcOne / 2 ^ 30).toNat

/-- X(i): the NDC position of a sample's centre. -/
def warpPos (w : List Word) (g : Int) (i : Nat) : Int :=
  let u : Int := (2 * i + 1) * 2 ^ 29
  match (List.range (warpNseg w)).find? (fun k => warpU w g (warpBreak w g k) ≤ u && u < warpU w g (warpBreak w g (k + 1))) with
  | some k => nearest (mkRat (warpBreak w g k * warpDen w k + (u - warpU w g (warpBreak w g k))) (warpDen w k))
  | none => 0

/-- Whether a warp keeps Table 12-5. -/
def warpOk (w : List Word) : Bool :=
  let n := warpNseg w
  let brk (k : Nat) := sint (w.getD k 0)
  bits (wordAt w 0) 31 29 = 0 && bits (wordAt w 0) 15 3 = 0 && 1 ≤ warpRmax w && warpRmax w ≤ 4096 && 1 ≤ n && n ≤ 4 &&
    (List.range 3).all (fun k => if k + 1 < n then (k = 0 || brk k < brk (k + 1)) else wordAt w (k + 1) = 0) &&
    (List.range 4).all (fun k => if k < n then 1 ≤ warpDen w k && warpDen w k ≤ 2 ^ 24 else warpDen w k = 0)

/-- The x warp and the y warp of a view record's 32 words. -/
def viewX (v : List Word) : List Word := (v.drop 16).take 8
def viewY (v : List Word) : List Word := (v.drop 24).take 8

/-- Whether a view record keeps Table 12-4. -/
def viewOk (v : List Word) : Bool := (v.take 16).all isFinite && warpOk (viewX v) && warpOk (viewY v)

/-! ### Clip coordinates and clipping (R287) -/

/-- A vector times a row-major 4 by 4 matrix of FP32 words, each component an exact sum rounded once. -/
def matVec (m : List Word) (v : List Num) : List Word :=
  (List.range 4).map (fun r =>
    let ts := (List.range 4).map (fun c => (numMul (decodeFp fp32 (wordAt m (4 * r + c))) (v.getD c (.fin false 0 1))).1)
    w32 (roundFp fp32 .rne false (sumTerms .rne ts).1).1)

/-- Clip coordinates of a vertex's four words. -/
def clipCoords (m v : List Word) : List Word := matVec m ((List.range 4).map (fun k => decodeFp fp32 (wordAt v k)))

/-- The seven clip planes: the value that is at least 0 inside. -/
def clipPlanes : List (List Rat → Rat) :=
  let x (v : List Rat) := v.getD 0 0
  let y (v : List Rat) := v.getD 1 0
  let z (v : List Rat) := v.getD 2 0
  let w (v : List Rat) := v.getD 3 0
  [fun v => w v - twoPow (-16), fun v => z v, fun v => w v - z v, fun v => x v + 2 * w v, fun v => 2 * w v - x v,
   fun v => y v + 2 * w v, fun v => 2 * w v - y v]

/-- A polygon clipped against one plane; a new vertex is computed on its edge and rounded. -/
def clipPlane (f : List Rat → Rat) (poly : List (List Word)) : List (List Word) :=
  let next := poly.drop 1 ++ poly.take 1
  (poly.zip next).flatMap (fun e =>
    let a := e.1.map rat
    let b := e.2.map rat
    let da := f a
    let db := f b
    (if 0 ≤ da then [e.1] else []) ++
      (if (0 ≤ da) ≠ (0 ≤ db) then
        [(a.zip b).map (fun c => f32 (c.1 + da / (da - db) * (c.2 - c.1)))]
      else []))

/-- The triangle clipped against every plane. -/
def clipPolygon (tri : List (List Word)) : List (List Word) := clipPlanes.foldl (fun p f => clipPlane f p) tri

/-- A clip-space vertex in NDC. -/
def ndcVertex (v : List Word) : NdcVertex :=
  let w := rat (v.getD 3 0)
  { x := nearest (rat (v.getD 0 0) / w * 4194304), y := nearest (rat (v.getD 1 0) / w * 4194304),
    z := f32 (rat (v.getD 2 0) / w) }

/-- The fan of a polygon from its first vertex. -/
def fanOf : List (List Word) → List (List (List Word))
  | a :: rest => (rest.zip (rest.drop 1)).map (fun e => [a, e.1, e.2])
  | [] => []

/-! ### Coverage (R288) -/

/-- The edge function from `a` to `b` at a position. -/
def edgeFn (a b : NdcVertex) (x y : Int) : Int := (b.x - a.x) * (y - a.y) - (b.y - a.y) * (x - a.x)

def noVertex : NdcVertex := { x := 0, y := 0, z := 0 }

/-- The area of a triangle. -/
def triArea (t : List NdcVertex) : Int :=
  let p0 := t.getD 0 noVertex
  edgeFn p0 (t.getD 1 noVertex) (t.getD 2 noVertex).x (t.getD 2 noVertex).y

/-- Whether an edge is inclusive. -/
def edgeIncl (a b : NdcVertex) : Bool := b.y < a.y || (b.y = a.y && a.x < b.x)

/-- Whether a triangle covers a sample position. -/
def covers (t : List NdcVertex) (x y : Int) : Bool :=
  let a := triArea t
  let p0 := t.getD 0 noVertex
  let p1 := if a < 0 then t.getD 2 noVertex else t.getD 1 noVertex
  let p2 := if a < 0 then t.getD 1 noVertex else t.getD 2 noVertex
  let inside (u v : NdcVertex) := 0 < edgeFn u v x y || (edgeFn u v x y = 0 && edgeIncl u v)
  a ≠ 0 && inside p0 p1 && inside p1 p2 && inside p2 p0

/-- Whether every unclipped vertex has an NDC position in front of the viewer. -/
def allInFront (tri : List (List Word)) : Bool := tri.all (fun v => twoPow (-16) ≤ rat (v.getD 3 0))

/-- The area that CULL tests. -/
def cullArea (tri : List (List Word)) (fans : List (List NdcVertex)) : Int :=
  if allInFront tri then triArea (tri.map ndcVertex) else (fans.map triArea).foldl (· + ·) 0

/-- Whether CULL drops a primitive. -/
def culled (cull : Nat) (area : Int) : Bool := (cull = 1 && area < 0) || (cull = 2 && 0 < area)

/-! ### Interpolation (R291, R293) -/

/-- Barycentrics of a position in a triangle. -/
def baryOf (t : List NdcVertex) (x y : Int) : List Rat :=
  let p0 := t.getD 0 noVertex
  let p1 := t.getD 1 noVertex
  let p2 := t.getD 2 noVertex
  let a : Rat := triArea t
  let l1 := (edgeFn p2 p0 x y : Rat) / a
  let l2 := (edgeFn p0 p1 x y : Rat) / a
  [1 - l1 - l2, l1, l2]

def dot (xs ys : List Rat) : Rat := ((xs.zip ys).map (fun e => e.1 * e.2)).foldl (· + ·) 0

/-- An FP32 word clamped to [0, 1], a NaN read as 1.0. -/
def clampUnit (w : Word) : Word :=
  match decodeFp fp32 w.toNat with
  | .nan _ => 0x3F800000
  | .inf n => if n then 0 else 0x3F800000
  | .fin n a b => if n then 0 else if b ≤ a then 0x3F800000 else w

/-- The interpolated depth of a position in a fan triangle (R293). -/
def depthAt (fan : List NdcVertex) (x y : Int) : Word := clampUnit (f32 (dot (baryOf fan x y) (fan.map (fun v => rat v.z))))

/-- The scalar triple product s · (a × b). -/
def triple (s a b : List Rat) : Rat :=
  let g (v : List Rat) (k : Nat) := v.getD k 0
  g s 0 * (g a 1 * g b 2 - g a 2 * g b 1) + g s 1 * (g a 2 * g b 0 - g a 0 * g b 2) + g s 2 * (g a 0 * g b 1 - g a 1 * g b 0)

/-- The perspective value at a position when a vertex has w below 2^-16. -/
def perspNear (clip : List (List Word)) (as : List Rat) (x y : Int) : Rat :=
  let s := [(x : Rat) / 4194304, (y : Rat) / 4194304, 1]
  let c (k : Nat) := let v := clip.getD (k % 3) []; [rat (v.getD 0 0), rat (v.getD 1 0), rat (v.getD 3 0)]
  let e := (List.range 3).map (fun k => triple s (c (k + 1)) (c (k + 2)))
  dot e as / e.foldl (· + ·) 0

/-- The exact value of ATTR.persp or ATTR.lin. -/
def attrExact (persp : Bool) (g : PixGeom) (as : List Rat) (x y : Int) : Rat :=
  if allInFront g.clip then
    let b := baryOf (g.clip.map ndcVertex) x y
    if persp then
      let m := (b.zip g.clip).map (fun e => e.1 / rat (e.2.getD 3 0))
      dot m as / m.foldl (· + ·) 0
    else dot b as
  else if persp then perspNear g.clip as x y
  else dot (baryOf g.fan x y) (g.fan.map (fun v => perspNear g.clip as v.x v.y))

/-- The vertex, of those in front of the viewer, at whose own position a sample lies. -/
def attrVertex (g : PixGeom) (x y : Int) : Option Nat :=
  (List.range 3).find? (fun k =>
    let v := g.clip.getD k []
    twoPow (-16) ≤ rat (v.getD 3 0) && (ndcVertex v).x = x && (ndcVertex v).y = y)

def ratAbs (q : Rat) : Rat := if q < 0 then -q else q

/-- Whether a word lies within 2 ulp plus 2^-24 of the largest attribute from an exact value. -/
def attrWithin (q mx : Rat) (c : Word) : Bool :=
  match ratOf c with
  | some v =>
    let u := ulp32 q.num.natAbs q.den
    ratAbs (v - q) ≤ 2 * mkRat u.1 u.2 + mx / 16777216
  | none => false

/-- ATTR (R291): attribute n of a primitive at a sample position. -/
def attrValue (kind : AttrKind) (g : PixGeom) (n : Nat) (x y : Int) : Word :=
  let ws := g.attrs.map (fun a => a.getD n 0)
  match kind with
  | .flat => ws.getD 0 0
  | k =>
    if !ws.all isFinite then w32 (fmtNan fp32)
    else match attrVertex g x y with
      | some v => ws.getD v 0
      | none =>
        let as := ws.map rat
        let q := attrExact (k = .persp) g as x y
        let c := Config.attrResult (q.num < 0) q.num.natAbs q.den
        if attrWithin q (as.foldl (fun m a => max m (ratAbs a)) 0) c then c else f32 q

end Sys2Proof.Machine
end

