-- ==== Sys2Proof/Machine/RasterOps.lean ====
section
/-! DEFINITION. The instructions of mesh and pixel-shader groups (R284, R285, R291, R292, R301, R346, R358, R359, R396, R427). -/

namespace Sys2Proof.Machine

/-! ### Fields of a raster record (Table 12-2, Table 13-2), by its words -/

def rrNview (w : List Word) : Nat := bits (wordAt w 32) 3 0
def rrVmask (w : List Word) : Nat := bits (wordAt w 32) 15 8
def rrCull (w : List Word) : Nat := bits (wordAt w 33) 15 14
def rrZwr (w : List Word) : Bool := bit (wordAt w 33) 13
def rrZfunc (w : List Word) : Nat := bits (wordAt w 33) 12 10
def rrPszout (w : List Word) : Bool := bit (wordAt w 33) 9
def rrPsdisc (w : List Word) : Bool := bit (wordAt w 33) 8
def rrStrip (w : List Word) : Nat := wordAt w 34 % 65536
def rrRow1 (w : List Word) : Nat := bits (wordAt w 35) 27 16
def rrRow0 (w : List Word) : Nat := bits (wordAt w 35) 11 0
def rrViewp (w : List Word) : Nat := dwordAt w 36
def rrGazep (w : List Word) : Nat := dwordAt w 38
def rrKeep (w : List Word) : Bool := bit (wordAt w 40) 4
def rrOclass (w : List Word) : Nat := wordAt w 40 % 16
def rrOslot (w : List Word) : Nat := wordAt w 41
def rrTslot0 (w : List Word) : Nat := bits (wordAt w 42) 21 16
def rrIring (w : List Word) : Nat := 64 * (wordAt w 42 % 65536)
def rrClr (w : List Word) : List Word := [w.getD 43 0, w.getD 44 0]
def rrClrz (w : List Word) : Word := w.getD 45 0
def rrDone (w : List Word) : Nat := dwordAt w 46

/-- An early-depth pass (R294). -/
def earlyDepth (w : List Word) : Bool := !rrPsdisc w && !rrPszout w

/-- The words of the view record, and the latched gaze, of a view of a pass. -/
def passView (p : Pass) (v : Nat) : List Word := p.views.getD v []
def passGaze (p : Pass) (v : Nat) : Int × Int := let e := tgetD p.gaze v (0, 0); (sint e.1, sint e.2)

/-- The position of sample (i, j) of a view of a pass (R283). -/
def samplePos (p : Pass) (v i j : Nat) : Int × Int :=
  (warpPos (viewX (passView p v)) (passGaze p v).1 i, warpPos (viewY (passView p v)) (passGaze p v).2 j)

/-- Samples of the two axes of a view of a pass (R282). -/
def viewCols (p : Pass) (v : Nat) : Nat := warpCount (viewX (passView p v)) (passGaze p v).1
def viewRows (p : Pass) (v : Nat) : Nat := warpCount (viewY (passView p v)) (passGaze p v).2

/-! ### Which pass a lane draws for -/

def isMeshLane (s : State) (l : LaneId) : Bool := laneRole s l = 1
def isPixelLane (s : State) (l : LaneId) : Bool := laneRole s l = 2

/-- A group's mesh or pixel data changed. -/
def modMesh (s : State) (l : LaneId) (f : Mesh → Mesh) : State :=
  match l with
  | .wave g _ => modGroup s g (fun x => { x with mesh := x.mesh.map f })
  | _ => s
def modOut (s : State) (l : LaneId) (f : PixOut → PixOut) : State :=
  match l with
  | .wave g i => modGroup s g (fun x => { x with pix := x.pix.map (fun p =>
      { p with outs := tput p.outs i (f (tgetD p.outs i { colour := none, depth := none })) }) })
  | _ => s

/-- The pixel data of a lane's group. -/
def lanePix (s : State) (l : LaneId) : Option Pix :=
  match l with | .wave g _ => (group? s g).bind (·.pix) | _ => none

/-- The sample that a lane of a pixel-shader group shades (R289). -/
def laneSample (x : Pix) (i : Nat) : Nat × Nat := (x.i0 + i % 8, x.j0 + i / 8)

/-! ### EMITV and EMITP -/

/-- Attributes per vertex of the pass that a context's mesh group draws for. -/
def meshNattr (s : State) : Nat :=
  match activeLanes s s.focus with | l :: _ => rrNattr (laneRecord s l) | [] => 0

/-- EMITV (R285, R359): the register range is tested before any register is read. -/
def execEmitv (ea eb : Bool) (a b : Reg) (s : State) : Host.Outcome State Fault Refusal :=
  let n := meshNattr s
  let bad := 55 < b.toNat + 3 + n
  let form : Form :=
    if bad then plainForm false
    else { plainForm false with srcs := src 0 a ea :: (List.range (4 + n)).map (fun k => srcN 1 b k eb false) }
  runEntry s (.emitv ea eb a b)
    { form := form, legal := isMeshLane s,
      plan := fun _ vs =>
        if bad then .fault 0x11 b.toNat 0
        else if 63 < (val vs 0).toNat then .fault 0x11 a.toNat 0 else .done [] 0 none,
      note := fun _ _ t => t,
      eff := fun l vs t => modMesh t l (fun m => { m with verts := tput m.verts (val vs 0).toNat (vs.drop 1) }),
      branch := false }

/-- EMITP (R285, R359). -/
def execEmitp (ea eb : Bool) (a b : Reg) (s : State) : Host.Outcome State Fault Refusal :=
  let v (vs : List Word) (k : Nat) := bits (val vs 1).toNat (8 * k + 7) (8 * k)
  runEntry s (.emitp ea eb a b)
    { form := { plainForm false with srcs := [src 0 a ea, src 1 b eb] }, legal := isMeshLane s,
      plan := fun _ vs =>
        if 125 < (val vs 0).toNat then .fault 0x11 a.toNat 0
        else if (List.range 3).any (fun k => 63 < v vs k) then .fault 0x11 b.toNat 0 else .done [] 0 none,
      note := fun _ _ t => t,
      eff := fun l vs t => modMesh t l (fun m =>
        { m with prims := tput m.prims (val vs 0).toNat { v0 := v vs 0, v1 := v vs 1, v2 := v vs 2, views := v vs 3 } }),
      branch := false }

/-! ### ATTR, DISC, ZOUT, PXOUT -/

/-- ATTR of a lane (R346). -/
def laneAttr (s : State) (l : LaneId) (kind : AttrKind) (n : Nat) : Word :=
  match lanePass s l, lanePix s l with
  | some p, some x =>
    if rrNattr p.words ≤ n then 0
    else
      let ij := laneSample x (lidxOf l)
      let xy := samplePos p x.geom.view ij.1 ij.2
      attrValue kind x.geom n xy.1 xy.2
  | _, _ => 0

/-- ATTR (R291, R346). -/
def execAttr (kind : AttrKind) (n : BitVec 4) (d : Reg) (s : State) : Host.Outcome State Fault Refusal :=
  runEntry s (.attr kind n d)
    { pureEntry { plainForm false with dst := some d } (fun l _ => result d (laneAttr s l kind n.toNat)) with
      legal := isPixelLane s }

/-- The entry of DISC. -/
def discEntry (ea : Bool) (a : Reg) (s : State) : Entry :=
  { pureEntry { plainForm false with srcs := [src 0 a ea] }
      (fun l vs => if val vs 0 ≠ 0 && !rrPsdisc (laneRecord s l) then .fault 0x0F 0 0 else .done [] 0 none) with
    legal := isPixelLane s }

/-- DISC (R292, R358): the instruction retires, and lanes whose register is non-zero exit. -/
def execDisc (ea : Bool) (a : Reg) (s : State) : Host.Outcome State Fault Refusal :=
  let active := activeLanes s s.focus
  let e := discEntry ea a s
  if active.isEmpty then .fault .noIssuer
  else
    let as := actsOf s e (wordOf (.disc ea a)) active
    let t := finish s e active as
    if as.any (fun x => x.2 = .wait) then .next t
    else
      let gone := (as.filter (fun x => match x.2 with | .done _ _ _ => val (laneVals s e.form active x.1) 0 ≠ 0 | _ => false))
      let parts := bySlice gone
      let t := parts.foldl (fun t p => exitLanes t p.1.1 p.1.2 (maskOf (p.2.map (fun x => lidxOf x.1))) true) t
      let t := partFocus t
      .next ((sortNat (parts.map (·.1.1))).foldl exitProgress t)

/-- Order of two depths in [0, 1]. -/
def depthLt (x y : Word) : Bool := rat x < rat y

/-- The output depth that ZOUT sets (R292). -/
def zoutDepth (zfunc : Nat) (v interp : Word) : Word :=
  let o := clampUnit v
  match zfunc with
  | 1 | 3 => if depthLt o interp then interp else o
  | 4 | 6 => if depthLt interp o then interp else o
  | _ => o

/-- ZOUT (R292, R427). -/
def execZout (ea : Bool) (a : Reg) (s : State) : Host.Outcome State Fault Refusal :=
  runEntry s (.zout ea a)
    { form := { plainForm false with srcs := [src 0 a ea] }, legal := isPixelLane s,
      plan := fun l _ => if rrPszout (laneRecord s l) then .done [] 0 none else .fault 0x0F 0 0,
      note := fun _ _ t => t,
      eff := fun l vs t => modOut t l (fun o =>
        { o with depth := some (zoutDepth (rrZfunc (laneRecord t l)) (val vs 0)
            (((lanePix t l).map (fun x => tgetD x.depths (lidxOf l) 0)).getD 0)) }),
      branch := false }

/-- PXOUT (R301, R396): it records the colour and blend code of each active lane. -/
def execPxout (blend ea : Bool) (a : Reg) (s : State) : Host.Outcome State Fault Refusal :=
  runEntry s (.pxout blend ea a)
    { form := { plainForm false with srcs := srcPair 0 a ea, pairs := [a] }, legal := isPixelLane s,
      plan := fun _ _ => .done [] 0 none,
      note := fun _ _ t => t,
      eff := fun l vs t => modOut t l (fun o => { o with colour := some (val vs 0, val vs 1, blend) }),
      branch := false }

end Sys2Proof.Machine
end

