-- ==== Sys2Proof/Machine/Texture.lean ====
section
/-! DEFINITION. Texture fetches and tile accesses (R303, R417 to R420). -/

namespace Sys2Proof.Machine

/-! ### Texture descriptors (Table 18-8) -/

def tdBase (d : List Word) : Nat := dwordAt d 0
def tdHgt (d : List Word) : Nat := wordAt d 2 / 65536
def tdWid (d : List Word) : Nat := wordAt d 2 % 65536
def tdPitch (d : List Word) : Nat := wordAt d 3
def tdFilt (d : List Word) : Bool := bit (wordAt d 4) 8
def tdAddrV (d : List Word) : Nat := bits (wordAt d 4) 7 6
def tdAddrU (d : List Word) : Nat := bits (wordAt d 4) 5 4
def tdFmt (d : List Word) : Nat := bits (wordAt d 4) 3 0

/-- Bytes of a texel. -/
def tdSize (d : List Word) : Nat := match tdFmt d with | 1 => 8 | 3 => 16 | _ => 4

/-- Whether a descriptor keeps Table 18-8. -/
def tdOk (d : List Word) : Bool :=
  tdBase d < 2 ^ 56 && tdBase d % tdSize d = 0 && 1 ≤ tdHgt d && tdHgt d ≤ 16384 && 1 ≤ tdWid d && tdWid d ≤ 16384 &&
    tdPitch d % tdSize d = 0 && tdWid d * tdSize d ≤ tdPitch d && wordAt d 4 / 512 = 0 && tdAddrV d ≠ 3 && tdAddrU d ≠ 3 &&
    tdFmt d ≤ 3 && (d.drop 5).all (· = 0)

/-! ### TEX and TEXG -/

/-- A record of `n` bytes, at most a stash sector, that a lane's instruction reads from its team's local allocation, as the access would
find it; or the lane's outcome (R312, R417). -/
def localRecord (s : State) (l : LaneId) (off n : Nat) (f : List Word → Act) : Act :=
  if off % 64 ≠ 0 then .fault 6 off 0
  else match team? s (laneTeam s l) with
    | none => .fault 7 off 0
    | some t =>
      if bit off 23 || t.scr < off + n then .fault 7 off 0
      else scratchAct s l off 4 (f (wordsOf (peek s (laneTeam s l) t (laneSide s l) off n)))

/-- The words of the record once it is at hand. -/
def recordWords (s : State) (l : LaneId) (off n : Nat) : List Word :=
  match team? s (laneTeam s l) with
  | some t => wordsOf (scratchRead t (laneSide s l) off n)
  | none => []

/-- The registers that a texture result fills. -/
def texDests (ls : List LaneId) (d : Nat) : List (LaneId × Nat × Word × Bool) :=
  ls.flatMap (fun l => (List.range 4).map (fun k => (l, d + k, (0 : Word), false)))

/-- The operation of a group's TEX or TEXG enters its core's texture queue, for the lanes that complete. -/
def texEnter (s : State) (active : List LaneId) (gather : Bool) (d off : Nat) (xs : List (LaneId × List Word)) : State :=
  match xs with
  | (.wave g i, _) :: _ =>
    let lead := leadLane active (.wave g i)
    let s := scratchFill lead off 4 s
    let op : TexOp :=
      { id := s.nextTag, group := g, gather := gather, d := d, desc := recordWords s lead off 64,
        coords := xs.map (fun x => (lidxOf x.1, val x.2 0, val x.2 1)) }
    modCore (post s .texture (texDests (xs.map (·.1)) d)) (laneCore s lead) (fun k => { k with tex := k.tex ++ [op] })
  | _ => s

/-- TEX and TEXG: each group's operation is of its lanes that complete; a lane that takes a cause on its own coordinates has no part in it
(R66, R457). -/
def execTexture (i : Instr) (gather ea eb : Bool) (d a b : Reg) (s : State) : Host.Outcome State Fault Refusal :=
  let form : Form := { plainForm false with srcs := srcPair 0 a ea ++ [srcOne 1 b eb], pairs := [a] }
  let active := activeLanes s s.focus
  let off (vs : List Word) := (val vs 2).toNat
  runEntry s i
    { form := form, legal := fun _ => true,
      plan := fun l vs => localRecord s l (off vs) 64 (fun w => if tdOk w then .done [] 0 none else .fault 0x11 b.toNat 0),
      note := fun l vs t => scratchFill l (off vs) 4 t,
      eff := fun _ _ t => t,
      branch := false,
      once := some (fun xs t => texEnter t active gather d.toNat (off ((xs.head?).elim [] (·.2))) xs) }

/-- TEX (R417, R418). -/
def execTex (ea eb : Bool) (d a b : Reg) (s : State) : Host.Outcome State Fault Refusal :=
  execTexture (.tex ea eb d a b) false ea eb d a b s

/-- TEXG (R417, R418). -/
def execTexg (ea eb : Bool) (d a b : Reg) (s : State) : Host.Outcome State Fault Refusal :=
  execTexture (.texg ea eb d a b) true ea eb d a b s

/-! ### TEXTURE_OPERATION -/

/-- A coordinate as the unit reads it. -/
def texCoord (w : Word) : Rat := rat w

/-- The addressing mode of one axis. -/
def texWrap (mode : Nat) (i : Int) (n : Nat) : Nat :=
  match mode with
  | 1 => (i % n).toNat
  | 2 => let m := (i % (2 * n)).toNat; if m < n then m else 2 * n - 1 - m
  | _ => (min (max i 0) (n - 1)).toNat

/-- The address of texel (i, j). -/
def texelVa (d : List Word) (i j : Int) : Nat :=
  tdBase d + texWrap (tdAddrV d) j (tdHgt d) * tdPitch d + texWrap (tdAddrU d) i (tdWid d) * tdSize d

/-- The four channels of a texel's bytes. -/
def texel (fmt : Nat) (bs : List Byte) : List Num :=
  match fmt with
  | 0 => (bs.take 4).map (fun b => Num.fin false b.toNat 255)
  | 1 => (List.range 4).map (fun k => decodeFp fp16 (leNat ((bs.drop (2 * k)).take 2)))
  | 2 => [decodeFp fp32 (leNat (bs.take 4)), .fin false 0 1, .fin false 0 1, .fin false 1 1]
  | _ => (List.range 4).map (fun k => decodeFp fp32 (leNat ((bs.drop (4 * k)).take 4)))

/-- The texels that a lane needs with their weights: one at weight 1, or the four around the position (R418). -/
def texTaps (d : List Word) (gather : Bool) (u v : Word) : List (Nat × Rat) :=
  let x := texCoord u * tdWid d
  let y := texCoord v * tdHgt d
  if !gather && !tdFilt d then [(texelVa d x.floor y.floor, 1)]
  else
    let x := x - 1 / 2
    let y := y - 1 / 2
    let i := x.floor
    let j := y.floor
    let fx : Rat := mkRat (nearest ((x - i) * 256)) 256
    let fy : Rat := mkRat (nearest ((y - j) * 256)) 256
    [(texelVa d i j, (1 - fx) * (1 - fy)), (texelVa d (i + 1) j, fx * (1 - fy)), (texelVa d i (j + 1), (1 - fx) * fy),
     (texelVa d (i + 1) (j + 1), fx * fy)]

/-- The taps that are fetched: of a filtered texel those with a weight. -/
def texFetched (d : List Word) (gather : Bool) (u v : Word) : List (Nat × Rat) :=
  (texTaps d gather u v).filter (fun e => gather || e.2 ≠ 0)

/-- A lane's four result words from its texels. -/
def texResult (d : List Word) (gather : Bool) (taps : List (Nat × Rat)) (bytes : Nat → List Byte) : List Word :=
  let put (x : Num) : Word := w32 (roundFp fp32 .rne false x).1
  if gather then taps.map (fun e => put ((texel (tdFmt d) (bytes e.1)).headD (.fin false 0 1)))
  else (List.range 4).map (fun k =>
    put (sumTerms .rne (taps.map (fun e =>
      let c := (texel (tdFmt d) (bytes e.1)).getD k (.fin false 0 1)
      if e.2 = 1 then c else (numMul (numOf e.2) c).1))).1)

/-- The head operation of a core's texture queue performed (R418, R419). -/
def textureStep (s : State) (core : Nat) : State :=
  match (coreOf s core).tex with
  | [] => s
  | o :: rest =>
    let pop (s : State) := modCore s core (fun k => { k with tex := rest })
    match group? s o.group with
    | none => pop s
    | some x =>
      let p := teamPart s x.team
      let size := tdSize o.desc
      let eng := engTex core
      let lanes := o.coords.map (fun c => (c.1, texFetched o.desc o.gather c.2.1 c.2.2))
      let vas := lanes.flatMap (fun e => e.2.map (·.1))
      let block (va : Nat) : Option Block := if 2 ^ 56 ≤ va then some (.fault 4 va) else spanBlock s eng core p va size .r
      match vas.findSome? (fun va => match block va with | some (.wait w a) => some (w, a) | _ => none) with
      | some (va, a) => spanWait s eng core p va a
      | none =>
        let fault (e : Nat × List (Nat × Rat)) : Option (Nat × Nat) :=
          e.2.findSome? (fun t => match block t.1 with | some (.fault c _) => some (c, t.1) | _ => none)
        let dests := lanes.flatMap (fun e =>
          let bad := e.2.any (fun t => spanBad s core p t.1 size .r)
          let ws := match fault e with
            | some _ => List.replicate 4 (0 : Word)
            | none => texResult o.desc o.gather e.2 (fun va => spanRead s core p va size .r)
          ws.zipIdx.map (fun w => (LaneId.wave o.group e.1, o.d + w.2, w.1, bad && (fault e).isNone)))
        let t := vas.foldl (fun t va => if (block va).isNone then spanNote t core p va size .r else t) s
        let t := match lanes.findSome? (fun e => (fault e).map (fun f => (e.1, f))) with
          | some (l, c, va) => addAsync (engDone (poolNote t eng core p va .r) p eng) (laneSeat x l) x.team c va
          | none => t
        tryEndTeam (landPosted (pop t) { id := o.id, kind := .texture, dests := dests, link := none }) x.team

/-- TEXTURE_OPERATION (R418, R419). -/
def execTextureOperation (core : Nat) (s : State) : Host.Outcome State Fault Refusal := .next (textureStep s core)

/-! ### Tile accesses (R297, R303, R420) -/

/-- Bytes of a tile slot. -/
def tileBytes : Nat := 12288

/-- The scratchpad offset of a sample's colour or depth in tile slot `t`. -/
def tileOffset (scr t n : Nat) (depth : Bool) : Nat := scr + tileBytes * t + (if depth then 8192 + 4 * n else 8 * n)

/-- The checks of a tile access: the register's word, whose slot must lie in the team's tile memory. -/
def tileAct (s : State) (l : LaneId) (x : Word) : Act :=
  let tmem := ((team? s (laneTeam s l)).map (·.tmem)).getD 0
  let v := x.toNat
  if bits v 31 22 ≠ 0 || bits v 15 10 ≠ 0 || tmem / tileBytes ≤ bits v 21 16 then .fault 7 v 0 else .done [] 0 none

/-- Where a tile access goes. -/
def tileTarget (t : Team) (x : Word) (depth : Bool) : Nat := tileOffset t.scr (bits x.toNat 21 16) (bits x.toNat 9 0) depth

/-- A group's tile access enters the queue of its core's tile back end (R180), for the lanes that complete (R66): of each of them the word
that names the sample, and the bytes that it stores. -/
def tileEnter (s : State) (depth : Bool) (load : Option Nat) (d words : Nat) (xs : List (LaneId × Word × List Byte)) : State :=
  match xs with
  | (.wave g i, _) :: _ =>
    let l := LaneId.wave g i
    match team? s (laneTeam s l) with
    | some t =>
      modCore s (laneCore s l) (fun k => { k with tbe := k.tbe ++ [.access
        { id := load, group := g, side := laneSide s l, d := d, words := words,
          lanes := xs.map (fun x => (lidxOf x.1, tileTarget t x.2.1 depth, x.2.2)) }] })
    | none => s
  | _ => s

/-- Registers of a sample's colour or depth. -/
def tileWords (depth : Bool) : Nat := if depth then 1 else 2

/-- TILELD (R303, R420). -/
def execTileld (depth ea : Bool) (d a : Reg) (s : State) : Host.Outcome State Fault Refusal :=
  let form : Form := { plainForm false with srcs := [src 0 a ea], pairs := (if depth then [] else [d]), dst := (if depth then some d else none) }
  runEntry s (.tileld depth ea d a)
    { form := form,
      legal := fun _ => true,
      plan := fun l vs => tileAct s l (val vs 0),
      note := fun _ _ t => t,
      eff := fun _ _ t => t,
      branch := false,
      once := some (fun xs t =>
        let id := t.nextTag
        let t := post t .tile (xs.flatMap (fun x => (List.range (tileWords depth)).map (fun k => (x.1, d.toNat + k, (0 : Word), false))))
        tileEnter t depth (some id) d.toNat (tileWords depth) (xs.map (fun x => (x.1, val x.2 0, [])))) }

/-- TILEST (R303, R420): a queue in d is cause 0x11 (R95). -/
def execTilest (depth ea : Bool) (d a : Reg) (s : State) : Host.Outcome State Fault Refusal :=
  let form : Form :=
    { plainForm false with
      srcs := src 0 a ea :: srcRange 3 d (tileWords depth) false,
      pairs := (if depth then [] else [d]), dst := (if depth then some d else none) }
  runEntry s (.tilest depth ea d a)
    { form := form,
      legal := fun _ => true,
      plan := fun l vs => tileAct s l (val vs 0),
      note := fun _ _ t => t,
      eff := fun _ _ t => t,
      branch := false,
      once := some (fun xs t => tileEnter t depth none d.toNat (tileWords depth) (xs.map (fun x => (x.1, val x.2 0, bytesOf (x.2.drop 1))))) }

end Sys2Proof.Machine
end

