-- ==== Sys2Proof/Machine/Rays.lean ====
section
/-! DEFINITION. Ray launches (R312 to R315, R399). -/

namespace Sys2Proof.Machine

/-! ### The record (Table 13-11) -/

def ryI0 (w : List Word) : Nat := bits (wordAt w 8) 11 0
def ryJ0 (w : List Word) : Nat := bits (wordAt w 8) 27 16
def ryIw (w : List Word) : Nat := bits (wordAt w 9) 6 0
def ryJh (w : List Word) : Nat := bits (wordAt w 9) 22 16
def ryMask (w : List Word) : Nat := wordAt w 10
def ryRing (w : List Word) : Nat := 64 * (wordAt w 11 % 65536)
def ryCullb (w : List Word) : Bool := bit (wordAt w 14) 1

/-- Bytes of the sample mask. -/
def ryMaskBytes (w : List Word) : Nat := (ryIw w * ryJh w + 31) / 32 * 4

/-- 0 ≤ TMIN ≤ TMAX. -/
def ryRangeOk (w : List Word) : Bool :=
  let lo := decodeFp fp32 (wordAt w 12)
  let hi := decodeFp fp32 (wordAt w 13)
  !isNan lo && !isNan hi && numCmp (.fin false 0 1) lo ≠ .gt && numCmp lo hi ≠ .gt

/-- Whether a record keeps Table 13-11; the mask lies in the allocation of `scr` bytes. -/
def ryOk (w : List Word) (scr : Nat) : Bool :=
  let addr (k al : Nat) : Bool := dwordAt w k < 2 ^ 56 && dwordAt w k % al = 0
  addr 0 128 && addr 2 8 && addr 4 64 && addr 6 64 && wordAt w 8 = ryJ0 w * 65536 + ryI0 w && wordAt w 9 = ryJh w * 65536 + ryIw w &&
    1 ≤ ryIw w && ryIw w ≤ 64 && 1 ≤ ryJh w && ryJh w ≤ 64 &&
    (ryMask w = 0xFFFFFFFF || (ryMask w % 4 = 0 && ryMask w + ryMaskBytes w ≤ scr)) && wordAt w 11 < 65536 && ryRangeOk w &&
    wordAt w 14 < 4 && wordAt w 15 = 0

/-- RAYGO's decision for a group (R312); a ring has ended when EOS is set and it is empty (R198). -/
def raygoAct (s : State) (l : LaneId) (a : Reg) (off : Nat) : Act :=
  localRecord s l off 64 (fun w =>
    match team? s (laneTeam s l) with
    | none => .fault 7 off 0
    | some t =>
      if !ryOk w t.scr then .fault 0x11 a.toNat 0
      else
        let tm := laneTeam s l
        let side := laneSide s l
        let t' := (team? (stashFillAt s tm side (ryRing w)) tm).getD t
        fillAct s l tm t side (ryRing w)
          (if !ringValid t' side (ryRing w) || (ringEos t' side (ryRing w) && ringUsed t' side (ryRing w) = 0) then .fault 0x12 (ryRing w) 0 else .done [] 0 none))

/-- The stash sectors of a launch's record, and once that is at hand of its ring's header, filled (R140). -/
def raygoFill (l : LaneId) (off : Nat) (s : State) : State :=
  let s := scratchFill l off 4 s
  match team? s (laneTeam s l) with
  | some t =>
    if unfilledAt t (laneSide s l) off then s
    else fillNote l (laneTeam s l) (laneSide s l) (ryRing (recordWords s l off 64)) s
  | none => s

/-- RAYGO (R312, R399): one launch for each group enters the cluster's ray queue. -/
def execRaygo (ea : Bool) (a : Reg) (s : State) : Host.Outcome State Fault Refusal :=
  let active := activeLanes s s.focus
  let off (vs : List Word) := (val vs 0).toNat
  runEntry s (.raygo ea a)
    { form := { plainForm false with srcs := [srcOne 0 a ea] }, legal := fun _ => true,
      plan := fun l vs => raygoAct s l a (off vs),
      note := fun l vs t => raygoFill l (off vs) t,
      eff := fun l vs t =>
        match l with
        | .wave g _ =>
          if leadLane active l ≠ l then t
          else
            let t := raygoFill l (off vs) t
            let op : RayOp :=
              { group := g, lanes := maskOf ((active.filter (sameGroup l)).map lidxOf), team := laneTeam t l, side := laneSide t l,
                words := recordWords t l (off vs) 64, gaze := none, next := 0 }
            let c := laneCore t l / 4
            setCluster t c { clusterOf t c with rays := (clusterOf t c).rays ++ [op] }
        | _ => t,
      branch := false }

/-! ### Rays (R313) -/

/-- An exact quotient of two words rounded to FP32, or none when it is not finite. -/
def divWords (a b : Word) : Option Rat :=
  match ratOf a, ratOf b with
  | some x, some y => if y = 0 then none else ratOf (f32 (x / y))
  | _, _ => none

/-- A vector of three, if each component is there. -/
def vec3 (x y z : Option Rat) : Option (List Rat) :=
  match x, y, z with | some x, some y, some z => some [x, y, z] | _, _, _ => none

/-- A point of the ray: the inverse matrix times (X, Y, z, 1), divided by its w. -/
def rayPoint (m : List Word) (x y : Int) (z : Nat) : Option (List Rat) :=
  let v := matVec m [numOf ((x : Rat) / 4194304), numOf ((y : Rat) / 4194304), .fin false z 1, .fin false 1 1]
  vec3 (divWords (v.getD 0 0) (v.getD 3 0)) (divWords (v.getD 1 0) (v.getD 3 0)) (divWords (v.getD 2 0) (v.getD 3 0))

/-- Origin and direction of a sample's ray; none where they are not finite (log entry 99). -/
def rayOf (m : List Word) (x y : Int) : Option (List Rat × List Rat) :=
  match rayPoint m x y 0, rayPoint m x y 1 with
  | some p, some q =>
    let d := (List.range 3).map (fun k => ratOf (f32 (q.getD k 0 - p.getD k 0)))
    (vec3 (d.getD 0 none) (d.getD 1 none) (d.getD 2 none)).map (fun d => (p, d))
  | _, _ => none

/-! ### Hits (R314) -/

/-- A hit: its exact distance, the triangle id, the barycentrics of vertices 1 and 2, the leaf's address, and whether it faces away. -/
structure Hit where
  t : Rat
  id : Word
  u : Rat
  v : Rat
  leaf : Nat
  back : Bool

def sub3 (a b : List Rat) : List Rat := (a.zip b).map (fun e => e.1 - e.2)

/-- The exact hit of a ray on a triangle, if it lies in range. -/
def hitTriangle (w : List Word) (o d : List Rat) (vs : List (List Rat)) (id : Word) (leaf : Nat) : Option Hit :=
  let e (k : Nat) := sub3 (vs.getD (k % 3) []) o
  let vol (k : Nat) := triple d (e (k + 1)) (e (k + 2))
  let v0 := vol 0
  let v1 := vol 1
  let v2 := vol 2
  let sum := v0 + v1 + v2
  let same := (0 ≤ v0 ∧ 0 ≤ v1 ∧ 0 ≤ v2) ∨ (v0 ≤ 0 ∧ v1 ≤ 0 ∧ v2 ≤ 0)
  if !decide same || sum = 0 then none
  else
    let t := triple (e 0) (e 1) (e 2) / sum
    let lo := rat (w.getD 12 0)
    let below := match ratOf (w.getD 13 0) with | some hi => decide (t ≤ hi) | none => true
    let back : Bool := decide (0 < sum)
    if decide (lo ≤ t) && (ratOf (w.getD 12 0)).isSome && below && !(ryCullb w && back) then
      some { t := t, id := id, u := v1 / sum, v := v2 / sum, leaf := leaf, back := back }
    else none

/-- The nearer of two hits, with the lower leaf address on a tie. -/
def nearerHit (a : Option Hit) (b : Option Hit) : Option Hit :=
  match a, b with
  | none, b => b
  | a, none => a
  | some x, some y => if y.t < x.t ∨ (y.t = x.t ∧ y.leaf < x.leaf) then some y else some x

/-- A reference of a node (Table 13-12). -/
inductive BvhRef where
  | empty
  | node (va : Nat)
  | leaves (va count : Nat)
  | bad
  deriving DecidableEq, Repr

def bvhRef (x : Nat) : BvhRef :=
  let addr := x % 2 ^ 56
  let n := bits x 61 56
  match x / 2 ^ 62 with
  | 0 => .empty
  | 1 => if addr % 64 = 0 && n = 0 then .node addr else .bad
  | 2 => if addr % 64 = 0 && n ≠ 0 then .leaves addr n else .bad
  | _ => .bad

/-- What a ray has found: its nearest hit and whether a subtree was malformed. -/
structure Found where
  hit : Option Hit
  bad : Bool

/-- Bytes of global memory as the ray unit reads them, or what keeps it from them. -/
def rayRead (s : State) (cl core p va n : Nat) : Except Block (List Byte) :=
  if 2 ^ 56 ≤ va then .error (.fault 4 va)
  else match spanBlock s (engRay cl) core p va n .r with
    | some b => .error b
    | none => .ok (spanRead s core p va n .r)

/-- One leaf tested. A non-zero reserved field empties that leaf alone, and a leaf with a vertex that is not finite is no hit (log entry 99). -/
def testLeaf (w : List Word) (o d : List Rat) (va : Nat) (bs : List Byte) (f : Found) : Found :=
  let ws := wordsOf bs
  let vs := (List.range 3).map (fun k => (List.range 3).map (fun c => ws.getD (3 * k + c) 0))
  if (ws.drop 10).any (· ≠ 0) then { f with bad := true }
  else if vs.any (fun v => v.any (fun x => !isFinite x)) then f
  else { f with hit := nearerHit f.hit (hitTriangle w o d (vs.map (fun v => v.map rat)) (ws.getD 9 0) va) }

/-- References that one ray visits at most. A hierarchy of nodes that each have one parent has at most 2^50 nodes and leaves in the 2^56 bytes
of an address space, so that only one that meets itself again reaches the bound (log entry 99). -/
def visitBound : Nat := 2 ^ 58

/-- The subtrees of a list of references visited. No box is rejected, so that every leaf is tested. -/
def visit (s : State) (cl core p : Nat) (w : List Word) (o d : List Rat) : Nat → List BvhRef → Found → Except Block Found
  | _, [], f => .ok f
  | 0, _, f => .ok f
  | k + 1, r :: rs, f =>
    match r with
    | .empty => visit s cl core p w o d k rs f
    | .bad => visit s cl core p w o d k rs { f with bad := true }
    | .node va =>
      match rayRead s cl core p va 64 with
      | .error b => .error b
      | .ok bs => visit s cl core p w o d k (bvhRef (leNat ((bs.drop 48).take 8)) :: bvhRef (leNat (bs.drop 56)) :: rs) f
    | .leaves va n =>
      match rayRead s cl core p va 64 with
      | .error b => .error b
      | .ok bs =>
        let f := testLeaf w o d va bs f
        visit s cl core p w o d k (if n ≤ 1 then rs else .leaves (va + 64) (n - 1) :: rs) f

/-! ### Hit records (Table 13-13) -/

/-- A ray's record. What the spec leaves open in a miss is taken from free values, from index `ix` on. -/
def hitRecord (i j : Nat) (f : Found) (ix : Nat) : List Byte :=
  let head := leBytes 2 i ++ leBytes 2 j
  let bad := if f.bad then 4 else 0
  match f.hit with
  | some h =>
    head ++ bytesOf [f32 h.t, h.id, f32 h.u, f32 h.v] ++ leBytes 8 h.leaf ++ leBytes 4 (1 + (if h.back then 2 else 0) + bad)
  | none => head ++ bytesOf [0x7F800000] ++ bytesOf ((List.range 5).map (fun k => Config.freeWord (ix + k))) ++ leBytes 4 bad

/-- A padding record: byte 28 is 0xFF and the others are open. -/
def padRecord (ix : Nat) : List Byte := (bytesOf ((List.range 8).map (fun k => Config.freeWord (ix + k)))).set 28 0xFF

/-- The mask bit of sample `k` of the rectangle. -/
def maskBit (s : State) (o : RayOp) (k : Nat) : Bool :=
  ryMask o.words = 0xFFFFFFFF ||
    (match team? s o.team with
     | some t => bit (leNat (peek s o.team t o.side (ryMask o.words + k / 8) 1)) (k % 8)
     | none => false)

/-- The records of the next rays: up to `n` of them from sample `k` on, with the sample after the last one. -/
def rayRecords (s : State) (cl core p : Nat) (o : RayOp) (view m : List Word) (gaze : Int × Int) :
    Nat → Nat → Nat → Except Block (List (List Byte) × Nat)
  | 0, k, _ => .ok ([], k)
  | _, k, 0 => .ok ([], k)
  | fuel + 1, k, n + 1 =>
    let w := o.words
    if ryIw w * ryJh w ≤ k then .ok ([], k)
    else
      let i := ryI0 w + k % ryIw w
      let j := ryJ0 w + k / ryIw w
      if !maskBit s o k || warpCount (viewX view) gaze.1 ≤ i || warpCount (viewY view) gaze.2 ≤ j then
        rayRecords s cl core p o view m gaze fuel (k + 1) (n + 1)
      else
        let found : Except Block Found :=
          match rayOf m (warpPos (viewX view) gaze.1 i) (warpPos (viewY view) gaze.2 j) with
          | some (og, d) => visit s cl core p w og d visitBound [.node (dwordAt w 6)] { hit := none, bad := false }
          | none => .ok { hit := none, bad := false }
        match found with
        | .error b => .error b
        | .ok f =>
          match rayRecords s cl core p o view m gaze fuel (k + 1) n with
          | .error b => .error b
          | .ok (rs, k') => .ok (hitRecord i j f (s.freeIx + 5 * n) :: rs, k')

/-- A launch ends with ERR set in its ring: because of an unresolved fault, which its wave takes as an asynchronous cause (R315), or
because its ring has failed or ended (R201). -/
def rayFail (s : State) (cl : Nat) (o : RayOp) (fault : Option (Nat × Nat)) : State :=
  let s := ringFlag (engDone s (teamPart s o.team) (engRay cl)) o.team o.side (ryRing o.words) 2
  let s := setCluster s cl { clusterOf s cl with rays := (clusterOf s cl).rays.tail }
  let s := match fault, group? s o.group with
    | some f, some x => addAsync s (laneSeat x ((lanesOf o.lanes).headD 0)) o.team f.1 f.2
    | _, _ => s
  tryEndTeam s o.team

/-- The launch's gaze as it is read at its start: two clamped words (R281). -/
def clampGaze (bs : List Byte) : Word × Word :=
  let ws := wordsOf bs
  (wInt (clampNdc (sint (ws.getD 0 0))), wInt (clampNdc (sint (ws.getD 1 0))))

/-- The gaze of the head launch of a cluster: read once, at the launch's start, as an acquire at system scope that promotes a tagged line (R178,
R281, R313), and kept with the launch. -/
def rayGaze (s : State) (cl core p : Nat) (o : RayOp) : Except Block (State × Word × Word) :=
  match o.gaze with
  | some g => .ok (s, g)
  | none =>
    let va := dwordAt o.words 2
    let s := match translate s core p va .r with | .ok pa _ => promote s none (pa / 256) | _ => s
    match rayRead s cl core p va 8 with
    | .error b => .error b
    | .ok bs =>
      let g := clampGaze bs
      .ok (setCluster s cl { clusterOf s cl with rays := modifyNth (clusterOf s cl).rays 0 (fun q => { q with gaze := some g }) }, g)

/-- The head launch of a cluster goes on by one slot of its ring (R313 to R315). -/
def rayStep (s : State) (cl : Nat) : State :=
  match (clusterOf s cl).rays with
  | [] => s
  | o :: _ =>
    match team? s o.team with
    | none =>
      if s.work.images.any (fun m => m.tid = o.team) then s
      else setCluster s cl { clusterOf s cl with rays := (clusterOf s cl).rays.tail }
    | some t =>
      let core := t.core + o.side
      let p := teamPart s o.team
      let w := o.words
      let h := ryRing w
      let stop (s : State) (b : Block) : State :=
        match b with
        | .wait va a => spanWait s (engRay cl) core p va a
        | .fault c va => rayFail (poolNote s (engRay cl) core p va .r) cl o (some (c, va))
      match rayGaze s cl core p o with
      | .error b => stop s b
      | .ok (s, gaze) =>
      match scratchBlock s (engRay cl) o.team t o.side h 64 with
      | some b => stop s b
      | none =>
      let s := scratchReady s o.team o.side h 64
      let t := (team? s o.team).getD t
      if !ringValid t o.side h then s
      else if ringErr t o.side h || ringEos t o.side h then rayFail s cl o none
      else match (if ryMask w = 0xFFFFFFFF then none else scratchBlock s (engRay cl) o.team t o.side (ryMask w) (ryMaskBytes w)) with
        | some b => stop s b
        | none =>
          match rayRead s cl core p (dwordAt w 0) 128, rayRead s cl core p (dwordAt w 4) 64 with
          | .error b, _ => stop s b
          | _, .error b => stop s b
          | .ok view, .ok m =>
            let per := ringSize t o.side h / 32
            match rayRecords s cl core p o (wordsOf view) (wordsOf m) (sint gaze.1, sint gaze.2) (ryIw w * ryJh w) o.next per with
            | .error b => stop s b
            | .ok (rs, k) =>
              let last := match rayRecords s cl core p o (wordsOf view) (wordsOf m) (sint gaze.1, sint gaze.2) (ryIw w * ryJh w) k 1 with
                | .ok ([], _) => true
                | _ => false
              let keep (s : State) : State := setCluster s cl { clusterOf s cl with
                rays := modifyNth (clusterOf s cl).rays 0 (fun q => { q with next := k }) }
              let done (s : State) : State :=
                tryEndTeam (setCluster (ringFlag s o.team o.side h 1) cl { clusterOf s cl with rays := (clusterOf s cl).rays.tail }) o.team
              if rs.isEmpty then done s
              else if ringCount t o.side h ≤ ringUsed t o.side h then s
              else
                let pads := (List.range (per - rs.length)).flatMap (fun n => padRecord (s.freeIx + 5 * per + 8 * n))
                let off := ringBase t o.side h + ringWidx t o.side h % max 1 (ringCount t o.side h) * ringSize t o.side h
                match scratchBlock s (engRay cl) o.team t o.side off (ringSize t o.side h) with
                | some b => stop s b
                | none =>
                  let s := { s with freeIx := s.freeIx + 13 * per }
                  let s := scratchWrite s o.team o.side off (rs.flatten ++ pads) false
                  let s := ringAdvance s o.team o.side h 0
                  if last then done s else keep s

/-- RAY_LAUNCH (R313 to R315). -/
def execRayLaunch (cluster : Nat) (s : State) : Host.Outcome State Fault Refusal := .next (rayStep s cluster)

end Sys2Proof.Machine
end

