-- ==== Sys2Proof/Machine/RasterPass.lean ====
section
/-! DEFINITION. The steps of a raster pass: taking a record, the clear, rasterisation, the start of pixel groups, commits, the
publication of tiles and completion (R277 to R304, R445, R458). -/

namespace Sys2Proof.Machine

/-! ### The views and tiles of a pass -/

/-- Views drawn. -/
def drawnViews (w : List Word) : List Nat := (List.range 8).filter (fun v => bit (rrVmask w) v)

/-- Tile rows of a pass: the first, and how many. -/
def tileRow0 (w : List Word) : Nat := rrRow0 w / 32
def tileRows (w : List Word) : Nat := (rrRow1 w + 31) / 32 - tileRow0 w

/-- Tile columns of a view. -/
def tileCols (p : Pass) (v : Nat) : Nat := (viewCols p v + 31) / 32

/-- The tiles of a pass in order of their numbers: view, row and column (R299). -/
def passTiles (p : Pass) : List (Nat × Nat × Nat) :=
  (drawnViews p.words).flatMap (fun v => (List.range (tileRows p.words)).flatMap (fun r =>
    (List.range (tileCols p v)).map (fun c => (v, tileRow0 p.words + r, c))))

/-- How many tiles a pass has. -/
def tileCount (p : Pass) : Nat := ((drawnViews p.words).map (fun v => tileRows p.words * tileCols p v)).foldl (· + ·) 0

/-- The number of the tile that holds sample (i, j) of a view. -/
def tileNumber (p : Pass) (v i j : Nat) : Nat :=
  (((drawnViews p.words).filter (· < v)).map (fun u => tileRows p.words * tileCols p u)).foldl (· + ·) 0 +
    (j / 32 - tileRow0 p.words) * tileCols p v + i / 32

/-! ### Owner teams (R298, R299) -/

/-- Teams of the owner launch. -/
def ownerTeams (s : State) (lid : Nat) : Nat := ((launch? s lid).map (·.total)).getD 1

/-- Team `n` of a launch that is placed. -/
def teamOf (s : State) (lid n : Nat) : Option (Nat × Team) := s.work.teams.find? (fun e => e.2.launch = lid && e.2.no = n)

/-- Team `n` of a launch in a context image. -/
def savedTeam (s : State) (lid n : Nat) : Option Team :=
  (s.work.images.find? (fun m => m.team.launch = lid && m.team.no = n)).map (·.team)

/-- The launch of a class and slot with a started, unended team; the latest, when slot numbers have wrapped. -/
def namedLaunch (s : State) (p cls slot : Nat) : Option Nat :=
  ((s.work.launches.filter (fun e => e.2.part = p && e.2.src = .queue cls && e.2.slot = slot &&
    (s.work.teams.any (fun t => t.2.launch = e.1 && !t.2.ended) || s.work.images.any (fun m => m.team.launch = e.1)))).reverse.head?).map (·.1)

/-- The launch that owns the tiles of a record. -/
def ownerLaunch (s : State) (p : Nat) (w : List Word) : Option Nat := namedLaunch s p (rrOclass w) (rrOslot w)

/-- The owner team, the tile slot and the sample number of sample (i, j) of a view. -/
def sampleHome (s : State) (p : Pass) (v i j : Nat) : Option (Nat × Team × Nat × Nat) :=
  let q := tileNumber p v i j
  let nt := ownerTeams s p.owner
  (teamOf s p.owner (q % nt)).map (fun e => (e.1, e.2, rrTslot0 p.words + q / nt, 32 * (j % 32) + i % 32))

/-- Owner teams to which a tile of the pass maps. -/
def mappedOwners (s : State) (p : Pass) : List Nat := List.range (min (tileCount p) (ownerTeams s p.owner))

/-- Whether every owner team to which a tile maps is placed. -/
def ownersPlaced (s : State) (p : Pass) : Bool := (mappedOwners s p).all (fun n => (teamOf s p.owner n).isSome)

/-! ### Taking a record (R277 to R281, R299) -/

/-- Why a record is not taken: it is refused, or a page is waited for. -/
inductive TakeStop where
  | refuse (code : Nat)
  | page (va : Nat) (a : Acc)
  deriving DecidableEq, Repr

/-- A read within one page that refuses the record with code 16 when it fails. -/
def takeRead (s : State) (p va n : Nat) (a : Acc) : Except TakeStop (List Byte) :=
  match ownRead s p va n a with
  | .ok bs => .ok bs
  | .fault _ => .error (.refuse 16)
  | .wait _ => .error (.page va a)

def takeCheck (ok : Bool) (code : Nat) : Except TakeStop Unit := if ok then .ok () else .error (.refuse code)

/-- The fields that code 17 checks; `w` is the record's 48 words. -/
def recordFieldsOk (w : List Word) : Bool :=
  bits (wordAt w 32) 31 16 = 0 && bits (wordAt w 32) 7 4 = 0 && bits (wordAt w 33) 31 16 = 0 && bits (wordAt w 33) 7 5 = 0 &&
    rrCull w ≠ 3 && rrNattr w ≤ 16 && wordAt w 34 < 65536 && bits (wordAt w 35) 31 28 = 0 && bits (wordAt w 35) 15 12 = 0 &&
    1 ≤ rrNview w && rrNview w ≤ 8 && rrVmask w < 2 ^ rrNview w && rrViewp w < 2 ^ 56 && rrViewp w % 128 = 0 &&
    rrGazep w < 2 ^ 56 && rrGazep w % 64 = 0 && rrDone w % 128 = 0

/-- What a record's two task records must keep (Table 12-2). -/
def meshRecordOk (w : List Word) : Bool := bits (wordAt w 7) 1 0 = 2 && !trPair w && !trReh w && trSucc w = 0
def pixRecordOk (w : List Word) : Bool := meshRecordOk w && trGpt w = 1 && !trExt w

/-- The check of one of them, with its kernel's header word. -/
def takeTask (s : State) (p : Nat) (w : List Word) : Except TakeStop Nat :=
  match checkRecord s p w true with
  | .ok h => .ok h
  | .refuse _ => .error (.refuse 19)
  | .page va a => .error (.page va a)

/-- The tile fields of a record (R299), with the pass that would start. The input ring of an owner team that has ended is not tested (log entry
102). -/
def tileFieldsOk (s : State) (w : List Word) (ps : Pass) (lid : Nat) : Bool :=
  let nt := ownerTeams s lid
  let n := tileCount ps
  let started (k : Nat) : Option Team := match teamOf s lid k with | some e => some e.2 | none => savedTeam s lid k
  let tmem := ((launch? s lid).map (fun l => trTmem l.words)).getD 0
  (List.range (min n nt)).all (fun k => match started k with | some t => !t.ended | none => true) &&
    (n = 0 || rrTslot0 w + (n - 1) / nt < tmem / tileBytes) &&
    (List.range nt).all (fun k => match started k with | some t => t.ended || ringValid t 0 (rrIring w) | none => true)

/-- The address and the 48 words of the record that a descriptor's head slot names, checked as codes 16 and 17 say. -/
def takeHead (s : State) (p : Nat) (d : QDesc) : Except TakeStop (Nat × List Word) := do
  let slot ← takeRead s p (slotAddr d d.head) 64 .r
  let va := leNat (slot.take 8)
  takeCheck (va % 256 = 0) 16
  let bs ← takeRead s p va 256 .r
  let _ ← takeRead s p (va + 192) 64 .w
  let w := wordsOf (bs.take 192)
  takeCheck (recordFieldsOk w && (slot.drop 8).all (· == 0)) 17
  pure (va, w)

/-- The lines of a record's gaze entries promoted, before the system-scope acquire loads that read them (R178, R281). -/
def promoteGaze (s : State) (p : Nat) (d : QDesc) : State :=
  match takeHead s p d with
  | .ok (_, w) => (drawnViews w).foldl (fun s v => devPromote s p (rrGazep w + 8 * v)) s
  | .error _ => s

/-- The checks of a taken record in order; a record that passes them gives the pass, and the two launches' header words. -/
def takeRecord (s : State) (p q : Nat) (d : QDesc) : Except TakeStop (Pass × Nat × Nat) := do
  let (va, w) ← takeHead s p d
  let views ← (List.range (rrNview w)).mapM (fun v => takeRead s p (rrViewp w + 128 * v) 128 .r)
  let gaze ← (drawnViews w).mapM (fun v => do
    let g ← takeRead s p (rrGazep w + 8 * v) 8 .r
    pure (v, clampGaze g))
  let ps : Pass :=
    { part := p, queue := q, head := d.head, recAddr := va, words := w, views := views.map wordsOf, gaze := gaze, mesh := 0, pixels := 0,
      owner := 0, rasterised := 0, blocks := [], nextOrder := 0, phase := .taken, hier := [] }
  takeCheck (ps.views.all viewOk) 18
  takeCheck (rrRow0 w < rrRow1 w && (drawnViews w).all (fun v => rrRow1 w ≤ viewRows ps v)) 18
  takeCheck (meshRecordOk w && pixRecordOk (w.drop 16)) 19
  let mh ← takeTask s p (w.take 16)
  let ph ← takeTask s p ((w.drop 16).take 16)
  takeCheck (bits (wordAt w 40) 31 5 = 0 && bits (wordAt w 42) 31 22 = 0 &&
    (match ratOf (rrClrz w) with | some z => 0 ≤ z && z ≤ 1 | none => false) && rrRow0 w % 32 = 0 && trTmem (w.drop 16) = 0) 20
  match ownerLaunch s p w with
  | none => .error (.refuse 20)
  | some lid =>
    takeCheck (tileFieldsOk s w ps lid) 20
    pure ({ ps with owner := lid }, mh, ph)

/-- Front ends assigned to a partition, as a mask: those that the part has (R13). -/
def frontEnds (s : State) (p : Nat) : Nat := bits (bankReg s p 0x1E4).toNat 25 18 &&& (2 ^ s.units.fuses.ngfe - 1)

/-- Whether an earlier pass of a raster queue is not complete. -/
def passUnderWay (s : State) (p q : Nat) : Bool := s.work.passes.any (fun e => e.2.part = p && e.2.queue = q && e.2.phase ≠ .done)

/-- Views that a stream shows (Table 13-6). -/
def streamViews (d : List Word) : List Nat :=
  let x := wordAt d 3
  if bit x 3 then [bits x 2 0, bits x 6 4] else [bits x 2 0]

/-- The serialisers of a partition's streams are told of a strip's latch: the earliest pass of a strip that draws a view the stream
shows starts its countdown (R308). -/
def latchStrips (s : State) (ps : Pass) : State :=
  let k := rrStrip ps.words
  { s with work := { s.work with streams := s.work.streams.map (fun e =>
      if e.1 / 16 = ps.part && e.2.on && (streamViews e.2.desc).any (fun v => (drawnViews ps.words).contains v) &&
          64 * k < wordAt e.2.desc 1 / 65536 && (tget? e.2.latches k).isNone then
        (e.1, { e.2 with latches := tput e.2.latches k e.2.us })
      else e) } }

/-- A pass starts: HEAD passes the record, the gaze is latched in LATCH, and the two launches begin. -/
def startPass (s : State) (p q : Nat) (ps : Pass) (meshHeader pixHeader : Nat) : State :=
  let s := engDone (putDesc s p (descAddr s p true q) 0 (ps.head + 1)) p 0
  let s := ps.gaze.foldl (fun s e =>
    (devWrite s p (ps.recAddr + 192 + 8 * e.1) (leBytes 4 e.2.1.toNat ++ leBytes 4 e.2.2.toNat)).getD s) s
  let (pid, s) := freshId s
  let (m, s) := freshId s
  let (x, s) := freshId s
  let ml := newLaunch p (.mesh pid) ps.head none (ps.words.take 16) meshHeader
  let pl := { newLaunch p (.pixels pid) ps.head none ((ps.words.drop 16).take 16) pixHeader with total := 0 }
  let s := { s with work := { s.work with
    launches := tput (tput s.work.launches m ml) x pl
    passes := tput s.work.passes pid { ps with mesh := m, pixels := x } } }
  latchStrips s ps

/-- A front end takes the head record of a raster queue; the lines of its gaze entries are promoted before they are read (R178, R281). -/
def takeStep (s : State) (p q : Nat) : State :=
  if !partEnabled s p || !bit s.units.ready.toNat 8 || frontEnds s p = 0 || passUnderWay s p q || 3 < q then s
  else
    let s := noteDesc s p true q
    match enabledDesc s p true q with
    | none => s
    | some d =>
      if !backlogged d then s
      else
        let s := promoteGaze s p d
        match takeRecord s p q d with
        | .error (.page va a) => ownWait s p va a
        | .error (.refuse c) => refuseRaster (putDesc s p (descAddr s p true q) 0 (d.head + 1)) p q d.head c
        | .ok (ps, mh, ph) => startPass s p q ps mh ph

/-- RASTER_RECORD_TAKE (R278). -/
def execRasterRecordTake (part queue : Nat) (s : State) : Host.Outcome State Fault Refusal := .next (takeStep s part queue)

/-! ### Stored samples -/

/-- The stored depth and colour of a sample. -/
def storedDepth (s : State) (p : Pass) (v i j : Nat) : Word :=
  match sampleHome s p v i j with
  | some (_, t, slot, n) => w32 (scratchNum t 0 (tileOffset t.scr slot n true) 4)
  | none => 0
def storedColour (s : State) (p : Pass) (v i j : Nat) : Nat :=
  match sampleHome s p v i j with
  | some (_, t, slot, n) => scratchNum t 0 (tileOffset t.scr slot n false) 8
  | none => 0

def putDepth (s : State) (p : Pass) (v i j : Nat) (z : Word) : State :=
  match sampleHome s p v i j with
  | some (id, t, slot, n) => scratchWrite s id 0 (tileOffset t.scr slot n true) (leBytes 4 z.toNat) false
  | none => s
def putColour (s : State) (p : Pass) (v i j c : Nat) : State :=
  match sampleHome s p v i j with
  | some (id, t, slot, n) => scratchWrite s id 0 (tileOffset t.scr slot n false) (leBytes 8 c) false
  | none => s

/-! ### Depth tests (R293, R294, R445) -/

/-- "sample ZFUNC stored"; a NaN compares unequal to every value. -/
def depthPass (zfunc : Nat) (x y : Word) : Bool :=
  let a := decodeFp fp32 x.toNat
  let b := decodeFp fp32 y.toNat
  let un := isNan a || isNan b
  let o := numCmp a b
  match zfunc with
  | 0 => false
  | 1 => !un && o = .lt
  | 2 => !un && o = .eq
  | 3 => !un && o ≠ .gt
  | 4 => !un && o = .gt
  | 5 => un || o ≠ .eq
  | 6 => !un && o ≠ .lt
  | _ => true

/-- The key of the 8 by 8 block of a sample. -/
def hierKey (v i j : Nat) : Nat := 2 ^ 24 * v + 2 ^ 12 * (j / 8) + i / 8

/-- The lower and the higher of two depths, a NaN giving way. -/
def lowDepth (x y : Word) : Word := if isNan (decodeFp fp32 x.toNat) || depthPass 1 y x then y else x
def highDepth (x y : Word) : Word := if isNan (decodeFp fp32 x.toNat) || depthPass 4 y x then y else x

/-- A bound widened by a depth (R445). -/
def widen (h : Tab (Word × Word)) (k : Nat) (z : Word) : Tab (Word × Word) :=
  match tget? h k with
  | some e => tput h k (lowDepth e.1 z, highDepth e.2 z)
  | none => tput h k (z, z)

/-- The bounds of a pass rebuilt from the stored depths of its tiles. -/
def rebuildHier (s : State) (p : Pass) : Tab (Word × Word) :=
  (passTiles p).foldl (fun h t => (List.range 1024).foldl (fun h n =>
    let i := 32 * t.2.2 + n % 32
    let j := 32 * t.2.1 + n / 32
    widen h (hierKey t.1 i j) (storedDepth s p t.1 i j)) h) []

/-- The bounds of the tiles that a placed owner team holds rebuilt, in every pass of its launch that has started (R293). -/
def reloadHier (s : State) (lid no : Nat) : State :=
  let nt := ownerTeams s lid
  { s with work := { s.work with passes := s.work.passes.map (fun e =>
      if e.2.owner ≠ lid || e.2.phase = .taken || e.2.phase = .done then e
      else
        let mine := ((passTiles e.2).zipIdx.filter (fun t => t.2 % nt = no)).map (·.1)
        let keys := mine.flatMap (fun t => (List.range 16).map (fun n =>
          hierKey t.1 (32 * t.2.2 + 8 * (n % 4)) (32 * t.2.1 + 8 * (n / 4))))
        let kept := e.2.hier.filter (fun h => !keys.contains h.1)
        (e.1, { e.2 with hier := mine.foldl (fun h t => (List.range 1024).foldl (fun h n =>
          let i := 32 * t.2.2 + n % 32
          let j := 32 * t.2.1 + n / 32
          widen h (hierKey t.1 i j) (storedDepth s e.2 t.1 i j)) h) kept })) } }

/-- The hierarchical test: whether a depth may pass against some value in its block's bound. -/
def hierPass (zfunc : Nat) (h : Tab (Word × Word)) (k : Nat) (z : Word) : Bool :=
  match tget? h k with
  | some e =>
    match zfunc with
    | 0 => false
    | 1 | 3 => depthPass zfunc z e.2
    | 4 | 6 => depthPass zfunc z e.1
    | _ => true
  | none => zfunc ≠ 0

/-- A depth stored in a sample, with its block's bound in the pass that stores it. A TILEST, or an unordered pass of another raster queue that
uses the same tile slot, widens no bound of this one (log entry 103). -/
def storeDepth (s : State) (pid : Nat) (p : Pass) (v i j : Nat) (z : Word) : State :=
  modPass (putDepth s p v i j z) pid (fun p => { p with hier := widen p.hier (hierKey v i j) z })

/-! ### Commits (R295, R302) -/

/-- Whether a lane's sample is sample (i, j) of a view and the lane has not exited. -/
def laneHolds (x : Group) (o : TbeOp) : Bool :=
  match x.pix with
  | some p =>
    p.pass = o.pass && p.order < o.order / 64 && p.geom.view = o.view && p.i0 = 8 * (o.i / 8) && p.j0 = 4 * (o.j / 4) &&
      !x.exited.getLsbD (8 * (o.j % 4) + o.i % 8)
  | none => false

/-- Whether a commit waits: a sample earlier in pass order has still to reach the same place, or the owner team is not placed. -/
def commitHeld (s : State) (o : TbeOp) : Bool :=
  ((pass? s o.pass).map (fun p => (sampleHome s p o.view o.i o.j).isNone)).getD false ||
  s.work.groups.any (fun e => laneHolds e.2 o) || s.work.images.any (fun m => m.groups.any (fun e => laneHolds e.2 o)) ||
    s.units.cores.any (fun e => (commitsOf e.2.tbe).any (fun q =>
      q.pass = o.pass && q.order < o.order && q.view = o.view && q.i = o.i && q.j = o.j)) ||
    (match pass? s o.pass with
     | some p => p.blocks.any (fun b => b.order < o.order / 64 && b.geom.view = o.view && b.i0 = 8 * (o.i / 8) && b.j0 = 4 * (o.j / 4) &&
         b.mask.getLsbD (8 * (o.j % 4) + o.i % 8))
     | none => false)

/-- A channel of a colour. -/
def channel (c k : Nat) : Num := decodeFp fp16 (bits c (16 * k + 15) (16 * k))

/-- The colour committed: replaced, or laid over the sample's colour, each channel exact and rounded once. -/
def blendColour (blend : Bool) (c dst : Nat) : Nat :=
  if !blend then c
  else
    let inv := (numAdd .rne (numInt 1) (numNeg (channel c 3))).1
    leNat ((List.range 4).flatMap (fun k =>
      leBytes 2 (roundFp fp16 .rne false (numFma .rne (channel dst k) inv (channel c k)).1).1))

/-- The commit of one sample. -/
def commitOp (s : State) (o : TbeOp) : State :=
  match pass? s o.pass with
  | none => s
  | some p =>
    let late := !earlyDepth p.words
    if late && !depthPass (rrZfunc p.words) o.depth (storedDepth s p o.view o.i o.j) then s
    else
      let s := if late && rrZwr p.words then storeDepth s o.pass p o.view o.i o.j o.depth else s
      match o.out.bind (·.colour) with
      | none => s
      | some (lo, hi, blend) =>
        putColour s p o.view o.i o.j (blendColour blend (pairNat lo hi) (storedColour s p o.view o.i o.j))

/-- The tile loads or stores of one issue performed: a TILELD's result lands, its data poisoned as a whole by a damaged byte (R57); of lanes
that store to one sample the highest lane position wins (R303). -/
def tileAccess (s : State) (a : TileAccess) : State :=
  match (group? s a.group).map (·.team) with
  | none => s
  | some tm =>
    match team? s tm with
    | none => s
    | some t =>
      match a.id with
      | some id =>
        let dests := a.lanes.flatMap (fun x =>
          let bad := scratchBad t a.side x.2.1 (4 * a.words)
          (List.range a.words).map (fun k => (LaneId.wave a.group x.1, a.d + k, w32 (scratchNum t a.side (x.2.1 + 4 * k) 4), bad)))
        tryEndTeam (landPosted s { id := id, kind := .tile, dests := dests, link := none }) tm
      | none => tryEndTeam (modTeam s tm (fun t => a.lanes.foldl (fun t x => scratchPut t a.side x.2.1 x.2.2) t)) tm

/-- Whether an operation of a tile back end waits: a commit that is not due yet does not hold up later operations, since it takes its place
in the queue when the samples before it have been committed (R295). -/
def tileHeld (s : State) (o : TileOp) : Bool := match o with | .commit c => commitHeld s c | .access _ => false

/-- The first operation of a core's tile back end that is due is performed (R180). -/
def commitStep (s : State) (core : Nat) : State :=
  let q := (coreOf s core).tbe
  match (List.range q.length).findSome? (fun n => (q[n]?).bind (fun o => if tileHeld s o then none else some (n, o))) with
  | none => s
  | some (n, o) =>
    let s := modCore s core (fun k => { k with tbe := k.tbe.eraseIdx n })
    match o with
    | .commit c => commitOp s c
    | .access a => tileAccess s a

/-- PIXEL_COMMIT (R302). -/
def execPixelCommit (core : Nat) (s : State) : Host.Outcome State Fault Refusal := .next (commitStep s core)

/-! ### Clear (R300) -/

/-- A tile filled with the clear values. -/
def clearTile (s : State) (p : Pass) (v row col : Nat) : State :=
  match sampleHome s p v (32 * col) (32 * row) with
  | none => s
  | some (id, t, slot, _) =>
    let s := scratchWrite s id 0 (tileOffset t.scr slot 0 false) (List.replicate 1024 (bytesOf (rrClr p.words))).flatten false
    scratchWrite s id 0 (tileOffset t.scr slot 0 true) (List.replicate 1024 (bytesOf [rrClrz p.words])).flatten false

/-- Whether a core's tile back end has operations that are due (R180). -/
def tilesBusy (s : State) (core : Nat) : Bool := (coreOf s core).tbe.any (fun o => !tileHeld s o)

/-- Whether an owner team's tile back end is behind with earlier operations. -/
def ownersBusy (s : State) (p : Pass) : Bool :=
  (mappedOwners s p).any (fun n => (teamOf s p.owner n).any (fun e => tilesBusy s e.2.core))

/-- The start of a pass whose owner teams are there. -/
def clearStep (s : State) (pid : Nat) : State :=
  match pass? s pid with
  | none => s
  | some p =>
    if p.phase ≠ .taken || !ownersPlaced s p || ownersBusy s p then s
    else
      let s := if rrKeep p.words then s else (passTiles p).foldl (fun s t => clearTile s p t.1 t.2.1 t.2.2) s
      modPass s pid (fun p => { p with phase := .cleared, hier := rebuildHier s p })

/-- PASS_START_CLEAR (R300). -/
def execPassStartClear (pass : Nat) (s : State) : Host.Outcome State Fault Refusal := .next (clearStep s pass)

/-! ### Rasterisation of a meshlet (R286 to R289, R294) -/

/-- Meshlets of a pass: teams of the mesh launch times groups per team. -/
def meshletCount (p : Pass) : Nat := trTeams p.words * trGpt p.words

/-- The meshlet with a number, if it is handed over (R284, R286). -/
def handedMeshlet (s : State) (p : Pass) (m : Nat) : Option Mesh :=
  let gpt := trGpt p.words
  ((teamOf s p.mesh (m / gpt)).bind (fun e => (e.2.groups[m % gpt]?).bind (group? s))).bind
    (fun g => g.mesh.bind (fun x => if x.handed then some x else none))

/-- Indexes of an axis whose positions lie within a range. -/
def inRange (n : Nat) (f : Nat → Int) (from_ lo hi : Int) : List Nat :=
  (List.range n).filter (fun i => from_ ≤ i && lo ≤ f i && f i ≤ hi)

/-- Samples of a pass's rows that a fan triangle covers in a view. -/
def coveredSamples (p : Pass) (v : Nat) (fan : List NdcVertex) : List (Nat × Nat) :=
  let xs := fan.map (·.x)
  let ys := fan.map (·.y)
  let least (l : List Int) := l.foldl min (l.headD 0)
  let most (l : List Int) := l.foldl max (l.headD 0)
  let px (i : Nat) := (samplePos p v i 0).1
  let py (j : Nat) := (samplePos p v 0 j).2
  let is_ := inRange (viewCols p v) px 0 (least xs) (most xs)
  let js := inRange (rrRow1 p.words) py (rrRow0 p.words) (least ys) (most ys)
  js.flatMap (fun j => (is_.filter (fun i => covers fan (px i) (py j))).map (fun i => (i, j)))

/-- One covered sample goes through the steps before shading (Table 12-9): it is added to the survivors, with its depth, or not. -/
def testSample (pid v : Nat) (fan : List NdcVertex) (r : State × List (Nat × Nat × Word)) (ij : Nat × Nat) :
    State × List (Nat × Nat × Word) :=
  match pass? r.1 pid with
  | none => r
  | some p =>
    let xy := samplePos p v ij.1 ij.2
    let z := depthAt fan xy.1 xy.2
    let zf := rrZfunc p.words
    if !hierPass zf p.hier (hierKey v ij.1 ij.2) z then r
    else if !earlyDepth p.words then (r.1, r.2 ++ [(ij.1, ij.2, z)])
    else if !depthPass zf z (storedDepth r.1 p v ij.1 ij.2) then r
    else (if rrZwr p.words then storeDepth r.1 pid p v ij.1 ij.2 z else r.1, r.2 ++ [(ij.1, ij.2, z)])

/-- Origins of the 8 by 4 blocks of some samples, each once, in the order met. -/
def blockOrigins (xs : List (Nat × Nat × Word)) : List (Nat × Nat) :=
  xs.foldl (fun acc e => let o := (8 * (e.1 / 8), 4 * (e.2.1 / 4)); if acc.contains o then acc else acc ++ [o]) []

/-- The pixel blocks of the surviving samples of one fan triangle. -/
def addBlocks (s : State) (pid : Nat) (geom : PixGeom) (xs : List (Nat × Nat × Word)) : State :=
  (blockOrigins xs).foldl (fun s o =>
    let mine := xs.filter (fun e => 8 * (e.1 / 8) = o.1 && 4 * (e.2.1 / 4) = o.2)
    let lane (e : Nat × Nat × Word) : Nat := 8 * (e.2.1 % 4) + e.1 % 8
    modPass s pid (fun p =>
      { p with blocks := p.blocks ++ [{ i0 := o.1, j0 := o.2, order := p.nextOrder, mask := maskOf (mine.map lane), geom := geom,
                                         depths := mine.foldl (fun t e => tput t (lane e) e.2.2) [] }],
               nextOrder := p.nextOrder + 1 })) s

/-- One primitive in one view. -/
def rasterPrim (s : State) (pid : Nat) (vs : List (List Word)) (v : Nat) : State :=
  match pass? s pid with
  | none => s
  | some p =>
    let clip := vs.map (clipCoords (passView p v))
    if !clip.all (fun c => c.all isFinite) then s
    else
      let fans := (fanOf (clipPolygon clip)).map (fun t => t.map ndcVertex)
      if culled (rrCull p.words) (cullArea clip fans) then s
      else fans.foldl (fun s fan =>
        let r := (coveredSamples p v fan).foldl (testSample pid v fan) (s, [])
        addBlocks r.1 pid { view := v, clip := clip, attrs := vs.map (·.drop 4), fan := fan } r.2) s

/-- A meshlet's primitives in slot order, each in the views of its mask (R286). -/
def rasterMeshlet (s : State) (pid : Nat) (p : Pass) (m : Mesh) : State :=
  m.prims.foldl (fun s e =>
    match tget? m.verts e.2.v0, tget? m.verts e.2.v1, tget? m.verts e.2.v2 with
    | some a, some b, some c =>
      ((drawnViews p.words).filter (fun v => bit e.2.views v)).foldl (fun s v => rasterPrim s pid [a, b, c] v) s
    | _, _, _ => s) s

/-- The next meshlet of a pass is rasterised. -/
def meshletStep (s : State) (pid : Nat) : State :=
  match pass? s pid with
  | none => s
  | some p =>
    if p.phase ≠ .cleared || !ownersPlaced s p || meshletCount p ≤ p.rasterised then s
    else match handedMeshlet s p p.rasterised with
      | none => s
      | some m => modPass (rasterMeshlet s pid p m) pid (fun p => { p with rasterised := p.rasterised + 1 })

/-- MESHLET_RASTERISATION (R286 to R288). -/
def execMeshletRasterisation (pass : Nat) (s : State) : Host.Outcome State Fault Refusal := .next (meshletStep s pass)

/-! ### Pixel groups (R289, R290, R300) -/

/-- Whether a team is being saved or is migrating. -/
def teamMoving (s : State) (tid : Nat) (t : Team) : Bool := t.moving.isSome || s.units.saving.any (fun x => x.team = tid)

/-- Whether the owner team of a pixel group's tile is saved, is migrating, or is on another core than the group, while which the group
waits: it never runs elsewhere (R300). -/
def ownerAway (s : State) (g : Nat) : Bool :=
  match (group? s g).bind (·.pix) with
  | none => false
  | some x =>
    match pass? s x.pass with
    | none => false
    | some p =>
      s.work.images.any (fun m => m.team.launch = p.owner && m.team.no = x.owner) ||
        (teamOf s p.owner x.owner).any (fun e => !e.2.ended && (teamMoving s e.1 e.2 || ((group? s g).bind (fun y => team? s y.team)).any (fun y => y.core ≠ e.2.core)))

/-- Whether a pixel team waits for the owner team of its tile. -/
def teamAway (s : State) (t : Nat) : Bool := (team? s t).any (fun x => x.groups.any (ownerAway s))

/-- The core on which a block's group runs, while its owner team is there. -/
def blockCore (s : State) (p : Pass) (b : PixBlock) : Option Nat :=
  (sampleHome s p b.geom.view b.i0 b.j0).bind (fun h => if h.2.1.ended || teamMoving s h.1 h.2.1 then none else some h.2.1.core)

/-- The first block whose core has room, with the core and the seats. -/
def readyBlock (s : State) (p : Pass) : Option (Nat × PixBlock × Nat × List (List Nat × Nat)) :=
  (List.range p.blocks.length).findSome? (fun n => (p.blocks[n]?).bind (fun b => (blockCore s p b).bind (fun c =>
    ((launch? s p.pixels).bind (fun l => roomOn s p.part p.pixels l.words (launchGrip l) c)).map (fun seats => (n, b, c, seats)))))

/-- VIEW of a pixel-shader group (Table 12-8). -/
def pixelView (v i0 j0 : Nat) : Word := w32 (2 * 2 ^ 30 + v * 2 ^ 27 + j0 * 2 ^ 12 + i0)

/-- A pixel block starts its group. -/
def pixelStartStep (s : State) (pid : Nat) : State :=
  match pass? s pid with
  | none => s
  | some p =>
    match readyBlock s p, launch? s p.pixels with
    | some (n, b, c, seats), some l =>
      let (up, s) := wakeFor s c
      if !up then s
      else
        let role : Role :=
          { view := pixelView b.geom.view b.i0 b.j0, exited := maskOf (List.range 32) &&& ~~~b.mask, mesh := none,
            pix := some { pass := pid, order := b.order, owner := tileNumber p b.geom.view b.i0 b.j0 % ownerTeams s p.owner, i0 := b.i0, j0 := b.j0, geom := b.geom, depths := b.depths, outs := [] } }
        let s := startTeam s p.pixels l l.started (w32 b.i0, w32 b.j0, w32 b.geom.view) c seats role (launchGrip l)
        let s := modLaunch s p.pixels (fun l => { l with total := l.total + 1 })
        modPass s pid (fun p => { p with blocks := p.blocks.eraseIdx n })
    | _, _ => s

/-- PIXEL_GROUP_START (R289). -/
def execPixelGroupStart (pass : Nat) (s : State) : Host.Outcome State Fault Refusal := .next (pixelStartStep s pass)

/-! ### Publication and completion (R289, R304) -/

/-- Whether a pass's groups have ended and its tile operations are performed. -/
def passDrained (s : State) (pid : Nat) (p : Pass) : Bool :=
  p.rasterised = meshletCount p && p.blocks.isEmpty && ((launch? s p.mesh).map launchOver).getD false &&
    ((launch? s p.pixels).map launchOver).getD false && s.units.cores.all (fun e => (commitsOf e.2.tbe).all (fun o => o.pass ≠ pid))

/-- The descriptor of tile `q` (Table 13-5). -/
def tileDesc (p : Pass) (nt q : Nat) (t : Nat × Nat × Nat) : List Byte :=
  leBytes 4 (t.2.2 * 65536 + t.1 * 256 + (rrTslot0 p.words + q / nt)) ++ leBytes 4 (rrStrip p.words * 65536 + t.2.1) ++ leBytes 4 p.head ++
    leBytes 4 (if tileCount p ≤ q + nt then 1 else 0)

/-- What keeps a publication from its owner's ring, met in a state: it waits for an absent page; after a fault that is not resolved it tries
again, since no context issued it (log entry 91). -/
def publishBlocked (s : State) (p core : Nat) (b : Block) : State :=
  match b with
  | .wait va a => spanWait s (engTile core) core p va a
  | .fault _ va => engDone (poolNote s (engTile core) core p va .r) p (engTile core)

/-- The next tile is published in its owner's input ring when a slot is free; the ring obeys the stash rules (R140, R160). -/
def publishTile (s : State) (pid : Nat) (p : Pass) (q : Nat) : State :=
  let nt := ownerTeams s p.owner
  match (passTiles p)[q]?, teamOf s p.owner (q % nt) with
  | some t, some (tid, x) =>
    let h := rrIring p.words
    match scratchBlock s (engTile x.core) tid x 0 h 64 with
    | some b => publishBlocked s p.part x.core b
    | none =>
      let s := scratchReady s tid 0 h 64
      let x := (team? s tid).getD x
      if !ringValid x 0 h || ringErr x 0 h || ringEos x 0 h || ringCount x 0 h ≤ ringUsed x 0 h then s
      else
        let off := ringBase x 0 h + ringWidx x 0 h % ringCount x 0 h * ringSize x 0 h
        match scratchBlock s (engTile x.core) tid x 0 off 16 with
        | some b => publishBlocked s p.part x.core b
        | none =>
          let s := ringAdvance (scratchWrite s tid 0 off (tileDesc p nt q t) false) tid 0 h 0
          modPass s pid (fun p => { p with phase := .publishing (q + 1) })
  | _, _ => s

def publicationStep (s : State) (pid : Nat) : State :=
  match pass? s pid with
  | none => s
  | some p =>
    match p.phase with
    | .cleared => if passDrained s pid p then modPass s pid (fun p => { p with phase := .publishing 0 }) else s
    | .publishing q => if q < tileCount p then publishTile s pid p q else s
    | _ => s

/-- TILE_PUBLICATION (R304). -/
def execTilePublication (pass : Nat) (s : State) : Host.Outcome State Fault Refusal := .next (publicationStep s pass)

/-- The completion of a pass: DONE is decremented as R248 does for SUCC, and a counter that cannot be is recorded with code 8. -/
def passDone (s : State) (pid : Nat) : State :=
  match pass? s pid with
  | none => s
  | some p =>
    if p.phase ≠ .publishing (tileCount p) then s
    else
      let s := performWrites s
      let done (s : State) := modPass s pid (fun p => { p with phase := .done })
      if rrDone p.words = 0 then done s
      else match deviceSucc s p.part (rrDone p.words) with
        | none => ownWait s p.part (rrDone p.words) .rw
        | some (s, false) => done s
        | some (s, true) => done (refuseRaster s p.part p.queue p.head 8)

/-- PASS_COMPLETION (R289, R304). -/
def execPassCompletion (pass : Nat) (s : State) : Host.Outcome State Fault Refusal := .next (passDone s pass)

end Sys2Proof.Machine
end

