-- ==== Sys2Proof/Machine/Context.lean ====
section
/-! DEFINITION. The context interface, pre-emption and restore, the debugger's register access, thermal migration and partition resizing
(R164, R228, R230, R234, R253, R263 to R276, R290, R323). -/

namespace Sys2Proof.Machine

/-! ### Naming (R264, R290) -/

/-- CTXCMD of a bank while a command is in progress: a save, or a step whose slices have not all stopped again. -/
def ctxBusy (s : State) (p : Nat) : Bool :=
  (bankReg s p 0x194).getLsbD 31 ||
    s.work.groups.any (fun e => !e.2.ended && groupPart s e.1 = p && e.2.slices.any (·.stepping))

/-- A command ends with a result. -/
def ctxDone (s : State) (p res : Nat) : State := setBankReg (setBankReg s p 0x194 0) p 0x19B (w32 res)

/-- The physical address in CTXADL and CTXADH. -/
def ctxAddr (s : State) (p : Nat) : Nat := bankPair s p 0x198 0x199

/-- Whether a team is among those that CTXTGT, CTXSLOT and CTXTEAM name. -/
def ctxNames (s : State) (p : Nat) (t : Team) : Bool :=
  match launch? s t.launch with
  | none => false
  | some l =>
    let tgt := (bankReg s p 0x195).toNat
    let who := (bankReg s p 0x197).toNat
    let (rq, q, no) := match l.src with
      | .queue c => (false, c, t.no)
      | .mesh k => (true, ((pass? s k).map (·.queue)).getD 0, t.no)
      | .pixels k => (true, ((pass? s k).map (·.queue)).getD 0, 0x40000000 + t.no)
    l.part = p && bit tgt 4 = rq && tgt % 16 = q && l.slot = (bankReg s p 0x196).toNat && (who = 0xFFFFFFFF || who = no)

/-- The resident teams that a command names, and the saved ones. -/
def ctxTeams (s : State) (p : Nat) : List Nat := (s.work.teams.filter (fun e => !e.2.ended && !e.2.killed && ctxNames s p e.2)).map (·.1)
def ctxImages (s : State) (p : Nat) : List Image := s.work.images.filter (fun m => ctxNames s p m.team)

/-- Whether every byte of a range is assigned and outside every register-image area (R264); both are laid out in pages. -/
def ctxRangeOk (s : State) (pa n : Nat) : Bool :=
  (List.range ((n + 4095) / 4096)).all (fun k => paOk s (pa + 4096 * k) && !inRim s (pa + 4096 * k)) &&
    paOk s (pa + n - 1) && !inRim s (pa + n - 1)

/-- The wave slots of a team in placement order. -/
def teamSlots (s : State) (tid : Nat) : List Nat :=
  match team? s tid with
  | none => []
  | some t => ((t.groups.filterMap (group? s)).filter (fun x => !x.ended)).foldl (fun acc x =>
      x.seats.foldl (fun acc k => if acc.contains k then acc else acc ++ [k]) acc) []

/-- The one team of a command that acts on one team: its number, or the result that ends the command. -/
def ctxOne (s : State) (p : Nat) : Except Nat Nat :=
  match ctxTeams s p, ctxImages s p with
  | [t], [] => .ok t
  | [], [_] => .error 2
  | _, _ => .error 1

/-- A command of a bank, ignored while one is in progress (Table 11-3). -/
def ctxRun (s : State) (f : Nat → State) : State :=
  let p := psel s
  if ctxBusy s p then s else f p

/-! ### STOP, RESUME, STEP (R264, R265) -/

/-- A command on a team or a launch: it acts on the resident teams that it names; with only saved ones, their state is wrong for it. -/
def launchCommand (s : State) (p : Nat) (f : State → Nat → State) : State :=
  if (ctxTeams s p).isEmpty then ctxDone s p (if (ctxImages s p).isEmpty then 1 else 2)
  else ctxDone ((ctxTeams s p).foldl f s) p 0

/-- STOP of one team; a team that is being moved stays stopped after the move (R273). -/
def stopOne (s : State) (t : Nat) : State :=
  stopTeam (modTeam s t (fun x => { x with moving := x.moving.map (fun _ => ([], false)) })) t

def stopCommand (s : State) (p : Nat) : State := launchCommand s p stopOne

/-- STOP (R265). -/
def execStop (s : State) : Host.Outcome State Fault Refusal := .next (ctxRun s (stopCommand s))

/-- A slice that was halted goes on as R260 places its lanes. -/
def resumeSlice (s : State) (g n : Nat) : State :=
  match (group? s g).bind (fun x => (x.slices[n]?).bind (fun y => y.halt.map (fun h => (x, y, h)))) with
  | none => s
  | some (x, y, h) =>
    let len := instrLen s (laneCore s (.wave g (4 * n))) (teamPart s x.team) h.pc
    partGroup (modSlice s g n (fun _ => resumeHalt y h len)) g

def resumeSlices (s : State) (g : Nat) : State :=
  match group? s g with
  | none => s
  | some x => (List.range x.slices.length).foldl (fun s n => resumeSlice s g n) s

/-- A stopped group runs again: the clocks in which it was stopped do not count for the watchdog (R270). -/
def runAgain (s : State) (x : Group) : Group :=
  if x.status = .stopped then
    { x with status := .run, quiet := (coreOf s (slotCore (x.seats.headD 0))).clk, slices := x.slices.map (fun y => { y with stepping := false }) }
  else x

/-- A team's stopped slices continue, and its grip context executes its instruction again. -/
def resumeTeam (s : State) (tid : Nat) : State :=
  match team? s tid with
  | none => s
  | some t =>
    let s := t.groups.foldl (fun s g => modGroup (resumeSlices s g) g (runAgain s)) s
    modTeam s tid (fun t =>
      { t with stopped := false, grip := t.grip.map (fun k =>
          { k with stopped := false, halt := none, skipBrk := match k.halt with | some (0x0E, _, true) => some k.pc | _ => none }) })

def resumeCommand (s : State) (p : Nat) : State := launchCommand s p resumeTeam

/-- RESUME (R260, R264, R269). -/
def execResume (s : State) : Host.Outcome State Fault Refusal := .next (ctxRun s (resumeCommand s))

/-- Whether a team is stopped (R265): every group of it has ended or is stopped, a swapped-out one by a STOP of its team. -/
def teamStopped (s : State) (tid : Nat) : Bool :=
  match team? s tid with
  | none => false
  | some t => t.groups.all (fun g => match group? s g with
    | some x => x.ended || x.status = .stopped || (x.status = .swapped && t.stopped)
    | none => true)

/-- The wave slot that CTXSEL.SLOT selects. -/
def ctxSlot (s : State) (p tid : Nat) : Option Nat := (teamSlots s tid)[bits (bankReg s p 0x19A).toNat 17 12]?

/-- The team's groups in a wave slot. -/
def teamGroupsIn (s : State) (tid k : Nat) : List (Nat × Group) := (slotGroups s k).filter (fun e => e.2.team = tid)

/-- Every slice of the slot retires at most one instruction and then stops again; CTXCMD reads BUSY until then. A slice that waits, at a
barrier, retires none. -/
def stepSlices (s : State) (tid k : Nat) : State :=
  (teamGroupsIn s tid k).foldl (fun s e =>
    let s := resumeSlices s e.1
    modGroup s e.1 (fun x => if x.status = .stopped then
      { x with slices := x.slices.map (fun y => if (levelOf y).running = 0 || y.wait ≠ .none then y else { y with stepping := true }) } else x)) s

def stepCommand (s : State) (p : Nat) : State :=
  match ctxOne s p with
  | .error r => ctxDone s p r
  | .ok t =>
    if !teamStopped s t then ctxDone s p 2
    else match ctxSlot s p t with
      | none => ctxDone s p 2
      | some k => stepSlices (ctxDone s p 0) t k

/-- STEP (R264). -/
def execStep (s : State) : Host.Outcome State Fault Refusal := .next (ctxRun s (stepCommand s))

/-- Codes 0 and 9 to 15 (R264). -/
def execCtxcmdUndefinedOp (_op : BitVec 4) (s : State) : Host.Outcome State Fault Refusal := .next (ctxRun s (fun p => ctxDone s p 2))

/-! ### KILL (R264) -/

/-- Whether a ray launch has begun. -/
def rayBegun (o : RayOp) : Bool := 0 < o.next || o.gaze.isSome

/-- Posted results, and queued engine and tile operations of a team discarded; a copy, and a ray launch, that has begun is in progress, and
completes. -/
def dropWork (s : State) (tid : Nat) (gs : List Nat) : State :=
  let mine (g : Nat) : Bool := gs.contains g
  let lost (l : LaneId) : Bool := match l with | .wave g _ => mine g | .grip t => t = tid | .mgmt _ => false
  let tbe (o : TileOp) : Bool :=
    match o with
    | .access a => mine a.group
    | .commit o => gs.any (fun g => match (group? s g).bind (·.pix) with
        | some p => p.pass = o.pass && p.order = o.order / 64 | none => false)
  let live (p : Posted) : Bool := p.dests.isEmpty || p.dests.any (fun d => !lost d.1)
  let s := (s.posted.filter (fun p => !live p)).foldl noteReply s
  { s with
    posted := s.posted.filter live
    units := { s.units with
      cores := s.units.cores.map (fun e => (e.1, { e.2 with
        copies := e.2.copies.filter (fun o => o.team ≠ tid || o.dest.isSome)
        tex := e.2.tex.filter (fun o => !mine o.group)
        tbe := e.2.tbe.filter (fun o => !tbe o)
        quads := e.2.quads.map (fun q => { q with mq := q.mq.filter (fun o => !mine o.group) }) }))
      clusters := s.units.clusters.map (fun e => (e.1, { e.2 with
        rays := e.2.rays.take 1 |>.filter (fun o => o.team ≠ tid || rayBegun o) |>.append ((e.2.rays.drop 1).filter (fun o => o.team ≠ tid)) })) } }

/-- A team is killed: its groups end where they are, its launch will not complete, and it ends once its operations in progress have
(R43, R264). -/
def killNow (s : State) (tid : Nat) : State :=
  match team? s tid with
  | none => s
  | some t =>
    if t.ended || t.killed then s
    else
      let s := dropWork (drainTeam s tid) tid t.groups
      let s := t.groups.foldl (fun s g =>
        match group? s g with
        | none => s
        | some x =>
          if x.ended then s
          else
            let s := chargeGroup (squashGroup s g) g
            let quiet := fun (y : Slice) =>
              { y with prog := { y.prog with running := 0, pending := [], parked := [] }, frames := [], wait := .none, redo := [], halt := none, stepping := false }
            let s := modGroup s g (fun x =>
              { x with exited := allLanes x, status := .run, queues := [], regs := [], pages := [], failed := [], slices := x.slices.map quiet })
            let s := x.seats.foldl dropHolder s
            let s := modGroup s g (fun x => { x with ended := true })
            x.seats.foldl (fun s k => vacateAway
              (if (slotGroups s k).isEmpty then { s with work := { s.work with slots := tdel s.work.slots k } } else s) k) s) s
      let s := modTeam s tid (fun t => { t with killed := true, grip := t.grip.map (fun k => { k with ended := true }) })
      tryEndTeam (modLaunch s t.launch (fun l => { l with killed := true })) tid

/-- KILL of a team: a migration that has begun completes first (R273, R276, R340). -/
def killTeam (s : State) (tid : Nat) : State :=
  if (team? s tid).any (fun t => t.moving.isSome) then modTeam s tid (fun t => { t with doomed := true }) else killNow s tid

/-- A saved team is killed: its image is no longer one that can be restored. -/
def killImage (s : State) (m : Image) : State :=
  let s := (m.groups.filter (fun e => !e.2.ended)).foldl (fun s e => chargeLaunch s m.team.launch (groupCharge e.2)) s
  modLaunch { s with work := { s.work with images := s.work.images.filter (fun x => x.id ≠ m.id) } } m.team.launch
    (fun l => { l with killed := true, ended := l.ended + 1 })

def killCommand (s : State) (p : Nat) : State :=
  if (ctxTeams s p).isEmpty && (ctxImages s p).isEmpty then ctxDone s p 1
  else ctxDone ((ctxImages s p).foldl killImage ((ctxTeams s p).foldl killTeam s)) p 0

/-- KILL (R264). -/
def execKill (s : State) : Host.Outcome State Fault Refusal := .next (ctxRun s (killCommand s))

/-! ### What SAVE and migration share (R266 steps 2, 3 and 5, R273) -/

/-- Whether posted results other than those of SLOTW, matrix operations, or tile operations of a team are outstanding; a result whose
elements a debugger has written is not waited for (R76). -/
def teamPosted (s : State) (tid : Nat) (gs : List Nat) : Bool :=
  let mine (l : LaneId) : Bool := match l with | .wave g _ => gs.contains g | .grip t => t = tid | .mgmt _ => false
  s.posted.any (fun p => (match p.kind with | .slotw _ _ _ _ => false | _ => true) &&
      p.dests.any (fun d => mine d.1 && awaitsElem s p.id d.1 d.2.1)) ||
    s.units.cores.any (fun e => e.2.quads.any (fun q => q.mq.any (fun o => gs.contains o.group)) ||
      (accessesOf e.2.tbe).any (fun o => gs.contains o.group) ||
      (commitsOf e.2.tbe).any (fun o => gs.any (fun g => match (group? s g).bind (·.pix) with
        | some p => p.pass = o.pass && p.order = o.order / 64 | none => false)))

def teamCopies (s : State) (tid : Nat) : Bool := s.units.cores.any (fun e => e.2.copies.any (fun o => o.team = tid))

/-- A page that the stash writeback of a team waits for. -/
def teamStashPage (s : State) (tid : Nat) : Option Nat :=
  match stashAbsent s tid 0 (fun _ => true) with
  | some va => some va
  | none => stashAbsent s tid 1 (fun _ => true)

/-- The accesses of a team that are still to be performed are performed, the stash and the L1 of its cores are written back, and its releaser
tags cleared (R142, R179). -/
def flushTeam (s : State) (tid : Nat) (t : Team) : State :=
  let s := stashCleanAll (stashCleanAll (drainTeam s tid) tid 0 true) tid 1 true
  let s := writebackL1 s t.core
  let s := if t.pair then writebackL1 s (t.core + 1) else s
  dropTags s (fun r => r.team = tid)

/-- A wave slot's holder leaves the core: the slate is released, and it waits for none (R230); so too when other teams' groups stay in the
slot that one team leaves (log entry 95). -/
def leaveSlot (s : State) (k : Nat) : State :=
  if k < 3072 then
    modQuad (releaseSlate s k) (slotCore k) (slotQuad k) (fun q => { q with waiters := q.waiters.filter (· != k) })
  else s

/-- A placed wave's registers lie in the register image of its slot, and return through misses (R69, R72, R268). -/
def storeLines (s : State) (k : Nat) : State :=
  modSlot ((List.range 56).foldl (fun s r => storeLine s (imageBase s k) r ((List.range 32).map (waveElem s k r))) (clearPlace s k)) k
    (fun x => { x with map := [], stored := List.range 56 })

/-- A team's groups go from wave slot `k` to key `j`: the whole wave, or, when other teams' groups share the slot, the team's groups
alone, with the asynchronous causes and the lease that are the team's, and their registers in the image of their new slot. -/
def moveTeamSlot (s : State) (tid k j : Nat) : State :=
  if (slotGroups s k).all (fun e => e.2.team = tid) then moveSlot s k j
  else
    let s := fetchLines s k
    let slots := match slot? s k with
      | some x =>
        tput (tput s.work.slots k { x with asyncs := x.asyncs.filter (fun a => a.team ≠ tid) }) j
          { x with asyncs := x.asyncs.filter (fun a => a.team = tid), map := [], rob := [], stored := [], cached := [] }
      | none => s.work.slots
    let seat (i : Nat) : Nat := if i = k then j else i
    let moved : State := { s with
      work := { s.work with slots := slots, groups := s.work.groups.map (fun e =>
        if e.2.team = tid && !e.2.ended then (e.1, { e.2 with seats := e.2.seats.map seat }) else e) }
      units := seatLeases s.units (fun l => l.team = tid) seat }
    vacateAway (if j < 3072 then storeLines moved j else moved) k

/-- Keys for a team's wave slots on core `c`: the same quadrant, and the lowest free slot number, or the same number for rehearsal;
a wave that is swapped out, as `away` tells, takes no slot, but with `room` asks that one be free for it
(R253, R268, R273). -/
def bindKeys (s : State) (old c : Nat) (reh room : Bool) (away : Nat → Bool) : List Nat → List Nat → Option (List (Nat × Nat))
  | [], _ => some []
  | k :: ks, occ =>
    let d := c + (slotCore k - old)
    let free := (freeKeys (occ ++ usedSlots s d) d (slotQuad k)).filter (fun j => !reh || j % 24 = k % 24)
    let parked := (k, k / 3072 * 3072 + 24 * d + k % 24)
    match away k, free with
    | true, [] => if room then none else (bindKeys s old c reh room away ks occ).map (fun r => parked :: r)
    | true, j :: _ => (bindKeys s old c reh room away ks (if room then j :: occ else occ)).map (fun r => parked :: r)
    | false, [] => none
    | false, j :: _ => (bindKeys s old c reh room away ks (j :: occ)).map (fun r => (k, j) :: r)

/-- Where a team's waves would go on core `c`, if it has room: the grip context, the scratchpad bytes on each core, and the slots. A
rehearsal team shares a core with its own launch only (R251), and with no team at all at a migration (R272); a migration asks for no
slot for a wave that is swapped out, a RESTORE does (R268). -/
def teamFits (s : State) (p : Nat) (t : Team) (away : Nat → Bool) (ks : List Nat) (reh migrates : Bool) (c : Nat) : Option (List (Nat × Nat)) :=
  let one (c : Nat) : Bool := mayHost s p c && t.scr + t.tmem ≤ freeScratch s c &&
    (match rehearsedBy s c with | some l => l = t.launch | none => true) &&
    (!reh || (coreTeams s c).all (fun e => !migrates && e.2.launch = t.launch))
  if (t.pair && c % 2 = 1) || !one c || (t.pair && !one (c + 1)) || (t.grip.isSome && freeGrips s c = 0) then none
  else bindKeys s t.core c reh (!migrates) away ks []

/-! ### SAVE (R266 to R268) -/

/-- Bytes stored at a physical address by the device, sector by sector. -/
def storePa (s : State) (p pa : Nat) (bs : List Byte) : State :=
  (sectorChunks pa bs.length).foldl (fun s c => writeL2 s p true c.1 ((bs.drop (c.1 - pa)).take c.2)) s

/-- The group and lane at a position of a wave slot, among a team's groups. -/
def laneAtPos (gs : Tab Group) (k pos : Nat) : Option (Group × Nat) :=
  gs.findSome? (fun e => if e.2.ended then none
    else ((List.range e.2.width).find? (fun i => laneSeat e.2 i = k && lanePos e.2 i = pos)).map (fun i => (e.2, i)))

/-- Elements of register `r` of a wave slot, by position: an awaited one is written as 0 (R70). -/
def slotElems (gs : Tab Group) (k r : Nat) : List Elem :=
  (List.range 32).map (fun pos => match laneAtPos gs k pos with | some (x, i) => regElem x.regs r i | none => .full 0 false)

/-- Bytes whose encoding is not architectural. -/
def openBytes (ix n : Nat) : List Byte := (List.range n).map (fun k => Config.freeByte (2 ^ 64 * ix + k))

/-- A wave slot's 16,384 bytes of an image. -/
def slotImage (gs : Tab Group) (ix k : Nat) : List Byte :=
  let rs := (List.range 56).map (slotElems gs k)
  rs.flatMap (fun es => es.flatMap (fun e => leBytes 4 (elemWord e).toNat)) ++ openBytes ix 0 ++
    rs.flatMap (fun es => leBytes 4 (posMask (es.map elemBad))) ++ leBytes 32 0 ++ openBytes ix 8960

/-- Bytes of an image (R266). -/
def imageSize (t : Team) (nslot : Nat) : Nat := 5120 + 16384 * nslot + (t.scr + t.tmem) * (if t.pair then 2 else 1)

/-- The first 32 bytes of an image with a STATE and VALID bits. -/
def imageHead (s : State) (t : Team) (l : Launch) (nslot state valid : Nat) : List Byte :=
  let flag (b : Bool) (n : Nat) : Nat := if b then n else 0
  leBytes 4 state ++ leBytes 4 (imageSize t nslot) ++ leBytes 4 t.no ++ leBytes 4 nslot ++
    leBytes 4 (flag t.grip.isSome 1 + flag t.pair 2 + flag (launchReh l) 4 + flag t.stashErr 8) ++
    leBytes 4 valid ++ leBytes 4 s.units.fuses.ver ++ leBytes 4 0

/-- VALID of an image after so many pieces: the record, the wave slots, the grip context if there is one, the scratchpad, tile memory. -/
def imageValid (t : Team) (n : Nat) : Nat := (2 ^ n - 1) % 32 - (if t.grip.isNone && 3 ≤ n then 4 else 0)

/-- The bytes of a piece of an image, and their offset: the task record and the device state of the team, whose first eight bytes tell the
model's images apart; the wave slots; the grip context; the scratchpad; tile memory (Table 11-5). -/
def imagePiece (s : State) (t : Team) (l : Launch) (gs : Tab Group) (ks : List Nat) (id n : Nat) : Nat × List Byte :=
  let both (off len : Nat) : List Byte := scratchRead t 0 off len ++ (if t.pair then scratchRead t 1 off len else [])
  let grip := 4096 + 16384 * ks.length
  match n with
  | 0 => (32, bytesOf l.words ++ leBytes 8 id ++ openBytes s.freeIx 3992)
  | 1 => (4096, ks.flatMap (slotImage gs s.freeIx))
  | 2 => (grip, openBytes s.freeIx 1024)
  | 3 => (grip + 1024, both 0 t.scr)
  | _ => (grip + 1024 + t.scr * (if t.pair then 2 else 1), both t.scr t.tmem)

/-- A team taken from its core as an image: slates released, the lease's cause pending, and the groups in keys of their own. -/
def detachTeam (s : State) (tid : Nat) (t : Team) : State × List Nat :=
  let ks := teamSlots s tid
  let s := ks.foldl leaveSlot s
  let s := match (clusterOf s (t.core / 4)).lease with
    | some l => if l.slots.any (ks.contains ·) && l.team = tid then endLease s (t.core / 4) true else s
    | none => s
  let m := s.work.nextId + 1
  let s := { s with work := { s.work with nextId := m } }
  let js := ks.map (fun k => 3072 * m + k % 3072)
  ((ks.zip js).foldl (fun s e => moveTeamSlot s tid e.1 e.2) s, js)

/-- The queues of a saved group: entries delivered but not popped are discarded, and are delivered again (R65). -/
def savedQueues (x : Group) : Group := { x with queues := x.queues.map (fun q => (q.1, { q.2 with entries := [] })) }

/-- The save in progress of a bank, whether a team is being saved, and the end of a bank's save. -/
def savingOf (s : State) (p : Nat) : Option Saving := s.units.saving.find? (fun x => x.part = p)
def beingSaved (s : State) (tid : Nat) : Bool := s.units.saving.any (fun x => x.team = tid)
def endSaving (s : State) (p : Nat) : State :=
  { s with units := { s.units with saving := s.units.saving.filter (fun x => x.part ≠ p) } }

/-- A rehearsal launch of which no team is resident keeps no core (R266, step 5). -/
def freeRehCore (s : State) (lid : Nat) : State :=
  if s.work.teams.any (fun e => e.2.launch = lid && !e.2.ended) then s else modLaunch s lid (fun l => { l with rehCore := none })

/-- A save in progress changed. -/
def modSaving (s : State) (p : Nat) (g : Saving → Saving) : State :=
  { s with units := { s.units with saving := s.units.saving.map (fun x => if x.part = p then g x else x) } }

/-- A team's groups by number. -/
def teamTab (s : State) (t : Team) : Tab Group :=
  (t.groups.filterMap (fun g => (group? s g).map (fun x => (g, x)))).foldl (fun m e => tput m e.1 e.2) []

/-- Step 4 begins: the image takes its number, and its header is written with STATE = 1 and no VALID bit. -/
def openImage (s : State) (x : Saving) (t : Team) (l : Launch) : State :=
  let (id, s) := freshId s
  modSaving (storePa s x.part x.pa (imageHead s t l (teamSlots s x.team).length 1 0)) x.part (fun y => { y with pieces := 1, id := id })

/-- A piece of the image is written, and its VALID bit set. -/
def writePiece (s : State) (x : Saving) (t : Team) (l : Launch) : State :=
  let ks := teamSlots s x.team
  let s := ks.foldl fetchLines s
  let piece := imagePiece s t l (teamTab s t) ks x.id (x.pieces - 1)
  let s := storePa { s with freeIx := s.freeIx + 1 } x.part (x.pa + piece.1) piece.2
  modSaving (storePa s x.part (x.pa + 20) (leBytes 4 (imageValid t x.pieces))) x.part (fun y => { y with pieces := x.pieces + 1 })

/-- The image is whole, STATE = 2, and step 5 releases what the team holds. -/
def closeImage (s : State) (x : Saving) (t : Team) (l : Launch) : State :=
  let tid := x.team
  let s := storePa s x.part x.pa (leBytes 4 2)
  let (s, ks) := detachTeam (t.groups.foldl (fun s g => modGroup s g (leaveClock s)) s) tid t
  let gs := (teamTab s t).map (fun e => (e.1, { savedQueues e.2 with pages := [], failed := [] }))
  let slots := ks.filterMap (fun k => (slot? s k).map (fun x => (k, x)))
  let s := { s with
    work := { s.work with
      teams := tdel s.work.teams tid
      groups := s.work.groups.filter (fun e => !t.groups.contains e.1)
      slots := s.work.slots.filter (fun e => !ks.contains e.1)
      images := s.work.images ++ [{ id := x.id, tid := tid, team := t, groups := gs, slots := slots, rot := l.rot }] } }
  ctxDone (endSaving (leaveCores (freeRehCore s t.launch) l.part) x.part) x.part 0

/-- A step of steps 3 to 5 of a save whose operations are drained: what the team still has to write back is written back, then STATE = 1, the
pieces one after another, and STATE = 2 (R266). -/
def writeImage (s : State) (x : Saving) : State :=
  match team? s x.team, teamLaunch? s x.team with
  | some t, some l =>
    if x.pieces = 0 then
      let s := flushTeam s x.team t
      match team? s x.team with
      | some t => openImage s x t l
      | none => s
    else if x.pieces ≤ 5 then writePiece s x t l
    else closeImage s x t l
  | _, _ => ctxDone (endSaving s x.part) x.part 1

/-- A save that cannot go on is marked torn; the team stays stopped and resident (R268). -/
def tearSave (s : State) (x : Saving) : State :=
  let s := if ctxRangeOk s x.pa 4 then storePa s x.part x.pa (leBytes 4 3) else s
  ctxDone (endSaving s x.part) x.part 5

/-- A save in progress goes on: it waits for posted results, operations, copies and pages of the stash. -/
def continueSave (s : State) (x : Saving) : State :=
  match team? s x.team with
  | none => tearSave s x
  | some t =>
    if teamPosted s x.team t.groups || teamCopies s x.team || t.moving.isSome then s
    else match teamStashPage s x.team with
      | some va => ownWait s (teamPart s x.team) va .w
      | none => if ctxRangeOk s x.pa (imageSize t (teamSlots s x.team).length) then writeImage s x else tearSave s x

/-- The management core's cycle counter, and its cycles in a millisecond: the main clock's (R268, R317; log entry 83). -/
def mgmtClk (s : State) : Nat := (s.units.mgmt.headD Mgmt.reset).clk
def mgmtMs : Nat := 1700000

/-- SAVE begins: its checks, then step 1. -/
def beginSave (s : State) (p : Nat) : State :=
  match ctxOne s p with
  | .error r => ctxDone s p r
  | .ok tid =>
    match team? s tid with
    | none => ctxDone s p 1
    | some t =>
      if !ctxRangeOk s (ctxAddr s p) (imageSize t (teamSlots s tid).length) then ctxDone s p 6
      else
        let x : Saving := { part := p, team := tid, pa := ctxAddr s p, since := mgmtClk s, pieces := 0, id := 0 }
        let s := setBankReg (setBankReg (stopOne s tid) p 0x19B 0) p 0x194 0x80000000
        continueSave { s with units := { s.units with saving := s.units.saving ++ [x] } } x

/-- A save of the selected bank is begun, or goes on. -/
def saveStep (s : State) : State :=
  match savingOf s (psel s) with
  | some x => continueSave s x
  | none => ctxRun s (beginSave s)

/-- SAVE (R266). -/
def execSave (s : State) : Host.Outcome State Fault Refusal := .next (saveStep s)

/-- Saves that have not become whole within SAVEB milliseconds stop; a bound of 0 is read as 1. -/
def saveBound (s : State) : State :=
  s.units.saving.foldl (fun s x =>
    if x.since + mgmtMs * max 1 (bankReg s x.part 0x193).toNat ≤ mgmtClk s then tearSave s x else s) s

/-- SAVE_BOUND_EXPIRY (R268). -/
def execSaveBoundExpiry (s : State) : Host.Outcome State Fault Refusal := .next (saveBound s)

/-! ### RESTORE (R268) -/

/-- A bit of the poison mask of a register in an image's slot. -/
def imageBad (s : State) (pa n r pos : Nat) : Bool := bit (readNum s (pa + 4096 + 16384 * n + 7168 + 4 * r) 4) pos

/-- A group's registers as an image holds them; an element that awaits a SLOTW stays empty (R408). -/
def imageRegs (s : State) (pa : Nat) (ks : List Nat) (x : Group) : Tab Elem :=
  (List.range 56).foldl (fun t r => (List.range x.width).foldl (fun t i =>
    let n := ks.findIdx (fun k => k = laneSeat x i)
    let pos := lanePos x i
    let e : Elem := .full (w32 (readNum s (pa + 4096 + 16384 * n + 128 * r + 4 * pos) 4)) (imageBad s pa n r pos)
    if elemEmpty (regElem x.regs r i) || e = .full 0 false && (tget? t (64 * r + i)).isNone then t else tput t (64 * r + i) e) t)
    (x.regs.filter (fun e => elemEmpty e.2))

/-- A team's scratchpad and tile memory as an image holds them. -/
def imageScratch (s : State) (pa nslot : Nat) (t : Team) : Tab Byte :=
  let off := pa + 5120 + 16384 * nslot
  let n := if t.pair then 2 else 1
  let tm := off + n * t.scr
  let put (m : Tab Byte) (side base from_ len : Nat) : Tab Byte :=
    (List.range len).foldl (fun m i =>
      let b := readNum s (from_ + i) 1
      if b = 0 then m else tput m (scratchKey side (base + i)) (BitVec.ofNat 8 b)) m
  (List.range n).foldl (fun m k => put (put m k 0 (off + k * t.scr) t.scr) k t.scr (tm + k * t.tmem) t.tmem) []

/-- The cores that RESTORE looks at: the owner's core for a pixel-shader team (R290), the launch's core for rehearsal while teams of it are
resident (R251), else every core in order. -/
def restoreCores (s : State) (m : Image) : List Nat :=
  match m.groups.findSome? (fun e => e.2.pix) with
  | some x =>
    match (pass? s x.pass).bind (fun p => sampleHome s p x.geom.view x.i0 x.j0) with
    | some h => [h.2.1.core]
    | none => []
  | none =>
    match ((launch? s m.team.launch).filter launchReh).bind (·.rehCore) with
    | some c => [c]
    | none => List.range s.units.fuses.ncore

/-- Whether a wave of an image holds only groups that are swapped out. -/
def imageAway (m : Image) (k : Nat) : Bool :=
  m.groups.all (fun e => !e.2.seats.contains k || e.2.ended || e.2.status = .swapped)

/-- A group placed again: it runs, unless it is swapped out or one of its slices is halted. -/
def placedGroup (s : State) (move : Nat → Nat) (x : Group) : Group :=
  let seats := x.seats.map move
  let clk := (coreOf s (slotCore (seats.headD 0))).clk
  { x with seats := seats, startClk := clk, quiet := clk,
           status := match x.status with
             | .swapped => .swapped
             | _ => if x.slices.any (fun y => y.halt.isSome) then .stopped else .run }

/-- A rehearsal launch runs on core `c` from now on; with no team of it resident before, at a saved place of its rotation (R253). -/
def rehearseOn (s : State) (lid c : Nat) (rot : Option Nat) : State :=
  modLaunch s lid (fun l => if launchReh l then { l with rehCore := some c, rot := if l.rehCore.isNone then rot.getD l.rot else l.rot } else l)

/-- A whole image placed on a core with room, whose cluster wakes when its clock is stopped. -/
def placeImage (s : State) (p pa : Nat) (m : Image) (c : Nat) (ks : List (Nat × Nat)) : State :=
  let move (k : Nat) : Nat := ((ks.find? (fun e => e.1 = k)).map (·.2)).getD k
  let old := m.slots.map (·.1)
  let t : Team := { m.team with
    core := c, stopped := false, scratch := imageScratch s pa old.length m.team,
    windows := m.team.windows.map (fun w => { w with sectors := [], pages := [] }),
    moving := none, doomed := false, grip := m.team.grip.map (fun k => { k with stopped := k.halt.isSome, pages := [], failed := [] }) }
  let s1 := storePa s p pa (leBytes 4 0)
  let s2 := { s1 with work := { s1.work with
    teams := tput s1.work.teams m.tid t
    groups := m.groups.foldl (fun gs e => tput gs e.1 (placedGroup s move { e.2 with regs := imageRegs s pa old e.2 })) s1.work.groups
    slots := m.slots.foldl (fun xs e => tput xs (move e.1) { e.2 with active := false }) s1.work.slots
    images := s1.work.images.filter (fun x => x.id ≠ m.id) } }
  let here := (ks.map (·.2)).filter (· < 3072)
  let s3 := reloadHier (rehearseOn (here.foldl storeLines s2) m.team.launch c (some m.rot)) m.team.launch m.team.no
  here.foldl resumeSlot (wakeFor (freshL1 s3 c m.team.pair) c).2

/-- RESTORE: an image that is not whole is told by its header alone; of a whole one, every byte is checked before it is read (R264, R268). -/
def restoreCommand (s : State) (p : Nat) : State :=
  let pa := ctxAddr s p
  if !ctxRangeOk s pa 4096 then ctxDone s p 6
  else if readNum s pa 4 ≠ 2 || readNum s (pa + 24) 4 % 16 ≠ s.units.fuses.ver then ctxDone s p 3
  else if !ctxRangeOk s pa (max 4096 (readNum s (pa + 4) 4)) then ctxDone s p 6
  else match s.work.images.find? (fun m => m.id = readNum s (pa + 96) 8) with
    | none => ctxDone s p 3
    | some m =>
      match launch? s m.team.launch with
      | none => ctxDone s p 1
      | some l =>
        if l.part ≠ p then ctxDone s p 1
        else match (restoreCores s m).findSome? (fun c =>
            (teamFits s p m.team (imageAway m) (m.slots.map (·.1)) (launchReh l) false c).map (fun ks => (c, ks))) with
          | none => ctxDone s p 4
          | some (c, ks) => ctxDone (placeImage s p pa m c ks) p 0

/-- RESTORE (R268). -/
def execRestore (s : State) : Host.Outcome State Fault Refusal := .next (ctxRun s (restoreCommand s))

/-! ### REGRD and REGWR (R75, R76, R269) -/

/-- CTXSEL.REG and CTXSEL.FRAME. -/
def selReg (s : State) (p : Nat) : Nat := bits (bankReg s p 0x19A).toNat 5 0
def selFrame (s : State) (p : Nat) : Nat := bits (bankReg s p 0x19A).toNat 9 8

/-- Frame `n` of a slice, the oldest being frame 0. -/
def frameAt (x : Slice) (n : Nat) : Option Frame := x.frames.reverse[n]?

/-- Element of register value `r` for lane `i` of a group; a frame that is not held reads as 0. -/
def debugElem (x : Group) (r fr i : Nat) : Elem :=
  if r < 56 then regElem x.regs r i
  else match (sliceOf x i).bind (fun y => frameAt y fr) with
    | some f => regElem f.hregs (r - 56) i
    | none => .full 0 false

/-- The debugger's value in an element: full and not poisoned, whatever is in flight to it. -/
def debugWrite (s : State) (g r fr i : Nat) (v : Word) : State :=
  if r < 56 then modGroup s g (fun x => { x with regs := setRegElem x.regs r i (.full v false) })
  else modSlice s g (i / 4) (fun y =>
    let n := y.frames.length - 1 - fr
    if fr < y.frames.length then
      { y with frames := modifyNth y.frames n (fun f => { f with hregs := setRegElem f.hregs (r - 56) i (.full v false) }) }
    else y)

/-- The 136 bytes of a register: the elements at all 32 positions of the slot (R75), whichever team's group holds them. -/
def debugBytes (s : State) (k r fr : Nat) : List Byte :=
  let gs := slotGroups s k
  let es := (List.range 32).map (fun pos => match laneAtPos gs k pos with | some (x, i) => debugElem x r fr i | none => .full 0 false)
  es.flatMap (fun e => leBytes 4 (elemWord e).toNat) ++ leBytes 4 (posMask (es.map elemEmpty)) ++ leBytes 4 (posMask (es.map elemBad))

/-- REGRD and REGWR: the buffer is checked first (R264); they act on a stopped team and a slot that it holds. -/
def debugCommand (s : State) (p : Nat) (f : State → Nat → State) : State :=
  if !ctxRangeOk s (ctxAddr s p) 136 then ctxDone s p 6
  else match ctxOne s p with
    | .error r => ctxDone s p r
    | .ok t =>
      if !teamStopped s t then ctxDone s p 2
      else match ctxSlot s p t with
        | none => ctxDone s p 2
        | some k => ctxDone (f (fetchLines s k) k) p 0

def regrdCommand (s : State) (p : Nat) : State :=
  debugCommand s p (fun s k => storePa s p (ctxAddr s p) (debugBytes s k (selReg s p) (selFrame s p)))

/-- REGRD (R269). -/
def execRegrd (s : State) : Host.Outcome State Fault Refusal := .next (ctxRun s (regrdCommand s))

/-- A buffer's 32 elements written to a register of a wave slot. -/
def debugPut (s : State) (p k : Nat) : State :=
  (List.range 32).foldl (fun s' pos =>
    match posLane s k pos with
    | some (g, i) => debugWrite s' g (selReg s p) (selFrame s p) i (w32 (readNum s (ctxAddr s p + 4 * pos) 4))
    | none => s') s

/-- Whether a lane is resident: not one of a saved team. -/
def laneHere (s : State) (l : LaneId) : Bool := match l with | .wave g _ => (group? s g).isSome | _ => (team? s (laneTeam s l)).isSome

/-- A wait on a slot ring ends for the elements that a debugger has written, and the ring is not read for them; the waits of saved teams
stay recorded (R408). -/
def endRingWaits (s : State) : State :=
  { s with posted := s.posted.filterMap (fun p =>
      match p.kind with
      | .slotw _ _ _ _ =>
        let ds := p.dests.filter (fun d => !laneHere s d.1 || awaitsElem s p.id d.1 d.2.1)
        if ds.isEmpty then none else some { p with dests := ds }
      | _ => some p) }

def regwrCommand (s : State) (p : Nat) : State := debugCommand s p (fun s k => endRingWaits (debugPut s p k))

/-- REGWR (R75, R76, R269). -/
def execRegwr (s : State) : Host.Outcome State Fault Refusal := .next (ctxRun s (regwrCommand s))

/-! ### Migration (R271 to R273) -/

/-- Whether a slice of a team does not prevent a boundary: it has no live lane, or waits at a YIELD outside a handler. -/
def sliceAtBoundary (x : Group) (n : Nat) (y : Slice) : Bool :=
  liveLanes x n = 0 || (y.frames.isEmpty && y.halt.isNone && (match y.wait with | .yield _ => true | _ => false))

/-- Whether a team is at a boundary (R272). -/
def atBoundary (s : State) (t : Team) : Bool :=
  t.groups.all (fun g => match group? s g with
    | some x => x.ended || (x.status = .run && x.slices.zipIdx.all (fun e => sliceAtBoundary x e.2 e.1))
    | none => true)

/-- Cores of a team: one, or a pair. -/
def coresOf (t : Team) (c : Nat) : List Nat := if t.pair then [c, c + 1] else [c]

/-- Whether a core that a team runs on is being removed from its partition. -/
def beingRemoved (s : State) (p : Nat) (t : Team) : Bool := (coresOf t t.core).any (fun c => (partOf s p).removing.contains c)

/-- The THOT by which a destination is judged: the hotter core's of a pair. -/
def destHeat (s : State) (t : Team) (c : Nat) : Int :=
  match coresOf t c with
  | [a, b] => max (coreOf s a).thot (coreOf s b).thot
  | _ => (coreOf s c).thot

/-- The eligible core with the lowest THOT, on a tie the lowest, with the keys that the team's waves take there (R272, R274). -/
def destination (s : State) (tid : Nat) (t : Team) : Option (Nat × List (Nat × Nat)) :=
  match teamLaunch? s tid with
  | none => none
  | some l =>
    let thresh : Int := (sysReg s 0x1C0).toNat % 65536
    let ks := teamSlots s tid
    let cs := (List.range s.units.fuses.ncore).filterMap (fun c =>
      if c = t.core || (!beingRemoved s l.part t && t.moving.isNone && thresh ≤ destHeat s t c) then none
      else (teamFits s l.part t (fun k => 3072 ≤ k) ks (launchReh l) true c).map (fun m => (c, m)))
    argMin (fun e => (destHeat s t e.1 + 65536).toNat) cs

/-- A lease whose holder has moved to another cluster follows it when that cluster's lease is free, and else ends (R323). -/
def moveLease (s : State) (cl : Nat) : State :=
  match (clusterOf s cl).lease with
  | none => s
  | some l =>
    let to_ := slotCore (l.slots.headD 0) / 4
    if to_ = cl then s
    else if (clusterOf s to_).lease.isSome then endLease s cl true
    else
      let s := setCluster s cl { clusterOf s cl with lease := none, mhz := 1700, lowered := 0 }
      setCluster s to_ { clusterOf s to_ with lease := some l, mhz := sprintMhz s to_, lowered := 0 }

/-- A team moved to core `c` (R273); `ks` maps its wave slots. -/
def moveTeam (s : State) (tid c : Nat) (ks : List (Nat × Nat)) : State :=
  match team? s tid with
  | none => s
  | some t =>
    let cl := t.core / 4
    let s := flushTeam s tid t
    let s := (ks.map (·.1)).foldl leaveSlot s
    let s := t.groups.foldl (fun s g => modGroup s g (leaveClock s)) s
    let s := ks.foldl (fun s e => moveTeamSlot s tid e.1 e.2) s
    let s := moveLease s cl
    let x := clusterOf s cl
    let s := setCluster s cl { x with idleAt := x.clk }
    let s := modTeam s tid (fun t =>
      { t with core := c, resizeAt := none, rszHeld := false, windows := t.windows.map (fun w => { w with sectors := [], pages := [] }) })
    let s := t.groups.foldl (fun s g => modGroup s g (fun x =>
      let clk := (coreOf s (slotCore (x.seats.headD 0))).clk
      { x with startClk := clk, quiet := clk })) (wakeFor (freshL1 s c t.pair) c).2
    leaveCores (((ks.map (·.2)).filter (· < 3072)).foldl resumeSlot (reloadHier (rehearseOn s t.launch c none) t.launch t.no)) (teamPart s tid)

/-- A move is over: the groups and the grip context that were stopped for it go on, or a KILL that came meanwhile takes effect (R273, R276). -/
def endMove (s : State) (tid : Nat) : State :=
  match (team? s tid).bind (·.moving) with
  | none => s
  | some (gs, grip) =>
    let s := gs.foldl (fun s g => modGroup s g (runAgain s)) s
    let doomed := (team? s tid).any (·.doomed)
    let s := modTeam s tid (fun t => { t with moving := none, doomed := false, grip := if grip then t.grip.map (fun k => { k with stopped := false }) else t.grip })
    if doomed then killNow s tid else s

/-- A team that has to move without waiting for a YIELD stops at its next boundary (R265, R274). -/
def beginMove (s : State) (tid : Nat) (t : Team) : State :=
  if t.moving.isSome then s
  else
    let gs := t.groups.filter (fun g => (group? s g).any (fun x => !x.ended && x.status = .run))
    let grip : Bool := t.grip.any (fun k => !k.ended && !k.stopped)
    let s := gs.foldl stopGroup s
    modTeam s tid (fun t => { t with moving := some (gs, grip), grip := if grip then t.grip.map (fun k => { k with stopped := true }) else t.grip })

/-- The event of type 9, once, for a team that no core can take, with the core of it that is being removed (R275). It runs on, and the
time since a core became eligible starts anew. -/
def holdResize (s : State) (tid : Nat) (t : Team) : State :=
  let p := teamPart s tid
  let s := endMove (modTeam s tid (fun t => { t with rszHeld := true, resizeAt := none })) tid
  if t.rszHeld then s
  else
    let (rq, q, slot, team) := workName s tid
    raiseEvent s (eventRec 9 p rq q 0 0 0 slot team
      (((coresOf t t.core).find? (fun c => (partOf s p).removing.contains c)).getD t.core))

/-- Whether a team can be moved now: step 2 of R266 is over and its stash can be written back; else what it waits for is begun. -/
def moveReady (s : State) (tid : Nat) (t : Team) : Bool × State :=
  if teamPosted s tid t.groups then (false, s)
  else match teamStashPage s tid with
    | some va => (false, ownWait s (teamPart s tid) va .w)
    | none => (true, s)

/-- The core of the owner team of a pixel team's tiles, when that is another than the pixel team's and the owner is neither saved nor moving. -/
def ownerCore (s : State) (t : Team) : Option Nat :=
  (t.groups.findSome? (fun g => (group? s g).bind (·.pix))).bind (fun x => (pass? s x.pass).bind (fun p => (teamOf s p.owner x.owner).bind (fun e =>
    if e.2.ended || teamMoving s e.1 e.2 || e.2.core = t.core then none else some e.2.core)))

/-- A pixel team whose tile's owner has moved to another core follows it, since it runs nowhere else (R300; log entry 52). -/
def followStep (s : State) (tid c : Nat) (t : Team) : State :=
  match teamLaunch? s tid with
  | none => s
  | some l =>
    match teamFits s l.part t (fun k => 3072 ≤ k) (teamSlots s tid) (launchReh l) true c with
    | none => s
    | some ks =>
      let (ok, s) := moveReady s tid t
      if ok then endMove (moveTeam s tid c ks) tid else s

/-- A team at a boundary moves to the coolest eligible core, and its lanes go on past their YIELDs. -/
def migrationStep (s : State) (tid : Nat) : State :=
  match team? s tid with
  | none => s
  | some t =>
    let p := teamPart s tid
    if let some c := (if t.ended || beingSaved s tid then none else ownerCore s t) then followStep s tid c t else
    if t.ended || t.stopped || beingSaved s tid || !atBoundary s t || teamStopped s tid then s
    else match destination s tid t with
      | none => if beingRemoved s p t then holdResize s tid t else s
      | some (c, ks) =>
        let (ok, s) := moveReady s tid t
        if !ok then s
        else
          t.groups.foldl (fun s g => match group? s g with
            | some x => (List.range x.slices.length).foldl (fun s n =>
                match waitOf s g n with | .yield _ => passWait s g n | _ => s) s
            | none => s) (moveTeam s tid c ks)

/-- MIGRATION (R272, R273). -/
def execMigration (team : Nat) (s : State) : Host.Outcome State Fault Refusal := .next (migrationStep s team)

/-- A team on a removed core: it is held with an event while no core is eligible; else, 2^20 clocks after one became so, it is stopped,
moved, and goes on where it stopped (R274, R275). A move that has begun completes, whatever becomes of the core, or of the team (R273). -/
def resizeStep (s : State) (tid : Nat) : State :=
  match team? s tid with
  | none => s
  | some t =>
    let p := teamPart s tid
    let clk := (coreOf s t.core).clk
    if t.ended || (t.moving.isNone && (beingSaved s tid || !beingRemoved s p t)) then s
    else match destination s tid t with
      | none => if beingRemoved s p t then holdResize s tid t else endMove s tid
      | some (c, ks) =>
        match t.resizeAt.or (t.moving.map (fun _ => 0)) with
        | none => modTeam s tid (fun t => { t with resizeAt := some clk })
        | some since =>
          if clk < since + 2 ^ 20 && t.moving.isNone then s
          else
            let (ok, s) := moveReady (beginMove s tid t) tid t
            if !ok then s else endMove (moveTeam s tid c ks) tid

/-- RESIZE_STOP_AND_MOVE (R274, R275). -/
def execResizeStopAndMove (team : Nat) (s : State) : Host.Outcome State Fault Refusal := .next (resizeStep s team)

end Sys2Proof.Machine
end

