-- ==== Sys2Proof/Machine/Display.lean ====
section
/-! DEFINITION. Streams, lens correction and the serialiser (R305 to R311). -/

namespace Sys2Proof.Machine

/-! ### FP32 arithmetic under rne -/

def fpWord (x : Num × Flags) : Word := w32 (roundFp fp32 .rne false x.1).1
def fpNum (a : Word) : Num := decodeFp fp32 a.toNat
def addF (a b : Word) : Word := fpWord (numAdd .rne (fpNum a) (fpNum b))
def subF (a b : Word) : Word := fpWord (numAdd .rne (fpNum a) (numNeg (fpNum b)))
def mulF (a b : Word) : Word := fpWord (numMul (fpNum a) (fpNum b))
/-- A constant rounded to FP32. -/
def constF (num den : Nat) : Word := f32 (mkRat num den)

/-! ### The stream descriptor (Table 13-6) and the timing record (Table 13-14), by their words -/

def sdEn (d : List Word) : Bool := bit (wordAt d 0) 31
def sdDsc (d : List Word) : Bool := bit (wordAt d 0) 17
def sdB10 (d : List Word) : Bool := bit (wordAt d 0) 16
def sdUnit (d : List Word) : Nat := bits (wordAt d 0) 11 8
def sdSink (d : List Word) : Nat := bits (wordAt d 0) 1 0
def sdHgt (d : List Word) : Nat := wordAt d 1 / 65536
def sdWid (d : List Word) : Nat := wordAt d 1 % 65536
def sdSbud (d : List Word) : Nat := wordAt d 2 % 65536
def sdTwo (d : List Word) : Bool := bit (wordAt d 3) 3
def sdMesh (d : List Word) (r : Nat) : Nat := dwordAt d (4 + 2 * r)
def sdSplit (d : List Word) : Nat := wordAt d 8 % 65536
def sdOclass (d : List Word) : Nat := wordAt d 10 % 16
def sdOslot (d : List Word) : Nat := wordAt d 11
def sdOring (d : List Word) : Nat := 64 * (wordAt d 12 % 65536)
def sdOut (d : List Word) : Nat := dwordAt d 14
def isAv1 (d : List Word) : Bool := sdSink d = 2

/-- Bits of a component. -/
def sdBits (d : List Word) : Nat := if sdB10 d then 10 else 8

/-- Whether the partition holds the sink that a descriptor names (R306). -/
def sinkHeld (s : State) (p : Nat) (d : List Word) : Bool :=
  let k := (bankReg s p 0x1E4).toNat
  match sdSink d with
  | 0 => bit k 16 && 0 < s.units.fuses.ndp
  | 1 => bit k 17 && 1 < s.units.fuses.ndp
  | 2 => bit k (sdUnit d) && sdUnit d < s.units.fuses.nav1
  | _ => false

/-- Whether an AV1 picture keeps level 5.1: its area, and its sides (Table 13-8; the numbers are the AV1 standard's, log entry 101). -/
def av1Fits (d : List Word) : Bool := sdWid d * sdHgt d ≤ 8912896 && sdHgt d ≤ 4352 && sdWid d ≤ 8192

/-- Whether every field of a descriptor has a supported value (R306, R310). -/
def streamFieldsOk (d : List Word) : Bool :=
  let addr (x : Nat) : Bool := x < 2 ^ 56 && x % 8 = 0
  (!isAv1 d || (!sdDsc d && av1Fits d)) &&
  bits (wordAt d 0) 30 18 = 0 && bits (wordAt d 0) 15 12 = 0 && bits (wordAt d 0) 7 2 = 0 && sdSink d ≠ 3 &&
    (isAv1 d || sdUnit d ≤ 1) && sdHgt d % 64 = 0 && 64 ≤ sdHgt d && sdHgt d ≤ 8192 && sdWid d % 16 = 0 && 16 ≤ sdWid d &&
    sdWid d ≤ 8192 && 1 ≤ sdSbud d && wordAt d 2 < 65536 && wordAt d 3 < 128 && addr (sdMesh d 0) && addr (sdMesh d 1) &&
    wordAt d 8 < 65536 && sdSplit d % 16 = 0 && (!sdTwo d || (0 < sdSplit d && sdSplit d < sdWid d)) && wordAt d 10 < 16 &&
    wordAt d 12 < 65536 && wordAt d 13 = 0 && sdOut d < 2 ^ 56

def vtPclk (t : List Word) : Nat := wordAt t 0

/-- Whether a timing record keeps Table 13-14. -/
def timingOk (t : List Word) : Bool :=
  let porch (n : Nat) : Bool := 1 ≤ n && n ≤ 4095
  25000 ≤ vtPclk t && vtPclk t ≤ 3000000 && porch (wordAt t 1 / 65536) && porch (wordAt t 1 % 65536) && porch (wordAt t 2 / 65536) &&
    wordAt t 2 % 65536 = 0 && porch (wordAt t 3 / 65536) && porch (wordAt t 3 % 65536) && porch (wordAt t 4 / 65536) &&
    bits (wordAt t 4) 15 2 = 0 && wordAt t 5 = 0 && wordAt t 6 = 0 && wordAt t 7 = 0

/-- Bits per pixel on the link: 24 or 30, or the DSC rate. -/
def pixelBits (key : Nat) (d : List Word) : Nat :=
  if sdDsc d then (if Config.dscWide key then 12 else 8) else 3 * sdBits d

/-- Lanes of an output. -/
def linkLanes (out : Nat) : Nat := match Config.dpLanes out % 3 with | 0 => 1 | 1 => 2 | _ => 4

/-- Whether a stream fits its output's payload capacity under 128b/132b, less what the output's other MST stream takes; rates in kbit/s,
at 20,000,000 for each lane (R311). -/
def linkFits (s : State) (key : Nat) (d t : List Word) : Bool :=
  let rate (k : Nat) (d t : List Word) := vtPclk t * pixelBits k d
  let other := (s.work.streams.filter (fun e => e.1 ≠ key && e.2.on && sdSink e.2.desc = sdSink d)).map
    (fun e => rate e.1 e.2.desc e.2.timing)
  (rate key d t + other.foldl (· + ·) 0) * 132 ≤ linkLanes (sdSink d) * 20000000 * 128

/-! ### Enabling a stream -/

/-- The key of stream `n` of a partition. -/
def streamKey (p n : Nat) : Nat := 16 * p + n

def stream? (s : State) (p n : Nat) : Option Stream := tget? s.work.streams (streamKey p n)
def setStream (s : State) (p n : Nat) (x : Stream) : State :=
  { s with work := { s.work with streams := tput s.work.streams (streamKey p n) x } }

/-- A bit of DSLATE or DSERR set. -/
def setBankBit (s : State) (p reg n : Nat) : State := setBankReg s p reg (bankReg s p reg ||| w32 (2 ^ n))

/-- A stream disabled, its DSERR bit set. -/
def streamError (s : State) (p n : Nat) : State :=
  let s := match stream? s p n with | some x => setStream s p n { x with on := false } | none => s
  setBankBit s p 0x1B3 n

/-- A stream starts with its descriptor's and timing record's words: its clock starts, and with it the first frame (log entry 102). -/
def startStream (s : State) (p n : Nat) (d t : List Word) : State :=
  let sent := ((stream? s p n).map (·.sent)).getD []
  let taken := ((stream? s p n).map (·.taken)).getD []
  setStream s p n { on := true, desc := d, timing := t, latches := [], ready := [], expired := [], sent := sent, out := [], header := none,
                    us := 0, taken := taken }

/-- EN of a stream's descriptor written: the descriptor is read, and for DisplayPort the timing record (R306, R310, R311). -/
def streamEnableStep (s : State) (p n : Nat) : State :=
  let tab := bankPair s p 0x1B0 0x1B1
  if !bit s.units.ready.toNat 9 || tab = 0 || 15 < n then s
  else match ownRead s p (tab + 64 * n) 64 .r with
    | .wait _ => ownWait s p (tab + 64 * n) .r
    | .fault _ => engDone s p 0
    | .ok bs =>
      let d := wordsOf bs
      if !sdEn d then (match stream? s p n with | some x => setStream s p n { x with on := false } | none => s)
      else if !sinkHeld s p d || !streamFieldsOk d then streamError s p n
      else if isAv1 d then (if bit s.units.ready.toNat 10 then startStream s p n d [] else s)
      else if sdOut d % 32 ≠ 0 then streamError s p n
      else match ownRead s p (sdOut d) 32 .r with
        | .wait _ => ownWait s p (sdOut d) .r
        | .fault _ => streamError (engDone s p 0) p n
        | .ok ts =>
          let t := wordsOf ts
          if timingOk t && linkFits s (streamKey p n) d t then startStream s p n d t else streamError s p n

/-- STREAM_ENABLE (R306, R310, R311). -/
def execStreamEnable (part stream : Nat) (s : State) : Host.Outcome State Fault Refusal := .next (streamEnableStep s part stream)

/-! ### Output rings (R305, R308) -/

/-- A tile handed on: its owner team and the index of its ring slot, and its descriptor's fields. -/
structure OutTile where
  team : Nat
  index : Nat
  slot : Nat
  view : Nat
  col : Nat
  row : Nat
  strip : Nat
  head : Nat
  lasts : Bool
  deriving DecidableEq, Repr

/-- The descriptor in the output slot of an index. -/
def outTile (tid : Nat) (t : Team) (h ix : Nat) : OutTile :=
  let off := ringBase t 0 h + ix % ringCount t 0 h * ringSize t 0 h
  let w (i : Nat) := scratchNum t 0 (off + 4 * i) 4
  { team := tid, index := ix, slot := bits (w 0) 5 0, view := bits (w 0) 10 8, col := w 0 / 65536, row := w 1 % 65536, strip := w 1 / 65536,
    head := w 2, lasts := bit (w 3) 1 }

/-- The published descriptors of an owner's output ring that the serialiser has not read, oldest first. -/
def outTiles (taken : List (Nat × Nat)) (tid : Nat) (t : Team) (h : Nat) : List OutTile :=
  ((List.range (ringUsed t 0 h)).map (fun i => outTile tid t h ((ringRidx t 0 h + i) % 2 ^ 32))).filter
    (fun x => !taken.contains (tid, x.index))

/-- A strip's tiles up to its last one; none while the last is not published. -/
def upToLast : List OutTile → Option (List OutTile)
  | [] => none
  | x :: xs => if x.lasts then some [x] else (upToLast xs).map (x :: ·)

/-- The tiles of a strip, when every owner team of the stream has published its last one; for each team, which. Descriptors of other
strips may stand before and among them (R308). -/
def stripTiles (s : State) (p : Nat) (st : Stream) (k : Nat) : Option (List (Nat × List OutTile)) :=
  let d := st.desc
  match namedLaunch s p (sdOclass d) (sdOslot d) with
  | none => none
  | some lid =>
    (List.range (ownerTeams s lid)).mapM (fun n =>
      match teamOf s lid n with
      | some (tid, t) =>
        if t.ended || !ringValid t 0 (sdOring d) then none
        else (upToLast ((outTiles st.taken tid t (sdOring d)).filter (·.strip = k))).map (fun xs => (tid, xs))
      | none => none)

/-! ### Lens correction (R307) -/

/-- Samples of the two axes of the grid that a tile belongs to. A descriptor's PASS holds a HEAD value and no raster queue: among the
partition's passes of that HEAD and strip whose tiles the stream's owner launch holds and that draw the view, the latest is meant; where
there is none, every sample is taken to lie inside (log entry 102). -/
def tileGrid (s : State) (p : Nat) (d : List Word) (x : OutTile) : Option (Nat × Nat) :=
  ((s.work.passes.filter (fun e => e.2.part = p && e.2.head = x.head && rrStrip e.2.words = x.strip &&
      some e.2.owner = namedLaunch s p (sdOclass d) (sdOslot d) && (drawnViews e.2.words).contains x.view)).reverse.head?).map
    (fun e => (viewCols e.2 x.view, viewRows e.2 x.view))

/-- The colour of sample (i, j) of a view among a strip's tiles: 0 outside the grid and in tiles not handed over. -/
def lensSample (s : State) (p : Nat) (d : List Word) (ts : List OutTile) (v : Nat) (i j : Int) : Nat :=
  if i < 0 || j < 0 then 0
  else match ts.find? (fun x => x.view = v && x.col = i.toNat / 32 && x.row = j.toNat / 32) with
    | none => 0
    | some x =>
      let inside := match tileGrid s p d x with | some g => i.toNat < g.1 && j.toNat < g.2 | none => true
      match team? s x.team with
      | some t => if inside then scratchNum t 0 (tileOffset t.scr x.slot (32 * (j.toNat % 32) + i.toNat % 32) false) 8 else 0
      | none => 0

/-- Interpolation between two values, in either of the usual forms. -/
def lerpF (form : Bool) (a b t : Word) : Word :=
  if form then addF a (mulF t (subF b a)) else addF (mulF a (subF (constF 1 1) t)) (mulF b t)

/-- Bilinear interpolation of four values in the fixed order of the device. -/
def bilinearF (c00 c10 c01 c11 tx ty : Word) : Word :=
  let one := constF 1 1
  match Config.lensOrder % 5 with
  | 0 => lerpF false (lerpF false c00 c10 tx) (lerpF false c01 c11 tx) ty
  | 1 => lerpF true (lerpF true c00 c10 tx) (lerpF true c01 c11 tx) ty
  | 2 => lerpF false (lerpF false c00 c01 ty) (lerpF false c10 c11 ty) tx
  | 3 => lerpF true (lerpF true c00 c01 ty) (lerpF true c10 c11 ty) tx
  | _ =>
    let sx := subF one tx
    let sy := subF one ty
    addF (addF (addF (mulF c00 (mulF sx sy)) (mulF c10 (mulF tx sy))) (mulF c01 (mulF sx ty))) (mulF c11 (mulF tx ty))

/-- The regions of a stream: first column, width, mesh and view. -/
def regions (d : List Word) : List (Nat × Nat × Nat × Nat) :=
  let vs := streamViews d
  if sdTwo d then [(0, sdSplit d, sdMesh d 0, vs.getD 0 0), (sdSplit d, sdWid d - sdSplit d, sdMesh d 1, vs.getD 1 0)]
  else [(0, sdWid d, sdMesh d 0, vs.getD 0 0)]

/-- The address of mesh vertex (a, c) of a region. -/
def meshVertex (r : Nat × Nat × Nat × Nat) (a c : Nat) : Nat := r.2.2.1 + 8 * (c * (r.2.1 / 16 + 1) + a)

/-- A coordinate of a mesh vertex: s with `k` 0, t with `k` 1. -/
def meshCoord (s : State) (p : Nat) (r : Nat × Nat × Nat × Nat) (a c k : Nat) : Word :=
  w32 (leNat (spanRead s 0 p (meshVertex r a c + 4 * k) 4 .r))

/-- A component's code: clamped, scaled, rounded; a NaN gives 0. -/
def channelCode (b : Nat) (x : Word) : Nat :=
  if isNan (fpNum x) then 0 else (nearest (rat (mulF (clampUnit x) (constF (2 ^ b - 1) 1)))).toNat

/-- The codes of an output pixel, ten bits for each of red, green and blue. -/
def lensPixel (s : State) (p : Nat) (d : List Word) (ts : List OutTile) (px py : Nat) : Word :=
  match (regions d).find? (fun r => r.1 ≤ px && px < r.1 + r.2.1) with
  | none => 0
  | some r =>
    let x := px - r.1
    let tx := constF (2 * (x % 16) + 1) 32
    let ty := constF (2 * (py % 16) + 1) 32
    let co (i : Nat) : Word :=
      bilinearF (meshCoord s p r (x / 16) (py / 16) i) (meshCoord s p r (x / 16 + 1) (py / 16) i)
        (meshCoord s p r (x / 16) (py / 16 + 1) i) (meshCoord s p r (x / 16 + 1) (py / 16 + 1) i) tx ty
    let u := subF (co 0) (constF 1 2)
    let v := subF (co 1) (constF 1 2)
    match ratOf u, ratOf v with
    | some qu, some qv =>
      let i := qu.floor
      let j := qv.floor
      let fu := subF u (f32 i)
      let fv := subF v (f32 j)
      let at_ (di dj : Int) := lensSample s p d ts r.2.2.2 (i + di) (j + dj)
      let ch (n : Nat) : Nat :=
        let c (x : Nat) : Word := fpWord (channel x n, 0)
        channelCode (sdBits d) (bilinearF (c (at_ 0 0)) (c (at_ 1 0)) (c (at_ 0 1)) (c (at_ 1 1)) fu fv)
      w32 (ch 0 + 2 ^ 10 * ch 1 + 2 ^ 20 * ch 2)
    | _, _ => 0

/-- What keeps a strip's mesh rows from being read. -/
def meshBlock (s : State) (p n k : Nat) (d : List Word) : Option Block :=
  (regions d).findSome? (fun r =>
    spanBlock s (engDisplay (streamKey p n)) 0 p (meshVertex r 0 (4 * k)) (8 * 5 * (r.2.1 / 16 + 1)) .r)

/-- Strips by the order of their latches. -/
def byLatch : Nat → Tab Nat → List Nat
  | 0, _ => []
  | n + 1, t => match argMin (·.2) t with | some e => e.1 :: byLatch n (tdel t e.1) | none => []

/-- The strips of a stream that are under way, those sent late first, then in the order of their latches. -/
def openStrips (x : Stream) : List Nat := x.expired ++ byLatch x.latches.length x.latches

/-- The strip that lens correction takes next: tiles handed over and not corrected yet. -/
def nextStrip (s : State) (p : Nat) (x : Stream) : Option (Nat × List (Nat × List OutTile)) :=
  (openStrips x).findSome? (fun k =>
    if (tget? x.ready k).isSome then none else (stripTiles s p x k).map (fun ts => (k, ts)))

/-- A team's output slots released as far as they are read, oldest first: RIDX advances past each. -/
def releaseSlots (tid h : Nat) : Nat → State × List (Nat × Nat) → State × List (Nat × Nat)
  | 0, r => r
  | n + 1, r =>
    match team? r.1 tid with
    | none => r
    | some t =>
      let e := (tid, ringRidx t 0 h)
      if 0 < ringUsed t 0 h && r.2.contains e then releaseSlots tid h n (ringAdvance r.1 tid 0 h 1, r.2.filter (· != e)) else r

/-- A strip is read: its output slots are released, each once the older slots of its ring are (R308). -/
def releaseStrip (s : State) (p n : Nat) (x : Stream) (ts : List (Nat × List OutTile)) : State :=
  let taken := x.taken ++ ts.flatMap (fun e => e.2.map (fun t => (e.1, t.index)))
  let r := ts.foldl (fun r e => releaseSlots e.1 (sdOring x.desc) (r.2.length) r) (s, taken)
  setStream r.1 p n { x with taken := r.2 }

/-- One owner team's output ring brought to hand: its header and its published slots (R140). -/
def takeRing (p n h : Nat) (r : State × Option Block) (tid : Nat) : State × Option Block :=
  match r.2, team? r.1 tid with
  | none, some t =>
    let eng := engDisplay (streamKey p n)
    if t.ended then r
    else match scratchBlock r.1 eng tid t 0 h 64 with
      | some b => (r.1, some b)
      | none =>
        let s := scratchReady r.1 tid 0 h 64
        let t := (team? s tid).getD t
        if !ringValid t 0 h then (s, none)
        else
          let slots := (List.range (ringUsed t 0 h)).map (fun k =>
            ringBase t 0 h + (ringRidx t 0 h + k) % ringCount t 0 h * ringSize t 0 h)
          match slots.findSome? (fun off => scratchBlock s eng tid t 0 off 16) with
          | some b => (s, some b)
          | none => (slots.foldl (fun s off => scratchReady s tid 0 off 16) s, none)
  | _, _ => r

/-- The output rings of a stream's owner teams brought to hand. -/
def takeRings (s : State) (p n : Nat) (d : List Word) : State × Option Block :=
  match namedLaunch s p (sdOclass d) (sdOslot d) with
  | none => (s, none)
  | some lid => ((List.range (ownerTeams s lid)).filterMap (fun k => (teamOf s lid k).map (·.1))).foldl (takeRing p n (sdOring d)) (s, none)

/-- The serialiser goes on once what it meets is at hand: it waits for an absent page, and after a fault it tries again (log entry 91). -/
def displayBlocked (s : State) (p n : Nat) (b : Block) : State :=
  match b with
  | .wait va a => spanWait s (engDisplay (streamKey p n)) 0 p va a
  | .fault _ va => engDone (poolNote s (engDisplay (streamKey p n)) 0 p va .r) p (engDisplay (streamKey p n))

/-! ### Sending (R309, R311) -/

/-- A strip is over: its latch is forgotten. -/
def dropStrip (x : Stream) (k : Nat) : Stream := { x with latches := tdel x.latches k, ready := tdel x.ready k }

/-- Pixels of a line and lines of a frame, blanking included (Table 13-14). -/
def hTotal (d t : List Word) : Nat := sdWid d + wordAt t 1 / 65536 + wordAt t 1 % 65536 + wordAt t 2 / 65536
def vTotal (d t : List Word) : Nat := sdHgt d + wordAt t 3 / 65536 + wordAt t 3 % 65536 + wordAt t 4 / 65536

/-- The scanout slot of strip `k` that follows a latch, on the stream's clock; in units of 1 / PCLK of a microsecond, PCLK in kHz (R311). -/
def scanSlot (x : Stream) (k latch : Nat) : Nat :=
  let line := 1000 * hTotal x.desc x.timing
  let frame := line * vTotal x.desc x.timing
  let first := (wordAt x.timing 3 % 65536 + wordAt x.timing 4 / 65536 + 64 * k) * line
  let l := latch * vtPclk x.timing
  if l < first then first else first + ((l - first) / frame + 1) * frame

/-- The strip whose scanout slot comes next, and its latch. -/
def scanNext (x : Stream) : Option (Nat × Nat) := argMin (fun e => scanSlot x e.1 e.2) x.latches

/-- Whether a slot is more than SBUD after the latch. The stream's clock stands on a multiple of 5 microseconds, so a latch happened up to 5
microseconds after its reading: `late` says how a slot stands that those leave open (log entry 102). -/
def slotStale (x : Stream) (k latch : Nat) (late : Bool) : Bool :=
  let gap := scanSlot x k latch - latch * vtPclk x.timing
  decide (sdSbud x.desc * vtPclk x.timing < gap) && (late || decide ((sdSbud x.desc + 5) * vtPclk x.timing ≤ gap))

/-- The next strip of a DisplayPort stream at its scanout slot: a ready strip in time is sent; a stale strip counts as late. -/
def scanoutStep (s : State) (p n : Nat) (late : Bool) : State :=
  match stream? s p n with
  | none => s
  | some x =>
    if !x.on || isAv1 x.desc then s
    else match scanNext x with
      | none => s
      | some (k, us) =>
        if (x.us + 5) * vtPclk x.timing ≤ scanSlot x k us then s
        else match tget? x.ready k, slotStale x k us late with
        | some px, false => setStream s p n { dropStrip x k with sent := tput x.sent k px }
        | some _, true => setBankBit (setBankBit (setStream s p n (dropStrip x k)) p 0x1B2 n) p 0x1B2 (16 + n)
        | none, stale =>
          let s := setBankBit (setStream s p n { dropStrip x k with expired := x.expired ++ [k] }) p 0x1B2 n
          if stale then setBankBit s p 0x1B2 (16 + n) else s

/-- STRIP_SCANOUT (R309, R311). -/
def execStripScanout (part stream : Nat) (late : Bool) (s : State) : Host.Outcome State Fault Refusal :=
  .next (scanoutStep s part stream late)

/-- Bytes of a tile group, which the AV1 standard fixes and the spec does not reproduce. -/
def groupBytes (ix : Nat) : List Byte :=
  (List.range (Config.freeLength ix)).map (fun k => Config.freeByte (2 ^ 64 * ix + k))

/-- What every sequence header says: BT.709, limited range, and an unknown chroma siting (R307). -/
def av1Header : Av1Header :=
  { colorPrimaries := 1, transferCharacteristics := 1, matrixCoefficients := 1, colorRange := 0, chromaSamplePosition := 0 }

/-- A tile group added to the bitstream, whose sequence header carries the colour description (log entry 15). -/
def emitGroup (s : State) (p n : Nat) (x : Stream) : State :=
  setStream { s with freeIx := s.freeIx + 1 } p n { x with out := x.out ++ groupBytes s.freeIx, header := some av1Header }

/-- An AV1 strip sent late: encoded as all-skip blocks, so its pixels stay as sent before. -/
def sendSkipped (s : State) (p n : Nat) (x : Stream) (k : Nat) : State := setBankBit (emitGroup s p n (dropStrip x k)) p 0x1B2 n

/-- The earliest latched strip that is not ready. -/
def countedStrip (x : Stream) : Option (Nat × Nat) := argMin (·.2) (x.latches.filter (fun e => (tget? x.ready e.1).isNone))

/-- The end of an AV1 strip's countdown: a strip that is not ready is sent late. -/
def countdownStep (s : State) (p n : Nat) : State :=
  match stream? s p n with
  | none => s
  | some x =>
    if !x.on || !isAv1 x.desc then s
    else match countedStrip x with
      | none => s
      | some (k, us) => if x.us - us < sdSbud x.desc then s else sendSkipped s p n { x with expired := x.expired ++ [k] } k

/-- STRIP_COUNTDOWN_END (R309). -/
def execStripCountdownEnd (part stream : Nat) (s : State) : Host.Outcome State Fault Refusal := .next (countdownStep s part stream)

/-- The deadlines that a stream's clock has passed are met before a strip becomes ready after them. -/
def deadlineStep (p n : Nat) (s : State) (_ : Nat) : State :=
  match stream? s p n with
  | none => s
  | some x =>
    if isAv1 x.desc then countdownStep s p n
    else match scanNext x with
      | some (k, us) => if scanSlot x k us ≤ x.us * vtPclk x.timing then scanoutStep s p n false else s
      | none => s

/-- Every deadline passed is met. -/
def deadlines (s : State) (p n : Nat) : State :=
  (List.range (((stream? s p n).map (fun x => x.latches.length)).getD 0)).foldl (deadlineStep p n) s

/-- A strip is corrected and becomes ready; one that was sent late already is discarded, and its tiles are released. The reads come after the
operations that the owners' tile back ends still hold (R180). -/
def lensStep (s : State) (p n : Nat) : State :=
  let s := deadlines s p n
  match stream? s p n with
  | none => s
  | some x =>
    if !x.on then s
    else match takeRings s p n x.desc with
    | (s, some b) => displayBlocked s p n b
    | (s, none) =>
    match nextStrip s p x with
      | none => s
      | some (k, ts) =>
        if ts.any (fun e => (team? s e.1).any (fun t => tilesBusy s t.core)) then s
        else if x.expired.contains k then
          releaseStrip s p n { x with expired := x.expired.filter (· != k) } ts
        else match meshBlock s p n k x.desc with
          | some b => displayBlocked s p n b
          | none =>
            let tiles := ts.flatMap (·.2)
            let px := (List.range 64).flatMap (fun r => (List.range (sdWid x.desc)).map (fun c =>
              lensPixel s p x.desc tiles c (64 * k + r)))
            releaseStrip s p n { x with ready := tput x.ready k px } ts

/-- LENS_CORRECTION (R305, R307, R308). -/
def execLensCorrection (part stream : Nat) (s : State) : Host.Outcome State Fault Refusal := .next (lensStep s part stream)

/-! ### AV1 strips (R307, R309) -/

/-- The luma, blue and red difference of a pixel before rounding (R307). -/
def yuvOf (b : Nat) (px : Word) : Word × Word × Word :=
  let e (k : Nat) : Word := f32 (mkRat (bits px.toNat (10 * k + 9) (10 * k)) (2 ^ b - 1))
  let er := e 0
  let eg := e 1
  let eb := e 2
  let ey := addF (addF (mulF (constF 2126 10000) er) (mulF (constF 7152 10000) eg)) (mulF (constF 722 10000) eb)
  let sc := constF (2 ^ (b - 8)) 1
  let diff (a : Word) (num den : Nat) : Word :=
    mulF sc (addF (constF 128 1) (f32 (rat (mulF (constF 224 1) (subF a ey)) / rat (constF num den))))
  (mulF sc (addF (constF 16 1) (mulF (constF 219 1) ey)), diff eb 18556 10000, diff er 15748 10000)

/-- A rounded code clamped to the limited range. -/
def yuvCode (b hi : Nat) (x : Word) : Word := w32 (min (hi * 2 ^ (b - 8)) (max (16 * 2 ^ (b - 8)) (nearest (rat x)).toNat))

/-- The 4:2:0 codes of a strip: its luma by rows, then blue and red differences of each 2 by 2 block (R307). -/
def yuvStrip (b wid : Nat) (px : List Word) : List Word :=
  let ys := px.map (yuvOf b)
  let at_ (r c : Nat) : Word × Word × Word := ys.getD (r * wid + c) (0, 0, 0)
  let box (f : Word × Word × Word → Word) (r c : Nat) : Word :=
    mulF (addF (addF (addF (f (at_ (2 * r) (2 * c))) (f (at_ (2 * r) (2 * c + 1)))) (f (at_ (2 * r + 1) (2 * c))))
      (f (at_ (2 * r + 1) (2 * c + 1)))) (constF 1 4)
  let plane (f : Word × Word × Word → Word) : List Word :=
    (List.range 32).flatMap (fun r => (List.range (wid / 2)).map (fun c => yuvCode b 240 (box f r c)))
  ys.map (fun y => yuvCode b 235 y.1) ++ plane (·.2.1) ++ plane (·.2.2)

/-- A ready AV1 strip is encoded and sent; past SBUD and the 250 microseconds of DSER it can no longer be sent as new (R309). -/
def av1SendStep (s : State) (p n : Nat) : State :=
  match stream? s p n with
  | none => s
  | some x =>
    if !x.on || !isAv1 x.desc then s
    else match (byLatch x.latches.length x.latches).findSome? (fun k => (tget? x.ready k).map (fun px => (k, px))) with
      | none => s
      | some (k, px) =>
        if sdSbud x.desc + 250 < x.us - (tget? x.latches k).getD 0 then sendSkipped s p n x k
        else emitGroup s p n { dropStrip x k with sent := tput x.sent k (yuvStrip (sdBits x.desc) (sdWid x.desc) px) }

/-- AV1_STRIP_SEND (R307, R309). -/
def execAv1StripSend (part stream : Nat) (s : State) : Host.Outcome State Fault Refusal := .next (av1SendStep s part stream)

end Sys2Proof.Machine
end

