-- ==== Sys2Proof/Machine/System.lean ====
section
/-! DEFINITION. Control registers: what SYSRD, SYSWR and CYC read and write, writes of privileged registers, TLB invalidation,
quiescence, partitions, the L2's mode and schedules (R6, R22, R46, R92, R117, R120, R147 to R151, R156, R226, R228, R254, R256, R258,
R263, R274, R275, R333, R334, R336, R340, R357, R415, R416). -/

namespace Sys2Proof.Machine

/-! ### Reading -/

/-- What a control-register number is to a reader: a value; a register of which the spec states only that the bits outside a mask
are 0 to this reader, the others being open; or a number that is not assigned (R92). -/
inductive Reading where
  | value (v : Nat)
  | openBits (m : Nat)
  | unassigned
  deriving DecidableEq, Repr

/-- LANE of a wave's lane (Table 2-2). -/
def laneWord (x : Group) (i : Nat) : Nat := slotSlice x (i / 4) * 2 ^ 16 + lanePos x i * 2 ^ 8 + i

/-- The width code of a launch (Table 2-2). -/
def widthCode (s : State) (t : Team) : Nat := match launch? s t.launch with | some l => bits (wordAt l.words 7) 1 0 | none => 0

/-- GROUP (Table 2-2). -/
def groupWord (s : State) (t : Team) (side gidx : Nat) : Nat :=
  side * 2 ^ 25 + (if t.pair then 2 ^ 24 else 0) + t.groups.length * 2 ^ 16 + widthCode s t * 2 ^ 8 + gidx

/-- The bits of a number below 0x100 that hold anything, for a reader that the tables give no value: reserved bits read 0 (R6). -/
def openReading (n : Nat) : Reading :=
  .openBits (match n with
    | 0x010 => 0x71F3F
    | 0x011 => 0x33F031F
    | 0x016 => 0x7F
    | 0x017 => 0xF
    | 0x031 => 0x8000FFFF
    | 0x032 => 0xFFFF0003
    | 0x033 => 0x7
    | _ => 0xFFFFFFFF)

/-- The identity registers of a lane of a team. -/
def identity (s : State) (l : LaneId) (t : Team) (n : Nat) : Reading :=
  match n with
  | 0x010 => .value (match l with | .wave g i => (match group? s g with | some x => laneWord x i | none => 0) | _ => 0)
  | 0x011 => .value (match l with
      | .wave g _ => groupWord s t (laneSide s l) (((group? s g).map (·.gidx)).getD 0)
      | _ => groupWord s t 0 0)
  | 0x012 => .value t.no
  | 0x013 => .value t.tx.toNat
  | 0x014 => .value t.ty.toNat
  | 0x015 => .value t.tz.toNat
  | 0x016 => .value (t.lcore + laneSide s l)
  | _ => .value (lanePart s l)

/-- MRANK (Table 9-7). -/
def mrank (s : State) (g : Nat) (x : Group) (i : Nat) : Nat :=
  match team? s (laneTeam s (.wave g i)) with
  | none => 0
  | some t =>
    let k := laneSeat x i
    let hs := teamHolders s t (slotCore k) (slotQuad k)
    slotQuad k * 64 + hs.length * 8 + hs.findIdx (· = slotHolder s k)

/-- The bits of a group's register that hold anything outside a group (Tables 5-3, 9-5, 9-7, 12-8): its reserved bits read 0, and VIDX, SJ0 and
SI0 of VIEW are 0 outside a pixel-shader group. -/
def groupBits (n : Nat) : Nat :=
  match n with
  | 0x000 => 0x1FF
  | 0x001 => 0x3F
  | 0x018 => 0xC0000000
  | 0x019 => 0xFF
  | 0x020 => 0xE03FF77F
  | _ => 0xFFFFFFFF

/-- The registers of a lane's group. -/
def groupReading (s : State) (l : LaneId) (n : Nat) : Reading :=
  match l with
  | .wave g i =>
    match group? s g with
    | some x => .value (match n with
        | 0x000 => x.mode.toNat
        | 0x001 => x.fstat.toNat
        | 0x018 => x.view.toNat
        | 0x019 => mrank s g x i
        | 0x020 => x.merr0.toNat
        | _ => x.merr1.toNat)
    | none => .openBits (groupBits n)
  | _ => .openBits (groupBits n)

/-- A mask of a group's lanes by lane position of the wave slot (R66). -/
def byPosition (x : Group) (m : LMask) : Nat := ((lanesOf m).map (fun i => 2 ^ lanePos x i)).foldl (· + ·) 0

/-- A trap frame register of a lane's slice, 0 outside a handler (Table 11-1). -/
def frameReading (s : State) (l : LaneId) (n : Nat) : Nat :=
  match l with
  | .wave g i =>
    match group? s g with
    | none => 0
    | some x =>
      match sliceOf x i with
      | none => 0
      | some y =>
        match y.frames with
        | [] => 0
        | f :: _ =>
          let d := if f.tlanes.getLsbD i then tgetD f.taddr i 0 else 0
          match n with
          | 0x050 => d / 2 ^ 32 % 2 ^ 24 * 256 + f.cause
          | 0x051 => f.pc.toNat % 2 ^ 32
          | 0x052 => d % 2 ^ 32
          | 0x053 => byPosition x f.tlanes
          | 0x054 => byPosition x (f.tdone &&& f.lanes)
          | 0x055 => f.pc.toNat / 2 ^ 32 * 256 + slotSlice x (i / 4)
          | _ => y.frames.length
  | _ => 0

/-- LEASEREM (Table 14-1): the time of a lease is what it was at the latest tick, at which it counts. -/
def leaseRem (s : State) (l : LaneId) : Nat :=
  match (clusterOf s (laneCore s l / 4)).lease with
  | some x => (if !(laneHolder s l).isEmpty && x.slots = laneHolder s l then 2 ^ 31 else 0) + (x.us + 63) / 64
  | none => 0

/-- THOT of a core (Table 14-1). -/
def thotWord (k : Core) : Nat := (BitVec.ofInt 16 k.thot).toNat * 2 ^ 16 + k.hotQuad

/-- A register of Table 14-1. -/
def powerReading (s : State) (l : LaneId) (n : Nat) : Reading :=
  match n, l with
  | 0x030, _ => .value (meltf s)
  | 0x034, _ => .value (s.units.power.count * 2 ^ 16 + (if s.units.power.refreeze then 1 else 0))
  | _, .mgmt _ => openReading n
  | 0x031, _ => .value (leaseRem s l)
  | 0x032, _ => .value (thotWord (coreOf s (laneCore s l)))
  | _, _ => .value (laneMigreq s l).toNat

/-- SYSRD of a number below 0x100 by a lane (Table 10-5). -/
def userReading (s : State) (l : LaneId) (n : Nat) : Reading :=
  match n with
  | 0x000 | 0x001 | 0x018 | 0x019 | 0x020 | 0x021 => groupReading s l n
  | 0x010 | 0x011 | 0x012 | 0x013 | 0x014 | 0x015 | 0x016 | 0x017 =>
    (match l, team? s (laneTeam s l) with
     | .mgmt _, _ => openReading n
     | _, some t => identity s l t n
     | _, none => openReading n)
  | 0x030 | 0x031 | 0x032 | 0x033 | 0x034 => powerReading s l n
  | 0x040 => .value (bankReg s (lanePart s l) 0x040).toNat
  | 0x050 | 0x051 | 0x052 | 0x053 | 0x054 | 0x055 | 0x056 => .value (frameReading s l n)
  | 0x060 => .value s.units.ready.toNat
  | 0x061 => .value (caps s.units.fuses).toNat
  | 0x062 => .value (caps2 s.units.fuses).toNat
  | _ => .unassigned

/-- A privileged register as the management core reads it: write-only bits read 0, and busy bits as the state of their command. -/
def privReading (s : State) (n : Nat) : Reading :=
  match regSpec n with
  | none => .unassigned
  | some r =>
    let p := psel s
    let v := (if r.banked then bankReg s p n else sysReg s n).toNat &&& (r.rw ||| r.w1c ||| r.ro)
    .value (match n with
      | 0x194 => if ctxBusy s p then 2 ^ 31 else 0
      | 0x1E0 => v % 2 + (if (partOf s p).resetting then 2 ^ 31 else 0)
      | 0x1D6 => s.units.fuses.svn % 2 ^ 16 * 256 + v % 256
      | _ => v)

/-- SYSRD by a lane. -/
def sysReading (s : State) (l : LaneId) (n : Nat) : Reading := if n < 0x100 then userReading s l n else privReading s n

/-- A number of 0x100 or more is out of a wave's and a grip's reach (R92). -/
def outOfReach (l : LaneId) (n : Nat) : Bool := match l with | .mgmt _ => false | _ => decide (0x100 ≤ n)

/-- Whether a posted result of a slice can still raise a flag (R120). -/
def flagsInFlight (s : State) (l : LaneId) : Bool :=
  match l with
  | .wave g i =>
    s.posted.any (fun p => (match p.kind with | .special _ _ => true | .matrix => true | _ => false) &&
      p.dests.any (fun d => match d.1 with | .wave h j => h = g && j / 4 = i / 4 | _ => false))
  | _ => false

/-- Whether a lane may name a control register: an unassigned number is illegal (R92). -/
def regNamed (s : State) (l : LaneId) (n : Nat) : Bool := outOfReach l n || sysReading s l n ≠ .unassigned

/-- SYSRD (R120, R415). -/
def execSysrd (d : Reg) (n : BitVec 9) (s : State) : Host.Outcome State Fault Refusal :=
  let r (l : LaneId) : Reading := sysReading s l n.toNat
  runEntry s (.sysrd d n)
    { form := { plainForm true with dst := some d }, legal := fun l => regNamed s l n.toNat,
      plan := fun l _ =>
        if outOfReach l n.toNat then .fault 2 n.toNat 0
        else if n.toNat = 1 && flagsInFlight s l then .wait
        else match r l with
          | .value v => result d (w32 v)
          | .openBits m => result d (Config.freeWord s.freeIx &&& w32 m)
          | .unassigned => .fault 1 (wordOf (.sysrd d n)) 0,
      note := fun _ _ t => t,
      eff := fun l _ t => match r l with | .value _ => t | _ => { t with freeIx := t.freeIx + 1 },
      branch := false }

/-- A lane's cycle counter (R46, R252, R357): of its core, of its management core, or in rehearsal mode its wave's retired count. -/
def cycleCount (s : State) (l : LaneId) : Nat :=
  match l with
  | .wave g i =>
    if teamReh s (laneTeam s l) then
      (((group? s g).bind (fun x => slot? s (laneSeat x i))).map (·.retired)).getD 0
    else (coreOf s (laneCore s l)).clk
  | .grip _ => (coreOf s (laneCore s l)).clk
  | .mgmt n => ((s.units.mgmt[n]?).map (·.clk)).getD 0

/-- CYC (R46, R357). -/
def execCyc (d : Reg) (hi : Bool) (s : State) : Host.Outcome State Fault Refusal :=
  runEntry s (.cyc d hi)
    (pureEntry { plainForm true with dst := some d } (fun l _ =>
      result d (w32 (if hi then cycleCount s l / 2 ^ 32 else cycleCount s l))))

/-! ### TLB invalidation (R156) -/

/-- TLBINV.BUSY of a partition. -/
def tlbBusy (s : State) (p : Nat) : Bool := (bankReg s p 0x174).getLsbD 31

/-- An invalidation begins: the entries it names leave every TLB. One that is in progress goes on alone. -/
def tlbStart (s : State) (p : Nat) (f : TlbEntry → Bool) : State :=
  if tlbBusy s p then s else setBankReg (tlbDrop s (fun e => e.part = p && f e)) p 0x174 0x80000000

/-- OP 1: the page at TLBVA. -/
def tlbPage (s : State) : State :=
  let va := bankPair s (psel s) 0x175 0x176
  tlbStart s (psel s) (fun e => e.va ≤ va && va < e.va + 2 ^ e.bits)

/-- TLBINV_PAGE (R156). -/
def execTlbinvPage (s : State) : Host.Outcome State Fault Refusal := .next (tlbPage s)

/-- OP 2: the partition. -/
def tlbPartition (s : State) : State := tlbStart s (psel s) (fun _ => true)

/-- TLBINV_PARTITION (R156). -/
def execTlbinvPartition (s : State) : Host.Outcome State Fault Refusal := .next (tlbPartition s)

/-- Invalidations in progress complete, once every access that used an old entry has been performed: BUSY reads 0, and device enqueues whose write failed try again (R241). -/
def tlbDone (s : State) : State :=
  (List.range 16).foldl (fun s p =>
    if tlbBusy s p && !s.late.any (fun e => e.place.isNone && lanePart s e.lane = p) then
      modPart (setBankReg s p 0x174 0) p (fun x => { x with enqs := x.enqs.map (fun e => { e with failed := false }) })
    else s) s

/-- TLB_INVALIDATION_DONE (R156). -/
def execTlbInvalidationDone (s : State) : Host.Outcome State Fault Refusal := .next (tlbDone s)

/-! ### Quiescence (R254) -/

/-- Whether a task queue of a partition is empty, with RSV = TAIL = HEAD, be it enabled or not; a descriptor that cannot be read does not
show it (log entry 84). -/
def queueEmpty (s : State) (p q : Nat) : Bool :=
  match readDesc s p false q with
  | .ok d => d.rsv = d.tail && d.tail = d.head
  | .absent => true
  | _ => false

/-- Whether a core's or a cluster's engine queues hold an operation of a partition. -/
def coreServes (s : State) (p : Nat) (x : Core) : Bool :=
  x.copies.any (fun o => teamPart s o.team = p) || x.tex.any (fun o => groupPart s o.group = p) ||
    (commitsOf x.tbe).any (fun o => ((pass? s o.pass).map (·.part)) = some p) ||
    (accessesOf x.tbe).any (fun o => groupPart s o.group = p) || x.quads.any (fun q => q.mq.any (fun o => groupPart s o.group = p))
def clusterServes (s : State) (p : Nat) (x : Cluster) : Bool := x.rays.any (fun o => teamPart s o.team = p)

/-- Whether every engine queue that serves a partition is empty. -/
def enginesQuiet (s : State) (p : Nat) : Bool :=
  (partOf s p).enqs.isEmpty && (partOf s p).reads.isEmpty && !s.work.passes.any (fun e => e.2.part = p && e.2.phase ≠ .done) &&
    !s.units.cores.any (fun e => coreServes s p e.2) && !s.units.clusters.any (fun e => clusterServes s p e.2)

/-- The AND tree of a die. -/
def quietTree (s : State) (p die : Nat) : Bool :=
  (List.range 16).all (queueEmpty s p) && enginesQuiet s p &&
    !s.work.teams.any (fun e => !e.2.ended && teamPart s e.1 = p && e.2.core / 64 = die)

/-- A sample: both trees, and the four counts of messages, sent by each die and received by each; with them the launches and teams that the
partition has started, for the dispatcher's messages, which arrive in the step that sends them (log entry 84). -/
def quietSample (s : State) (p : Nat) : List Nat :=
  let ls := s.work.launches.filter (fun e => e.2.part = p)
  let x := partOf s p
  [if quietTree s p 0 then 1 else 0, if quietTree s p 1 then 1 else 0, tgetD x.sent 0 0, tgetD x.sent 1 0, tgetD x.received 0 0,
   tgetD x.received 1 0, ls.length, (ls.map (fun e => e.2.started)).foldl (· + ·) 0]

/-- Whether two samples show a partition quiescent: both trees true, as many messages received as sent, and no change. -/
def quiescent (a b : List Nat) : Bool := a = b && a.take 2 = [1, 1] && a.getD 2 0 + a.getD 3 0 = a.getD 4 0 + a.getD 5 0

/-- A detection begins with the sample at t1; one in progress goes on. -/
def quietBegin (s : State) (p : Nat) : State :=
  if (partOf s p).quietAt.isSome then s
  else setBankReg (modPart s p (fun x => { x with quietAt := some (quietSample s p) })) p 0x183
    (w32 ((bankReg s p 0x183).toNat % 2 + 2))

/-- QUIET_REQ (R254). -/
def execQuietReq (s : State) : Host.Outcome State Fault Refusal := .next (quietBegin s (psel s))

/-- Detections in progress take their second sample, write Q and end. -/
def quietEnd (s : State) : State :=
  (List.range 16).foldl (fun s p =>
    match (partOf s p).quietAt with
    | none => s
    | some a =>
      let q := quiescent a (quietSample s p)
      setBankReg (modPart s p (fun x => { x with quietAt := none })) p 0x183 (if q then 1 else 0)) s

/-- QUIET_DETECTION_END (R254). -/
def execQuietDetectionEnd (s : State) : Host.Outcome State Fault Refusal := .next (quietEnd s)

/-! ### The L2's mode and slice sets (R147, R148) -/

/-- Lines of the L2 leave it after their writeback, charged as R151 states; the writeback that a releaser tag asks for brings lines into
the L2, which leave in a further round. -/
def flushRounds : Nat → State → (L2Line → Bool) → State
  | 0, s, _ => s
  | n + 1, s, f => flushRounds n ((s.units.l2.filter f).foldl evictLine s) f
def flushLines (s : State) (f : L2Line → Bool) : State := flushRounds (s.units.tags.length + 1) s f

/-- Whether a partition is at a context boundary: every team of it has ended or is stopped. -/
def atContextBoundary (s : State) (p : Nat) : Bool :=
  s.work.teams.all (fun e => e.2.ended || e.2.stopped || teamPart s e.1 ≠ p)

/-- L2MODE.PRIV. -/
def privateMode (s : State) : Bool := (sysReg s 0x1D1).getLsbD 0

/-- Whether two registers of two partitions name a common unit. -/
def shareBits (s : State) (p q n : Nat) : Bool := (bankReg s p n &&& bankReg s q n) ≠ 0

/-- Cores of a partition's mask that the part has. -/
def maskCores (s : State) (p : Nat) : List Nat := (List.range s.units.fuses.ncore).filter (partHasCore s p)

/-- The limits of R333 for a partition beside the running ones. -/
def limitsOk (s : State) (p : Nat) (priv : Bool) : Bool :=
  !(maskCores s p).isEmpty && (List.range 16).all (fun q =>
    q = p || !partEnabled s q ||
      (!shareBits s p q 0x1E4 && !shareBits s p q 0x1EA && !(priv && shareBits s p q 0x1E3)))

/-- Whether L2MODE may change now: at a context boundary of every partition. -/
def l2ModeReady (s : State) : Bool := (List.range 16).all (atContextBoundary s)

/-- L2MODE written: the mode changes at a context boundary, after every line is written back and invalidated. -/
def l2Mode (s : State) (priv : Bool) : State :=
  if privateMode s = priv || !l2ModeReady s then s
  else if priv && !(List.range 16).all (fun p => !partEnabled s p || limitsOk s p true) then setFwCode s 0x20
  else setSysReg (flushLines s (fun _ => true)) 0x1D1 (if priv then 1 else 0)

/-- L2_MODE_CHANGE (R148). -/
def execL2ModeChange (priv : Bool) (s : State) : Host.Outcome State Fault Refusal := .next (l2Mode s priv)

/-- Whether a write of PSLICE can take effect: in private mode at a context boundary of the partition and of those with lines there. -/
def sliceReady (s : State) (p : Nat) (v : Word) : Bool :=
  let hit (x : L2Line) : Bool := (bankReg s p 0x1E3 ||| v).getLsbD (x.slice / 16)
  !privateMode s || (atContextBoundary s p && (s.units.l2.filter hit).all (fun x => atContextBoundary s x.part))

/-- PSLICE written (R148): in private mode the lines of the old and the new slices are flushed first. -/
def sliceSet (s : State) (p : Nat) (v : Word) : State :=
  if !sliceReady s p v then s
  else
    let s := if privateMode s then flushLines s (fun x => (bankReg s p 0x1E3 ||| v).getLsbD (x.slice / 16)) else s
    setBankReg s p 0x1E3 v

/-! ### The eviction schedule (R149, R150) -/

/-- An entry of the schedule table, if it is valid (Table 6-3). -/
def evEntry (bs : List Byte) : Option EvEntry :=
  let a := leNat (bs.take 8)
  let b := leNat ((bs.drop 8).take 8)
  let c := leNat ((bs.drop 16).take 4)
  if bits a 63 52 ≠ 0 || bits a 11 0 ≠ 0 || bits b 63 52 ≠ 0 || bits b 11 0 ≠ 0 || bits c 30 24 ≠ 0 || leNat (bs.drop 20) ≠ 0 ||
      !bit c 31 || b ≤ a then none
  else some { base := a / 4096, limit := b / 4096, prio := c % 2 ^ 24 }

/-- EVCTL written; when EN is written with 1 the table is read. -/
def evctl (s : State) (p : Nat) (v : Word) : State :=
  let s := setBankReg s p 0x152 (v &&& 0x1F)
  if v.getLsbD 0 then
    let tab := bankPair s p 0x150 0x151
    let es := (List.range (bits v.toNat 4 1 + 1)).filterMap (fun n =>
      if paOk s (tab + 32 * n) then evEntry (readMem s (tab + 32 * n) 32) else none)
    modPart s p (fun x => { x with sched := es })
  else s

/-- EVCTL_ENABLE (R150). -/
def execEvctlEnable (value : Word) (s : State) : Host.Outcome State Fault Refusal := .next (evctl s (psel s) value)

/-! ### Partitions (R333, R334) -/

/-- The banked configuration registers that a measurement covers (R339). -/
def configRegs : List Nat :=
  [0x150, 0x151, 0x152, 0x170, 0x171, 0x172, 0x173, 0x180, 0x181, 0x182, 0x190, 0x191, 0x192, 0x193, 0x19C, 0x19D, 0x1A0, 0x1A1,
   0x1B0, 0x1B1, 0x1C1, 0x1E1, 0x1E2, 0x1E3, 0x1E4, 0x1E5, 0x1E6, 0x1E7, 0x1E8, 0x1E9, 0x1EA]

/-- PCTL.EN written (R72, R333). -/
def partEnable (s : State) (p : Nat) (en : Bool) : State :=
  if !en then setBankReg s p 0x1E0 0
  else if partEnabled s p then s
  else if rimBase s p = 0 || !limitsOk s p (privateMode s) then setFwCode s 0x20
  else
    let d := Config.digest (configRegs.map (fun n => (bankReg s p n).toNat))
    modPart (setBankReg s p 0x1E0 1) p (fun x => { x with measured := d })

/-- PARTITION_ENABLE (R333). -/
def execPartitionEnable (en : Bool) (s : State) : Host.Outcome State Fault Refusal := .next (partEnable s (psel s) en)

/-- The launches of a partition killed (R334): its teams and images, and HEAD moved past a record that is being placed. -/
def killPartition (s : State) (p : Nat) : State :=
  let s := (s.work.teams.filter (fun e => teamPart s e.1 = p)).foldl (fun s e => killTeam s e.1) s
  let s := (s.work.images.filter (fun m => ((launch? s m.team.launch).map (·.part)) = some p)).foldl killImage s
  let s := (partOf s p).heads.foldl (fun s h =>
    putDesc (modLaunch s h.2.launch (fun l => { l with killed := true })) p (queueDesc s p false h.1) 0 (h.2.head + 1)) s
  modPart s p (fun x => { x with heads := [] })

/-- The engine queues of a partition emptied: its enqueues, its queued copies of pages that have not begun, and its passes with their blocks and
commits. A page read or copy that has begun completes. -/
def emptyQueues (s : State) (p : Nat) : State :=
  let s := ((partOf s p).reads.filter (fun r => r.cow && !r.taken)).foldl (fun s r => endRead s p r false) s
  let gone := (s.work.passes.filter (fun e => e.2.part = p)).map (·.1)
  let s := gone.foldl (fun s k => modPass s k (fun x => { x with phase := .done, blocks := [] })) s
  let s := modPart s p (fun x => { x with enqs := [] })
  { s with units := { s.units with cores := s.units.cores.map (fun e =>
      (e.1, { e.2 with tbe := e.2.tbe.filter (fun o => match o with | .commit c => !gone.contains c.pass | .access _ => true) })) } }

/-- Whether what a reset waits for is over: every team has ended, and every page read and copy. -/
def resetOver (s : State) (p : Nat) : Bool :=
  (partOf s p).reads.isEmpty && !s.work.teams.any (fun e => !e.2.ended && teamPart s e.1 = p)

/-- A reset goes on: it waits for a save and for migrations of the partition (Table 15-5), then does the five steps of R334. Operations in
progress complete before its slices are flushed. -/
def resetGoOn (s : State) (p : Nat) : State :=
  if !(partOf s p).resetting || (savingOf s p).isSome then s
  else
    let s := emptyQueues (killPartition s p) p
    if !resetOver s p then s else
    let s := if privateMode s then flushLines s (fun x => (bankReg s p 0x1E3).getLsbD (x.slice / 16)) else s
    modPart (tlbDrop s (fun e => e.part = p)) p (fun x => { x with resetting := false })

/-- PCTL.RST written. -/
def resetPart (s : State) (p : Nat) : State := resetGoOn (modPart s p (fun x => { x with resetting := true })) p

/-- PARTITION_RESET (R334). -/
def execPartitionReset (s : State) : Host.Outcome State Fault Refusal := .next (resetPart s (psel s))

/-- The number of a word of the core mask. -/
def maskReg (word : Nat) : Nat := match word with | 0 => 0x1E1 | 1 => 0x1E2 | 2 => 0x1E8 | _ => 0x1E9

/-- A core added to a partition again: it is no longer being removed. -/
def addCore (s : State) (p c : Nat) : State :=
  let s := modPart s p (fun x => { x with removing := x.removing.filter (· != c) })
  (coreTeams s c).foldl (fun s e =>
    if teamPart s e.1 = p then modTeam s e.1 (fun t => { t with resizeAt := none, rszHeld := false }) else s) s

/-- A core removed from a running partition (R274): its teams there migrate. -/
def removeCore (s : State) (p c : Nat) : State :=
  let mine := (coreTeams s c).filter (fun e => teamPart s e.1 = p)
  if mine.isEmpty then s
  else
    let s := modPart s p (fun x => { x with removing := insertNat c x.removing })
    mine.foldl (fun s e => resizeStep s e.1) s

/-- A word of a core mask written (R274, R275, R333). -/
def coreMask (s : State) (p word : Nat) (v : Word) : State :=
  let n := maskReg word
  let s' := setBankReg s p n v
  if !partEnabled s p then modPart s' p (fun x => { x with removing := x.removing.filter (fun c => !partHasCore s' p c) })
  else if (maskCores s' p).isEmpty then setFwCode s 0x20
  else
    let cs := (List.range 32).map (32 * word + ·)
    let added := cs.filter (fun c => partHasCore s' p c && !partHasCore s p c)
    let gone := cs.filter (fun c => partHasCore s p c && !partHasCore s' p c)
    endYields (gone.foldl (fun s c => removeCore s p c) (added.foldl (fun s c => addCore s p c) s'))

/-- CORE_MASK_WRITE (R274, R333). -/
def execCoreMaskWrite (word : BitVec 2) (value : Word) (s : State) : Host.Outcome State Fault Refusal :=
  .next (coreMask s (psel s) word.toNat value)

/-! ### Writes of privileged registers (R6) -/

/-- The stored value after a write by the Access codes. -/
def accessWrite (r : RegSpec) (old v : Nat) : Nat := ((old &&& (r.ro ||| r.w1c)) ^^^ (old &&& r.w1c &&& v)) ||| (v &&& r.rw)

/-- Reserved bits of a register that a write sets. -/
def reservedBits (r : RegSpec) (v : Nat) : Nat := v &&& (0xFFFFFFFF ^^^ (r.rw ||| r.w1c ||| r.wo ||| r.ro))

/-- A write without an effect of its own: TICKETS and SAVEB read 0 as 1, and a new table address forgets what its queues did. -/
def plainWrite (s : State) (p n : Nat) (r : RegSpec) (v : Nat) : State :=
  let new (old : Nat) : Word :=
    let x := accessWrite r old v
    w32 (if (n = 0x182 || n = 0x193) && x = 0 then 1 else x)
  if r.banked then
    let s := setBankReg s p n (new (bankReg s p n).toNat)
    if n = 0x180 || n = 0x181 then modPart s p (fun x => { x with badDesc := x.badDesc.filter (16 ≤ ·) })
    else if n = 0x1A0 || n = 0x1A1 then modPart s p (fun x => { x with badDesc := x.badDesc.filter (· < 16) })
    else s
  else setSysReg s n (new (sysReg s n).toNat)

/-- A write that R333 limits while the partition runs. -/
def limitedWrite (s : State) (p n : Nat) (v : Word) : State :=
  let s' := setBankReg s p n v
  if partEnabled s p && !limitsOk s' p (privateMode s) then setFwCode s 0x20
  else if n = 0x1E3 then sliceSet s p v else s'

/-- PCTL written: RST, then EN. -/
def pctlWrite (s : State) (p : Nat) (v : Word) : State := partEnable (if v.getLsbD 1 then resetPart s p else s) p (v.getLsbD 0)

/-- A context command written to CTXCMD.OP (Table 11-4). -/
def ctxWrite (s : State) (op : Nat) : State :=
  match op with
  | 1 => ctxRun s (stopCommand s)
  | 2 => ctxRun s (resumeCommand s)
  | 3 => ctxRun s (beginSave s)
  | 4 => ctxRun s (restoreCommand s)
  | 5 => ctxRun s (killCommand s)
  | 6 => ctxRun s (regrdCommand s)
  | 7 => ctxRun s (regwrCommand s)
  | 8 => ctxRun s (stepCommand s)
  | _ => ctxRun s (fun p => ctxDone s p 2)

/-- A write of a privileged register; one that sets a reserved bit, or of a number that is not assigned, has no effect here. -/
def privWrite (s : State) (n : Nat) (v : Word) : State :=
  let p := psel s
  match regSpec n with
  | none => s
  | some r =>
    if reservedBits r v.toNat ≠ 0 then s
    else match n with
      | 0x152 => evctl s p v
      | 0x174 => (match v.toNat % 4 with | 1 => tlbPage s | 2 => tlbPartition s | _ => s)
      | 0x183 => if v.getLsbD 1 then quietBegin s p else s
      | 0x194 => ctxWrite s (v.toNat % 16)
      | 0x19C => if partEnabled s p then s else setBankReg s p n v
      | 0x19D => if partEnabled s p then s else setBankReg s p n v
      | 0x1D1 => l2Mode s (v.getLsbD 0)
      | 0x1E0 => pctlWrite s p v
      | 0x1E1 => coreMask s p 0 v
      | 0x1E2 => coreMask s p 1 v
      | 0x1E8 => coreMask s p 2 v
      | 0x1E9 => coreMask s p 3 v
      | 0x1E3 => limitedWrite s p n v
      | 0x1E4 => limitedWrite s p n v
      | 0x1EA => limitedWrite s p n v
      | _ => plainWrite s p n r v.toNat

/-- REGISTER_WRITE (R6). -/
def execRegisterWrite (num : BitVec 9) (value : Word) (s : State) : Host.Outcome State Fault Refusal :=
  .next (privWrite s num.toNat value)

/-! ### SYSWR -/

/-- Reserved bits of a control register below 0x100. -/
def userReserved (n : Nat) : Nat :=
  match n with
  | 0x000 => 0xFFFFFE00
  | 0x001 => 0xFFFFFFC0
  | 0x010 => 0xFFF8E0C0
  | 0x011 => 0xFCC0FCE0
  | 0x016 => 0xFFFFFF80
  | 0x017 => 0xFFFFFFF0
  | 0x018 => 0x07000000
  | 0x019 => 0xFFFFFF00
  | 0x020 => 0x1FC00880
  | 0x030 => 0xFFFE0000
  | 0x031 => 0x7FFF0000
  | 0x032 => 0x0000FFFC
  | 0x033 => 0xFFFFFFF8
  | 0x034 => 0x0000FFFE
  | 0x040 => 0xFFFFFFF8
  | 0x055 => 0x000000F8
  | 0x056 => 0xFFFFFFF8
  | 0x060 => 0xFFFFE000
  | 0x062 => 0xFFFE0003
  | _ => 0

/-- Reserved bits that a write of a lane sets. -/
def sysReserved (n : Nat) (v : Nat) : Nat :=
  if n < 0x100 then v &&& userReserved n else match regSpec n with | some r => reservedBits r v | none => 0

/-- TDONE of the issuing slice's current frame replaced: positions outside the frame's running set are ignored (Table 11-1). -/
def writeTdone (s : State) (g i : Nat) (v : Word) : State :=
  match group? s g with
  | none => s
  | some x =>
    modSlice s g (i / 4) (fun y =>
      match y.frames with
      | f :: fs => { y with frames := { f with tdone := maskOf ((lanesOf f.lanes).filter (fun j => v.getLsbD (lanePos x j))) } :: fs }
      | [] => y)

/-- A write of a control register below 0x100 by a lane (R416). -/
def userWrite (s : State) (l : LaneId) (n : Nat) (v : Word) : State :=
  match n, l with
  | 0x040, _ => setBankReg s (lanePart s l) 0x040 v
  | 0x000, .wave g _ => modGroup s g (fun x => { x with mode := v })
  | 0x001, .wave g _ => modGroup s g (fun x => { x with fstat := x.fstat &&& ~~~v })
  | 0x020, .wave g _ => if v.getLsbD 31 then modGroup s g (fun x => { x with merr0 := x.merr0 &&& 0x7FFFFFFF }) else s
  | 0x054, .wave g i => writeTdone s g i v
  | _, _ => s

/-- A write that cannot take effect yet holds the management core at its SYSWR (R148, R416). -/
def writeHeld (s : State) (l : LaneId) (n : Nat) (v : Word) : Bool :=
  match l with
  | .mgmt _ => (n = 0x1D1 && privateMode s ≠ v.getLsbD 0 && !l2ModeReady s) ||
      (n = 0x1E3 && bankReg s (psel s) n ≠ v && !sliceReady s (psel s) v)
  | _ => false

/-- SYSWR (R416, R457): it acts once for each group, with its lowest active lane's value. -/
def execSyswr (n : BitVec 9) (ea : Bool) (a : Reg) (s : State) : Host.Outcome State Fault Refusal :=
  let active := activeLanes s s.focus
  runEntry s (.syswr n ea a)
    { form := { plainForm true with srcs := [srcOne 0 a ea] }, legal := fun l => regNamed s l n.toNat,
      plan := fun l vs =>
        if outOfReach l n.toNat then .fault 2 n.toNat 0
        else if sysReserved n.toNat (val vs 0).toNat ≠ 0 then .fault 1 (wordOf (.syswr n ea a)) 0
        else if writeHeld s l n.toNat (val vs 0) then .wait
        else .done [] 0 none,
      note := fun _ _ t => t,
      eff := fun l vs t =>
        if leadLane active l = l then
          if n.toNat < 0x100 then userWrite t l n.toNat (val vs 0) else privWrite t n.toNat (val vs 0)
        else t,
      branch := false }

end Sys2Proof.Machine
end

