-- ==== Sys2Proof/Machine/Outside.lean ====
section
/-! DEFINITION. Steps whose cause lies outside the cores: the event ring, peer links, accesses by the host and by peers, detected faults,
bring-up, firmware, module reset, attestation and configuration requests (R57, R178, R186, R328 to R340, R459). -/

namespace Sys2Proof.Machine

/-- Whether a function's READY bit is set (R336). -/
def functionUp (s : State) (n : Nat) : Bool := s.units.ready.getLsbD n

/-! ### The event ring (R335) -/

/-- The address of the ring's header. -/
def eventHead (s : State) : Nat := pairNat (sysReg s 0x1D4) (sysReg s 0x1D5)

/-- The slot of the ring that the next event goes to. -/
def eventSlot (s : State) : Nat := readNum s (eventHead s + 16) 8 + 32 * (readNum s (eventHead s + 4) 4 % readNum s (eventHead s + 8) 4)

/-- Whether the ring has a free slot; one with a header of no valid capacity, or at an unassigned address, has none (R329), and the write waits
for the functions that it uses (R336). -/
def eventRoom (s : State) : Bool :=
  let h := eventHead s
  paOk s h && powTwo (readNum s (h + 8) 4) (2 ^ 20) &&
    (readNum s (h + 4) 4 + 2 ^ 32 - readNum s h 4) % 2 ^ 32 < readNum s (h + 8) 4 &&
    paOk s (eventSlot s) && unitsReady s h && unitsReady s (eventSlot s)

/-- The oldest held event is written to the ring; while the ring is full it is held. -/
def eventStep (s : State) : State :=
  match s.units.events with
  | [] => s
  | r :: rest =>
    if !eventRoom s then s
    else
      let h := eventHead s
      let tail := readNum s (h + 4) 4
      let s := storeDev s (eventSlot s) r
      let s := storeDev s (h + 4) (leBytes 4 (tail + 1))
      { s with units := { s.units with events := rest } }

/-- EVENT_RING_WRITE (R335, R459). -/
def execEventRingWrite (s : State) : Host.Outcome State Fault Refusal := .next (eventStep s)

/-! ### Peer links (R330) -/

/-- The remote module of a link in PEERCFG. -/
def linkRemote (s : State) (n : Nat) : Nat := bits (sysReg s 0x1D3).toNat (4 * n + 2) (4 * n)

/-- A link fails: loads sent on it return poisoned data, and an event of type 4 is raised. -/
def linkFails (s : State) (n : Nat) : State :=
  if s.units.linkDown.contains n || s.units.fuses.npeer ≤ n then s
  else
    let hit (p : Posted) : Posted :=
      if p.link = some n then { p with dests := p.dests.map (fun d => (d.1, d.2.1, d.2.2.1, true)) } else p
    let s := { s with posted := s.posted.map hit, units := { s.units with linkDown := insertNat n s.units.linkDown } }
    raiseEvent s (eventRec 4 0xFF 0 n (linkRemote s n) 0 0 0 0 0)

/-- PEER_LINK_FAILURE (R330). -/
def execPeerLinkFailure (link : Nat) (s : State) : Host.Outcome State Fault Refusal := .next (linkFails s link)

/-! ### Accesses from outside (R178, R186) -/

/-- The bytes of an outside read, and whether one is poisoned. -/
def outsideRead (s : State) (pa n : Nat) : State :=
  { s with outside := { s.outside with data := readMem s pa n, poison := memBad s pa n } }

/-- Bytes written from outside at the home that the shared-mode hash gives: stash sectors that hold the line are recalled first. -/
def outsideWrite (s : State) (pa : Nat) (bs : List Byte) : State :=
  let s := recallStash s pa
  shareStore (storeMem (keepHomes s (homeSlice s 0 true (pa / 256)) (pa / 256) (fun a => pa ≤ a && a < pa + bs.length)) pa bs) pa bs

/-- An access within one sector: a read of a tagged line promotes it first (R178). -/
def outsideSector (s : State) (pa : Nat) (bs : Option (List Byte)) : State :=
  match bs with | some bs => outsideWrite s pa bs | none => promote s none (pa / 256)

/-- An access sector by sector. -/
def outsideAccess (s : State) (acc : OutsideAccess) : State :=
  match acc.data.map (softBytes s acc.pa) with
  | some bs => (sectorChunks acc.pa bs.length).foldl (fun s c => outsideSector s c.1 (some ((bs.drop (c.1 - acc.pa)).take c.2))) s
  | none => outsideRead ((sectorChunks acc.pa acc.size).foldl (fun s c => outsideSector s c.1 none) s) acc.pa acc.size

/-- Every byte of an access lies in a range of one kind. -/
def allTargets (s : State) (acc : OutsideAccess) (f : PaTarget → Bool) : Bool :=
  let n := match acc.data with | some bs => bs.length | none => acc.size
  (sectorChunks acc.pa n).all (fun c => f (paTarget s c.1) && f (paTarget s (c.1 + c.2 - 1)))

/-- The lines of an access. -/
def accessLines (acc : OutsideAccess) : List Nat :=
  let n := match acc.data with | some bs => bs.length | none => acc.size
  (sectorChunks acc.pa n).map (fun c => c.1 / 256)

/-- Lines of device memory that the host holds after an access, those that it writes modified (R186). -/
def hostHolds (s : State) (acc : OutsideAccess) : State :=
  let more (ls : List Nat) := (accessLines acc).foldl (fun ls l => insertNat l ls) ls
  { s with outside := { s.outside with
      hostLines := more s.outside.hostLines, hostDirty := if acc.data.isSome then more s.outside.hostDirty else s.outside.hostDirty } }

/-- An access by the host: to device memory over CXL.mem, or to its own memory. -/
def hostStep (s : State) (acc : OutsideAccess) : State :=
  if allTargets s acc (fun t => t = .local) then
    if functionUp s 5 && functionUp s 1 && functionUp s 2 then hostHolds (outsideAccess s acc) acc else s
  else if allTargets s acc (fun t => t = .host) then outsideAccess s acc
  else s

/-- HOST_ACCESS (R186). -/
def execHostAccess (acc : OutsideAccess) (s : State) : Host.Outcome State Fault Refusal := .next (hostStep s acc)

/-- A line that a peer writes is taken back from the host first, and one that it reads while the host holds it modified is snooped. -/
def snoopHost (s : State) (acc : OutsideAccess) : State :=
  let keep (l : Nat) : Bool := !(acc.data.isSome && (accessLines acc).contains l)
  let s := { s with outside := { s.outside with
    hostLines := s.outside.hostLines.filter keep, hostDirty := s.outside.hostDirty.filter keep } }
  (accessLines acc).foldl snoopRead s

/-- An access by a peer counts as a message received, and its reply as one sent, for every running partition, since a physical address names none
(R254, log entry 84). -/
def countPeer (s : State) (acc : OutsideAccess) : State :=
  let d := homeSlice s 0 true (acc.pa / 256) / 128
  ((List.range 16).filter (partEnabled s)).foldl (fun s p => countSent (countGot s p d) p d) s

/-- An access by a peer module: to this module's memory, performed at its L2, or to the peer's own memory. -/
def peerStep (s : State) (acc : OutsideAccess) : State :=
  if allTargets s acc (fun t => t = .local) then
    if functionUp s 7 && functionUp s 1 && functionUp s 2 then snoopHost (outsideAccess (countPeer s acc) acc) acc else s
  else if allTargets s acc (fun t => match t with | .peer _ => true | _ => false) then outsideAccess s acc
  else s

/-- PEER_ACCESS (R186). -/
def execPeerAccess (acc : OutsideAccess) (s : State) : Host.Outcome State Fault Refusal := .next (peerStep s acc)

/-- A line that the host asks for: after the writeback of dirty sectors it stays clean, or leaves the L2, at each home that holds it. -/
def snoopLine (s : State) (x : L2Line) (invalidate : Bool) : State :=
  if invalidate then evictLine s x
  else
    let s := ownBack (charge s x.part 0x162 (sectorCount x.dirty)) x
    { s with units := { s.units with l2 := s.units.l2.map (fun y =>
        if y.line = x.line && y.slice = x.slice then { y with dirty := 0 } else y) } }

/-- A coherence request of the host for a line of its memory, answered by the L2. -/
def snoopStep (s : State) (line : Nat) (invalidate : Bool) : State :=
  if paTarget s (256 * line) ≠ .host || !functionUp s 5 || !functionUp s 2 then s
  else
    let s := promote s none line
    let s := (s.units.l2.filter (fun x => x.line = line)).foldl (fun s x => snoopLine s x invalidate) s
    outsideRead s (256 * line) 256

/-- HOST_SNOOP (R186). -/
def execHostSnoop (line : Nat) (invalidate : Bool) (s : State) : Host.Outcome State Fault Refusal := .next (snoopStep s line invalidate)

/-! ### Detected faults (R57, R72, R337) -/

/-- The element at an offset of a wave slot's register image poisoned (R70). -/
def poisonElem (s : State) (k off : Nat) : State :=
  let r := off / 128
  let pos := off % 128 / 4
  if 56 ≤ r then s
  else
    (slotGroups s k).foldl (fun s e =>
      (List.range e.2.width).foldl (fun s i =>
        if laneSeat e.2 i = k && lanePos e.2 i = pos then
          match regElem e.2.regs r i with
          | .full v _ => modGroup s e.1 (fun x => { x with regs := setRegElem x.regs r i (.full v true) })
          | .empty _ => s
        else s) s) s

/-- Elements of consecutive words of slot images. -/
def poisonElems (s : State) (slot off n : Nat) : State :=
  (List.range ((off % 4 + n + 3) / 4)).foldl (fun s w =>
    poisonElem s (slot + (off + 4 * w) / 8192) ((off + 4 * w) % 8192)) s

/-- Bytes of a core's scratchpad poisoned; its teams' allocations lie one after another. -/
def poisonScratch (s : State) (c off n : Nat) : State :=
  ((coreTeams s c).foldl (fun (acc : State × Nat) e =>
    let side := c - e.2.core
    let len := e.2.scr + e.2.tmem
    let hit := (List.range n).filter (fun i => acc.2 ≤ off + i && off + i < acc.2 + len)
    (modTeam acc.1 e.1 (fun t =>
      { t with bad := hit.foldl (fun b i => insertNat (scratchKey side (off + i - acc.2)) b) t.bad }), acc.2 + len)) (s, 0)).1

/-- An uncorrected fault poisons the data it reaches; the location is an address, but for a scratchpad and a register file (Table 15-6). Bytes of a register-image area that are poisoned poison the elements that are read
back from them (R72, `imageElem`). -/
def poisonUnit (s : State) (f : HwFault) : State :=
  match f.unit with
  | 2 => poisonScratch s f.inst f.loc f.bytes
  | 3 => poisonElems s (24 * f.inst) f.loc f.bytes
  | _ => poisonMem s f.loc f.bytes

/-- A detected fault: its event of type 8, and its poison. -/
def faultStep (s : State) (f : HwFault) : State :=
  let s := if f.uncorrected then poisonUnit s f else s
  raiseEvent s (eventRec 8 0xFF 0 f.unit (if f.uncorrected then 1 else 0) 0 0 f.inst 0 f.loc)

/-- HARDWARE_FAULT_DETECTION (R337). -/
def execHardwareFaultDetection (f : HwFault) (s : State) : Host.Outcome State Fault Refusal := .next (faultStep s f)

/-! ### Bring-up and trust (R336, R338) -/

/-- A function becomes ready; the management cores do so, and begin to run, once an image is verified. -/
def becomeReady (s : State) (n : Nat) : State :=
  if 12 < n || functionUp s n || (n = 0 && !s.units.trust.verified) then s
  else
    let s := { s with units := { s.units with ready := s.units.ready ||| (1#13 <<< n) } }
    if n = 0 then { s with units := { s.units with mgmt := s.units.mgmt.map (fun k => { k with running := true }) } } else s

/-- FUNCTION_READY (R336). -/
def execFunctionReady (bit : Nat) (s : State) : Host.Outcome State Fault Refusal := .next (becomeReady s bit)

/-- What an image's checks give FWSTAT.CODE (R338). -/
def imageCode (s : State) (img : FwImage) : Nat :=
  if !img.formOk then 0x12 else if !img.sigOk then 0x10 else if img.version < s.units.fuses.svn then 0x11 else 0

/-- An image is verified: the first runs, and a later one starts at the next module reset. -/
def acceptImage (s : State) (img : FwImage) : State :=
  let s' := setFwCode s (imageCode s img)
  if imageCode s img ≠ 0 then s'
  else
    let t := s.units.trust
    { s' with units := { s'.units with
        trust := if t.verified then { t with pending := some (img.digest, img.version) }
                 else { t with verified := true, digest := img.digest, version := img.version } } }

/-- FIRMWARE_IMAGE_ACCEPT (R338). -/
def execFirmwareImageAccept (img : FwImage) (s : State) : Host.Outcome State Fault Refusal := .next (acceptImage s img)

/-- The root of trust after a module reset: the accepted image is the one that runs (Table 15-5). -/
def trustAfterReset (t : Trust) : Trust :=
  match t.pending with
  | some (d, v) => { verified := true, digest := d, version := v, pending := none, stage := 0, reply := [] }
  | none => { t with stage := 0, reply := [] }

/-- A module reset: every unit as at reset, the fuses and the bytes of memory as they were. -/
def resetModule (s : State) : State :=
  { State.reset with
    mem := s.mem, memPoison := s.memPoison, agenda := s.agenda, nextTag := s.nextTag, freeIx := s.freeIx,
    units := { Units.reset with fuses := s.units.fuses, trust := trustAfterReset s.units.trust } }

/-- MODULE_RESET (R340). -/
def execModuleReset (s : State) : Host.Outcome State Fault Refusal := .next (resetModule s)

/-! ### Attestation (R338, R339) -/

/-- How far a requester has come: nothing, the version, the capabilities, the algorithms. -/
def spdmReply (s : State) (need stage : Nat) (reply : List Nat) : State :=
  let t := s.units.trust
  if !functionUp s 12 then s
  else if t.stage < need then { s with units := { s.units with trust := { t with reply := [0] } } }
  else { s with units := { s.units with trust := { t with stage := stage, reply := reply } } }

/-- GET_VERSION: SPDM 1.3. -/
def execGetVersion (s : State) : Host.Outcome State Fault Refusal := .next (spdmReply s 0 1 [13])

/-- GET_CAPABILITIES: no key exchange and no secure sessions. -/
def execGetCapabilities (s : State) : Host.Outcome State Fault Refusal := .next (spdmReply s 1 2 [1, 0, 0])

/-- NEGOTIATE_ALGORITHMS: ML-DSA-87 and SHA3-512. -/
def execNegotiateAlgorithms (s : State) : Host.Outcome State Fault Refusal := .next (spdmReply s 2 3 [87, 512])

/-- GET_DIGESTS: the digest of the certificate chain. -/
def execGetDigests (s : State) : Host.Outcome State Fault Refusal := .next (spdmReply s 3 3 [Config.digest [Config.certificate]])

/-- GET_CERTIFICATE: the chain that certifies the identity key (R338). -/
def execGetCertificate (s : State) : Host.Outcome State Fault Refusal := .next (spdmReply s 3 3 [Config.certificate])

/-- CHALLENGE: the nonce signed with the identity key. -/
def execChallenge (nonce : Nat) (s : State) : Host.Outcome State Fault Refusal :=
  .next (spdmReply s 3 3 [nonce, Config.signature [nonce, s.units.trust.digest]])

/-- The measurements of R339 in order of their numbers: 1, 2, and 16 + p. -/
def measurements (s : State) : List Nat :=
  [s.units.trust.digest, (caps s.units.fuses).toNat, (caps2 s.units.fuses).toNat] ++
    (List.range 16).map (fun p => (partOf s p).measured)

/-- GET_MEASUREMENTS (R339). -/
def execGetMeasurements (s : State) : Host.Outcome State Fault Refusal := .next (spdmReply s 3 3 (measurements s))

/-! ### Configuration requests and mailboxes (R328, R336) -/

/-- The place of a byte that a request names. -/
def controlKey (cxlIo : Bool) (r : ConfigRequest) (i : Nat) : Nat :=
  (if r.mailbox then 2 ^ 41 else if cxlIo then 2 ^ 40 else 0) + 4096 * r.fn + (r.off + i) % (if r.mailbox then 65536 else 4096)

/-- A request performed: a write is kept, and a read gives what the part answers there (log entry 104). -/
def controlAccess (s : State) (cxlIo : Bool) (r : ConfigRequest) : State :=
  match r.data with
  | some bs => { s with outside := { s.outside with
      control := bs.zipIdx.foldl (fun t e => tput t (controlKey cxlIo r e.2) e.1) s.outside.control, status := 1 } }
  | none => { s with outside := { s.outside with
      data := (List.range r.size).map (fun i => Config.controlByte (controlKey cxlIo r i) (tget? s.outside.control (controlKey cxlIo r i))), poison := false, status := 1 } }

/-- A request is answered, successfully with status 1. While the function is not ready, one over CXL.io for configuration space gets
Configuration Request Retry Status, here 2, and any other waits; the mailboxes are reached through the control port alone (R328, R336). -/
def configAnswer (s : State) (cxlIo : Bool) (r : ConfigRequest) : State :=
  if r.mailbox && cxlIo then s
  else if functionUp s (if cxlIo then 5 else r.fn) then controlAccess s cxlIo r
  else if cxlIo then { s with outside := { s.outside with status := 2 } }
  else s

/-- CONFIGURATION_REQUEST (R328, R336). -/
def execConfigurationRequest (cxlIo : Bool) (req : ConfigRequest) (s : State) : Host.Outcome State Fault Refusal :=
  .next (configAnswer s cxlIo req)

end Sys2Proof.Machine
end

