-- ==== Sys2Proof/Machine/Dispatch.lean ====
section
/-! DEFINITION. One arm for each row of the opcode table: a call of its meaning. -/

namespace Sys2Proof.Machine

def exec (i : Instr) (s : State) : Host.Outcome State Fault Refusal :=
  match i with
  | .iadd ea eb d a b => Sys2Proof.Machine.execIadd ea eb d a b s
  | .isub ea eb d a b => Sys2Proof.Machine.execIsub ea eb d a b s
  | .imul ea eb d a b => Sys2Proof.Machine.execImul ea eb d a b s
  | .imulh ea eb d a b => Sys2Proof.Machine.execImulh ea eb d a b s
  | .imulhu ea eb d a b => Sys2Proof.Machine.execImulhu ea eb d a b s
  | .imin ea eb d a b => Sys2Proof.Machine.execImin ea eb d a b s
  | .imax ea eb d a b => Sys2Proof.Machine.execImax ea eb d a b s
  | .iminu ea eb d a b => Sys2Proof.Machine.execIminu ea eb d a b s
  | .imaxu ea eb d a b => Sys2Proof.Machine.execImaxu ea eb d a b s
  | .and ea eb d a b => Sys2Proof.Machine.execAnd ea eb d a b s
  | .or ea eb d a b => Sys2Proof.Machine.execOr ea eb d a b s
  | .xor ea eb d a b => Sys2Proof.Machine.execXor ea eb d a b s
  | .andn ea eb d a b => Sys2Proof.Machine.execAndn ea eb d a b s
  | .shl ea eb d a b => Sys2Proof.Machine.execShl ea eb d a b s
  | .shr ea eb d a b => Sys2Proof.Machine.execShr ea eb d a b s
  | .sar ea eb d a b => Sys2Proof.Machine.execSar ea eb d a b s
  | .iadds ea eb d a b => Sys2Proof.Machine.execIadds ea eb d a b s
  | .isubs ea eb d a b => Sys2Proof.Machine.execIsubs ea eb d a b s
  | .iaddi ea d a imm => Sys2Proof.Machine.execIaddi ea d a imm s
  | .imuli ea d a imm => Sys2Proof.Machine.execImuli ea d a imm s
  | .andi ea d a imm => Sys2Proof.Machine.execAndi ea d a imm s
  | .ori ea d a imm => Sys2Proof.Machine.execOri ea d a imm s
  | .xori ea d a imm => Sys2Proof.Machine.execXori ea d a imm s
  | .shli ea d a n => Sys2Proof.Machine.execShli ea d a n s
  | .shri ea d a n => Sys2Proof.Machine.execShri ea d a n s
  | .sari ea d a n => Sys2Proof.Machine.execSari ea d a n s
  | .mov ea d a => Sys2Proof.Machine.execMov ea d a s
  | .not ea d a => Sys2Proof.Machine.execNot ea d a s
  | .ineg ea d a => Sys2Proof.Machine.execIneg ea d a s
  | .iabs ea d a => Sys2Proof.Machine.execIabs ea d a s
  | .popc ea d a => Sys2Proof.Machine.execPopc ea d a s
  | .clz ea d a => Sys2Proof.Machine.execClz ea d a s
  | .brev ea d a => Sys2Proof.Machine.execBrev ea d a s
  | .imad d a b c => Sys2Proof.Machine.execImad d a b c s
  | .imadwUint d a b c => Sys2Proof.Machine.execImadwUint d a b c s
  | .imadwInt d a b c => Sys2Proof.Machine.execImadwInt d a b c s
  | .iaddw ea eb d a b => Sys2Proof.Machine.execIaddw ea eb d a b s
  | .isubw ea eb d a b => Sys2Proof.Machine.execIsubw ea eb d a b s
  | .shlw ea eb d a b => Sys2Proof.Machine.execShlw ea eb d a b s
  | .icmp cond ea eb d a b => Sys2Proof.Machine.execIcmp cond ea eb d a b s
  | .sel d a b c => Sys2Proof.Machine.execSel d a b c s
  | .bfe d a c => Sys2Proof.Machine.execBfe d a c s
  | .bfeu d a c => Sys2Proof.Machine.execBfeu d a c s
  | .bfi d a b c => Sys2Proof.Machine.execBfi d a b c s
  | .bperm d a b c => Sys2Proof.Machine.execBperm d a b c s
  | .movi d imm => Sys2Proof.Machine.execMovi d imm s
  | .movhi d imm => Sys2Proof.Machine.execMovhi d imm s
  | .fadd sat negB negA rnd ea eb d a b => Sys2Proof.Machine.execFadd sat negB negA rnd ea eb d a b s
  | .fmul sat negB negA rnd ea eb d a b => Sys2Proof.Machine.execFmul sat negB negA rnd ea eb d a b s
  | .fmin nan ea eb d a b => Sys2Proof.Machine.execFmin nan ea eb d a b s
  | .fmax nan ea eb d a b => Sys2Proof.Machine.execFmax nan ea eb d a b s
  | .ffma rnd d a b c => Sys2Proof.Machine.execFfma rnd d a b c s
  | .fcmp cond ea eb d a b => Sys2Proof.Machine.execFcmp cond ea eb d a b s
  | .frcp ea d a => Sys2Proof.Machine.execFrcp ea d a s
  | .frsq ea d a => Sys2Proof.Machine.execFrsq ea d a s
  | .fsqrt ea d a => Sys2Proof.Machine.execFsqrt ea d a s
  | .fexp2 ea d a => Sys2Proof.Machine.execFexp2 ea d a s
  | .flog2 ea d a => Sys2Proof.Machine.execFlog2 ea d a s
  | .fsin ea d a => Sys2Proof.Machine.execFsin ea d a s
  | .fcos ea d a => Sys2Proof.Machine.execFcos ea d a s
  | .fclass ea d a => Sys2Proof.Machine.execFclass ea d a s
  | .fabs ea d a => Sys2Proof.Machine.execFabs ea d a s
  | .fneg ea d a => Sys2Proof.Machine.execFneg ea d a s
  | .frnd rnd ea d a => Sys2Proof.Machine.execFrnd rnd ea d a s
  | .fcvt code el rnd ea d a => Sys2Proof.Machine.execFcvt code el rnd ea d a s
  | .hpadd sat rnd ea eb d a b => Sys2Proof.Machine.execHpadd sat rnd ea eb d a b s
  | .hpmul sat rnd ea eb d a b => Sys2Proof.Machine.execHpmul sat rnd ea eb d a b s
  | .hpmin ea eb d a b => Sys2Proof.Machine.execHpmin ea eb d a b s
  | .hpmax ea eb d a b => Sys2Proof.Machine.execHpmax ea eb d a b s
  | .hpfma rnd d a b c => Sys2Proof.Machine.execHpfma rnd d a b c s
  | .bpfma rnd d a b c => Sys2Proof.Machine.execBpfma rnd d a b c s
  | .fdot kind d a b c => Sys2Proof.Machine.execFdot kind d a b c s
  | .sobol f32 d a b c => Sys2Proof.Machine.execSobol f32 d a b c s
  | .xmov mode k d a => Sys2Proof.Machine.execXmov mode k d a s
  | .xfadd mode k d a b => Sys2Proof.Machine.execXfadd mode k d a b s
  | .xiadd mode k d a b => Sys2Proof.Machine.execXiadd mode k d a b s
  | .vote kind ea d a => Sys2Proof.Machine.execVote kind ea d a s
  | .xred op scan ea d a => Sys2Proof.Machine.execXred op scan ea d a s
  | .emitv ea eb a b => Sys2Proof.Machine.execEmitv ea eb a b s
  | .emitp ea eb a b => Sys2Proof.Machine.execEmitp ea eb a b s
  | .attr kind n d => Sys2Proof.Machine.execAttr kind n d s
  | .disc ea a => Sys2Proof.Machine.execDisc ea a s
  | .zout ea a => Sys2Proof.Machine.execZout ea a s
  | .pxout blend ea a => Sys2Proof.Machine.execPxout blend ea a s
  | .tex ea eb d a b => Sys2Proof.Machine.execTex ea eb d a b s
  | .texg ea eb d a b => Sys2Proof.Machine.execTexg ea eb d a b s
  | .tileld depth ea d a => Sys2Proof.Machine.execTileld depth ea d a s
  | .tilest depth ea d a => Sys2Proof.Machine.execTilest depth ea d a s
  | .raygo ea a => Sys2Proof.Machine.execRaygo ea a s
  | .bra ea a off => Sys2Proof.Machine.execBra ea a off s
  | .brz ea a off => Sys2Proof.Machine.execBrz ea a off s
  | .jmp off => Sys2Proof.Machine.execJmp off s
  | .call off => Sys2Proof.Machine.execCall off s
  | .ret ea a => Sys2Proof.Machine.execRet ea a s
  | .brx ea eb a b => Sys2Proof.Machine.execBrx ea eb a b s
  | .regang span => Sys2Proof.Machine.execRegang span s
  | .exit => Sys2Proof.Machine.execExit s
  | .bar id => Sys2Proof.Machine.execBar id s
  | .barTeam => Sys2Proof.Machine.execBarTeam s
  | .yield => Sys2Proof.Machine.execYield s
  | .fence scope sc => Sys2Proof.Machine.execFence scope sc s
  | .qfence mask => Sys2Proof.Machine.execQfence mask s
  | .sleep n => Sys2Proof.Machine.execSleep n s
  | .leaseReq d n => Sys2Proof.Machine.execLeaseReq d n s
  | .leaseFree => Sys2Proof.Machine.execLeaseFree s
  | .leaseQuery d => Sys2Proof.Machine.execLeaseQuery d s
  | .sysrd d n => Sys2Proof.Machine.execSysrd d n s
  | .syswr n ea a => Sys2Proof.Machine.execSyswr n ea a s
  | .cyc d hi => Sys2Proof.Machine.execCyc d hi s
  | .trap n => Sys2Proof.Machine.execTrap n s
  | .rett => Sys2Proof.Machine.execRett s
  | .brk n => Sys2Proof.Machine.execBrk n s
  | .ld size scope acq ea d a off => Sys2Proof.Machine.execLd size scope acq ea d a off s
  | .st size scope rel ea d a off => Sys2Proof.Machine.execSt size scope rel ea d a off s
  | .ldl size team acq ea d a off => Sys2Proof.Machine.execLdl size team acq ea d a off s
  | .stl size team rel ea d a off => Sys2Proof.Machine.execStl size team rel ea d a off s
  | .atom op scope ar d a b => Sys2Proof.Machine.execAtom op scope ar d a b s
  | .atoml op team ar d a b => Sys2Proof.Machine.execAtoml op team ar d a b s
  | .clinePf scope ea a off => Sys2Proof.Machine.execClinePf scope ea a off s
  | .clineWb scope ea a off => Sys2Proof.Machine.execClineWb scope ea a off s
  | .clineInv scope ea a off => Sys2Proof.Machine.execClineInv scope ea a off s
  | .stashMap ea d a => Sys2Proof.Machine.execStashMap ea d a s
  | .stashUnmap ea a => Sys2Proof.Machine.execStashUnmap ea a s
  | .stashFlush ea a => Sys2Proof.Machine.execStashFlush ea a s
  | .cpy ea a => Sys2Proof.Machine.execCpy ea a s
  | .slotw free ea d a => Sys2Proof.Machine.execSlotw free ea d a s
  | .slotr ea a => Sys2Proof.Machine.execSlotr ea a s
  | .slotp ea a => Sys2Proof.Machine.execSlotp ea a s
  | .slote ea a => Sys2Proof.Machine.execSlote ea a s
  | .qstrm q ea eb a b => Sys2Proof.Machine.execQstrm q ea eb a b s
  | .mma i32 bq outl unf acc d a b => Sys2Proof.Machine.execMma i32 bq outl unf acc d a b s
  | .mpack fmt ea eb d a b => Sys2Proof.Machine.execMpack fmt ea eb d a b s
  | .mtake => Sys2Proof.Machine.execMtake s
  | .mpass rank => Sys2Proof.Machine.execMpass rank s
  | .tspawn ea a => Sys2Proof.Machine.execTspawn ea a s
  | .tsucc ea a => Sys2Proof.Machine.execTsucc ea a s
  | .mov16 k d r => Sys2Proof.Machine.execMov16 k d r s
  | .iadd16 k d r => Sys2Proof.Machine.execIadd16 k d r s
  | .isub16 k d r => Sys2Proof.Machine.execIsub16 k d r s
  | .imul16 k d r => Sys2Proof.Machine.execImul16 k d r s
  | .and16 k d r => Sys2Proof.Machine.execAnd16 k d r s
  | .or16 k d r => Sys2Proof.Machine.execOr16 k d r s
  | .xor16 k d r => Sys2Proof.Machine.execXor16 k d r s
  | .shl16 k d r => Sys2Proof.Machine.execShl16 k d r s
  | .shr16 k d r => Sys2Proof.Machine.execShr16 k d r s
  | .sar16 k d r => Sys2Proof.Machine.execSar16 k d r s
  | .imin16 k d r => Sys2Proof.Machine.execImin16 k d r s
  | .imax16 k d r => Sys2Proof.Machine.execImax16 k d r s
  | .fadd16 k d r => Sys2Proof.Machine.execFadd16 k d r s
  | .fsub16 k d r => Sys2Proof.Machine.execFsub16 k d r s
  | .fmul16 k d r => Sys2Proof.Machine.execFmul16 k d r s
  | .fmax16 k d r => Sys2Proof.Machine.execFmax16 k d r s
  | .postedResultArrival id => Sys2Proof.Machine.execPostedResultArrival id s
  | .asynchronousCauseDelivery target => Sys2Proof.Machine.execAsynchronousCauseDelivery target s
  | .matrixOperation core quad => Sys2Proof.Machine.execMatrixOperation core quad s
  | .slateObtained core quad => Sys2Proof.Machine.execSlateObtained core quad s
  | .copyOperation core => Sys2Proof.Machine.execCopyOperation core s
  | .copyRingPublication core => Sys2Proof.Machine.execCopyRingPublication core s
  | .streamEntryFetch group queue => Sys2Proof.Machine.execStreamEntryFetch group queue s
  | .textureOperation core => Sys2Proof.Machine.execTextureOperation core s
  | .rayLaunch cluster => Sys2Proof.Machine.execRayLaunch cluster s
  | .stashFill team side window sector => Sys2Proof.Machine.execStashFill team side window sector s
  | .nvmeReadCompletion entry sct sc block => Sys2Proof.Machine.execNvmeReadCompletion entry sct sc block s
  | .swappedGroupPlacement group => Sys2Proof.Machine.execSwappedGroupPlacement group s
  | .taskDispatch core => Sys2Proof.Machine.execTaskDispatch core s
  | .deviceEnqueue n => Sys2Proof.Machine.execDeviceEnqueue n s
  | .launchCompletion launch => Sys2Proof.Machine.execLaunchCompletion launch s
  | .rasterRecordTake part queue => Sys2Proof.Machine.execRasterRecordTake part queue s
  | .passStartClear pass => Sys2Proof.Machine.execPassStartClear pass s
  | .meshletRasterisation pass => Sys2Proof.Machine.execMeshletRasterisation pass s
  | .pixelGroupStart pass => Sys2Proof.Machine.execPixelGroupStart pass s
  | .pixelCommit core => Sys2Proof.Machine.execPixelCommit core s
  | .tilePublication pass => Sys2Proof.Machine.execTilePublication pass s
  | .passCompletion pass => Sys2Proof.Machine.execPassCompletion pass s
  | .lensCorrection part stream => Sys2Proof.Machine.execLensCorrection part stream s
  | .stripScanout part stream late => Sys2Proof.Machine.execStripScanout part stream late s
  | .stripCountdownEnd part stream => Sys2Proof.Machine.execStripCountdownEnd part stream s
  | .av1StripSend part stream => Sys2Proof.Machine.execAv1StripSend part stream s
  | .streamEnable part stream => Sys2Proof.Machine.execStreamEnable part stream s
  | .powerTick env => Sys2Proof.Machine.execPowerTick env s
  | .leaseRequestDecision slot => Sys2Proof.Machine.execLeaseRequestDecision slot s
  | .leaseExpiry cluster => Sys2Proof.Machine.execLeaseExpiry cluster s
  | .migration team => Sys2Proof.Machine.execMigration team s
  | .hangWatchdogExpiry group => Sys2Proof.Machine.execHangWatchdogExpiry group s
  | .yieldTimeout group slice => Sys2Proof.Machine.execYieldTimeout group slice s
  | .sleepExpiry group slice => Sys2Proof.Machine.execSleepExpiry group slice s
  | .activeSetTimeout slot => Sys2Proof.Machine.execActiveSetTimeout slot s
  | .activeSetIdleLeave slot => Sys2Proof.Machine.execActiveSetIdleLeave slot s
  | .activeSetEntry slot => Sys2Proof.Machine.execActiveSetEntry slot s
  | .gateSequenceBegin cluster => Sys2Proof.Machine.execGateSequenceBegin cluster s
  | .gateCommit cluster => Sys2Proof.Machine.execGateCommit cluster s
  | .clusterWakeUp cluster => Sys2Proof.Machine.execClusterWakeUp cluster s
  | .saveBoundExpiry => Sys2Proof.Machine.execSaveBoundExpiry s
  | .resizeStopAndMove team => Sys2Proof.Machine.execResizeStopAndMove team s
  | .stop => Sys2Proof.Machine.execStop s
  | .resume => Sys2Proof.Machine.execResume s
  | .save => Sys2Proof.Machine.execSave s
  | .restore => Sys2Proof.Machine.execRestore s
  | .kill => Sys2Proof.Machine.execKill s
  | .regrd => Sys2Proof.Machine.execRegrd s
  | .regwr => Sys2Proof.Machine.execRegwr s
  | .step => Sys2Proof.Machine.execStep s
  | .ctxcmdUndefinedOp op => Sys2Proof.Machine.execCtxcmdUndefinedOp op s
  | .tlbinvPage => Sys2Proof.Machine.execTlbinvPage s
  | .tlbinvPartition => Sys2Proof.Machine.execTlbinvPartition s
  | .tlbInvalidationDone => Sys2Proof.Machine.execTlbInvalidationDone s
  | .quietReq => Sys2Proof.Machine.execQuietReq s
  | .quietDetectionEnd => Sys2Proof.Machine.execQuietDetectionEnd s
  | .partitionReset => Sys2Proof.Machine.execPartitionReset s
  | .partitionEnable en => Sys2Proof.Machine.execPartitionEnable en s
  | .coreMaskWrite word value => Sys2Proof.Machine.execCoreMaskWrite word value s
  | .l2ModeChange priv => Sys2Proof.Machine.execL2ModeChange priv s
  | .evctlEnable value => Sys2Proof.Machine.execEvctlEnable value s
  | .registerWrite num value => Sys2Proof.Machine.execRegisterWrite num value s
  | .eventRingWrite => Sys2Proof.Machine.execEventRingWrite s
  | .peerLinkFailure link => Sys2Proof.Machine.execPeerLinkFailure link s
  | .hostAccess acc => Sys2Proof.Machine.execHostAccess acc s
  | .peerAccess acc => Sys2Proof.Machine.execPeerAccess acc s
  | .hardwareFaultDetection f => Sys2Proof.Machine.execHardwareFaultDetection f s
  | .functionReady bit => Sys2Proof.Machine.execFunctionReady bit s
  | .firmwareImageAccept img => Sys2Proof.Machine.execFirmwareImageAccept img s
  | .moduleReset => Sys2Proof.Machine.execModuleReset s
  | .getVersion => Sys2Proof.Machine.execGetVersion s
  | .getCapabilities => Sys2Proof.Machine.execGetCapabilities s
  | .negotiateAlgorithms => Sys2Proof.Machine.execNegotiateAlgorithms s
  | .getDigests => Sys2Proof.Machine.execGetDigests s
  | .getCertificate => Sys2Proof.Machine.execGetCertificate s
  | .challenge nonce => Sys2Proof.Machine.execChallenge nonce s
  | .getMeasurements => Sys2Proof.Machine.execGetMeasurements s
  | .copyOnWriteCompletion entry => Sys2Proof.Machine.execCopyOnWriteCompletion entry s
  | .configurationRequest cxlIo req => Sys2Proof.Machine.execConfigurationRequest cxlIo req s
  | .hostSnoop line invalidate => Sys2Proof.Machine.execHostSnoop line invalidate s

end Sys2Proof.Machine
end

