-- ==== Sys2Proof/Machine/Issue.lean ====
section
/-! DEFINITION. Issue: fetching and decoding at a context's program counter, who may issue, the rotation of rehearsal mode, the passage of
clocks, and what the module does next when the agenda names nothing (R24, R44, R73, R79, R94, R190, R191, R250 to R253, R434). -/

namespace Sys2Proof.Machine

/-! ### Fetching (R79) -/

/-- What a fetch gives: an instruction; a cause with its TADDR; a page to wait for; or a function that is not ready. -/
inductive Fetched where
  | instr (i : Instr)
  | trap (cause detail : Nat)
  | page (va : Nat)
  | hold
  deriving DecidableEq, Repr

/-- The address whose translation a fetch at `pc` stops at: the second halfword's when the first translates. -/
def fetchVa (s : State) (l : LaneId) (pc : Addr) : Nat :=
  match translate s (laneCore s l) (lanePart s l) pc.toNat .x with
  | .ok _ _ => (pc + 2).toNat
  | _ => pc.toNat

/-- The instruction at an address, as a lane's context fetches it; an illegal word is cause 0x01 (R94). -/
def fetchAt (s : State) (l : LaneId) (pc : Addr) : Fetched :=
  match fetchBytes s (laneCore s l) (lanePart s l) pc with
  | .ok bs => (match decode bs with | .ok (i, _) => .instr i | .error _ => .trap 1 (leNat bs))
  | .fault c => .trap c (fetchVa s l pc)
  | .wait e =>
    let va := fetchVa s l pc
    if translate s (laneCore s l) (lanePart s l) va .x = .hold then .hold
    else if (laneFailed s l).contains e then .trap 4 va else .page va

/-- What a fetch leaves behind in translation. -/
def noteFetch (s : State) (l : LaneId) (pc : Addr) : State := noteLane s l pc.toNat .x

/-- A cause taken by every active lane at the instruction that its context would run. Cause 0x04 for an empty pool leaves BUSY clear, and the
event (R157, R158). -/
def trapAll (s : State) (cause detail : Nat) : State :=
  let active := activeLanes s s.focus
  let s := match active with
    | l :: _ => if cause = 4 then noteLane s l detail .x else s
    | [] => s
  finish s (bareEntry true) active (active.map (fun l => (l, .fault cause detail 0)))

/-- The context in `focus` fetches and executes one instruction. -/
def runFocus (s : State) : Host.Outcome State Fault Refusal :=
  match activeLanes s s.focus with
  | [] => .next s
  | l :: ls =>
    match fetchAt s l (focusPc s s.focus) with
    | .instr i => exec i (noteFetch s l (focusPc s s.focus))
    | .trap c d => .next (trapAll s c d)
    | .page va => .next (swapOut ((l :: ls).foldl (fun s m => noteLane s m va .x) s) (l :: ls))
    | .hold => .next s

/-! ### Who may issue -/

/-- Whether a core can issue: its READY bit is set and its cluster's clock runs. -/
def coreGoes (s : State) (c : Nat) : Bool :=
  s.units.ready.getLsbD 3 && (match (clusterOf s (c / 4)).gate with | .on => true | .seq _ => true | _ => false)

/-- Whether a wave may issue, the active set apart. -/
def waveMay (s : State) (k : Nat) : Bool := k < 3072 && (slot? s k).isSome && coreGoes s (slotCore k)

/-- Whether a grip context may issue; that of a pixel team waits while the owner team of its tile is away (R300). -/
def gripMay (s : State) (t : Nat) : Bool :=
  match team? s t with
  | none => false
  | some x =>
    match x.grip with
    | none => false
    | some k => !k.ended && (!k.stopped || k.stepping) && k.pages.isEmpty && k.sleepUntil ≤ (coreOf s x.core).clk && coreGoes s x.core &&
        !teamAway s t

/-- Whether a management core may issue. -/
def mgmtMay (s : State) (n : Nat) : Bool :=
  match s.units.mgmt[n]? with
  | some k => k.running && k.pages.isEmpty && k.sleepUntil ≤ k.clk && s.units.ready.getLsbD 0
  | none => false

/-- Slices that a debugger steps stop again after one attempt (R264). -/
def endStepping (s : State) (es : List (Nat × Nat)) : State :=
  es.foldl (fun s e =>
    if (((group? s e.1).bind (·.slices[e.2]?)).map (·.stepping)).getD false then modSlice s e.1 e.2 (fun y => { y with stepping := false })
    else s) s

/-- One gang's attempt to issue. -/
def issueGang (s : State) (k gang : Nat) : Host.Outcome State Fault Refusal :=
  let es := gangSlices s k gang
  match runFocus { s with focus := .wave k gang } with
  | .next t => .next (endStepping t es)
  | r => r

/-- A grip context issues, or takes the cause that a copy of its left. -/
def issueGrip (s : State) (t : Nat) : Host.Outcome State Fault Refusal :=
  match ((team? s t).bind (·.grip)).bind (·.pend) with
  | some c =>
    .next (gripTrap (modTeam s t (fun x => { x with grip := x.grip.map (fun k => { k with pend := none }) })) t c.cause c.addr)
  | none => runFocus { s with focus := .grip t }

/-- The contexts of a core's grip that may issue, the oldest first. -/
def gripsReady (s : State) (c : Nat) : List Nat :=
  (s.work.teams.filter (fun e => !e.2.ended && e.2.core = c && gripMay s e.1)).map (·.1)

/-- The first of some grip contexts that issues; one that waits lets the others run (R190). -/
def tryGrips (s : State) : List Nat → Host.Outcome State Fault Refusal
  | [] => .next s
  | t :: ts =>
    match issueGrip s t with
    | .next u => if { u with focus := s.focus } = s then tryGrips s ts else .next u
    | r => r

/-- A core's grip issues one instruction, of its oldest ready context (R190). -/
def gripStep (s : State) (c : Nat) : Host.Outcome State Fault Refusal := tryGrips s (gripsReady s c)

/-! ### Clocks (R46, R255) -/

/-- A wave that has a ready entry has had one until now (R73). -/
def noteReady (s : State) (k : Nat) : State :=
  if waveReady s k then modSlot s k (fun x => { x with readyAt := (coreOf s (slotCore k)).clk }) else s

/-- How many of `n` clocks a cluster counts: none while its clock is stopped, and none from the commit of a gate sequence on, 256 clocks
after it began (R255). -/
def clocksOf (x : Cluster) (n : Nat) : Nat :=
  match x.gate with
  | .on => n
  | .seq since => min n (since + 256 - x.clk)
  | .off => 0
  | .waking => 0

/-- `n` clocks pass for a cluster. -/
def elapseCluster (s : State) (cl n : Nat) : State :=
  match clocksOf (clusterOf s cl) n with
  | 0 => s
  | n =>
    let s := (List.range 4).foldl (fun s k => modCore s (4 * cl + k) (fun c => { c with clk := c.clk + n })) s
    let s := (s.work.slots.filter (fun e => e.1 < 3072 && e.2.active && slotCore e.1 / 4 = cl)).foldl (fun s e => noteReady s e.1) s
    let x := clusterOf s cl
    setCluster s cl { x with clk := x.clk + n, idleAt := if clusterIdle s cl then x.idleAt else x.clk + n }

/-- Clocks of a core's cluster pass; the management cores count their own. -/
def elapse (s : State) (core n : Nat) : State :=
  let s := elapseCluster s (core / 4) n
  { s with units := { s.units with mgmt := s.units.mgmt.map (fun k => { k with clk := k.clk + n }) } }

/-! ### The module's own steps -/

/-- The first of some steps that changes the state. -/
def firstChange (s : State) (fs : List (State → State)) : Option State :=
  fs.findSome? (fun f => let t := f s; if t = s then none else some t)

/-- Steps of a core's engines and of the posted results, oldest first. -/
def engineSteps (s : State) (c : Nat) : List (State → State) :=
  s.posted.map (fun p s => arrive s p.id) ++ [(copyStep · c), (publishStep · c), (textureStep · c), (commitStep · c)] ++
    (List.range 4).flatMap (fun q => [(matrixStep · c q), (slateStep · c q)]) ++ [(rayStep · (c / 4))]

/-- Cores on which something is held: a team, or operations in an engine's queue, such as the copies of a team that has moved away (R211). -/
def usedCores (s : State) : List Nat :=
  sortNat (s.work.teams.flatMap (fun e => if e.2.ended then [] else coresOf e.2 e.2.core) ++
    (s.units.cores.filter (fun e => !(e.2.copies.isEmpty && e.2.tex.isEmpty && e.2.tbe.isEmpty))).map (·.1))

/-- Steps of work: of groups, slots, teams, launches and passes. -/
def workSteps (s : State) : List (State → State) :=
  (s.work.slots.filter (fun e => e.1 < 3072)).flatMap (fun e =>
      [(deliverAsync · e.1 (fun _ => true)), (activeIdle · e.1), (activeTimeout · e.1), (activeEnter · e.1)]) ++
    s.work.groups.flatMap (fun e =>
      [(placeSwapped · e.1), (hangStep · e.1)] ++ e.2.queues.map (fun q s => streamStep s e.1 q.1) ++
        (List.range e.2.slices.length).flatMap (fun n => [(yieldStep · e.1 n), (sleepStep · e.1 n)])) ++
    s.work.teams.flatMap (fun e => [(migrationStep · e.1), (resizeStep · e.1), (tryEndTeam · e.1)]) ++
    s.work.launches.map (fun e s => completeLaunch s e.1) ++
    s.work.passes.flatMap (fun e =>
      [(clearStep · e.1), (meshletStep · e.1), (pixelStartStep · e.1), (publicationStep · e.1), (passDone · e.1)])

/-- Steps of partitions. -/
def partSteps (s : State) : List (State → State) :=
  (List.range 16).flatMap (fun p =>
    [(serviceStep · p), (enqueueStep · p), (refusalStep · p), (resetGoOn · p)] ++
      (List.range 4).map (fun q s => takeStep s p q) ++
      (s.work.streams.filter (fun e => e.1 / 16 = p)).flatMap (fun e =>
        [(deadlines · p (e.1 % 16)), (lensStep · p (e.1 % 16)), (av1SendStep · p (e.1 % 16))]))

/-- Steps of the module as a whole. -/
def moduleSteps (s : State) : List (State → State) :=
  [saveBound] ++ s.units.saving.map (fun x s => continueSave s x) ++ [tlbDone, quietEnd, eventStep] ++
    (List.range 32).flatMap (fun cl => [(gateBegin · cl), (gateEnd · cl), (wakeUp · cl)])

/-- Dispatch on the cores of the running partitions. -/
def dispatchSteps (s : State) : List (State → State) :=
  ((List.range s.units.fuses.ncore).filter (fun c => (runningParts s).any (fun p => partHasCore s p c))).map (fun c s => dispatchStep s c)

/-- Every step that the module takes by itself, issue apart, in the order in which the model tries them. -/
def ownSteps (s : State) : List (State → State) :=
  s.late.map (fun e s => performLate s e.id) ++ moduleSteps s ++ (usedCores s).flatMap (engineSteps s) ++ partSteps s ++ workSteps s ++ dispatchSteps s

/-! ### Renaming and issue (R52 to R55, R250, R434) -/

/-- What is left of the expected addresses of a wave's slices after an entry: the next address, or none once it is not known. -/
abbrev Expected := List ((Nat × Nat) × Option Addr)

def expectedOf (xs : Expected) (e : Nat × Nat) : Option Addr := (xs.find? (fun x => x.1 = e)).bind (·.2)

/-- The address after an entry, where renaming knows it. -/
def addrAfter (e : RobEntry) : Option Addr :=
  match e.instr with
  | some i => if endsRename i then none else some (e.pc + BitVec.ofNat 56 (lengthOf i))
  | none => none

/-- Whether a slice is still at an entry: the address is the one expected of it, and its running lanes are the entry's. -/
def stillAt (s : State) (xs : Expected) (e : RobEntry) (y : Nat × Nat × LMask) : Bool :=
  expectedOf xs (y.1, y.2.1) = some e.pc &&
    ((group? s y.1).any (fun g => g.status ≠ .swapped && !g.ended &&
      (g.slices[y.2.1]?).any (fun x => (levelOf x).running = y.2.2 && (g.status = .run || x.stepping))))

/-- The slices of a buffer's entries that are no longer on the entry's path (R55, R66), walked from the oldest entry. -/
def staleSlices (s : State) : Expected → List RobEntry → List (Nat × Nat × Nat)
  | _, [] => []
  | xs, e :: es =>
    let gone := e.slices.filter (fun y => !stillAt s xs e y)
    let xs' := xs.map (fun x =>
      if e.slices.any (fun y => (y.1, y.2.1) = x.1) then (x.1, if gone.any (fun y => (y.1, y.2.1) = x.1) then none else addrAfter e) else x)
    gone.map (fun y => (e.stamp, y.1, y.2.1)) ++ staleSlices s xs' es

/-- The entries of a wave that have left their slices' path are squashed. -/
def pruneRob (s : State) (k : Nat) : State :=
  match slot? s k with
  | none => s
  | some x =>
    let xs : Expected := (slotSliceList s k).map (fun e => ((e.1, e.2.1), some (levelOf e.2.2).pc))
    let gone := staleSlices s xs x.rob
    if gone.isEmpty then s
    else modSlot s k (fun x =>
      let rob := x.rob.map (fun e => { e with slices := e.slices.filter (fun y => !gone.contains (e.stamp, y.1, y.2.1)) })
      ((rob.filter (fun e => e.slices.isEmpty)).reverse).foldl (fun x e => squashEntry x e.stamp) { x with rob := rob })

/-- The address at which a gang renames next: after its youngest entry, or where its slices are. -/
def namePc (s : State) (k gang : Nat) : Option Addr :=
  match gangSlices s k gang, slot? s k with
  | e :: _, some x =>
    match (x.rob.filter (fun r => r.slices.any (fun y => (y.1, y.2.1) = e))).getLast? with
    | some r => addrAfter r
    | none => some (focusPc s (.wave k gang))
  | _, _ => none

/-- Whether a gang may issue: a pixel group waits while the owner team of its tile is saved or migrating (R300). -/
def gangMay (s : State) (k gang : Nat) : Bool := (gangSlices s k gang).all (fun e => !ownerAway s e.1)

/-- A gang renames its next instruction. An address whose fetch gives a cause takes an entry only when the slices are there. -/
def renameGang (s : State) (k gang : Nat) : Option State :=
  if !gangMay s k gang then none
  else match namePc s k gang, gangSlices s k gang with
  | some pc, e :: _ =>
    let i := match fetchAt s (.wave e.1 (4 * e.2)) pc with | .instr i => some i | _ => none
    if i.isNone && pc ≠ focusPc s (.wave k gang) then none
    else (renameInstr s k (gangMasks s k gang) pc i).map (fun s => modSlot s k (fun x => { x with lastNamed := gang }))
  | _, _ => none

/-- Gangs of a wave that may issue, in the cyclic order after a slice number (R434). -/
def gangsAfter (s : State) (k last : Nat) : List Nat := rotateFrom (liveGangs s k) (last + 1)

/-- The first gang of a wave, in cyclic order after the one renamed last, that can rename its next instruction. -/
def renameWave (s : State) (k : Nat) : Option State :=
  (gangsAfter s k (((slot? s k).map (·.lastNamed)).getD 7)).findSome? (fun g => renameGang s k g)

/-- The active waves of a quadrant that may issue. -/
def activeWaves (s : State) (c q : Nat) : List Nat :=
  (s.work.slots.filter (fun e => e.1 < 3072 && slotCore e.1 = c && slotQuad e.1 = q && e.2.active && waveMay s e.1)).map (·.1)

/-- A quadrant renames one gang's instruction, alternating between its active waves when both can (R250). -/
def quadRename (s : State) (c q : Nat) : State :=
  let ks := activeWaves s c q
  let last := 24 * c + 6 * q + (quadOf s c q).lastSlot
  ((ks.filter (· != last) ++ ks.filter (· == last)).findSome? (renameWave s)).getD s

/-- The gang of an entry. -/
def entryGang (s : State) (e : RobEntry) : Nat :=
  match e.slices with
  | y :: _ => ((group? s y.1).bind (·.slices[y.2.1]?)).elim 0 (·.gang)
  | [] => 0

/-- An entry that a quadrant's issue slot may take: its number in the order of renaming, its wave and gang, and whether it stands behind
older entries of its buffer. -/
structure Candidate where
  stamp : Nat
  wave : Nat
  gang : Nat
  ahead : Bool
  deriving DecidableEq, Repr

/-- The candidate that an entry of a wave is. -/
def candidate (s : State) (k : Nat) (ahead : Bool) (e : RobEntry) : Candidate :=
  { stamp := e.stamp, wave := k, gang := entryGang s e, ahead := ahead }

/-- Some candidates, the one renamed earliest first. -/
def byStamp (xs : List Candidate) : List Candidate := (sortNat (xs.map (·.stamp))).filterMap (fun n => xs.find? (fun x => x.stamp = n))

/-- What a quadrant's issue slot tries, in order: the oldest entries of its active waves that have executed, which only retire; then the
oldest entries that have not, and the ready entries behind older ones, the one renamed earliest first (R53, R54, R250). -/
def quadOrder (s : State) (c q : Nat) : List Candidate :=
  let ks := activeWaves s c q
  let rob (k : Nat) : List RobEntry := ((slot? s k).map (·.rob)).getD []
  let heads (done : Bool) : List Candidate :=
    ks.filterMap (fun k => match rob k with | e :: _ => if e.executed = done then some (candidate s k false e) else none | [] => none)
  byStamp (heads true) ++ byStamp (heads false ++ ks.flatMap (fun k => (readyBehind s [] (rob k)).map (candidate s k true)))

/-- An entry behind older ones executes: its results are delivered when it retires (R54, log entry 7). -/
def executeAhead (s : State) (k stamp : Nat) : State :=
  let c := slotCore k
  let s := modSlot s k (fun x => { x with rob := x.rob.map (fun e => if e.stamp = stamp then { e with executed := true } else e) })
  modQuad s c (slotQuad k) (fun x => { x with issuedAt := (coreOf s c).clk })

/-- Whether the instruction of some slices is still to retire: they wait for the slate, at YIELD, SLEEP or a lease request. -/
def heldBack (s : State) (es : List (Nat × Nat)) : Bool :=
  es.any (fun e => ((group? s e.1).bind (·.slices[e.2]?)).any (fun x => waitHolds x.wait))

/-- Whether a gang's attempt was an issue: its wave has retired an instruction, a slice of it has changed, a wait for the slate apart, or
a group of it is swapped out. -/
def gangIssued (s t : State) (k gang : Nat) : Bool :=
  ((slot? s k).map (·.retired)) ≠ ((slot? t k).map (·.retired)) ||
    (gangSlices s k gang).any (fun e =>
      match group? s e.1, group? t e.1 with
      | some a, some b =>
        a.status ≠ b.status ||
          (match a.slices[e.2]?, b.slices[e.2]? with
           | some x, some y => x ≠ y && { x with wait := .slate } ≠ y
           | _, _ => true)
      | _, _ => true)

/-- Whether an attempt left the entry to some of its slices: no lane completed, and a slice of the gang is where it was (R159, R216). -/
def leftBehind (s t : State) (k gang : Nat) : Bool :=
  ((slot? s k).map (·.retired)) = ((slot? t k).map (·.retired)) &&
    (gangSlices s k gang).any (fun e => ((group? s e.1).map (·.status)) = ((group? t e.1).map (·.status)) &&
      ((group? s e.1).bind (·.slices[e.2]?)) = ((group? t e.1).bind (·.slices[e.2]?)))

/-- The end of an attempt to issue an entry: an instruction that has retired leaves the buffer, a pending cause is delivered at the boundary
that its slices have reached, and entries that have left their path are squashed. -/
def endIssue (s t : State) (k gang stamp : Nat) : State :=
  let es := gangSlices s k gang
  let t := if gangIssued s t k gang && !heldBack t es && !leftBehind s t k gang then reachBoundary (retireEntry t k stamp) k es else t
  let c := slotCore k
  modQuad (pruneRob t k) c (slotQuad k) (fun x => { x with issuedAt := (coreOf t c).clk })

/-- The first of some candidates that issues; an oldest entry that has to wait leaves what its wait leaves. -/
def tryEntries (s : State) : List Candidate → Host.Outcome State Fault Refusal
  | [] => .next s
  | x :: xs =>
    if !gangMay s x.wave x.gang then tryEntries s xs
    else if x.ahead then .next (executeAhead s x.wave x.stamp)
    else match issueGang s x.wave x.gang with
    | .next t => if gangIssued s t x.wave x.gang then .next (endIssue s t x.wave x.gang x.stamp) else tryEntries { t with focus := s.focus } xs
    | r => r

/-- One clock of a quadrant's issue slot: it renames one instruction, then issues, of the ready entries of its active waves, the one
renamed earliest; an entry retires when it is the oldest of its buffer and has executed (R52 to R54, R250). -/
def quadStep (s : State) (c q : Nat) : Host.Outcome State Fault Refusal :=
  let s := (activeWaves s c q).foldl pruneRob s
  let s := quadRename s c q
  tryEntries s (quadOrder s c q)

/-! ### Turns (R251, R252, R434) -/

/-- Gangs of a wave that have a running set, in the cyclic order after the gang that issued last. -/
def gangOrder (s : State) (k : Nat) : List Nat := gangsAfter s k (((slot? s k).map (·.lastGang)).getD 7)

/-- Whether an instruction is a SLOTW that finds no slot: in rehearsal mode it waits unissued (R252). -/
def slotwStays (s : State) (ls : List LaneId) (i : Instr) : Bool :=
  match i with
  | .slotw free ea _ a =>
    ls.any (fun l => match gather s ls [srcOne 0 a ea] l (srcOne 0 a ea), team? s (laneTeam s l) with
      | .elem (.full v false), some _ =>
        (team? (stashFillAt s (laneTeam s l) (laneSide s l) v.toNat) (laneTeam s l)).any (fun x =>
          ringValid x (laneSide s l) v.toNat && (slotwResult x (laneSide s l) v.toNat free).isNone)
      | _, _ => false)
  | _ => false

/-- Whether a gang's next instruction is a SLOTW that finds no slot. -/
def gangSlotw (s : State) (k gang : Nat) : Bool :=
  (gangInstr s k gang).any (slotwStays s (activeLanes s (.wave k gang)))

/-- Whether a grip context's next instruction is a SLOTW that finds no slot. -/
def gripSlotw (s : State) (t : Nat) : Bool :=
  match fetchAt s (.grip t) (focusPc s (.grip t)) with | .instr i => slotwStays s [.grip t] i | _ => false

/-- The first of some gangs of a wave that issues: in rehearsal mode an instruction is renamed, issues and retires in one turn, and one
that cannot issue takes no entry (R252). -/
def tryGangs (s : State) (k : Nat) : List Nat → Host.Outcome State Fault Refusal
  | [] => .next s
  | g :: gs =>
    if !gangMay s k g || gangSlotw s k g then tryGangs s k gs
    else
    let stamp := (quadOf s (slotCore k) (slotQuad k)).named
    let r := (renameGang s k g).getD s
    match issueGang r k g with
    | .next t => if gangIssued r t k g then .next (reachBoundary (retireEntry t k stamp) k (gangSlices r k g)) else tryGangs s k gs
    | r => r

/-- A wave's turn in rehearsal mode: a sleeping wave passes it (R252). -/
def waveTurn (s : State) (k : Nat) : Host.Outcome State Fault Refusal :=
  match slot? s k with
  | none => .next s
  | some x =>
    if 0 < x.sleepTurns then
      let s := modSlot s k (fun x => { x with sleepTurns := x.sleepTurns - 1 })
      .next ((slotSliceList s k).foldl (fun s e => sleepStep s e.1 e.2.1) s)
    else if waveMay s k then tryGangs s k (gangOrder s k) else .next s

/-- A grip context's turn in rehearsal mode. -/
def gripTurn (s : State) (t : Nat) : Host.Outcome State Fault Refusal :=
  match (team? s t).bind (·.grip) with
  | none => .next s
  | some k =>
    if 0 < k.sleepTurns then
      .next (modTeam s t (fun x => { x with grip := x.grip.map (fun k => { k with sleepTurns := k.sleepTurns - 1, sleepUntil := 0 }) }))
    else if gripMay s t && !gripSlotw s t then issueGrip s t else .next s

/-- The teams of a rehearsal launch that hold, or held, a grip context, in ascending TEAM order; one that has ended keeps its place, so
that the turns of the others stay where they are. -/
def turnGrips (s : State) (lid : Nat) : List Nat :=
  (s.work.teams.filter (fun e => e.2.launch = lid && e.2.grip.isSome)).map (·.1)

/-- What keeps a context from its turn in rehearsal mode: nothing; an operation of it that waits for a slot of a ring, while which the turns of
the others go on; or an instruction that is still to complete (R252, log entry 92). -/
inductive TurnHold where
  | free
  | ring
  | busy
  deriving DecidableEq, Repr

/-- Whether a core's head copy waits for a slot of its ring (R201). -/
def copyAwaitsSlot (s : State) (k : Core) : Bool :=
  match k.copies with
  | o :: _ => o.dest.isNone && (team? s o.team).any (fun t => copyStart t o.cmd = .wait)
  | [] => false

/-- Whether a slice of a wave waits for the decision of its LEASE.req: the rotation waits for the tick (R389). -/
def awaitsLease (s : State) (k : Nat) : Bool := (slotSliceList s k).any (fun e => match e.2.2.wait with | .lease _ _ _ => true | _ => false)

/-- What keeps a wave from its turn. -/
def waveHold (s : State) (k : Nat) : TurnHold :=
  let gs := (slotGroups s k).map (·.1)
  if groupsBusy s gs || (s.units.parts.any (fun e => e.2.enqs.any (fun o => o.group.any (fun h => gs.contains h.1)))) then .busy
  else if s.units.clusters.any (fun e => e.2.rays.any (fun o => gs.contains o.group)) then .ring
  else .free

/-- What keeps a grip context from its turn. -/
def gripHold (s : State) (t : Nat) : TurnHold :=
  let mine (k : Core) : Bool := k.copies.any (fun o => o.team = t)
  if s.posted.any (fun p => (match p.kind with | .slotw _ _ _ _ => false | _ => true) && p.dests.any (fun d => d.1 = .grip t)) ||
      s.units.parts.any (fun e => e.2.enqs.any (fun o => o.grip = some t)) ||
      s.units.cores.any (fun e => mine e.2 && !copyAwaitsSlot s e.2) then .busy
  else if s.units.cores.any (fun e => mine e.2) then .ring
  else .free

/-- One turn of the rotation of a rehearsal launch on a core (R251). -/
def rehTurn (s : State) (lid c : Nat) : Host.Outcome State Fault Refusal :=
  match launch? s lid with
  | none => .next s
  | some l =>
    let gs := turnGrips s lid
    let k := 24 * c + 6 * (l.rot % 4) + l.rot / 4
    let hold : TurnHold := if l.rot < 24 then waveHold s k else (gs[l.rot - 24]?).elim .free (gripHold s)
    if hold = .busy then .next s
    else
    let s := modLaunch s lid (fun l => { l with rot := if l.rot + 1 < 24 + gs.length then l.rot + 1 else 0 })
    if hold = .ring then .next s
    else if l.rot < 24 then waveTurn s k
    else match gs[l.rot - 24]? with
      | some t => gripTurn s t
      | none => .next s

/-- A rehearsal launch goes on: an instruction that issued completes first, then the next turn is taken (R252). -/
def rehGoOn (s : State) (lid c : Nat) : Host.Outcome State Fault Refusal :=
  match firstChange s (engineSteps s c) with
  | some t => .next t
  | none => if (List.range 24).any (fun n => awaitsLease s (24 * c + n)) then .next s else rehTurn s lid c

/-- The rehearsal launch that keeps the core of a context, if any. -/
def focusReh (s : State) (f : Focus) : Option (Nat × Nat) :=
  match f with
  | .wave k _ => (rehearsedBy s (slotCore k)).map (fun l => (l, slotCore k))
  | .grip t => (team? s t).bind (fun x => (rehearsedBy s x.core).map (fun l => (l, x.core)))
  | _ => none

/-- A context named by the agenda issues, if it may; a wave names its quadrant and a grip context its core's grip, which choose what they
issue (R190, R250), and on a core in rehearsal mode the rotation says who does. -/
def issueStep (s : State) (f : Focus) : Host.Outcome State Fault Refusal :=
  match focusReh s f with
  | some (l, c) => rehGoOn s l c
  | none =>
    match f with
    | .wave k _ => quadStep s (slotCore k) (slotQuad k)
    | .grip t => (match team? s t with | some x => gripStep s x.core | none => .next s)
    | .mgmt n => if mgmtMay s n then runFocus { s with focus := .mgmt n } else .next s
    | .none => .next s

/-! ### With an empty agenda -/

/-- One who may take a turn. -/
inductive Turn where
  | quad (c q : Nat)
  | grip (c : Nat)
  | mgmt (n : Nat)
  | reh (lid c : Nat)
  deriving DecidableEq, Repr

/-- The clock at which a grip context of a core issued last. -/
def gripClock (s : State) (c : Nat) : Nat :=
  (s.work.teams.filter (fun e => !e.2.ended && e.2.core = c)).foldl (fun m e => max m ((e.2.grip.map (·.readyAt)).getD 0)) 0

/-- Those who may take a turn, each with the clock since which it waits. -/
def turns (s : State) : List (Nat × Turn) :=
  let free (c : Nat) : Bool := (rehearsedBy s c).isNone
  (usedCores s).flatMap (fun c => if free c then ((List.range 4).filter (fun q => !(activeWaves s c q).isEmpty)).map (fun q =>
      ((quadOf s c q).issuedAt, Turn.quad c q)) else []) ++
    ((usedCores s).filter (fun c => free c && !(gripsReady s c).isEmpty)).map (fun c => (gripClock s c, Turn.grip c)) ++
    ((List.range s.units.mgmt.length).filter (mgmtMay s)).map (fun n => (((s.units.mgmt[n]?).map (·.retired)).getD 0, Turn.mgmt n)) ++
    (usedCores s).filterMap (fun c => (rehearsedBy s c).map (fun l => ((coreOf s c).clk, Turn.reh l c)))

/-- Insertion by a key. -/
def insertTurn (x : Nat × Turn) : List (Nat × Turn) → List (Nat × Turn)
  | [] => [x]
  | y :: ys => if x.1 < y.1 then x :: y :: ys else y :: insertTurn x ys

/-- The core whose clock a turn takes. -/
def turnCore (t : Turn) : Nat :=
  match t with
  | .quad c _ => c
  | .grip c => c
  | .mgmt _ => 0
  | .reh _ c => c

/-- A turn taken. -/
def takeTurn (s : State) (t : Turn) : Host.Outcome State Fault Refusal :=
  match t with
  | .quad c q => quadStep s c q
  | .grip c => gripStep s c
  | .mgmt n => runFocus { s with focus := .mgmt n }
  | .reh l c => rehGoOn s l c

/-- The first turn that changes anything besides who issues; a clock of its cluster passes. With none, a clock of every cluster in use
passes. -/
def tryTurns (s : State) : List (Nat × Turn) → Host.Outcome State Fault Refusal
  | [] => .next ((sortNat (0 :: (usedCores s).map (· / 4))).foldl (fun s cl => elapse s (4 * cl) 1) s)
  | x :: xs =>
    match takeTurn s x.2 with
    | .next t => if { t with focus := s.focus } = s then tryTurns s xs else .next (elapse t (turnCore x.2) 1)
    | r => r

/-- What the module does when the agenda names nothing: a step of its own, else the next turn. -/
def autoStep (s : State) : Host.Outcome State Fault Refusal :=
  if s.units.power.opened.isSome then .next (finishTick s)
  else match firstChange s (ownSteps s) with
  | some t => .next t
  | none => tryTurns s ((turns s).foldl (fun acc x => insertTurn x acc) [])

/-- Whether an entry of the agenda is a part of the tick that is open: an expiry or a decision (R316). -/
def tickPart (h : Happening) : Bool :=
  match h with
  | .event (.leaseExpiry _) => true
  | .event (.leaseRequestDecision _) => true
  | _ => false

/-- What happens at an entry of the agenda, with no tick open but for a part of it. -/
def happenNow (s : State) (h : Happening) : Host.Outcome State Fault Refusal :=
  match h with
  | .issue f => issueStep s f
  | .issueLate f =>
    match issueStep { s with deferring := some s.nextTag } f with
    | .next t => .next { t with deferring := none }
    | r => r
  | .perform id => .next (performLate s id)
  | .elapse core clocks => .next (elapse s core clocks)
  | .event i => exec i s

/-- One entry of the agenda: a tick that is open takes its last steps before anything else happens (R316, R327). -/
def happen (s : State) (h : Happening) : Host.Outcome State Fault Refusal :=
  happenNow (if s.units.power.opened.isSome && !tickPart h then finishTick s else s) h

end Sys2Proof.Machine
end

