-- ==== Sys2Proof/Machine/Load.lean ====
section
/-! DEFINITION. How one instruction is placed where the next step fetches it: under the context in `focus` where its counter translates,
and else in a stub that stands for a program loaded from outside: page tables, a launch of one team with one group and a grip context. -/

namespace Sys2Proof.Machine

/-- Where the stub's page tables and its instruction lie. -/
def stubTables : Nat := 0x10000
def stubPc : Nat := 0x2000

/-- Page tables that map the first gigabyte of the address space to itself, readable, writable and executable (R153). -/
def stubPages (m : List Host.Cell) : List Host.Cell :=
  let m := memPuts m stubTables (leBytes 8 (stubTables + 0x1001))
  let m := memPuts m (stubTables + 0x1000) (leBytes 8 (stubTables + 0x2001))
  memPuts m (stubTables + 0x2000) (leBytes 8 0x23D)

/-- The record of the stub's launch: one team of one eight-lane group, with 4,096 bytes of scratchpad and one tile. -/
def stubWords : List Word := [w32 (stubPc - 8), 0, 0, 0, 0, 0, 0, 0x100, 0, 0, 4096, 12288, 0, 0, 0, 0]

/-- What kind of context an instruction needs. -/
inductive StubKind where | compute | grip | mesh | pixel
  deriving DecidableEq, Repr

def stubKind (i : Instr) : StubKind :=
  match i with
  | .cpy _ _ => .grip
  | .qstrm _ _ _ _ _ => .grip
  | .emitv _ _ _ _ => .mesh
  | .emitp _ _ _ _ => .mesh
  | .attr _ _ _ => .pixel
  | .disc _ _ => .pixel
  | .zout _ _ => .pixel
  | .pxout _ _ _ => .pixel
  | _ => .compute

/-- A vertex of the stub's pixel block, in homogeneous clip space, and its attributes. -/
def stubVertex : List Word := [0, 0, 0, 0x3F800000]

/-- The stub group's role in a raster pass. -/
def stubRole (k : StubKind) : Role :=
  match k with
  | .mesh => meshRole
  | .pixel =>
    { view := 0x80000000, exited := 0, mesh := none,
      pix := some { pass := 0, order := 0, owner := 0, i0 := 0, j0 := 0, depths := [], outs := [],
                    geom := { view := 0, clip := [stubVertex, stubVertex, stubVertex], attrs := [[], [], []],
                              fan := [⟨0, 0, 0⟩, ⟨0, 0, 0⟩, ⟨0, 0, 0⟩] } } }
  | _ => computeRole

/-- The stub's units: every function ready, partition 0 with its page tables and core 0, and a running clock. -/
def stubUnits (s : State) : State :=
  let s := { s with units := { s.units with ready := 0x1FFF } }
  let s := setBankReg (setBankReg s 0 0x170 (w32 stubTables)) 0 0x171 0
  let s := modCore s 0 (fun k => { k with tlb := [] })
  let s := { s with units := { s.units with dieTlb := s.units.dieTlb.filter (fun e => e.1 ≠ 0) } }
  setCluster s 0 { clusterOf s 0 with gate := .on }

/-- The stub's launch and team on core 0, in a free slot. -/
def stubTeam (s : State) (k : StubKind) : State :=
  let (lid, s) := freshId s
  let l : Launch :=
    { part := 0, src := .queue 0, slot := 0, desc := none, words := stubWords, exec := BitVec.ofNat 56 stubPc, access := BitVec.ofNat 56 stubPc,
      total := 1, started := 0, ended := 0, killed := false, complete := false, rehCore := none, rot := 0, hold := none }
  let seats := (bindSide s 0 lid 8 1).getD [([0], 0)]
  startTeam { s with work := { s.work with launches := tput s.work.launches lid l } } lid l 0 (0, 0, 0) 0 seats (stubRole k) true

/-- The stub's context: the first gang of its group's slot, made active, or its grip. -/
def stubFocus (s : State) (k : StubKind) : Focus :=
  match s.work.teams.getLast? with
  | none => .none
  | some (t, x) =>
    match k with
    | .grip => .grip t
    | _ => match (x.groups.head?).bind (fun g => group? s g) with
      | some y => .wave (y.seats.headD 0) (((y.slices.head?).map (·.gang)).getD 0)
      | none => .none

/-- A wave slot made active, and the others of its quadrant inactive. -/
def wakeSlot (s : State) (f : Focus) : State :=
  match f with
  | .wave k _ => modSlot ((activeWaves s (slotCore k) (slotQuad k)).foldl leaveActive s) k (fun x => { x with active := true })
  | _ => s

/-- The stub with an instruction's bytes at its counter. -/
def loadStub (s : State) (k : StubKind) (bs : List Byte) : State :=
  let s := stubTeam (stubUnits { s with mem := memPuts (stubPages s.mem) stubPc bs }) k
  wakeSlot { s with focus := stubFocus s k } (stubFocus s k)

/-- Whether a context may issue now. -/
def mayIssue (s : State) (f : Focus) : Bool :=
  (focusReh s f).isNone && !(activeLanes s f).isEmpty &&
    (match f with
     | .wave k g => activeWaves s (slotCore k) (slotQuad k) = [k] && liveGangs s k = [g] && ((slot? s k).map (·.rob)).getD [] = []
     | .grip t => gripMay s t && (((team? s t).bind (·.grip)).bind (·.pend)).isNone
     | .mgmt n => mgmtMay s n
     | .none => false)

/-- The physical addresses of the four bytes that a context fetches next. -/
def fetchPlaces (s : State) (f : Focus) : Option (Nat × Nat) :=
  match activeLanes s f with
  | [] => none
  | l :: _ =>
    let pc := focusPc s f
    match translate s (laneCore s l) (lanePart s l) pc.toNat .x, translate s (laneCore s l) (lanePart s l) (pc + 2).toNat .x with
    | .ok a _, .ok b _ => some (a, b)
    | _, _ => none

/-- Bytes placed under the context in `focus`, or in the stub, and that context first on the agenda. -/
def placeWord (s : State) (k : StubKind) (bs : List Byte) : State :=
  let s' := match mayIssue s s.focus, fetchPlaces s s.focus with
    | true, some (a, b) => { s with mem := memPuts (memPuts s.mem a (bs.take 2)) b (bs.drop 2) }
    | _, _ => loadStub s k bs
  { s' with agenda := [.issue s'.focus] }

/-- The kind of context that the instruction in a table word needs. -/
def wordKind (nbits w : Nat) : StubKind := match decodeTableWord nbits w with | some i => stubKind i | none => .compute

end Sys2Proof.Machine
end

