-- ==== Sys2Proof/Machine/Step.lean ====
section
/-! DEFINITION. One step of the module: the next entry of the agenda, or, when it is empty, what the module does by itself. -/

namespace Sys2Proof.Machine

/-- One step. -/
def step (s : State) : Host.Outcome State Fault Refusal :=
  match s.agenda with
  | h :: rest => happen { s with agenda := rest } h
  | [] => autoStep s

/-- `s` with an instruction stored where the next step fetches, its bits numbered as the opcode table numbers them; the bits above
`nbits` are 0. -/
def State.withFetchWord (s : State) (nbits w : Nat) : State := placeWord s (wordKind nbits w) (tableBytes (w % 2 ^ nbits))

end Sys2Proof.Machine
end

