-- ==== Sys2Proof/Safety.lean ====
section
/-! DEFINITION. What counts as a safe step and a safe run, and the terms in which statements speak of an issue: which lanes issue, when
their operands are at hand, what they wrote, what was left alone, and how far their contexts have moved. -/

namespace Sys2Proof.Machine

/-- An outcome that is a next state. -/
def isNext {σ φ ρ : Type} : Host.Outcome σ φ ρ → Bool
  | .next _ => true
  | _ => false

/-- A step that goes on. -/
def safeStep (s : State) : Bool := isNext (step s)

/-- `k` steps that go on. -/
def safeRun (s : State) (k : Nat) : Bool := isNext (Sys2Proof.core.run k s)

/-! ### An issue -/

/-- Every group, in a wave slot or in an image, has at most 64 lanes (R19). -/
def groupsFit (s : State) : Bool :=
  s.work.groups.all (fun e => e.2.width ≤ 64) && s.work.images.all (fun m => m.groups.all (fun e => e.2.width ≤ 64))

/-- The lanes for which the context in `focus` issues. -/
def issuing (s : State) : List LaneId := activeLanes s s.focus

/-- An instruction of form `f` can execute in every issuing lane: there is one; the instruction is available and legal there (R94,
Table 4-19); and no source is empty, poisoned or a misused queue, nor the destination a queue (Table 16-1). -/
def ready (s : State) (f : Form) : Bool :=
  groupsFit s && !(issuing s).isEmpty &&
    (issuing s).all (fun l => available f l && fieldsLegal s f l && (commonAct s f (issuing s) l).isNone)

/-- The word that the n-th source of form `f` delivers to lane `l`: a register element, or the queue entry that it pops. -/
def operand (s : State) (f : Form) (l : LaneId) (n : Nat) : Word := val (laneVals s f (issuing s) l) n

/-- Two sources that name a pair, as one 64-bit number (R86). -/
def operand2 (s : State) (f : Form) (l : LaneId) (n : Nat) : Nat := pairNat (operand s f l n) (operand s f l (n + 1))

/-- A slice of a group. -/
def slice? (s : State) (g n : Nat) : Option Slice := (group? s g).bind (·.slices[n]?)

/-- A team's grip context. -/
def grip? (s : State) (k : Nat) : Option Grip := (team? s k).bind (·.grip)

/-- What a frame saves at entry (Table 11-1). -/
def Frame.saved (f : Frame) : Nat × Addr × LMask × LMask × LMask × Tab Nat := (f.cause, f.pc, f.lanes, f.tlanes, f.tdone, f.taddr)

/-- Every issuing lane holds its results, full and not poisoned (R57), and every other element of every lane is as before. -/
structure Wrote (s t : State) (ws : LaneId → List (Nat × Word)) : Prop where
  results : ∀ l ∈ issuing s, ∀ w ∈ ws l, laneElem t l w.1 = .full w.2 false
  others : ∀ l r, lidxOf l < 64 → ¬ (l ∈ issuing s ∧ ∃ w ∈ ws l, w.1 = r) → laneElem t l r = laneElem s l r

/-- Whether a lane is of group `g`. -/
def inGroup (g : Nat) : LaneId → Bool
  | .wave h _ => h == g
  | _ => false

/-- The flags of the issuing lanes are set in their groups' FSTAT, and nothing else of any FSTAT changes (R118). -/
def Raised (s t : State) (fl : LaneId → Flags) : Prop :=
  ∀ g x, group? s g = some x → ∃ y, group? t g = some y ∧ ∀ b, b < 32 →
    y.fstat.getLsbD b =
      (x.fstat.getLsbD b || (issuing s).any (fun l => inGroup g l && (fl l).testBit b))

/-- Memory, the caches, the scratchpads, the accesses still to be performed and every control register but FSTAT and the program counters
are left alone. -/
structure Kept (s t : State) : Prop where
  memory : ∀ a, memGet t.mem a = memGet s.mem a
  poison : t.memPoison = s.memPoison
  posted : t.posted = s.posted
  late : t.late = s.late
  banked : ∀ p n, bankReg t p n = bankReg s p n
  system : ∀ n, sysReg t n = sysReg s n
  cores : t.units.cores = s.units.cores
  clusters : t.units.clusters = s.units.clusters
  events : t.units.events = s.units.events
  scratch : ∀ k x, team? s k = some x →
    ∃ y, team? t k = some y ∧ y.scratch = x.scratch ∧ y.bad = x.bad ∧ y.windows = x.windows
  control : ∀ g x, group? s g = some x → ∃ y, group? t g = some y ∧ y.mode = x.mode ∧ y.merr0 = x.merr0 ∧ y.merr1 = x.merr1 ∧
    y.view = x.view ∧ y.exited = x.exited ∧ y.status = x.status ∧ y.ended = x.ended
  frames : ∀ g n x, slice? s g n = some x → ∃ y, slice? t g n = some y ∧ y.frames.map Frame.saved = x.frames.map Frame.saved ∧
    y.halt = x.halt ∧ y.wait = x.wait

/-- Every issuing context has moved `len` bytes on, with the same lanes (R25, R78). -/
structure Advanced (s t : State) (len : Nat) : Prop where
  wave : ∀ g i, .wave g i ∈ issuing s → ∃ x y, slice? s g (i / 4) = some x ∧ slice? t g (i / 4) = some y ∧
    (levelOf y).pc = (levelOf x).pc + BitVec.ofNat 56 len ∧ (levelOf y).pending = (levelOf x).pending ∧
    (levelOf y).parked = (levelOf x).parked ∧ y.frames.length = x.frames.length ∧
    ∀ j, j < 64 → (levelOf y).running.getLsbD j = ((issuing s).contains (.wave g j) && j / 4 == i / 4)
  grip : ∀ k, .grip k ∈ issuing s → ∃ x y, grip? s k = some x ∧ grip? t k = some y ∧ y.pc = x.pc + BitVec.ofNat 56 len ∧
    y.ended = x.ended ∧ y.halt = x.halt
  mgmt : ∀ n, .mgmt n ∈ issuing s → ∃ x y, s.units.mgmt[n]? = some x ∧ t.units.mgmt[n]? = some y ∧
    y.pc = x.pc + BitVec.ofNat 56 len ∧ y.running = x.running

/-- A register instruction has completed: its results and flags, its frame, and its contexts moved on. -/
structure Completed (s t : State) (len : Nat) (ws : LaneId → List (Nat × Word)) (fl : LaneId → Flags) : Prop where
  wrote : Wrote s t ws
  raised : Raised s t fl
  kept : Kept s t
  advanced : Advanced s t len

/-- What the end of an issue does not touch of a group. -/
def Group.body (x : Group) : Group := { x with slices := [], fstat := 0, queues := [], quiet := 0, failed := [] }

/-- `t` is `u` but for what the end of an issue keeps: the slices, FSTAT, queue heads and counts of retired instructions, and the
counters of one-lane contexts. -/
structure Settled (u t : State) : Prop where
  mem : t.mem = u.mem
  poison : t.memPoison = u.memPoison
  posted : t.posted = u.posted
  cores : t.units.cores = u.units.cores
  clusters : t.units.clusters = u.units.clusters
  parts : t.units.parts = u.units.parts
  l2 : t.units.l2 = u.units.l2
  tags : t.units.tags = u.units.tags
  reads : t.units.tagReads = u.units.tagReads
  late : t.late = u.late
  sysRegs : t.units.sysRegs = u.units.sysRegs
  events : t.units.events = u.units.events
  elems : ∀ l r, laneElem t l r = laneElem u l r
  groups : ∀ g, (group? t g).map Group.body = (group? u g).map Group.body
  launches : t.work.launches = u.work.launches
  passes : t.work.passes = u.work.passes
  teams : ∀ k, (team? t k).map (fun x => { x with grip := none }) = (team? u k).map (fun x => { x with grip := none })

/-- The state after the issuing lanes have acted in ascending lane position, each by `f`. -/
def lanesDo (s : State) (f : LaneId → State → State) : State := (issuing s).foldl (fun u l => f l u) s

/-! ### Shapes of statements about results -/

/-- No lane raises a flag. -/
def noFlags : LaneId → Flags := fun _ => 0

/-- One result in each lane. -/
def one (d : Reg) (v : LaneId → Word) : LaneId → List (Nat × Word) := fun l => [(d.toNat, v l)]

/-- A 64-bit result in a pair: bits [31:0] in the even register (R86). -/
def two (d : Reg) (v : LaneId → DWord) : LaneId → List (Nat × Word) :=
  fun l => [(d.toNat, (v l).extractLsb' 0 32), (d.toNat + 1, (v l).extractLsb' 32 32)]

/-- Sources `n` and `n + 1`, the two registers of a pair, as one 64-bit value. -/
def operandWide (s : State) (f : Form) (l : LaneId) (n : Nat) : DWord := operand s f l (n + 1) ++ operand s f l n

/-- In every state in which `i`, of form `f`, is ready, it completes with the results `ws`, without a flag. -/
def Gives (i : Instr) (f : Form) (ws : State → LaneId → List (Nat × Word)) : Prop :=
  ∀ s, ready s f = true → ∃ t, exec i s = .next t ∧ Completed s t f.len (ws s) noFlags

/-- d := g of the first source. -/
def GivesUnary (i : Instr) (f : Form) (d : Reg) (g : Word → Word) : Prop := Gives i f (fun s => one d (fun l => g (operand s f l 0)))

/-- d := g of the first two sources. -/
def GivesBinary (i : Instr) (f : Form) (d : Reg) (g : Word → Word → Word) : Prop :=
  Gives i f (fun s => one d (fun l => g (operand s f l 0) (operand s f l 1)))

/-- d := g of the first three sources. -/
def GivesTernary (i : Instr) (f : Form) (d : Reg) (g : Word → Word → Word → Word) : Prop :=
  Gives i f (fun s => one d (fun l => g (operand s f l 0) (operand s f l 1) (operand s f l 2)))

/-- In every state in which `i` is ready, it completes with one result in each issuing lane, for which `P` holds. -/
def Meets (i : Instr) (f : Form) (d : Reg) (P : State → LaneId → Word → Prop) : Prop :=
  ∀ s, ready s f = true → ∃ t r, exec i s = .next t ∧ Completed s t f.len (one d r) noFlags ∧ ∀ l ∈ issuing s, P s l (r l)

/-- In every state in which `i` is ready and in which no issuing lane raises a flag that its MODE enables, it completes with the
result and the flags `r` in each issuing lane. -/
def GivesFloat (i : Instr) (f : Form) (d : Reg) (r : State → LaneId → Word × Flags) : Prop :=
  ∀ s, ready s f = true → (∀ l ∈ issuing s, enabledFlags (laneMode s l) (r s l).2 = 0) →
    ∃ t, exec i s = .next t ∧ Completed s t f.len (one d (fun l => (r s l).1)) (fun l => (r s l).2)

/-- A floating-point result of MODE and the first source. -/
def GivesFloat1 (i : Instr) (f : Form) (d : Reg) (g : Word → Word → Word × Flags) : Prop :=
  GivesFloat i f d (fun s l => g (laneMode s l) (operand s f l 0))

/-- A floating-point result of MODE and the first two sources. -/
def GivesFloat2 (i : Instr) (f : Form) (d : Reg) (g : Word → Word → Word → Word × Flags) : Prop :=
  GivesFloat i f d (fun s l => g (laneMode s l) (operand s f l 0) (operand s f l 1))

/-- A floating-point result of MODE and the first three sources. -/
def GivesFloat3 (i : Instr) (f : Form) (d : Reg) (g : Word → Word → Word → Word → Word × Flags) : Prop :=
  GivesFloat i f d (fun s l => g (laneMode s l) (operand s f l 0) (operand s f l 1) (operand s f l 2))

/-- The issuing lanes of the group of `l`, each with its lane number and first source (R35). -/
def sharers (s : State) (f : Form) (l : LaneId) : List (Nat × Word) :=
  ((issuing s).filter (sameGroup l)).map (fun m => (lidxOf m, operand s f m 0))

/-- The exact value of a finite number; 0 for the others. -/
def numVal (x : Num) : ℚ :=
  match x with | .fin n a b => (if n then -1 else 1) * (a : ℚ) / b | _ => 0

/-- A finite number. -/
def isFin (x : Num) : Bool := match x with | .fin _ _ d => d ≠ 0 | _ => false

/-! ### Shapes of statements about control -/

/-- The issuing lanes of slice `n` of group `g` for which `p` holds. -/
def issuingIn (s : State) (g n : Nat) (p : LaneId → Bool) : LMask :=
  maskOf (((issuing s).filter (fun l => p l && (match l with | .wave h i => h == g && i / 4 == n | _ => false))).map lidxOf)

/-- The state in which a quadrant's issue slot chooses: entries that have left their slices' path are squashed, and one instruction is
renamed (R52, R55, R250). -/
def renamed (s : State) (c q : Nat) : State := quadRename ((activeWaves s c q).foldl pruneRob s) c q

/-- The agenda's next entry names a wave outside rehearsal mode, no power tick is open, and the entry that its quadrant's issue slot tries
first is an oldest one, with the number `stamp`, of `gang` of wave `k`; it issues in the state `u`, and `xs` are tried after it (R53, R250). -/
def Chosen (s u : State) (stamp k gang : Nat) (xs : List Candidate) : Prop :=
  ∃ k₀ g₀ rest, s.agenda = .issue (.wave k₀ g₀) :: rest ∧ s.units.power.opened = none ∧ focusReh { s with agenda := rest } (.wave k₀ g₀) = none ∧
    let v := renamed { s with agenda := rest } (slotCore k₀) (slotQuad k₀)
    quadOrder v (slotCore k₀) (slotQuad k₀) = { stamp := stamp, wave := k, gang := gang, ahead := false } :: xs ∧
      gangMay v k gang = true ∧ u = { v with focus := .wave k gang }

/-- The agenda's next entry names a grip context outside rehearsal mode, no power tick is open, and context `k` is the oldest that may issue
on the named context's core, with no cause of a copy to take; it issues in the state `u`, and `ks` are tried after it (R190). -/
def GripChosen (s u : State) (k : Nat) (ks : List Nat) : Prop :=
  ∃ k₀ x rest, s.agenda = .issue (.grip k₀) :: rest ∧ s.units.power.opened = none ∧ focusReh { s with agenda := rest } (.grip k₀) = none ∧
    team? s k₀ = some x ∧ gripsReady { s with agenda := rest } x.core = k :: ks ∧ ((grip? s k).bind (·.pend)) = none ∧
      u = { s with agenda := rest, focus := .grip k }

/-- Slice `n` of group `g` issues. -/
def sliceIssues (s : State) (g n : Nat) : Prop := ∃ i, .wave g i ∈ issuing s ∧ i / 4 = n

/-- No register, no flag, no byte and no control register but the program counters has changed. -/
structure Untouched (s t : State) : Prop where
  wrote : Wrote s t (fun _ => [])
  raised : Raised s t noFlags
  kept : Kept s t

/-- The levels of issuing slices after a branch with target `q` that the lanes `p` take (R25), and the counters of one-lane contexts. -/
structure Branched (s t : State) (p : LaneId → Bool) (q : Addr) : Prop where
  wave : ∀ g n x, sliceIssues s g n → slice? s g n = some x →
    let take := issuingIn s g n p
    let stay := issuingIn s g n (fun l => !p l)
    let v := levelOf x
    (slice? t g n).map levelOf = some
      (if stay = 0 then { v with pc := q, running := take }
       else if take = 0 then { v with pc := v.pc + 4, running := stay }
       else { v with pc := q, running := take, pending := addPending v.pending (v.pc + 4) stay })
  grip : ∀ k, .grip k ∈ issuing s → (grip? t k).map (·.pc) = (grip? s k).map (fun x => if p (.grip k) then q else x.pc + 4)
  mgmt : ∀ n, .mgmt n ∈ issuing s → (t.units.mgmt[n]?).map (·.pc) = (s.units.mgmt[n]?).map (fun x => if p (.mgmt n) then q else x.pc + 4)

/-- The lanes after a branch in which lane `l` goes to `q l` (R33): within a slice the lanes with the target of the lowest lane run there,
and every other lane is in a pending entry at its own target. -/
structure Scattered (s t : State) (q : LaneId → Addr) : Prop where
  runs : ∀ g i, .wave g i ∈ issuing s → (∀ j, .wave g j ∈ issuing s → j / 4 = i / 4 → i ≤ j) →
    ∃ y, slice? t g (i / 4) = some y ∧ (levelOf y).pc = q (.wave g i) ∧
      ∀ j, .wave g j ∈ issuing s → j / 4 = i / 4 →
        (q (.wave g j) = q (.wave g i) → (levelOf y).running.getLsbD j = true) ∧
        (q (.wave g j) ≠ q (.wave g i) → (levelOf y).running.getLsbD j = false ∧
          ∃ e ∈ (levelOf y).pending, e.pc = q (.wave g j) ∧ e.lanes.getLsbD j = true)
  grip : ∀ k, .grip k ∈ issuing s → (grip? t k).map (·.pc) = some (q (.grip k))
  mgmt : ∀ n, .mgmt n ∈ issuing s → (t.units.mgmt[n]?).map (·.pc) = some (q (.mgmt n))

/-! ### Shapes of statements about exceptions -/

/-- Slices of group `g` that issue. -/
def slicesIssuing (s : State) (g : Nat) : Nat :=
  ((List.range 16).filter (fun n => issuingIn s g n (fun _ => true) ≠ 0)).length

/-- Every issuing slice can take cause `c` with a frame: no debug mask names it, the vector is not 0, and frames are free (R257, R258,
R269). -/
def trapsFit (s : State) (c : Nat) : Prop :=
  ∀ g n x, sliceIssues s g n → group? s g = some x →
    (bankReg s (teamPart s x.team) 0x1E7).getLsbD c = false ∧ tvec s (teamPart s x.team) ≠ 0 ∧ framesUsed x n + slicesIssuing s g ≤ 4

/-- Every issuing slice has entered the handler with cause `c` in those of its issuing lanes that `p` names and with TADDR `ta`; the
others have completed (R66, R257, R258). Its divergence below the new frame is as before, and the flags are `fl`. -/
structure TrappedIn (s t : State) (c : Nat) (p : LaneId → Bool) (ta : LaneId → Nat) (fl : LaneId → Flags) : Prop where
  frame : ∀ g n x y, sliceIssues s g n → issuingIn s g n p ≠ 0 → slice? s g n = some x → group? s g = some y →
    ∃ z f, slice? t g n = some z ∧ z.frames = f :: x.frames ∧ z.prog = x.prog ∧ f.cause = c ∧ f.pc = (levelOf x).pc ∧
      f.lanes = (levelOf x).running ∧ f.tlanes = issuingIn s g n p ∧ f.tdone = issuingIn s g n (fun l => !p l) ∧ f.hregs = [] ∧
      f.level = { pc := tvec s (teamPart s y.team), running := (levelOf x).running, pending := [], parked := [] } ∧
      ∀ i, .wave g i ∈ issuing s → i / 4 = n → p (.wave g i) = true → tget? f.taddr i = some (ta (.wave g i))
  mem : t.mem = s.mem
  flags : Raised s t fl

/-- Every issuing slice has entered the handler with cause `c` in all its issuing lanes, and no register or flag has changed. -/
structure Trapped (s t : State) (c : Nat) (ta : LaneId → Nat) : Prop where
  entry : TrappedIn s t c (fun _ => true) ta noFlags
  regs : ∀ l r, r < 56 → laneElem t l r = laneElem s l r

/-- A grip context has stopped at its instruction with a cause (R191); its halt record says whether the stop is a debugger's (R269). -/
def GripStopped (s t : State) (k c d : Nat) : Prop :=
  (grip? t k).map (fun y => (y.pc, y.stopped, y.halt)) =
    (grip? s k).map (fun x => (x.pc, true, some (c, d, decide (c < 32) && (bankReg s (teamPart s k) 0x1E7).getLsbD c)))

/-! ### Shapes of statements about memory -/

/-- The lanes have acted one after another, each by `f`, and the issue has ended with the counters moved on. -/
structure Ran (s t : State) (len : Nat) (f : LaneId → State → State) : Prop where
  acted : Settled (lanesDo s f) t
  advanced : Advanced s t len

/-- Nothing stands between the accesses of a step and memory: no access is left to be performed later, no releaser tag and no stash window
asks for a writeback, and no home holds bytes of its own. -/
structure OneView (s : State) : Prop where
  wf : Memory.wf s.mem = true
  late : s.late = []
  tags : s.units.tags = []
  homes : ∀ x ∈ s.units.l2, x.own = []
  windows : ∀ k x, team? s k = some x → x.windows = []
  lists : ∀ e ∈ s.work.teams, e.2.windows = []

/-- Memory is in canonical form and no cache is ahead of it: no releaser tag, no stash window, no home with bytes of its own, and each L1
sector clean and equal to memory; no access of an issuing lane is left to be performed later, and none waits for a SLOTW. -/
structure Calm (s : State) : Prop where
  wf : Memory.wf s.mem = true
  late : s.late = []
  now : s.deferring = none
  rings : ∀ l ∈ issuing s, awaitsRing s l = false
  homes : ∀ x ∈ s.units.l2, x.own = []
  tags : s.units.tags = []
  windows : ∀ k x, team? s k = some x → x.windows = []
  lists : ∀ e ∈ s.work.teams, e.2.windows = []
  sectors : ∀ c, ∀ x ∈ (coreOf s c).l1, x.pa % 128 = 0 ∧ x.dirty = 0 ∧ x.data = readMem s x.pa 128

/-- A core's TLB or its die's answers accesses `as` to `n` bytes at `va`, which lie at `pa`. -/
def Mapped (s : State) (core p va n pa : Nat) (as : List Acc) : Prop :=
  ∀ i, i < n → ∀ a ∈ as, ∃ e, tlbHit s core p (va + i) a = some e ∧ reach s (va + i) e = .ok (pa + i) e.g

/-- The same for a lane's access to one address. -/
def Hits (s : State) (l : LaneId) (va : Nat) (a : Acc) (pa : Nat) : Prop :=
  ∃ e, tlbHit s (laneCore s l) (lanePart s l) va a = some e ∧ reach s va e = .ok pa e.g

/-- The same, with the G bit of the page. -/
def HitsAt (s : State) (l : LaneId) (va : Nat) (a : Acc) (pa : Nat) (g : Bool) : Prop :=
  ∃ e, tlbHit s (laneCore s l) (lanePart s l) va a = some e ∧ reach s va e = .ok pa e.g ∧ e.g = g

/-- The home that a lane's access to a line uses (R147). -/
def laneHome (s : State) (l : LaneId) (g : Bool) (pa : Nat) : Nat := homeSlice s (lanePart s l) g (pa / 256)

/-- The issuing lanes' accesses to one line use one home, and the L2 and their L1s hold the line for that home only: its homes, which the
device does not keep coherent (R147), have nothing to disagree about. -/
structure OneHome (s : State) (pa : LaneId → Nat) (g : LaneId → Bool) : Prop where
  lanes : ∀ l ∈ issuing s, ∀ m ∈ issuing s, pa l / 256 = pa m / 256 → laneHome s l (g l) (pa l) = laneHome s m (g m) (pa m)
  l2 : ∀ l ∈ issuing s, ∀ x ∈ s.units.l2, x.line = pa l / 256 → x.slice = laneHome s l (g l) (pa l)
  l1 : ∀ l ∈ issuing s, ∀ x ∈ (coreOf s (laneCore s l)).l1, x.pa / 256 = pa l / 256 →
    homeSlice s x.part x.g (x.pa / 256) = laneHome s l (g l) (pa l)

/-- The bytes of a physical range have one home for a partition, whatever the G bit of their page, and the L2 holds their lines for that home
only (R147). -/
def OneHomeSpan (s : State) (p pa n : Nat) : Prop :=
  ∀ b, pa ≤ b → b < pa + n → (∀ g, homeSlice s p g (b / 256) = homeSlice s p true (b / 256)) ∧
    ∀ x ∈ s.units.l2, x.line = b / 256 → x.slice = homeSlice s p true (b / 256)

/-- Byte `k` of the number that some words hold, the first word lowest (R4). -/
def wordsByte (w : Nat → Word) (k : Nat) : Byte := (w (k / 4)).extractLsb' (8 * (k % 4)) 8

/-- The offset `e` of a lane names `n` bytes at `off` on a side of its team `k` (R135). -/
def ScratchAt (s : State) (l : LaneId) (e n k : Nat) (x : Team) (side off : Nat) : Prop :=
  (∀ m, l ≠ .mgmt m) ∧ k = laneTeam s l ∧ team? s k = some x ∧ off % n = 0 ∧ off + n ≤ x.scr ∧ x.scr ≤ 786432 ∧
    ((e.testBit 23 = false ∧ off = e ∧ side = laneSide s l) ∨
      (e.testBit 23 = true ∧ off + 2 ^ 23 = e ∧ x.pair = true ∧ side = 1 - laneSide s l))

/-- Each issuing lane's data registers await a posted result with the bytes `byte`, all of it poisoned where `bad` says so (R57); nothing
else has changed. -/
structure Loaded (s t : State) (z : Size) (d : Reg) (byte : LaneId → Nat → Byte) (bad : LaneId → Bool) : Prop where
  mem : ∀ a, memGet t.mem a = memGet s.mem a
  posts : ∀ l ∈ issuing s, ∃ p ∈ t.posted, p.kind = .data ∧
    p.dests = (List.range (sizeRegs z)).map (fun k => (l, d.toNat + k,
      w32 (leNat ((List.range (min 4 (sizeBytes z))).map (fun i => byte l (4 * k + i)))), bad l)) ∧
    ∀ k, k < sizeRegs z → laneElem t l (d.toNat + k) = .empty p.id
  others : ∀ l r, lidxOf l < 64 → ¬ (l ∈ issuing s ∧ d.toNat ≤ r ∧ r < d.toNat + sizeRegs z) → laneElem t l r = laneElem s l r

/-- Every lane that issues is of one group, or the one lane of its context. -/
def OneGroup (s : State) : Prop := ∀ l ∈ issuing s, ∀ m ∈ issuing s, sameGroup l m = true

/-- A team's scratchpad is as before but for the bytes that `hit` names. -/
def ScratchKept (s t : State) (hit : Nat → Nat → Nat → Prop) : Prop :=
  ∀ k x, team? s k = some x → ∃ y, team? t k = some y ∧
    ∀ side off, off < 2 ^ 24 → ¬ hit k side off → scratchGet y side off = scratchGet x side off

/-! ### Shapes of statements about device steps -/

/-- The instruction or step answers a next state for which `P` holds. -/
def Yields (i : Instr) (s : State) (P : State → Prop) : Prop := ∃ t, exec i s = .next t ∧ P t

/-- A memory with bytes stored at an address. -/
def memWith (m : Nat → Byte) (pa : Nat) (bs : List Byte) : Nat → Byte :=
  fun a => if pa ≤ a ∧ a < pa + bs.length then bs.getD (a - pa) 0 else m a

/-- Every byte of memory reads as before. -/
def MemKept (s t : State) : Prop := ∀ a, memGet t.mem a = memGet s.mem a

/-- A side of a team's scratchpad holds some bytes. -/
def ScratchIs (t : State) (k side off : Nat) (bs : List Byte) : Prop :=
  ∃ y, team? t k = some y ∧ ∀ i, i < bs.length → scratchGet y side (off + i) = bs.getD i 0

/-- A team that goes on: one of its groups has not ended. -/
def GoesOn (s : State) (x : Team) : Prop := ∃ g ∈ x.groups, ∃ y, group? s g = some y ∧ y.ended = false

/-- Every team of the module has ended or goes on. -/
def TeamsGoOn (s : State) : Prop := ∀ k x, team? s k = some x → x.ended = true ∨ GoesOn s x

/-- No team has a stash window. -/
def NoWindows (s : State) : Prop := ∀ e ∈ s.work.teams, e.2.windows = []

/-- Two ranges of bytes have none in common. -/
def apart (a n b m : Nat) : Prop := a + n ≤ b ∨ b + m ≤ a

/-- The bits of a result register read as `v`: CTXRES of a bank (Table 11-4). -/
def CtxResult (t : State) (p v : Nat) : Prop := bankReg t p 0x19B = BitVec.ofNat 32 v ∧ bankReg t p 0x194 = 0

end Sys2Proof.Machine
end

