-- ==== Sys2Proof/Certificates/Slice0/Obligations.lean ====
section
/-! DEFINITION. The statements for the provers. A statement speaks of every state, of the lanes for which the context in focus issues
(`issuing`), and of the words that its sources deliver (`operand`); the terms stand in Safety.lean. -/

open Sys2Proof Sys2Proof.Machine

/-! ### Integer results -/

/-- R378: IADD, ISUB, IMUL and the high halves of the products, the minima and maxima, and the saturating forms. R343, R395, R403: the
bitwise operations, and the shifts by bits [4:0] of b. -/
def Obligations.IntegerAndLogicResults : Prop :=
  (∀ (ea eb : Bool) (d a b : Reg), let f := regForm true ea eb d a b
     GivesBinary (.iadd ea eb d a b) f d (fun x y => x + y) ∧
     GivesBinary (.isub ea eb d a b) f d (fun x y => x - y) ∧
     GivesBinary (.imul ea eb d a b) f d (fun x y => x * y) ∧
     GivesBinary (.imulh ea eb d a b) f d (fun x y => (x.signExtend 64 * y.signExtend 64).extractLsb' 32 32) ∧
     GivesBinary (.imulhu ea eb d a b) f d (fun x y => (x.zeroExtend 64 * y.zeroExtend 64).extractLsb' 32 32) ∧
     GivesBinary (.imin ea eb d a b) f d (fun x y => if x.toInt ≤ y.toInt then x else y) ∧
     GivesBinary (.imax ea eb d a b) f d (fun x y => if y.toInt ≤ x.toInt then x else y) ∧
     GivesBinary (.iminu ea eb d a b) f d (fun x y => if x.toNat ≤ y.toNat then x else y) ∧
     GivesBinary (.imaxu ea eb d a b) f d (fun x y => if y.toNat ≤ x.toNat then x else y) ∧
     GivesBinary (.iadds ea eb d a b) f d (fun x y => BitVec.ofInt 32 (max (-2 ^ 31) (min (2 ^ 31 - 1) (x.toInt + y.toInt)))) ∧
     GivesBinary (.isubs ea eb d a b) f d (fun x y => BitVec.ofInt 32 (max (-2 ^ 31) (min (2 ^ 31 - 1) (x.toInt - y.toInt))))) ∧
  (∀ (ea eb : Bool) (d a b : Reg), let f := regForm true ea eb d a b
     GivesBinary (.and ea eb d a b) f d (fun x y => x &&& y) ∧
     GivesBinary (.or ea eb d a b) f d (fun x y => x ||| y) ∧
     GivesBinary (.xor ea eb d a b) f d (fun x y => x ^^^ y) ∧
     GivesBinary (.andn ea eb d a b) f d (fun x y => x &&& ~~~y) ∧
     GivesBinary (.shl ea eb d a b) f d (fun x y => BitVec.ofNat 32 (x.toNat * 2 ^ (y.toNat % 32))) ∧
     GivesBinary (.shr ea eb d a b) f d (fun x y => BitVec.ofNat 32 (x.toNat / 2 ^ (y.toNat % 32))) ∧
     GivesBinary (.sar ea eb d a b) f d (fun x y => BitVec.ofInt 32 (x.toInt / 2 ^ (y.toNat % 32))))

/-- R380, R343, R395, R403: the 9-bit immediate is sign-extended; a shift amount is 0 to 31. R391, R377, R351, R392: the instructions
with one source, and the two moves of a 16-bit immediate, of which MOVHI keeps bits [15:0] of its destination. -/
def Obligations.ImmediateAndOneSourceResults : Prop :=
  (∀ (ea : Bool) (d a : Reg) (imm : BitVec 9) (n : BitVec 5), let f := regForm1 true ea d a
     GivesUnary (.iaddi ea d a imm) f d (fun x => BitVec.ofInt 32 (x.toInt + imm.toInt)) ∧
     GivesUnary (.imuli ea d a imm) f d (fun x => BitVec.ofInt 32 (x.toInt * imm.toInt)) ∧
     GivesUnary (.andi ea d a imm) f d (fun x => x &&& BitVec.ofInt 32 imm.toInt) ∧
     GivesUnary (.ori ea d a imm) f d (fun x => x ||| BitVec.ofInt 32 imm.toInt) ∧
     GivesUnary (.xori ea d a imm) f d (fun x => x ^^^ BitVec.ofInt 32 imm.toInt) ∧
     GivesUnary (.shli ea d a n) f d (fun x => BitVec.ofNat 32 (x.toNat * 2 ^ n.toNat)) ∧
     GivesUnary (.shri ea d a n) f d (fun x => BitVec.ofNat 32 (x.toNat / 2 ^ n.toNat)) ∧
     GivesUnary (.sari ea d a n) f d (fun x => BitVec.ofInt 32 (x.toInt / 2 ^ n.toNat))) ∧
  (∀ (ea : Bool) (d a : Reg) (imm : BitVec 16), let f := regForm1 true ea d a
     GivesUnary (.mov ea d a) f d (fun x => x) ∧
     GivesUnary (.not ea d a) f d (fun x => x ^^^ 0xFFFFFFFF) ∧
     GivesUnary (.ineg ea d a) f d (fun x => BitVec.ofInt 32 (-x.toInt)) ∧
     GivesUnary (.iabs ea d a) f d (fun x => BitVec.ofNat 32 x.toInt.natAbs) ∧
     GivesUnary (.popc ea d a) f d (fun x => BitVec.ofNat 32 ((List.range 32).countP (fun k => x.getLsbD k))) ∧
     GivesUnary (.clz ea d a) f d (fun x => BitVec.ofNat 32 (((List.range 32).takeWhile (fun k => !x.getLsbD (31 - k))).length)) ∧
     GivesUnary (.brev ea d a) f d BitVec.reverse ∧
     Gives (.movi d imm) { plainForm true with dst := some d } (fun _ => one d (fun _ => imm.signExtend 32)) ∧
     GivesUnary (.movhi d imm) { plainForm true with dst := some d, srcs := [src 3 d false] } d
       (fun x => BitVec.ofNat 32 (imm.toNat * 65536 + x.toNat % 65536)))

/-- R383, R384, R381, R405: multiply-add, and the 64-bit results in a pair. R382 and Table 4-15: conditions 0 to 5 compare as int32, 6
to 9 as uint32. R404: SEL. R348: with position p = c[4:0] and effective width w = min(c[13:8], 32, 32 - p), bit by bit; BPERM byte
by byte. -/
def Obligations.WideCompareAndFieldResults : Prop :=
  (∀ (ea eb : Bool) (d a b : Reg) (c : Reg5),
     GivesTernary (.imad d a b c) (regForm4 true d a b c) d (fun x y z => x * y + z) ∧
     (evenReg d = true →
       (let f := { regForm4 true d a b c with dst := none, pairs := [d] }
        Gives (.imadwUint d a b c) f (fun s => two d (fun l =>
          (operand s f l 0).zeroExtend 64 * (operand s f l 1).zeroExtend 64 + (operand s f l 2).zeroExtend 64)) ∧
        Gives (.imadwInt d a b c) f (fun s => two d (fun l =>
          (operand s f l 0).signExtend 64 * (operand s f l 1).signExtend 64 + (operand s f l 2).signExtend 64))) ∧
       (let f : Form := { grip := true, srcs := srcPair 0 a ea ++ srcPair 1 b eb, pairs := [d, a, b], dst := none, len := 4 }
        Gives (.iaddw ea eb d a b) f (fun s => two d (fun l => operandWide s f l 0 + operandWide s f l 2)) ∧
        Gives (.isubw ea eb d a b) f (fun s => two d (fun l => operandWide s f l 0 - operandWide s f l 2))) ∧
       (let f : Form := { grip := true, srcs := srcPair 0 a ea ++ [src 1 b eb], pairs := [d, a], dst := none, len := 4 }
        Gives (.shlw ea eb d a b) f (fun s => two d (fun l =>
          BitVec.ofNat 64 ((operandWide s f l 0).toNat * 2 ^ ((operand s f l 2).toNat % 64))))))) ∧
  (∀ (ea eb : Bool) (d a b : Reg) (c : Reg5), let f := regForm true ea eb d a b
     (∀ cond holds, (cond, holds) ∈ ([(.eq, fun x y => x = y), (.ne, fun x y => x ≠ y), (.lt, fun x y => x.toInt < y.toInt),
         (.le, fun x y => x.toInt ≤ y.toInt), (.gt, fun x y => y.toInt < x.toInt), (.ge, fun x y => y.toInt ≤ x.toInt),
         (.ltu, fun x y => x.toNat < y.toNat), (.leu, fun x y => x.toNat ≤ y.toNat), (.gtu, fun x y => y.toNat < x.toNat),
         (.geu, fun x y => y.toNat ≤ x.toNat)] : List (ICond × (Word → Word → Prop))) →
       Meets (.icmp cond ea eb d a b) f d (fun s l r =>
         (holds (operand s f l 0) (operand s f l 1) → r = 0xFFFFFFFF) ∧ (¬ holds (operand s f l 0) (operand s f l 1) → r = 0))) ∧
     GivesTernary (.sel d a b c) (regForm4 true d a b c) d (fun x y z => if z ≠ 0 then x else y)) ∧
  (∀ (d a b : Reg) (c : Reg5),
     let pos (z : Word) : Nat := z.toNat % 32
     let wid (z : Word) : Nat := min (min (z.toNat / 256 % 64) 32) (32 - pos z)
     let f2 : Form := { grip := true, srcs := [src 0 a false, srcC c], pairs := [], dst := some d, len := 4 }
     let f3 := regForm4 true d a b c
     Meets (.bfe d a c) f2 d (fun s l r => ∀ k, k < 32 → r.getLsbD k =
       (0 < wid (operand s f2 l 1) && (operand s f2 l 0).getLsbD (pos (operand s f2 l 1) + min k (wid (operand s f2 l 1) - 1)))) ∧
     Meets (.bfeu d a c) f2 d (fun s l r => ∀ k, k < 32 → r.getLsbD k =
       (decide (k < wid (operand s f2 l 1)) && (operand s f2 l 0).getLsbD (pos (operand s f2 l 1) + k))) ∧
     Meets (.bfi d a b c) f3 d (fun s l r => ∀ k, k < 32 → r.getLsbD k =
       (if pos (operand s f3 l 2) ≤ k ∧ k < pos (operand s f3 l 2) + wid (operand s f3 l 2)
        then (operand s f3 l 0).getLsbD (k - pos (operand s f3 l 2)) else (operand s f3 l 1).getLsbD k)) ∧
     Meets (.bperm d a b c) f3 d (fun s l r => ∀ k, k < 4 → r.extractLsb' (8 * k) 8 =
       (if (operand s f3 l 2).getLsbD (4 * k + 3) then 0
        else (operand s f3 l 1 ++ operand s f3 l 0).extractLsb' (8 * ((operand s f3 l 2).toNat / 2 ^ (4 * k) % 8)) 8)))

/-- R80, R391, R378, R343, R395, R403: a 16-bit instruction computes d := d op s, with s a register or an immediate of 0 to 31; MOV
reads s only. R80 and Table 4-2: the 16-bit floating-point forms. -/
def Obligations.ShortFormResults : Prop :=
  (∀ (k : Bool) (d r : Reg5), let f := halfForm true k d r
     let second (s : State) (l : LaneId) : Word := if k then r.zeroExtend 32 else operand s f l 1
     let Half (i : Instr) (g : Word → Word → Word) : Prop :=
       Gives i f (fun s => one (reg5 d) (fun l => g (operand s f l 0) (second s l)))
     let fm : Form := { f with srcs := if k then [] else [src 1 (reg5 r) false] }
     Gives (.mov16 k d r) fm (fun s => one (reg5 d) (fun l => if k then r.zeroExtend 32 else operand s fm l 0)) ∧
     Half (.iadd16 k d r) (fun x y => x + y) ∧
     Half (.isub16 k d r) (fun x y => x - y) ∧
     Half (.imul16 k d r) (fun x y => x * y) ∧
     Half (.and16 k d r) (fun x y => x &&& y) ∧
     Half (.or16 k d r) (fun x y => x ||| y) ∧
     Half (.xor16 k d r) (fun x y => x ^^^ y) ∧
     Half (.shl16 k d r) (fun x y => BitVec.ofNat 32 (x.toNat * 2 ^ (y.toNat % 32))) ∧
     Half (.shr16 k d r) (fun x y => BitVec.ofNat 32 (x.toNat / 2 ^ (y.toNat % 32))) ∧
     Half (.sar16 k d r) (fun x y => BitVec.ofInt 32 (x.toInt / 2 ^ (y.toNat % 32))) ∧
     Half (.imin16 k d r) (fun x y => if x.toInt ≤ y.toInt then x else y) ∧
     Half (.imax16 k d r) (fun x y => if y.toInt ≤ x.toInt then x else y)) ∧
  (∀ (k : Bool) (d r : Reg5), let f := halfForm false k d r
     let second (s : State) (l : LaneId) : Word :=
       if k then w32 (roundFp fp32 .rne false (.fin false r.toNat 1)).1 else operand s f l 1
     let Half (i : Instr) (g : Word → Word → Word → Word × Flags) : Prop :=
       GivesFloat i f (reg5 d) (fun s l => g (laneMode s l) (operand s f l 0) (second s l))
     Half (.fadd16 k d r) (fun m x y => put32 (modeRm m) m (numAdd (modeRm m) (rd32 m x) (rd32 m y))) ∧
     Half (.fsub16 k d r) (fun m x y => put32 (modeRm m) m (numAdd (modeRm m) (rd32 m x) (numNeg (rd32 m y)))) ∧
     Half (.fmul16 k d r) (fun m x y => put32 (modeRm m) m (numMul (rd32 m x) (rd32 m y))) ∧
     Half (.fmax16 k d r) (fun m x y => minMaxWords m false true x y))

/-! ### Floating-point results -/

/-- The value of a sum and of a product of finite numbers is exact, in any order; so is the fused multiply-add (R8, R364, R371, R373). -/
def Obligations.FloatArithmeticIsExactBeforeRounding : Prop :=
  ∀ (rm : RMode) (x y z : Machine.Num), isFin x = true → isFin y = true → isFin z = true →
    (isFin (numAdd rm x y).1 = true ∧ numVal (numAdd rm x y).1 = numVal x + numVal y) ∧
    (isFin (numMul x y).1 = true ∧ numVal (numMul x y).1 = numVal x * numVal y) ∧
    (isFin (numFma rm x y z).1 = true ∧ numVal (numFma rm x y z).1 = numVal x * numVal y + numVal z)

/-- R114 for FP32, FP16 and BF16: with a result that does not overflow, rne gives a value at least as near as every finite value of
the format; rtz gives the value of greatest magnitude not above the exact one in magnitude; rup the least value not below it; rdn
the greatest value not above it. -/
def Obligations.RoundingChoosesTheNeighbour : Prop :=
  ∀ (f : Fmt), f = fp32 ∨ f = fp16 ∨ f = bf16 → ∀ (neg : Bool) (num den : Nat), den ≠ 0 → ∀ (rm : RMode),
    let x := numVal (.fin neg num den)
    let r := (roundFp f rm false (.fin neg num den)).1
    let v := numVal (decodeFp f r)
    isFin (decodeFp f r) = true → (roundFp f rm false (.fin neg num den)).2 / 4 % 2 = 0 →
    ∀ c, c < 2 ^ fmtWidth f → isFin (decodeFp f c) = true →
      match rm with
      | .rne => |v - x| ≤ |numVal (decodeFp f c) - x|
      | .rtz => |v| ≤ |x| ∧ (|numVal (decodeFp f c)| ≤ |x| → |numVal (decodeFp f c)| ≤ |v|)
      | .rup => x ≤ v ∧ (x ≤ numVal (decodeFp f c) → v ≤ numVal (decodeFp f c))
      | .rdn => v ≤ x ∧ (numVal (decodeFp f c) ≤ x → numVal (decodeFp f c) ≤ v)

/-- R364, R373, R371: FADD, FMUL and FFMA round the exact result once under the instruction's rounding, or MODE[1:0], after the flush
of their operands under MODE[3]; saturation acts after rounding. R80: the 16-bit forms round under MODE[1:0], their immediate
exact. -/
def Obligations.FloatSumAndProductResults : Prop :=
  ∀ (sat negB negA : Bool) (rnd : Rnd) (ea eb : Bool) (d a b : Reg) (c : Reg5), let f := regForm false ea eb d a b
    let clamp (r : Word × Flags) : Word × Flags := (if sat then w32 (saturate fp32 r.1.toNat) else r.1, r.2)
    GivesFloat2 (.fadd sat negB negA rnd ea eb d a b) f d (fun m x y =>
      clamp (put32 (resolveRm rnd m) m (numAdd (resolveRm rnd m) (negIf negA (rd32 m x)) (negIf negB (rd32 m y))))) ∧
    GivesFloat2 (.fmul sat negB negA rnd ea eb d a b) f d (fun m x y =>
      clamp (put32 (resolveRm rnd m) m (numMul (negIf negA (rd32 m x)) (negIf negB (rd32 m y))))) ∧
    GivesFloat3 (.ffma rnd d a b c) (regForm4 false d a b c) d (fun m x y z =>
      put32 (resolveRm rnd m) m (numFma (resolveRm rnd m) (rd32 m x) (rd32 m y) (rd32 m z)))

/-- R372: minimum and maximum of the flushed operands. A number beats NaN unless `nan` asks for NaN, -0 is below +0, equal values give
the first, and a signalling NaN raises invalid. R366 and Table 17-4: the comparison of two values, and the invalid flag. -/
def Obligations.FloatOrderResults : Prop :=
  (∀ (nan ea eb : Bool) (d a b : Reg), let f := regForm false ea eb d a b
     let flush (m x : Word) : Word := w32 (flushCode fp32 (modeFtz m) x.toNat)
     let isnan (x : Word) : Bool := isNan (decodeFp fp32 x.toNat)
     let below (x y : Word) : Bool :=
       numCmp (decodeFp fp32 x.toNat) (decodeFp fp32 y.toNat) = .lt || (x = 0x80000000 && y = 0)
     let pick (greater : Bool) (m p q : Word) : Word × Flags :=
       let x := flush m p
       let y := flush m q
       (if isnan x && isnan y || nan && (isnan x || isnan y) then 0x7FC00000
        else if isnan x then y else if isnan y then x
        else if greater then (if below x y then y else x) else (if below y x then y else x),
        if isSnan (decodeFp fp32 x.toNat) || isSnan (decodeFp fp32 y.toNat) then flInv else 0)
     GivesFloat2 (.fmin nan ea eb d a b) f d (pick false) ∧ GivesFloat2 (.fmax nan ea eb d a b) f d (pick true)) ∧
  (∀ (cond : FCond) (ea eb : Bool) (d a b : Reg),
     GivesFloat2 (.fcmp cond ea eb d a b) (regForm false ea eb d a b) d (fun m p q =>
       let x := rd32 m p
       let y := rd32 m q
       let unordered := isNan x || isNan y
       let signalling := isSnan x || isSnan y
       let o := numCmp x y
       let holds : Bool := match cond with
         | .eq => !unordered && o == .eq | .ne => unordered || o != .eq | .lt => !unordered && o == .lt
         | .le => !unordered && o != .gt | .gt => !unordered && o == .gt | .ge => !unordered && o != .lt
         | .ord => !unordered | .unord => unordered
       let loud : Bool := match cond with | .lt => true | .le => true | .gt => true | .ge => true | _ => false
       (if holds then 0xFFFFFFFF else 0, if signalling || (loud && unordered) then flInv else 0)))

/-- R365 and Table 17-3 on the raw bits; R363; R374; R123, R368 and R90: conversions of one element. -/
def Obligations.FloatUnaryResults : Prop :=
  ∀ (ea : Bool) (rnd : Rnd) (code : Cvt) (el : BitVec 3) (d a : Reg), let f := regForm1 false ea d a
    GivesFloat1 (.fclass ea d a) f d (fun _ x =>
      let e := x.extractLsb' 23 8
      let m := x.extractLsb' 0 23
      let n := x.getLsbD 31
      (BitVec.ofNat 32 (2 ^ (if e = 255 then (if m ≠ 0 then (if x.getLsbD 22 then 9 else 8) else if n then 0 else 7)
        else if e ≠ 0 then (if n then 1 else 6) else if m ≠ 0 then (if n then 2 else 5) else if n then 3 else 4)), 0)) ∧
    GivesFloat1 (.fabs ea d a) f d (fun _ x => (x &&& 0x7FFFFFFF, 0)) ∧
    GivesFloat1 (.fneg ea d a) f d (fun _ x => (x ^^^ 0x80000000, 0)) ∧
    GivesFloat1 (.frnd rnd ea d a) f d (fun m x => roundIntegral (resolveRm rnd m) (rd32 m x)) ∧
    GivesFloat2 (.fcvt code el rnd ea d a) (cvtForm code ea d a) d (fun m x y =>
      let r := resolveRm rnd m
      let w := (cvtPacked code).1
      if (cvtPacked code).2 then
        let z := convert code r m x.toNat
        (BitVec.ofNat 32 (y.toNat % 2 ^ (w * el.toNat) + z.1 % 2 ^ w * 2 ^ (w * el.toNat)
          + y.toNat / 2 ^ (w * el.toNat + w) * 2 ^ (w * el.toNat + w)), z.2)
      else
        let z := convert code r m (x.toNat / 2 ^ (w * el.toNat) % 2 ^ w)
        (BitVec.ofNat 32 z.1, z.2))

/-- R375, R376, R349, R369, R409, R410: packed arithmetic element by element, dot products rounded once, and Sobol points. -/
def Obligations.PackedResults : Prop :=
  ∀ (sat : Bool) (rnd : Rnd) (ea eb : Bool) (kind : DotKind) (f32 : Bool) (d a b : Reg) (c : Reg5),
    let f := regForm false ea eb d a b
    let g := regForm4 false d a b c
    let elem (fmt : Fmt) (m x : Word) (k : Nat) : Machine.Num := readFp fmt (modeFtz m) (x.toNat / 65536 ^ k % 65536)
    let both (h : Nat → Nat × Flags) : Word × Flags := (w32 ((h 0).1 + 65536 * (h 1).1), (h 0).2 ||| (h 1).2)
    let fused (fmt : Fmt) (m x y z : Word) : Word × Flags := both (fun k =>
      let r := resolveRm rnd m
      let v := numFma r (elem fmt m x k) (elem fmt m y k) (elem fmt m z k)
      let e := roundFp fmt r (modeFtz m) v.1
      (e.1, v.2 ||| e.2))
    let arith (op : RMode → Machine.Num → Machine.Num → Machine.Num × Flags) (m x y : Word) : Word × Flags := both (fun k =>
      let r := resolveRm rnd m
      let v := op r (elem fp16 m x k) (elem fp16 m y k)
      let e := roundFp fp16 r (modeFtz m) v.1
      (if sat then saturate fp16 e.1 else e.1, v.2 ||| e.2))
    GivesFloat2 (.hpadd sat rnd ea eb d a b) f d (arith numAdd) ∧
    GivesFloat2 (.hpmul sat rnd ea eb d a b) f d (arith (fun _ => numMul)) ∧
    GivesFloat2 (.hpmin ea eb d a b) f d (fun m x y => both (fun k =>
      minMax fp16 (modeFtz m) false false (x.toNat / 65536 ^ k % 65536) (y.toNat / 65536 ^ k % 65536))) ∧
    GivesFloat2 (.hpmax ea eb d a b) f d (fun m x y => both (fun k =>
      minMax fp16 (modeFtz m) false true (x.toNat / 65536 ^ k % 65536) (y.toNat / 65536 ^ k % 65536))) ∧
    GivesFloat3 (.hpfma rnd d a b c) g d (fused fp16) ∧
    GivesFloat3 (.bpfma rnd d a b c) g d (fused bf16) ∧
    GivesFloat3 (.fdot kind d a b c) g d (fun m x y z => dotWords kind m x y z) ∧
    GivesFloat3 (.sobol f32 d a b c) g d (fun _ key index dim =>
      let r := sobolPoint (dim.toNat % 4) index ^^^ sobolScramble key dim
      (if f32 then w32 (roundFp fp32 .rne false (.fin false (r.toNat / 256) (2 ^ 24))).1 else r, 0))

/-- R56, R133, R367, Table 3-1: while no enable bit of MODE is set, a special function retires with its destination empty and its
result, flags included, posted. With an enable bit set it retires with its result. A result that Table 5-7 only bounds is the
part's own when it lies within the bound (Config.sfuResult, log entry 13). R133 and Table 5-7: exact cases and special values of
the special functions. -/
def Obligations.SpecialFunctionResults : Prop :=
  (∀ (ea : Bool) (d a : Reg), let f := regForm1 false ea d a
     ∀ i g, (i, g) ∈ ([(.frcp ea d a, fun m x => sfuRcp (modeFtz m) x), (.frsq ea d a, fun m x => sfuRsq (modeFtz m) x),
         (.fsqrt ea d a, fun m x => sfuSqrt (modeRm m) (modeFtz m) x), (.fexp2 ea d a, fun m x => sfuExp2 (modeFtz m) x),
         (.flog2 ea d a, fun m x => sfuLog2 (modeFtz m) x), (.fsin ea d a, fun m x => sfuTrig false (modeFtz m) x),
         (.fcos ea d a, fun m x => sfuTrig true (modeFtz m) x)] : List (Instr × (Word → Word → Word × Flags))) →
       ∀ s, ready s f = true →
         ((∀ l ∈ issuing s, (laneMode s l).toNat / 16 % 32 = 0) →
           ∃ t, exec i s = .next t ∧ Advanced s t 4 ∧ t.mem = s.mem ∧
             (∀ l ∈ issuing s, let r := g (laneMode s l) (operand s f l 0)
               ∃ p ∈ t.posted, laneElem t l d.toNat = .empty p.id ∧ p.dests = [(l, d.toNat, r.1, false)] ∧
                 (∃ h, inGroup h l = true ∧ p.kind = .special h r.2)) ∧
             (∀ l r, lidxOf l < 64 → ¬ (l ∈ issuing s ∧ r = d.toNat) → laneElem t l r = laneElem s l r)) ∧
         ((∀ l ∈ issuing s, (laneMode s l).toNat / 16 % 32 ≠ 0) →
           (∀ l ∈ issuing s, enabledFlags (laneMode s l) (g (laneMode s l) (operand s f l 0)).2 = 0) →
           ∃ t, exec i s = .next t ∧ Completed s t 4 (one d (fun l => (g (laneMode s l) (operand s f l 0)).1))
             (fun l => (g (laneMode s l) (operand s f l 0)).2))) ∧
  (∀ (ftz : Bool),
     sfuRcp ftz 0x00000000 = (0x7F800000, flDz) ∧ sfuRcp ftz 0x80000000 = (0xFF800000, flDz) ∧
     sfuRcp ftz 0x7F800000 = (0x00000000, 0) ∧ sfuRcp ftz 0xFF800000 = (0x80000000, 0) ∧
     sfuRsq ftz 0x00000000 = (0x7F800000, flDz) ∧ sfuRsq ftz 0x80000000 = (0xFF800000, flDz) ∧
     sfuRsq ftz 0xBF800000 = (0x7FC00000, flInv) ∧ sfuRsq ftz 0x7F800000 = (0, 0) ∧ sfuRsq ftz 0x40800000 = (0x3F000000, 0) ∧
     (∀ rm, sfuSqrt rm ftz 0x80000000 = (0x80000000, 0) ∧ sfuSqrt rm ftz 0xBF800000 = (0x7FC00000, flInv) ∧
       sfuSqrt rm ftz 0x7F800000 = (0x7F800000, 0)) ∧
     sfuExp2 ftz 0x40400000 = (0x41000000, 0) ∧ sfuExp2 ftz 0xC3160000 = (0, flUnf + flInx) ∧
     sfuExp2 ftz 0x43000000 = (0x7F800000, flOvf + flInx) ∧ sfuExp2 ftz 0xFF800000 = (0, 0) ∧
     sfuLog2 ftz 0x3F800000 = (0, 0) ∧ sfuLog2 ftz 0x00000000 = (0xFF800000, flDz) ∧ sfuLog2 ftz 0x80000000 = (0xFF800000, flDz) ∧
     sfuLog2 ftz 0xBF800000 = (0x7FC00000, flInv) ∧ sfuLog2 ftz 0x41000000 = (0x40400000, 0) ∧
     sfuTrig false ftz 0x00000000 = (0, 0) ∧ sfuTrig false ftz 0x80000000 = (0x80000000, 0) ∧
     sfuTrig true ftz 0x00000000 = (0x3F800000, 0) ∧ sfuTrig false ftz 0x7F800000 = (0x7FC00000, flInv) ∧
     (sfuExp2 true 0xC3000000 = (0, flUnf + flInx) ∧ sfuExp2 false 0xC3000000 = (0x00200000, 0)))

/-! ### Cross-lane results -/

/-- R423 and R35: VOTE combines the issuing lanes of the lane's group. R425 and R35: the integer reductions and scans over the issuing
lanes of the lane's group, and the floating-point sum, exact and rounded once, minimum and maximum. -/
def Obligations.VoteAndReductionResults : Prop :=
  (∀ (ea : Bool) (d a : Reg), let f := regForm1 false ea d a
     Meets (.vote .bal ea d a) f d (fun s l r => ∀ k, k < 32 → (r.getLsbD k = true ↔ ∃ p ∈ sharers s f l, p.1 % 32 = k ∧ p.2 ≠ 0)) ∧
     Meets (.vote .balh ea d a) f d (fun s l r =>
       ∀ k, k < 32 → (r.getLsbD k = true ↔ ∃ p ∈ sharers s f l, p.1 % 32 = k ∧ p.2.getLsbD 31 = true)) ∧
     Meets (.vote .any ea d a) f d (fun s l r => r = if ∃ p ∈ sharers s f l, p.2 ≠ 0 then 0xFFFFFFFF else 0) ∧
     Meets (.vote .all ea d a) f d (fun s l r => r = if ∀ p ∈ sharers s f l, p.2 ≠ 0 then 0xFFFFFFFF else 0) ∧
     Meets (.vote .first ea d a) f d (fun s l r =>
       ((∀ p ∈ sharers s f l, p.2 = 0) → r = 0xFFFFFFFF) ∧
       ∀ p ∈ sharers s f l, p.2 ≠ 0 → (∀ q ∈ sharers s f l, q.2 ≠ 0 → p.1 ≤ q.1) → r = BitVec.ofNat 32 p.1)) ∧
  (∀ (scan ea : Bool) (d a : Reg), let f := regForm1 false ea d a
     let part (s : State) (l : LaneId) : List Word :=
       ((sharers s f l).filter (fun p => !scan || p.1 ≤ lidxOf l)).map (·.2)
     Meets (.xred .iadd scan ea d a) f d (fun s l r => r.toNat = ((part s l).map (·.toNat)).sum % 2 ^ 32) ∧
     Meets (.xred .imin scan ea d a) f d (fun s l r => r ∈ part s l ∧ ∀ v ∈ part s l, r.toInt ≤ v.toInt) ∧
     Meets (.xred .imax scan ea d a) f d (fun s l r => r ∈ part s l ∧ ∀ v ∈ part s l, v.toInt ≤ r.toInt) ∧
     Meets (.xred .and scan ea d a) f d (fun s l r => ∀ k, k < 32 → (r.getLsbD k = true ↔ ∀ v ∈ part s l, v.getLsbD k = true)) ∧
     Meets (.xred .or scan ea d a) f d (fun s l r => ∀ k, k < 32 → (r.getLsbD k = true ↔ ∃ v ∈ part s l, v.getLsbD k = true)) ∧
     Meets (.xred .xor scan ea d a) f d (fun s l r =>
       ∀ k, k < 32 → (r.getLsbD k = true ↔ (part s l).countP (fun v => v.getLsbD k) % 2 = 1)) ∧
     GivesFloat (.xred .fadd scan ea d a) f d (fun s l =>
       put32 (modeRm (laneMode s l)) (laneMode s l) (sumTerms (modeRm (laneMode s l)) ((part s l).map (rd32 (laneMode s l))))) ∧
     GivesFloat (.xred .fmin scan ea d a) f d (fun s l => reduceMinMax false (laneMode s l) (part s l)) ∧
     GivesFloat (.xred .fmax scan ea d a) f d (fun s l => reduceMinMax true (laneMode s l) (part s l)))

/-- R424 and R34: a cross-lane source is taken from the lane that the mode and k name, when it lies in the group and the same wave
slot and issues; otherwise from the reading lane itself. -/
def Obligations.CrossLaneMoves : Prop :=
  ∀ (mode : XMode) (k : BitVec 5) (d a b : Reg),
    let f1 : Form := { grip := false, srcs := [srcX mode k a], pairs := [], dst := some d, len := 4 }
    let f2 : Form := { f1 with srcs := [srcX mode k a, src 1 b false] }
    let named (i : Nat) : Option Nat := match mode with
      | .bc => some k.toNat | .xor => some (i ^^^ k.toNat) | .dn => if k.toNat ≤ i then some (i - k.toNat) else none | .up => some (i + k.toNat)
    GivesUnary (.xmov mode k d a) f1 d (fun x => x) ∧
    GivesBinary (.xiadd mode k d a b) f2 d (fun x y => x + y) ∧
    GivesFloat2 (.xfadd mode k d a b) f2 d (fun m x y => put32 (modeRm m) m (numAdd (modeRm m) (rd32 m x) (rd32 m y))) ∧
    ∀ s g i x, ready s f1 = true → .wave g i ∈ issuing s → group? s g = some x → a.toNat < 56 →
      let valid (j : Nat) : Bool := decide (j < x.width) && laneSeat x j == laneSeat x i && (issuing s).contains (.wave g j)
      let from_ : Nat := match named i with | some j => if valid j then j else i | none => i
      laneElem s (.wave g from_) a.toNat = .full (operand s f1 (.wave g i) 0) false

/-! ### Branches -/

/-- R25, R350, R78: BRA and BRZ part the lanes of each slice; the target is the branch's address plus twice the offset modulo 2^56.
R385, R354, R401: JMP and CALL take every lane to the target; CALL leaves its return address in v54 and v55; RET takes each lane
to the address in its pair, which is below 2^56 and even. -/
def Obligations.BranchesJumpsAndReturns : Prop :=
  (∀ (ea : Bool) (a : Reg) (off : BitVec 18) (s : State), let f := braForm ea a
     ready s f = true →
       let q : Addr := BitVec.ofInt 56 ((focusPc s s.focus).toNat + 2 * off.toInt)
       (∃ t, exec (.bra ea a off) s = .next t ∧ Untouched s t ∧ Branched s t (fun l => operand s f l 0 ≠ 0) q) ∧
       (∃ t, exec (.brz ea a off) s = .next t ∧ Untouched s t ∧ Branched s t (fun l => operand s f l 0 = 0) q)) ∧
  (∀ (off : BitVec 25) (ea : Bool) (a : Reg) (s : State),
     let pc := focusPc s s.focus
     let q : Addr := BitVec.ofInt 56 (pc.toNat + 2 * off.toInt)
     let f : Form := { plainForm true with srcs := srcPair 0 a ea, pairs := [a] }
     (ready s (plainForm true) = true →
       (∃ t, exec (.jmp off) s = .next t ∧ Untouched s t ∧ Branched s t (fun _ => true) q) ∧
       (∃ t, exec (.call off) s = .next t ∧ Kept s t ∧ Raised s t noFlags ∧ Branched s t (fun _ => true) q ∧
         Wrote s t (fun _ => [(54, (pc + 4).extractLsb' 0 32), (55, BitVec.ofNat 32 ((pc + 4).toNat / 2 ^ 32))]))) ∧
     (ready s f = true → (∀ l ∈ issuing s, (operandWide s f l 0).toNat < 2 ^ 56 ∧ (operandWide s f l 0).toNat % 2 = 0) →
       ∃ t, exec (.ret ea a) s = .next t ∧ Untouched s t ∧ Scattered s t (fun l => (operandWide s f l 0).extractLsb' 0 56)))

/-- R31, R32, R33, R353: BRX takes each lane to entry index + 1 of the permitted table, when the table is aligned and readable, its
entry 0 names a REGANG and the number of targets, and each lane's own entry is a program counter; a lane that a SLOTW or an access
that is still to be performed holds back waits (log entry 87). -/
def Obligations.IndirectBranchesFollowTheTable : Prop :=
  ∀ (ea eb : Bool) (a b : Reg) (s : State) (q : LaneId → Addr),
    let f : Form := { plainForm true with srcs := [src 0 a ea, srcN 1 b 0 eb true, srcN 1 b 1 eb true], pairs := [b] }
    ready s f = true →
    (∀ l ∈ issuing s, let i := (operand s f l 0).toNat; let t := (operandWide s f l 1).toNat
      t % 8 = 0 ∧ (q l).toNat % 2 = 0 ∧ ∃ e w, laneRead s l t 8 = .ok e ∧
        fetchBytes s (laneCore s l) (lanePart s l) (BitVec.ofNat 56 (leNat e)) = .ok w ∧ isRegang w = true ∧ leNat e % 2 = 0 ∧
        i < leNat e / 2 ^ 56 ∧ ∃ e', laneRead s l (t + 8 * (i + 1)) 8 = .ok e' ∧ leNat e' = (q l).toNat) →
    (∀ l ∈ issuing s, accessHeld s l = false) →
    ∃ t, exec (.brx ea eb a b) s = .next t ∧ Scattered s t q ∧ Wrote s t (fun _ => []) ∧ Raised s t noFlags

/-! ### Reconvergence, exits, barriers and waits -/

/-- R28, R29, R30, R97: REGANG parks the running lanes; the oldest pending entry runs next; with none pending, lanes parked lowest at
a span-1 REGANG run past it, and a span-0 REGANG lets the group go on once every live slice is settled at it. On the grip it only
retires. -/
def Obligations.RegangParksAndRejoinsLanes : Prop :=
  ∀ (span : Bool) (s : State), ready s (plainForm true) = true →
    ∃ t, exec (.regang span) s = .next t ∧
      (∀ g n x, sliceIssues s g n → slice? s g n = some x → x.frames = [] →
        let v := x.prog
        let parked : List ParkEntry :=
          if v.parked.any (fun p => p.pc = v.pc) then v.parked.map (fun p => if p.pc = v.pc then { p with lanes := p.lanes ||| v.running } else p)
          else v.parked ++ [{ pc := v.pc, own := span, lanes := v.running }]
        (∀ p ps, v.pending = p :: ps → p.lanes ≠ 0 →
          (slice? t g n).map (·.prog) = some { pc := p.pc, running := p.lanes, pending := ps, parked := parked }) ∧
        (∀ p ∈ parked, v.pending = [] → p.own = true → p.lanes ≠ 0 → (∀ q ∈ parked, q.pc = p.pc → q = p) →
          (∀ q ∈ parked, p.pc.toNat ≤ q.pc.toNat) →
          (slice? t g n).map (·.prog) =
            some { pc := p.pc + 4, running := p.lanes, pending := [], parked := parked.filter (fun q => q.pc != p.pc) })) ∧
      (∀ g x p, group? s g = some x → span = false → (∃ n, sliceIssues s g n) →
        (∀ e ∈ liveSlices x, e.2.frames = [] ∧ e.2.halt = none ∧ e.2.wait = .none ∧ e.2.prog.pending = [] ∧
          ((sliceIssues s g e.1 ∧ e.2.prog.pc = p ∧ e.2.prog.parked = []) ∨
            (e.2.prog.running = 0 ∧ ∃ m, e.2.prog.parked = [⟨p, false, m⟩]))) →
        ∀ e ∈ liveSlices x, (slice? t g e.1).map (·.prog) =
          some { pc := p + 4, pending := [], parked := [],
                 running := if e.2.prog.running ≠ 0 then e.2.prog.running else (e.2.prog.parked.map (·.lanes)).headD 0 }) ∧
      (∀ k, .grip k ∈ issuing s → (grip? t k).map (·.pc) = (grip? s k).map (fun x => x.pc + 4))

/-- R360, R361, R191: EXIT makes exactly the issuing lanes exit; a slice with a pending entry runs it next; a grip context ends. -/
def Obligations.ExitRemovesTheIssuingLanes : Prop :=
  ∀ (s : State), ready s (plainForm true) = true →
    ∃ t, exec .exit s = .next t ∧
      (∀ g x, group? s g = some x → ∃ y, group? t g = some y ∧
        ∀ i, i < 64 → (y.exited.getLsbD i = true ↔ x.exited.getLsbD i = true ∨
          ∃ n z, sliceIssues s g n ∧ x.slices[n]? = some z ∧ (levelOf z).running.getLsbD i = true)) ∧
      (∀ g n x p ps, sliceIssues s g n → slice? s g n = some x → x.frames = [] → x.prog.pending = p :: ps →
        p.lanes &&& ~~~x.prog.running ≠ 0 →
        (slice? t g n).map (fun y => (y.prog.pc, y.prog.running)) = some (p.pc, p.lanes &&& ~~~x.prog.running)) ∧
      (∀ k, .grip k ∈ issuing s → (grip? t k).map (·.ended) = some true) ∧
      (∀ n, .mgmt n ∈ issuing s → (t.units.mgmt[n]?).map (·.running) = some false)

/-- R36, R37, R38: lanes wait at a barrier until every live lane of the group waits at the same id, or at BAR.team of the team; then
each goes on past it. A slice with a lane pending, parked or trapped has not arrived. R271 and R406: YIELD goes on while MIGREQ of
the core reads clear, in a handler and on the grip, and otherwise waits; SLEEP #0 retires, and SLEEP #n waits from the core's
present clock. -/
def Obligations.BarriersAndTimedWaits : Prop :=
  (∀ (id : BitVec 2) (s : State), ready s (plainForm false) = true → (∀ l ∈ issuing s, laneHandler s l = false) →
     let arrived (w : Wait) (g n : Nat) (x : Group) (y : Slice) : Prop :=
       y.frames = [] ∧ y.halt = none ∧ y.prog.running = liveLanes x n ∧ (sliceIssues s g n ∨ y.wait = w)
     let goesOn (t : State) (g n : Nat) : Prop := ∀ y, slice? s g n = some y →
       (slice? t g n).map (fun z => (z.wait, z.prog.pc)) = some (.none, y.prog.pc + 4)
     let staysAt (w : Wait) (t : State) (g n : Nat) : Prop := ∀ y, slice? s g n = some y →
       (slice? t g n).map (fun z => (z.wait, z.prog.pc)) = some (w, y.prog.pc)
     (∃ t, exec (.bar id) s = .next t ∧ ∀ g x, group? s g = some x → (∃ n, sliceIssues s g n) →
       ((liveSlices x ≠ [] ∧ ∀ e ∈ liveSlices x, arrived (.bar id.toNat) g e.1 x e.2) →
         ∀ n, sliceIssues s g n → goesOn t g n) ∧
       ((∃ e ∈ liveSlices x, ¬ sliceIssues s g e.1 ∧ e.2.wait ≠ .bar id.toNat) →
         ∀ n, sliceIssues s g n → staysAt (.bar id.toNat) t g n)) ∧
     (∃ t, exec .barTeam s = .next t ∧ ∀ k m, team? s k = some m → (∃ g ∈ m.groups, ∃ n, sliceIssues s g n) →
       (∀ g ∈ m.groups, ∀ x, group? s g = some x → x.team = k) →
       ((∀ g ∈ m.groups, ∀ x, group? s g = some x → ∀ e ∈ liveSlices x, arrived .teamBar g e.1 x e.2) →
         (∃ g ∈ m.groups, ∃ x, group? s g = some x ∧ liveSlices x ≠ []) →
         ∀ g ∈ m.groups, ∀ n, sliceIssues s g n → goesOn t g n) ∧
       ((∃ g ∈ m.groups, ∃ x, group? s g = some x ∧ ∃ e ∈ liveSlices x, ¬ sliceIssues s g e.1 ∧ e.2.wait ≠ .teamBar) →
         ∀ g ∈ m.groups, ∀ n, sliceIssues s g n → staysAt .teamBar t g n))) ∧
  (∀ (n : BitVec 16) (s : State), ready s (plainForm true) = true →
     (∃ t, exec .yield s = .next t ∧
       (∀ g k x, sliceIssues s g k → slice? s g k = some x →
         let l := LaneId.wave g (4 * k)
         ((x.frames ≠ [] ∨ laneMigreq s l = 0) →
           (slice? t g k).map (fun y => (y.wait, (levelOf y).pc)) = some (.none, (levelOf x).pc + 4)) ∧
         (x.frames = [] → laneMigreq s l ≠ 0 →
           (slice? t g k).map (fun y => (y.wait, (levelOf y).pc)) = some (.yield (coreOf s (laneCore s l)).clk, (levelOf x).pc))) ∧
       ∀ k, .grip k ∈ issuing s → (grip? t k).map (·.pc) = (grip? s k).map (fun x => x.pc + 4)) ∧
     (∃ t, exec (.sleep n) s = .next t ∧
       (∀ g k x, sliceIssues s g k → slice? s g k = some x →
         (slice? t g k).map (fun y => (y.wait, (levelOf y).pc)) =
           some (if n = 0 then (.none, (levelOf x).pc + 4)
             else (.sleep (coreOf s (laneCore s (.wave g (4 * k)))).clk n.toNat, (levelOf x).pc))) ∧
       ∀ k x, .grip k ∈ issuing s → team? s k = some x →
         (grip? t k).map (fun y => (y.pc, y.sleepUntil)) =
           (grip? s k).map (fun y => (y.pc + 4, (coreOf s x.core).clk + n.toNat))))

/-- R175, R370, R144, R178: a FENCE retires, writes no register, and performs each of its lanes' late loads and, with `sc`, every late
access of theirs; at device or system scope it leaves the issuing lanes' L1 empty, no releaser tag of their cores, and no tagged line
that they have read. R182, R397, R210: QFENCE waits while a queue that its mask names holds work of an issuing lane, and then retires. -/
def Obligations.FencesAndQueueWaits : Prop :=
  (∀ (scope : Scope) (sc : Bool) (s : State), ready s (plainForm true) = true →
     (wideScope scope = true →
       ∀ l ∈ issuing s, (∃ n, l = .mgmt n) ∨ stashAbsent s (laneTeam s l) (laneSide s l) (fun _ => true) = none) →
     ∃ t, exec (.fence scope sc) s = .next t ∧ Advanced s t 4 ∧ (∀ l r, lidxOf l < 64 → laneElem t l r = laneElem s l r) ∧
       Settled (lanesDo s (fenceLane scope sc)) t ∧
       (∀ e ∈ t.late, e.lane ∈ issuing s → sc = false ∧ e.fenced = true ∧ ∃ bs, e.op = .store bs) ∧
       (wideScope scope = true → (∀ r ∈ t.units.tagReads, r.1 ∉ issuing s) ∧
         ∀ l ∈ issuing s, (∀ n, l ≠ .mgmt n) → (coreOf t (laneCore s l)).l1 = [] ∧ ∀ g ∈ t.units.tags, g.core ≠ laneCore s l)) ∧
  (∀ (mask : BitVec 8) (s : State), ready s (plainForm true) = true →
     ((∃ l ∈ issuing s, ∃ b, b < 8 ∧ mask.getLsbD b = true ∧ joins s l b = true) → exec (.qfence mask) s = .next s) ∧
     ((∀ l ∈ issuing s, ∀ b, b < 8 → mask.getLsbD b = true → joins s l b = false) →
       ∃ t, exec (.qfence mask) s = .next t ∧ Completed s t 4 (fun _ => []) noFlags))

/-! ### Exceptions -/

/-- R421, R352, R257, R258, R66: TRAP and BRK take causes 0x0D and 0x0E with their number in TADDR and enter the handler at TVEC. A
BRK that a debugger's RESUME lets pass only retires. R259, R68, R402: RETT frees the newest frame; lanes not in TDONE execute the
instruction again, and the others go on past it. -/
def Obligations.TrapsEnterTheHandlerAndReturn : Prop :=
  (∀ (n : BitVec 9) (s : State), ready s (plainForm true) = true → (∀ l ∈ issuing s, ∃ g i, l = .wave g i) →
     (trapsFit s 0x0D → ∃ t, exec (.trap n) s = .next t ∧ Trapped s t 0x0D (fun _ => n.toNat)) ∧
     (trapsFit s 0x0E → (∀ l ∈ issuing s, brkPassed s l = false) →
       ∃ t, exec (.brk n) s = .next t ∧ Trapped s t 0x0E (fun _ => n.toNat)) ∧
     ((∀ l ∈ issuing s, brkPassed s l = true) → ∃ t, exec (.brk n) s = .next t ∧ Completed s t 4 (fun _ => []) noFlags)) ∧
  (∀ (s : State), ready s (plainForm false) = true →
     (∀ l ∈ issuing s, ∃ g i x, l = .wave g i ∧ slice? s g (i / 4) = some x ∧ rettOk x = true) →
     ∃ t, exec .rett s = .next t ∧ ∀ g n x f rest, sliceIssues s g n → slice? s g n = some x → x.frames = f :: rest →
       let v := levelOf { x with frames := rest }
       let redo := f.lanes &&& ~~~f.tdone
       let done := f.lanes &&& f.tdone
       let len := instrLen s (laneCore s (.wave g (4 * n))) (lanePart s (.wave g (4 * n))) f.pc
       ∃ y, slice? t g n = some y ∧ y.frames.length = rest.length ∧
         levelOf y = (if redo ≠ 0 then
             { v with pc := f.pc, running := redo, pending := addPending v.pending (f.pc + BitVec.ofNat 56 len) done }
           else { v with pc := f.pc + BitVec.ofNat 56 len, running := done }))

/-- R260, R191, R269: without a trap vector, and on the grip, a cause is escalated: the slice stops at the instruction with its
record, its group stops, and an event of type 1 names them. A cause that DBGMASK names stops the team and raises no event. -/
def Obligations.TrapsEscalateWithoutAHandler : Prop :=
  ∀ (n : BitVec 9) (s : State), ready s (plainForm true) = true →
    ∃ t, exec (.trap n) s = .next t ∧
      (∀ g k x y, sliceIssues s g k → slice? s g k = some x → group? s g = some y → tvec s (teamPart s y.team) = 0 →
        (bankReg s (teamPart s y.team) 0x1E7).getLsbD 0x0D = false → (∀ h j, sliceIssues s h j → h = g ∧ j = k) →
        let w := workName s y.team
        ∃ z h, slice? t g k = some z ∧ z.frames = x.frames ∧ z.halt = some h ∧ h.cause = 0x0D ∧ h.pc = (levelOf x).pc ∧
          h.tlanes = issuingIn s g k (fun _ => true) ∧ h.tdone = 0 ∧
          ((group? t g).map (·.status)) = some (if y.status = .run then .stopped else y.status) ∧
          t.units.events = s.units.events ++ [eventRec 1 (teamPart s y.team) w.1 w.2.1 0x0D (slotSlice y k) y.gidx w.2.2.1 w.2.2.2
            (levelOf x).pc.toNat]) ∧
      (∀ k c, .grip k ∈ issuing s → grip? s k = some c → (bankReg s (teamPart s k) 0x1E7).getLsbD 0x0D = false →
        let w := workName s k
        (grip? t k).map (fun y => (y.pc, y.stopped, y.halt)) = some (c.pc, true, some (0x0D, n.toNat, false)) ∧
        t.units.events = s.units.events ++ [eventRec 1 (teamPart s k) (w.1 + 2) w.2.1 0x0D 0 0 w.2.2.1 w.2.2.2 c.pc.toNat]) ∧
      (∀ g k x y, sliceIssues s g k → slice? s g k = some x → group? s g = some y → (∀ h j, sliceIssues s h j → h = g ∧ j = k) →
        (bankReg s (teamPart s y.team) 0x1E7).getLsbD 0x0D = true →
        (∃ z h, slice? t g k = some z ∧ z.frames = x.frames ∧ z.halt = some h ∧ h.cause = 0x0D ∧ h.pc = (levelOf x).pc) ∧
          ((team? s y.team).isSome → (team? t y.team).map (·.stopped) = some true) ∧ t.units.events = s.units.events)

/-- R28, R36: of the words with the opcode of REGANG only 0x0000_004D and 0x0001_004D are instructions, joining the group and the
slice; of those with the opcode of BAR only 0x0000_0051 + n × 0x0001_0000, a group barrier with id n of 0 to 3, and 0x0000_2051,
the team barrier; and a word that is no instruction takes cause 0x01 in every issuing lane, with the word in TADDR, in a wave as
in a grip context. -/
def Obligations.ReservedFieldsTakeCauseOne : Prop :=
  (∀ w, w < 2 ^ 32 → w % 128 = 0x4D →
    decode (leBytes 4 0x4D) = .ok (.regang false, []) ∧ decode (leBytes 4 0x1004D) = .ok (.regang true, []) ∧
    (w ≠ 0x4D → w ≠ 0x1004D → ∃ e, decode (leBytes 4 w) = .error e)) ∧
  (∀ w, w < 2 ^ 32 → w % 128 = 0x51 →
    (∀ n : BitVec 2, decode (leBytes 4 (0x51 + n.toNat * 0x10000)) = .ok (.bar n, [])) ∧ decode (leBytes 4 0x2051) = .ok (.barTeam, []) ∧
    (w ≠ 0x2051 → (∀ n, n < 4 → w ≠ 0x51 + n * 0x10000) → ∃ e, decode (leBytes 4 w) = .error e)) ∧
  (∀ (s u : State) (stamp k gang : Nat) (xs : List Candidate) (l : LaneId) (ls : List LaneId) (bs : List Byte) (e : DecodeError),
    Chosen s u stamp k gang xs → issuing u = l :: ls → groupsFit u = true →
    fetchBytes u (laneCore u l) (lanePart u l) (focusPc u u.focus) = .ok bs → decode bs = .error e →
    trapsFit u 1 → ∃ t, step s = .next t ∧ Trapped u t 1 (fun _ => leNat bs)) ∧
  ∀ (s u : State) (k : Nat) (ks : List Nat) (bs : List Byte) (e : DecodeError),
    GripChosen s u k ks → issuing u = [.grip k] →
    fetchBytes u (laneCore u (.grip k)) (lanePart u (.grip k)) (focusPc u (.grip k)) = .ok bs →
    decode bs = .error e → (bankReg u (teamPart u k) 0x1E7).getLsbD 1 = false →
    ∃ t, step s = .next t ∧ GripStopped u t k 1 (leNat bs)

/-! ### Encodings -/

/-- Words of each family, their fields laid out as Tables 4-1 to 4-10 place them, decode to the instructions they stand for. -/
def Obligations.TableWordsDecode : Prop :=
  decodeTableWord 32 0xFF808185 = some (.iaddi false 3 4 0x1FF) ∧
  decodeTableWord 32 0x0C288189 = some (.imad 3 4 5 6) ∧
  decodeTableWord 32 0x1028818F = some (.icmp .lt false false 3 4 5) ∧
  decodeTableWord 32 0xABCD0315 = some (.movi 6 0xABCD) ∧
  decodeTableWord 16 0x1442 = some (.iadd16 false 2 5) ∧
  decodeTableWord 32 0x0C2881AD = some (.fdot .h 3 4 5 6) ∧
  decodeTableWord 32 0x000081B7 = some (.vote .bal false 3 4) ∧
  decodeTableWord 32 0x0001004D = some (.regang true) ∧
  decodeTableWord 32 0x00640059 = some (.sleep 100) ∧
  decodeTableWord 32 0x0010605D = some (.syswr 0 false 3) ∧
  decodeTableWord 32 0x0030005D = some (.trap 0) ∧
  decodeTableWord 32 0x0000C055 = some (.fence .dev true) ∧
  decodeTableWord 32 0x00010071 = some (.cpy false 8) ∧
  decodeTableWord 32 0x000041EF = some (.stashMap false 3 2) ∧
  decodeTableWord 32 0x0000207B = some (.mpass 0) ∧
  decodeTableWord 32 0x2801003B = some (.pxout false false 8) ∧
  decodeTableWord 32 0x00000001 = none

/-- R81: every 16-bit word decodes to one of the sixteen 16-bit instructions, whose fields name v0 to v31 or an immediate, so that
none names a queue or a handler register; none of them traps with cause 0x01 on a wave, nor is escalated with it; and the word
0x0000 is MOV v0, v0, which waits while v0 is empty in an issuing lane and otherwise leaves every element as it was. -/
def Obligations.SixteenBitWordsAreDefined : Prop :=
  (∀ w, w < 2 ^ 16 → w % 2 = 0 → ∃ i, decode (leBytes 2 w) = .ok (i, []) ∧
    (∃ (k : Bool) (d r : Reg5), i ∈ [.mov16 k d r, .iadd16 k d r, .isub16 k d r, .imul16 k d r, .and16 k d r, .or16 k d r, .xor16 k d r,
      .shl16 k d r, .shr16 k d r, .sar16 k d r, .imin16 k d r, .imax16 k d r, .fadd16 k d r, .fsub16 k d r, .fmul16 k d r,
      .fmax16 k d r]) ∧
    ∀ s, (∀ l ∈ issuing s, ∃ g j, l = .wave g j) → issuing s ≠ [] → Yields i s (fun t =>
      ∀ g n x y, slice? s g n = some x → slice? t g n = some y →
        (∀ f fs, y.frames = f :: fs → x.frames.length < y.frames.length → f.cause ≠ 1) ∧
        ∀ h, y.halt = some h → y.halt ≠ x.halt → h.cause ≠ 1)) ∧
  decode (leBytes 2 0) = .ok (.mov16 false 0 0, []) ∧
  ∀ s, groupsFit s = true → issuing s ≠ [] → (∀ l ∈ issuing s, ∃ g j, l = .wave g j) →
    ((∃ l ∈ issuing s, ∃ n, laneElem s l 0 = .empty n) → exec (.mov16 false 0 0) s = .next s) ∧
    ((∀ l ∈ issuing s, ∃ v, laneElem s l 0 = .full v false) → ∃ t, exec (.mov16 false 0 0) s = .next t ∧ Advanced s t 2 ∧
      ∀ l r, lidxOf l < 64 → laneElem t l r = laneElem s l r)

/-- R77 to R92: every well-formed instruction that has an encoding decodes from it to itself, whatever bytes follow. -/
def Obligations.EncodeThenDecode : Prop :=
  ∀ (i : Instr) (rest : List Byte), i.wellFormed = true → i.encodable = true →
    ∃ c, encode i = some c ∧ decode (c.bytes ++ rest) = .ok (i, rest)

/-- R94: what decodes is the encoding of a well-formed instruction, so that no reserved value of a field falls to a neighbour. -/
def Obligations.DecodeThenEncode : Prop :=
  ∀ (bs rest : List Byte) (i : Instr), decode bs = .ok (i, rest) →
    i.wellFormed = true ∧ i.encodable = true ∧ ∃ c, encode i = some c ∧ bs = c.bytes ++ rest

/-! ### One step -/

/-- The first entry of the agenda happens. A wave names its quadrant, which renames and chooses what issues (R53, R250), and a grip context
names its core's grip, of which the oldest ready context issues (R190); a context that issues runs the instruction at its counter, in the
state that the fetch's translation leaves. An entry that has issued ends its issue and leaves the reorder buffer when it has retired; when it
has to wait the next is tried, and an entry behind an older one only executes (log entries 7 and 100). An event is its device step, an access that is still to be
performed is performed, and clocks pass. An issue of the late kind leaves the accesses of its lanes to be performed (log entries 7 and 87).
A power tick that is open takes its last steps before anything else but an expiry or a decision of it (R316). -/
def Obligations.StepRunsTheDecodedInstruction : Prop :=
  (∀ (s u : State) (stamp k gang : Nat) (xs : List Candidate) (l : LaneId) (ls : List LaneId) (bs : List Byte) (i : Instr),
    Chosen s u stamp k gang xs → issuing u = l :: ls →
    fetchBytes u (laneCore u l) (lanePart u l) (focusPc u u.focus) = .ok bs → decode bs = .ok (i, []) →
    match exec i (noteLane u l (focusPc u u.focus).toNat .x) with
    | .next t =>
      let t' := endStepping t (gangSlices u k gang)
      (gangIssued u t' k gang = true → step s = .next (endIssue u t' k gang stamp)) ∧
      (gangIssued u t' k gang = false → ∃ f, step s = tryEntries { t' with focus := f } xs)
    | r => step s = r) ∧
  (∀ (s : State) (x : Candidate) (xs : List Candidate), gangMay s x.wave x.gang = true → x.ahead = true →
    tryEntries s (x :: xs) = .next (executeAhead s x.wave x.stamp)) ∧
  (∀ (s u : State) (k : Nat) (ks : List Nat) (bs : List Byte) (i : Instr),
    GripChosen s u k ks → issuing u = [.grip k] →
    fetchBytes u (laneCore u (.grip k)) (lanePart u (.grip k)) (focusPc u (.grip k)) = .ok bs → decode bs = .ok (i, []) →
    match exec i (noteLane u (.grip k) (focusPc u (.grip k)).toNat .x) with
    | .next t => if { t with focus := s.focus } = { u with focus := s.focus } then step s = tryGrips { u with focus := s.focus } ks
        else step s = .next t
    | r => step s = r) ∧
  (∀ (s : State) (n : Nat) (rest : List Happening) (l : LaneId) (ls : List LaneId) (bs : List Byte) (i : Instr),
    s.agenda = .issue (.mgmt n) :: rest → s.units.power.opened = none → mgmtMay s n = true →
    let s1 : State := { s with agenda := rest, focus := .mgmt n }
    issuing s1 = l :: ls →
    fetchBytes s1 (laneCore s1 l) (lanePart s1 l) (focusPc s1 (.mgmt n)) = .ok bs → decode bs = .ok (i, []) →
    step s = exec i (noteLane s1 l (focusPc s1 (.mgmt n)).toNat .x)) ∧
  (∀ (s t : State) (f : Focus) (rest : List Happening), s.agenda = .issueLate f :: rest → s.units.power.opened = none →
    step { s with agenda := .issue f :: rest, deferring := some s.nextTag } = .next t → step s = .next { t with deferring := none }) ∧
  (∀ (s : State) (id : Nat) (rest : List Happening), s.agenda = .perform id :: rest → s.units.power.opened = none →
    step s = .next (performThose { s with agenda := rest } (fun e => e.id = id))) ∧
  (∀ (s : State) (i : Instr) (rest : List Happening), s.agenda = .event i :: rest →
    (s.units.power.opened = none ∨ tickPart (.event i) = true) → step s = exec i { s with agenda := rest }) ∧
  (∀ (s : State) (core clocks : Nat) (rest : List Happening), s.agenda = .elapse core clocks :: rest → s.units.power.opened = none →
    step s = .next (elapse { s with agenda := rest } core clocks)) ∧
  ∀ (s : State) (h : Happening) (rest : List Happening), s.agenda = h :: rest → s.units.power.opened.isSome = true → tickPart h = false →
    step s = happenNow (finishTick { s with agenda := rest }) h

/-- What reset leaves: no work, no context, every function not ready, clocks and registers at the values that the spec gives. The
registers whose reset value the spec does not state are the model's choice of log entry 10 and are not named here. At reset memory
is in canonical form and every group fits. -/
def Obligations.ResetValues : Prop :=
  (let s := State.reset
   s.work.teams = [] ∧ s.work.groups = [] ∧ s.posted = [] ∧ s.late = [] ∧ s.units.tags = [] ∧ s.units.l2 = [] ∧ s.units.events = [] ∧ s.units.ready = 0 ∧
   (∀ c, (coreOf s c).clk = 0 ∧ (coreOf s c).l1 = [] ∧ (coreOf s c).tlb = []) ∧
   (∀ cl, (clusterOf s cl).lease = none ∧ (clusterOf s cl).mhz = 1700) ∧
   (∀ p, bankReg s p 0x182 = 1 ∧ bankReg s p 0x193 = 500 ∧ bankReg s p 0x1C1 = 1 ∧
     ∀ n, n ∈ [0x040, 0x150, 0x152, 0x170, 0x171, 0x180, 0x181, 0x183, 0x190, 0x191, 0x192, 0x194, 0x19B, 0x1A0, 0x1B0, 0x1B2, 0x1B3,
       0x1E0, 0x1E1, 0x1E2, 0x1E3, 0x1E4, 0x1E7, 0x1E8, 0x1E9, 0x1EA] → bankReg s p n = 0) ∧
   sysReg s 0x1C0 = 0x004005F0 ∧ sysReg s 0x1D7 = 1 ∧ ∀ n, n ∈ [0x1D0, 0x1D1, 0x1D2, 0x1D3, 0x1D4, 0x1D5] → sysReg s n = 0) ∧
  (Memory.wf State.reset.mem = true ∧ groupsFit State.reset = true)

/-- Every step keeps memory in canonical form: addresses rise and no entry holds what an unlisted address reads as (log entry 9). -/
def Obligations.StepKeepsMemoryForm : Prop :=
  ∀ s t : State, Memory.wf s.mem = true → step s = .next t → Memory.wf t.mem = true

/-- R19: every step keeps every group, in a wave slot or in an image, at 64 lanes at most. -/
def Obligations.StepKeepsGroupWidths : Prop :=
  ∀ s t : State, groupsFit s = true → step s = .next t → groupsFit t = true

/-! ### The conditions of operands and contexts -/

/-- Table 16-1, for IADD as one of its instructions: an empty source with E = 0 makes the issue wait; then, lane by lane, an empty
source with E = 1 is cause 0x03, a poisoned source 0x10, a queue that holds no entry to come 0x11, and a queue as the destination
0x11. Lanes without a cause complete, and the frame records them (R66). -/
def Obligations.OperandConditions : Prop :=
  ∀ (ea : Bool) (d a b : Reg) (s : State), groupsFit s = true → issuing s ≠ [] →
    (∀ l ∈ issuing s, ∃ g i, l = .wave g i) →
    let f := regForm true ea false d a b
    let got (l : LaneId) (x : Src) : Got := gather s (issuing s) f.srcs l x
    let sa : Src := src 0 a ea
    let sb : Src := src 1 b false
    let i : Instr := .iadd ea false d a b
    ((∃ l ∈ issuing s, ∃ n, got l sb = .elem (.empty n) ∨ (ea = false ∧ got l sa = .elem (.empty n))) → exec i s = .next s) ∧
    (ea = true → d.toNat < 56 → a.toNat < 56 → b.toNat < 56 → trapsFit s 3 → ∀ p : LaneId → Bool,
      (∀ l ∈ issuing s, (∃ w, got l sb = .elem (.full w false)) ∧
        (p l = true → ∃ n, got l sa = .elem (.empty n)) ∧ (p l = false → ∃ w, got l sa = .elem (.full w false))) →
      ∃ t, exec i s = .next t ∧ TrappedIn s t 3 p (fun _ => a.toNat) noFlags ∧
        ∀ l ∈ issuing s, laneElem t l d.toNat =
          if p l then laneElem s l d.toNat else .full (operand s f l 0 + operand s f l 1) false) ∧
    (trapsFit s 0x10 → (∀ l ∈ issuing s, (∃ w, got l sa = .elem (.full w true)) ∧ ∃ w q, got l sb = .elem (.full w q)) →
      ∃ t, exec i s = .next t ∧ Trapped s t 0x10 (fun _ => a.toNat)) ∧
    (trapsFit s 0x11 → (∀ l ∈ issuing s, got l sa = .misuse ∧ ∃ w, got l sb = .elem (.full w false)) →
      ∃ t, exec i s = .next t ∧ Trapped s t 0x11 (fun _ => a.toNat)) ∧
    (trapsFit s 0x11 → 56 ≤ d.toNat → (∀ l ∈ issuing s, laneHandler s l = false ∧ (∃ w, got l sa = .elem (.full w false)) ∧
        ∃ w, got l sb = .elem (.full w false)) →
      ∃ t, exec i s = .next t ∧ Trapped s t 0x11 (fun _ => d.toNat))

/-- R92, R94, R97, R119, R259: an instruction that its context does not allow is cause 0x01 with its word; a control register out of
reach is cause 0x02; a flag that MODE enables is cause 0x0B, with the flags in FSTAT; and a grip context stops on its cause. -/
def Obligations.ContextConditions : Prop :=
  ∀ (s : State), groupsFit s = true → issuing s ≠ [] →
    ((∀ l ∈ issuing s, (∃ g i, l = .wave g i) ∧ laneHandler s l = true) → trapsFit s 1 → ∀ (id : BitVec 2) (c : Code),
      encode (.bar id) = some c → ∃ t, exec (.bar id) s = .next t ∧ Trapped s t 1 (fun _ => c.zext.toNat)) ∧
    ((∀ l ∈ issuing s, (∃ g i, l = .wave g i) ∧ laneHandler s l = false) → trapsFit s 1 → ∀ c : Code,
      encode .rett = some c → ∃ t, exec .rett s = .next t ∧ Trapped s t 1 (fun _ => c.zext.toNat)) ∧
    ((∀ l ∈ issuing s, ∃ g i, l = .wave g i) → trapsFit s 2 → ∀ (d : Reg) (n : BitVec 9), d.toNat < 56 → 0x100 ≤ n.toNat →
      ∃ t, exec (.sysrd d n) s = .next t ∧ Trapped s t 2 (fun _ => n.toNat)) ∧
    ((∀ l ∈ issuing s, ∃ g i, l = .wave g i) → trapsFit s 0x0B → ∀ (ea eb : Bool) (d a b : Reg),
      let f := regForm false ea eb d a b
      let r (l : LaneId) : Word × Flags :=
        put32 (modeRm (laneMode s l)) (laneMode s l)
          (numAdd (modeRm (laneMode s l)) (rd32 (laneMode s l) (operand s f l 0)) (rd32 (laneMode s l) (operand s f l 1)))
      ready s f = true → (∀ l ∈ issuing s, enabledFlags (laneMode s l) (r l).2 ≠ 0) →
      ∃ t, exec (.fadd false false false .mode ea eb d a b) s = .next t ∧
        TrappedIn s t 0x0B (fun _ => true) (fun l => (r l).2) (fun l => (r l).2)) ∧
    (∀ k, issuing s = [.grip k] → (bankReg s (teamPart s k) 0x1E7).getLsbD 1 = false → ∀ (id : BitVec 2) (c : Code),
      encode (.bar id) = some c → ∃ t, exec (.bar id) s = .next t ∧ GripStopped s t k 1 c.zext.toNat) ∧
    (∀ k, issuing s = [.grip k] → (bankReg s (teamPart s k) 0x1E7).getLsbD 2 = false → ∀ (d : Reg) (n : BitVec 9), d.toNat < 56 →
      0x100 ≤ n.toNat → ∃ t, exec (.sysrd d n) s = .next t ∧ GripStopped s t k 2 n.toNat)

/-! ### Control registers -/

/-- R120, R415, Tables 2-2, 3-2, 10-5, 11-1 and 14-1: what SYSRD gives, by number, to a lane of a wave, of a grip context and of a
management core, whose reads of registers that belong to a lane are open but for the reserved bits, which are 0 (log entry 55).
FSTAT waits for flags still to come, MRANK is the model's `mrank`, and the trap frame reads 0 outside a handler.
R46, R252, R357: CYC gives the low or the high half of the core's cycle counter, or in rehearsal mode of the count of instructions
that its wave has retired; a management core counts its own clocks (log entries 10 and 83). -/
def Obligations.ControlRegisterReads : Prop :=
  (∀ (d : Reg) (n : BitVec 9) (s : State) (v : LaneId → Nat), let f := { plainForm true with dst := some d }
     ready s f = true →
     let heat (l : LaneId) : List (Nat × Nat) := [(0x032, thotWord (coreOf s (laneCore s l))), (0x033, (laneMigreq s l).toNat)]
     let module_ (l : LaneId) : List (Nat × Nat) :=
       [(0x030, meltf s), (0x034, s.units.power.count * 65536 + (if s.units.power.refreeze then 1 else 0)), (0x040, (bankReg s (lanePart s l) 0x040).toNat), (0x060, s.units.ready.toNat), (0x061, (caps s.units.fuses).toNat),
        (0x062, (caps2 s.units.fuses).toNat)]
     let team (l : LaneId) (m : Team) (gidx : Nat) : List (Nat × Nat) :=
       [(0x011, laneSide s l * 2 ^ 25 + (if m.pair then 2 ^ 24 else 0) + m.groups.length * 2 ^ 16 + widthCode s m * 2 ^ 8 + gidx),
        (0x012, m.no), (0x013, m.tx.toNat), (0x014, m.ty.toNat), (0x015, m.tz.toNat), (0x017, lanePart s l)]
     ((∀ l ∈ issuing s, (n = 1 → flagsInFlight s l = false) ∧
         ∃ g i x m y, l = .wave g i ∧ group? s g = some x ∧ team? s x.team = some m ∧ x.slices[i / 4]? = some y ∧
         ((n.toNat, v l) ∈ heat l ++ module_ l ++ team l m x.gidx ++
             [(0x000, x.mode.toNat), (0x001, x.fstat.toNat), (0x010, slotSlice x (i / 4) * 65536 + lanePos x i * 256 + i),
              (0x016, m.lcore + laneSide s l), (0x018, x.view.toNat), (0x019, mrank s g x i), (0x020, x.merr0.toNat),
              (0x021, x.merr1.toNat), (0x031, leaseRem s l)] ∨
           (y.frames = [] ∧ 0x050 ≤ n.toNat ∧ n.toNat ≤ 0x056 ∧ v l = 0) ∨
           (∃ fr rest, y.frames = fr :: rest ∧
             let a := if fr.tlanes.getLsbD i then tgetD fr.taddr i 0 else 0
             (n.toNat, v l) ∈
               [(0x050, fr.cause + 256 * (a / 2 ^ 32 % 2 ^ 24)), (0x051, fr.pc.toNat % 2 ^ 32), (0x052, a % 2 ^ 32),
                (0x053, byPosition x fr.tlanes), (0x054, byPosition x (fr.tdone &&& fr.lanes)),
                (0x055, fr.pc.toNat / 2 ^ 32 * 256 + slotSlice x (i / 4)), (0x056, 1 + rest.length)]))) →
       ∃ t, exec (.sysrd d n) s = .next t ∧ Completed s t 4 (one d (fun l => BitVec.ofNat 32 (v l))) noFlags) ∧
     (∀ k m, issuing s = [.grip k] → team? s k = some m →
       (n.toNat, v (.grip k)) ∈ heat (.grip k) ++ module_ (.grip k) ++ team (.grip k) m 0 ++ [(0x010, 0), (0x016, m.lcore)] →
       ∃ t, exec (.sysrd d n) s = .next t ∧ Completed s t 4 (one d (fun l => BitVec.ofNat 32 (v l))) noFlags) ∧
     (∀ k, issuing s = [.mgmt k] → (n.toNat, v (.mgmt k)) ∈ module_ (.mgmt k) →
       ∃ t, exec (.sysrd d n) s = .next t ∧ Completed s t 4 (one d (fun l => BitVec.ofNat 32 (v l))) noFlags) ∧
     (∀ k r, issuing s = [.mgmt k] → regSpec n.toNat = some r → 0x100 ≤ n.toNat → n ≠ 0x194 → n ≠ 0x1D6 → n ≠ 0x1E0 →
       ∃ t, exec (.sysrd d n) s = .next t ∧
         Completed s t 4 (one d (fun _ => (if r.banked then bankReg s (psel s) n.toNat else sysReg s n.toNat) &&&
           BitVec.ofNat 32 (r.rw ||| r.w1c ||| r.ro))) noFlags) ∧
     ∀ k m, issuing s = [.mgmt k] → (n.toNat, m) ∈ [(0x010, 0x71F3F), (0x011, 0x33F031F), (0x016, 0x7F), (0x017, 0xF), (0x031, 0x8000FFFF),
         (0x032, 0xFFFF0003), (0x033, 0x7)] →
       ∃ t r, exec (.sysrd d n) s = .next t ∧ Completed s t 4 (one d r) noFlags ∧ ∀ b, Nat.testBit m b = false → (r (.mgmt k)).getLsbD b = false) ∧
  (∀ (hi : Bool) (d : Reg), let f := { plainForm true with dst := some d }
     let half (n : Nat) : Word := BitVec.ofNat 32 (if hi then n / 2 ^ 32 else n)
     Meets (.cyc d hi) f d (fun s l r =>
       (∀ g i x w, l = .wave g i → group? s g = some x → slot? s (laneSeat x i) = some w →
         r = half (if teamReh s x.team then w.retired else (coreOf s (slotCore (laneSeat x i))).clk)) ∧
       (∀ k m, l = .grip k → team? s k = some m → r = half (coreOf s m.core).clk) ∧
       (∀ k m, l = .mgmt k → s.units.mgmt[k]? = some m → r = half m.clk)))

/-- R416, R118, R120, R457 and Table 11-1: SYSWR acts for each group with the value of its lowest issuing lane. It sets MODE and
EVPHASE, clears the bits of FSTAT that are written as one and, with bit 31, the valid bit of MERRLOG0, and sets TDONE of the
handler's own slice within the frame's lanes; a reserved bit is cause 0x01. On a management core it writes PSEL's bank, by the
Access codes of R6. -/
def Obligations.ControlRegisterWrites : Prop :=
  ∀ (n : BitVec 9) (ea : Bool) (a : Reg) (s : State), let f := { plainForm true with srcs := [srcOne 0 a ea] }
    let v (l : LaneId) : Word := operand s f l 0
    let i : Instr := .syswr n ea a
    let done (t : State) : Prop := exec i s = .next t ∧ Advanced s t 4 ∧ t.mem = s.mem ∧
      ∀ l r, lidxOf l < 64 → laneElem t l r = laneElem s l r
    ready s f = true →
    ((∀ l ∈ issuing s, ∃ g j, l = .wave g j) →
      (n = 0 → (∀ l ∈ issuing s, (v l).toNat < 512) → ∃ t, done t ∧ ∀ g j, .wave g j ∈ issuing s →
        (group? t g).map (·.mode) = (group? s g).map (fun _ => v (leadLane (issuing s) (.wave g j)))) ∧
      (n = 0 → (∀ l ∈ issuing s, 512 ≤ (v l).toNat) → trapsFit s 1 → ∀ c : Code, encode i = some c →
        ∃ t, exec i s = .next t ∧ Trapped s t 1 (fun _ => c.zext.toNat)) ∧
      (n = 1 → (∀ l ∈ issuing s, (v l).toNat < 64) → ∃ t, done t ∧ ∀ g j, .wave g j ∈ issuing s →
        (group? t g).map (·.fstat) = (group? s g).map (fun x => x.fstat &&& ~~~v (leadLane (issuing s) (.wave g j)))) ∧
      (n = 0x020 → (∀ l ∈ issuing s, v l = 0x80000000) → ∃ t, done t ∧ ∀ g j, .wave g j ∈ issuing s →
        (group? t g).map (·.merr0) = (group? s g).map (fun x => x.merr0 &&& 0x7FFFFFFF)) ∧
      (n = 0x040 → OneGroup s → (∀ l ∈ issuing s, (v l).toNat < 8) → ∃ t, done t ∧ ∀ l ∈ issuing s,
        bankReg t (lanePart s l) 0x040 = v (leadLane (issuing s) l)) ∧
      (n = 0x054 → ∃ t, done t ∧ ∀ l ∈ issuing s, ∀ g j x y fr rest, leadLane (issuing s) l = .wave g j → group? s g = some x →
        x.slices[j / 4]? = some y → y.frames = fr :: rest →
        ∃ z fr', slice? t g (j / 4) = some z ∧ z.frames = fr' :: rest ∧
          ∀ k, k < 64 → fr'.tdone.getLsbD k = (fr.lanes.getLsbD k && (v (.wave g j)).getLsbD (lanePos x k)))) ∧
    (∀ k, issuing s = [.mgmt k] →
      ∀ m, (n.toNat, m) ∈ [(0x150, 0xFFFFFE00), (0x160, 0xFFFFFFFF), (0x170, 0xFFFFF000), (0x175, 0xFFFFF000), (0x180, 0xFFFFFC00),
          (0x190, 0xFFFFFFFE), (0x192, 0xFFFF), (0x195, 0x1F), (0x196, 0xFFFFFFFF), (0x1A0, 0xFFFFFF00), (0x1B0, 0xFFFFFC00),
          (0x1E7, 0xFFFFFFFF)] → (v (.mgmt k)).toNat &&& m = (v (.mgmt k)).toNat →
        ∃ t, done t ∧ bankReg t (psel s) n.toNat = v (.mgmt k))

/-- R320 to R323, R389: LEASE.req waits with its destination and length for the next tick, LEASE.free ends a lease that the issuer
holds and no other, and LEASE.query, once the power controller is ready, gives the largest length that the latest tick would have
granted. R316, R318, R319, R321, R323, R389: a tick adds the energy to the heat store within its bounds; it begins a refreeze
interval, with every lease ended, at 58,983 and ends it at 16,384; a request is decided by R321, and its lanes read the length
granted or 0 and go on; and a lease without time left ends with cause 0x0C pending for its holder. -/
def Obligations.LeasesAreAskedForAndDecided : Prop :=
  (∀ (d : Reg) (n : BitVec 16) (s : State), (∀ l ∈ issuing s, ∃ g i, l = .wave g i) →
     let f := { plainForm false with dst := some d }
     (ready s f = true → ∃ t, exec (.leaseReq d n) s = .next t ∧
       ((∀ g x, group? s g = some x → (∃ k, sliceIssues s g k) → x.exited ≠ allLanes x) →
         ∀ l r, lidxOf l < 64 → laneElem t l r = laneElem s l r) ∧
       ∀ g k x, sliceIssues s g k → slice? s g k = some x →
         (slice? t g k).map (fun y => (y.wait, levelOf y)) = some (.lease d.toNat n.toNat s.units.power.ticks, levelOf x)) ∧
     (ready s (plainForm false) = true → OneGroup s → ∃ t, exec .leaseFree s = .next t ∧ Advanced s t 4 ∧
       (∀ l r, lidxOf l < 64 → laneElem t l r = laneElem s l r) ∧
       ∀ l ∈ issuing s, ∀ x, let cl := laneCore s l / 4
         (clusterOf s cl).lease = some x →
           (x.slots = laneHolder s l → (clusterOf t cl).lease = none ∧ (clusterOf t cl).mhz = 1700) ∧
           (x.slots ≠ laneHolder s l → clusterOf t cl = clusterOf s cl)) ∧
     (ready s f = true → s.units.ready.getLsbD 11 = false → exec (.leaseQuery d) s = .next s) ∧
     (ready s f = true → s.units.ready.getLsbD 11 = true → ∃ t r, exec (.leaseQuery d) s = .next t ∧
       Completed s t 4 (one d r) noFlags ∧ ∀ l ∈ issuing s,
         let others := otherTime s.units.power.leases (laneCore s l / 4)
         let fits (k : Nat) : Prop := s.units.power.refreeze = false ∧ leasesAllowed s (lanePart s l) = true ∧
           leaseOpen s.units.power.leases (laneCore s l / 4) (laneHolder s l) = true ∧ meltf s ≤ 58983 ∧
           900 * max (64 * k) others * 65536 ≤ (58983 - meltf s) * 240000000000
         (r l).toNat < 65536 ∧ (r l ≠ 0 → fits (r l).toNat) ∧ ∀ k, 1 ≤ k → k < 65536 → fits k → k ≤ (r l).toNat)) ∧
  ((∀ (s : State) (env : PowerEnv), s.units.ready.getLsbD 11 = true → Yields (.powerTick env) s (fun t =>
     let old := s.units.power
     let new := t.units.power
     new.ticks = old.ticks + 1 ∧
     (new.meltMicroJ : Int) = max 0 (min 240000000000 ((old.meltMicroJ : Int) + env.meltMicroJ)) ∧
     (old.refreeze = false → 58983 ≤ meltf t → new.refreeze = true ∧ new.count = (old.count + 1) % 65536 ∧
       ∀ cl, (clusterOf t cl).lease = none) ∧
     (old.refreeze = false → meltf t < 58983 → new.refreeze = false ∧ new.count = old.count) ∧
     (old.refreeze = true → new.refreeze = decide (16384 < meltf t) ∧ new.count = old.count))) ∧
   (∀ (s : State) (k g n d len : Nat) (x : Slice) (z : Group), s.units.power.opened.isSome → expiredLeases s = [] →
     (leaseWaiters s).head? = some k → slotSliceList s k = [(g, n, x)] → leaseAsked s x = some (d, len) → d < 56 → x.frames = [] →
     group? s g = some z → slice? s g n = some x →
     let h := laneHolder s (.wave g (4 * n))
     let ok := leaseGranted s (lanePart s (.wave g (4 * n))) (slotCore k / 4) h len
     Yields (.leaseRequestDecision k) s (fun t =>
       (∀ i, x.prog.running.getLsbD i = true → laneElem t (.wave g i) d = .full (if ok then BitVec.ofNat 32 len else 0) false) ∧
       (slice? t g n).map (fun y => (y.wait, y.prog)) = some (.none, { x.prog with pc := x.prog.pc + 4 }) ∧
       (clusterOf t (slotCore k / 4)).lease =
         if ok then some { slots := h, team := z.team, us := 64 * len } else (clusterOf s (slotCore k / 4)).lease)) ∧
   (∀ (s : State) (cl : Nat) (l : Lease) (k : Nat) (ks : List Nat), s.units.power.opened.isSome → (expiredLeases s).contains cl = true →
     (clusterOf s cl).lease = some l → l.slots = k :: ks → Yields (.leaseExpiry cl) s (fun t =>
       (clusterOf t cl).lease = none ∧ ∀ y, slot? s k = some y → ∃ z, slot? t k = some z ∧ { cause := 0x0C, addr := 0, team := l.team } ∈ z.asyncs)))

/-! ### Loads, stores and atomics -/

/-- R386, R387: each lane of an LD whose address is below 2^56, a multiple of the size and translated performs its load, and the LD
retires, unless the core's own dirty stash bytes of the line wait for a page. While no cache is ahead of memory, each lane's registers d and on then await a posted result with the bytes of memory at
its address, all of the result poisoned where one of its bytes has an uncorrectable error (R57); memory and every other element are as before. R388, R135: the same
for LDL and the scratchpad, at the offset a + sext(off6) × size modulo 2^32. -/
def Obligations.LoadsPostTheirBytes : Prop :=
  (∀ (z : Size) (scope : Scope) (acq ea : Bool) (d a : Reg) (off : BitVec 6) (s : State),
     let n := sizeBytes z
     let f := loadForm (srcPair 0 a ea) [a] z d
     let i : Instr := .ld z scope acq ea d a off
     let va (l : LaneId) : Nat := (BitVec.ofInt 64 (operand2 s f l 0 + off.toInt * n)).toNat
     ready s f = true → i.wellFormed = true → (∀ l ∈ issuing s, va l < 2 ^ 56 ∧ va l % n = 0) →
     ((∀ l ∈ issuing s, awaitsRing s l = false ∧ loadAbsent s l (va l) = none ∧ ∃ pa g, laneTrans s l (va l) .r = .ok pa g) →
       ∃ t, exec i s = .next t ∧ Ran s t 4 (fun l u => loadLane z scope acq d l (va l) u)) ∧
     (Calm s → ∀ pa : LaneId → Nat, (∀ l ∈ issuing s, Hits s l (va l) .r (pa l) ∧ pa l % 128 + n ≤ 128) →
       ∃ t, exec i s = .next t ∧ Advanced s t 4 ∧
         Loaded s t z d (fun l k => memGet s.mem (pa l + k)) (fun l => (List.range n).any (fun k => s.memPoison.contains (pa l + k))))) ∧
  (∀ (z : Size) (team acq ea : Bool) (d a : Reg) (off : BitVec 6) (s : State),
     let n := sizeBytes z
     let f := loadForm [src 0 a ea] [] z d
     let i : Instr := .ldl z team acq ea d a off
     let e (l : LaneId) : Nat := (BitVec.ofInt 32 ((operand s f l 0).toNat + off.toInt * n)).toNat
     ready s f = true → i.wellFormed = true →
     ((∀ l ∈ issuing s, scratchAct s l (e l) n (.done [] 0 none) = .done [] 0 none) →
       ∃ t, exec i s = .next t ∧ Ran s t 4 (fun l u => loadScratch z team acq d l (e l) u)) ∧
     (Calm s → ∀ (k side o : LaneId → Nat) (x : LaneId → Team), (∀ l ∈ issuing s, ScratchAt s l (e l) n (k l) (x l) (side l) (o l)) →
       ∃ t, exec i s = .next t ∧ Advanced s t 4 ∧
         Loaded s t z d (fun l j => scratchGet (x l) (side l) (o l + j))
           (fun l => (List.range n).any (fun j => (x l).bad.contains (scratchKey (side l) (o l + j))))))

/-- R411, R412, R136: each lane of an ST performs its store. While no cache is ahead of memory, no byte but those stored changes in
memory; a lane's core sees its bytes, lowest byte first, but for those that a later lane position stores to; and so does memory,
unless the scope lets the core's L1 keep them (R143); a store of a management core, system software, clears the REF bit of a queue
descriptor by a 1 (Table 10-3, log entry 94). No register changes. R414, R135, R136: the same for STL and the scratchpad. -/
def Obligations.StoresWriteTheirBytes : Prop :=
  (∀ (z : Size) (scope : Scope) (rel ea : Bool) (d a : Reg) (off : BitVec 6) (s : State),
     let n := sizeBytes z
     let f := loadForm (srcPair 0 a ea ++ dataSrcs z d) [a] z d
     let i : Instr := .st z scope rel ea d a off
     let va (l : LaneId) : Nat := (BitVec.ofInt 64 (operand2 s f l 0 + off.toInt * n)).toNat
     let byte (l : LaneId) (k : Nat) : Byte := wordsByte (fun j => operand s f l (2 + j)) k
     ready s f = true → i.wellFormed = true → (∀ l ∈ issuing s, va l < 2 ^ 56 ∧ va l % n = 0) →
     ((∀ l ∈ issuing s, awaitsRing s l = false ∧ (∃ pa g, laneTrans s l (va l) .w = .ok pa g) ∧ releaseAbsent s l scope rel = none) →
       ∃ t, exec i s = .next t ∧ Ran s t 4 (fun l u => storeLane scope rel l (va l) ((List.range n).map (byte l)) u)) ∧
     (Calm s → ∀ (pa : LaneId → Nat) (g : LaneId → Bool),
       (∀ l ∈ issuing s, HitsAt s l (va l) .w (pa l) (g l) ∧ pa l % 128 + n ≤ 128) → OneHome s pa g →
       let left (l : LaneId) (k : Nat) : Byte := (laneBytes s l (pa l) ((List.range n).map (byte l))).getD k 0
       ∃ t, exec i s = .next t ∧ Advanced s t 4 ∧ (∀ l r, lidxOf l < 64 → laneElem t l r = laneElem s l r) ∧
         (∀ b, (∀ l ∈ issuing s, ¬ (pa l ≤ b ∧ b < pa l + n)) → memGet t.mem b = memGet s.mem b) ∧
         (∀ l k, (∀ m, l ≠ .mgmt m) → k < n → left l k = byte l k) ∧
         ∀ ls l ms, issuing s = ls ++ l :: ms → ∀ k, k < n → (∀ m ∈ ms, ¬ (pa m ≤ pa l + k ∧ pa l + k < pa m + n)) →
           laneView t l (g l) (pa l + k) 1 (laneNarrow s l scope) = [left l k] ∧
           (laneNarrow s l scope = false → memGet t.mem (pa l + k) = left l k))) ∧
  (∀ (z : Size) (team rel ea : Bool) (d a : Reg) (off : BitVec 6) (s : State),
     let n := sizeBytes z
     let f := loadForm (src 0 a ea :: dataSrcs z d) [] z d
     let i : Instr := .stl z team rel ea d a off
     let e (l : LaneId) : Nat := (BitVec.ofInt 32 ((operand s f l 0).toNat + off.toInt * n)).toNat
     let byte (l : LaneId) (k : Nat) : Byte := wordsByte (fun j => operand s f l (1 + j)) k
     ready s f = true → i.wellFormed = true →
     ((∀ l ∈ issuing s, scratchAct s l (e l) n (.done [] 0 none) = .done [] 0 none) →
       ∃ t, exec i s = .next t ∧ Ran s t 4 (fun l u => storeScratch team rel l (e l) ((List.range n).map (byte l)) u)) ∧
     (Calm s → ∀ (k side o : LaneId → Nat) (x : LaneId → Team), (∀ l ∈ issuing s, ScratchAt s l (e l) n (k l) (x l) (side l) (o l)) →
       ∃ t, exec i s = .next t ∧ Advanced s t 4 ∧ (∀ l r, lidxOf l < 64 → laneElem t l r = laneElem s l r) ∧
         (∀ b, memGet t.mem b = memGet s.mem b) ∧
         ScratchKept s t (fun k' side' b => ∃ l ∈ issuing s, k l = k' ∧ side l = side' ∧ o l ≤ b ∧ b < o l + n) ∧
         ∀ ls l ms, issuing s = ls ++ l :: ms → ∀ j, j < n →
           (∀ m ∈ ms, ¬ (k m = k l ∧ side m = side l ∧ o m ≤ o l + j ∧ o l + j < o m + n)) →
           (team? t (k l)).map (fun y => scratchGet y (side l) (o l + j)) = some (byte l j)))

/-- R345, R344 and Table 16-4: ATOM and ATOML perform each lane's operation and post the old word. While no cache is ahead of memory
and no two lanes name one word, the word then holds the operation's value, or is as before when a cas does not compare equal or
the word has an uncorrectable error (log entry 34); nothing else changes in memory or in the scratchpad. -/
def Obligations.AtomicsPostTheOldWord : Prop :=
  ∀ (op : AtomOp) (scope : Scope) (team ar : Bool) (d a b : Reg) (s : State),
    let new (old v c : Word) : Word := match op with
      | .add => old + v
      | .min => if old.toInt ≤ v.toInt then old else v
      | .max => if v.toInt ≤ old.toInt then old else v
      | .minu => if old.toNat ≤ v.toNat then old else v
      | .maxu => if v.toNat ≤ old.toNat then old else v
      | .and => old &&& v
      | .or => old ||| v
      | .xor => old ^^^ v
      | .exch => v
      | .cas => if old = v then c else old
      | .fadd => BitVec.ofNat 32 (roundFp fp32 .rne false (numAdd .rne (decodeFp fp32 old.toNat) (decodeFp fp32 v.toNat)).1).1
    let f : Form := { grip := true, srcs := srcPair 0 a false ++ atomSrcs op b, pairs := a :: atomPairs op b, dst := some d, len := 4 }
    let g : Form := { grip := true, srcs := src 0 a false :: atomSrcs op b, pairs := atomPairs op b, dst := some d, len := 4 }
    let va (l : LaneId) : Nat := operand2 s f l 0
    let e (l : LaneId) : Nat := (operand s g l 0).toNat
    ((Instr.atom op scope ar d a b).wellFormed = true → ready s f = true → (∀ l ∈ issuing s, va l < 2 ^ 56 ∧ va l % 4 = 0) →
      ((∀ l ∈ issuing s, awaitsRing s l = false ∧ (∃ pa q, laneTrans s l (va l) .rw = .ok pa q) ∧ releaseAbsent s l scope ar = none) →
        ∃ t, exec (.atom op scope ar d a b) s = .next t ∧
          Ran s t 4 (fun l u => atomLane op scope ar d l (va l) (operand s f l 2) (operand s f l 3) u)) ∧
      (Calm s → (issuing s).Nodup → ∀ (pa : LaneId → Nat) (q : LaneId → Bool),
        (∀ l ∈ issuing s, HitsAt s l (va l) .rw (pa l) (q l) ∧ pa l % 4 = 0) → OneHome s pa q →
        (∀ l ∈ issuing s, ∀ m ∈ issuing s, pa l = pa m → l = m) →
        let old (l : LaneId) (k : Nat) : Byte := memGet s.mem (pa l + k)
        let oldWord (l : LaneId) : Word := old l 3 ++ old l 2 ++ old l 1 ++ old l 0
        let bad (l : LaneId) : Bool := (List.range 4).any (fun k => s.memPoison.contains (pa l + k))
        ∃ t, exec (.atom op scope ar d a b) s = .next t ∧ Advanced s t 4 ∧
          (∀ l ∈ issuing s, ∃ p ∈ t.posted, p.kind = .data ∧ p.dests = [(l, d.toNat, oldWord l, bad l)] ∧
            laneElem t l d.toNat = .empty p.id ∧ ∀ k, k < 4 → memGet t.mem (pa l + k) =
              if bad l then old l k else wordsByte (fun _ => new (oldWord l) (operand s f l 2) (operand s f l 3)) k) ∧
          (∀ c, (∀ l ∈ issuing s, ¬ (pa l ≤ c ∧ c < pa l + 4)) → memGet t.mem c = memGet s.mem c) ∧
          ∀ l r, lidxOf l < 64 → ¬ (l ∈ issuing s ∧ r = d.toNat) → laneElem t l r = laneElem s l r)) ∧
    ((Instr.atoml op team ar d a b).wellFormed = true → ready s g = true →
      ((∀ l ∈ issuing s, scratchAct s l (e l) 4 (.done [] 0 none) = .done [] 0 none) →
        ∃ t, exec (.atoml op team ar d a b) s = .next t ∧
          Ran s t 4 (fun l u => atomScratch op team ar d l (e l) (operand s g l 1) (operand s g l 2) u)) ∧
      (Calm s → (issuing s).Nodup → ∀ (k side o : LaneId → Nat) (x : LaneId → Team),
        (∀ l ∈ issuing s, ScratchAt s l (e l) 4 (k l) (x l) (side l) (o l)) →
        (∀ l ∈ issuing s, ∀ m ∈ issuing s, k l = k m → side l = side m → o l = o m → l = m) →
        let old (l : LaneId) (j : Nat) : Byte := scratchGet (x l) (side l) (o l + j)
        let oldWord (l : LaneId) : Word := old l 3 ++ old l 2 ++ old l 1 ++ old l 0
        let bad (l : LaneId) : Bool := (List.range 4).any (fun j => (x l).bad.contains (scratchKey (side l) (o l + j)))
        ∃ t, exec (.atoml op team ar d a b) s = .next t ∧ Advanced s t 4 ∧
          (∀ l ∈ issuing s, ∃ p ∈ t.posted, p.kind = .data ∧ p.dests = [(l, d.toNat, oldWord l, bad l)] ∧
            laneElem t l d.toNat = .empty p.id ∧ ∀ j, j < 4 → (team? t (k l)).map (fun y => scratchGet y (side l) (o l + j)) = some
              (if bad l then old l j else wordsByte (fun _ => new (oldWord l) (operand s g l 1) (operand s g l 2)) j)) ∧
          (∀ c, memGet t.mem c = memGet s.mem c) ∧
          ScratchKept s t (fun k' side' c => ∃ l ∈ issuing s, k l = k' ∧ side l = side' ∧ o l ≤ c ∧ c < o l + 4) ∧
          ∀ l r, lidxOf l < 64 → ¬ (l ∈ issuing s ∧ r = d.toNat) → laneElem t l r = laneElem s l r))

/-- R145, R355: CLINE.pf brings the whole line into the L2, CLINE.wb writes the line's dirty L1 bytes to memory and leaves its sectors
clean, and CLINE.inv leaves none of the line in the L1 besides; stated for one lane of a wave or a grip context. R139, R142, R413,
R457: STASH.map binds the window of the group's lowest lane to the ranges of its record with no sector filled, STASH.unmap leaves
it unbound, and STASH.flush leaves every sector of the window filled and clean, with its dirty bytes in memory. -/
def Obligations.CacheLinesAndStashWindows : Prop :=
  (∀ (scope : Scope) (ea : Bool) (a : Reg) (off : BitVec 6) (s : State), evenReg a = true → let f := clineForm ea a
     let va (l : LaneId) : Nat := (BitVec.ofInt 64 (operand2 s f l 0 + off.toInt * 4)).toNat
     ready s f = true → (∀ l ∈ issuing s, va l < 2 ^ 56) →
     (∃ t, exec (.clinePf scope ea a off) s = .next t ∧ Ran s t 4 (fun l u => prefetchLane l (va l) u)) ∧
     ((∀ l ∈ issuing s, ∃ pa g, laneTrans s l (va l) .any = .ok pa g) →
       (∃ t, exec (.clineWb scope ea a off) s = .next t ∧ Ran s t 4 (fun l u => clineLane false l (va l) u)) ∧
       (∃ t, exec (.clineInv scope ea a off) s = .next t ∧ Ran s t 4 (fun l u => clineLane true l (va l) u))) ∧
     (∀ l pa, issuing s = [l] → (∀ m, l ≠ .mgmt m) →
       (OneView s → Hits s l (va l) .r pa → ∃ t, exec (.clinePf scope ea a off) s = .next t ∧ t.mem = s.mem ∧
         ((∀ m, paTarget s pa ≠ .peer m) → ∃ x ∈ t.units.l2, x.line = pa / 256 ∧ x.filled = 3) ∧
         ((∃ m, paTarget s pa = .peer m) → t.units.l2 = s.units.l2)) ∧
       (Hits s l (va l) .any pa → let held := (coreOf s (laneCore s l)).l1
         OneView s → (∀ x ∈ held, x.pa % 128 = 0) → (held.map (·.pa)).Nodup →
         (∀ x ∈ held, x.pa / 256 = pa / 256 → ∀ y ∈ s.units.l2, y.line = pa / 256 → y.slice = homeSlice s x.part x.g (pa / 256)) →
         (∃ t, exec (.clineWb scope ea a off) s = .next t ∧
           (coreOf t (laneCore s l)).l1 = held.map (fun x => if x.pa / 256 = pa / 256 then { x with dirty := 0 } else x) ∧
           (∀ x ∈ held, x.pa / 256 = pa / 256 → ∀ i, i < 128 → x.dirty.getLsbD i = true → memGet t.mem (x.pa + i) = x.data.getD i 0) ∧
           ∀ b, (∀ x ∈ held, ∀ i, i < 128 → x.pa / 256 = pa / 256 → x.dirty.getLsbD i = true → b ≠ x.pa + i) →
             memGet t.mem b = memGet s.mem b) ∧
         ∃ t u, exec (.clineInv scope ea a off) s = .next t ∧ exec (.clineWb scope ea a off) s = .next u ∧ t.mem = u.mem ∧
           (coreOf t (laneCore s l)).l1 = held.filter (fun x => x.pa / 256 != pa / 256)))) ∧
  (∀ (ea : Bool) (d a : Reg) (s : State) (l : LaneId) (k : Nat) (x : Team),
     OneGroup s → l ∈ issuing s → (∀ m, l ≠ .mgmt m) → k = laneTeam s l → team? s k = some x →
     (∀ m ∈ issuing s, accessHeld s m = false) →
     let side := laneSide s l
     let fm : Form := { plainForm true with srcs := [srcOne 3 d false, srcOne 0 a ea], dst := some d }
     let fu : Form := { plainForm true with srcs := [srcOne 0 a ea] }
     (ready s fm = true →
       let off := (operand s fm l 0).toNat
       let win := (operand s fm l 1).toNat
       let ga := scratchNum x side off 8
       let so := scratchNum x side (off + 8) 4
       let len := scratchNum x side (off + 12) 4
       off % 16 = 0 → off + 16 ≤ x.scr → win ≤ 7 → so % 128 = 0 → so.testBit 23 = false → len % 128 = 0 → 128 ≤ len → len ≤ 786432 →
       so + len ≤ x.scr → ga < 2 ^ 56 → ga % 128 = 0 → (∀ w ∈ x.windows, w.side = side → w.num ≠ win) →
       (∀ w ∈ x.windows, w.side = side → so + len ≤ w.soff ∨ w.soff + w.len ≤ so) →
       (∀ e ∈ s.late, e.place ≠ some (k, side)) → stashNeed s k x side off = none →
       ∃ t, exec (.stashMap ea d a) s = .next t ∧ Advanced s t 4 ∧ t.mem = s.mem ∧
         (∀ l r, lidxOf l < 64 → laneElem t l r = laneElem s l r) ∧
         (team? t k).map (fun y => (y.windows, y.scratch)) =
           some (x.windows ++ [{ side := side, num := win, gaddr := ga, soff := so, len := len, sectors := [], pages := [] }], x.scratch)) ∧
     (ready s fu = true → let win := (operand s fu l 0).toNat
       win ≤ 7 → stashAbsent s k side (fun w => w.num = win) = none →
       ∃ t, exec (.stashUnmap ea a) s = .next t ∧ Advanced s t 4 ∧ (∀ l r, lidxOf l < 64 → laneElem t l r = laneElem s l r) ∧
         ∃ y, team? t k = some y ∧ ∀ w ∈ y.windows, ¬ (w.side = side ∧ w.num = win)) ∧
     (ready s fu = true → let win := (operand s fu l 0).toNat
       win ≤ 7 → stashAbsent s k side (fun w => w.num = win) = none →
       (∀ w ∈ x.windows, w.side = side → w.num = win → ∀ off ∈ unfilledSectors w, ∀ r, stashNeed s k x side off = some r →
         ∃ pa g, r = .ok pa g) →
       (∃ t, exec (.stashFlush ea a) s = .next t ∧ Advanced s t 4 ∧ ∀ l r, lidxOf l < 64 → laneElem t l r = laneElem s l r) ∧
       ∀ w n q pa, Memory.wf s.mem = true → x.windows = [w] → w.side = side → w.num = win → w.sectors = [(n, q)] →
         s.units.tags = [] → (∀ e ∈ s.work.teams, e.1 ≠ k → e.2.windows = []) → (∀ e ∈ s.units.l2, e.own = [] ∧ e.line ≠ pa / 256) →
         (∀ c, ∀ y ∈ (coreOf s c).l1, y.dirty = 0) →
         Mapped s (x.core + side) (teamPart s k) (w.gaddr + 128 * n) 1 pa [.w] →
         (∀ j, j < w.len / 128 → j ≠ n → ∃ pb, Mapped s (x.core + side) (teamPart s k) (w.gaddr + 128 * j) 1 pb [.r]) →
         (∀ j, sectorFilled w j = decide (j = n)) → q.dirty ≠ 0 →
         ∃ t w', exec (.stashFlush ea a) s = .next t ∧ (team? t k).map (·.windows) = some [w'] ∧
           { w' with sectors := [], pages := [] } = { w with sectors := [], pages := [] } ∧
           (∀ j, j < w.len / 128 ∨ j = n → tget? w'.sectors j = some { dirty := 0 }) ∧
           ∀ b, memGet t.mem b = if pa ≤ b ∧ b < pa + 128 ∧ q.dirty.getLsbD (b - pa) = true
             then scratchGet x side (w.soff + 128 * n + (b - pa)) else memGet s.mem b))

/-! ### Engines: copies, rings, streams, matrices, tasks -/

/-- R192, R194, R356: a CPY of a grip context that passes the checks of R194 puts its eight words at the end of its core's copy queue;
it waits while 64 copies are queued; and a reserved field is cause 0x11. R206, R208, R398: a QSTRM of a grip context that passes
the checks of R208 binds the queue to the stream with nothing popped; it waits for an earlier stream that is not popped out; and a
reserved bit or a count of 0 is cause 0x11. -/
def Obligations.CopiesAndStreamsAreQueued : Prop :=
  (∀ (ea : Bool) (a : Reg) (s : State) (k : Nat) (x : Team),
     let f : Form := { plainForm true with srcs := (List.range 8).map (fun n => srcN 0 a n ea false) }
     let i : Instr := .cpy ea a
     let cmd : List Word := (List.range 8).map (operand s f (.grip k))
     ready s f = true → issuing s = [.grip k] → team? s k = some x → strayCopies s k x.core = false →
     (cmdHasRing cmd = true → stashNeed s k x 0 (cmdHeader cmd) = none) →
     (cmdCheck x cmd = none → (coreOf s x.core).copies.length < 64 →
       ∃ t, exec i s = .next t ∧ Advanced s t 4 ∧ t.mem = s.mem ∧ (∀ l r, lidxOf l < 64 → laneElem t l r = laneElem s l r) ∧
         (coreOf t x.core).copies =
           (coreOf s x.core).copies ++ [{ team := k, cmd := cmd, dest := none, parts := 0, swap := none, moved := false }]) ∧
     (cmdCheck x cmd = none → 64 ≤ (coreOf s x.core).copies.length → exec i s = .next s) ∧
     ((wordAt cmd 0 / 8192 % 8 ≠ 0 ∨ wordAt cmd 6 = 0 ∨ 65536 < wordAt cmd 6 ∨ wordAt cmd 5 % 256 = 128 ∨ cmdLen cmd = 0) →
       (bankReg s (teamPart s k) 0x1E7).getLsbD 0x11 = false → ∃ t, exec i s = .next t ∧ GripStopped s t k 0x11 a.toNat)) ∧
  (∀ (q : BitVec 3) (ea eb : Bool) (a b : Reg) (s : State) (k : Nat) (x : Team),
     let f : Form := { plainForm true with srcs := (List.range 8).map (fun n => srcN 0 a n ea false) ++ [src 1 b eb] }
     let i : Instr := .qstrm q ea eb a b
     let d : List Word := (List.range 8).map (operand s f (.grip k))
     let tgt := (operand s f (.grip k) 8).toNat
     ready s f = true → issuing s = [.grip k] → team? s k = some x →
     (∀ g y, teamGroup s x (tgt % 32) = some (g, y) → qstrmAct s (.grip k) q a d tgt = .done [] 0 none →
       ∃ t, exec i s = .next t ∧ Advanced s t 4 ∧ t.mem = s.mem ∧ (∀ l r, lidxOf l < 64 → laneElem t l r = laneElem s l r) ∧
         ∃ z, group? t g = some z ∧ ∀ n, tget? z.queues n =
           if n = 8 * (tgt / 32 % 2) + q.toNat then some { desc := d, popped := 0, entries := [] } else tget? y.queues n) ∧
     (∀ g y old, teamGroup s x (tgt % 32) = some (g, y) → tget? y.queues (8 * (tgt / 32 % 2) + q.toNat) = some old →
       old.popped < queueTotal old → (∀ c e fl, qstrmAct s (.grip k) q a d tgt ≠ .fault c e fl) → exec i s = .next s) ∧
     ((65536 ≤ wordAt d 1 ∨ 64 ≤ tgt ∨ wordAt d 2 % 65536 = 0 ∨ wordAt d 3 < 65536) →
       (bankReg s (teamPart s k) 0x1E7).getLsbD 0x11 = false → ∃ t, exec i s = .next t ∧ GripStopped s t k 0x11 a.toNat))

/-- R228, R229, R394: MTAKE takes a slate that is free and unwaited or its holder's already, and otherwise waits behind the earlier
waiters; MPASS by the slate's holder passes it to the holder of rank r in its team, or frees it when there is none or r is 0xFFFF,
and by another holder changes nothing. R198, R200, R407, R457: with the header words w 0 (WIDX) to w 5 (FLAGS) of a valid ring
without ERR, SLOTW posts a wait for every lane of its group, SLOTR advances RIDX of a ring that is not empty, SLOTP advances WIDX
of one that is neither full nor ended, and SLOTE sets EOS of one without it; SLOTR of an empty ring is cause 0x12. Nothing else in
the scratchpad changes. -/
def Obligations.SlateAndSlotRingInstructions : Prop :=
  (∀ (rank : BitVec 16) (s : State) (slot gang : Nat),
     ready s (plainForm false) = true → s.focus = .wave slot gang → mustReclaim s slot = false →
     (∀ g x, group? s g = some x → (∃ n, sliceIssues s g n) → x.exited ≠ allLanes x) →
     let q (t : State) : Quad := quadOf t (slotCore slot) (slotQuad slot)
     slotQuad slot < (coreOf s (slotCore slot)).quads.length →
     let goOn (t : State) : Prop := ∀ g n y, sliceIssues s g n → slice? s g n = some y →
       (slice? t g n).map levelOf = some { levelOf y with pc := (levelOf y).pc + 4 }
     (((q s).slate = some (slotHolder s slot) ∨ ((q s).slate = none ∧ (q s).waiters = [])) →
       ∃ t, exec .mtake s = .next t ∧ goOn t ∧ (q t).slate = some (slotHolder s slot)) ∧
     (∀ h, (q s).slate = some h → h ≠ slotHolder s slot →
       ∃ t, exec .mtake s = .next t ∧ (q t).slate = some h ∧ slotHolder s slot ∈ (q t).waiters ∧
         ∀ g n y, sliceIssues s g n → slice? s g n = some y →
           (slice? t g n).map (fun z => (z.wait, levelOf z)) = some (.slate, levelOf y)) ∧
     (OneGroup s → ∀ l x, l ∈ issuing s → team? s (laneTeam s l) = some x →
       ((q s).slate = some (slotHolder s slot) → ∃ t, exec (.mpass rank) s = .next t ∧ goOn t ∧
         (q t).slate = if rank = 0xFFFF then none else (teamHolders s x (slotCore slot) (slotQuad slot))[rank.toNat]?) ∧
       ((q s).slate ≠ some (slotHolder s slot) → ∃ t, exec (.mpass rank) s = .next t ∧ goOn t ∧ q t = q s))) ∧
  (∀ (free ea : Bool) (d a : Reg) (s : State) (l : LaneId) (k : Nat) (x : Team),
     OneGroup s → l ∈ issuing s → (∀ m, l ≠ .mgmt m) → k = laneTeam s l → team? s k = some x → x.scr ≤ 786432 →
     x.windows = [] → (∀ m ∈ issuing s, accessHeld s m = false) →
     let side := laneSide s l
     let fw : Form := { plainForm true with srcs := [srcOne 0 a ea], dst := some d }
     let f : Form := { plainForm true with srcs := [srcOne 0 a ea] }
     let good (off : Nat) : Prop :=
       let w (n : Nat) : Nat := scratchNum x side (off + 4 * n) 4
       off % 64 = 0 ∧ off.testBit 23 = false ∧ off + 64 ≤ x.scr ∧ (∃ j, j ≤ 8 ∧ w 2 = 2 ^ j) ∧ w 3 % 128 = 0 ∧ 128 ≤ w 3 ∧ w 4 % 128 = 0 ∧
         w 5 < 2 ∧ (w 0 + 2 ^ 32 - w 1) % 2 ^ 32 ≤ w 2 ∧ w 4 + w 2 * w 3 ≤ x.scr
     let w (off n : Nat) : Nat := scratchNum x side (off + 4 * n) 4
     let used (off : Nat) : Nat := (w off 0 + 2 ^ 32 - w off 1) % 2 ^ 32
     let sets (i : Instr) (off n v : Nat) : Prop :=
       ∃ t, exec i s = .next t ∧ Advanced s t 4 ∧ (∀ l r, lidxOf l < 64 → laneElem t l r = laneElem s l r) ∧
         (team? t k).map (fun y => scratchNum y side (off + 4 * n) 4) = some v ∧
         ScratchKept s t (fun k' side' b => k' = k ∧ side' = side ∧ off + 4 * n ≤ b ∧ b < off + 4 * n + 4)
     (ready s fw = true → let off := (operand s fw l 0).toNat
       good off → (free = true → w off 5 = 0) →
       ∃ t, exec (.slotw free ea d a) s = .next t ∧ Advanced s t 4 ∧ t.mem = s.mem ∧ ScratchKept s t (fun _ _ _ => False) ∧
         (∃ p ∈ t.posted, p.kind = .slotw off free k side ∧ p.dests = (issuing s).map (fun m => (m, d.toNat, (0 : Word), false)) ∧
           ∀ m ∈ issuing s, laneElem t m d.toNat = .empty p.id) ∧
         ∀ m r, lidxOf m < 64 → ¬ (m ∈ issuing s ∧ r = d.toNat) → laneElem t m r = laneElem s m r) ∧
     (ready s f = true → let off := (operand s f l 0).toNat
       good off →
       (used off ≠ 0 → sets (.slotr ea a) off 1 ((w off 1 + 1) % 2 ^ 32)) ∧
       (used off ≠ w off 2 → w off 5 = 0 → sets (.slotp ea a) off 0 ((w off 0 + 1) % 2 ^ 32)) ∧
       (w off 5 = 0 → sets (.slote ea a) off 5 1) ∧
       (used off = 0 → (∃ g i, l = .wave g i) → trapsFit s 0x12 →
         ∃ t, exec (.slotr ea a) s = .next t ∧ Trapped s t 0x12 (fun _ => off))))

/-- R212, R216, R222, R223, R229, R390: an MMA whose records pass R216, and whose holder holds the slate, empties registers d to d +
15 of its lanes and puts the operation, with its records, at the end of the quadrant's matrix queue; without the slate it waits; a misplaced record
is cause 0x08. R132, R231, R393: MPACK scales and rounds 16 accumulator elements and packs them, element k in byte k, or in
halfword k for BF16. -/
def Obligations.MatrixOperationsAndPackedAccumulators : Prop :=
  (∀ (i32 bq outl unf acc : Bool) (d a b : Reg) (s : State) (slot gang g j : Nat) (x : Team),
     let f : Form := { plainForm false with srcs := [srcOne 0 a false, srcOne 1 b false] }
     let i : Instr := .mma i32 bq outl unf acc d a b
     let l : LaneId := .wave g j
     let ra := (operand s f l 0).toNat
     let rb := (operand s f l 1).toNat
     let rows := (issuing s).map lidxOf
     let mq (t : State) : List MatOp := (quadOf t (slotCore slot) (slotQuad slot)).mq
     i.wellFormed = true → ready s f = true → OneGroup s → l ∈ issuing s → s.focus = .wave slot gang → team? s (laneTeam s l) = some x →
     mustReclaim s slot = false → slotQuad slot < (coreOf s (slotCore slot)).quads.length →
     ((∀ m ∈ issuing s, mmaCheck s m (laneTeam s l) x (laneSide s l) ra rb i32 outl unf rows = none) → holdsSlate s slot = true →
       ∃ t p o, exec i s = .next t ∧ Advanced s t 4 ∧ p ∈ t.posted ∧ p.kind = .matrix ∧
         p.dests = (issuing s).flatMap (fun m => (List.range 16).map (fun n => (m, d.toNat + n, (0 : Word), false))) ∧
         (∀ m ∈ issuing s, ∀ n, n < 16 → laneElem t m (d.toNat + n) = .empty p.id) ∧
         (∀ m r, lidxOf m < 64 → ¬ (m ∈ issuing s ∧ d.toNat ≤ r ∧ r < d.toNat + 16) → laneElem t m r = laneElem s m r) ∧
         mq t = mq s ++ [o] ∧ o.id = p.id ∧ o.group = g ∧ o.d = d.toNat ∧
         (x.windows = [] → o.ra = scratchRead x (laneSide s l) ra 32 ∧ o.rb = scratchRead x (laneSide s l) rb 32) ∧ o.lanes = maskOf rows ∧ o.i32 = i32 ∧
         o.outl = outl ∧ o.unf = unf ∧
         (acc = true → o.accIn = (issuing s).map (fun m => (lidxOf m, (List.range 16).map (fun n => laneElem s m (d.toNat + n)))))) ∧
     ((∀ m ∈ issuing s, mmaCheck s m (laneTeam s l) x (laneSide s l) ra rb i32 outl unf rows = none) → holdsSlate s slot = false →
       exec i s = .next s) ∧
     ((ra % 32 ≠ 0 ∨ ra.testBit 23 = true ∨ x.scr < ra + 32) → trapsFit s 8 →
       ∃ t, exec i s = .next t ∧ Trapped s t 8 (fun _ => ra))) ∧
  (∀ (fmt : PackFmt) (ea eb : Bool) (d a b : Reg) (s : State),
     let f : Form := { plainForm false with
       srcs := (List.range 16).map (fun k => srcN 0 a k ea false) ++ (List.range 16).map (fun k => srcN 1 b k eb false) }
     let elem (l : LaneId) (k : Nat) : Nat × Flags :=
       let m := laneMode s l
       let v := numMul (rd32 m (operand s f l k)) (rd32 m (operand s f l (16 + k)))
       let r : Nat × Flags := match fmt with
         | .e4m3 => roundFp8 e4m3 (modeRm m) (modeSat m) v.1
         | .e5m2 => roundFp8 e5m2 (modeRm m) (modeSat m) v.1
         | .bf16 => roundFp bf16 (modeRm m) (modeFtz m) v.1
         | .i8 => let z := toIntClamped (modeRm m) (-128) 127 v.1; ((BitVec.ofInt 8 z.1).toNat, z.2)
       (r.1, v.2 ||| r.2)
     let fl (l : LaneId) : Flags := (List.range 16).foldl (fun acc k => acc ||| (elem l k).2) 0
     (Instr.mpack fmt ea eb d a b).wellFormed = true → ready s f = true → (∀ l ∈ issuing s, enabledFlags (laneMode s l) (fl l) = 0) →
     ∃ (t : State) (ws : LaneId → Nat → Word), exec (.mpack fmt ea eb d a b) s = .next t ∧
       Completed s t 4 (fun l => (List.range (if fmt = .bf16 then 8 else 4)).map (fun j => (d.toNat + j, ws l j))) fl ∧
       ∀ l ∈ issuing s, ∀ k, k < 16 → let n := if fmt = .bf16 then 2 else 1
         ∀ j, j < n → wordsByte (ws l) (n * k + j) = BitVec.ofNat 8 ((elem l k).1 / 256 ^ j))

/-- R185, R242, R243, R422, stated while no cache is ahead of memory: TSPAWN of a group's lanes starts an enqueue of each lane's
record, in ascending lane position; TSUCC decrements its counter, from 0 to 0xFFFFFFFF, and from 1 starts an enqueue of the record
64 bytes behind it. -/
def Obligations.TaskInstructions : Prop :=
  ∀ (ea : Bool) (a : Reg) (s : State), evenReg a = true → let f := taskForm ea a
    let va (l : LaneId) : Nat := operand2 s f l 0
    ready s f = true → Calm s → (∀ l ∈ issuing s, va l < 2 ^ 56) →
    let enq (l : LaneId) (bs : List Byte) : EnqOp :=
      { part := lanePart s l, group := (match l with | .wave g i => some (g, laneBit i) | _ => none),
        grip := (match l with | .grip k => some k | _ => none), mgmt := (match l with | .mgmt n => some n | _ => none),
        words := wordsOf bs, slot := none, written := false, failed := false }
    (∀ p (pa : LaneId → Nat), (∀ l ∈ issuing s, lanePart s l = p ∧ va l % 64 = 0 ∧ Hits s l (va l) .r (pa l)) →
      ∃ t, exec (.tspawn ea a) s = .next t ∧ Advanced s t 4 ∧ (∀ b, memGet t.mem b = memGet s.mem b) ∧
        (∀ l r, lidxOf l < 64 → laneElem t l r = laneElem s l r) ∧
        (partOf t p).enqs = (partOf s p).enqs ++ (issuing s).map (fun l => enq l (readMem s (pa l) 64))) ∧
    (∀ l pa, issuing s = [l] → va l % 128 = 0 → Hits s l (va l) .rw pa → OneHomeSpan s (lanePart s l) pa 128 →
      let old := readNum s pa 4
      ∃ t, exec (.tsucc ea a) s = .next t ∧ Advanced s t 4 ∧ (∀ l r, lidxOf l < 64 → laneElem t l r = laneElem s l r) ∧
        readNum t pa 4 = (old + 2 ^ 32 - 1) % 2 ^ 32 ∧ (∀ b, ¬ (pa ≤ b ∧ b < pa + 4) → memGet t.mem b = memGet s.mem b) ∧
        (partOf t (lanePart s l)).enqs =
          (partOf s (lanePart s l)).enqs ++ (if old = 1 then [enq l (readMem s (pa + 64) 64)] else []))

/-- R312, R399, R417: TEX and TEXG with a descriptor that keeps Table 18-8 empty d to d + 3 of their group's lanes and put the
operation, with each lane's coordinates, at the end of the core's texture queue; RAYGO with a record that keeps Table 13-11 and a
ring that is valid and has not ended puts the launch at the end of the cluster's ray queue. A misplaced descriptor or record is
cause 0x06. -/
def Obligations.TexturesAndRaysEnterTheirQueues : Prop :=
  ∀ (ea eb : Bool) (d a b : Reg) (s : State) (g j : Nat) (x : Team),
    let l : LaneId := .wave g j
    let side := laneSide s l
    let ft : Form := { plainForm false with srcs := srcPair 0 a ea ++ [srcOne 1 b eb], pairs := [a] }
    let fr : Form := { plainForm false with srcs := [srcOne 0 a ea] }
    let record (off : Nat) : List Word := wordsOf (scratchRead x side off 64)
    let placed (off : Nat) : Prop := off % 64 = 0 ∧ off.testBit 23 = false ∧ off + 64 ≤ x.scr
    OneGroup s → l ∈ issuing s → team? s (laneTeam s l) = some x → x.windows = [] → (∀ m ∈ issuing s, awaitsRing s m = false) →
    ((Instr.tex ea eb d a b).wellFormed = true → ready s ft = true → let off := (operand s ft l 2).toNat
      (placed off → tdOk (record off) = true → ∀ gather, ∃ t p,
        exec (if gather then .texg ea eb d a b else .tex ea eb d a b) s = .next t ∧ Advanced s t 4 ∧ t.mem = s.mem ∧
        p ∈ t.posted ∧ p.kind = .texture ∧
        p.dests = (issuing s).flatMap (fun m => (List.range 4).map (fun k => (m, d.toNat + k, (0 : Word), false))) ∧
        (∀ m ∈ issuing s, ∀ k, k < 4 → laneElem t m (d.toNat + k) = .empty p.id) ∧
        (∀ m r, lidxOf m < 64 → ¬ (m ∈ issuing s ∧ d.toNat ≤ r ∧ r < d.toNat + 4) → laneElem t m r = laneElem s m r) ∧
        (coreOf t (laneCore s l)).tex = (coreOf s (laneCore s l)).tex ++
          [{ id := p.id, group := g, gather := gather, d := d.toNat, desc := record off,
             coords := (issuing s).map (fun m => (lidxOf m, operand s ft m 0, operand s ft m 1)) }]) ∧
      (off % 64 ≠ 0 → trapsFit s 6 → ∃ t, exec (.tex ea eb d a b) s = .next t ∧ Trapped s t 6 (fun _ => off))) ∧
    (ready s fr = true → let off := (operand s fr l 0).toNat
      (placed off → ryOk (record off) x.scr = true → ringValid x side (ryRing (record off)) = true →
        (ringEos x side (ryRing (record off)) = false ∨ ringUsed x side (ryRing (record off)) ≠ 0) →
        ∃ t, exec (.raygo ea a) s = .next t ∧ Advanced s t 4 ∧ t.mem = s.mem ∧ (∀ m r, lidxOf m < 64 → laneElem t m r = laneElem s m r) ∧
        (clusterOf t (laneCore s l / 4)).rays = (clusterOf s (laneCore s l / 4)).rays ++
          [{ group := g, lanes := maskOf ((issuing s).map lidxOf), team := laneTeam s l, side := side, words := record off,
             gaze := none, next := 0 }]) ∧
      (off % 64 ≠ 0 → trapsFit s 6 → ∃ t, exec (.raygo ea a) s = .next t ∧ Trapped s t 6 (fun _ => off)))

/-! ### Raster instructions -/

/-- R180, R297, R303, R420: TILELD and TILEST put the colour pair or the depth of sample x[9:0] in tile slot x[21:16] of the team's tile
memory at the end of the queue of their core's tile back end, TILELD with its destination empty; in its turn a load fills what awaits
it in a lane that has not exited, all of it poisoned where a byte is damaged (R57), and a store writes its bytes, the highest lane position winning. A register with a
reserved bit set is cause 0x07. -/
def Obligations.TileAccesses : Prop :=
  (∀ (depth ea : Bool) (d a : Reg) (s : State) (g j : Nat) (x : Team),
    let l : LaneId := .wave g j
    let fl : Form := { plainForm false with srcs := [src 0 a ea], pairs := (if depth then [] else [d]), dst := (if depth then some d else none) }
    let fs : Form := { fl with srcs := src 0 a ea :: (if depth then [src 3 d false] else [srcN 3 d 0 false false, srcN 3 d 1 false false]) }
    let n : Nat := if depth then 1 else 2
    let place (f : Form) (m : LaneId) : Nat := let v := (operand s f m 0).toNat
      x.scr + 12288 * (v / 65536) + (if depth then 8192 + 4 * (v % 1024) else 8 * (v % 1024))
    let fits (f : Form) (m : LaneId) : Prop := let v := (operand s f m 0).toNat
      v < 2 ^ 22 ∧ v / 1024 % 64 = 0 ∧ v / 65536 < x.tmem / 12288
    let queued (t : State) (o : TileAccess) : Prop :=
      (coreOf t (laneCore s l)).tbe = (coreOf s (laneCore s l)).tbe ++ [.access o] ∧ t.mem = s.mem ∧ ScratchKept s t (fun _ _ _ => False)
    OneGroup s → l ∈ issuing s → team? s (laneTeam s l) = some x → (Instr.tileld depth ea d a).wellFormed = true →
    (ready s fl = true → (∀ m ∈ issuing s, fits fl m) → ∃ t p, exec (.tileld depth ea d a) s = .next t ∧ Advanced s t 4 ∧
      queued t { id := some p.id, group := g, side := laneSide s l, d := d.toNat, words := n,
                 lanes := (issuing s).map (fun m => (lidxOf m, place fl m, [])) } ∧
      p ∈ t.posted ∧ p.kind = .tile ∧ p.dests = (issuing s).flatMap (fun m => (List.range n).map (fun k => (m, d.toNat + k, (0 : Word), false))) ∧
      (∀ m ∈ issuing s, ∀ k, k < n → laneElem t m (d.toNat + k) = .empty p.id) ∧
      ∀ m r, lidxOf m < 64 → ¬ (m ∈ issuing s ∧ d.toNat ≤ r ∧ r < d.toNat + n) → laneElem t m r = laneElem s m r) ∧
    (ready s fs = true → (∀ m ∈ issuing s, fits fs m) → ∃ t, exec (.tilest depth ea d a) s = .next t ∧ Advanced s t 4 ∧
      queued t { id := none, group := g, side := laneSide s l, d := d.toNat, words := n,
                 lanes := (issuing s).map (fun m => (lidxOf m, place fs m,
                   (List.range (4 * n)).map (wordsByte (fun k => operand s fs m (1 + k))))) } ∧
      ∀ m r, lidxOf m < 64 → laneElem t m r = laneElem s m r) ∧
    (ready s fl = true → (∀ m ∈ issuing s, 2 ^ 22 ≤ (operand s fl m 0).toNat) → trapsFit s 7 →
      ∃ t, exec (.tileld depth ea d a) s = .next t ∧ Trapped s t 7 (fun m => (operand s fl m 0).toNat))) ∧
  (∀ (s : State) (core : Nat) (o : TileAccess) (rest : List TileOp) (y : Group) (x : Team),
    (coreOf s core).tbe = .access o :: rest → group? s o.group = some y → y.exited ≠ allLanes y → team? s y.team = some x → GoesOn s x →
    (o.lanes.map (·.1)).Nodup → (∀ e ∈ o.lanes, e.1 < 64 ∧ y.exited.getLsbD e.1 = false) →
    (∀ id, o.id = some id → o.d + o.words ≤ 56 → Yields (.pixelCommit core) s (fun t => (coreOf t core).tbe = rest ∧
      ScratchKept s t (fun _ _ _ => False) ∧ ∀ e ∈ o.lanes, ∀ k, k < o.words →
        laneElem s (.wave o.group e.1) (o.d + k) = .empty id → laneElem t (.wave o.group e.1) (o.d + k) =
          .full (BitVec.ofNat 32 (scratchNum x o.side (e.2.1 + 4 * k) 4)) (scratchBad x o.side e.2.1 (4 * o.words)))) ∧
    (o.id = none → (∀ e ∈ o.lanes, e.2.1 + e.2.2.length ≤ 2 ^ 24) → Yields (.pixelCommit core) s (fun t => (coreOf t core).tbe = rest ∧
      ScratchKept s t (fun k side b => k = y.team ∧ side = o.side ∧ ∃ e ∈ o.lanes, e.2.1 ≤ b ∧ b < e.2.1 + e.2.2.length) ∧
      ∀ es e fs, o.lanes = es ++ e :: fs → ∀ i, i < e.2.2.length →
        (∀ q ∈ fs, ¬ (q.2.1 ≤ e.2.1 + i ∧ e.2.1 + i < q.2.1 + q.2.2.length)) →
        (team? t y.team).map (fun z => scratchGet z o.side (e.2.1 + i)) = some (e.2.2.getD i 0))))

/-- R284, R285, R359: in a mesh group EMITV fills vertex slot a (0 to 63) with registers b to b + 3 + NATTR, and EMITP primitive slot
a (0 to 125) with the vertex numbers and the view mask of b; of lanes that name one slot the last wins. A register range that
passes v55 and a slot out of range are cause 0x11, and so is a vertex number above 63. -/
def Obligations.MeshInstructionsFillSlots : Prop :=
  ∀ (ea eb : Bool) (a b : Reg) (s : State) (g : Nat) (x : Group) (m : Mesh) (p : Pass),
    OneGroup s → (∀ l ∈ issuing s, (∃ i, l = .wave g i) ∧ isMeshLane s l = true ∧ lanePass s l = some p) →
    group? s g = some x → x.mesh = some m →
    let n := rrNattr p.words
    let fv : Form := { plainForm false with srcs := src 0 a ea :: (List.range (4 + n)).map (fun k => srcN 1 b k eb false) }
    let fp : Form := { plainForm false with srcs := [src 0 a ea, src 1 b eb] }
    let slot (f : Form) (l : LaneId) : Nat := (operand s f l 0).toNat
    let vert (l : LaneId) (k : Nat) : Nat := (operand s fp l 1).toNat / 256 ^ k % 256
    let done (i : Instr) (m' : Mesh) : Prop := ∃ t y, exec i s = .next t ∧ Advanced s t 4 ∧ t.mem = s.mem ∧
      (∀ l r, lidxOf l < 64 → laneElem t l r = laneElem s l r) ∧ group? t g = some y ∧ y.mesh = some m'
    let last (f : Form) (l : LaneId) : Prop := ∃ ls ms, issuing s = ls ++ l :: ms ∧ ∀ k ∈ ms, slot f k ≠ slot f l
    (ready s fv = true → b.toNat + 3 + n ≤ 55 → (∀ l ∈ issuing s, slot fv l ≤ 63) → ∃ m', done (.emitv ea eb a b) m' ∧ m'.prims = m.prims ∧
      (∀ l, last fv l → tget? m'.verts (slot fv l) = some ((List.range (4 + n)).map (fun k => operand s fv l (1 + k)))) ∧
      ∀ k, (∀ l ∈ issuing s, slot fv l ≠ k) → tget? m'.verts k = tget? m.verts k) ∧
    (ready s fp = true → (∀ l ∈ issuing s, slot fp l ≤ 125 ∧ ∀ k, k < 3 → vert l k ≤ 63) → ∃ m', done (.emitp ea eb a b) m' ∧
      m'.verts = m.verts ∧
      (∀ l, last fp l → tget? m'.prims (slot fp l) = some { v0 := vert l 0, v1 := vert l 1, v2 := vert l 2, views := vert l 3 }) ∧
      ∀ k, (∀ l ∈ issuing s, slot fp l ≠ k) → tget? m'.prims k = tget? m.prims k) ∧
    (ready s (plainForm false) = true → 55 < b.toNat + 3 + n → trapsFit s 0x11 →
      ∃ t, exec (.emitv ea eb a b) s = .next t ∧ Trapped s t 0x11 (fun _ => b.toNat)) ∧
    (ready s fp = true → (∀ l ∈ issuing s, 125 < slot fp l) → trapsFit s 0x11 →
      ∃ t, exec (.emitp ea eb a b) s = .next t ∧ Trapped s t 0x11 (fun _ => a.toNat)) ∧
    (ready s fp = true → (∀ l ∈ issuing s, slot fp l ≤ 125 ∧ 63 < vert l 0) → trapsFit s 0x11 →
      ∃ t, exec (.emitp ea eb a b) s = .next t ∧ Trapped s t 0x11 (fun _ => b.toNat))

/-- R291, R346: in a pixel-shader group ATTR gives 0 for an attribute that the pass does not have, the raw bits of vertex 0 for .flat,
the canonical NaN when a vertex's attribute is not finite, a vertex's own value at its position, and else a value within the bound
of R291 of the exact interpolation, or that value correctly rounded (Config.attrResult, log entry 14). R292, R301, R358, R396,
R427: in a pixel-shader group PXOUT records colour and blend code; ZOUT, with PSZOUT, records the clamped depth as ZFUNC limits
it; DISC, with PSDISC, makes exactly the lanes whose register is not 0 exit, and the others go on. Without its bit of the pass
DISC traps in those lanes and ZOUT in every lane, with cause 0x0F; outside a pixel-shader group they are illegal. -/
def Obligations.PixelShaderInstructions : Prop :=
  (∀ (kind : AttrKind) (n : BitVec 4) (d : Reg) (s : State),
     ready s { plainForm false with dst := some d } = true → (∀ l ∈ issuing s, isPixelLane s l = true) →
     ∃ (t : State) (r : LaneId → Word), exec (.attr kind n d) s = .next t ∧ Completed s t 4 (one d r) noFlags ∧
       ∀ l ∈ issuing s, ∀ p x, lanePass s l = some p → lanePix s l = some x →
         let ws := x.geom.attrs.map (fun a => a.getD n.toNat 0)
         let at_ := samplePos p x.geom.view (x.i0 + lidxOf l % 8) (x.j0 + lidxOf l / 8)
         let exact_ := attrExact (kind = .persp) x.geom (ws.map rat) at_.1 at_.2
         (rrNattr p.words ≤ n.toNat → r l = 0) ∧
         (n.toNat < rrNattr p.words →
           (kind = .flat → r l = ws.getD 0 0) ∧
           (kind ≠ .flat → (¬ ∀ w ∈ ws, isFinite w = true) → r l = 0x7FC00000) ∧
           (kind ≠ .flat → (∀ w ∈ ws, isFinite w = true) → match attrVertex x.geom at_.1 at_.2 with
             | some v => r l = ws.getD v 0
             | none => r l = f32 exact_ ∨ ∃ v, ratOf (r l) = some v ∧ ∃ e u : Nat, ulp32 exact_.num.natAbs exact_.den = (e, u) ∧
                 ratAbs (v - exact_) ≤ 2 * mkRat e u + (ws.map rat).foldl (fun m a => max m (ratAbs a)) 0 / 16777216))) ∧
  (∀ (blend ea : Bool) (a : Reg) (s : State), (∀ l ∈ issuing s, ∃ g i, l = .wave g i) →
     let fx : Form := { plainForm false with srcs := srcPair 0 a ea, pairs := [a] }
     let f : Form := { plainForm false with srcs := [src 0 a ea] }
     let leaves (t : State) : Prop := Advanced s t 4 ∧ t.mem = s.mem ∧ ∀ l r, lidxOf l < 64 → laneElem t l r = laneElem s l r
     let limited (l : LaneId) (interp : Word) : Word :=
       let o := clampUnit (operand s f l 0)
       let z := rrZfunc (laneRecord s l)
       if z = 1 ∨ z = 3 then (if rat o < rat interp then interp else o)
       else if z = 4 ∨ z = 6 then (if rat interp < rat o then interp else o) else o
     ((∀ l ∈ issuing s, isPixelLane s l = true) →
       (ready s fx = true → ∃ t, exec (.pxout blend ea a) s = .next t ∧ leaves t ∧
         ∀ g i x px, .wave g i ∈ issuing s → group? s g = some x → x.pix = some px → ∃ y py, group? t g = some y ∧ y.pix = some py ∧
           (tget? py.outs i).map (·.colour) = some (some (operand s fx (.wave g i) 0, operand s fx (.wave g i) 1, blend)) ∧
           (tget? py.outs i).bind (·.depth) = (tget? px.outs i).bind (·.depth)) ∧
       (ready s f = true → (∀ l ∈ issuing s, rrPszout (laneRecord s l) = true) → ∃ t, exec (.zout ea a) s = .next t ∧ leaves t ∧
         ∀ g i x px, .wave g i ∈ issuing s → group? s g = some x → x.pix = some px → ∃ y py, group? t g = some y ∧ y.pix = some py ∧
           (tget? py.outs i).bind (·.depth) = some (limited (.wave g i) (tgetD px.depths i 0)) ∧
           (tget? py.outs i).bind (·.colour) = (tget? px.outs i).bind (·.colour)) ∧
       (ready s f = true → (∀ l ∈ issuing s, rrPszout (laneRecord s l) = false) → trapsFit s 0x0F →
         ∃ t, exec (.zout ea a) s = .next t ∧ Trapped s t 0x0F (fun _ => 0)) ∧
       (ready s f = true → (∀ l ∈ issuing s, rrPsdisc (laneRecord s l) = true) → ∃ t, exec (.disc ea a) s = .next t ∧
         (∀ g x, group? s g = some x → ∃ y, group? t g = some y ∧ ∀ i, i < 64 → (y.exited.getLsbD i = true ↔
           x.exited.getLsbD i = true ∨ (.wave g i ∈ issuing s ∧ operand s f (.wave g i) 0 ≠ 0))) ∧
         ∀ g n x, sliceIssues s g n → slice? s g n = some x → issuingIn s g n (fun l => operand s f l 0 = 0) ≠ 0 →
           (slice? t g n).map (fun y => ((levelOf y).pc, (levelOf y).running)) =
             some ((levelOf x).pc + 4, issuingIn s g n (fun l => operand s f l 0 = 0))) ∧
       (ready s f = true → (∀ l ∈ issuing s, rrPsdisc (laneRecord s l) = false) → trapsFit s 0x0F →
         ∃ t, exec (.disc ea a) s = .next t ∧ TrappedIn s t 0x0F (fun l => operand s f l 0 ≠ 0) (fun _ => 0) noFlags)) ∧
     (ready s fx = true → (∀ l ∈ issuing s, isPixelLane s l = false) → trapsFit s 1 → ∀ c : Code, encode (.pxout blend ea a) = some c →
       ∃ t, exec (.pxout blend ea a) s = .next t ∧ Trapped s t 1 (fun _ => c.zext.toNat)))

/-! ### Device steps: results, causes, pages and engines -/

/-- R56 to R58, R57, R361, R262, R229, R209, R207: a posted result fills the elements of lanes that have not exited and still await it; a
pending asynchronous cause traps the slice of its wave at a boundary that the delivery names, with TDONE 0 and its running set in TLANES;
the first waiter for a free slate
obtains it; and the next entry of an operand stream is fetched into its queue. -/
def Obligations.ResultsCausesSlateAndStreamEntriesArrive : Prop :=
  (∀ (s : State) (p : Posted), p ∈ s.posted → (∀ q ∈ s.posted, q.id = p.id → q = p) → p.kind = .data →
    (∀ d ∈ p.dests, lidxOf d.1 < 64) → Yields (.postedResultArrival p.id) s (fun t =>
      (∀ q ∈ t.posted, q.id ≠ p.id) ∧
      ∀ g i r v bad x, (LaneId.wave g i, r, v, bad) ∈ p.dests → r < 56 → group? s g = some x → x.exited.getLsbD i = false →
        (∀ d ∈ p.dests, d.1 = .wave g i → d.2.1 = r → d = (.wave g i, r, v, bad)) →
        laneElem t (.wave g i) r = if laneElem s (.wave g i) r = .empty p.id then .full v bad else laneElem s (.wave g i) r)) ∧
  (∀ (s : State) (k g n : Nat) (y : Slot) (c : AsyncCause) (cs : List AsyncCause) (x : Slice) (z : Group),
    slot? s k = some y → y.asyncs = c :: cs →
    (asyncSlices s (asyncSlots s k c.cause)).find? (fun e => (e.1, e.2.1) = (g, n)) = some (g, n, x) → slice? s g n = some x →
    group? s g = some z → (bankReg s (teamPart s z.team) 0x1E7).getLsbD c.cause = false → tvec s (teamPart s z.team) ≠ 0 →
    framesUsed z n < 4 → Yields (.asynchronousCauseDelivery ⟨k, g, n⟩) s (fun t =>
      (slot? t k).map (·.asyncs) = some cs ∧ ∃ w f, slice? t g n = some w ∧ w.frames = [f] ∧ w.prog = x.prog ∧ f.cause = c.cause ∧
        f.pc = x.prog.pc ∧ f.lanes = x.prog.running ∧ f.tlanes = x.prog.running ∧ f.tdone = 0 ∧
        f.level.pc = tvec s (teamPart s z.team) ∧ f.level.running = x.prog.running ∧
        ∀ i, x.prog.running.getLsbD i = true → tget? f.taddr i = some c.addr)) ∧
  (∀ (s : State) (core quad h : Nat) (hs : List Nat), (quadOf s core quad).slate = none → (quadOf s core quad).waiters = h :: hs →
    slotHolder s h = h → slotCore h = core → slotQuad h = quad → quad < (coreOf s core).quads.length →
    Yields (.slateObtained core quad) s (fun t =>
      (quadOf t core quad).slate = some h ∧ (quadOf t core quad).waiters = hs.filter (fun j => j ≠ h) ∧
      ∀ g x n y, group? s g = some x → (∃ k ∈ x.seats, slotHolder s k = h) → slice? s g n = some y →
        (slice? t g n).map (fun z => (z.wait, levelOf z)) = some (if y.wait = .slate then .none else y.wait, levelOf y))) ∧
  (∀ (s : State) (g queue : Nat) (x : Group) (q : Queue) (m : Team), group? s g = some x → tget? x.queues queue = some q →
    team? s x.team = some m → m.windows = [] → x.status ≠ .swapped → (∀ y ∈ x.slices, ∀ b ∈ slicePopsOf y, b.due = none) →
    q.entries.length < 8 → q.popped + q.entries.length < queueTotal q → Yields (.streamEntryFetch g queue) s (fun t =>
      ∃ e : List Elem, (group? t g).bind (fun y => tget? y.queues queue) = some { q with entries := q.entries ++ [e] } ∧
        e.length = 32 ∧ ∀ p, p < 32 →
          let a := streamAddr q.desc (q.popped + q.entries.length) p
          let side := if a / 2 ^ 23 % 2 = 1 then 1 else 0
          let off := if a / 2 ^ 23 % 2 = 1 then a - 2 ^ 23 else a
          e[p]? = some (.full (BitVec.ofNat 32 (scratchNum m side off 4)) (scratchBad m side off 4))))

/-- R140, R158, R159, R162, R180: with no earlier operation in its partition's queue, an unfilled sector of a bound window takes the
bytes of memory; a page read whose completion has come ends in its turn: one that succeeds leaves its block in the frame and a normal leaf, and its waiters go on; one that fails raises an event of
type 3 and its waiters record the failure; a swapped-out group without an outstanding read is placed and runs; and a copy-on-write gives
the leaf a frame of its own, the last sharer's, or one to which it copies the page before COUNT and the entry change. The steps are the model's own events (log entries 1, 22 and 62). -/
def Obligations.PagesAndStashSectorsAreServed : Prop :=
  (∀ (s : State) (k sector pa : Nat) (x : Team) (w : Window), team? s k = some x → x.windows = [w] → 128 * sector < w.len →
    tget? w.sectors sector = none → sectorFilled w sector = false → (partOf s (teamPart s k)).reads = [] → s.units.tags = [] → (∀ y ∈ s.units.l2, y.own = []) →
    (∀ y ∈ (coreOf s (x.core + w.side)).l1, y.dirty = 0) →
    Mapped s (x.core + w.side) (teamPart s k) (w.gaddr + 128 * sector) 1 pa [.r] →
    Yields (.stashFill k w.side w.num sector) s (fun t => MemKept s t ∧
      ScratchIs t k w.side (w.soff + 128 * sector) (readMem s pa 128) ∧
      ∃ y v, team? t k = some y ∧ y.windows = [v] ∧ tget? v.sectors sector = some { dirty := 0 } ∧ tget? v.pages sector = some pa)) ∧
  (∀ (s : State) (p entry : Nat) (sct sc : Byte) (block : List Byte) (r : PageRead), s.units.ready.getLsbD 6 = true →
    ((List.range 16).findSome? (fun p =>
      ((partOf s p).reads.find? (fun r => r.entry = entry && !r.cow && r.result.isNone)).map (fun r => (p, r)))) = some (p, r) →
    (∀ q qs, (partOf s p).reads = q :: qs → q.id ≠ r.id → q.cow = false → q.result = none →
      Yields (.nvmeReadCompletion entry sct sc block) s (fun t => MemKept s t ∧ (partOf t p).reads =
        (partOf s p).reads.map (fun z => if z.id = r.id then { z with result := some (sct, sc, block) } else z))) ∧
    ((partOf s p).reads.head? = some r → NoWindows s → TeamsGoOn s → Yields (.nvmeReadCompletion entry sct sc block) s (fun t =>
      (∀ q ∈ (partOf t p).reads, q.id ≠ r.id) ∧
      (∀ g x, group? s g = some x → ∃ y, group? t g = some y ∧ r.id ∉ y.pages ∧
        (¬ (sct = 0 ∧ sc = 0) → r.id ∈ x.pages → entry ∈ y.failed)) ∧
      (Memory.wf s.mem = true → sct = 0 ∧ sc = 0 → block.length = 4096 → readNum s entry 8 = r.value.toNat → apart entry 8 r.frame 4096 →
        memGet t.mem = memWith (memWith (memGet s.mem) r.frame block) entry (leBytes 8 (r.frame + r.value.toNat / 8 % 16 * 8 + 5))) ∧
      (¬ (sct = 0 ∧ sc = 0) → ∃ es, t.units.events =
        s.units.events ++ es ++ [eventRec 3 p 0 r.port 0 sct.toNat sc.toNat r.nsid 0 r.lba])))) ∧
  (∀ (s : State) (g : Nat) (x : Group) (m : Team), group? s g = some x → team? s x.team = some m → x.status = .swapped →
    x.pages = [] → m.stopped = false →
    ((∀ k ∈ x.seats, k < 3072) → Yields (.swappedGroupPlacement g) s (fun t =>
      (group? t g).map (fun y => (y.status, y.seats, y.slices)) = some (.run, x.seats, x.slices))) ∧
    ∀ k j, x.seats = [k] → 3072 ≤ k → x.ended = false → groupsAwait s ((slotGroups s k).map (·.1)) = false →
      returnSlots s (slotCore k) [k] = some [j] →
      Yields (.swappedGroupPlacement g) s (fun t =>
        (group? t g).map (fun y => (y.status, y.seats, y.slices)) = some (.run, [j], x.slices))) ∧
  (∀ (s : State) (p entry : Nat) (r : PageRead), Memory.wf s.mem = true → readInProgress s entry true = some (p, r) →
    (partOf s p).reads.head? = some r → s.late = [] → s.units.tags = [] → NoWindows s → TeamsGoOn s →
    let e := r.value.toNat
    let d := 64 * (e / 64 % 2 ^ 46)
    let frame := readNum s d 8 / 4096 % 2 ^ 40 * 4096
    let count := readNum s (d + 8) 4
    let leaf (f : Nat) : List Byte := leBytes 8 (f + 0x200 + e / 32 % 2 * 0x40 + e / 16 % 2 * 0x20 + 0x1D)
    (r.taken = false → readNum s d 8 % 2 = 1 → count = 1 → readNum s entry 8 = e → apart entry 8 d 12 →
      Yields (.copyOnWriteCompletion entry) s (fun t =>
        readMem t entry 8 = leaf frame ∧ readNum t (d + 8) 4 = 0 ∧ readNum t d 8 % 2 = 0 ∧ ∀ q ∈ (partOf t p).reads, q.id ≠ r.id)) ∧
    (∀ f u, r.taken = false → readNum s d 8 % 2 = 1 → count ≠ 1 → takeFrame s p = some (f, u) → apart f 4096 frame 4096 →
      apart (poolHead s p) 4 frame 4096 → apart (poolHead s p) 4 d 8 → Yields (.copyOnWriteCompletion entry) s (fun t =>
        readMem t f 4096 = readMem s frame 4096 ∧ (partOf t p).reads.head? = some { r with frame := f, taken := true })) ∧
    (r.taken = true → count ≠ 1 → readNum s entry 8 = e → apart (d + 8) 4 entry 8 → Yields (.copyOnWriteCompletion entry) s (fun t =>
      readMem t entry 8 = leaf r.frame ∧ readNum t (d + 8) 4 = (count + 2 ^ 32 - 1) % 2 ^ 32 ∧ ∀ q ∈ (partOf t p).reads, q.id ≠ r.id)))

/-- R195, R201: the copy at the head of a core's queue that names no ring and asks for no conversion moves its row between memory and
the scratchpad of a team that goes on, and leaves the queue; one that names a ring and has moved its bytes publishes: WIDX rises by one,
and EOS is set when the command asks for it. A valid ring without a free slot is waited for. -/
def Obligations.CopiesMoveAndPublish : Prop :=
  (∀ (s : State) (core pa : Nat) (o : CopyOp) (rest : List CopyOp) (x : Team),
    let side := cmdSoff o.cmd / 2 ^ 23 % 2
    let off := cmdSoff o.cmd - side * 2 ^ 23
    let n := cmdLen o.cmd
    (coreOf s core).copies = o :: rest → o.moved = false → team? s o.team = some x → x.windows = [] → GoesOn s x →
    o.dest = none → o.parts = 0 → o.swap = none →
    s.units.tags = [] → (∀ e ∈ s.work.teams, e.2.windows = []) → (∀ y ∈ s.units.l2, y.own = []) → cmdHasRing o.cmd = false → cmdConv o.cmd = 0 → cmdBlk o.cmd = false →
    cmdRows o.cmd = 1 → cmdDdup o.cmd = false → n % 4 = 0 → 0 < n → off + n ≤ 786432 →
    (cmdDir o.cmd = 0 → Mapped s core (teamPart s o.team) (cmdGaddr o.cmd) n pa [.r] →
      Yields (.copyOperation core) s (fun t => (coreOf t core).copies = rest ∧ MemKept s t ∧
        ScratchIs t o.team side off (readMem s pa n) ∧
        ScratchKept s t (fun k side' b => k = o.team ∧ side' = side ∧ off ≤ b ∧ b < off + n))) ∧
    (cmdDir o.cmd = 1 → Memory.wf s.mem = true → Mapped s core (teamPart s o.team) (cmdGaddr o.cmd) n pa [.w] →
      OneHomeSpan s (teamPart s o.team) pa n →
      Yields (.copyOperation core) s (fun t => (coreOf t core).copies = rest ∧
        memGet t.mem = memWith (memGet s.mem) pa (scratchRead x side off n) ∧ ScratchKept s t (fun _ _ _ => False)))) ∧
  (∀ (s : State) (core : Nat) (o : CopyOp) (rest : List CopyOp) (x : Team),
    let h := cmdHeader o.cmd
    let flags := scratchNum x 0 (h + 20) 4
    (coreOf s core).copies = o :: rest → o.moved = true → team? s o.team = some x → x.windows = [] → GoesOn s x →
    cmdHasRing o.cmd = true → h + 64 ≤ 786432 →
    (ringValid x 0 h = false ∨ ringUsed x 0 h < ringCount x 0 h →
      Yields (.copyRingPublication core) s (fun t => (coreOf t core).copies = rest ∧
        ScratchIs t o.team 0 h (leBytes 4 ((scratchNum x 0 h 4 + 1) % 2 ^ 32)) ∧
        ScratchIs t o.team 0 (h + 20) (leBytes 4 (if cmdEos o.cmd then flags ||| 1 else flags)))) ∧
    (ringValid x 0 h = true → ringCount x 0 h ≤ ringUsed x 0 h → exec (.copyRingPublication core) s = .next s))

/-- R222 to R226, R418, R419, R313 to R315: the operation at the head of a matrix or a texture queue leaves it and fills the elements
that await it with its results, but for lanes that have exited; a ray launch writes the records of its next rays into the free slot of its ring and publishes it,
and leaves its queue, setting EOS, when no ray is left. -/
def Obligations.MatrixTextureAndRayOperationsComplete : Prop :=
  (∀ (s : State) (core quad : Nat) (o : MatOp) (rest : List MatOp) (x : Group) (m : Team),
    (quadOf s core quad).mq = o :: rest → quad < (coreOf s core).quads.length → group? s o.group = some x → x.exited ≠ allLanes x →
    team? s x.team = some m → m.windows = [] → (∀ e ∈ o.accIn, ∀ v ∈ e.2, ∃ w q, v = .full w q) →
    Yields (.matrixOperation core quad) s (fun t =>
      ((quadOf t core quad).mq).map (·.id) = (rest.map (·.id)).filter (fun n => n ≠ o.id) ∧
      ∀ r ∈ (mmaResults m o).1, o.d + r.2.1 < 56 → laneExited s o.group r.1 = false →
        laneElem t (.wave o.group r.1) (o.d + r.2.1) =
          if laneElem s (.wave o.group r.1) (o.d + r.2.1) = .empty o.id then .full r.2.2.1 r.2.2.2
          else laneElem s (.wave o.group r.1) (o.d + r.2.1))) ∧
  (∀ (s : State) (core : Nat) (o : TexOp) (rest : List TexOp) (x : Group),
    (coreOf s core).tex = o :: rest → group? s o.group = some x → x.exited ≠ allLanes x → (o.coords.map (·.1)).Nodup →
    (∀ c ∈ o.coords, c.1 < 64 ∧ ∀ e ∈ texFetched o.desc o.gather c.2.1 c.2.2, e.1 < 2 ^ 56 ∧
      ∃ pa, Mapped s core (teamPart s x.team) e.1 (tdSize o.desc) pa [.r]) →
    Yields (.textureOperation core) s (fun t => (coreOf t core).tex = rest ∧ ∀ c ∈ o.coords, ∀ k w, o.d + k < 56 → laneExited s o.group c.1 = false →
      (texResult o.desc o.gather (texFetched o.desc o.gather c.2.1 c.2.2)
        (fun va => spanRead s core (teamPart s x.team) va (tdSize o.desc) .r))[k]? = some w →
      laneElem s (.wave o.group c.1) (o.d + k) = .empty o.id → ∃ bad, laneElem t (.wave o.group c.1) (o.d + k) = .full w bad)) ∧
  (∀ (s : State) (cl : Nat) (o : RayOp) (rest : List RayOp) (m : Team) (view mat gz : List Byte) (rs : List (List Byte)) (next : Nat),
    let core := m.core + o.side
    let p := teamPart s o.team
    let h := ryRing o.words
    let size := ringSize m o.side h
    let gaze := o.gaze.getD (clampGaze gz)
    let slot := ringBase m o.side h + ringWidx m o.side h % ringCount m o.side h * size
    (clusterOf s cl).rays = o :: rest → s.units.tags = [] → team? s o.team = some m → m.windows = [] → GoesOn s m → m.scr ≤ 786432 →
    ringValid m o.side h = true → ringErr m o.side h = false → ringEos m o.side h = false →
    rayRead s cl core p (dwordAt o.words 0) 128 = .ok view → rayRead s cl core p (dwordAt o.words 4) 64 = .ok mat →
    rayRead s cl core p (dwordAt o.words 2) 8 = .ok gz →
    rayRecords s cl core p o (wordsOf view) (wordsOf mat) (gaze.1.toInt, gaze.2.toInt) (ryIw o.words * ryJh o.words) o.next (size / 32) =
      .ok (rs, next) →
    (rs = [] → Yields (.rayLaunch cl) s (fun t => (clusterOf t cl).rays = rest ∧
      ScratchIs t o.team o.side (h + 20) (leBytes 4 (scratchNum m o.side (h + 20) 4 ||| 1)))) ∧
    (rs ≠ [] → ringUsed m o.side h < ringCount m o.side h →
      apart h 64 (ringBase m o.side h) (ringCount m o.side h * size) → Yields (.rayLaunch cl) s (fun t =>
        ScratchIs t o.team o.side slot (rs.flatten.take size) ∧
        ScratchIs t o.team o.side h (leBytes 4 ((scratchNum m o.side h 4 + 1) % 2 ^ 32)))))

/-! ### Device steps: tasks and raster passes -/

/-- R236, R237, R241, R243, R247, R248, R422: the dispatcher of a core starts a record's first team there, its groups' lanes at the
kernel with the registers that the record gives; an enqueue with a slot writes its record there and publishes it; and a launch
whose teams have ended is complete, its counter decremented. The steps are the model's own events (log entry 1). -/
def Obligations.TasksAreEnqueuedDispatchedAndCompleted : Prop :=
  (∀ (s : State) (core p q head header : Nat) (w : List Word) (seats : List (List Nat × Nat)),
    let u := refreshQueues s
    let n := s.work.nextId
    s.units.ready.getLsbD 3 = true → s.units.ready.getLsbD 4 = true → s.work.passes = [] → runningParts u = [p] → q < 16 →
    headState u p q core = .place head none w header seats → (∀ j, j < 16 → j ≠ q → headState u p j core = .idle) →
    (clusterOf s (core / 4)).gate = .on → Yields (.taskDispatch core) s (fun t =>
      (∃ y, team? t (n + 1) = some y ∧ y.launch = n ∧ y.no = 0 ∧ y.core = core ∧ (y.tx, y.ty, y.tz) = trCoord w 0 ∧ y.pair = trPair w ∧
        y.scr = trScr w ∧ y.groups = (List.range seats.length).map (n + 2 + ·)) ∧
      ∀ j e, seats[j]? = some e → ∃ z, group? t (n + 2 + j) = some z ∧ z.team = n + 1 ∧ z.gidx = j ∧ z.width = trWidth w ∧ z.seats = e.1 ∧
        (∀ m, m < trWidth w / 4 → (slice? t (n + 2 + j) m).map (·.prog) =
          some { pc := BitVec.ofNat 56 (trEntry w + 8), running := sliceMask m, pending := [], parked := [] }) ∧
        ∀ i r v, i < trWidth w → (r, v) ∈ [(0, 2), (1, 3), (2, 12), (3, 13), (4, 14), (5, 15)] →
          laneElem t (.wave (n + 2 + j) i) r = .full (w.getD v 0) false)) ∧
  (∀ (s : State) (n k pa pb va : Nat) (e : EnqOp) (es : List EnqOp),
    let d := parseDesc false (readMem s pa 64)
    s.units.ready.getLsbD 4 = true → Memory.wf s.mem = true → s.units.tags = [] → (∀ x ∈ s.work.teams, x.2.windows = []) →
    (partOf s n).enqs = e :: es → e.part = n → e.slot = some k → e.failed = false → e.written = false → e.words.length = 16 → trClass e.words ≤ 15 →
    descAddr s n false (trClass e.words) = some va → Mapped s 0 n va 64 pa [.rw, .w] → d.en = true → d.tail = k →
    (k + 2 ^ 32 - d.head) % 2 ^ 32 < d.cap → Mapped s 0 n (slotAddr d k) 64 pb [.w] → apart pa 64 pb 64 →
    (∀ y ∈ s.units.l2, y.own = []) → OneHomeSpan s n pa 64 → OneHomeSpan s n pb 64 →
    Yields (.deviceEnqueue n) s (fun t => (partOf t n).enqs = es ∧
      memGet t.mem = memWith (memWith (memGet s.mem) pb (bytesOf e.words)) (pa + 4) (leBytes 4 ((k + 1) % 2 ^ 32)))) ∧
  (∀ (s : State) (lid c : Nat) (l : Launch), launch? s lid = some l → l.complete = false → l.src = .queue c → l.started = l.total →
    l.ended = l.total → l.killed = false →
    (trSucc l.words = 0 → Yields (.launchCompletion lid) s (fun t => launch? t lid = some { l with complete := true })) ∧
    ∀ pa, Calm s → trSucc l.words ≠ 0 → trSucc l.words < 2 ^ 56 → trSucc l.words % 128 = 0 →
      Mapped s 0 l.part (trSucc l.words) 1 pa [.rw] → Yields (.launchCompletion lid) s (fun t =>
        launch? t lid = some { l with complete := true } ∧ readNum t pa 4 = (readNum s pa 4 + 2 ^ 32 - 1) % 2 ^ 32 ∧
        (∀ b, ¬ (pa ≤ b ∧ b < pa + 4) → memGet t.mem b = memGet s.mem b) ∧
        (partOf t l.part).enqs = (partOf s l.part).enqs ++ (if readNum s pa 4 = 1 then
          [{ part := l.part, group := none, grip := none, mgmt := none, words := wordsOf (readMem s (pa + 64) 64), slot := none,
             written := false, failed := false }]
          else [])))

/-- R277, R278, R300, R288, R289, R286: a record that passes its checks starts a pass, and one that fails them is refused with its
code in an event of type 2; a pass starts by clearing its tiles, or with KEEP leaves them; the next meshlet that is handed over is
rasterised, and each block that it adds names only samples that its triangle covers; and a block whose owner's core has room
starts its group. -/
def Obligations.RasterPassesStartAndShade : Prop :=
  (∀ (s : State) (p q : Nat) (d : QDesc), let n := s.work.nextId
    partEnabled s p = true → s.units.ready.getLsbD 8 = true → frontEnds s p ≠ 0 → passUnderWay s p q = false → q ≤ 3 →
    enabledDesc s p true q = some d → d.tail ≠ d.head → s.units.tags = [] →
    (∀ ps mh ph, takeRecord s p q d = .ok (ps, mh, ph) → Yields (.rasterRecordTake p q) s (fun t =>
      pass? t n = some { ps with mesh := n + 1, pixels := n + 2 } ∧
      launch? t (n + 1) = some (newLaunch p (.mesh n) ps.head none (ps.words.take 16) mh) ∧
      launch? t (n + 2) = some { newLaunch p (.pixels n) ps.head none ((ps.words.drop 16).take 16) ph with total := 0 })) ∧
    ∀ c, takeRecord s p q d = .error (.refuse c) → (partOf s p).refusals = [] → (∀ x ∈ s.work.teams, x.2.windows = []) →
      (∀ va, descAddr s p true q = some va → ∃ pa, Mapped s 0 p va 64 pa [.rw, .w]) → Yields (.rasterRecordTake p q) s (fun t =>
      t.work.passes = s.work.passes ∧ t.units.events = s.units.events ++ [eventRec 2 p 1 q c 0 0 d.head 0 0])) ∧
  (∀ (s : State) (k : Nat) (p : Pass), pass? s k = some p → p.phase = .taken → ownersPlaced s p = true → ownersBusy s p = false →
    (rrKeep p.words = true → Yields (.passStartClear k) s (fun t =>
      (pass? t k).map (·.phase) = some .cleared ∧ t.work.teams = s.work.teams)) ∧
    ∀ v row col id slot j x, rrKeep p.words = false → passTiles p = [(v, row, col)] →
      sampleHome s p v (32 * col) (32 * row) = some (id, x, slot, j) → team? s id = some x → x.windows = [] →
      Yields (.passStartClear k) s (fun t => (pass? t k).map (·.phase) = some .cleared ∧ ∀ m, m < 1024 →
        ScratchIs t id 0 (x.scr + 12288 * slot + 8 * m) (bytesOf [p.words.getD 43 0, p.words.getD 44 0]) ∧
        ScratchIs t id 0 (x.scr + 12288 * slot + 8192 + 4 * m) (bytesOf [p.words.getD 45 0]))) ∧
  (∀ (s : State) (k : Nat) (p : Pass) (m : Mesh), pass? s k = some p → p.phase = .cleared → ownersPlaced s p = true →
    p.rasterised < meshletCount p → handedMeshlet s p p.rasterised = some m → Yields (.meshletRasterisation k) s (fun t =>
      ∃ q bs, pass? t k = some q ∧ q.rasterised = p.rasterised + 1 ∧ q.blocks = p.blocks ++ bs ∧
        (m.prims = [] → bs = [] ∧ t.work.teams = s.work.teams) ∧
        ∀ b ∈ bs, ∀ l, b.mask.getLsbD l = true →
          let at_ := samplePos p b.geom.view (b.i0 + l % 8) (b.j0 + l / 8)
          covers b.geom.fan at_.1 at_.2 = true)) ∧
  (∀ (s : State) (k j c : Nat) (p : Pass) (b : PixBlock) (st : List Nat × Nat) (l : Launch), let n := s.work.nextId
    pass? s k = some p → readyBlock s p = some (j, b, c, [st]) → launch? s p.pixels = some l → (clusterOf s (c / 4)).gate = .on →
    Yields (.pixelGroupStart k) s (fun t =>
      (pass? t k).map (·.blocks) = some (p.blocks.eraseIdx j) ∧
      (∃ y, team? t n = some y ∧ y.launch = p.pixels ∧ y.core = c ∧ y.no = l.started ∧ y.groups = [n + 1]) ∧
      ∃ z, group? t (n + 1) = some z ∧ z.team = n ∧ z.seats = st.1 ∧
        z.view = BitVec.ofNat 32 (2 * 2 ^ 30 + b.geom.view * 2 ^ 27 + b.j0 * 2 ^ 12 + b.i0) ∧
        (∀ i, i < 64 → z.exited.getLsbD i = (decide (i < 32) && !b.mask.getLsbD i)) ∧
        let o := tileNumber p b.geom.view b.i0 b.j0 % ownerTeams s p.owner
        z.pix = some { pass := k, order := b.order, owner := o, i0 := b.i0, j0 := b.j0, geom := b.geom, depths := b.depths, outs := [] }))

/-- R302, R294, R304, R289, R248: a commit that nothing earlier holds up stores the colour, laid over the sample's when it blends, and
in a late-depth pass first tests and then stores the depth; a tile is published in its owner's input ring; and a pass whose tiles
are published is done, its counter decremented. -/
def Obligations.RasterPassesCommitAndComplete : Prop :=
  (∀ (s : State) (core id slot n : Nat) (o : TbeOp) (p : Pass) (x : Team),
    let z := x.scr + 12288 * slot + 8192 + 4 * n
    let c := x.scr + 12288 * slot + 8 * n
    let stored := BitVec.ofNat 32 (scratchNum x 0 z 4)
    (coreOf s core).tbe = [.commit o] → commitHeld s o = false → pass? s o.pass = some p → sampleHome s p o.view o.i o.j = some (id, x, slot, n) →
    team? s id = some x → x.windows = [] → n < 1024 →
    (earlyDepth p.words = false → depthPass (rrZfunc p.words) o.depth stored = false →
      Yields (.pixelCommit core) s (fun t => (coreOf t core).tbe = [] ∧ t.work.teams = s.work.teams)) ∧
    (earlyDepth p.words = true ∨ depthPass (rrZfunc p.words) o.depth stored = true →
      Yields (.pixelCommit core) s (fun t => (coreOf t core).tbe = [] ∧
        (earlyDepth p.words = false → rrZwr p.words = true → ScratchIs t id 0 z (leBytes 4 o.depth.toNat)) ∧
        ∀ lo hi blend, o.out.bind (·.colour) = some (lo, hi, blend) →
          ScratchIs t id 0 c (if blend then leBytes 8 (blendColour true (pairNat lo hi) (scratchNum x 0 c 8)) else bytesOf [lo, hi])))) ∧
  (∀ (s : State) (k : Nat) (p : Pass), pass? s k = some p →
    (p.phase = .cleared → passDrained s k p = true → Yields (.tilePublication k) s (fun t =>
      pass? t k = some { p with phase := .publishing 0 })) ∧
    ∀ q tl id x, let h := rrIring p.words
      let nt := ownerTeams s p.owner
      let slot := ringBase x 0 h + ringWidx x 0 h % ringCount x 0 h * ringSize x 0 h
      p.phase = .publishing q → q < tileCount p → (passTiles p)[q]? = some tl → teamOf s p.owner (q % nt) = some (id, x) →
      team? s id = some x → x.windows = [] → x.scr ≤ 786432 → ringValid x 0 h = true → ringErr x 0 h = false → ringEos x 0 h = false →
      ringUsed x 0 h < ringCount x 0 h → apart h 64 (ringBase x 0 h) (ringCount x 0 h * ringSize x 0 h) →
      Yields (.tilePublication k) s (fun t => (pass? t k).map (·.phase) = some (.publishing (q + 1)) ∧
        ScratchIs t id 0 slot (tileDesc p nt q tl) ∧ ScratchIs t id 0 h (leBytes 4 ((scratchNum x 0 h 4 + 1) % 2 ^ 32)))) ∧
  (∀ (s : State) (k : Nat) (p : Pass), pass? s k = some p → p.phase = .publishing (tileCount p) →
    (rrDone p.words = 0 → Yields (.passCompletion k) s (fun t => pass? t k = some { p with phase := .done })) ∧
    ∀ pa, Calm s → rrDone p.words ≠ 0 → rrDone p.words < 2 ^ 56 → rrDone p.words % 128 = 0 →
      Mapped s 0 p.part (rrDone p.words) 1 pa [.rw] → Yields (.passCompletion k) s (fun t =>
        pass? t k = some { p with phase := .done } ∧ readNum t pa 4 = (readNum s pa 4 + 2 ^ 32 - 1) % 2 ^ 32 ∧
        ∀ b, ¬ (pa ≤ b ∧ b < pa + 4) → memGet t.mem b = memGet s.mem b))

/-! ### Device steps: display, clocks and waits -/

/-- R306, R310, R311, R305, R307, R308, R309: enabling a stream with supported fields starts it, and otherwise disables it and sets
its bit of DSERR; lens correction turns a strip that is handed over into its codes; at the strip's scanout slot a ready strip in time is
sent, and one that is not ready, or is too old, sets its bits of DSLATE; a ready AV1 strip is sent with its 4:2:0 codes, and one whose
countdown ends before it is ready, or that is ready 250 microseconds after that, sets DSLATE. How `late` settles a slot that the stream's
clock leaves open is the model's choice (log entry 102). The bitstream's bytes are free (log entry 15), and so is the fixed order of lens arithmetic
(log entry 16). -/
def Obligations.DisplayStreamsRun : Prop :=
  (∀ (s : State) (p n : Nat) (bs : List Byte), let tab := bankPair s p 0x1B0 0x1B1
    let d := wordsOf bs
    s.units.ready.getLsbD 9 = true → tab ≠ 0 → n ≤ 15 → ownRead s p (tab + 64 * n) 64 .r = .ok bs →
    (sdEn d = false → ∀ x, stream? s p n = some x → Yields (.streamEnable p n) s (fun t => stream? t p n = some { x with on := false })) ∧
    (sdEn d = true → (sinkHeld s p d = false ∨ streamFieldsOk d = false) → Yields (.streamEnable p n) s (fun t =>
      (bankReg t p 0x1B3).getLsbD n = true ∧ ∀ x, stream? t p n = some x → x.on = false)) ∧
    (sdEn d = true → sinkHeld s p d = true → streamFieldsOk d = true →
      (isAv1 d = true → s.units.ready.getLsbD 10 = true → Yields (.streamEnable p n) s (fun t =>
        (stream? t p n).map (fun x => (x.on, x.desc, x.latches)) = some (true, d, []))) ∧
      ∀ ts, isAv1 d = false → sdOut d % 32 = 0 → ownRead s p (sdOut d) 32 .r = .ok ts →
        (timingOk (wordsOf ts) = true → linkFits s (streamKey p n) d (wordsOf ts) = true → Yields (.streamEnable p n) s (fun t =>
          (stream? t p n).map (fun x => (x.on, x.desc, x.timing)) = some (true, d, wordsOf ts))) ∧
        (timingOk (wordsOf ts) = false → Yields (.streamEnable p n) s (fun t => (bankReg t p 0x1B3).getLsbD n = true)))) ∧
  (∀ (s : State) (p n k : Nat) (x : Stream) (ts : List (Nat × List OutTile)), stream? s p n = some x → x.on = true →
    deadlines s p n = s → nextStrip s p x = some (k, ts) → x.expired.contains k = false → meshBlock s p n k x.desc = none →
    (∀ e ∈ s.work.teams, e.2.windows = []) → (∀ e ∈ ts, ∀ m, team? s e.1 = some m → tilesBusy s m.core = false) →
    Yields (.lensCorrection p n) s (fun t => ∃ y px, stream? t p n = some y ∧ tget? y.ready k = some px ∧ y.on = true ∧
      ∀ r c, r < 64 → c < sdWid x.desc →
        px[r * sdWid x.desc + c]? = some (lensPixel s p x.desc (ts.flatMap (·.2)) c (64 * k + r)))) ∧
  (∀ (s : State) (p n k us : Nat) (x : Stream) (late : Bool), stream? s p n = some x → x.on = true → isAv1 x.desc = false →
    scanNext x = some (k, us) → n ≤ 15 →
    ((x.us + 5) * vtPclk x.timing ≤ scanSlot x k us → exec (.stripScanout p n late) s = .next s) ∧
    (scanSlot x k us < (x.us + 5) * vtPclk x.timing →
      (∀ px, tget? x.ready k = some px → slotStale x k us late = false → Yields (.stripScanout p n late) s (fun t =>
        (stream? t p n).map (fun y => (tget? y.sent k, tget? y.ready k, y.latches)) = some (some px, none, tdel x.latches k) ∧
        bankReg t p 0x1B2 = bankReg s p 0x1B2)) ∧
      (tget? x.ready k ≠ none → slotStale x k us late = true → Yields (.stripScanout p n late) s (fun t =>
        (bankReg t p 0x1B2).getLsbD n = true ∧ (bankReg t p 0x1B2).getLsbD (16 + n) = true ∧ (stream? t p n).map (·.sent) = some x.sent)) ∧
      (tget? x.ready k = none → Yields (.stripScanout p n late) s (fun t =>
        (bankReg t p 0x1B2).getLsbD n = true ∧ (slotStale x k us late = true → (bankReg t p 0x1B2).getLsbD (16 + n) = true) ∧
        (stream? t p n).map (fun y => (y.sent, y.expired, y.latches)) = some (x.sent, x.expired ++ [k], tdel x.latches k))))) ∧
  (∀ (s : State) (p n k us : Nat) (x : Stream), stream? s p n = some x → x.on = true → isAv1 x.desc = true → n ≤ 15 →
    (countedStrip x = some (k, us) → sdSbud x.desc ≤ x.us - us → Yields (.stripCountdownEnd p n) s (fun t =>
      (bankReg t p 0x1B2).getLsbD n = true ∧ (stream? t p n).map (fun y => (y.sent, y.expired)) = some (x.sent, x.expired ++ [k]))) ∧
    ∀ px, x.latches = [(k, us)] → tget? x.ready k = some px →
      (x.us - us ≤ sdSbud x.desc + 250 → Yields (.av1StripSend p n) s (fun t =>
        (stream? t p n).map (fun y => (tget? y.sent k, tget? y.ready k, y.latches, y.header)) =
          some (some (yuvStrip (sdBits x.desc) (sdWid x.desc) px), none, [], some av1Header))) ∧
      (sdSbud x.desc + 250 < x.us - us → Yields (.av1StripSend p n) s (fun t =>
        (bankReg t p 0x1B2).getLsbD n = true ∧ (stream? t p n).map (fun y => (y.sent, y.latches)) = some (x.sent, []))))

/-- R270, R271, R406, R44, R73, R255: the hang watchdog stops a team and raises an event of type 6; a YIELD and a SLEEP end and their
slice goes on past them; waves leave and enter the active set; and an idle cluster begins a gate sequence, stops 256 clocks later,
and wakes. A wave that leaves at its limit counts as the latest resident (log entry 81). R48 to R50, R52: an instruction that is renamed
becomes the youngest of fewer than 97 entries, and each register that it writes is bound to a physical register of its quadrant's 1,024
that no other wave there names. -/
def Obligations.WaitsTimeoutsAndClockGates : Prop :=
  (∀ (s : State) (g : Nat) (x : Group) (m : Team), group? s g = some x → team? s x.team = some m → x.ended = false → x.status = .run →
    let p := teamPart s x.team
    let per := (bankReg s p 0x192).toNat * 2 ^ 20
    let w := workName s x.team
    per ≠ 0 → x.quiet + per ≤ (coreOf s (slotCore (x.seats.headD 0))).clk → Yields (.hangWatchdogExpiry g) s (fun t =>
      (team? t x.team).map (·.stopped) = some true ∧ (g ∈ m.groups → (group? t g).map (·.status) = some .stopped) ∧
      t.units.events = s.units.events ++ [eventRec 6 p w.1 w.2.1 0 0 0 w.2.2.1 w.2.2.2 0])) ∧
  (∀ (s : State) (g n since k : Nat) (z : Group) (x : Slice), group? s g = some z → slice? s g n = some x →
    gangMates s g n = [(g, n)] → x.frames = [] →
    let goesOn (t : State) : Prop := (slice? t g n).map (fun y => (y.wait, y.prog)) = some (.none, { x.prog with pc := x.prog.pc + 4 })
    (x.wait = .yield since → (laneMigreq s (.wave g (4 * n)) = 0 ∨ since + 65536 ≤ sliceClk s g n) →
      Yields (.yieldTimeout g n) s goesOn) ∧
    (x.wait = .yield since → laneMigreq s (.wave g (4 * n)) ≠ 0 → sliceClk s g n < since + 65536 →
      exec (.yieldTimeout g n) s = .next s) ∧
    (x.wait = .sleep since k → z.status = .run → teamReh s z.team = false → since + k ≤ sliceClk s g n →
      Yields (.sleepExpiry g n) s goesOn) ∧
    (x.wait = .sleep since k → teamReh s z.team = false → sliceClk s g n < since + k → exec (.sleepExpiry g n) s = .next s)) ∧
  (∀ (s : State) (k : Nat) (y : Slot), slot? s k = some y →
    let clk := (coreOf s (slotCore k)).clk
    let outside := readyOutside s (slotCore k) (slotQuad k)
    (y.active = true → y.since + 4096 ≤ clk → outside ≠ none → Yields (.activeSetTimeout k) s (fun t =>
      slot? t k = some { y with active := false, cached := [], order := s.work.nextId })) ∧
    (y.active = true → (waveReady s k = false ∧ y.readyAt + 16 ≤ clk) ∨ (oldestWaits s k = true ∧ outside ≠ none) → Yields (.activeSetIdleLeave k) s (fun t =>
      slot? t k = some { y with active := false, cached := [] })) ∧
    (outside = some k → activeCount s (slotCore k) (slotQuad k) < 2 → Yields (.activeSetEntry k) s (fun t =>
      slot? t k = some { y with active := true, since := clk, readyAt := clk }))) ∧
  (∀ (s : State) (cl : Nat), let x := clusterOf s cl
    (x.gate = .on → clusterIdle s cl = true → x.idleAt + 4096 ≤ x.clk → Yields (.gateSequenceBegin cl) s (fun t =>
      clusterOf t cl = { x with gate := .seq x.clk })) ∧
    (∀ since, x.gate = .seq since → since + 256 ≤ x.clk → Yields (.gateCommit cl) s (fun t =>
      clusterOf t cl = { x with gate := .off })) ∧
    (x.gate = .waking → Yields (.clusterWakeUp cl) s (fun t => (clusterOf t cl).gate = .on))) ∧
  ∀ (s t : State) (k : Nat) (x : Slot) (sl : List (Nat × Nat × LMask)) (pc : Addr) (i : Instr), slot? s k = some x →
    renameInstr s k sl pc (some i) = some t → x.rob.length < 96 ∧ ∃ y e, slot? t k = some y ∧ y.rob = x.rob ++ [e] ∧
      e.pc = pc ∧ e.instr = some i ∧ e.slices = sl ∧ e.writes.map (·.1) = renamedWrites i ∧ (e.writes.map (·.2.1)).Nodup ∧
      ∀ w ∈ e.writes, w.2.1 < 1024 ∧ tget? y.map w.1 = some w.2.1 ∧ ∀ j z, j ≠ k → slot? t j = some z →
        slotCore j = slotCore k → slotQuad j = slotQuad k → w.2.1 ∉ slotPhys z

/-! ### Device steps: the context interface -/

/-- R264, R265, R269, R276: STOP stops the teams that it names, RESUME lets them go on, KILL ends them, STEP lets each slice of a
stopped wave slot retire one instruction; a name of no team gives result 1; REGRD stores a register of a stopped team and REGWR
fills it, full and not poisoned; and an operation code that is not assigned gives result 2. -/
def Obligations.ContextCommandsActOnTeams : Prop :=
  ∀ (s : State), let p := psel s
    let pa := ctxAddr s p
    let fr := (bankReg s p 0x19A).toNat / 256 % 4
    let reg := (bankReg s p 0x19A).toNat % 64
    ctxBusy s p = false →
    (∀ op, Yields (.ctxcmdUndefinedOp op) s (fun t => CtxResult t p 2)) ∧
    (ctxTeams s p = [] → ctxImages s p = [] → ∀ i ∈ [Instr.stop, .resume, .kill, .step], Yields i s (fun t => CtxResult t p 1)) ∧
    ∀ k m, ctxTeams s p = [k] → ctxImages s p = [] → team? s k = some m →
      Yields .stop s (fun t => CtxResult t p 0 ∧ (team? t k).map (·.stopped) = some true ∧
        ∀ g ∈ m.groups, ∀ y, group? t g = some y → y.status ≠ .run) ∧
      Yields .resume s (fun t => CtxResult t p 0 ∧ (team? t k).map (·.stopped) = some false ∧
        ∀ g ∈ m.groups, ∀ x, group? s g = some x → x.status = .stopped → (group? t g).map (·.status) = some .run) ∧
      (m.ended = false → m.moving = none → Yields .kill s (fun t => CtxResult t p 0 ∧ (team? t k).map (·.killed) = some true ∧
        (engineBusy s k = false → m.windows = [] → (team? t k).map (·.ended) = some true) ∧
        ∀ g ∈ m.groups, ∀ x, group? s g = some x → (group? t g).map (·.ended) = some true)) ∧
      (m.moving ≠ none → Yields .kill s (fun t => CtxResult t p 0 ∧ team? t k = some { m with doomed := true })) ∧
      (teamStopped s k = true → ∀ j g z, ctxSlot s p k = some j → teamGroupsIn s k j = [(g, z)] → group? s g = some z →
        (z.status = .stopped → (∀ y ∈ z.slices, y.halt = none) → Yields .step s (fun t => ∀ n y, z.slices[n]? = some y →
          (levelOf y).running ≠ 0 → y.wait = .none → (slice? t g n).map (fun w => (w.stepping, levelOf w)) = some (true, levelOf y))) ∧
        (ctxRangeOk s pa 136 = true → Calm s → Yields .regrd s (fun t => CtxResult t p 0 ∧
          memGet t.mem = memWith (memGet s.mem) pa (debugBytes (fetchLines s j) j reg fr))) ∧
        (ctxRangeOk s pa 136 = true → z.width ≤ 64 → reg < 56 → Yields .regwr s (fun t => CtxResult t p 0 ∧ MemKept s t ∧
          ∀ i, i < z.width → laneSeat z i = j → lanePos z i < 32 → posLane s j (lanePos z i) = some (g, i) →
            laneElem t (.wave g i) reg = .full (BitVec.ofNat 32 (readNum s (pa + 4 * lanePos z i) 4)) false)))

/-- R266, R268, R272 to R275: SAVE of a team with nothing outstanding stops it and opens an image with STATE = 1; each further step writes
the next piece and sets its VALID bit, and the last one sets STATE = 2 and takes the team from its core; RESTORE places
a saved team of the partition on a core with room; a save that passes its bound ends with result 5 and the team stays; a team at a
boundary migrates to its destination; and a team on a removed core waits for one, with an event of type 9 when there is none. -/
def Obligations.TeamsAreSavedRestoredAndMoved : Prop :=
  (∀ (s : State) (k : Nat) (m : Team) (l : Launch), let p := psel s
    let pa := ctxAddr s p
    ctxBusy s p = false → savingOf s p = none → ctxTeams s p = [k] → ctxImages s p = [] → team? s k = some m → teamLaunch? s k = some l →
    m.moving = none →
    ctxRangeOk s pa (imageSize m (teamSlots s k).length) = true → teamPosted s k m.groups = false → teamCopies s k = false → Calm s →
    Yields .save s (fun t => (bankReg t p 0x194).getLsbD 31 = true ∧ (team? t k).map (·.stopped) = some true ∧
      (savingOf t p).map (fun y => (y.team, y.pa, y.pieces)) = some (k, pa, 1) ∧ readNum t pa 4 = 1 ∧ readNum t (pa + 20) 4 = 0)) ∧
  (∀ (s : State) (x : Saving) (m : Team) (l : Launch), let p := psel s
    let ks := teamSlots s x.team
    savingOf s p = some x → team? s x.team = some m → teamLaunch? s x.team = some l → m.moving = none →
    ctxRangeOk s x.pa (imageSize m ks.length) = true → teamPosted s x.team m.groups = false → teamCopies s x.team = false → Calm s →
    (1 ≤ x.pieces → x.pieces ≤ 5 → let u := ks.foldl fetchLines s
      let piece := imagePiece u m l (teamTab u m) ks x.id (x.pieces - 1)
      Yields .save s (fun t => savingOf t p = some { x with pieces := x.pieces + 1 } ∧ team? t x.team = some m ∧
        readMem t (x.pa + piece.1) piece.2.length = piece.2 ∧ readNum t (x.pa + 20) 4 = imageValid m x.pieces)) ∧
    (5 < x.pieces → Yields .save s (fun t => CtxResult t p 0 ∧ team? t x.team = none ∧ readNum t x.pa 4 = 2 ∧
      (∀ g ∈ m.groups, group? t g = none) ∧
      ∃ i ∈ t.work.images, i.tid = x.team ∧ i.team.launch = m.launch ∧ i.team.scratch = m.scratch))) ∧
  (∀ (s : State) (m : Image) (l : Launch) (c : Nat) (ks : List (Nat × Nat)), let p := psel s
    let pa := ctxAddr s p
    ctxBusy s p = false → ctxRangeOk s pa 4096 = true → ctxRangeOk s pa (max 4096 (readNum s (pa + 4) 4)) = true → readNum s pa 4 = 2 →
    readNum s (pa + 24) 4 % 16 = s.units.fuses.ver → s.work.images.find? (fun i => i.id = readNum s (pa + 96) 8) = some m →
    launch? s m.team.launch = some l → l.part = p →
    (restoreCores s m).findSome? (fun c => (teamFits s p m.team (imageAway m) (m.slots.map (·.1)) (launchReh l) false c).map (fun ks => (c, ks))) =
      some (c, ks) → Yields .restore s (fun t => CtxResult t p 0 ∧
        (team? t m.tid).map (fun y => (y.core, y.stopped, y.groups)) = some (c, false, m.team.groups) ∧ ∀ i ∈ t.work.images, i.id ≠ m.id)) ∧
  (∀ (s : State) (x : Saving) (m : Team), s.units.saving = [x] → team? s x.team = some m →
    x.since + 1700000 * max 1 (bankReg s x.part 0x193).toNat ≤ (s.units.mgmt.headD Mgmt.reset).clk → Calm s → Yields .saveBoundExpiry s (fun t =>
      CtxResult t x.part 5 ∧ t.units.saving = [] ∧ team? t x.team = some m)) ∧
  ∀ (s : State) (k : Nat) (m : Team), let p := teamPart s k
    team? s k = some m → m.ended = false → beingSaved s k = false →
    (∀ c l ks, ownerCore s m = some c → teamLaunch? s k = some l →
      teamFits s l.part m (fun j => 3072 ≤ j) (teamSlots s k) (launchReh l) true c = some ks → (moveReady s k m).1 = true →
      Yields (.migration k) s (fun t => (team? t k).map (·.core) = some c)) ∧
    (∀ c ks, ownerCore s m = none → m.stopped = false → atBoundary s m = true → teamStopped s k = false → destination s k m = some (c, ks) →
      (moveReady s k m).1 = true → Yields (.migration k) s (fun t => (team? t k).map (·.core) = some c)) ∧
    (beingRemoved s p m = true →
      (destination s k m = none → m.moving = none → m.rszHeld = false → let w := workName s k
        Yields (.resizeStopAndMove k) s (fun t => (team? t k).map (fun y => (y.rszHeld, y.core)) = some (true, m.core) ∧
          t.units.events = s.units.events ++ [eventRec 9 p w.1 w.2.1 0 0 0 w.2.2.1 w.2.2.2
            (((coresOf m m.core).find? (fun c => (partOf s p).removing.contains c)).getD m.core)])) ∧
      ∀ c ks, destination s k m = some (c, ks) →
        (m.resizeAt = none → m.moving = none → Yields (.resizeStopAndMove k) s (fun t =>
          (team? t k).map (fun y => (y.resizeAt, y.core)) = some (some (coreOf s m.core).clk, m.core))) ∧
        ∀ since, m.resizeAt = some since → since + 2 ^ 20 ≤ (coreOf s m.core).clk → (moveReady (beginMove s k m) k m).1 = true →
          Yields (.resizeStopAndMove k) s (fun t => (team? t k).map (·.core) = some c))

/-! ### Device steps: privileged registers and the world outside -/

/-- R6, R156, R254, R150, R148, R333, R334, R274: what the writes of privileged registers with an effect do for the partition that
PSEL selects: TLB invalidation, quiescence, the eviction schedule, L2MODE, PCTL.EN and PCTL.RST, and the core masks; a
configuration that R333 forbids sets FWSTAT.CODE to 0x20 and changes nothing; and other registers take the bits that are
read-write. -/
def Obligations.PrivilegedRegistersTakeEffect : Prop :=
  ∀ (s : State), let p := psel s
    let forbidden (t : State) : Prop := (sysReg t 0x1D6).toNat % 256 = 0x20 ∧ t.units.parts = s.units.parts
    let gone (t : State) (f : TlbEntry → Prop) : Prop :=
      (∀ c, ∀ e ∈ (coreOf t c).tlb, ¬ (e.part = p ∧ f e)) ∧ ∀ e ∈ t.units.dieTlb, ¬ (e.2.part = p ∧ f e.2)
    (tlbBusy s p = false →
      (let va := bankPair s p 0x175 0x176
       Yields .tlbinvPage s (fun t => tlbBusy t p = true ∧ gone t (fun e => e.va ≤ va ∧ va < e.va + 2 ^ e.bits))) ∧
      Yields .tlbinvPartition s (fun t => tlbBusy t p = true ∧ gone t (fun _ => True))) ∧
    Yields .tlbInvalidationDone s (fun t => ∀ q, q < 16 → let waits := ∃ e ∈ s.late, e.place = none ∧ lanePart s e.lane = q
      (waits → tlbBusy t q = tlbBusy s q) ∧ (¬ waits → tlbBusy t q = false) ∧
      (tlbBusy s q = true → ¬ waits → ∀ e ∈ (partOf t q).enqs, e.failed = false)) ∧
    ((partOf s p).quietAt = none → Yields .quietReq s (fun t => (bankReg t p 0x183).getLsbD 1 = true ∧
      (partOf t p).quietAt = some (quietSample s p))) ∧
    Yields .quietDetectionEnd s (fun t => ∀ q, q < 16 → ∀ a, (partOf s q).quietAt = some a → (partOf t q).quietAt = none ∧
      bankReg t q 0x183 = if quietSample s q = a ∧ a.take 2 = [1, 1] ∧ a.getD 2 0 + a.getD 3 0 = a.getD 4 0 + a.getD 5 0 then 1 else 0) ∧
    (∀ v : Word, Yields (.evctlEnable v) s (fun t => bankReg t p 0x152 = v &&& 0x1F ∧
      (partOf t p).sched = if v.getLsbD 0 then
          (List.range (v.toNat / 2 % 16 + 1)).filterMap (fun n => let a := bankPair s p 0x150 0x151 + 32 * n
            if paOk s a then evEntry (readMem s a 32) else none)
        else (partOf s p).sched)) ∧
    (∀ priv, privateMode s ≠ priv → l2ModeReady s = true →
      (priv = false ∨ (∀ q, q < 16 → partEnabled s q = true → limitsOk s q true = true) → Yields (.l2ModeChange priv) s (fun t =>
        privateMode t = priv ∧ (s.units.tags = [] → t.units.l2 = []))) ∧
      (priv = true → (∃ q, q < 16 ∧ partEnabled s q = true ∧ limitsOk s q true = false) → Yields (.l2ModeChange priv) s forbidden)) ∧
    Yields (.partitionEnable false) s (fun t => partEnabled t p = false) ∧
    (partEnabled s p = false →
      (rimBase s p ≠ 0 → limitsOk s p (privateMode s) = true → Yields (.partitionEnable true) s (fun t => partEnabled t p = true)) ∧
      (rimBase s p = 0 ∨ limitsOk s p (privateMode s) = false → Yields (.partitionEnable true) s forbidden) ∧
      ∀ word v, Yields (.coreMaskWrite word v) s (fun t => bankReg t p (maskReg word.toNat) = v)) ∧
    (partEnabled s p = true → ∀ word v, maskCores (setBankReg s p (maskReg word.toNat) v) p = [] →
      Yields (.coreMaskWrite word v) s forbidden) ∧
    (savingOf s p = none → s.late = [] → (partOf s p).reads = [] →
      (∀ k x, team? s k = some x → teamPart s k = p → x.ended = false →
        x.killed = false ∧ x.moving = none ∧ x.windows = [] ∧ engineBusy s k = false) → Yields .partitionReset s (fun t => (partOf t p).resetting = false ∧ (partOf t p).enqs = [] ∧
      (partOf t p).heads = [] ∧ gone t (fun _ => True) ∧
      ∀ k x, team? s k = some x → teamPart s k = p → x.ended = false → (team? t k).map (fun y => (y.killed, y.ended)) = some (true, true))) ∧
    ∀ n m, (n, m) ∈ [(0x150, 0xFFFFFE00), (0x160, 0xFFFFFFFF), (0x170, 0xFFFFF000), (0x175, 0xFFFFF000), (0x180, 0xFFFFFC00),
        (0x190, 0xFFFFFFFE), (0x192, 0xFFFF), (0x195, 0x1F), (0x196, 0xFFFFFFFF), (0x1A0, 0xFFFFFF00), (0x1B0, 0xFFFFFC00),
        (0x1E7, 0xFFFFFFFF)] → ∀ v : Word, Yields (.registerWrite (BitVec.ofNat 9 n) v) s (fun t =>
      if v.toNat &&& m = v.toNat then bankReg t p n = v else t = s)

/-- R335, R330, R186, R178, R337, R57, R336, R338 to R340: events go to the ring while it has room; a failing link poisons the loads
sent on it and raises an event of type 4; the host and peers read and write memory, where a 1 over the REF bit of a queue's FLAGS
clears it and a 0 keeps it (R239, R277, log entry 94), and the host takes back lines of its own; a
detected fault poisons what it reaches and raises an event of type 8; functions become ready; images are checked; a module reset
keeps memory; a configuration request over CXL.io of a function that is not ready is answered with a retry, here status 2, and any other
waits; one to a function that is ready is answered with status 1: a write is kept, and a read gives the part's bytes (R328; log entry 104).
R338, R339: the
responder answers the requests of SPDM in the order that its negotiation has; one out of order is answered with an error, here
[0], and changes nothing else. How a reply is written is the model's choice (log entries 18, 64 and 71). -/
def Obligations.TheModuleAnswersTheWorldOutside : Prop :=
  (∀ (s : State),
     (∀ r rest, s.units.events = r :: rest →
       (eventRoom s = false → exec .eventRingWrite s = .next s) ∧
       (let h := eventHead s
        let tail := readNum s (h + 4) 4
        eventRoom s = true → Memory.wf s.mem = true → NoWindows s → Yields .eventRingWrite s (fun t => t.units.events = rest ∧
          memGet t.mem = memWith (memWith (memGet s.mem) (readNum s (h + 16) 8 + 32 * (tail % readNum s (h + 8) 4)) r) (h + 4)
            (leBytes 4 (tail + 1))))) ∧
     (∀ n, n < s.units.fuses.npeer → s.units.linkDown.contains n = false → Yields (.peerLinkFailure n) s (fun t =>
       n ∈ t.units.linkDown ∧ (∀ q ∈ t.posted, q.link = some n → ∀ d ∈ q.dests, d.2.2.2 = true) ∧
       t.posted.map (·.id) = s.posted.map (·.id) ∧ t.units.events = s.units.events ++ [eventRec 4 0xFF 0 n (linkRemote s n) 0 0 0 0 0])) ∧
     (∀ (acc : OutsideAccess) (peer : Bool), allTargets s acc (fun t => decide (t = .local)) = true → s.units.ready.getLsbD (if peer then 7 else 5) = true →
       s.units.ready.getLsbD 1 = true → s.units.ready.getLsbD 2 = true → Calm s →
       Yields (if peer then .peerAccess acc else .hostAccess acc) s (fun t => match acc.data with
         | some bs => memGet t.mem = memWith (memGet s.mem) acc.pa (softBytes s acc.pa bs)
         | none => MemKept s t ∧ t.outside.data = readMem s acc.pa acc.size ∧ t.outside.poison = memBad s acc.pa acc.size)) ∧
     (∀ (pa i : Nat) (bs : List Byte) (b : Byte), bs[i]? = some b →
       (∃ p old, (pa + i, old) ∈ flagBytes s p ∧ ∃ c, (softBytes s pa bs)[i]? = some c ∧
         ∀ n, c.getLsbD n = if n = 1 then old.getLsbD 1 && !b.getLsbD 1 else b.getLsbD n) ∨
       ((∀ p old, (pa + i, old) ∉ flagBytes s p) ∧ (softBytes s pa bs)[i]? = some b)) ∧
     (∀ line inv, paTarget s (256 * line) = .host → s.units.ready.getLsbD 5 = true → s.units.ready.getLsbD 2 = true → s.units.tags = [] →
       (∀ x ∈ s.units.l2, x.own = []) → Yields (.hostSnoop line inv) s (fun t => MemKept s t ∧ t.outside.data = readMem s (256 * line) 256 ∧
         ∀ x ∈ t.units.l2, x.line = line → inv = false ∧ x.dirty = 0)) ∧
     (∀ f : HwFault, Yields (.hardwareFaultDetection f) s (fun t =>
       t.units.events = s.units.events ++ [eventRec 8 0xFF 0 f.unit (if f.uncorrected then 1 else 0) 0 0 f.inst 0 f.loc] ∧
       MemKept s t ∧ ∀ b, b ∈ t.memPoison ↔ b ∈ s.memPoison ∨
         (f.uncorrected = true ∧ f.unit ≠ 2 ∧ f.unit ≠ 3 ∧ f.loc ≤ b ∧ b < f.loc + f.bytes))) ∧
     (∀ n, 1 ≤ n → n ≤ 12 → Yields (.functionReady n) s (fun t => t.units.ready = s.units.ready ||| (1#13 <<< n))) ∧
     (s.units.trust.verified = false → s.units.ready.getLsbD 0 = false → exec (.functionReady 0) s = .next s) ∧
     (s.units.trust.verified = true → s.units.ready.getLsbD 0 = false → Yields (.functionReady 0) s (fun t =>
       t.units.ready = s.units.ready ||| 1 ∧ ∀ k ∈ t.units.mgmt, k.running = true)) ∧
     (∀ img : FwImage,
       let code := if !img.formOk then 0x12 else if !img.sigOk then 0x10 else if img.version < s.units.fuses.svn then 0x11 else 0
       Yields (.firmwareImageAccept img) s (fun t => (sysReg t 0x1D6).toNat % 256 = code ∧
         (code ≠ 0 → t.units.trust = s.units.trust) ∧
         (code = 0 → if s.units.trust.verified then t.units.trust = { s.units.trust with pending := some (img.digest, img.version) }
           else t.units.trust = { s.units.trust with verified := true, digest := img.digest, version := img.version }))) ∧
     Yields .moduleReset s (fun t => t.mem = s.mem ∧ t.memPoison = s.memPoison ∧ t.work = State.reset.work ∧ t.posted = [] ∧
       t.units.ready = 0 ∧ t.units.parts = [] ∧ t.units.cores = [] ∧ t.units.clusters = [] ∧ t.units.fuses = s.units.fuses) ∧
     ∀ (cxlIo : Bool) (r : ConfigRequest), let up := s.units.ready.getLsbD (if cxlIo then 5 else r.fn)
       (r.mailbox = true → cxlIo = true → exec (.configurationRequest cxlIo r) s = .next s) ∧
       (r.mailbox = false → cxlIo = true → up = false → Yields (.configurationRequest cxlIo r) s (fun t => t.outside.status = 2 ∧
         t.outside.control = s.outside.control)) ∧
       (cxlIo = false → up = false → exec (.configurationRequest cxlIo r) s = .next s) ∧
       (r.mailbox = false ∨ cxlIo = false → up = true → Yields (.configurationRequest cxlIo r) s (fun t => t.outside.status = 1 ∧
         match r.data with
         | some bs => bs.length ≤ 4096 → ∀ i b, bs[i]? = some b → tget? t.outside.control (controlKey cxlIo r i) = some b
         | none => t.outside.data = (List.range r.size).map (fun i =>
             Config.controlByte (controlKey cxlIo r i) (tget? s.outside.control (controlKey cxlIo r i)))))) ∧
  (∀ (s : State) (nonce : Nat), s.units.ready.getLsbD 12 = true →
     let reads : List Nat := [s.units.trust.digest, (caps s.units.fuses).toNat, (caps2 s.units.fuses).toNat] ++
       (List.range 16).map (fun p => (partOf s p).measured)
     ∀ i need stage reply, (i, need, stage, reply) ∈ ([(.getVersion, 0, 1, [13]), (.getCapabilities, 1, 2, [1, 0, 0]),
         (.negotiateAlgorithms, 2, 3, [87, 512]), (.getDigests, 3, 3, [Config.digest [Config.certificate]]),
         (.getCertificate, 3, 3, [Config.certificate]),
         (.challenge nonce, 3, 3, [nonce, Config.signature [nonce, s.units.trust.digest]]), (.getMeasurements, 3, 3, reads)] :
         List (Instr × Nat × Nat × List Nat)) →
       (need ≤ s.units.trust.stage → Yields i s (fun t => t.units.trust = { s.units.trust with stage := stage, reply := reply } ∧
         t.mem = s.mem ∧ t.work = s.work)) ∧
       (s.units.trust.stage < need → Yields i s (fun t => t.units.trust = { s.units.trust with reply := [0] })))
end

