-- ==== Sys2Proof/Laws/Maps.lean ====
section
/-! SUPPORT. Laws of tables and of the list operations of Maps. -/

namespace Sys2Proof.Machine

variable {α : Type}

/-! ### Tables -/

theorem tget?_tput_self (t : Tab α) (k : Nat) (v : α) : tget? (tput t k v) k = some v := by
  induction t with
  | nil => simp [tput, tget?]
  | cons e rest ih =>
    obtain ⟨k', v'⟩ := e
    simp only [tput]
    split
    · simp [tget?]
    · split
      · simp [tget?]
      · rename_i h
        simp only [tget?, ih]
        rw [if_neg (fun he => h he.symm)]

theorem tget?_tput_ne (t : Tab α) {k j : Nat} (v : α) (h : j ≠ k) : tget? (tput t k v) j = tget? t j := by
  induction t with
  | nil => simp [tput, tget?, Ne.symm h]
  | cons e rest ih =>
    obtain ⟨k', v'⟩ := e
    simp only [tput]
    split
    · simp [tget?, Ne.symm h]
    · split
      · rename_i he
        subst he
        simp [tget?, Ne.symm h]
      · simp only [tget?, ih]

theorem tget?_tput (t : Tab α) (k j : Nat) (v : α) : tget? (tput t k v) j = if j = k then some v else tget? t j := by
  split
  · rename_i h
    rw [h, tget?_tput_self]
  · rename_i h
    exact tget?_tput_ne t v h

theorem tget?_tmod (t : Tab α) (k j : Nat) (f : α → α) : tget? (tmod t k f) j = if j = k then (tget? t k).map f else tget? t j := by
  unfold tmod
  cases h : tget? t k with
  | none => by_cases hj : j = k <;> simp [hj, h]
  | some v => simp [tget?_tput]

@[simp] theorem tgetD_tput_self (t : Tab α) (k : Nat) (v d : α) : tgetD (tput t k v) k d = v := by
  simp [tgetD, tget?_tput_self]

theorem tgetD_tput_ne (t : Tab α) {k j : Nat} (v d : α) (h : j ≠ k) : tgetD (tput t k v) j d = tgetD t j d := by
  simp [tgetD, tget?_tput_ne t v h]

/-! ### Lists -/

@[simp] theorem modifyNth_length (xs : List α) (n : Nat) (f : α → α) : (modifyNth xs n f).length = xs.length := by
  induction xs generalizing n with
  | nil => simp [modifyNth]
  | cons x xs ih => cases n <;> simp [modifyNth, ih]

theorem modifyNth_getElem? (xs : List α) (n m : Nat) (f : α → α) :
    (modifyNth xs n f)[m]? = if m = n then (xs[n]?).map f else xs[m]? := by
  induction xs generalizing n m with
  | nil => simp [modifyNth]
  | cons x xs ih =>
    cases n with
    | zero => cases m <;> simp [modifyNth]
    | succ n => cases m <;> simp [modifyNth, ih]

theorem foldl_or_getLsbD (ls : List Nat) (m : LMask) (j : Nat) :
    (ls.foldl (fun m l => m ||| laneBit l) m).getLsbD j = (m.getLsbD j || (decide (j < 64) && ls.contains j)) := by
  induction ls generalizing m with
  | nil => simp
  | cons l ls ih =>
    rw [List.foldl_cons, ih]
    have hb : (laneBit l).getLsbD j = (decide (j < 64) && decide (j = l)) := by
      unfold laneBit
      rw [BitVec.getLsbD_shiftLeft]
      by_cases h64 : j < 64
      · by_cases hjl : j < l
        · simp [h64, hjl, Nat.ne_of_lt hjl]
        · have h1 : (1#64).getLsbD (j - l) = decide (j = l) := by
            rw [BitVec.getLsbD_one]
            by_cases he : j = l
            · simp [he]
            · have : j - l ≠ 0 := by omega
              simp [he, this]
          simp [h64, hjl, h1]
      · simp [h64]
    rw [BitVec.getLsbD_or, hb, List.contains_cons, show (j == l) = decide (j = l) from rfl]
    cases m.getLsbD j <;> cases decide (j < 64) <;> cases decide (j = l) <;> cases ls.contains j <;> rfl

/-- A mask of lane numbers holds exactly those below 64. -/
theorem maskOf_getLsbD (ls : List Nat) (j : Nat) : (maskOf ls).getLsbD j = (decide (j < 64) && ls.contains j) := by
  simp [maskOf, foldl_or_getLsbD]

end Sys2Proof.Machine
end

