-- ==== Sys2Proof/Laws/State.lean ====
section
/-! SUPPORT. What each named update of the state does to each of its fields. -/

namespace Sys2Proof.Machine

/-! ### setCore -/

@[simp] theorem setCore_mem (s : State) (c : Nat) (x : Core) : (setCore s c x).mem = s.mem := rfl
@[simp] theorem setCore_memPoison (s : State) (c : Nat) (x : Core) : (setCore s c x).memPoison = s.memPoison := rfl
@[simp] theorem setCore_posted (s : State) (c : Nat) (x : Core) : (setCore s c x).posted = s.posted := rfl
@[simp] theorem setCore_nextTag (s : State) (c : Nat) (x : Core) : (setCore s c x).nextTag = s.nextTag := rfl
@[simp] theorem setCore_late (s : State) (c : Nat) (x : Core) : (setCore s c x).late = s.late := rfl
@[simp] theorem setCore_deferring (s : State) (c : Nat) (x : Core) : (setCore s c x).deferring = s.deferring := rfl
@[simp] theorem setCore_freeIx (s : State) (c : Nat) (x : Core) : (setCore s c x).freeIx = s.freeIx := rfl
@[simp] theorem setCore_outside (s : State) (c : Nat) (x : Core) : (setCore s c x).outside = s.outside := rfl
@[simp] theorem setCore_agenda (s : State) (c : Nat) (x : Core) : (setCore s c x).agenda = s.agenda := rfl
@[simp] theorem setCore_focus (s : State) (c : Nat) (x : Core) : (setCore s c x).focus = s.focus := rfl
@[simp] theorem setCore_units_cores (s : State) (c : Nat) (x : Core) : (setCore s c x).units.cores = tput s.units.cores c x := rfl
@[simp] theorem setCore_units_clusters (s : State) (c : Nat) (x : Core) : (setCore s c x).units.clusters = s.units.clusters := rfl
@[simp] theorem setCore_units_parts (s : State) (c : Nat) (x : Core) : (setCore s c x).units.parts = s.units.parts := rfl
@[simp] theorem setCore_units_dieTlb (s : State) (c : Nat) (x : Core) : (setCore s c x).units.dieTlb = s.units.dieTlb := rfl
@[simp] theorem setCore_units_l2 (s : State) (c : Nat) (x : Core) : (setCore s c x).units.l2 = s.units.l2 := rfl
@[simp] theorem setCore_units_tags (s : State) (c : Nat) (x : Core) : (setCore s c x).units.tags = s.units.tags := rfl
@[simp] theorem setCore_units_tagReads (s : State) (c : Nat) (x : Core) : (setCore s c x).units.tagReads = s.units.tagReads := rfl
@[simp] theorem setCore_units_power (s : State) (c : Nat) (x : Core) : (setCore s c x).units.power = s.units.power := rfl
@[simp] theorem setCore_units_mgmt (s : State) (c : Nat) (x : Core) : (setCore s c x).units.mgmt = s.units.mgmt := rfl
@[simp] theorem setCore_units_trust (s : State) (c : Nat) (x : Core) : (setCore s c x).units.trust = s.units.trust := rfl
@[simp] theorem setCore_units_events (s : State) (c : Nat) (x : Core) : (setCore s c x).units.events = s.units.events := rfl
@[simp] theorem setCore_units_saving (s : State) (c : Nat) (x : Core) : (setCore s c x).units.saving = s.units.saving := rfl
@[simp] theorem setCore_units_sysRegs (s : State) (c : Nat) (x : Core) : (setCore s c x).units.sysRegs = s.units.sysRegs := rfl
@[simp] theorem setCore_units_ready (s : State) (c : Nat) (x : Core) : (setCore s c x).units.ready = s.units.ready := rfl
@[simp] theorem setCore_units_fuses (s : State) (c : Nat) (x : Core) : (setCore s c x).units.fuses = s.units.fuses := rfl
@[simp] theorem setCore_units_linkDown (s : State) (c : Nat) (x : Core) : (setCore s c x).units.linkDown = s.units.linkDown := rfl
@[simp] theorem setCore_units_badNs (s : State) (c : Nat) (x : Core) : (setCore s c x).units.badNs = s.units.badNs := rfl
@[simp] theorem setCore_work (s : State) (c : Nat) (x : Core) : (setCore s c x).work = s.work := rfl

/-! ### setCluster -/

@[simp] theorem setCluster_mem (s : State) (c : Nat) (x : Cluster) : (setCluster s c x).mem = s.mem := rfl
@[simp] theorem setCluster_memPoison (s : State) (c : Nat) (x : Cluster) : (setCluster s c x).memPoison = s.memPoison := rfl
@[simp] theorem setCluster_posted (s : State) (c : Nat) (x : Cluster) : (setCluster s c x).posted = s.posted := rfl
@[simp] theorem setCluster_nextTag (s : State) (c : Nat) (x : Cluster) : (setCluster s c x).nextTag = s.nextTag := rfl
@[simp] theorem setCluster_late (s : State) (c : Nat) (x : Cluster) : (setCluster s c x).late = s.late := rfl
@[simp] theorem setCluster_deferring (s : State) (c : Nat) (x : Cluster) : (setCluster s c x).deferring = s.deferring := rfl
@[simp] theorem setCluster_freeIx (s : State) (c : Nat) (x : Cluster) : (setCluster s c x).freeIx = s.freeIx := rfl
@[simp] theorem setCluster_outside (s : State) (c : Nat) (x : Cluster) : (setCluster s c x).outside = s.outside := rfl
@[simp] theorem setCluster_agenda (s : State) (c : Nat) (x : Cluster) : (setCluster s c x).agenda = s.agenda := rfl
@[simp] theorem setCluster_focus (s : State) (c : Nat) (x : Cluster) : (setCluster s c x).focus = s.focus := rfl
@[simp] theorem setCluster_units_cores (s : State) (c : Nat) (x : Cluster) : (setCluster s c x).units.cores = s.units.cores := rfl
@[simp] theorem setCluster_units_clusters (s : State) (c : Nat) (x : Cluster) : (setCluster s c x).units.clusters = tput s.units.clusters c x := rfl
@[simp] theorem setCluster_units_parts (s : State) (c : Nat) (x : Cluster) : (setCluster s c x).units.parts = s.units.parts := rfl
@[simp] theorem setCluster_units_dieTlb (s : State) (c : Nat) (x : Cluster) : (setCluster s c x).units.dieTlb = s.units.dieTlb := rfl
@[simp] theorem setCluster_units_l2 (s : State) (c : Nat) (x : Cluster) : (setCluster s c x).units.l2 = s.units.l2 := rfl
@[simp] theorem setCluster_units_tags (s : State) (c : Nat) (x : Cluster) : (setCluster s c x).units.tags = s.units.tags := rfl
@[simp] theorem setCluster_units_tagReads (s : State) (c : Nat) (x : Cluster) : (setCluster s c x).units.tagReads = s.units.tagReads := rfl
@[simp] theorem setCluster_units_power (s : State) (c : Nat) (x : Cluster) : (setCluster s c x).units.power = s.units.power := rfl
@[simp] theorem setCluster_units_mgmt (s : State) (c : Nat) (x : Cluster) : (setCluster s c x).units.mgmt = s.units.mgmt := rfl
@[simp] theorem setCluster_units_trust (s : State) (c : Nat) (x : Cluster) : (setCluster s c x).units.trust = s.units.trust := rfl
@[simp] theorem setCluster_units_events (s : State) (c : Nat) (x : Cluster) : (setCluster s c x).units.events = s.units.events := rfl
@[simp] theorem setCluster_units_saving (s : State) (c : Nat) (x : Cluster) : (setCluster s c x).units.saving = s.units.saving := rfl
@[simp] theorem setCluster_units_sysRegs (s : State) (c : Nat) (x : Cluster) : (setCluster s c x).units.sysRegs = s.units.sysRegs := rfl
@[simp] theorem setCluster_units_ready (s : State) (c : Nat) (x : Cluster) : (setCluster s c x).units.ready = s.units.ready := rfl
@[simp] theorem setCluster_units_fuses (s : State) (c : Nat) (x : Cluster) : (setCluster s c x).units.fuses = s.units.fuses := rfl
@[simp] theorem setCluster_units_linkDown (s : State) (c : Nat) (x : Cluster) : (setCluster s c x).units.linkDown = s.units.linkDown := rfl
@[simp] theorem setCluster_units_badNs (s : State) (c : Nat) (x : Cluster) : (setCluster s c x).units.badNs = s.units.badNs := rfl
@[simp] theorem setCluster_work (s : State) (c : Nat) (x : Cluster) : (setCluster s c x).work = s.work := rfl

/-! ### setPart -/

@[simp] theorem setPart_mem (s : State) (p : Nat) (x : Part) : (setPart s p x).mem = s.mem := rfl
@[simp] theorem setPart_memPoison (s : State) (p : Nat) (x : Part) : (setPart s p x).memPoison = s.memPoison := rfl
@[simp] theorem setPart_posted (s : State) (p : Nat) (x : Part) : (setPart s p x).posted = s.posted := rfl
@[simp] theorem setPart_nextTag (s : State) (p : Nat) (x : Part) : (setPart s p x).nextTag = s.nextTag := rfl
@[simp] theorem setPart_late (s : State) (p : Nat) (x : Part) : (setPart s p x).late = s.late := rfl
@[simp] theorem setPart_deferring (s : State) (p : Nat) (x : Part) : (setPart s p x).deferring = s.deferring := rfl
@[simp] theorem setPart_freeIx (s : State) (p : Nat) (x : Part) : (setPart s p x).freeIx = s.freeIx := rfl
@[simp] theorem setPart_outside (s : State) (p : Nat) (x : Part) : (setPart s p x).outside = s.outside := rfl
@[simp] theorem setPart_agenda (s : State) (p : Nat) (x : Part) : (setPart s p x).agenda = s.agenda := rfl
@[simp] theorem setPart_focus (s : State) (p : Nat) (x : Part) : (setPart s p x).focus = s.focus := rfl
@[simp] theorem setPart_units_cores (s : State) (p : Nat) (x : Part) : (setPart s p x).units.cores = s.units.cores := rfl
@[simp] theorem setPart_units_clusters (s : State) (p : Nat) (x : Part) : (setPart s p x).units.clusters = s.units.clusters := rfl
@[simp] theorem setPart_units_parts (s : State) (p : Nat) (x : Part) : (setPart s p x).units.parts = tput s.units.parts p x := rfl
@[simp] theorem setPart_units_dieTlb (s : State) (p : Nat) (x : Part) : (setPart s p x).units.dieTlb = s.units.dieTlb := rfl
@[simp] theorem setPart_units_l2 (s : State) (p : Nat) (x : Part) : (setPart s p x).units.l2 = s.units.l2 := rfl
@[simp] theorem setPart_units_tags (s : State) (p : Nat) (x : Part) : (setPart s p x).units.tags = s.units.tags := rfl
@[simp] theorem setPart_units_tagReads (s : State) (p : Nat) (x : Part) : (setPart s p x).units.tagReads = s.units.tagReads := rfl
@[simp] theorem setPart_units_power (s : State) (p : Nat) (x : Part) : (setPart s p x).units.power = s.units.power := rfl
@[simp] theorem setPart_units_mgmt (s : State) (p : Nat) (x : Part) : (setPart s p x).units.mgmt = s.units.mgmt := rfl
@[simp] theorem setPart_units_trust (s : State) (p : Nat) (x : Part) : (setPart s p x).units.trust = s.units.trust := rfl
@[simp] theorem setPart_units_events (s : State) (p : Nat) (x : Part) : (setPart s p x).units.events = s.units.events := rfl
@[simp] theorem setPart_units_saving (s : State) (p : Nat) (x : Part) : (setPart s p x).units.saving = s.units.saving := rfl
@[simp] theorem setPart_units_sysRegs (s : State) (p : Nat) (x : Part) : (setPart s p x).units.sysRegs = s.units.sysRegs := rfl
@[simp] theorem setPart_units_ready (s : State) (p : Nat) (x : Part) : (setPart s p x).units.ready = s.units.ready := rfl
@[simp] theorem setPart_units_fuses (s : State) (p : Nat) (x : Part) : (setPart s p x).units.fuses = s.units.fuses := rfl
@[simp] theorem setPart_units_linkDown (s : State) (p : Nat) (x : Part) : (setPart s p x).units.linkDown = s.units.linkDown := rfl
@[simp] theorem setPart_units_badNs (s : State) (p : Nat) (x : Part) : (setPart s p x).units.badNs = s.units.badNs := rfl
@[simp] theorem setPart_work (s : State) (p : Nat) (x : Part) : (setPart s p x).work = s.work := rfl

/-! ### setGroup -/

@[simp] theorem setGroup_mem (s : State) (g : Nat) (x : Group) : (setGroup s g x).mem = s.mem := rfl
@[simp] theorem setGroup_memPoison (s : State) (g : Nat) (x : Group) : (setGroup s g x).memPoison = s.memPoison := rfl
@[simp] theorem setGroup_posted (s : State) (g : Nat) (x : Group) : (setGroup s g x).posted = s.posted := rfl
@[simp] theorem setGroup_nextTag (s : State) (g : Nat) (x : Group) : (setGroup s g x).nextTag = s.nextTag := rfl
@[simp] theorem setGroup_late (s : State) (g : Nat) (x : Group) : (setGroup s g x).late = s.late := rfl
@[simp] theorem setGroup_deferring (s : State) (g : Nat) (x : Group) : (setGroup s g x).deferring = s.deferring := rfl
@[simp] theorem setGroup_freeIx (s : State) (g : Nat) (x : Group) : (setGroup s g x).freeIx = s.freeIx := rfl
@[simp] theorem setGroup_outside (s : State) (g : Nat) (x : Group) : (setGroup s g x).outside = s.outside := rfl
@[simp] theorem setGroup_agenda (s : State) (g : Nat) (x : Group) : (setGroup s g x).agenda = s.agenda := rfl
@[simp] theorem setGroup_focus (s : State) (g : Nat) (x : Group) : (setGroup s g x).focus = s.focus := rfl
@[simp] theorem setGroup_work_groups (s : State) (g : Nat) (x : Group) : (setGroup s g x).work.groups = tput s.work.groups g x := rfl
@[simp] theorem setGroup_work_slots (s : State) (g : Nat) (x : Group) : (setGroup s g x).work.slots = s.work.slots := rfl
@[simp] theorem setGroup_work_teams (s : State) (g : Nat) (x : Group) : (setGroup s g x).work.teams = s.work.teams := rfl
@[simp] theorem setGroup_work_launches (s : State) (g : Nat) (x : Group) : (setGroup s g x).work.launches = s.work.launches := rfl
@[simp] theorem setGroup_work_passes (s : State) (g : Nat) (x : Group) : (setGroup s g x).work.passes = s.work.passes := rfl
@[simp] theorem setGroup_work_streams (s : State) (g : Nat) (x : Group) : (setGroup s g x).work.streams = s.work.streams := rfl
@[simp] theorem setGroup_work_images (s : State) (g : Nat) (x : Group) : (setGroup s g x).work.images = s.work.images := rfl
@[simp] theorem setGroup_work_nextId (s : State) (g : Nat) (x : Group) : (setGroup s g x).work.nextId = s.work.nextId := rfl
@[simp] theorem setGroup_units (s : State) (g : Nat) (x : Group) : (setGroup s g x).units = s.units := rfl

/-! ### modGroup -/

@[simp] theorem modGroup_mem (s : State) (g : Nat) (f : Group → Group) : (modGroup s g f).mem = s.mem := rfl
@[simp] theorem modGroup_memPoison (s : State) (g : Nat) (f : Group → Group) : (modGroup s g f).memPoison = s.memPoison := rfl
@[simp] theorem modGroup_posted (s : State) (g : Nat) (f : Group → Group) : (modGroup s g f).posted = s.posted := rfl
@[simp] theorem modGroup_nextTag (s : State) (g : Nat) (f : Group → Group) : (modGroup s g f).nextTag = s.nextTag := rfl
@[simp] theorem modGroup_late (s : State) (g : Nat) (f : Group → Group) : (modGroup s g f).late = s.late := rfl
@[simp] theorem modGroup_deferring (s : State) (g : Nat) (f : Group → Group) : (modGroup s g f).deferring = s.deferring := rfl
@[simp] theorem modGroup_freeIx (s : State) (g : Nat) (f : Group → Group) : (modGroup s g f).freeIx = s.freeIx := rfl
@[simp] theorem modGroup_outside (s : State) (g : Nat) (f : Group → Group) : (modGroup s g f).outside = s.outside := rfl
@[simp] theorem modGroup_agenda (s : State) (g : Nat) (f : Group → Group) : (modGroup s g f).agenda = s.agenda := rfl
@[simp] theorem modGroup_focus (s : State) (g : Nat) (f : Group → Group) : (modGroup s g f).focus = s.focus := rfl
@[simp] theorem modGroup_work_groups (s : State) (g : Nat) (f : Group → Group) : (modGroup s g f).work.groups = tmod s.work.groups g f := rfl
@[simp] theorem modGroup_work_slots (s : State) (g : Nat) (f : Group → Group) : (modGroup s g f).work.slots = s.work.slots := rfl
@[simp] theorem modGroup_work_teams (s : State) (g : Nat) (f : Group → Group) : (modGroup s g f).work.teams = s.work.teams := rfl
@[simp] theorem modGroup_work_launches (s : State) (g : Nat) (f : Group → Group) : (modGroup s g f).work.launches = s.work.launches := rfl
@[simp] theorem modGroup_work_passes (s : State) (g : Nat) (f : Group → Group) : (modGroup s g f).work.passes = s.work.passes := rfl
@[simp] theorem modGroup_work_streams (s : State) (g : Nat) (f : Group → Group) : (modGroup s g f).work.streams = s.work.streams := rfl
@[simp] theorem modGroup_work_images (s : State) (g : Nat) (f : Group → Group) : (modGroup s g f).work.images = s.work.images := rfl
@[simp] theorem modGroup_work_nextId (s : State) (g : Nat) (f : Group → Group) : (modGroup s g f).work.nextId = s.work.nextId := rfl
@[simp] theorem modGroup_units (s : State) (g : Nat) (f : Group → Group) : (modGroup s g f).units = s.units := rfl

/-! ### setTeam -/

@[simp] theorem setTeam_mem (s : State) (k : Nat) (x : Team) : (setTeam s k x).mem = s.mem := rfl
@[simp] theorem setTeam_memPoison (s : State) (k : Nat) (x : Team) : (setTeam s k x).memPoison = s.memPoison := rfl
@[simp] theorem setTeam_posted (s : State) (k : Nat) (x : Team) : (setTeam s k x).posted = s.posted := rfl
@[simp] theorem setTeam_nextTag (s : State) (k : Nat) (x : Team) : (setTeam s k x).nextTag = s.nextTag := rfl
@[simp] theorem setTeam_late (s : State) (k : Nat) (x : Team) : (setTeam s k x).late = s.late := rfl
@[simp] theorem setTeam_deferring (s : State) (k : Nat) (x : Team) : (setTeam s k x).deferring = s.deferring := rfl
@[simp] theorem setTeam_freeIx (s : State) (k : Nat) (x : Team) : (setTeam s k x).freeIx = s.freeIx := rfl
@[simp] theorem setTeam_outside (s : State) (k : Nat) (x : Team) : (setTeam s k x).outside = s.outside := rfl
@[simp] theorem setTeam_agenda (s : State) (k : Nat) (x : Team) : (setTeam s k x).agenda = s.agenda := rfl
@[simp] theorem setTeam_focus (s : State) (k : Nat) (x : Team) : (setTeam s k x).focus = s.focus := rfl
@[simp] theorem setTeam_work_groups (s : State) (k : Nat) (x : Team) : (setTeam s k x).work.groups = s.work.groups := rfl
@[simp] theorem setTeam_work_slots (s : State) (k : Nat) (x : Team) : (setTeam s k x).work.slots = s.work.slots := rfl
@[simp] theorem setTeam_work_teams (s : State) (k : Nat) (x : Team) : (setTeam s k x).work.teams = tput s.work.teams k x := rfl
@[simp] theorem setTeam_work_launches (s : State) (k : Nat) (x : Team) : (setTeam s k x).work.launches = s.work.launches := rfl
@[simp] theorem setTeam_work_passes (s : State) (k : Nat) (x : Team) : (setTeam s k x).work.passes = s.work.passes := rfl
@[simp] theorem setTeam_work_streams (s : State) (k : Nat) (x : Team) : (setTeam s k x).work.streams = s.work.streams := rfl
@[simp] theorem setTeam_work_images (s : State) (k : Nat) (x : Team) : (setTeam s k x).work.images = s.work.images := rfl
@[simp] theorem setTeam_work_nextId (s : State) (k : Nat) (x : Team) : (setTeam s k x).work.nextId = s.work.nextId := rfl
@[simp] theorem setTeam_units (s : State) (k : Nat) (x : Team) : (setTeam s k x).units = s.units := rfl

/-! ### modTeam -/

@[simp] theorem modTeam_mem (s : State) (k : Nat) (f : Team → Team) : (modTeam s k f).mem = s.mem := rfl
@[simp] theorem modTeam_memPoison (s : State) (k : Nat) (f : Team → Team) : (modTeam s k f).memPoison = s.memPoison := rfl
@[simp] theorem modTeam_posted (s : State) (k : Nat) (f : Team → Team) : (modTeam s k f).posted = s.posted := rfl
@[simp] theorem modTeam_nextTag (s : State) (k : Nat) (f : Team → Team) : (modTeam s k f).nextTag = s.nextTag := rfl
@[simp] theorem modTeam_late (s : State) (k : Nat) (f : Team → Team) : (modTeam s k f).late = s.late := rfl
@[simp] theorem modTeam_deferring (s : State) (k : Nat) (f : Team → Team) : (modTeam s k f).deferring = s.deferring := rfl
@[simp] theorem modTeam_freeIx (s : State) (k : Nat) (f : Team → Team) : (modTeam s k f).freeIx = s.freeIx := rfl
@[simp] theorem modTeam_outside (s : State) (k : Nat) (f : Team → Team) : (modTeam s k f).outside = s.outside := rfl
@[simp] theorem modTeam_agenda (s : State) (k : Nat) (f : Team → Team) : (modTeam s k f).agenda = s.agenda := rfl
@[simp] theorem modTeam_focus (s : State) (k : Nat) (f : Team → Team) : (modTeam s k f).focus = s.focus := rfl
@[simp] theorem modTeam_work_groups (s : State) (k : Nat) (f : Team → Team) : (modTeam s k f).work.groups = s.work.groups := rfl
@[simp] theorem modTeam_work_slots (s : State) (k : Nat) (f : Team → Team) : (modTeam s k f).work.slots = s.work.slots := rfl
@[simp] theorem modTeam_work_teams (s : State) (k : Nat) (f : Team → Team) : (modTeam s k f).work.teams = tmod s.work.teams k f := rfl
@[simp] theorem modTeam_work_launches (s : State) (k : Nat) (f : Team → Team) : (modTeam s k f).work.launches = s.work.launches := rfl
@[simp] theorem modTeam_work_passes (s : State) (k : Nat) (f : Team → Team) : (modTeam s k f).work.passes = s.work.passes := rfl
@[simp] theorem modTeam_work_streams (s : State) (k : Nat) (f : Team → Team) : (modTeam s k f).work.streams = s.work.streams := rfl
@[simp] theorem modTeam_work_images (s : State) (k : Nat) (f : Team → Team) : (modTeam s k f).work.images = s.work.images := rfl
@[simp] theorem modTeam_work_nextId (s : State) (k : Nat) (f : Team → Team) : (modTeam s k f).work.nextId = s.work.nextId := rfl
@[simp] theorem modTeam_units (s : State) (k : Nat) (f : Team → Team) : (modTeam s k f).units = s.units := rfl

/-! ### modLaunch -/

@[simp] theorem modLaunch_mem (s : State) (k : Nat) (f : Launch → Launch) : (modLaunch s k f).mem = s.mem := rfl
@[simp] theorem modLaunch_memPoison (s : State) (k : Nat) (f : Launch → Launch) : (modLaunch s k f).memPoison = s.memPoison := rfl
@[simp] theorem modLaunch_posted (s : State) (k : Nat) (f : Launch → Launch) : (modLaunch s k f).posted = s.posted := rfl
@[simp] theorem modLaunch_nextTag (s : State) (k : Nat) (f : Launch → Launch) : (modLaunch s k f).nextTag = s.nextTag := rfl
@[simp] theorem modLaunch_late (s : State) (k : Nat) (f : Launch → Launch) : (modLaunch s k f).late = s.late := rfl
@[simp] theorem modLaunch_deferring (s : State) (k : Nat) (f : Launch → Launch) : (modLaunch s k f).deferring = s.deferring := rfl
@[simp] theorem modLaunch_freeIx (s : State) (k : Nat) (f : Launch → Launch) : (modLaunch s k f).freeIx = s.freeIx := rfl
@[simp] theorem modLaunch_outside (s : State) (k : Nat) (f : Launch → Launch) : (modLaunch s k f).outside = s.outside := rfl
@[simp] theorem modLaunch_agenda (s : State) (k : Nat) (f : Launch → Launch) : (modLaunch s k f).agenda = s.agenda := rfl
@[simp] theorem modLaunch_focus (s : State) (k : Nat) (f : Launch → Launch) : (modLaunch s k f).focus = s.focus := rfl
@[simp] theorem modLaunch_work_groups (s : State) (k : Nat) (f : Launch → Launch) : (modLaunch s k f).work.groups = s.work.groups := rfl
@[simp] theorem modLaunch_work_slots (s : State) (k : Nat) (f : Launch → Launch) : (modLaunch s k f).work.slots = s.work.slots := rfl
@[simp] theorem modLaunch_work_teams (s : State) (k : Nat) (f : Launch → Launch) : (modLaunch s k f).work.teams = s.work.teams := rfl
@[simp] theorem modLaunch_work_launches (s : State) (k : Nat) (f : Launch → Launch) : (modLaunch s k f).work.launches = tmod s.work.launches k f := rfl
@[simp] theorem modLaunch_work_passes (s : State) (k : Nat) (f : Launch → Launch) : (modLaunch s k f).work.passes = s.work.passes := rfl
@[simp] theorem modLaunch_work_streams (s : State) (k : Nat) (f : Launch → Launch) : (modLaunch s k f).work.streams = s.work.streams := rfl
@[simp] theorem modLaunch_work_images (s : State) (k : Nat) (f : Launch → Launch) : (modLaunch s k f).work.images = s.work.images := rfl
@[simp] theorem modLaunch_work_nextId (s : State) (k : Nat) (f : Launch → Launch) : (modLaunch s k f).work.nextId = s.work.nextId := rfl
@[simp] theorem modLaunch_units (s : State) (k : Nat) (f : Launch → Launch) : (modLaunch s k f).units = s.units := rfl

/-! ### modSlot -/

@[simp] theorem modSlot_mem (s : State) (k : Nat) (f : Slot → Slot) : (modSlot s k f).mem = s.mem := rfl
@[simp] theorem modSlot_memPoison (s : State) (k : Nat) (f : Slot → Slot) : (modSlot s k f).memPoison = s.memPoison := rfl
@[simp] theorem modSlot_posted (s : State) (k : Nat) (f : Slot → Slot) : (modSlot s k f).posted = s.posted := rfl
@[simp] theorem modSlot_nextTag (s : State) (k : Nat) (f : Slot → Slot) : (modSlot s k f).nextTag = s.nextTag := rfl
@[simp] theorem modSlot_late (s : State) (k : Nat) (f : Slot → Slot) : (modSlot s k f).late = s.late := rfl
@[simp] theorem modSlot_deferring (s : State) (k : Nat) (f : Slot → Slot) : (modSlot s k f).deferring = s.deferring := rfl
@[simp] theorem modSlot_freeIx (s : State) (k : Nat) (f : Slot → Slot) : (modSlot s k f).freeIx = s.freeIx := rfl
@[simp] theorem modSlot_outside (s : State) (k : Nat) (f : Slot → Slot) : (modSlot s k f).outside = s.outside := rfl
@[simp] theorem modSlot_agenda (s : State) (k : Nat) (f : Slot → Slot) : (modSlot s k f).agenda = s.agenda := rfl
@[simp] theorem modSlot_focus (s : State) (k : Nat) (f : Slot → Slot) : (modSlot s k f).focus = s.focus := rfl
@[simp] theorem modSlot_work_groups (s : State) (k : Nat) (f : Slot → Slot) : (modSlot s k f).work.groups = s.work.groups := rfl
@[simp] theorem modSlot_work_slots (s : State) (k : Nat) (f : Slot → Slot) : (modSlot s k f).work.slots = tmod s.work.slots k f := rfl
@[simp] theorem modSlot_work_teams (s : State) (k : Nat) (f : Slot → Slot) : (modSlot s k f).work.teams = s.work.teams := rfl
@[simp] theorem modSlot_work_launches (s : State) (k : Nat) (f : Slot → Slot) : (modSlot s k f).work.launches = s.work.launches := rfl
@[simp] theorem modSlot_work_passes (s : State) (k : Nat) (f : Slot → Slot) : (modSlot s k f).work.passes = s.work.passes := rfl
@[simp] theorem modSlot_work_streams (s : State) (k : Nat) (f : Slot → Slot) : (modSlot s k f).work.streams = s.work.streams := rfl
@[simp] theorem modSlot_work_images (s : State) (k : Nat) (f : Slot → Slot) : (modSlot s k f).work.images = s.work.images := rfl
@[simp] theorem modSlot_work_nextId (s : State) (k : Nat) (f : Slot → Slot) : (modSlot s k f).work.nextId = s.work.nextId := rfl
@[simp] theorem modSlot_units (s : State) (k : Nat) (f : Slot → Slot) : (modSlot s k f).units = s.units := rfl

/-! ### modPass -/

@[simp] theorem modPass_mem (s : State) (k : Nat) (f : Pass → Pass) : (modPass s k f).mem = s.mem := rfl
@[simp] theorem modPass_memPoison (s : State) (k : Nat) (f : Pass → Pass) : (modPass s k f).memPoison = s.memPoison := rfl
@[simp] theorem modPass_posted (s : State) (k : Nat) (f : Pass → Pass) : (modPass s k f).posted = s.posted := rfl
@[simp] theorem modPass_nextTag (s : State) (k : Nat) (f : Pass → Pass) : (modPass s k f).nextTag = s.nextTag := rfl
@[simp] theorem modPass_late (s : State) (k : Nat) (f : Pass → Pass) : (modPass s k f).late = s.late := rfl
@[simp] theorem modPass_deferring (s : State) (k : Nat) (f : Pass → Pass) : (modPass s k f).deferring = s.deferring := rfl
@[simp] theorem modPass_freeIx (s : State) (k : Nat) (f : Pass → Pass) : (modPass s k f).freeIx = s.freeIx := rfl
@[simp] theorem modPass_outside (s : State) (k : Nat) (f : Pass → Pass) : (modPass s k f).outside = s.outside := rfl
@[simp] theorem modPass_agenda (s : State) (k : Nat) (f : Pass → Pass) : (modPass s k f).agenda = s.agenda := rfl
@[simp] theorem modPass_focus (s : State) (k : Nat) (f : Pass → Pass) : (modPass s k f).focus = s.focus := rfl
@[simp] theorem modPass_work_groups (s : State) (k : Nat) (f : Pass → Pass) : (modPass s k f).work.groups = s.work.groups := rfl
@[simp] theorem modPass_work_slots (s : State) (k : Nat) (f : Pass → Pass) : (modPass s k f).work.slots = s.work.slots := rfl
@[simp] theorem modPass_work_teams (s : State) (k : Nat) (f : Pass → Pass) : (modPass s k f).work.teams = s.work.teams := rfl
@[simp] theorem modPass_work_launches (s : State) (k : Nat) (f : Pass → Pass) : (modPass s k f).work.launches = s.work.launches := rfl
@[simp] theorem modPass_work_passes (s : State) (k : Nat) (f : Pass → Pass) : (modPass s k f).work.passes = tmod s.work.passes k f := rfl
@[simp] theorem modPass_work_streams (s : State) (k : Nat) (f : Pass → Pass) : (modPass s k f).work.streams = s.work.streams := rfl
@[simp] theorem modPass_work_images (s : State) (k : Nat) (f : Pass → Pass) : (modPass s k f).work.images = s.work.images := rfl
@[simp] theorem modPass_work_nextId (s : State) (k : Nat) (f : Pass → Pass) : (modPass s k f).work.nextId = s.work.nextId := rfl
@[simp] theorem modPass_units (s : State) (k : Nat) (f : Pass → Pass) : (modPass s k f).units = s.units := rfl

/-! ### setSysReg -/

@[simp] theorem setSysReg_mem (s : State) (n : Nat) (v : Word) : (setSysReg s n v).mem = s.mem := rfl
@[simp] theorem setSysReg_memPoison (s : State) (n : Nat) (v : Word) : (setSysReg s n v).memPoison = s.memPoison := rfl
@[simp] theorem setSysReg_posted (s : State) (n : Nat) (v : Word) : (setSysReg s n v).posted = s.posted := rfl
@[simp] theorem setSysReg_nextTag (s : State) (n : Nat) (v : Word) : (setSysReg s n v).nextTag = s.nextTag := rfl
@[simp] theorem setSysReg_late (s : State) (n : Nat) (v : Word) : (setSysReg s n v).late = s.late := rfl
@[simp] theorem setSysReg_deferring (s : State) (n : Nat) (v : Word) : (setSysReg s n v).deferring = s.deferring := rfl
@[simp] theorem setSysReg_freeIx (s : State) (n : Nat) (v : Word) : (setSysReg s n v).freeIx = s.freeIx := rfl
@[simp] theorem setSysReg_outside (s : State) (n : Nat) (v : Word) : (setSysReg s n v).outside = s.outside := rfl
@[simp] theorem setSysReg_agenda (s : State) (n : Nat) (v : Word) : (setSysReg s n v).agenda = s.agenda := rfl
@[simp] theorem setSysReg_focus (s : State) (n : Nat) (v : Word) : (setSysReg s n v).focus = s.focus := rfl
@[simp] theorem setSysReg_units_cores (s : State) (n : Nat) (v : Word) : (setSysReg s n v).units.cores = s.units.cores := rfl
@[simp] theorem setSysReg_units_clusters (s : State) (n : Nat) (v : Word) : (setSysReg s n v).units.clusters = s.units.clusters := rfl
@[simp] theorem setSysReg_units_parts (s : State) (n : Nat) (v : Word) : (setSysReg s n v).units.parts = s.units.parts := rfl
@[simp] theorem setSysReg_units_dieTlb (s : State) (n : Nat) (v : Word) : (setSysReg s n v).units.dieTlb = s.units.dieTlb := rfl
@[simp] theorem setSysReg_units_l2 (s : State) (n : Nat) (v : Word) : (setSysReg s n v).units.l2 = s.units.l2 := rfl
@[simp] theorem setSysReg_units_tags (s : State) (n : Nat) (v : Word) : (setSysReg s n v).units.tags = s.units.tags := rfl
@[simp] theorem setSysReg_units_tagReads (s : State) (n : Nat) (v : Word) : (setSysReg s n v).units.tagReads = s.units.tagReads := rfl
@[simp] theorem setSysReg_units_power (s : State) (n : Nat) (v : Word) : (setSysReg s n v).units.power = s.units.power := rfl
@[simp] theorem setSysReg_units_mgmt (s : State) (n : Nat) (v : Word) : (setSysReg s n v).units.mgmt = s.units.mgmt := rfl
@[simp] theorem setSysReg_units_trust (s : State) (n : Nat) (v : Word) : (setSysReg s n v).units.trust = s.units.trust := rfl
@[simp] theorem setSysReg_units_events (s : State) (n : Nat) (v : Word) : (setSysReg s n v).units.events = s.units.events := rfl
@[simp] theorem setSysReg_units_saving (s : State) (n : Nat) (v : Word) : (setSysReg s n v).units.saving = s.units.saving := rfl
@[simp] theorem setSysReg_units_sysRegs (s : State) (n : Nat) (v : Word) : (setSysReg s n v).units.sysRegs = tput s.units.sysRegs n v := rfl
@[simp] theorem setSysReg_units_ready (s : State) (n : Nat) (v : Word) : (setSysReg s n v).units.ready = s.units.ready := rfl
@[simp] theorem setSysReg_units_fuses (s : State) (n : Nat) (v : Word) : (setSysReg s n v).units.fuses = s.units.fuses := rfl
@[simp] theorem setSysReg_units_linkDown (s : State) (n : Nat) (v : Word) : (setSysReg s n v).units.linkDown = s.units.linkDown := rfl
@[simp] theorem setSysReg_units_badNs (s : State) (n : Nat) (v : Word) : (setSysReg s n v).units.badNs = s.units.badNs := rfl
@[simp] theorem setSysReg_work (s : State) (n : Nat) (v : Word) : (setSysReg s n v).work = s.work := rfl

/-! ### raiseEvent -/

@[simp] theorem raiseEvent_mem (s : State) (r : List Byte) : (raiseEvent s r).mem = s.mem := rfl
@[simp] theorem raiseEvent_memPoison (s : State) (r : List Byte) : (raiseEvent s r).memPoison = s.memPoison := rfl
@[simp] theorem raiseEvent_posted (s : State) (r : List Byte) : (raiseEvent s r).posted = s.posted := rfl
@[simp] theorem raiseEvent_nextTag (s : State) (r : List Byte) : (raiseEvent s r).nextTag = s.nextTag := rfl
@[simp] theorem raiseEvent_late (s : State) (r : List Byte) : (raiseEvent s r).late = s.late := rfl
@[simp] theorem raiseEvent_deferring (s : State) (r : List Byte) : (raiseEvent s r).deferring = s.deferring := rfl
@[simp] theorem raiseEvent_freeIx (s : State) (r : List Byte) : (raiseEvent s r).freeIx = s.freeIx := rfl
@[simp] theorem raiseEvent_outside (s : State) (r : List Byte) : (raiseEvent s r).outside = s.outside := rfl
@[simp] theorem raiseEvent_agenda (s : State) (r : List Byte) : (raiseEvent s r).agenda = s.agenda := rfl
@[simp] theorem raiseEvent_focus (s : State) (r : List Byte) : (raiseEvent s r).focus = s.focus := rfl
@[simp] theorem raiseEvent_units_cores (s : State) (r : List Byte) : (raiseEvent s r).units.cores = s.units.cores := rfl
@[simp] theorem raiseEvent_units_clusters (s : State) (r : List Byte) : (raiseEvent s r).units.clusters = s.units.clusters := rfl
@[simp] theorem raiseEvent_units_parts (s : State) (r : List Byte) : (raiseEvent s r).units.parts = s.units.parts := rfl
@[simp] theorem raiseEvent_units_dieTlb (s : State) (r : List Byte) : (raiseEvent s r).units.dieTlb = s.units.dieTlb := rfl
@[simp] theorem raiseEvent_units_l2 (s : State) (r : List Byte) : (raiseEvent s r).units.l2 = s.units.l2 := rfl
@[simp] theorem raiseEvent_units_tags (s : State) (r : List Byte) : (raiseEvent s r).units.tags = s.units.tags := rfl
@[simp] theorem raiseEvent_units_tagReads (s : State) (r : List Byte) : (raiseEvent s r).units.tagReads = s.units.tagReads := rfl
@[simp] theorem raiseEvent_units_power (s : State) (r : List Byte) : (raiseEvent s r).units.power = s.units.power := rfl
@[simp] theorem raiseEvent_units_mgmt (s : State) (r : List Byte) : (raiseEvent s r).units.mgmt = s.units.mgmt := rfl
@[simp] theorem raiseEvent_units_trust (s : State) (r : List Byte) : (raiseEvent s r).units.trust = s.units.trust := rfl
@[simp] theorem raiseEvent_units_events (s : State) (r : List Byte) : (raiseEvent s r).units.events = s.units.events ++ [r] := rfl
@[simp] theorem raiseEvent_units_saving (s : State) (r : List Byte) : (raiseEvent s r).units.saving = s.units.saving := rfl
@[simp] theorem raiseEvent_units_sysRegs (s : State) (r : List Byte) : (raiseEvent s r).units.sysRegs = s.units.sysRegs := rfl
@[simp] theorem raiseEvent_units_ready (s : State) (r : List Byte) : (raiseEvent s r).units.ready = s.units.ready := rfl
@[simp] theorem raiseEvent_units_fuses (s : State) (r : List Byte) : (raiseEvent s r).units.fuses = s.units.fuses := rfl
@[simp] theorem raiseEvent_units_linkDown (s : State) (r : List Byte) : (raiseEvent s r).units.linkDown = s.units.linkDown := rfl
@[simp] theorem raiseEvent_units_badNs (s : State) (r : List Byte) : (raiseEvent s r).units.badNs = s.units.badNs := rfl
@[simp] theorem raiseEvent_work (s : State) (r : List Byte) : (raiseEvent s r).work = s.work := rfl

/-! ### modCore -/

@[simp] theorem modCore_mem (s : State) (c : Nat) (f : Core → Core) : (modCore s c f).mem = s.mem := rfl
@[simp] theorem modCore_memPoison (s : State) (c : Nat) (f : Core → Core) : (modCore s c f).memPoison = s.memPoison := rfl
@[simp] theorem modCore_posted (s : State) (c : Nat) (f : Core → Core) : (modCore s c f).posted = s.posted := rfl
@[simp] theorem modCore_nextTag (s : State) (c : Nat) (f : Core → Core) : (modCore s c f).nextTag = s.nextTag := rfl
@[simp] theorem modCore_late (s : State) (c : Nat) (f : Core → Core) : (modCore s c f).late = s.late := rfl
@[simp] theorem modCore_deferring (s : State) (c : Nat) (f : Core → Core) : (modCore s c f).deferring = s.deferring := rfl
@[simp] theorem modCore_freeIx (s : State) (c : Nat) (f : Core → Core) : (modCore s c f).freeIx = s.freeIx := rfl
@[simp] theorem modCore_outside (s : State) (c : Nat) (f : Core → Core) : (modCore s c f).outside = s.outside := rfl
@[simp] theorem modCore_agenda (s : State) (c : Nat) (f : Core → Core) : (modCore s c f).agenda = s.agenda := rfl
@[simp] theorem modCore_focus (s : State) (c : Nat) (f : Core → Core) : (modCore s c f).focus = s.focus := rfl
@[simp] theorem modCore_units_cores (s : State) (c : Nat) (f : Core → Core) : (modCore s c f).units.cores = tput s.units.cores c (f (coreOf s c)) := rfl
@[simp] theorem modCore_units_clusters (s : State) (c : Nat) (f : Core → Core) : (modCore s c f).units.clusters = s.units.clusters := rfl
@[simp] theorem modCore_units_parts (s : State) (c : Nat) (f : Core → Core) : (modCore s c f).units.parts = s.units.parts := rfl
@[simp] theorem modCore_units_dieTlb (s : State) (c : Nat) (f : Core → Core) : (modCore s c f).units.dieTlb = s.units.dieTlb := rfl
@[simp] theorem modCore_units_l2 (s : State) (c : Nat) (f : Core → Core) : (modCore s c f).units.l2 = s.units.l2 := rfl
@[simp] theorem modCore_units_tags (s : State) (c : Nat) (f : Core → Core) : (modCore s c f).units.tags = s.units.tags := rfl
@[simp] theorem modCore_units_tagReads (s : State) (c : Nat) (f : Core → Core) : (modCore s c f).units.tagReads = s.units.tagReads := rfl
@[simp] theorem modCore_units_power (s : State) (c : Nat) (f : Core → Core) : (modCore s c f).units.power = s.units.power := rfl
@[simp] theorem modCore_units_mgmt (s : State) (c : Nat) (f : Core → Core) : (modCore s c f).units.mgmt = s.units.mgmt := rfl
@[simp] theorem modCore_units_trust (s : State) (c : Nat) (f : Core → Core) : (modCore s c f).units.trust = s.units.trust := rfl
@[simp] theorem modCore_units_events (s : State) (c : Nat) (f : Core → Core) : (modCore s c f).units.events = s.units.events := rfl
@[simp] theorem modCore_units_saving (s : State) (c : Nat) (f : Core → Core) : (modCore s c f).units.saving = s.units.saving := rfl
@[simp] theorem modCore_units_sysRegs (s : State) (c : Nat) (f : Core → Core) : (modCore s c f).units.sysRegs = s.units.sysRegs := rfl
@[simp] theorem modCore_units_ready (s : State) (c : Nat) (f : Core → Core) : (modCore s c f).units.ready = s.units.ready := rfl
@[simp] theorem modCore_units_fuses (s : State) (c : Nat) (f : Core → Core) : (modCore s c f).units.fuses = s.units.fuses := rfl
@[simp] theorem modCore_units_linkDown (s : State) (c : Nat) (f : Core → Core) : (modCore s c f).units.linkDown = s.units.linkDown := rfl
@[simp] theorem modCore_units_badNs (s : State) (c : Nat) (f : Core → Core) : (modCore s c f).units.badNs = s.units.badNs := rfl
@[simp] theorem modCore_work (s : State) (c : Nat) (f : Core → Core) : (modCore s c f).work = s.work := rfl

/-! ### modPart -/

@[simp] theorem modPart_mem (s : State) (p : Nat) (f : Part → Part) : (modPart s p f).mem = s.mem := rfl
@[simp] theorem modPart_memPoison (s : State) (p : Nat) (f : Part → Part) : (modPart s p f).memPoison = s.memPoison := rfl
@[simp] theorem modPart_posted (s : State) (p : Nat) (f : Part → Part) : (modPart s p f).posted = s.posted := rfl
@[simp] theorem modPart_nextTag (s : State) (p : Nat) (f : Part → Part) : (modPart s p f).nextTag = s.nextTag := rfl
@[simp] theorem modPart_late (s : State) (p : Nat) (f : Part → Part) : (modPart s p f).late = s.late := rfl
@[simp] theorem modPart_deferring (s : State) (p : Nat) (f : Part → Part) : (modPart s p f).deferring = s.deferring := rfl
@[simp] theorem modPart_freeIx (s : State) (p : Nat) (f : Part → Part) : (modPart s p f).freeIx = s.freeIx := rfl
@[simp] theorem modPart_outside (s : State) (p : Nat) (f : Part → Part) : (modPart s p f).outside = s.outside := rfl
@[simp] theorem modPart_agenda (s : State) (p : Nat) (f : Part → Part) : (modPart s p f).agenda = s.agenda := rfl
@[simp] theorem modPart_focus (s : State) (p : Nat) (f : Part → Part) : (modPart s p f).focus = s.focus := rfl
@[simp] theorem modPart_units_cores (s : State) (p : Nat) (f : Part → Part) : (modPart s p f).units.cores = s.units.cores := rfl
@[simp] theorem modPart_units_clusters (s : State) (p : Nat) (f : Part → Part) : (modPart s p f).units.clusters = s.units.clusters := rfl
@[simp] theorem modPart_units_parts (s : State) (p : Nat) (f : Part → Part) : (modPart s p f).units.parts = tput s.units.parts p (f (partOf s p)) := rfl
@[simp] theorem modPart_units_dieTlb (s : State) (p : Nat) (f : Part → Part) : (modPart s p f).units.dieTlb = s.units.dieTlb := rfl
@[simp] theorem modPart_units_l2 (s : State) (p : Nat) (f : Part → Part) : (modPart s p f).units.l2 = s.units.l2 := rfl
@[simp] theorem modPart_units_tags (s : State) (p : Nat) (f : Part → Part) : (modPart s p f).units.tags = s.units.tags := rfl
@[simp] theorem modPart_units_tagReads (s : State) (p : Nat) (f : Part → Part) : (modPart s p f).units.tagReads = s.units.tagReads := rfl
@[simp] theorem modPart_units_power (s : State) (p : Nat) (f : Part → Part) : (modPart s p f).units.power = s.units.power := rfl
@[simp] theorem modPart_units_mgmt (s : State) (p : Nat) (f : Part → Part) : (modPart s p f).units.mgmt = s.units.mgmt := rfl
@[simp] theorem modPart_units_trust (s : State) (p : Nat) (f : Part → Part) : (modPart s p f).units.trust = s.units.trust := rfl
@[simp] theorem modPart_units_events (s : State) (p : Nat) (f : Part → Part) : (modPart s p f).units.events = s.units.events := rfl
@[simp] theorem modPart_units_saving (s : State) (p : Nat) (f : Part → Part) : (modPart s p f).units.saving = s.units.saving := rfl
@[simp] theorem modPart_units_sysRegs (s : State) (p : Nat) (f : Part → Part) : (modPart s p f).units.sysRegs = s.units.sysRegs := rfl
@[simp] theorem modPart_units_ready (s : State) (p : Nat) (f : Part → Part) : (modPart s p f).units.ready = s.units.ready := rfl
@[simp] theorem modPart_units_fuses (s : State) (p : Nat) (f : Part → Part) : (modPart s p f).units.fuses = s.units.fuses := rfl
@[simp] theorem modPart_units_linkDown (s : State) (p : Nat) (f : Part → Part) : (modPart s p f).units.linkDown = s.units.linkDown := rfl
@[simp] theorem modPart_units_badNs (s : State) (p : Nat) (f : Part → Part) : (modPart s p f).units.badNs = s.units.badNs := rfl
@[simp] theorem modPart_work (s : State) (p : Nat) (f : Part → Part) : (modPart s p f).work = s.work := rfl

/-! ### modSlice -/

@[simp] theorem modSlice_mem (s : State) (g n : Nat) (f : Slice → Slice) : (modSlice s g n f).mem = s.mem := rfl
@[simp] theorem modSlice_memPoison (s : State) (g n : Nat) (f : Slice → Slice) : (modSlice s g n f).memPoison = s.memPoison := rfl
@[simp] theorem modSlice_posted (s : State) (g n : Nat) (f : Slice → Slice) : (modSlice s g n f).posted = s.posted := rfl
@[simp] theorem modSlice_nextTag (s : State) (g n : Nat) (f : Slice → Slice) : (modSlice s g n f).nextTag = s.nextTag := rfl
@[simp] theorem modSlice_late (s : State) (g n : Nat) (f : Slice → Slice) : (modSlice s g n f).late = s.late := rfl
@[simp] theorem modSlice_deferring (s : State) (g n : Nat) (f : Slice → Slice) : (modSlice s g n f).deferring = s.deferring := rfl
@[simp] theorem modSlice_freeIx (s : State) (g n : Nat) (f : Slice → Slice) : (modSlice s g n f).freeIx = s.freeIx := rfl
@[simp] theorem modSlice_outside (s : State) (g n : Nat) (f : Slice → Slice) : (modSlice s g n f).outside = s.outside := rfl
@[simp] theorem modSlice_agenda (s : State) (g n : Nat) (f : Slice → Slice) : (modSlice s g n f).agenda = s.agenda := rfl
@[simp] theorem modSlice_focus (s : State) (g n : Nat) (f : Slice → Slice) : (modSlice s g n f).focus = s.focus := rfl
@[simp] theorem modSlice_work_groups (s : State) (g n : Nat) (f : Slice → Slice) : (modSlice s g n f).work.groups = tmod s.work.groups g (fun x => { x with slices := modifyNth x.slices n f }) := rfl
@[simp] theorem modSlice_work_slots (s : State) (g n : Nat) (f : Slice → Slice) : (modSlice s g n f).work.slots = s.work.slots := rfl
@[simp] theorem modSlice_work_teams (s : State) (g n : Nat) (f : Slice → Slice) : (modSlice s g n f).work.teams = s.work.teams := rfl
@[simp] theorem modSlice_work_launches (s : State) (g n : Nat) (f : Slice → Slice) : (modSlice s g n f).work.launches = s.work.launches := rfl
@[simp] theorem modSlice_work_passes (s : State) (g n : Nat) (f : Slice → Slice) : (modSlice s g n f).work.passes = s.work.passes := rfl
@[simp] theorem modSlice_work_streams (s : State) (g n : Nat) (f : Slice → Slice) : (modSlice s g n f).work.streams = s.work.streams := rfl
@[simp] theorem modSlice_work_images (s : State) (g n : Nat) (f : Slice → Slice) : (modSlice s g n f).work.images = s.work.images := rfl
@[simp] theorem modSlice_work_nextId (s : State) (g n : Nat) (f : Slice → Slice) : (modSlice s g n f).work.nextId = s.work.nextId := rfl
@[simp] theorem modSlice_units (s : State) (g n : Nat) (f : Slice → Slice) : (modSlice s g n f).units = s.units := rfl

/-! ### raiseFlags -/

@[simp] theorem raiseFlags_mem (s : State) (g : Nat) (fl : Flags) : (raiseFlags s g fl).mem = s.mem := rfl
@[simp] theorem raiseFlags_memPoison (s : State) (g : Nat) (fl : Flags) : (raiseFlags s g fl).memPoison = s.memPoison := rfl
@[simp] theorem raiseFlags_posted (s : State) (g : Nat) (fl : Flags) : (raiseFlags s g fl).posted = s.posted := rfl
@[simp] theorem raiseFlags_nextTag (s : State) (g : Nat) (fl : Flags) : (raiseFlags s g fl).nextTag = s.nextTag := rfl
@[simp] theorem raiseFlags_late (s : State) (g : Nat) (fl : Flags) : (raiseFlags s g fl).late = s.late := rfl
@[simp] theorem raiseFlags_deferring (s : State) (g : Nat) (fl : Flags) : (raiseFlags s g fl).deferring = s.deferring := rfl
@[simp] theorem raiseFlags_freeIx (s : State) (g : Nat) (fl : Flags) : (raiseFlags s g fl).freeIx = s.freeIx := rfl
@[simp] theorem raiseFlags_outside (s : State) (g : Nat) (fl : Flags) : (raiseFlags s g fl).outside = s.outside := rfl
@[simp] theorem raiseFlags_agenda (s : State) (g : Nat) (fl : Flags) : (raiseFlags s g fl).agenda = s.agenda := rfl
@[simp] theorem raiseFlags_focus (s : State) (g : Nat) (fl : Flags) : (raiseFlags s g fl).focus = s.focus := rfl
@[simp] theorem raiseFlags_work_groups (s : State) (g : Nat) (fl : Flags) : (raiseFlags s g fl).work.groups = tmod s.work.groups g (fun x => { x with fstat := x.fstat ||| w32 fl }) := rfl
@[simp] theorem raiseFlags_work_slots (s : State) (g : Nat) (fl : Flags) : (raiseFlags s g fl).work.slots = s.work.slots := rfl
@[simp] theorem raiseFlags_work_teams (s : State) (g : Nat) (fl : Flags) : (raiseFlags s g fl).work.teams = s.work.teams := rfl
@[simp] theorem raiseFlags_work_launches (s : State) (g : Nat) (fl : Flags) : (raiseFlags s g fl).work.launches = s.work.launches := rfl
@[simp] theorem raiseFlags_work_passes (s : State) (g : Nat) (fl : Flags) : (raiseFlags s g fl).work.passes = s.work.passes := rfl
@[simp] theorem raiseFlags_work_streams (s : State) (g : Nat) (fl : Flags) : (raiseFlags s g fl).work.streams = s.work.streams := rfl
@[simp] theorem raiseFlags_work_images (s : State) (g : Nat) (fl : Flags) : (raiseFlags s g fl).work.images = s.work.images := rfl
@[simp] theorem raiseFlags_work_nextId (s : State) (g : Nat) (fl : Flags) : (raiseFlags s g fl).work.nextId = s.work.nextId := rfl
@[simp] theorem raiseFlags_units (s : State) (g : Nat) (fl : Flags) : (raiseFlags s g fl).units = s.units := rfl

/-! ### setBankReg -/

@[simp] theorem setBankReg_mem (s : State) (p n : Nat) (v : Word) : (setBankReg s p n v).mem = s.mem := rfl
@[simp] theorem setBankReg_memPoison (s : State) (p n : Nat) (v : Word) : (setBankReg s p n v).memPoison = s.memPoison := rfl
@[simp] theorem setBankReg_posted (s : State) (p n : Nat) (v : Word) : (setBankReg s p n v).posted = s.posted := rfl
@[simp] theorem setBankReg_nextTag (s : State) (p n : Nat) (v : Word) : (setBankReg s p n v).nextTag = s.nextTag := rfl
@[simp] theorem setBankReg_late (s : State) (p n : Nat) (v : Word) : (setBankReg s p n v).late = s.late := rfl
@[simp] theorem setBankReg_deferring (s : State) (p n : Nat) (v : Word) : (setBankReg s p n v).deferring = s.deferring := rfl
@[simp] theorem setBankReg_freeIx (s : State) (p n : Nat) (v : Word) : (setBankReg s p n v).freeIx = s.freeIx := rfl
@[simp] theorem setBankReg_outside (s : State) (p n : Nat) (v : Word) : (setBankReg s p n v).outside = s.outside := rfl
@[simp] theorem setBankReg_agenda (s : State) (p n : Nat) (v : Word) : (setBankReg s p n v).agenda = s.agenda := rfl
@[simp] theorem setBankReg_focus (s : State) (p n : Nat) (v : Word) : (setBankReg s p n v).focus = s.focus := rfl
@[simp] theorem setBankReg_units_cores (s : State) (p n : Nat) (v : Word) : (setBankReg s p n v).units.cores = s.units.cores := rfl
@[simp] theorem setBankReg_units_clusters (s : State) (p n : Nat) (v : Word) : (setBankReg s p n v).units.clusters = s.units.clusters := rfl
@[simp] theorem setBankReg_units_parts (s : State) (p n : Nat) (v : Word) : (setBankReg s p n v).units.parts = tput s.units.parts p { partOf s p with regs := tput (partOf s p).regs n v } := rfl
@[simp] theorem setBankReg_units_dieTlb (s : State) (p n : Nat) (v : Word) : (setBankReg s p n v).units.dieTlb = s.units.dieTlb := rfl
@[simp] theorem setBankReg_units_l2 (s : State) (p n : Nat) (v : Word) : (setBankReg s p n v).units.l2 = s.units.l2 := rfl
@[simp] theorem setBankReg_units_tags (s : State) (p n : Nat) (v : Word) : (setBankReg s p n v).units.tags = s.units.tags := rfl
@[simp] theorem setBankReg_units_tagReads (s : State) (p n : Nat) (v : Word) : (setBankReg s p n v).units.tagReads = s.units.tagReads := rfl
@[simp] theorem setBankReg_units_power (s : State) (p n : Nat) (v : Word) : (setBankReg s p n v).units.power = s.units.power := rfl
@[simp] theorem setBankReg_units_mgmt (s : State) (p n : Nat) (v : Word) : (setBankReg s p n v).units.mgmt = s.units.mgmt := rfl
@[simp] theorem setBankReg_units_trust (s : State) (p n : Nat) (v : Word) : (setBankReg s p n v).units.trust = s.units.trust := rfl
@[simp] theorem setBankReg_units_events (s : State) (p n : Nat) (v : Word) : (setBankReg s p n v).units.events = s.units.events := rfl
@[simp] theorem setBankReg_units_saving (s : State) (p n : Nat) (v : Word) : (setBankReg s p n v).units.saving = s.units.saving := rfl
@[simp] theorem setBankReg_units_sysRegs (s : State) (p n : Nat) (v : Word) : (setBankReg s p n v).units.sysRegs = s.units.sysRegs := rfl
@[simp] theorem setBankReg_units_ready (s : State) (p n : Nat) (v : Word) : (setBankReg s p n v).units.ready = s.units.ready := rfl
@[simp] theorem setBankReg_units_fuses (s : State) (p n : Nat) (v : Word) : (setBankReg s p n v).units.fuses = s.units.fuses := rfl
@[simp] theorem setBankReg_units_linkDown (s : State) (p n : Nat) (v : Word) : (setBankReg s p n v).units.linkDown = s.units.linkDown := rfl
@[simp] theorem setBankReg_units_badNs (s : State) (p n : Nat) (v : Word) : (setBankReg s p n v).units.badNs = s.units.badNs := rfl
@[simp] theorem setBankReg_work (s : State) (p n : Nat) (v : Word) : (setBankReg s p n v).work = s.work := rfl

/-! ### storeMem -/

@[simp] theorem storeMem_mem (s : State) (pa : Nat) (bs : List Byte) : (storeMem s pa bs).mem = memPuts s.mem pa bs := rfl
@[simp] theorem storeMem_memPoison (s : State) (pa : Nat) (bs : List Byte) : (storeMem s pa bs).memPoison = s.memPoison.filter (fun a => a < pa || pa + bs.length ≤ a) := rfl
@[simp] theorem storeMem_posted (s : State) (pa : Nat) (bs : List Byte) : (storeMem s pa bs).posted = s.posted := rfl
@[simp] theorem storeMem_nextTag (s : State) (pa : Nat) (bs : List Byte) : (storeMem s pa bs).nextTag = s.nextTag := rfl
@[simp] theorem storeMem_late (s : State) (pa : Nat) (bs : List Byte) : (storeMem s pa bs).late = s.late := rfl
@[simp] theorem storeMem_deferring (s : State) (pa : Nat) (bs : List Byte) : (storeMem s pa bs).deferring = s.deferring := rfl
@[simp] theorem storeMem_freeIx (s : State) (pa : Nat) (bs : List Byte) : (storeMem s pa bs).freeIx = s.freeIx := rfl
@[simp] theorem storeMem_outside (s : State) (pa : Nat) (bs : List Byte) : (storeMem s pa bs).outside = s.outside := rfl
@[simp] theorem storeMem_agenda (s : State) (pa : Nat) (bs : List Byte) : (storeMem s pa bs).agenda = s.agenda := rfl
@[simp] theorem storeMem_focus (s : State) (pa : Nat) (bs : List Byte) : (storeMem s pa bs).focus = s.focus := rfl
@[simp] theorem storeMem_work (s : State) (pa : Nat) (bs : List Byte) : (storeMem s pa bs).work = s.work := rfl
@[simp] theorem storeMem_units (s : State) (pa : Nat) (bs : List Byte) : (storeMem s pa bs).units = s.units := rfl

/-! ### storeSnoop -/

@[simp] theorem storeSnoop_mem (s : State) (pa : Nat) (bs : List Byte) : (storeSnoop s pa bs).mem = memPuts s.mem pa bs := rfl
@[simp] theorem storeSnoop_memPoison (s : State) (pa : Nat) (bs : List Byte) : (storeSnoop s pa bs).memPoison = s.memPoison.filter (fun a => a < pa || pa + bs.length ≤ a) := rfl
@[simp] theorem storeSnoop_posted (s : State) (pa : Nat) (bs : List Byte) : (storeSnoop s pa bs).posted = s.posted := rfl
@[simp] theorem storeSnoop_nextTag (s : State) (pa : Nat) (bs : List Byte) : (storeSnoop s pa bs).nextTag = s.nextTag := rfl
@[simp] theorem storeSnoop_late (s : State) (pa : Nat) (bs : List Byte) : (storeSnoop s pa bs).late = s.late := rfl
@[simp] theorem storeSnoop_deferring (s : State) (pa : Nat) (bs : List Byte) : (storeSnoop s pa bs).deferring = s.deferring := rfl
@[simp] theorem storeSnoop_freeIx (s : State) (pa : Nat) (bs : List Byte) : (storeSnoop s pa bs).freeIx = s.freeIx := rfl
@[simp] theorem storeSnoop_outside (s : State) (pa : Nat) (bs : List Byte) : (storeSnoop s pa bs).outside =
    { s.outside with hostLines := s.outside.hostLines.filter (fun l => l < pa / 256 || (pa + bs.length - 1) / 256 < l),
                     hostDirty := s.outside.hostDirty.filter (fun l => l < pa / 256 || (pa + bs.length - 1) / 256 < l) } := rfl
@[simp] theorem storeSnoop_agenda (s : State) (pa : Nat) (bs : List Byte) : (storeSnoop s pa bs).agenda = s.agenda := rfl
@[simp] theorem storeSnoop_focus (s : State) (pa : Nat) (bs : List Byte) : (storeSnoop s pa bs).focus = s.focus := rfl
@[simp] theorem storeSnoop_units (s : State) (pa : Nat) (bs : List Byte) : (storeSnoop s pa bs).units = s.units := rfl
@[simp] theorem storeSnoop_work (s : State) (pa : Nat) (bs : List Byte) : (storeSnoop s pa bs).work = s.work := rfl

/-! ### modQuad -/

@[simp] theorem modQuad_mem (s : State) (c q : Nat) (f : Quad → Quad) : (modQuad s c q f).mem = s.mem := rfl
@[simp] theorem modQuad_memPoison (s : State) (c q : Nat) (f : Quad → Quad) : (modQuad s c q f).memPoison = s.memPoison := rfl
@[simp] theorem modQuad_posted (s : State) (c q : Nat) (f : Quad → Quad) : (modQuad s c q f).posted = s.posted := rfl
@[simp] theorem modQuad_nextTag (s : State) (c q : Nat) (f : Quad → Quad) : (modQuad s c q f).nextTag = s.nextTag := rfl
@[simp] theorem modQuad_late (s : State) (c q : Nat) (f : Quad → Quad) : (modQuad s c q f).late = s.late := rfl
@[simp] theorem modQuad_deferring (s : State) (c q : Nat) (f : Quad → Quad) : (modQuad s c q f).deferring = s.deferring := rfl
@[simp] theorem modQuad_freeIx (s : State) (c q : Nat) (f : Quad → Quad) : (modQuad s c q f).freeIx = s.freeIx := rfl
@[simp] theorem modQuad_outside (s : State) (c q : Nat) (f : Quad → Quad) : (modQuad s c q f).outside = s.outside := rfl
@[simp] theorem modQuad_agenda (s : State) (c q : Nat) (f : Quad → Quad) : (modQuad s c q f).agenda = s.agenda := rfl
@[simp] theorem modQuad_focus (s : State) (c q : Nat) (f : Quad → Quad) : (modQuad s c q f).focus = s.focus := rfl
@[simp] theorem modQuad_work (s : State) (c q : Nat) (f : Quad → Quad) : (modQuad s c q f).work = s.work := rfl
@[simp] theorem modQuad_units_clusters (s : State) (c q : Nat) (f : Quad → Quad) : (modQuad s c q f).units.clusters = s.units.clusters := rfl
@[simp] theorem modQuad_units_parts (s : State) (c q : Nat) (f : Quad → Quad) : (modQuad s c q f).units.parts = s.units.parts := rfl
@[simp] theorem modQuad_units_dieTlb (s : State) (c q : Nat) (f : Quad → Quad) : (modQuad s c q f).units.dieTlb = s.units.dieTlb := rfl
@[simp] theorem modQuad_units_l2 (s : State) (c q : Nat) (f : Quad → Quad) : (modQuad s c q f).units.l2 = s.units.l2 := rfl
@[simp] theorem modQuad_units_tags (s : State) (c q : Nat) (f : Quad → Quad) : (modQuad s c q f).units.tags = s.units.tags := rfl
@[simp] theorem modQuad_units_tagReads (s : State) (c q : Nat) (f : Quad → Quad) : (modQuad s c q f).units.tagReads = s.units.tagReads := rfl
@[simp] theorem modQuad_units_power (s : State) (c q : Nat) (f : Quad → Quad) : (modQuad s c q f).units.power = s.units.power := rfl
@[simp] theorem modQuad_units_mgmt (s : State) (c q : Nat) (f : Quad → Quad) : (modQuad s c q f).units.mgmt = s.units.mgmt := rfl
@[simp] theorem modQuad_units_trust (s : State) (c q : Nat) (f : Quad → Quad) : (modQuad s c q f).units.trust = s.units.trust := rfl
@[simp] theorem modQuad_units_events (s : State) (c q : Nat) (f : Quad → Quad) : (modQuad s c q f).units.events = s.units.events := rfl
@[simp] theorem modQuad_units_saving (s : State) (c q : Nat) (f : Quad → Quad) : (modQuad s c q f).units.saving = s.units.saving := rfl
@[simp] theorem modQuad_units_sysRegs (s : State) (c q : Nat) (f : Quad → Quad) : (modQuad s c q f).units.sysRegs = s.units.sysRegs := rfl
@[simp] theorem modQuad_units_ready (s : State) (c q : Nat) (f : Quad → Quad) : (modQuad s c q f).units.ready = s.units.ready := rfl
@[simp] theorem modQuad_units_fuses (s : State) (c q : Nat) (f : Quad → Quad) : (modQuad s c q f).units.fuses = s.units.fuses := rfl
@[simp] theorem modQuad_units_linkDown (s : State) (c q : Nat) (f : Quad → Quad) : (modQuad s c q f).units.linkDown = s.units.linkDown := rfl
@[simp] theorem modQuad_units_badNs (s : State) (c q : Nat) (f : Quad → Quad) : (modQuad s c q f).units.badNs = s.units.badNs := rfl

end Sys2Proof.Machine
end

