-- ==== Sys2Proof/Laws/Registers.lean ====
section
/-! SUPPORT. Laws of groups, slices and register elements: what reading gives after a write. -/

namespace Sys2Proof.Machine

/-! ### Groups, teams and slices -/

theorem group?_modGroup (s : State) (g h : Nat) (f : Group → Group) :
    group? (modGroup s g f) h = if h = g then (group? s g).map f else group? s h := by
  simp [group?, tget?_tmod]

@[simp] theorem group?_modTeam (s : State) (k h : Nat) (f : Team → Team) : group? (modTeam s k f) h = group? s h := rfl
@[simp] theorem group?_modSlot (s : State) (k h : Nat) (f : Slot → Slot) : group? (modSlot s k f) h = group? s h := rfl
@[simp] theorem team?_modGroup (s : State) (g k : Nat) (f : Group → Group) : team? (modGroup s g f) k = team? s k := rfl
@[simp] theorem team?_modSlot (s : State) (g k : Nat) (f : Slot → Slot) : team? (modSlot s g f) k = team? s k := rfl

theorem team?_modTeam (s : State) (k h : Nat) (f : Team → Team) :
    team? (modTeam s k f) h = if h = k then (team? s k).map f else team? s h := by
  simp [team?, tget?_tmod]

theorem group?_modSlice (s : State) (g n h : Nat) (f : Slice → Slice) :
    group? (modSlice s g n f) h =
      if h = g then (group? s g).map (fun x => { x with slices := modifyNth x.slices n f }) else group? s h := by
  rw [modSlice, group?_modGroup]

@[simp] theorem team?_modSlice (s : State) (g n k : Nat) (f : Slice → Slice) : team? (modSlice s g n f) k = team? s k := rfl

/-- A slice's newest frame. -/
def topFrame (s : State) (g i : Nat) : Option Frame := ((group? s g).bind (sliceOf · i)).bind (fun c => c.frames.head?)

theorem laneElem_wave (s : State) (g i r : Nat) : laneElem s (.wave g i) r =
    if r < 56 then ((group? s g).map (fun x => regElem x.regs r i)).getD (.full 0 false)
    else ((topFrame s g i).map (fun f => regElem f.hregs (r - 56) i)).getD (.full 0 false) := by
  simp only [laneElem, topFrame]
  cases group? s g with
  | none => by_cases hr : r < 56 <;> simp [hr]
  | some x =>
    by_cases hr : r < 56
    · simp [hr]
    · cases hf : (sliceOf x i).bind (fun c => c.frames.head?) <;> simp [hr, hf]

/-- A write to a lane of a wave. -/
theorem setLaneElem_wave (s : State) (g i r : Nat) (e : Elem) : setLaneElem s (.wave g i) r e =
    if r < 56 then modGroup s g (fun x => { x with regs := setRegElem x.regs r i e })
    else modSlice s g (i / 4) (fun c =>
      match c.frames with
      | f :: fs => { c with frames := { f with hregs := setRegElem f.hregs (r - 56) i e } :: fs }
      | [] => c) := rfl

theorem regElem_setRegElem_self (t : Tab Elem) (r l : Nat) (e : Elem) : regElem (setRegElem t r l e) r l = e := by
  simp [regElem, setRegElem]

theorem regElem_setRegElem_ne (t : Tab Elem) {r l r' l' : Nat} (e : Elem) (hl : l < 64) (hl' : l' < 64) (h : ¬ (r' = r ∧ l' = l)) :
    regElem (setRegElem t r l e) r' l' = regElem t r' l' := by
  apply tgetD_tput_ne
  omega

/-- Whether a lane has an element for register `r`: an h register only in a handler. -/
def laneHas (s : State) (l : LaneId) (r : Nat) : Prop :=
  match l with
  | .wave g i => (group? s g).isSome ∧ (r < 56 ∨ (topFrame s g i).isSome)
  | .grip t => ((team? s t).bind (·.grip)).isSome
  | .mgmt n => (s.units.mgmt[n]?).isSome

theorem topFrame_modGroup_regs (s : State) (g h i : Nat) (f : Group → Group) (hf : ∀ x, (f x).slices = x.slices) :
    topFrame (modGroup s g f) h i = topFrame s h i := by
  unfold topFrame
  rw [group?_modGroup]
  split
  · rename_i e
    subst e
    cases group? s h <;> simp [sliceOf, hf]
  · rfl

theorem topFrame_modSlice (s : State) (g n h i : Nat) (f : Slice → Slice) :
    topFrame (modSlice s g n f) h i =
      if h = g ∧ i / 4 = n then ((group? s g).bind (sliceOf · i)).bind (fun c => (f c).frames.head?) else topFrame s h i := by
  unfold topFrame
  rw [group?_modSlice]
  by_cases hg : h = g
  · subst hg
    cases hx : group? s h with
    | none => simp
    | some x =>
      simp only [if_true, Option.map_some, Option.bind_some, sliceOf, modifyNth_getElem?, true_and]
      split
      · rename_i hn
        subst hn
        cases x.slices[i / 4]? <;> rfl
      · rfl
  · simp [hg]

/-- What a write to an element leaves in another's frame: frames come and go with their slice only. -/
theorem topFrame_setLaneElem (s : State) (l : LaneId) (r : Nat) (e : Elem) (g i : Nat) :
    (topFrame (setLaneElem s l r e) g i).isSome = (topFrame s g i).isSome := by
  cases l with
  | grip t => rfl
  | mgmt n => rfl
  | wave h j =>
    rw [setLaneElem_wave]
    split
    · rw [topFrame_modGroup_regs]
      intro x; rfl
    · rw [topFrame_modSlice]
      split
      · rename_i hh
        obtain ⟨rfl, hn⟩ := hh
        unfold topFrame
        cases (group? s g).bind (sliceOf · i) with
        | none => rfl
        | some c => cases hc : c.frames <;> simp [hc]
      · rfl

theorem laneHas_setLaneElem (s : State) (l m : LaneId) (r q : Nat) (e : Elem) (h : laneHas s m q) : laneHas (setLaneElem s l r e) m q := by
  cases m with
  | wave g i =>
    refine ⟨?_, ?_⟩
    · have hg := h.1
      cases l with
      | grip t => exact hg
      | mgmt n => exact hg
      | wave g' j =>
        rw [setLaneElem_wave]
        split
        · rw [group?_modGroup]; split
          · rename_i he; subst he; simpa using hg
          · exact hg
        · rw [group?_modSlice]; split
          · rename_i he; subst he; simpa using hg
          · exact hg
    · exact h.2.imp id (fun hf => by rw [topFrame_setLaneElem]; exact hf)
  | grip t =>
    cases l with
    | wave g' j => rw [setLaneElem_wave]; split <;> exact h
    | mgmt n => exact h
    | grip t' =>
      simp only [laneHas, setLaneElem, team?_modTeam] at h ⊢
      split
      · rename_i he
        subst he
        cases ht : team? s t with
        | none => simp [ht] at h
        | some x => cases hx : x.grip <;> simp [ht, hx] at h ⊢
      · exact h
  | mgmt n =>
    cases l with
    | wave g' j => rw [setLaneElem_wave]; split <;> exact h
    | grip t => exact h
    | mgmt n' =>
      simp only [laneHas, setLaneElem, modifyNth_getElem?] at h ⊢
      split
      · rename_i he; subst he; simpa using h
      · exact h

/-- Reading an element after writing it. -/
theorem laneElem_setLaneElem_self (s : State) (l : LaneId) (r : Nat) (e : Elem) (h : laneHas s l r) :
    laneElem (setLaneElem s l r e) l r = e := by
  cases l with
  | wave g i =>
    rw [laneElem_wave]
    by_cases hr : r < 56
    · rw [if_pos hr, setLaneElem_wave, if_pos hr, group?_modGroup, if_pos rfl]
      obtain ⟨x, hx⟩ := Option.isSome_iff_exists.mp h.1
      simp [hx, regElem_setRegElem_self]
    · rw [if_neg hr, setLaneElem_wave, if_neg hr, topFrame_modSlice, if_pos ⟨rfl, rfl⟩]
      have hf := h.2.resolve_left hr
      unfold topFrame at hf
      cases hc : (group? s g).bind (sliceOf · i) with
      | none => simp [hc] at hf
      | some c =>
        cases hfr : c.frames with
        | nil => simp [hc, hfr] at hf
        | cons f fs => simp [hfr, regElem_setRegElem_self]
  | grip t =>
    simp only [laneHas] at h
    simp only [laneElem, setLaneElem, team?_modTeam, if_true]
    cases ht : team? s t with
    | none => simp [ht] at h
    | some x =>
      cases hx : x.grip with
      | none => simp [ht, hx] at h
      | some k => simp [hx]
  | mgmt n =>
    simp only [laneHas] at h
    simp only [laneElem, setLaneElem, modifyNth_getElem?, if_true]
    cases hn : s.units.mgmt[n]? with
    | none => simp [hn] at h
    | some k => simp

/-- Reading another element. -/
theorem laneElem_setLaneElem_ne (s : State) {l m : LaneId} {r q : Nat} (e : Elem) (hl : lidxOf l < 64) (hm : lidxOf m < 64)
    (h : ¬ (m = l ∧ q = r)) : laneElem (setLaneElem s l r e) m q = laneElem s m q := by
  cases l with
  | wave g i =>
    cases m with
    | grip t => rw [setLaneElem_wave]; split <;> rfl
    | mgmt n => rw [setLaneElem_wave]; split <;> rfl
    | wave g' j =>
      simp only [lidxOf] at hl hm
      rw [laneElem_wave, laneElem_wave]
      by_cases hr : r < 56
      · rw [setLaneElem_wave, if_pos hr, topFrame_modGroup_regs s g g' j (fun x => { x with regs := setRegElem x.regs r i e }) (fun _ => rfl), group?_modGroup]
        by_cases hq : q < 56
        · simp only [if_pos hq]
          by_cases hg : g' = g
          · subst hg
            cases hx : group? s g' with
            | none => simp
            | some x =>
              simp only [if_true, Option.map_some, Option.getD_some]
              refine regElem_setRegElem_ne _ _ hl hm ?_
              rintro ⟨rfl, rfl⟩
              exact h ⟨rfl, rfl⟩
          · simp [hg]
        · simp [hq]
      · rw [setLaneElem_wave, if_neg hr, topFrame_modSlice, group?_modSlice]
        by_cases hq : q < 56
        · simp only [if_pos hq]
          by_cases hg : g' = g
          · subst hg
            cases hx : group? s g' <;> simp
          · simp [hg]
        · simp only [if_neg hq]
          split
          · rename_i hh
            obtain ⟨rfl, hn⟩ := hh
            unfold topFrame
            cases hc : (group? s g').bind (sliceOf · j) with
            | none => rfl
            | some c =>
              cases hfr : c.frames with
              | nil => simp [hfr]
              | cons f fs =>
                simp only [Option.bind_some, hfr, List.head?_cons, Option.map_some, Option.getD_some]
                refine regElem_setRegElem_ne _ _ hl hm ?_
                rintro ⟨he, rfl⟩
                exact h ⟨rfl, by omega⟩
          · rfl
  | grip t =>
    cases m with
    | wave g' j => rfl
    | mgmt n => rfl
    | grip t' =>
      simp only [laneElem, setLaneElem, team?_modTeam]
      by_cases ht : t' = t
      · subst ht
        cases hx : team? s t' with
        | none => simp
        | some x =>
          cases hk : x.grip with
          | none => simp [hk]
          | some k =>
            simp only [if_true, Option.map_some, Option.bind_some, hk]
            exact tgetD_tput_ne _ _ _ (fun he => h ⟨rfl, he⟩)
      · simp [ht]
  | mgmt n =>
    cases m with
    | wave g' j => rfl
    | grip t => rfl
    | mgmt n' =>
      simp only [laneElem, setLaneElem, modifyNth_getElem?]
      by_cases hn : n' = n
      · subst hn
        cases hk : s.units.mgmt[n']? with
        | none => simp
        | some k =>
          simp only [if_true, Option.map_some]
          exact tgetD_tput_ne _ _ _ (fun he => h ⟨rfl, he⟩)
      · simp [hn]

/-! ### Several registers of a lane -/

theorem laneHas_writeLanes (s : State) (l m : LaneId) (q : Nat) (ws : List (Nat × Word)) (h : laneHas s m q) :
    laneHas (writeLanes s l ws) m q := by
  unfold writeLanes
  induction ws generalizing s with
  | nil => exact h
  | cons w ws ih => exact ih _ (laneHas_setLaneElem s l m w.1 q _ h)

theorem laneElem_writeLanes_ne (s : State) {l m : LaneId} {q : Nat} (ws : List (Nat × Word)) (hl : lidxOf l < 64) (hm : lidxOf m < 64)
    (h : ¬ (m = l ∧ ∃ w ∈ ws, w.1 = q)) : laneElem (writeLanes s l ws) m q = laneElem s m q := by
  unfold writeLanes
  induction ws generalizing s with
  | nil => rfl
  | cons w ws ih =>
    rw [List.foldl_cons, ih]
    · refine laneElem_setLaneElem_ne s _ hl hm ?_
      rintro ⟨rfl, rfl⟩
      exact h ⟨rfl, w, List.mem_cons_self, rfl⟩
    · rintro ⟨rfl, v, hv, rfl⟩
      exact h ⟨rfl, v, List.mem_cons_of_mem _ hv, rfl⟩

theorem laneElem_writeLanes (s : State) {l : LaneId} (ws : List (Nat × Word)) (hl : lidxOf l < 64) (hn : (ws.map (·.1)).Nodup)
    (hh : ∀ w ∈ ws, laneHas s l w.1) (w : Nat × Word) (hw : w ∈ ws) : laneElem (writeLanes s l ws) l w.1 = .full w.2 false := by
  unfold writeLanes
  induction ws generalizing s with
  | nil => cases hw
  | cons v ws ih =>
    rw [List.map_cons, List.nodup_cons] at hn
    rw [List.foldl_cons]
    rcases List.mem_cons.mp hw with rfl | hw'
    · have hne : ¬ (l = l ∧ ∃ x ∈ ws, x.1 = w.1) := by
        rintro ⟨-, x, hx, he⟩
        exact hn.1 (List.mem_map.mpr ⟨x, hx, he⟩)
      have := laneElem_writeLanes_ne (writeLane s l w.1 w.2) ws hl hl hne
      unfold writeLanes at this
      rw [this]
      exact laneElem_setLaneElem_self s l w.1 _ (hh w List.mem_cons_self)
    · exact ih _ hn.2 (fun x hx => laneHas_setLaneElem s l l v.1 x.1 _ (hh x (List.mem_cons_of_mem _ hx))) hw'

end Sys2Proof.Machine
end

