-- ==== Sys2Proof/Laws/Booked.lean ====
section
/-! SUPPORT. States that differ only in the bookkeeping of issue: levels of slices, FSTAT, queue heads, retirement counts, program
counters of one-lane contexts, and slots. -/

namespace Sys2Proof.Machine

/-- The level that every slice is taken to have when levels are left out. -/
def Level.none : Level := { pc := 0, running := 0, pending := [], parked := [] }

/-- A slice without what the end of an issue changes. -/
def Slice.bared (x : Slice) : Slice :=
  { x with prog := Level.none, frames := x.frames.map (fun f => { f with level := Level.none }), gang := 0, redo := [],
           stepping := false, skipBrk := none }

/-- A group without what the end of an issue changes. -/
def Group.bared (x : Group) : Group :=
  { x with slices := x.slices.map Slice.bared, fstat := 0, queues := [], quiet := 0, failed := [] }

/-- A grip context without what the end of an issue changes. -/
def Grip.bared (k : Grip) : Grip :=
  { k with pc := 0, stepping := false, skipBrk := none, retired := 0, readyAt := 0, failed := [] }

/-- A management core without what the end of an issue changes. -/
def Mgmt.bared (k : Mgmt) : Mgmt := { k with pc := 0, retired := 0, failed := [] }

/-- A team whose grip context is taken so. -/
def Team.bared (x : Team) : Team := { x with grip := x.grip.map Grip.bared }

/-- `t` is `u` but for the bookkeeping of issue. -/
structure Booked (u t : State) : Prop where
  mem : t.mem = u.mem
  memPoison : t.memPoison = u.memPoison
  posted : t.posted = u.posted
  nextTag : t.nextTag = u.nextTag
  late : t.late = u.late
  deferring : t.deferring = u.deferring
  freeIx : t.freeIx = u.freeIx
  outside : t.outside = u.outside
  agenda : t.agenda = u.agenda
  focus : t.focus = u.focus
  launches : t.work.launches = u.work.launches
  passes : t.work.passes = u.work.passes
  streams : t.work.streams = u.work.streams
  images : t.work.images = u.work.images
  units : { t.units with mgmt := [] } = { u.units with mgmt := [] }
  mgmt : ∀ n : Nat, (t.units.mgmt[n]?).map Mgmt.bared = (u.units.mgmt[n]?).map Mgmt.bared
  groups : ∀ g, (group? t g).map Group.bared = (group? u g).map Group.bared
  teams : ∀ k, (team? t k).map Team.bared = (team? u k).map Team.bared

theorem Booked.refl (s : State) : Booked s s := by
  constructor <;> intros <;> rfl

theorem Booked.trans {a b c : State} (h : Booked a b) (k : Booked b c) : Booked a c where
  mem := k.mem.trans h.mem
  memPoison := k.memPoison.trans h.memPoison
  posted := k.posted.trans h.posted
  nextTag := k.nextTag.trans h.nextTag
  late := k.late.trans h.late
  deferring := k.deferring.trans h.deferring
  freeIx := k.freeIx.trans h.freeIx
  outside := k.outside.trans h.outside
  agenda := k.agenda.trans h.agenda
  focus := k.focus.trans h.focus
  launches := k.launches.trans h.launches
  passes := k.passes.trans h.passes
  streams := k.streams.trans h.streams
  images := k.images.trans h.images
  units := k.units.trans h.units
  mgmt n := (k.mgmt n).trans (h.mgmt n)
  groups g := (k.groups g).trans (h.groups g)
  teams g := (k.teams g).trans (h.teams g)

theorem Booked.foldl {α : Type} (f : State → α → State) (h : ∀ s a, Booked s (f s a)) (as : List α) (s : State) :
    Booked s (as.foldl f s) := by
  induction as generalizing s with
  | nil => exact Booked.refl s
  | cons a as ih => exact (h s a).trans (ih _)

/-! ### Operations of bookkeeping -/

theorem booked_modGroup (s : State) (g : Nat) (f : Group → Group) (hf : ∀ x, (f x).bared = x.bared) : Booked s (modGroup s g f) := by
  constructor
  case groups =>
    intro h
    rw [group?_modGroup]
    split
    · rename_i e
      subst e
      cases group? s h <;> simp [hf]
    · rfl
  all_goals intros; rfl

theorem booked_modSlice (s : State) (g n : Nat) (f : Slice → Slice) (hf : ∀ x, (f x).bared = x.bared) : Booked s (modSlice s g n f) := by
  refine booked_modGroup s g _ (fun x => ?_)
  unfold Group.bared
  congr 1
  apply List.ext_getElem?
  intro m
  simp only [List.getElem?_map, modifyNth_getElem?]
  split
  · rename_i e
    subst e
    cases x.slices[m]? <;> simp [hf]
  · rfl

theorem booked_modSlot (s : State) (k : Nat) (f : Slot → Slot) : Booked s (modSlot s k f) := by
  constructor <;> intros <;> rfl

theorem booked_modGrip (s : State) (k : Nat) (f : Team → Team) (hf : ∀ x, (f x).bared = x.bared) : Booked s (modTeam s k f) := by
  constructor
  case teams =>
    intro h
    rw [team?_modTeam]
    split
    · rename_i e
      subst e
      cases team? s h <;> simp [hf]
    · rfl
  all_goals intros; rfl

theorem booked_modMgmt (s : State) (n : Nat) (f : Mgmt → Mgmt) (hf : ∀ x, (f x).bared = x.bared) :
    Booked s { s with units := { s.units with mgmt := modifyNth s.units.mgmt n f } } := by
  constructor
  case mgmt =>
    intro m
    simp only [modifyNth_getElem?]
    split
    · rename_i e
      subst e
      cases s.units.mgmt[m]? <;> simp [hf]
    · rfl
  all_goals intros; rfl

theorem bared_setLevel (x : Slice) (v : Level) : (setLevel x v).bared = x.bared := by
  unfold setLevel Slice.bared
  cases x.frames <;> rfl

theorem booked_raiseFlags (s : State) (g : Nat) (fl : Flags) : Booked s (raiseFlags s g fl) :=
  booked_modGroup s g _ (fun _ => rfl)

theorem booked_regroup (s : State) (es : List (Nat × Nat)) : Booked s (regroup s es) := by
  refine Booked.foldl _ (fun s e => ?_) es s
  exact booked_modSlice s _ _ _ (fun _ => rfl)

theorem booked_partWave (s : State) (k : Nat) : Booked s (partWave s k) := booked_regroup s _

theorem booked_partFocus (s : State) : Booked s (partFocus s) := by
  unfold partFocus
  split
  · exact booked_partWave s _
  · exact Booked.refl s

theorem booked_waveRetired (s : State) (k : Nat) (gs : List Nat) : Booked s (waveRetired s k gs) := by
  refine (booked_modSlot s k _).trans (Booked.foldl _ (fun s g => ?_) _ _)
  exact booked_modGroup s g _ (fun _ => rfl)

theorem booked_noteRetired (s : State) (f : Focus) (as : List (LaneId × Act)) : Booked s (noteRetired s f as) := by
  have named : Booked s (match f with | .wave k gang => modSlot s k (fun x => { x with lastGang := gang }) | _ => s) := by
    cases f with
    | wave k gang => exact booked_modSlot s k _
    | _ => exact Booked.refl s
  unfold noteRetired
  extract_lets u
  refine Booked.trans (b := u) named ?_
  clear_value u
  split
  · cases f with
    | wave k gang =>
      dsimp only
      split
      · exact booked_waveRetired _ _ _
      · exact Booked.refl _
    | grip t => exact booked_modGrip u _ _ (fun x => by cases hx : x.grip <;> simp [Team.bared, Grip.bared, hx])
    | mgmt n => exact booked_modMgmt u _ _ (fun _ => rfl)
    | none => exact Booked.refl u
  · exact Booked.refl u

theorem booked_clearFailed (s : State) (ls : List LaneId) : Booked s (clearFailed s ls) := by
  refine Booked.foldl _ (fun s l => ?_) ls s
  split
  · exact Booked.refl s
  · cases l with
    | wave g i => exact booked_modGroup s _ _ (fun _ => rfl)
    | grip t => exact booked_modGrip s _ _ (fun x => by cases hx : x.grip <;> simp [Team.bared, Grip.bared, hx])
    | mgmt n => exact booked_modMgmt s _ _ (fun _ => rfl)

theorem booked_consumePops (s0 s : State) (f : Form) (as : List (LaneId × Act)) : Booked s (consumePops s0 s f as) := by
  refine Booked.foldl _ (fun s l => ?_) _ s
  cases l with
  | wave g i =>
    dsimp only
    refine Booked.foldl _ (fun s x => ?_) _ s
    refine booked_modGroup s _ _ (fun _ => ?_)
    rfl
  | grip t => exact Booked.refl s
  | mgmt n => exact Booked.refl s

/-! ### What bookkeeping leaves alone -/

theorem regs_of_bared {x y : Group} (h : x.bared = y.bared) : x.regs = y.regs := by
  have := congrArg Group.regs h
  exact this

theorem slices_of_bared {x y : Group} (h : x.bared = y.bared) : x.slices.map Slice.bared = y.slices.map Slice.bared :=
  congrArg Group.slices h

theorem hregs_of_bared {x y : Slice} (h : x.bared = y.bared) : (x.frames.head?).map (·.hregs) = (y.frames.head?).map (·.hregs) := by
  have := congrArg (fun z => (z.frames.head?).map (·.hregs)) h
  simpa [Slice.bared, List.head?_map, Option.map_map, Function.comp_def] using this

theorem Booked.laneElem {u t : State} (h : Booked u t) (l : LaneId) (r : Nat) : laneElem t l r = laneElem u l r := by
  cases l with
  | wave g i =>
    rw [laneElem_wave, laneElem_wave]
    have hg := h.groups g
    cases ht : group? t g with
    | none =>
      cases hu : group? u g with
      | none => simp [topFrame, ht, hu]
      | some x => simp [ht, hu] at hg
    | some y =>
      cases hu : group? u g with
      | none => simp [ht, hu] at hg
      | some x =>
        rw [ht, hu] at hg
        have hc : y.bared = x.bared := Option.some.inj hg
        have hs := congrArg (fun z => z[i / 4]?) (slices_of_bared hc)
        simp only [List.getElem?_map] at hs
        simp only [topFrame, ht, hu, Option.map_some, Option.bind_some, Option.getD_some, regs_of_bared hc, sliceOf]
        split
        · rfl
        · cases hy : y.slices[i / 4]? with
          | none => cases hx : x.slices[i / 4]? with
            | none => rfl
            | some b => simp [hy, hx] at hs
          | some a => cases hx : x.slices[i / 4]? with
            | none => simp [hy, hx] at hs
            | some b =>
              rw [hy, hx] at hs
              have hh := hregs_of_bared (Option.some.inj hs)
              simp only [Option.bind_some]
              cases ha : a.frames.head? <;> cases hb : b.frames.head? <;> simp_all
  | grip k =>
    have hk := h.teams k
    simp only [Machine.laneElem]
    cases ht : team? t k with
    | none => cases hu : team? u k with
      | none => rfl
      | some x => simp [ht, hu] at hk
    | some y => cases hu : team? u k with
      | none => simp [ht, hu] at hk
      | some x =>
        rw [ht, hu] at hk
        have hg := congrArg (fun z => z.grip.map (·.regs)) (Option.some.inj hk)
        simp only [Team.bared, Option.map_map, Function.comp_def, Grip.bared] at hg
        cases hy : y.grip <;> cases hx : x.grip <;> simp_all
  | mgmt n =>
    have hm := h.mgmt n
    simp only [Machine.laneElem]
    cases ht : t.units.mgmt[n]? with
    | none => cases hu : u.units.mgmt[n]? with
      | none => rfl
      | some x => simp [ht, hu] at hm
    | some y => cases hu : u.units.mgmt[n]? with
      | none => simp [ht, hu] at hm
      | some x =>
        rw [ht, hu] at hm
        have hr := congrArg Mgmt.regs (Option.some.inj hm)
        simp only [Mgmt.bared] at hr
        simp [hr]

theorem Booked.unit {α : Type} {u t : State} (h : Booked u t) (f : Units → α) (hf : ∀ x, f { x with mgmt := [] } = f x) :
    f t.units = f u.units := by
  have := congrArg f h.units
  rwa [hf, hf] at this

theorem Booked.settled {u t : State} (h : Booked u t) : Settled u t where
  mem := h.mem
  poison := h.memPoison
  posted := h.posted
  cores := h.unit Units.cores (fun _ => rfl)
  clusters := h.unit Units.clusters (fun _ => rfl)
  parts := h.unit Units.parts (fun _ => rfl)
  l2 := h.unit Units.l2 (fun _ => rfl)
  tags := h.unit Units.tags (fun _ => rfl)
  reads := h.unit Units.tagReads (fun _ => rfl)
  late := h.late
  sysRegs := h.unit Units.sysRegs (fun _ => rfl)
  events := h.unit Units.events (fun _ => rfl)
  elems := h.laneElem
  groups g := by
    have := congrArg (Option.map Group.body) (h.groups g)
    rwa [Option.map_map, Option.map_map] at this
  launches := h.launches
  passes := h.passes
  teams k := by
    have := congrArg (Option.map (fun x : Team => { x with grip := Option.none })) (h.teams k)
    simpa [Option.map_map, Function.comp_def, Team.bared] using this

end Sys2Proof.Machine
end

