-- ==== Sys2Proof/Laws/Levels.lean ====
section
/-! SUPPORT. What the end of an issue does to the levels of slices and to FSTAT. -/

namespace Sys2Proof.Machine

/-- The level that a slice executes. -/
def level? (s : State) (g n : Nat) : Option Level := (slice? s g n).map levelOf

/-- A group's FSTAT. -/
def fstat? (s : State) (g : Nat) : Option Word := (group? s g).map (·.fstat)

@[simp] theorem levelOf_setLevel (x : Slice) (v : Level) : levelOf (setLevel x v) = v := by
  unfold setLevel
  cases x.frames <;> simp [levelOf]

theorem slice?_modSlice (s : State) (g n h m : Nat) (f : Slice → Slice) :
    slice? (modSlice s g n f) h m = if h = g ∧ m = n then (slice? s g n).map f else slice? s h m := by
  simp only [slice?, group?_modSlice]
  by_cases hg : h = g
  · subst hg
    cases group? s h with
    | none => simp
    | some x =>
      simp only [if_true, Option.map_some, Option.bind_some, modifyNth_getElem?, true_and]
  · simp [hg]

theorem slice?_modGroup (s : State) (g h m : Nat) (f : Group → Group) (hf : ∀ x, (f x).slices = x.slices) :
    slice? (modGroup s g f) h m = slice? s h m := by
  simp only [slice?, group?_modGroup]
  split
  · rename_i e
    subst e
    cases group? s h <;> simp [hf]
  · rfl

theorem fstat?_modGroup (s : State) (g h : Nat) (f : Group → Group) (hf : ∀ x, (f x).fstat = x.fstat) :
    fstat? (modGroup s g f) h = fstat? s h := by
  simp only [fstat?, group?_modGroup]
  split
  · rename_i e
    subst e
    cases group? s h <;> simp [hf]
  · rfl

/-- The counters of one-lane contexts. -/
def gripPc? (s : State) (k : Nat) : Option Addr := (grip? s k).map (·.pc)
def mgmtPc? (s : State) (n : Nat) : Option Addr := (s.units.mgmt[n]?).map (·.pc)

theorem gripPc?_modTeam (s : State) (k : Nat) (f : Team → Team) (hf : ∀ x, ((f x).grip).map (·.pc) = x.grip.map (·.pc)) (j : Nat) :
    gripPc? (modTeam s k f) j = gripPc? s j := by
  simp only [gripPc?, grip?, team?_modTeam]
  split
  · rename_i e
    subst e
    cases team? s j <;> simp [hf]
  · rfl

theorem mgmtPc?_modify (s : State) (m : Nat) (f : Mgmt → Mgmt) (hf : ∀ x, (f x).pc = x.pc) (n : Nat) :
    mgmtPc? { s with units := { s.units with mgmt := modifyNth s.units.mgmt m f } } n = mgmtPc? s n := by
  simp only [mgmtPc?, modifyNth_getElem?]
  split
  · rename_i e
    subst e
    cases s.units.mgmt[n]? <;> simp [hf]
  · rfl

/-- Levels, FSTAT and the counters of one-lane contexts are left alone. -/
structure Steady (s t : State) : Prop where
  level : ∀ g n, level? t g n = level? s g n
  fstat : ∀ g, fstat? t g = fstat? s g
  grip : ∀ k, gripPc? t k = gripPc? s k
  mgmt : ∀ n, mgmtPc? t n = mgmtPc? s n

theorem Steady.refl (s : State) : Steady s s := by constructor <;> intros <;> rfl

theorem Steady.trans {a b c : State} (h : Steady a b) (k : Steady b c) : Steady a c where
  level g n := (k.level g n).trans (h.level g n)
  fstat g := (k.fstat g).trans (h.fstat g)
  grip n := (k.grip n).trans (h.grip n)
  mgmt n := (k.mgmt n).trans (h.mgmt n)

theorem Steady.foldl {α : Type} (f : State → α → State) (h : ∀ s a, Steady s (f s a)) (as : List α) (s : State) :
    Steady s (as.foldl f s) := by
  induction as generalizing s with
  | nil => exact Steady.refl s
  | cons a as ih => exact (h s a).trans (ih _)

theorem steady_modGroup (s : State) (g : Nat) (f : Group → Group) (h1 : ∀ x, (f x).slices = x.slices) (h2 : ∀ x, (f x).fstat = x.fstat) :
    Steady s (modGroup s g f) where
  level h m := by unfold level?; rw [slice?_modGroup s g h m f h1]
  fstat h := fstat?_modGroup s g h f h2
  grip _ := rfl
  mgmt _ := rfl

theorem steady_modSlice (s : State) (g n : Nat) (f : Slice → Slice) (hf : ∀ x, levelOf (f x) = levelOf x) :
    Steady s (modSlice s g n f) where
  level h m := by
    unfold level?
    rw [slice?_modSlice]
    split
    · rename_i e
      obtain ⟨rfl, rfl⟩ := e
      cases slice? s h m <;> simp [hf]
    · rfl
  fstat h := fstat?_modGroup s g h _ (fun _ => rfl)
  grip _ := rfl
  mgmt _ := rfl

theorem steady_modSlot (s : State) (k : Nat) (f : Slot → Slot) : Steady s (modSlot s k f) := by constructor <;> intros <;> rfl

theorem steady_modTeam (s : State) (k : Nat) (f : Team → Team) (hf : ∀ x, ((f x).grip).map (·.pc) = x.grip.map (·.pc)) :
    Steady s (modTeam s k f) where
  level _ _ := rfl
  fstat _ := rfl
  grip j := gripPc?_modTeam s k f hf j
  mgmt _ := rfl

theorem steady_modMgmt (s : State) (m : Nat) (f : Mgmt → Mgmt) (hf : ∀ x, (f x).pc = x.pc) :
    Steady s { s with units := { s.units with mgmt := modifyNth s.units.mgmt m f } } where
  level _ _ := rfl
  fstat _ := rfl
  grip _ := rfl
  mgmt n := mgmtPc?_modify s m f hf n

theorem steady_regroup (s : State) (es : List (Nat × Nat)) : Steady s (regroup s es) := by
  refine Steady.foldl _ (fun s e => ?_) es s
  exact steady_modSlice s _ _ _ (fun _ => rfl)

theorem steady_partFocus (s : State) : Steady s (partFocus s) := by
  unfold partFocus
  split
  · exact steady_regroup s _
  · exact Steady.refl s

theorem steady_waveRetired (s : State) (k : Nat) (gs : List Nat) : Steady s (waveRetired s k gs) := by
  refine (steady_modSlot s k _).trans (Steady.foldl _ (fun s g => ?_) _ _)
  exact steady_modGroup s g _ (fun _ => rfl) (fun _ => rfl)

theorem steady_noteRetired (s : State) (f : Focus) (as : List (LaneId × Act)) : Steady s (noteRetired s f as) := by
  have named : Steady s (match f with | .wave k gang => modSlot s k (fun x => { x with lastGang := gang }) | _ => s) := by
    cases f with
    | wave k gang => exact steady_modSlot s k _
    | _ => exact Steady.refl s
  unfold noteRetired
  extract_lets u
  refine Steady.trans (b := u) named ?_
  clear_value u
  split
  · cases f with
    | wave k gang =>
      dsimp only
      split
      · exact steady_waveRetired _ _ _
      · exact Steady.refl _
    | grip t => exact steady_modTeam u _ _ (fun x => by cases x.grip <;> simp)
    | mgmt n => exact steady_modMgmt u _ _ (fun _ => rfl)
    | none => exact Steady.refl u
  · exact Steady.refl u

theorem steady_clearFailed (s : State) (ls : List LaneId) : Steady s (clearFailed s ls) := by
  refine Steady.foldl _ (fun s l => ?_) ls s
  split
  · exact Steady.refl s
  · cases l with
    | wave g i => exact steady_modGroup s _ _ (fun _ => rfl) (fun _ => rfl)
    | grip t => exact steady_modTeam s _ _ (fun x => by cases x.grip <;> simp)
    | mgmt n => exact steady_modMgmt s _ _ (fun _ => rfl)

theorem steady_consumePops (s0 s : State) (f : Form) (as : List (LaneId × Act)) : Steady s (consumePops s0 s f as) := by
  refine Steady.foldl _ (fun s l => ?_) _ s
  cases l with
  | wave g i =>
    dsimp only
    refine Steady.foldl _ (fun s x => ?_) _ s
    refine steady_modGroup s _ _ (fun _ => ?_) (fun _ => ?_) <;> rfl
  | grip t => exact Steady.refl s
  | mgmt n => exact Steady.refl s

/-- A level depends on its slice's registers in no way: writes to elements leave all this alone. -/
theorem steady_setLaneElem (s : State) (l : LaneId) (r : Nat) (e : Elem) : Steady s (setLaneElem s l r e) := by
  cases l with
  | wave g i =>
    rw [setLaneElem_wave]
    split
    · exact steady_modGroup s _ _ (fun _ => rfl) (fun _ => rfl)
    · refine steady_modSlice s _ _ _ (fun c => ?_)
      cases h : c.frames <;> simp [levelOf, h]
  | grip t => exact steady_modTeam s _ _ (fun x => by cases x.grip <;> simp)
  | mgmt n => exact steady_modMgmt s _ _ (fun _ => rfl)

theorem steady_writeLanes (s : State) (l : LaneId) (ws : List (Nat × Word)) : Steady s (writeLanes s l ws) := by
  refine Steady.foldl _ (fun s w => ?_) ws s
  exact steady_setLaneElem s l w.1 _

/-! ### The slices of an issue -/

/-- The key of a wave lane's slice. -/
def sliceKey : LaneId → Option (Nat × Nat)
  | .wave g i => some (g, i / 4)
  | _ => none

theorem keys_spec {β : Type} (as : List (LaneId × β)) (acc : List (Nat × Nat)) (hn : acc.Nodup) :
    let r := as.foldl (fun acc a => match a.1 with
      | .wave g i => if acc.contains (g, i / 4) then acc else acc ++ [(g, i / 4)]
      | _ => acc) acc
    r.Nodup ∧ ∀ k, k ∈ r ↔ k ∈ acc ∨ ∃ a ∈ as, sliceKey a.1 = some k := by
  induction as generalizing acc with
  | nil => simp [hn]
  | cons a as ih =>
    obtain ⟨l, b⟩ := a
    simp only [List.foldl_cons]
    cases l with
    | wave g i =>
      dsimp only
      by_cases hc : acc.contains (g, i / 4) = true
      · rw [if_pos hc]
        obtain ⟨h1, h2⟩ := ih acc hn
        refine ⟨h1, fun k => ?_⟩
        rw [h2]
        simp only [List.mem_cons, exists_eq_or_imp, sliceKey, Option.some.injEq]
        constructor
        · rintro (h | h)
          · exact .inl h
          · exact .inr (.inr h)
        · rintro (h | rfl | h)
          · exact .inl h
          · exact .inl (by simpa using hc)
          · exact .inr h
      · rw [if_neg hc]
        have hn' : (acc ++ [(g, i / 4)]).Nodup := by
          rw [List.nodup_append]
          refine ⟨hn, by simp, ?_⟩
          intro a ha b hb
          rw [List.mem_singleton] at hb
          rintro rfl
          subst hb
          exact hc (by simpa using ha)
        obtain ⟨h1, h2⟩ := ih _ hn'
        refine ⟨h1, fun k => ?_⟩
        rw [h2]
        rw [List.mem_append, List.mem_singleton]
        simp only [List.mem_cons, exists_eq_or_imp, sliceKey, Option.some.injEq]
        constructor
        · rintro ((h | rfl) | h)
          · exact .inl h
          · exact .inr (.inl rfl)
          · exact .inr (.inr h)
        · rintro (h | rfl | h)
          · exact .inl (.inl h)
          · exact .inl (.inr rfl)
          · exact .inr h
    | grip t =>
      obtain ⟨h1, h2⟩ := ih acc hn
      exact ⟨h1, fun k => by rw [h2]; simp [sliceKey]⟩
    | mgmt n =>
      obtain ⟨h1, h2⟩ := ih acc hn
      exact ⟨h1, fun k => by rw [h2]; simp [sliceKey]⟩

/-- The keys of the slices of an issue. -/
def sliceKeys (as : List (LaneId × Act)) : List (Nat × Nat) :=
  as.foldl (fun acc a => match a.1 with
    | .wave g i => if acc.contains (g, i / 4) then acc else acc ++ [(g, i / 4)]
    | _ => acc) []

theorem sliceKeys_nodup (as : List (LaneId × Act)) : (sliceKeys as).Nodup := (keys_spec as [] List.nodup_nil).1

theorem mem_sliceKeys (as : List (LaneId × Act)) (k : Nat × Nat) : k ∈ sliceKeys as ↔ ∃ a ∈ as, sliceKey a.1 = some k := by
  refine ((keys_spec as [] List.nodup_nil).2 k).trans ⟨fun h => ?_, .inr⟩
  rcases h with h | h
  · cases h
  · exact h

/-- The outcomes of one slice. -/
def ofSlice (as : List (LaneId × Act)) (k : Nat × Nat) : List (LaneId × Act) := as.filter (fun a => sliceKey a.1 = some k)

theorem bySlice_eq (as : List (LaneId × Act)) : bySlice as = (sliceKeys as).map (fun k => (k, ofSlice as k)) := by
  unfold bySlice
  have h : ∀ k : Nat × Nat, as.filter (fun a => match a.1 with | .wave g i => decide ((g, i / 4) = k) | _ => false) = ofSlice as k := by
    intro k
    apply List.filter_congr
    intro a _
    obtain ⟨l, b⟩ := a
    cases l <;> simp [sliceKey]
  exact List.map_congr_left (fun k _ => congrArg (Prod.mk k) (h k))

end Sys2Proof.Machine
end

