-- ==== Sys2Proof/Laws/Issue.lean ====
section
/-! SUPPORT. What an issue does when its instruction completes in every lane: the one law that statements about completed instructions
cite. -/

namespace Sys2Proof.Machine

/-- The outcomes of lanes that all complete. -/
def doneActs (active : List LaneId) (ws : LaneId → List (Nat × Word)) (fl : LaneId → Flags) (tgt : LaneId → Option Addr) :
    List (LaneId × Act) := active.map (fun l => (l, .done (ws l) (fl l) (tgt l)))

/-- The lanes of a slice that completed, with their targets. -/
def doneOf (as : List (LaneId × Act)) (k : Nat × Nat) : List (Nat × Option Addr) :=
  (ofSlice as k).filterMap (fun a => match a.2 with | .done _ _ tgt => some (lidxOf a.1, tgt) | _ => none)

/-- The flags that a slice raises. -/
def flagsOf (as : List (LaneId × Act)) (k : Nat × Nat) : Flags := ((ofSlice as k).map (fun a => actFlags none a.2)).foldl flOr 0

section
variable (active : List LaneId) (ws : LaneId → List (Nat × Word)) (fl : LaneId → Flags) (tgt : LaneId → Option Addr)

theorem doneActs_mem {a : LaneId × Act} (h : a ∈ doneActs active ws fl tgt) :
    a.1 ∈ active ∧ a.2 = .done (ws a.1) (fl a.1) (tgt a.1) := by
  obtain ⟨l, hl, rfl⟩ := List.mem_map.mp h
  exact ⟨hl, rfl⟩

theorem lowestCause_of_done (as : List (LaneId × Act)) (h : ∀ a ∈ as, ∃ w f t, a.2 = .done w f t) : lowestCause as = none := by
  unfold lowestCause
  rw [List.filterMap_eq_nil_iff.mpr]
  · rfl
  · intro a ha
    obtain ⟨w, f, t, e⟩ := h a ha
    simp [e]

theorem ofSlice_done (k : Nat × Nat) : ∀ a ∈ ofSlice (doneActs active ws fl tgt) k, ∃ w f t, a.2 = .done w f t := by
  intro a ha
  exact ⟨_, _, _, (doneActs_mem active ws fl tgt (List.mem_of_mem_filter ha)).2⟩

theorem settleWaveSlice_done (s0 s : State) (e : Entry) (kept : Bool) (k : Nat × Nat) :
    settleWaveSlice s0 s e active kept k.1 k.2 (ofSlice (doneActs active ws fl tgt) k) =
      modSlice (raiseFlags s k.1 (flagsOf (doneActs active ws fl tgt) k)) k.1 k.2 (fun x =>
        { setLevel x (placeLevel (levelOf x) e.form.len (doneOf (doneActs active ws fl tgt) k)) with
          redo := [], stepping := false, skipBrk := skipAfter x }) := by
  unfold settleWaveSlice
  rw [lowestCause_of_done _ (ofSlice_done active ws fl tgt k)]
  rfl

/-- One slice settled. -/
def settleOne (e : Entry) (as : List (LaneId × Act)) (s : State) (k : Nat × Nat) : State :=
  modSlice (raiseFlags s k.1 (flagsOf as k)) k.1 k.2 (fun x =>
    { setLevel x (placeLevel (levelOf x) e.form.len (doneOf as k)) with redo := [], stepping := false, skipBrk := skipAfter x })

theorem booked_settleOne (e : Entry) (as : List (LaneId × Act)) (s : State) (k : Nat × Nat) : Booked s (settleOne e as s k) := by
  refine (booked_raiseFlags s _ _).trans (booked_modSlice _ _ _ _ (fun x => ?_))
  rw [← bared_setLevel x (placeLevel (levelOf x) e.form.len (doneOf as k))]
  rfl

theorem level_settleOne (e : Entry) (as : List (LaneId × Act)) (s : State) (k : Nat × Nat) (g n : Nat) :
    level? (settleOne e as s k) g n =
      if (g, n) = k then (level? s g n).map (fun v => placeLevel v e.form.len (doneOf as k)) else level? s g n := by
  have hr : ∀ h m, slice? (raiseFlags s k.1 (flagsOf as k)) h m = slice? s h m :=
    fun h m => slice?_modGroup s _ h m _ (fun _ => rfl)
  unfold level? settleOne
  rw [slice?_modSlice]
  by_cases he : (g, n) = k
  · subst he
    simp only [and_self, if_true, hr]
    cases slice? s g n with
    | none => rfl
    | some x =>
      have : levelOf { setLevel x (placeLevel (levelOf x) e.form.len (doneOf as (g, n))) with
          redo := [], stepping := false, skipBrk := skipAfter x } = placeLevel (levelOf x) e.form.len (doneOf as (g, n)) :=
        levelOf_setLevel x _
      simp [this]
  · rw [if_neg he, if_neg, hr]
    rintro ⟨rfl, rfl⟩
    exact he rfl

theorem fstat_settleOne (e : Entry) (as : List (LaneId × Act)) (s : State) (k : Nat × Nat) (g : Nat) :
    fstat? (settleOne e as s k) g = if g = k.1 then (fstat? s g).map (· ||| w32 (flagsOf as k)) else fstat? s g := by
  have h1 : fstat? (settleOne e as s k) g = fstat? (raiseFlags s k.1 (flagsOf as k)) g :=
    fstat?_modGroup _ _ _ _ (fun _ => rfl)
  rw [h1]
  simp only [fstat?, raiseFlags, group?_modGroup]
  split
  · rename_i he
    subst he
    cases group? s k.1 <;> rfl
  · rfl

theorem booked_settleFold (e : Entry) (as : List (LaneId × Act)) (K : List (Nat × Nat)) (s : State) :
    Booked s (K.foldl (settleOne e as) s) := Booked.foldl _ (booked_settleOne e as) K s

theorem level_settleFold (e : Entry) (as : List (LaneId × Act)) (K : List (Nat × Nat)) (hK : K.Nodup) (s : State) (g n : Nat) :
    level? (K.foldl (settleOne e as) s) g n =
      if (g, n) ∈ K then (level? s g n).map (fun v => placeLevel v e.form.len (doneOf as (g, n))) else level? s g n := by
  induction K generalizing s with
  | nil => simp
  | cons k K ih =>
    rw [List.nodup_cons] at hK
    rw [List.foldl_cons, ih hK.2, level_settleOne]
    by_cases he : (g, n) = k
    · subst he
      simp [hK.1]
    · simp [he]

theorem fstat_settleFold (e : Entry) (as : List (LaneId × Act)) (K : List (Nat × Nat)) (s : State) (g : Nat) (w : Word)
    (h : fstat? s g = some w) : ∃ w', fstat? (K.foldl (settleOne e as) s) g = some w' ∧
      ∀ b, b < 32 → w'.getLsbD b = (w.getLsbD b || K.any (fun k => k.1 == g && (flagsOf as k).testBit b)) := by
  induction K generalizing s w with
  | nil => exact ⟨w, h, by simp⟩
  | cons k K ih =>
    rw [List.foldl_cons]
    by_cases he : g = k.1
    · obtain ⟨w', h1, h2⟩ := ih (settleOne e as s k) (w ||| w32 (flagsOf as k)) (by rw [fstat_settleOne, if_pos he, h]; rfl)
      refine ⟨w', h1, fun b hb => ?_⟩
      rw [h2 b hb, List.any_cons, BitVec.getLsbD_or, w32, BitVec.getLsbD_ofNat]
      simp [he, hb, Bool.or_assoc]
    · obtain ⟨w', h1, h2⟩ := ih (settleOne e as s k) w (by rw [fstat_settleOne, if_neg he, h])
      refine ⟨w', h1, fun b hb => ?_⟩
      rw [h2 b hb, List.any_cons]
      have : (k.1 == g) = false := by simpa using fun h => he h.symm
      simp [this]

/-- Every lane's effect, in ascending lane position. -/
def effects (s : State) (e : Entry) (ws : LaneId → List (Nat × Word)) : State :=
  (issuing s).foldl (fun u l => e.eff l (laneVals s e.form (issuing s) l) (writeLanes u l (ws l))) s

theorem applyActs_done (s0 : State) (e : Entry) (act : List LaneId) (seen : List Nat) (ls : List LaneId) (s : State) :
    applyActs s0 e act seen s (doneActs ls ws fl tgt) =
      ls.foldl (fun u l => e.eff l (laneVals s0 e.form act l) (writeLanes u l (ws l))) s := by
  induction ls generalizing s with
  | nil => rfl
  | cons l ls ih =>
    have hc : doneActs (l :: ls) ws fl tgt = (l, .done (ws l) (fl l) (tgt l)) :: doneActs ls ws fl tgt := rfl
    rw [hc]
    simp only [applyActs]
    exact ih _

end

/-- The operands of a lane are at hand: nothing of the group's one-lane operands, and nothing of its own, stops it. -/
theorem commonAct_none {s : State} {f : Form} {active : List LaneId} {l : LaneId} (h : commonAct s f active l = none) :
    oneAct s f active l = none ∧ ownAct s f active l = none := by
  unfold commonAct at h
  cases ho : oneAct s f active l with
  | none => rw [ho] at h; exact ⟨rfl, h⟩
  | some a => rw [ho] at h; cases h

/-- The form of an issue that is ready, when the entry is legal and its plan completes: the outcomes of its lanes. -/
theorem actsOf_ready (s : State) (e : Entry) (word : Nat) (ws : LaneId → List (Nat × Word)) (fl : LaneId → Flags)
    (tgt : LaneId → Option Addr) (hr : ready s e.form = true) (hl : ∀ l ∈ issuing s, e.legal l = true)
    (hb : ∀ l ∈ issuing s, e.before l (laneVals s e.form (issuing s) l) = none)
    (hp : ∀ l ∈ issuing s, e.plan l (laneVals s e.form (issuing s) l) = .done (ws l) (fl l) (tgt l)) :
    actsOf s e word (issuing s) = doneActs (issuing s) ws fl tgt := by
  simp only [ready, Bool.and_eq_true, List.all_eq_true] at hr
  obtain ⟨-, hall⟩ := hr
  have hlegal : (issuing s).all (legalFor s e) = true := by
    rw [List.all_eq_true]
    intro l h
    have := hall l h
    simp [legalFor, this.1.1, this.1.2, hl l h]
  unfold actsOf
  rw [if_pos hlegal]
  unfold entryActs doneActs
  apply List.map_congr_left
  intro l h
  have hc := (hall l h).2
  rw [Option.isNone_iff_eq_none] at hc
  obtain ⟨h1, h2⟩ := commonAct_none hc
  simp [laneAct, h1, h2, hb l h, hp l h]

theorem activeLanes_grip (s : State) (k : Nat) (l : LaneId) (h : l ∈ activeLanes s (.grip k)) :
    activeLanes s (.grip k) = [.grip k] ∧ l = .grip k := by
  unfold activeLanes at h ⊢
  dsimp only at h ⊢
  split at h
  · split at h
    · cases h
    · rename_i hx he
      rw [List.mem_singleton] at h
      exact ⟨if_neg he, h⟩
  · cases h

theorem activeLanes_mgmt (s : State) (n : Nat) (l : LaneId) (h : l ∈ activeLanes s (.mgmt n)) :
    activeLanes s (.mgmt n) = [.mgmt n] ∧ l = .mgmt n := by
  unfold activeLanes at h ⊢
  dsimp only at h ⊢
  split at h
  · rename_i hx
    rw [List.mem_singleton] at h
    exact ⟨by rw [if_pos hx], h⟩
  · cases h

/-- THE LAW OF A COMPLETED ISSUE. When an issue is ready, its entry legal, and its plan completes in every lane, the answer is a next
state; it is the state after every lane's effect but for bookkeeping, and the levels, flags and counters are as given. -/
theorem runEntry_done (s : State) (i : Instr) (e : Entry) (ws : LaneId → List (Nat × Word)) (fl : LaneId → Flags)
    (tgt : LaneId → Option Addr) (hr : ready s e.form = true) (hl : ∀ l ∈ issuing s, e.legal l = true)
    (hb : ∀ l ∈ issuing s, e.before l (laneVals s e.form (issuing s) l) = none) (ho : e.once = none)
    (hp : ∀ l ∈ issuing s, e.plan l (laneVals s e.form (issuing s) l) = .done (ws l) (fl l) (tgt l))
    (hf : (effects s e ws).focus = s.focus) :
    ∃ t, runEntry s i e = .next t ∧ Booked (effects s e ws) t ∧
      (∀ k gang, s.focus = .wave k gang →
        (∀ g n, level? t g n =
          if (g, n) ∈ sliceKeys (doneActs (issuing s) ws fl tgt) then
            (level? (effects s e ws) g n).map (fun v => placeLevel v e.form.len (doneOf (doneActs (issuing s) ws fl tgt) (g, n)))
          else level? (effects s e ws) g n) ∧
        (∀ g w, fstat? (effects s e ws) g = some w → ∃ w', fstat? t g = some w' ∧ ∀ b, b < 32 →
          w'.getLsbD b = (w.getLsbD b || (sliceKeys (doneActs (issuing s) ws fl tgt)).any
            (fun k => k.1 == g && (flagsOf (doneActs (issuing s) ws fl tgt) k).testBit b)))) ∧
      (∀ k, s.focus = .grip k → (∀ g, fstat? t g = fstat? (effects s e ws) g) ∧
        gripPc? t k = (gripPc? (effects s e ws) k).map (fun pc => (tgt (.grip k)).getD (pc + BitVec.ofNat 56 e.form.len))) ∧
      (∀ n, s.focus = .mgmt n → (∀ g, fstat? t g = fstat? (effects s e ws) g) ∧
        mgmtPc? t n = (mgmtPc? (effects s e ws) n).map (fun pc => (tgt (.mgmt n)).getD (pc + BitVec.ofNat 56 e.form.len))) := by
  have ha := actsOf_ready s e (wordOf i) ws fl tgt hr hl hb hp
  have hne : (issuing s).isEmpty = false := by
    simp only [ready, Bool.and_eq_true] at hr
    simpa using hr.1.2
  unfold runEntry
  have hact : activeLanes s s.focus = issuing s := rfl
  simp only [hact, hne, ha]
  refine ⟨_, rfl, ?_⟩
  have hnw : (doneActs (issuing s) ws fl tgt).any (fun a => decide (a.2 = .wait)) = false := by
    rw [List.any_eq_false]
    intro a h
    simp [(doneActs_mem _ ws fl tgt h).2]
  have hns : (doneActs (issuing s) ws fl tgt).any (fun a => decide (a.2 = .swap)) = false := by
    rw [List.any_eq_false]
    intro a h
    simp [(doneActs_mem _ ws fl tgt h).2]
  have hap : applyDone s s e (issuing s) (doneActs (issuing s) ws fl tgt) = effects s e ws := by
    unfold applyDone groupEffects
    rw [ho]
    exact applyActs_done ws fl tgt s e (issuing s) [] (issuing s) s
  unfold finish
  rw [if_neg (by simp only [hnw]; exact Bool.false_ne_true), if_neg (by simp only [hns]; exact Bool.false_ne_true)]
  simp only [hap]
  have hb2 := booked_consumePops s (effects s e ws) e.form (doneActs (issuing s) ws fl tgt)
  have hs2 := steady_consumePops s (effects s e ws) e.form (doneActs (issuing s) ws fl tgt)
  generalize consumePops s (effects s e ws) e.form (doneActs (issuing s) ws fl tgt) = s2 at hb2 hs2
  have hfoc : s2.focus = s.focus := hb2.focus.trans hf
  have tail : ∀ s3, Booked s3 (clearFailed (noteRetired s3 s.focus (doneActs (issuing s) ws fl tgt)) (issuing s)) ∧
      Steady s3 (clearFailed (noteRetired s3 s.focus (doneActs (issuing s) ws fl tgt)) (issuing s)) := fun s3 =>
    ⟨(booked_noteRetired s3 _ _).trans (booked_clearFailed _ _), (steady_noteRetired s3 _ _).trans (steady_clearFailed _ _)⟩
  obtain ⟨l, hmem⟩ : ∃ l, l ∈ issuing s := by
    cases hi : issuing s with
    | nil => simp [hi] at hne
    | cons a as => exact ⟨a, List.mem_cons_self⟩
  cases hfo : s.focus with
  | none =>
    have hissue : issuing s = [] := by unfold issuing activeLanes; rw [hfo]
    simp [hissue] at hne
  | wave k gang =>
    have hset : settleAll s s2 e (issuing s) (doneActs (issuing s) ws fl tgt) =
        partFocus ((sliceKeys (doneActs (issuing s) ws fl tgt)).foldl (settleOne e (doneActs (issuing s) ws fl tgt)) s2) := by
      unfold settleAll
      rw [hfoc, hfo]
      dsimp only
      congr 1
      rw [bySlice_eq, List.foldl_map]
      congr 1
      funext t p
      exact settleWaveSlice_done (issuing s) ws fl tgt s t e _ p
    rw [hset, ← hfo]
    obtain ⟨tb, ts⟩ := tail (partFocus ((sliceKeys (doneActs (issuing s) ws fl tgt)).foldl (settleOne e (doneActs (issuing s) ws fl tgt)) s2))
    have hpb := booked_partFocus ((sliceKeys (doneActs (issuing s) ws fl tgt)).foldl (settleOne e (doneActs (issuing s) ws fl tgt)) s2)
    have hps := steady_partFocus ((sliceKeys (doneActs (issuing s) ws fl tgt)).foldl (settleOne e (doneActs (issuing s) ws fl tgt)) s2)
    have hst := Steady.trans hps ts
    refine ⟨((hb2.trans (booked_settleFold e _ _ s2)).trans hpb).trans tb, ?_, ?_, ?_⟩
    · intro k' gang' _
      refine ⟨fun g n => ?_, fun g w hw => ?_⟩
      · rw [hst.level g n, level_settleFold e _ _ (sliceKeys_nodup _), hs2.level]
      · obtain ⟨w', h1, h2⟩ := fstat_settleFold e (doneActs (issuing s) ws fl tgt) (sliceKeys (doneActs (issuing s) ws fl tgt)) s2 g w
          ((hs2.fstat g).trans hw)
        exact ⟨w', (hst.fstat g).trans h1, h2⟩
    · intro k' h; rw [hfo] at h; cases h
    · intro k' h; rw [hfo] at h; cases h
  | grip k =>
    have hsing : issuing s = [.grip k] := by
      have := activeLanes_grip s k l (by have h := hmem; unfold issuing at h; rwa [hfo] at h)
      unfold issuing
      rw [hfo]
      exact this.1
    have hset : settleAll s s2 e (issuing s) (doneActs (issuing s) ws fl tgt) =
        settleSingle s2 e.form.len (.grip k) (.done (ws (.grip k)) (fl (.grip k)) (tgt (.grip k))) := by
      unfold settleAll
      rw [hfoc, hfo, hsing]
      rfl
    rw [hset, ← hfo]
    have hb3 : Booked s2 (settleSingle s2 e.form.len (.grip k) (.done (ws (.grip k)) (fl (.grip k)) (tgt (.grip k)))) :=
      booked_modGrip s2 _ _ (fun x => by cases hx : x.grip <;> simp [Team.bared, Grip.bared, hx])
    obtain ⟨tb, ts⟩ := tail (settleSingle s2 e.form.len (.grip k) (.done (ws (.grip k)) (fl (.grip k)) (tgt (.grip k))))
    refine ⟨(hb2.trans hb3).trans tb, ?_, ?_, ?_⟩
    · intro k' gang' h; rw [hfo] at h; cases h
    · intro k' h
      rw [hfo] at h
      cases h
      refine ⟨fun g => (ts.fstat g).trans (hs2.fstat g), ?_⟩
      rw [ts.grip k, ← hs2.grip k]
      simp only [gripPc?, grip?, settleSingle, team?_modTeam, if_true]
      cases team? s2 k with
      | none => rfl
      | some x => cases hx : x.grip <;> simp [hx]
    · intro k' h; rw [hfo] at h; cases h
  | mgmt n =>
    have hsing : issuing s = [.mgmt n] := by
      have := activeLanes_mgmt s n l (by have h := hmem; unfold issuing at h; rwa [hfo] at h)
      unfold issuing
      rw [hfo]
      exact this.1
    have hset : settleAll s s2 e (issuing s) (doneActs (issuing s) ws fl tgt) =
        settleSingle s2 e.form.len (.mgmt n) (.done (ws (.mgmt n)) (fl (.mgmt n)) (tgt (.mgmt n))) := by
      unfold settleAll
      rw [hfoc, hfo, hsing]
      rfl
    rw [hset, ← hfo]
    have hb3 : Booked s2 (settleSingle s2 e.form.len (.mgmt n) (.done (ws (.mgmt n)) (fl (.mgmt n)) (tgt (.mgmt n)))) :=
      booked_modMgmt s2 _ _ (fun _ => rfl)
    obtain ⟨tb, ts⟩ := tail (settleSingle s2 e.form.len (.mgmt n) (.done (ws (.mgmt n)) (fl (.mgmt n)) (tgt (.mgmt n))))
    refine ⟨(hb2.trans hb3).trans tb, ?_, ?_, ?_⟩
    · intro k' gang' h; rw [hfo] at h; cases h
    · intro k' h; rw [hfo] at h; cases h
    · intro k' h
      rw [hfo] at h
      cases h
      refine ⟨fun g => (ts.fstat g).trans (hs2.fstat g), ?_⟩
      rw [ts.mgmt n, ← hs2.mgmt n]
      simp only [mgmtPc?, settleSingle, modifyNth_getElem?, if_true]
      cases s2.units.mgmt[n]? <;> rfl

end Sys2Proof.Machine
end

