-- ==== Sys2Proof/Laws/Memory.lean ====
section
/-! SUPPORT. Laws of memory: what a store does to every byte, that stores keep the canonical form, and that two memories in canonical form
with the same bytes are the same list. -/

namespace Sys2Proof.Machine

theorem memSorted_mono {lo hi : Nat} (h : lo ≤ hi) (m : List Host.Cell) (hm : memSorted hi m = true) : memSorted lo m = true := by
  cases m with
  | nil => rfl
  | cons e rest =>
    obtain ⟨a, b⟩ := e
    simp only [memSorted, Bool.and_eq_true, decide_eq_true_eq] at hm ⊢
    exact ⟨⟨by omega, hm.1.2⟩, hm.2⟩

/-- Below the first address of a sorted memory every byte is the empty one. -/
theorem memGet_below {lo a : Nat} (m : List Host.Cell) (hm : memSorted lo m = true) (h : a < lo) : memGet m a = emptyByte := by
  induction m generalizing lo with
  | nil => rfl
  | cons e rest ih =>
    obtain ⟨a', b⟩ := e
    simp only [memSorted, Bool.and_eq_true, decide_eq_true_eq] at hm
    have hne : a' ≠ a := by omega
    simp only [memGet, if_neg hne]
    exact ih hm.2 (by omega)

theorem memSorted_memPut {lo a : Nat} (m : List Host.Cell) (b : Byte) (hm : memSorted lo m = true) (h : lo ≤ a) :
    memSorted lo (memPut m a b) = true := by
  induction m generalizing lo with
  | nil =>
    by_cases hb : b = emptyByte
    · simp [memPut, hb, memSorted]
    · simp [memPut, hb, memSorted, h]
  | cons e rest ih =>
    obtain ⟨a', b'⟩ := e
    have hm' := hm
    simp only [memSorted, Bool.and_eq_true, decide_eq_true_eq] at hm
    simp only [memPut]
    split
    · rename_i hlt
      split
      · exact hm'
      · rename_i hb
        simp only [memSorted, Bool.and_eq_true, decide_eq_true_eq]
        exact ⟨⟨h, by simpa using hb⟩, ⟨by omega, hm.1.2⟩, hm.2⟩
    · split
      · rename_i _ heq
        subst heq
        split
        · exact memSorted_mono (by omega) rest hm.2
        · rename_i hb
          simp only [memSorted, Bool.and_eq_true, decide_eq_true_eq]
          exact ⟨⟨h, by simpa using hb⟩, hm.2⟩
      · simp only [memSorted, Bool.and_eq_true, decide_eq_true_eq]
        exact ⟨hm.1, ih hm.2 (by omega)⟩

/-- A store keeps the canonical form. -/
theorem wf_memPut (m : List Host.Cell) (a : Nat) (b : Byte) (hm : Memory.wf m = true) : Memory.wf (memPut m a b) = true :=
  memSorted_memPut m b hm (Nat.zero_le a)

theorem wf_memPuts (m : List Host.Cell) (a : Nat) (bs : List Byte) (hm : Memory.wf m = true) : Memory.wf (memPuts m a bs) = true := by
  induction bs generalizing m a with
  | nil => exact hm
  | cons b bs ih => exact ih _ _ (wf_memPut m a b hm)

theorem memGet_memPut_sorted {lo : Nat} (m : List Host.Cell) (a c : Nat) (b : Byte) (hm : memSorted lo m = true) :
    memGet (memPut m a b) c = if c = a then b else memGet m c := by
  induction m generalizing lo with
  | nil =>
    by_cases hb : b = emptyByte
    · simp [memPut, hb, memGet]
    · simp only [memPut, if_neg hb, memGet]
      by_cases hc : c = a
      · simp [hc]
      · simp [hc, Ne.symm hc]
  | cons e rest ih =>
    obtain ⟨a', b'⟩ := e
    simp only [memSorted, Bool.and_eq_true, decide_eq_true_eq] at hm
    simp only [memPut]
    split
    · rename_i hlt
      split
      · rename_i hb
        by_cases hc : c = a
        · subst hc
          have hne : a' ≠ c := by omega
          simp only [memGet, if_neg hne, if_true]
          rw [memGet_below rest hm.2 (by omega), hb]
        · rw [if_neg hc]
      · by_cases hc : c = a
        · simp [hc, memGet]
        · simp [hc, memGet, Ne.symm hc]
    · split
      · rename_i _ heq
        subst heq
        split
        · rename_i hb
          by_cases hc : c = a
          · subst hc
            rw [if_pos rfl, memGet_below rest hm.2 (by omega), hb]
          · simp [hc, memGet, Ne.symm hc]
        · by_cases hc : c = a
          · simp [hc, memGet]
          · simp [hc, memGet, Ne.symm hc]
      · rename_i h1 h2
        simp only [memGet]
        split
        · rename_i he
          subst he
          rw [if_neg (fun h => h2 h.symm)]
        · exact ih hm.2

/-- What a store does to every byte. -/
theorem memGet_memPut (m : List Host.Cell) (a c : Nat) (b : Byte) (hm : Memory.wf m = true) :
    memGet (memPut m a b) c = if c = a then b else memGet m c := memGet_memPut_sorted m a c b hm

theorem memGet_memPuts (m : List Host.Cell) (a c : Nat) (bs : List Byte) (hm : Memory.wf m = true) :
    memGet (memPuts m a bs) c = if a ≤ c ∧ c < a + bs.length then bs.getD (c - a) 0 else memGet m c := by
  induction bs generalizing m a with
  | nil =>
    have : ¬ (a ≤ c ∧ c < a) := by omega
    simp [memPuts, this]
  | cons b bs ih =>
    simp only [memPuts, List.length_cons]
    rw [ih _ _ (wf_memPut m a b hm), memGet_memPut m a c b hm]
    by_cases h0 : c = a
    · subst h0
      simp
    · by_cases h1 : a + 1 ≤ c ∧ c < a + 1 + bs.length
      · have h2 : a ≤ c ∧ c < a + (bs.length + 1) := by omega
        obtain ⟨k, hk⟩ : ∃ k, c - a = k + 1 := ⟨c - a - 1, by omega⟩
        have hk' : c - (a + 1) = k := by omega
        simp [h1, h2, hk, hk']
      · have h2 : ¬ (a ≤ c ∧ c < a + (bs.length + 1)) := by omega
        rw [if_neg h1, if_neg h0, if_neg h2]

/-- A byte outside those stored reads as before. -/
theorem memGet_memPuts_outside (m : List Host.Cell) (a c : Nat) (bs : List Byte) (hm : Memory.wf m = true)
    (h : c < a ∨ a + bs.length ≤ c) : memGet (memPuts m a bs) c = memGet m c := by
  rw [memGet_memPuts m a c bs hm, if_neg (by omega)]

/-- In canonical form equal bytes are equal data. -/
theorem memSorted_ext {lo lo' : Nat} (m n : List Host.Cell) (hm : memSorted lo m = true) (hn : memSorted lo' n = true)
    (h : ∀ a, memGet m a = memGet n a) : m = n := by
  induction m generalizing lo lo' n with
  | nil =>
    cases n with
    | nil => rfl
    | cons e rest =>
      obtain ⟨a, b⟩ := e
      simp only [memSorted, Bool.and_eq_true, decide_eq_true_eq] at hn
      have := h a
      simp only [memGet, if_true] at this
      exact absurd this.symm (by simpa using hn.1.2)
  | cons e rest ih =>
    obtain ⟨a, b⟩ := e
    simp only [memSorted, Bool.and_eq_true, decide_eq_true_eq] at hm
    cases n with
    | nil =>
      have := h a
      simp only [memGet, if_true] at this
      exact absurd this (by simpa using hm.1.2)
    | cons e' rest' =>
      obtain ⟨a', b'⟩ := e'
      simp only [memSorted, Bool.and_eq_true, decide_eq_true_eq] at hn
      have hb : b ≠ emptyByte := by simpa using hm.1.2
      have hb' : b' ≠ emptyByte := by simpa using hn.1.2
      have haa : a = a' := by
        by_contra hne
        rcases Nat.lt_or_gt_of_ne hne with hlt | hlt
        · have := h a
          simp only [memGet, if_true, if_neg (Ne.symm hne)] at this
          rw [memGet_below rest' hn.2 (by omega)] at this
          exact hb this
        · have := h a'
          simp only [memGet, if_true, if_neg hne] at this
          rw [memGet_below rest hm.2 (by omega)] at this
          exact hb' this.symm
      subst haa
      have hbb : b = b' := by simpa [memGet] using h a
      subst hbb
      congr 1
      refine ih rest' hm.2 hn.2 (fun c => ?_)
      by_cases hc : a = c
      · subst hc
        rw [memGet_below rest hm.2 (by omega), memGet_below rest' hn.2 (by omega)]
      · simpa [memGet, hc] using h c

theorem wf_ext (m n : List Host.Cell) (hm : Memory.wf m = true) (hn : Memory.wf n = true) (h : ∀ a, memGet m a = memGet n a) : m = n :=
  memSorted_ext m n hm hn h

/-- The memory of reset has the canonical form. -/
theorem wf_reset : Memory.wf State.reset.mem = true := rfl

/-! ### Stores of bytes at a physical address -/

/-- A store keeps the canonical form. -/
theorem storeMem_wf (s : State) (pa : Nat) (bs : List Byte) (hm : Memory.wf s.mem = true) : Memory.wf (storeMem s pa bs).mem = true :=
  wf_memPuts s.mem pa bs hm

/-- Every byte after a store. -/
theorem memGet_storeMem (s : State) (pa c : Nat) (bs : List Byte) (hm : Memory.wf s.mem = true) :
    memGet (storeMem s pa bs).mem c = if pa ≤ c ∧ c < pa + bs.length then bs.getD (c - pa) 0 else memGet s.mem c :=
  memGet_memPuts s.mem pa c bs hm

theorem readMem_length (s : State) (pa n : Nat) : (readMem s pa n).length = n := by simp [readMem]

/-- What was stored is what is read. -/
theorem readMem_storeMem (s : State) (pa : Nat) (bs : List Byte) (hm : Memory.wf s.mem = true) :
    readMem (storeMem s pa bs) pa bs.length = bs := by
  apply List.ext_getElem
  · simp [readMem]
  · intro i h1 h2
    simp only [readMem, List.getElem_map, List.getElem_range]
    rw [memGet_storeMem s pa (pa + i) bs hm, if_pos (by omega)]
    simp [List.getD_eq_getElem?_getD, h2]

/-- A store leaves every byte outside it alone. -/
theorem readMem_storeMem_apart (s : State) (pa pb n : Nat) (bs : List Byte) (hm : Memory.wf s.mem = true)
    (h : pa + bs.length ≤ pb ∨ pb + n ≤ pa) : readMem (storeMem s pa bs) pb n = readMem s pb n := by
  apply List.map_congr_left
  intro i hi
  have hi' := List.mem_range.mp hi
  rw [memGet_storeMem s pa (pb + i) bs hm, if_neg (by omega)]

/-- Where a store is poisoned afterwards: as before, but for the bytes stored. -/
theorem memPoison_storeMem (s : State) (pa c : Nat) (bs : List Byte) :
    c ∈ (storeMem s pa bs).memPoison ↔ c ∈ s.memPoison ∧ ¬ (pa ≤ c ∧ c < pa + bs.length) := by
  simp only [storeMem, List.mem_filter, Bool.or_eq_true, decide_eq_true_eq]
  constructor
  · rintro ⟨h, hc⟩; exact ⟨h, by omega⟩
  · rintro ⟨h, hc⟩; exact ⟨h, by omega⟩

/-! ### Every operation on memory keeps the canonical form -/

/-- `t` has a memory in canonical form if `s` has one. -/
def FormKept (s t : State) : Prop := Memory.wf s.mem = true → Memory.wf t.mem = true

theorem FormKept.refl (s : State) : FormKept s s := fun h => h
theorem FormKept.trans {a b c : State} (h : FormKept a b) (k : FormKept b c) : FormKept a c := fun w => k (h w)
theorem FormKept.of_eq {s t : State} (h : t.mem = s.mem) : FormKept s t := fun w => by rw [h]; exact w
theorem FormKept.foldl {α : Type} (f : State → α → State) (h : ∀ s a, FormKept s (f s a)) (as : List α) (s : State) :
    FormKept s (as.foldl f s) := by
  induction as generalizing s with
  | nil => exact FormKept.refl s
  | cons a as ih => exact (h s a).trans (ih _)

theorem formKept_storeMem (s : State) (pa : Nat) (bs : List Byte) : FormKept s (storeMem s pa bs) := storeMem_wf s pa bs

/-- A store that drops the host's copies lands as any store does. -/
theorem formKept_storeSnoop (s : State) (pa : Nat) (bs : List Byte) : FormKept s (storeSnoop s pa bs) := fun h => storeMem_wf _ pa bs h

theorem mem_storeSnoop (s : State) (pa : Nat) (bs : List Byte) : (storeSnoop s pa bs).mem = (storeMem s pa bs).mem := rfl

theorem formKept_snoopRead (s : State) (line : Nat) : FormKept s (snoopRead s line) := by
  unfold snoopRead
  split <;> exact FormKept.of_eq rfl

/-! Updates that leave memory alone. -/

theorem formKept_modTeam (s : State) (k : Nat) (f : Team → Team) : FormKept s (modTeam s k f) := FormKept.of_eq rfl
theorem formKept_modPart (s : State) (p : Nat) (f : Part → Part) : FormKept s (modPart s p f) := FormKept.of_eq rfl
theorem formKept_modCore (s : State) (c : Nat) (f : Core → Core) : FormKept s (modCore s c f) := FormKept.of_eq rfl
theorem formKept_tlbDrop (s : State) (f : TlbEntry → Bool) : FormKept s (tlbDrop s f) := FormKept.of_eq rfl
theorem formKept_tlbFill (s : State) (c : Nat) (e : TlbEntry) : FormKept s (tlbFill s c e) := FormKept.of_eq rfl
theorem formKept_raiseEvent (s : State) (r : List Byte) : FormKept s (raiseEvent s r) := FormKept.of_eq rfl
theorem formKept_charge (s : State) (p lo n : Nat) : FormKept s (charge s p lo n) := FormKept.of_eq rfl
theorem formKept_mergeL1 (s : State) (c base : Nat) (m : BitVec 128) (d : List Byte) : FormKept s (mergeL1 s c base m d) :=
  FormKept.of_eq rfl
theorem formKept_patchL1 (s : State) (c pa : Nat) (bs : List Byte) (dirty : Bool) : FormKept s (patchL1 s c pa bs dirty) :=
  FormKept.of_eq rfl
theorem formKept_dropTags (s : State) (f : RelTag → Bool) : FormKept s (dropTags s f) := FormKept.of_eq rfl
theorem formKept_stashLeave (s : State) (tm : Nat) (w : Window) (sec pa : Nat) (u : Bool) : FormKept s (stashLeave s tm w sec pa u) :=
  FormKept.of_eq rfl
theorem formKept_stashFails (s : State) (tm va c : Nat) : FormKept s (stashFails s tm va c) := FormKept.of_eq rfl
theorem formKept_poolEvent (s : State) (p : Nat) : FormKept s (poolEvent s p) := FormKept.of_eq rfl
theorem formKept_addRead (s : State) (p : Nat) (r : PageRead) : FormKept s (addRead s p r) := FormKept.of_eq rfl
theorem formKept_movePages (s : State) (p va f : Nat) : FormKept s (movePages s p va f) := FormKept.of_eq rfl
theorem formKept_poisonAt (s : State) (as : List Nat) : FormKept s (poisonAt s as) := FormKept.of_eq rfl
theorem formKept_countSent (s : State) (p d : Nat) : FormKept s (countSent s p d) := FormKept.of_eq rfl
theorem formKept_countGot (s : State) (p d : Nat) : FormKept s (countGot s p d) := FormKept.of_eq rfl
theorem formKept_poisonMem (s : State) (pa n : Nat) : FormKept s (poisonMem s pa n) := FormKept.of_eq rfl

theorem formKept_keepHomes (s : State) (home line : Nat) (hit : Nat → Bool) : FormKept s (keepHomes s home line hit) := by
  unfold keepHomes
  split <;> exact FormKept.of_eq rfl

theorem formKept_noteReply (s : State) (p : Posted) : FormKept s (noteReply s p) := by
  unfold noteReply
  split
  · exact formKept_countGot _ _ _
  · exact FormKept.refl _

theorem formKept_countAccess (s : State) (l : LaneId) (g load : Bool) (pa : Nat) : FormKept s (countAccess s l g load pa) := by
  unfold countAccess
  dsimp only
  split
  · split <;> exact FormKept.of_eq rfl
  · split <;> exact FormKept.of_eq rfl

/-! Bytes written at a home. -/

theorem formKept_landL2 (s : State) (p : Nat) (g : Bool) (pa : Nat) (bs : List Byte) : FormKept s (landL2 s p g pa bs) :=
  (formKept_keepHomes s _ _ _).trans (formKept_storeSnoop _ _ _)

theorem formKept_landMask (s : State) (p : Nat) (g : Bool) (base : Nat) (m : BitVec 128) (d : List Byte) :
    FormKept s (landMask s p g base m d) := by
  refine (formKept_keepHomes s _ _ _).trans (FormKept.foldl _ (fun s i => ?_) _ _)
  split
  · exact formKept_storeSnoop _ _ _
  · exact FormKept.refl _

theorem formKept_ownBack (s : State) (l : L2Line) : FormKept s (ownBack s l) :=
  (formKept_keepHomes s _ _ _).trans (FormKept.foldl _ (fun _ _ => formKept_storeSnoop _ _ _) _ _)

/-! Stores of the device itself, after the stash sectors that they recall. -/

theorem formKept_stashLand (s : State) (t : Team) (w : Window) (sec p : Nat) (g : Bool) (pa : Nat) :
    FormKept s (stashLand s t w sec p g pa) := (formKept_landMask _ _ _ _ _ _).trans (formKept_poisonAt _ _)

theorem formKept_setD (s : State) (e : TlbEntry) : FormKept s (setD s e) := formKept_storeSnoop _ _ _

theorem formKept_recallOne (s : State) (h : Nat × Window × Nat) : FormKept s (recallOne s h) := by
  have marked : ∀ e : TlbEntry, FormKept s (if e.dirty then s else setD s e) := by
    intro e
    split
    · exact FormKept.refl _
    · exact formKept_setD _ _
  unfold recallOne
  split
  · exact FormKept.refl _
  · dsimp only
    split
    · exact formKept_stashLeave _ _ _ _ _ _
    · split
      · exact (marked _).trans ((formKept_stashLand _ _ _ _ _ _ _).trans (formKept_stashLeave _ _ _ _ _ _))
      · exact formKept_stashFails _ _ _ _
      · exact FormKept.refl _

theorem formKept_recallDev (s : State) (pa n : Nat) : FormKept s (recallDev s pa n) :=
  FormKept.foldl _ (fun _ _ => FormKept.foldl _ (fun _ _ => formKept_recallOne _ _) _ _) _ s

theorem formKept_storeDev (s : State) (pa : Nat) (bs : List Byte) : FormKept s (storeDev s pa bs) :=
  (formKept_recallDev s pa bs.length).trans (formKept_storeSnoop _ pa bs)

/-! The frame pool and page service. -/

theorem formKept_takeFrame (s t : State) (p f : Nat) (h : takeFrame s p = some (f, t)) : FormKept s t := by
  unfold takeFrame at h
  split at h
  · cases h
  · simp only [Option.some.injEq, Prod.mk.injEq] at h
    obtain ⟨_, rfl⟩ := h
    exact formKept_storeDev _ _ _

theorem formKept_giveFrame (s : State) (p f : Nat) : FormKept s (giveFrame s p f) := by
  unfold giveFrame
  dsimp only
  split
  · exact FormKept.of_eq rfl
  · exact (formKept_storeDev _ _ _).trans (formKept_storeDev _ _ _)

theorem formKept_startRead (s : State) (p va entry e : Nat) : FormKept s (startRead s p va entry e) := by
  have either : ∀ (u : State) (v : Nat), FormKept u (if bit e 15 then storeDev u entry (leBytes 8 v) else u) := by
    intro u v
    split
    · exact formKept_storeDev _ _ _
    · exact FormKept.refl _
  have other : ∀ (u : State) (v : Nat), FormKept u (if bit e 15 then u else storeDev u entry (leBytes 8 v)) := by
    intro u v
    split
    · exact FormKept.refl _
    · exact formKept_storeDev _ _ _
  unfold startRead
  dsimp only
  split
  · exact FormKept.refl _
  · split
    · exact (either s _).trans (formKept_poolEvent _ _)
    · rename_i f u h
      exact (formKept_takeFrame s u p f h).trans ((other u _).trans (formKept_addRead _ _ _))

theorem formKept_startCow (s : State) (p va entry e : Nat) : FormKept s (startCow s p va entry e) := by
  unfold startCow
  split
  · exact FormKept.refl _
  · exact formKept_addRead _ _ _

theorem formKept_noteAccess (s : State) (core p va : Nat) (a : Acc) : FormKept s (noteAccess s core p va a) := by
  unfold noteAccess
  split
  · exact FormKept.refl _
  · split
    · split
      · exact (formKept_storeDev _ _ _).trans (formKept_tlbFill _ _ _)
      · exact formKept_tlbFill _ _ _
    · exact formKept_startRead _ _ _ _ _
    · split
      · exact formKept_poolEvent _ _
      · exact formKept_startCow _ _ _ _ _
    · exact FormKept.refl _
    · exact FormKept.refl _

theorem formKept_retireDesc (s : State) (p d : Nat) : FormKept s (retireDesc s p d) :=
  (formKept_modPart s p _).trans ((formKept_storeDev _ _ _).trans (formKept_tlbDrop _ _))

theorem formKept_installOwn (s : State) (p va entry e f : Nat) (taken : Bool) : FormKept s (installOwn s p va entry e f taken) := by
  unfold installOwn
  split
  · exact (formKept_storeDev _ _ _).trans ((formKept_tlbDrop _ _).trans (formKept_movePages _ _ _ _))
  · split
    · exact formKept_giveFrame _ _ _
    · exact FormKept.refl _

theorem formKept_cowBegin (s : State) (p va entry e : Nat) : FormKept s (cowBegin s p va entry e).1 := by
  unfold cowBegin
  dsimp only
  split
  · exact FormKept.refl _
  · split
    · dsimp only
      exact (formKept_storeDev s _ _).trans ((formKept_retireDesc _ p _).trans (formKept_installOwn _ _ _ _ _ _ _))
    · split
      · exact formKept_poolEvent _ _
      · rename_i f u h
        dsimp only
        exact (formKept_takeFrame s u p f h).trans ((formKept_storeDev _ _ _).trans (formKept_poisonAt _ _))

theorem formKept_cowEnd (s : State) (p va entry e f : Nat) : FormKept s (cowEnd s p va entry e f) := by
  have retired : ∀ (u : State) (c : Nat), FormKept u
      (if c = 1 then retireDesc (giveFrame u p (descFrame u (entryDesc e))) p (entryDesc e) else u) := by
    intro u c
    split
    · exact (formKept_giveFrame _ _ _).trans (formKept_retireDesc _ _ _)
    · exact FormKept.refl _
  unfold cowEnd
  dsimp only
  exact (formKept_storeDev s _ _).trans ((retired _ _).trans (formKept_installOwn _ _ _ _ _ _ _))

/-! Writebacks, each over the access to a line's tag that it makes. -/

/-- An access to tags that keeps the canonical form. -/
def TouchKept (touch : Touch) : Prop := ∀ s p g w pa, FormKept s (touch s p g w pa)

theorem formKept_stashCleanOne {touch : Touch} (k : TouchKept touch) (s : State) (tm side num sec : Nat) (u : Bool) :
    FormKept s (stashCleanOne touch s tm side num sec u) := by
  unfold stashCleanOne
  split
  · exact FormKept.refl _
  · split
    · exact FormKept.refl _
    · split
      · exact formKept_stashLeave _ _ _ _ _ _
      · extract_lets p va core
        split
        · exact (formKept_noteAccess _ _ _ _ _).trans ((k _ _ _ _ _).trans ((formKept_stashLand _ _ _ _ _ _ _).trans
            ((formKept_mergeL1 _ _ _ _ _).trans (formKept_stashLeave _ _ _ _ _ _))))
        · exact formKept_stashFails _ _ _ _
        · exact formKept_stashFails _ _ _ _
        · split
          · exact formKept_stashFails _ _ _ _
          · exact formKept_noteAccess _ _ _ _ _
        · exact FormKept.refl _

theorem formKept_recallWith {touch : Touch} (k : TouchKept touch) (s : State) (pa : Nat) : FormKept s (recallWith touch s pa) :=
  FormKept.foldl _ (fun _ _ => formKept_stashCleanOne k _ _ _ _ _ _) _ s

theorem formKept_cleanWith {touch : Touch} (k : TouchKept touch) (s : State) (c : Nat) (x : L1Sector) :
    FormKept s (cleanWith touch s c x) := by
  unfold cleanWith
  split
  · exact FormKept.refl _
  · exact (formKept_recallWith k _ _).trans ((k _ _ _ _ _).trans ((formKept_landMask _ _ _ _ _ _).trans (formKept_modCore _ _ _)))

theorem formKept_writebackWith {touch : Touch} (k : TouchKept touch) (s : State) (c : Nat) : FormKept s (writebackWith touch s c) :=
  FormKept.foldl _ (fun _ _ => formKept_cleanWith k _ _ _) _ s

theorem formKept_evictWith {wb : State → Nat → State} (k : ∀ s c, FormKept s (wb s c)) (s : State) (l : L2Line) :
    FormKept s (evictWith wb s l) := by
  have tagged : FormKept s (match s.units.tags.find? (fun t => t.line = l.line) with
      | some t => wb (dropTags s (fun u => u.line = l.line)) t.core
      | none => s) := by
    split
    · exact (formKept_dropTags _ _).trans (k _ _)
    · exact FormKept.refl _
  unfold evictWith
  extract_lets u
  have h : FormKept s u := tagged
  refine h.trans ?_
  clear_value u
  split
  · exact FormKept.refl _
  · exact (formKept_charge _ _ _ _).trans ((formKept_ownBack _ _).trans (FormKept.of_eq rfl))

theorem touchKept_touchWith {wb : State → Nat → State} (k : ∀ s c, FormKept s (wb s c)) : TouchKept (touchWith wb) := by
  intro s p g w pa
  unfold touchWith
  split
  · exact FormKept.refl _
  · extract_lets line u sec home present sameSet u0 units u1 missing u2
    have h0 : FormKept s u := formKept_snoopRead _ _
    have h1 : FormKept u u1 := by
      dsimp only [u1]
      split
      · exact FormKept.refl _
      · refine FormKept.trans (b := u0) ?_ (FormKept.of_eq rfl)
        dsimp only [u0]
        split
        · exact FormKept.refl _
        · split
          · exact formKept_evictWith k _ _
          · exact FormKept.refl _
    have h2 : FormKept u1 u2 := by
      dsimp only [u2]
      split
      · exact formKept_charge _ _ _ _
      · exact FormKept.refl _
    exact h0.trans (h1.trans (h2.trans (FormKept.of_eq rfl)))

theorem touchKept_touchFuel (n : Nat) : TouchKept (touchFuel n) := by
  induction n with
  | zero => exact touchKept_touchWith (fun s _ => FormKept.refl s)
  | succ n ih => exact touchKept_touchWith (fun s c => formKept_writebackWith ih s c)

theorem touchKept_touchL2 : TouchKept touchL2 := fun s => touchKept_touchFuel s.units.tags.length s

theorem formKept_touchL2 (s : State) (p : Nat) (g write : Bool) (pa : Nat) : FormKept s (touchL2 s p g write pa) :=
  touchKept_touchL2 s p g write pa

theorem formKept_cleanSector (s : State) (c : Nat) (x : L1Sector) : FormKept s (cleanSector s c x) :=
  formKept_cleanWith touchKept_touchL2 s c x

theorem formKept_writebackL1 (s : State) (c : Nat) : FormKept s (writebackL1 s c) := formKept_writebackWith touchKept_touchL2 s c

theorem formKept_evictLine (s : State) (l : L2Line) : FormKept s (evictLine s l) := formKept_evictWith formKept_writebackL1 s l

theorem formKept_recallStash (s : State) (pa : Nat) : FormKept s (recallStash s pa) := formKept_recallWith touchKept_touchL2 s pa

theorem formKept_clearTag (s : State) (t : RelTag) : FormKept s (clearTag s t) :=
  (formKept_dropTags s _).trans (formKept_writebackL1 _ t.core)

theorem formKept_promote (s : State) (team : Option Nat) (line : Nat) : FormKept s (promote s team line) := by
  unfold promote
  split
  · split
    · exact FormKept.refl _
    · exact formKept_clearTag _ _
  · exact FormKept.refl _

theorem formKept_shareStore (s : State) (pa : Nat) (bs : List Byte) : FormKept s (shareStore s pa bs) := by
  refine FormKept.foldl _ (fun s h => ?_) _ s
  dsimp only
  split
  · split
    · exact formKept_modTeam _ _ _
    · exact FormKept.refl _
  · exact FormKept.refl _

theorem formKept_writeL2 (s : State) (p : Nat) (g : Bool) (pa : Nat) (bs : List Byte) : FormKept s (writeL2 s p g pa bs) :=
  (formKept_recallStash s pa).trans ((formKept_touchL2 _ p g true pa).trans ((formKept_landL2 _ p g pa bs).trans
    (formKept_shareStore _ pa bs)))

theorem formKept_fillL1 (s : State) (c p : Nat) (g : Bool) (pa : Nat) : FormKept s (fillL1 s c p g pa) := by
  have room : ∀ (b : Prop) [Decidable b] (xs : List L1Sector) (f : Core → Core), FormKept s
      (if b then s else modCore (xs.foldl (fun s x => cleanSector s c x) s) c f) := by
    intro b _ xs f
    split
    · exact FormKept.refl _
    · exact (FormKept.foldl _ (fun _ _ => formKept_cleanSector _ _ _) _ s).trans (formKept_modCore _ _ _)
  unfold fillL1
  dsimp only
  split
  · exact (formKept_touchL2 s p g false pa).trans (formKept_mergeL1 _ _ _ _ _)
  · exact (room _ _ _).trans ((formKept_touchL2 _ p g false pa).trans (formKept_modCore _ _ _))

theorem formKept_invalidateL1 (s : State) (c : Nat) : FormKept s (invalidateL1 s c) :=
  (formKept_writebackL1 s c).trans (formKept_modCore _ _ _)

/-! The scratchpad and its stash windows. -/

theorem formKept_stashFillAt (s : State) (tm side off : Nat) : FormKept s (stashFillAt s tm side off) := by
  have own : ∀ (u : State) (c : Nat) (o : Option L1Sector),
      FormKept u (match o with | some y => cleanSector u c y | none => u) := by
    intro u c o
    cases o with
    | none => exact FormKept.refl _
    | some y => exact formKept_cleanSector _ _ _
  unfold stashFillAt
  split
  · exact FormKept.refl _
  · split
    · exact FormKept.refl _
    · split
      · exact FormKept.refl _
      · dsimp only
        split
        · split
          · exact FormKept.refl _
          · exact (formKept_noteAccess s _ _ _ _).trans ((own _ _ _).trans ((formKept_touchL2 _ _ _ _ _).trans
              ((formKept_mergeL1 _ _ _ _ _).trans (formKept_modTeam _ _ _))))
        · exact formKept_noteAccess _ _ _ _ _

theorem formKept_scratchReady (s : State) (tm side off n : Nat) : FormKept s (scratchReady s tm side off n) :=
  FormKept.foldl _ (fun _ _ => formKept_stashFillAt _ _ _ _) _ s

theorem formKept_scratchStore (s : State) (tm side off : Nat) (bs : List Byte) : FormKept s (scratchStore s tm side off bs) :=
  (formKept_scratchReady s tm side off bs.length).trans (formKept_modTeam _ _ _)

theorem formKept_stashClean (s : State) (tm side num sec : Nat) (unfill : Bool) : FormKept s (stashClean s tm side num sec unfill) := by
  have others : ∀ (b : Prop) [Decidable b] (hs : List (Nat × Window × Nat)), FormKept s (if b then hs.foldl (fun s h =>
      if h.1 = tm && h.2.1.side = side && h.2.1.num = num then s
      else stashCleanOne touchL2 s h.1 h.2.1.side h.2.1.num h.2.2 true) s else s) := by
    intro b _ hs
    split
    · refine FormKept.foldl _ (fun s h => ?_) _ s
      split
      · exact FormKept.refl _
      · exact formKept_stashCleanOne touchKept_touchL2 _ _ _ _ _ _
    · exact FormKept.refl _
  unfold stashClean
  split
  · exact FormKept.refl _
  · exact (others _ _).trans (formKept_stashCleanOne touchKept_touchL2 _ _ _ _ _ _)

theorem formKept_stashCleanAll (s : State) (tm side : Nat) (unfill : Bool) : FormKept s (stashCleanAll s tm side unfill) := by
  unfold stashCleanAll
  split
  · exact FormKept.refl _
  · refine FormKept.foldl _ (fun s w => ?_) _ s
    split
    · exact FormKept.foldl _ (fun _ _ => formKept_stashClean _ _ _ _ _ _) _ s
    · exact FormKept.refl _

theorem formKept_releaseWide (s : State) (tm core side : Nat) : FormKept s (releaseWide s tm core side) :=
  (formKept_stashCleanAll s tm side false).trans ((formKept_writebackL1 _ core).trans (formKept_dropTags _ _))

/-! The device's own accesses. -/

theorem formKept_devNote (s : State) (p va : Nat) (a : Acc) : FormKept s (devNote s p va a) := by
  unfold devNote
  split
  · exact (formKept_noteAccess _ _ _ _ _).trans (formKept_touchL2 _ _ _ _ _)
  · exact formKept_noteAccess _ _ _ _ _

theorem formKept_devPromote (s : State) (p va : Nat) : FormKept s (devPromote s p va) := by
  unfold devPromote
  split
  · exact formKept_promote _ _ _
  · exact FormKept.refl _

theorem formKept_devWrite (s t : State) (p va : Nat) (bs : List Byte) (h : devWrite s p va bs = some t) : FormKept s t := by
  unfold devWrite at h
  split at h
  · simp only [Option.some.injEq] at h
    subst h
    exact (formKept_noteAccess _ _ _ _ _).trans (formKept_writeL2 _ _ _ _ _)
  · cases h

theorem formKept_devPut (s : State) (p va n v : Nat) : FormKept s (devPut s p va n v) := by
  unfold devPut
  cases h : devWrite s p va (leBytes n v) with
  | none => exact FormKept.refl _
  | some t => exact formKept_devWrite s t p va _ h

/-! Accesses of lanes (Access.lean). -/

theorem formKept_ownStash (s : State) (l : LaneId) (pa : Nat) : FormKept s (ownStash s l pa) := by
  unfold ownStash
  split
  · exact FormKept.refl _
  · refine FormKept.foldl _ (fun s h => ?_) _ s
    split
    · split
      · exact formKept_stashCleanOne touchKept_touchL2 _ _ _ _ _ _
      · exact FormKept.refl _
    · exact FormKept.refl _

theorem formKept_laneFetch (s : State) (l : LaneId) (g narrow : Bool) (pa : Nat) : FormKept s (laneFetch s l g narrow pa) := by
  unfold laneFetch
  split
  · exact formKept_touchL2 _ _ _ _ _
  · split
    · exact FormKept.refl _
    · exact formKept_fillL1 _ _ _ _ _

theorem formKept_releaseLane (s : State) (l : LaneId) (sc : Scope) : FormKept s (releaseLane s l sc) := by
  unfold releaseLane
  split
  · exact FormKept.refl _
  · split
    · exact formKept_releaseWide _ _ _ _
    · split
      · split
        · exact formKept_writebackL1 _ _
        · exact FormKept.refl _
      · exact FormKept.refl _

theorem formKept_acquireLane (s : State) (l : LaneId) (sc : Scope) : FormKept s (acquireLane s l sc) := by
  unfold acquireLane
  split
  · exact FormKept.refl _
  · split
    · exact formKept_invalidateL1 _ _
    · split
      · split
        · exact formKept_invalidateL1 _ _
        · exact FormKept.refl _
      · exact FormKept.refl _

theorem formKept_promoteFor (s : State) (l : LaneId) (sc : Scope) (pa : Nat) : FormKept s (promoteFor s l sc pa) := by
  unfold promoteFor
  split
  · exact formKept_promote _ _ _
  · exact FormKept.refl _

theorem formKept_noteTagRead (s : State) (l : LaneId) (pa : Nat) : FormKept s (noteTagRead s l pa) := by
  unfold noteTagRead
  split <;> exact FormKept.of_eq rfl

theorem formKept_setTag (s : State) (l : LaneId) (pa : Nat) : FormKept s (setTag s l pa) := by
  unfold setTag
  dsimp only
  split
  · split
    · exact FormKept.refl _
    · exact (formKept_clearTag _ _).trans (FormKept.of_eq rfl)
  · exact FormKept.of_eq rfl

theorem formKept_loadAt (s : State) (l : LaneId) (sc : Scope) (acq g : Bool) (pa n : Nat) : FormKept s (loadAt s l sc acq g pa n).1 := by
  have got : ∀ u : State, FormKept u (if acq then promoteFor u l sc pa else u) := by
    intro u
    split
    · exact formKept_promoteFor _ _ _ _
    · exact FormKept.refl _
  exact (formKept_ownStash s l pa).trans ((formKept_noteTagRead _ _ _).trans ((got _).trans (formKept_laneFetch _ _ _ _ _)))

theorem formKept_storeAt (s : State) (l : LaneId) (sc : Scope) (rel tag g : Bool) (pa : Nat) (bs : List Byte) :
    FormKept s (storeAt s l sc rel tag g pa bs) := by
  have held : ∀ (u : State) (c : Nat) (bs : List Byte), FormKept u (match l with | .mgmt _ => u | _ => patchL1 u c pa bs false) := by
    intro u c bs
    cases l with
    | mgmt n => exact FormKept.refl _
    | _ => exact formKept_patchL1 _ _ _ _ _
  unfold storeAt
  extract_lets u bs c u1 u2
  have first : FormKept s u := by
    dsimp only [u]
    split
    · exact formKept_releaseLane _ _ _
    · exact FormKept.refl _
  refine first.trans ?_
  split
  · exact (formKept_recallStash _ _).trans ((formKept_laneFetch _ _ _ _ _).trans (formKept_patchL1 _ _ _ _ _))
  · have h1 : FormKept u u1 := formKept_writeL2 _ _ _ _ _
    have h2 : FormKept u1 u2 := held u1 c bs
    refine h1.trans (h2.trans ?_)
    clear_value u2
    split
    · exact formKept_setTag _ _ _
    · exact FormKept.refl _

theorem formKept_yieldLine (s : State) (pa : Nat) : FormKept s (yieldLine s pa) :=
  FormKept.foldl _ (fun _ _ => formKept_evictLine _ _) _ s

theorem formKept_atomAt (s : State) (l : LaneId) (op : AtomOp) (sc : Scope) (ar tag g : Bool) (pa : Nat) (v c1 : Word) :
    FormKept s (atomAt s l op sc ar tag g pa v c1).1 := by
  have patched : ∀ (u : State) (c : Nat) (w : Word),
      FormKept u (match l with | .mgmt _ => u | _ => patchL1 u c pa (leBytes 4 w.toNat) false) := by
    intro u c w
    cases l with
    | mgmt n => exact FormKept.refl _
    | _ => exact formKept_patchL1 _ _ _ _ _
  unfold atomAt
  extract_lets u c u1 u2 u3 old bad patch u4
  have h0 : FormKept s u := by
    refine FormKept.trans ?_ (formKept_noteTagRead _ l pa)
    split
    · exact (formKept_releaseLane _ _ _).trans (formKept_promoteFor _ _ _ _)
    · exact FormKept.refl _
  have h1 : FormKept u u1 := by
    dsimp only [u1]
    split
    · exact FormKept.refl _
    · exact formKept_cleanSector _ _ _
    · exact FormKept.refl _
  have h2 : FormKept u1 u2 := formKept_recallStash _ _
  have h3 : FormKept u2 u3 := by
    dsimp only [u3]
    split
    · exact formKept_yieldLine _ _
    · exact FormKept.refl _
  have h4 : FormKept u3 u4 := by
    clear_value u3
    dsimp only [u4]
    split
    · rename_i w _
      have lands : FormKept u3 (if hostAtomic u3 sc pa then storeMem u3 pa (leBytes 4 w.toNat)
          else writeL2 u3 (lanePart u3 l) g pa (leBytes 4 w.toNat)) := by
        split
        · exact formKept_storeMem _ _ _
        · exact formKept_writeL2 _ _ _ _ _
      generalize hostAtomic u3 sc pa = o at lands
      have h := lands.trans (patched _ c w)
      refine FormKept.trans (b := patch (if o then storeMem u3 pa (leBytes 4 w.toNat) else writeL2 u3 (lanePart u3 l) g pa (leBytes 4 w.toNat)) w) h ?_
      clear_value patch
      generalize patch _ w = x
      split
      · exact formKept_setTag _ _ _
      · exact FormKept.refl _
    · refine FormKept.trans ?_ (patched _ c old)
      split
      · exact FormKept.refl _
      · exact formKept_touchL2 _ _ _ _ _
  exact h0.trans (h1.trans (h2.trans (h3.trans h4)))

theorem formKept_loadScratchAt (s : State) (tm side off n : Nat) (ga : Option Nat) : FormKept s (loadScratchAt s tm side off n ga).1 := by
  unfold loadScratchAt
  extract_lets u
  have h : FormKept s u := formKept_scratchReady _ _ _ _ _
  clear_value u
  split
  · split
    · split <;> exact h
    · exact h
  · exact h

theorem formKept_atomScratchAt (s : State) (op : AtomOp) (tm side off : Nat) (ga : Option Nat) (v c1 : Word) :
    FormKept s (atomScratchAt s op tm side off ga v c1).1 := by
  unfold atomScratchAt
  extract_lets r old
  have h : FormKept s r.1 := formKept_loadScratchAt _ _ _ _ _ _
  clear_value r old
  split
  · exact h.trans (formKept_scratchStore _ _ _ _ _)
  · exact h

theorem formKept_lateValue (s : State) (e : Late) (bs : List Byte) (bad : Bool) : FormKept s (lateValue s e bs bad) := FormKept.of_eq rfl

theorem formKept_noteLinkAt (s : State) (l : LaneId) (pa id : Nat) : FormKept s (noteLinkAt s l pa id) := by
  unfold noteLinkAt
  split <;> exact FormKept.of_eq rfl

theorem formKept_performOne (s : State) (e : Late) : FormKept s (performOne s e) := by
  unfold performOne
  extract_lets u done before
  have h : FormKept s u := FormKept.of_eq rfl
  have hd : ∀ v, FormKept v (done v) := by
    intro v
    dsimp only [done]
    split
    · exact formKept_acquireLane _ _ _
    · exact FormKept.refl _
  have hb : ∀ v, FormKept v (before v) := by
    intro v
    dsimp only [before]
    split
    · exact formKept_releaseLane _ _ _
    · exact FormKept.refl _
  refine h.trans ?_
  clear_value u done before
  split
  · exact (formKept_countAccess u _ _ _ _).trans ((formKept_loadAt _ _ _ _ _ _ _).trans ((formKept_lateValue _ _ _ _).trans
      ((formKept_noteLinkAt _ _ _ _).trans (hd _))))
  · exact (formKept_loadScratchAt u _ _ _ _ _).trans ((formKept_lateValue _ _ _ _).trans (hd _))
  · split
    · exact hb _
    · exact (formKept_countAccess u _ _ _ _).trans (formKept_storeAt _ _ _ _ _ _ _ _)
  · exact (hb _).trans (formKept_scratchStore _ _ _ _ _)
  · split
    · exact (hb u).trans (FormKept.of_eq rfl)
    · exact (formKept_countAccess u _ _ _ _).trans ((formKept_atomAt _ _ _ _ _ _ _ _ _ _).trans ((formKept_lateValue _ _ _ _).trans
        ((formKept_noteLinkAt _ _ _ _).trans (hd _))))
  · exact (hb u).trans ((formKept_atomScratchAt _ _ _ _ _ _ _ _).trans ((formKept_lateValue _ _ _ _).trans (hd _)))

/-- Accesses performed in any order keep the canonical form. -/
theorem formKept_performThose (s : State) (seed : Late → Bool) : FormKept s (performThose s seed) :=
  FormKept.foldl _ (fun s e => formKept_performOne s e) _ s

/-! Ranges (Spans.lean). -/

theorem formKept_spanNote (s : State) (core p va n : Nat) (a : Acc) : FormKept s (spanNote s core p va n a) := by
  unfold spanNote
  refine FormKept.foldl _ (fun s c => ?_) _ s
  split
  · exact (formKept_noteAccess _ _ _ _ _).trans (formKept_touchL2 _ _ _ _ _)
  · exact FormKept.refl _

theorem formKept_spanWrite (s : State) (core p va : Nat) (bs : List Byte) (bad : Bool) : FormKept s (spanWrite s core p va bs bad) := by
  unfold spanWrite
  refine FormKept.foldl _ (fun u c => ?_) _ s
  split
  · extract_lets data v
    refine FormKept.trans (b := v) ((formKept_noteAccess u _ _ _ _).trans ((formKept_writeL2 _ _ _ _ _).trans (formKept_patchL1 _ _ _ _ _))) ?_
    split
    · exact formKept_poisonMem _ _ _
    · exact FormKept.refl _
  · exact FormKept.refl _

theorem formKept_ringPut (s : State) (tm side off k v : Nat) : FormKept s (ringPut s tm side off k v) := formKept_scratchStore _ _ _ _ _

theorem formKept_ringChange (s : State) (tm side off k : Nat) (h : Nat → Nat) : FormKept s (ringChange s tm side off k h) := by
  unfold ringChange
  extract_lets u
  refine FormKept.trans (b := u) (formKept_scratchReady s tm side off 64) ?_
  split
  · exact formKept_ringPut _ _ _ _ _ _
  · exact FormKept.refl _

end Sys2Proof.Machine
end

