-- ==== Sys2Proof/Laws/PerInstr.lean ====
section
/-! SUPPORT. Laws of single instructions: an instruction has a word exactly if it is one that programs encode, so that no encoding is
missing from the encoder and no device step has one. -/

/-- The encoder gives a word exactly for the instructions that have an encoding. -/
def Sys2Proof.Laws.HasWord.Statement (i : Sys2Proof.Instr) : Prop := i.encodable = (Sys2Proof.encode i).isSome

namespace Sys2Proof

theorem Laws.HasWord.iadd (ea eb : Bool) (d a b : Reg) : Laws.HasWord.Statement (.iadd ea eb d a b) := rfl
theorem Laws.HasWord.isub (ea eb : Bool) (d a b : Reg) : Laws.HasWord.Statement (.isub ea eb d a b) := rfl
theorem Laws.HasWord.imul (ea eb : Bool) (d a b : Reg) : Laws.HasWord.Statement (.imul ea eb d a b) := rfl
theorem Laws.HasWord.imulh (ea eb : Bool) (d a b : Reg) : Laws.HasWord.Statement (.imulh ea eb d a b) := rfl
theorem Laws.HasWord.imulhu (ea eb : Bool) (d a b : Reg) : Laws.HasWord.Statement (.imulhu ea eb d a b) := rfl
theorem Laws.HasWord.imin (ea eb : Bool) (d a b : Reg) : Laws.HasWord.Statement (.imin ea eb d a b) := rfl
theorem Laws.HasWord.imax (ea eb : Bool) (d a b : Reg) : Laws.HasWord.Statement (.imax ea eb d a b) := rfl
theorem Laws.HasWord.iminu (ea eb : Bool) (d a b : Reg) : Laws.HasWord.Statement (.iminu ea eb d a b) := rfl
theorem Laws.HasWord.imaxu (ea eb : Bool) (d a b : Reg) : Laws.HasWord.Statement (.imaxu ea eb d a b) := rfl
theorem Laws.HasWord.and (ea eb : Bool) (d a b : Reg) : Laws.HasWord.Statement (.and ea eb d a b) := rfl
theorem Laws.HasWord.or (ea eb : Bool) (d a b : Reg) : Laws.HasWord.Statement (.or ea eb d a b) := rfl
theorem Laws.HasWord.xor (ea eb : Bool) (d a b : Reg) : Laws.HasWord.Statement (.xor ea eb d a b) := rfl
theorem Laws.HasWord.andn (ea eb : Bool) (d a b : Reg) : Laws.HasWord.Statement (.andn ea eb d a b) := rfl
theorem Laws.HasWord.shl (ea eb : Bool) (d a b : Reg) : Laws.HasWord.Statement (.shl ea eb d a b) := rfl
theorem Laws.HasWord.shr (ea eb : Bool) (d a b : Reg) : Laws.HasWord.Statement (.shr ea eb d a b) := rfl
theorem Laws.HasWord.sar (ea eb : Bool) (d a b : Reg) : Laws.HasWord.Statement (.sar ea eb d a b) := rfl
theorem Laws.HasWord.iadds (ea eb : Bool) (d a b : Reg) : Laws.HasWord.Statement (.iadds ea eb d a b) := rfl
theorem Laws.HasWord.isubs (ea eb : Bool) (d a b : Reg) : Laws.HasWord.Statement (.isubs ea eb d a b) := rfl
theorem Laws.HasWord.iaddi (ea : Bool) (d a : Reg) (imm : BitVec 9) : Laws.HasWord.Statement (.iaddi ea d a imm) := rfl
theorem Laws.HasWord.imuli (ea : Bool) (d a : Reg) (imm : BitVec 9) : Laws.HasWord.Statement (.imuli ea d a imm) := rfl
theorem Laws.HasWord.andi (ea : Bool) (d a : Reg) (imm : BitVec 9) : Laws.HasWord.Statement (.andi ea d a imm) := rfl
theorem Laws.HasWord.ori (ea : Bool) (d a : Reg) (imm : BitVec 9) : Laws.HasWord.Statement (.ori ea d a imm) := rfl
theorem Laws.HasWord.xori (ea : Bool) (d a : Reg) (imm : BitVec 9) : Laws.HasWord.Statement (.xori ea d a imm) := rfl
theorem Laws.HasWord.shli (ea : Bool) (d a : Reg) (n : BitVec 5) : Laws.HasWord.Statement (.shli ea d a n) := rfl
theorem Laws.HasWord.shri (ea : Bool) (d a : Reg) (n : BitVec 5) : Laws.HasWord.Statement (.shri ea d a n) := rfl
theorem Laws.HasWord.sari (ea : Bool) (d a : Reg) (n : BitVec 5) : Laws.HasWord.Statement (.sari ea d a n) := rfl
theorem Laws.HasWord.mov (ea : Bool) (d a : Reg) : Laws.HasWord.Statement (.mov ea d a) := rfl
theorem Laws.HasWord.not (ea : Bool) (d a : Reg) : Laws.HasWord.Statement (.not ea d a) := rfl
theorem Laws.HasWord.ineg (ea : Bool) (d a : Reg) : Laws.HasWord.Statement (.ineg ea d a) := rfl
theorem Laws.HasWord.iabs (ea : Bool) (d a : Reg) : Laws.HasWord.Statement (.iabs ea d a) := rfl
theorem Laws.HasWord.popc (ea : Bool) (d a : Reg) : Laws.HasWord.Statement (.popc ea d a) := rfl
theorem Laws.HasWord.clz (ea : Bool) (d a : Reg) : Laws.HasWord.Statement (.clz ea d a) := rfl
theorem Laws.HasWord.brev (ea : Bool) (d a : Reg) : Laws.HasWord.Statement (.brev ea d a) := rfl
theorem Laws.HasWord.imad (d a b : Reg) (c : Reg5) : Laws.HasWord.Statement (.imad d a b c) := rfl
theorem Laws.HasWord.imadwUint (d a b : Reg) (c : Reg5) : Laws.HasWord.Statement (.imadwUint d a b c) := rfl
theorem Laws.HasWord.imadwInt (d a b : Reg) (c : Reg5) : Laws.HasWord.Statement (.imadwInt d a b c) := rfl
theorem Laws.HasWord.iaddw (ea eb : Bool) (d a b : Reg) : Laws.HasWord.Statement (.iaddw ea eb d a b) := rfl
theorem Laws.HasWord.isubw (ea eb : Bool) (d a b : Reg) : Laws.HasWord.Statement (.isubw ea eb d a b) := rfl
theorem Laws.HasWord.shlw (ea eb : Bool) (d a b : Reg) : Laws.HasWord.Statement (.shlw ea eb d a b) := rfl
theorem Laws.HasWord.icmp (cond : ICond) (ea eb : Bool) (d a b : Reg) : Laws.HasWord.Statement (.icmp cond ea eb d a b) := rfl
theorem Laws.HasWord.sel (d a b : Reg) (c : Reg5) : Laws.HasWord.Statement (.sel d a b c) := rfl
theorem Laws.HasWord.bfe (d a : Reg) (c : Reg5) : Laws.HasWord.Statement (.bfe d a c) := rfl
theorem Laws.HasWord.bfeu (d a : Reg) (c : Reg5) : Laws.HasWord.Statement (.bfeu d a c) := rfl
theorem Laws.HasWord.bfi (d a b : Reg) (c : Reg5) : Laws.HasWord.Statement (.bfi d a b c) := rfl
theorem Laws.HasWord.bperm (d a b : Reg) (c : Reg5) : Laws.HasWord.Statement (.bperm d a b c) := rfl
theorem Laws.HasWord.movi (d : Reg) (imm : BitVec 16) : Laws.HasWord.Statement (.movi d imm) := rfl
theorem Laws.HasWord.movhi (d : Reg) (imm : BitVec 16) : Laws.HasWord.Statement (.movhi d imm) := rfl
theorem Laws.HasWord.fadd (sat negB negA : Bool) (rnd : Rnd) (ea eb : Bool) (d a b : Reg) : Laws.HasWord.Statement (.fadd sat negB negA rnd ea eb d a b) := rfl
theorem Laws.HasWord.fmul (sat negB negA : Bool) (rnd : Rnd) (ea eb : Bool) (d a b : Reg) : Laws.HasWord.Statement (.fmul sat negB negA rnd ea eb d a b) := rfl
theorem Laws.HasWord.fmin (nan : Bool) (ea eb : Bool) (d a b : Reg) : Laws.HasWord.Statement (.fmin nan ea eb d a b) := rfl
theorem Laws.HasWord.fmax (nan : Bool) (ea eb : Bool) (d a b : Reg) : Laws.HasWord.Statement (.fmax nan ea eb d a b) := rfl
theorem Laws.HasWord.ffma (rnd : Rnd) (d a b : Reg) (c : Reg5) : Laws.HasWord.Statement (.ffma rnd d a b c) := rfl
theorem Laws.HasWord.fcmp (cond : FCond) (ea eb : Bool) (d a b : Reg) : Laws.HasWord.Statement (.fcmp cond ea eb d a b) := rfl
theorem Laws.HasWord.frcp (ea : Bool) (d a : Reg) : Laws.HasWord.Statement (.frcp ea d a) := rfl
theorem Laws.HasWord.frsq (ea : Bool) (d a : Reg) : Laws.HasWord.Statement (.frsq ea d a) := rfl
theorem Laws.HasWord.fsqrt (ea : Bool) (d a : Reg) : Laws.HasWord.Statement (.fsqrt ea d a) := rfl
theorem Laws.HasWord.fexp2 (ea : Bool) (d a : Reg) : Laws.HasWord.Statement (.fexp2 ea d a) := rfl
theorem Laws.HasWord.flog2 (ea : Bool) (d a : Reg) : Laws.HasWord.Statement (.flog2 ea d a) := rfl
theorem Laws.HasWord.fsin (ea : Bool) (d a : Reg) : Laws.HasWord.Statement (.fsin ea d a) := rfl
theorem Laws.HasWord.fcos (ea : Bool) (d a : Reg) : Laws.HasWord.Statement (.fcos ea d a) := rfl
theorem Laws.HasWord.fclass (ea : Bool) (d a : Reg) : Laws.HasWord.Statement (.fclass ea d a) := rfl
theorem Laws.HasWord.fabs (ea : Bool) (d a : Reg) : Laws.HasWord.Statement (.fabs ea d a) := rfl
theorem Laws.HasWord.fneg (ea : Bool) (d a : Reg) : Laws.HasWord.Statement (.fneg ea d a) := rfl
theorem Laws.HasWord.frnd (rnd : Rnd) (ea : Bool) (d a : Reg) : Laws.HasWord.Statement (.frnd rnd ea d a) := rfl
theorem Laws.HasWord.fcvt (code : Cvt) (el : BitVec 3) (rnd : Rnd) (ea : Bool) (d a : Reg) : Laws.HasWord.Statement (.fcvt code el rnd ea d a) := rfl
theorem Laws.HasWord.hpadd (sat : Bool) (rnd : Rnd) (ea eb : Bool) (d a b : Reg) : Laws.HasWord.Statement (.hpadd sat rnd ea eb d a b) := rfl
theorem Laws.HasWord.hpmul (sat : Bool) (rnd : Rnd) (ea eb : Bool) (d a b : Reg) : Laws.HasWord.Statement (.hpmul sat rnd ea eb d a b) := rfl
theorem Laws.HasWord.hpmin (ea eb : Bool) (d a b : Reg) : Laws.HasWord.Statement (.hpmin ea eb d a b) := rfl
theorem Laws.HasWord.hpmax (ea eb : Bool) (d a b : Reg) : Laws.HasWord.Statement (.hpmax ea eb d a b) := rfl
theorem Laws.HasWord.hpfma (rnd : Rnd) (d a b : Reg) (c : Reg5) : Laws.HasWord.Statement (.hpfma rnd d a b c) := rfl
theorem Laws.HasWord.bpfma (rnd : Rnd) (d a b : Reg) (c : Reg5) : Laws.HasWord.Statement (.bpfma rnd d a b c) := rfl
theorem Laws.HasWord.fdot (kind : DotKind) (d a b : Reg) (c : Reg5) : Laws.HasWord.Statement (.fdot kind d a b c) := rfl
theorem Laws.HasWord.sobol (f32 : Bool) (d a b : Reg) (c : Reg5) : Laws.HasWord.Statement (.sobol f32 d a b c) := rfl
theorem Laws.HasWord.xmov (mode : XMode) (k : BitVec 5) (d a : Reg) : Laws.HasWord.Statement (.xmov mode k d a) := rfl
theorem Laws.HasWord.xfadd (mode : XMode) (k : BitVec 5) (d a b : Reg) : Laws.HasWord.Statement (.xfadd mode k d a b) := rfl
theorem Laws.HasWord.xiadd (mode : XMode) (k : BitVec 5) (d a b : Reg) : Laws.HasWord.Statement (.xiadd mode k d a b) := rfl
theorem Laws.HasWord.vote (kind : VoteKind) (ea : Bool) (d a : Reg) : Laws.HasWord.Statement (.vote kind ea d a) := rfl
theorem Laws.HasWord.xred (op : RedOp) (scan : Bool) (ea : Bool) (d a : Reg) : Laws.HasWord.Statement (.xred op scan ea d a) := rfl
theorem Laws.HasWord.emitv (ea eb : Bool) (a b : Reg) : Laws.HasWord.Statement (.emitv ea eb a b) := rfl
theorem Laws.HasWord.emitp (ea eb : Bool) (a b : Reg) : Laws.HasWord.Statement (.emitp ea eb a b) := rfl
theorem Laws.HasWord.attr (kind : AttrKind) (n : BitVec 4) (d : Reg) : Laws.HasWord.Statement (.attr kind n d) := rfl
theorem Laws.HasWord.disc (ea : Bool) (a : Reg) : Laws.HasWord.Statement (.disc ea a) := rfl
theorem Laws.HasWord.zout (ea : Bool) (a : Reg) : Laws.HasWord.Statement (.zout ea a) := rfl
theorem Laws.HasWord.pxout (blend : Bool) (ea : Bool) (a : Reg) : Laws.HasWord.Statement (.pxout blend ea a) := rfl
theorem Laws.HasWord.tex (ea eb : Bool) (d a b : Reg) : Laws.HasWord.Statement (.tex ea eb d a b) := rfl
theorem Laws.HasWord.texg (ea eb : Bool) (d a b : Reg) : Laws.HasWord.Statement (.texg ea eb d a b) := rfl
theorem Laws.HasWord.tileld (depth : Bool) (ea : Bool) (d a : Reg) : Laws.HasWord.Statement (.tileld depth ea d a) := rfl
theorem Laws.HasWord.tilest (depth : Bool) (ea : Bool) (d a : Reg) : Laws.HasWord.Statement (.tilest depth ea d a) := rfl
theorem Laws.HasWord.raygo (ea : Bool) (a : Reg) : Laws.HasWord.Statement (.raygo ea a) := rfl
theorem Laws.HasWord.bra (ea : Bool) (a : Reg) (off : BitVec 18) : Laws.HasWord.Statement (.bra ea a off) := rfl
theorem Laws.HasWord.brz (ea : Bool) (a : Reg) (off : BitVec 18) : Laws.HasWord.Statement (.brz ea a off) := rfl
theorem Laws.HasWord.jmp (off : BitVec 25) : Laws.HasWord.Statement (.jmp off) := rfl
theorem Laws.HasWord.call (off : BitVec 25) : Laws.HasWord.Statement (.call off) := rfl
theorem Laws.HasWord.ret (ea : Bool) (a : Reg) : Laws.HasWord.Statement (.ret ea a) := rfl
theorem Laws.HasWord.brx (ea eb : Bool) (a b : Reg) : Laws.HasWord.Statement (.brx ea eb a b) := rfl
theorem Laws.HasWord.regang (span : Bool) : Laws.HasWord.Statement (.regang span) := rfl
theorem Laws.HasWord.exit : Laws.HasWord.Statement (.exit) := rfl
theorem Laws.HasWord.bar (id : BitVec 2) : Laws.HasWord.Statement (.bar id) := rfl
theorem Laws.HasWord.barTeam : Laws.HasWord.Statement (.barTeam) := rfl
theorem Laws.HasWord.yield : Laws.HasWord.Statement (.yield) := rfl
theorem Laws.HasWord.fence (scope : Scope) (sc : Bool) : Laws.HasWord.Statement (.fence scope sc) := rfl
theorem Laws.HasWord.qfence (mask : BitVec 8) : Laws.HasWord.Statement (.qfence mask) := rfl
theorem Laws.HasWord.sleep (n : BitVec 16) : Laws.HasWord.Statement (.sleep n) := rfl
theorem Laws.HasWord.leaseReq (d : Reg) (n : BitVec 16) : Laws.HasWord.Statement (.leaseReq d n) := rfl
theorem Laws.HasWord.leaseFree : Laws.HasWord.Statement (.leaseFree) := rfl
theorem Laws.HasWord.leaseQuery (d : Reg) : Laws.HasWord.Statement (.leaseQuery d) := rfl
theorem Laws.HasWord.sysrd (d : Reg) (n : BitVec 9) : Laws.HasWord.Statement (.sysrd d n) := rfl
theorem Laws.HasWord.syswr (n : BitVec 9) (ea : Bool) (a : Reg) : Laws.HasWord.Statement (.syswr n ea a) := rfl
theorem Laws.HasWord.cyc (d : Reg) (hi : Bool) : Laws.HasWord.Statement (.cyc d hi) := rfl
theorem Laws.HasWord.trap (n : BitVec 9) : Laws.HasWord.Statement (.trap n) := rfl
theorem Laws.HasWord.rett : Laws.HasWord.Statement (.rett) := rfl
theorem Laws.HasWord.brk (n : BitVec 9) : Laws.HasWord.Statement (.brk n) := rfl
theorem Laws.HasWord.ld (size : Size) (scope : Scope) (acq : Bool) (ea : Bool) (d a : Reg) (off : BitVec 6) : Laws.HasWord.Statement (.ld size scope acq ea d a off) := rfl
theorem Laws.HasWord.st (size : Size) (scope : Scope) (rel : Bool) (ea : Bool) (d a : Reg) (off : BitVec 6) : Laws.HasWord.Statement (.st size scope rel ea d a off) := rfl
theorem Laws.HasWord.ldl (size : Size) (team : Bool) (acq : Bool) (ea : Bool) (d a : Reg) (off : BitVec 6) : Laws.HasWord.Statement (.ldl size team acq ea d a off) := rfl
theorem Laws.HasWord.stl (size : Size) (team : Bool) (rel : Bool) (ea : Bool) (d a : Reg) (off : BitVec 6) : Laws.HasWord.Statement (.stl size team rel ea d a off) := rfl
theorem Laws.HasWord.atom (op : AtomOp) (scope : Scope) (ar : Bool) (d a b : Reg) : Laws.HasWord.Statement (.atom op scope ar d a b) := rfl
theorem Laws.HasWord.atoml (op : AtomOp) (team : Bool) (ar : Bool) (d a b : Reg) : Laws.HasWord.Statement (.atoml op team ar d a b) := rfl
theorem Laws.HasWord.clinePf (scope : Scope) (ea : Bool) (a : Reg) (off : BitVec 6) : Laws.HasWord.Statement (.clinePf scope ea a off) := rfl
theorem Laws.HasWord.clineWb (scope : Scope) (ea : Bool) (a : Reg) (off : BitVec 6) : Laws.HasWord.Statement (.clineWb scope ea a off) := rfl
theorem Laws.HasWord.clineInv (scope : Scope) (ea : Bool) (a : Reg) (off : BitVec 6) : Laws.HasWord.Statement (.clineInv scope ea a off) := rfl
theorem Laws.HasWord.stashMap (ea : Bool) (d a : Reg) : Laws.HasWord.Statement (.stashMap ea d a) := rfl
theorem Laws.HasWord.stashUnmap (ea : Bool) (a : Reg) : Laws.HasWord.Statement (.stashUnmap ea a) := rfl
theorem Laws.HasWord.stashFlush (ea : Bool) (a : Reg) : Laws.HasWord.Statement (.stashFlush ea a) := rfl
theorem Laws.HasWord.cpy (ea : Bool) (a : Reg) : Laws.HasWord.Statement (.cpy ea a) := rfl
theorem Laws.HasWord.slotw (free : Bool) (ea : Bool) (d a : Reg) : Laws.HasWord.Statement (.slotw free ea d a) := rfl
theorem Laws.HasWord.slotr (ea : Bool) (a : Reg) : Laws.HasWord.Statement (.slotr ea a) := rfl
theorem Laws.HasWord.slotp (ea : Bool) (a : Reg) : Laws.HasWord.Statement (.slotp ea a) := rfl
theorem Laws.HasWord.slote (ea : Bool) (a : Reg) : Laws.HasWord.Statement (.slote ea a) := rfl
theorem Laws.HasWord.qstrm (q : BitVec 3) (ea eb : Bool) (a b : Reg) : Laws.HasWord.Statement (.qstrm q ea eb a b) := rfl
theorem Laws.HasWord.mma (i32 bq outl unf acc : Bool) (d a b : Reg) : Laws.HasWord.Statement (.mma i32 bq outl unf acc d a b) := rfl
theorem Laws.HasWord.mpack (fmt : PackFmt) (ea eb : Bool) (d a b : Reg) : Laws.HasWord.Statement (.mpack fmt ea eb d a b) := rfl
theorem Laws.HasWord.mtake : Laws.HasWord.Statement (.mtake) := rfl
theorem Laws.HasWord.mpass (rank : BitVec 16) : Laws.HasWord.Statement (.mpass rank) := rfl
theorem Laws.HasWord.tspawn (ea : Bool) (a : Reg) : Laws.HasWord.Statement (.tspawn ea a) := rfl
theorem Laws.HasWord.tsucc (ea : Bool) (a : Reg) : Laws.HasWord.Statement (.tsucc ea a) := rfl
theorem Laws.HasWord.mov16 (k : Bool) (d s : Reg5) : Laws.HasWord.Statement (.mov16 k d s) := rfl
theorem Laws.HasWord.iadd16 (k : Bool) (d s : Reg5) : Laws.HasWord.Statement (.iadd16 k d s) := rfl
theorem Laws.HasWord.isub16 (k : Bool) (d s : Reg5) : Laws.HasWord.Statement (.isub16 k d s) := rfl
theorem Laws.HasWord.imul16 (k : Bool) (d s : Reg5) : Laws.HasWord.Statement (.imul16 k d s) := rfl
theorem Laws.HasWord.and16 (k : Bool) (d s : Reg5) : Laws.HasWord.Statement (.and16 k d s) := rfl
theorem Laws.HasWord.or16 (k : Bool) (d s : Reg5) : Laws.HasWord.Statement (.or16 k d s) := rfl
theorem Laws.HasWord.xor16 (k : Bool) (d s : Reg5) : Laws.HasWord.Statement (.xor16 k d s) := rfl
theorem Laws.HasWord.shl16 (k : Bool) (d s : Reg5) : Laws.HasWord.Statement (.shl16 k d s) := rfl
theorem Laws.HasWord.shr16 (k : Bool) (d s : Reg5) : Laws.HasWord.Statement (.shr16 k d s) := rfl
theorem Laws.HasWord.sar16 (k : Bool) (d s : Reg5) : Laws.HasWord.Statement (.sar16 k d s) := rfl
theorem Laws.HasWord.imin16 (k : Bool) (d s : Reg5) : Laws.HasWord.Statement (.imin16 k d s) := rfl
theorem Laws.HasWord.imax16 (k : Bool) (d s : Reg5) : Laws.HasWord.Statement (.imax16 k d s) := rfl
theorem Laws.HasWord.fadd16 (k : Bool) (d s : Reg5) : Laws.HasWord.Statement (.fadd16 k d s) := rfl
theorem Laws.HasWord.fsub16 (k : Bool) (d s : Reg5) : Laws.HasWord.Statement (.fsub16 k d s) := rfl
theorem Laws.HasWord.fmul16 (k : Bool) (d s : Reg5) : Laws.HasWord.Statement (.fmul16 k d s) := rfl
theorem Laws.HasWord.fmax16 (k : Bool) (d s : Reg5) : Laws.HasWord.Statement (.fmax16 k d s) := rfl
theorem Laws.HasWord.postedResultArrival (id : Nat) : Laws.HasWord.Statement (.postedResultArrival id) := rfl
theorem Laws.HasWord.asynchronousCauseDelivery (target : AsyncTarget) : Laws.HasWord.Statement (.asynchronousCauseDelivery target) := rfl
theorem Laws.HasWord.matrixOperation (core quad : Nat) : Laws.HasWord.Statement (.matrixOperation core quad) := rfl
theorem Laws.HasWord.slateObtained (core quad : Nat) : Laws.HasWord.Statement (.slateObtained core quad) := rfl
theorem Laws.HasWord.copyOperation (core : Nat) : Laws.HasWord.Statement (.copyOperation core) := rfl
theorem Laws.HasWord.copyRingPublication (core : Nat) : Laws.HasWord.Statement (.copyRingPublication core) := rfl
theorem Laws.HasWord.streamEntryFetch (group : Nat) (queue : Nat) : Laws.HasWord.Statement (.streamEntryFetch group queue) := rfl
theorem Laws.HasWord.textureOperation (core : Nat) : Laws.HasWord.Statement (.textureOperation core) := rfl
theorem Laws.HasWord.rayLaunch (cluster : Nat) : Laws.HasWord.Statement (.rayLaunch cluster) := rfl
theorem Laws.HasWord.stashFill (team side window sector : Nat) : Laws.HasWord.Statement (.stashFill team side window sector) := rfl
theorem Laws.HasWord.nvmeReadCompletion (entry : Nat) (sct sc : Byte) (block : List Byte) : Laws.HasWord.Statement (.nvmeReadCompletion entry sct sc block) := rfl
theorem Laws.HasWord.swappedGroupPlacement (group : Nat) : Laws.HasWord.Statement (.swappedGroupPlacement group) := rfl
theorem Laws.HasWord.taskDispatch (core : Nat) : Laws.HasWord.Statement (.taskDispatch core) := rfl
theorem Laws.HasWord.deviceEnqueue (n : Nat) : Laws.HasWord.Statement (.deviceEnqueue n) := rfl
theorem Laws.HasWord.launchCompletion (launch : Nat) : Laws.HasWord.Statement (.launchCompletion launch) := rfl
theorem Laws.HasWord.rasterRecordTake (part queue : Nat) : Laws.HasWord.Statement (.rasterRecordTake part queue) := rfl
theorem Laws.HasWord.passStartClear (pass : Nat) : Laws.HasWord.Statement (.passStartClear pass) := rfl
theorem Laws.HasWord.meshletRasterisation (pass : Nat) : Laws.HasWord.Statement (.meshletRasterisation pass) := rfl
theorem Laws.HasWord.pixelGroupStart (pass : Nat) : Laws.HasWord.Statement (.pixelGroupStart pass) := rfl
theorem Laws.HasWord.pixelCommit (core : Nat) : Laws.HasWord.Statement (.pixelCommit core) := rfl
theorem Laws.HasWord.tilePublication (pass : Nat) : Laws.HasWord.Statement (.tilePublication pass) := rfl
theorem Laws.HasWord.passCompletion (pass : Nat) : Laws.HasWord.Statement (.passCompletion pass) := rfl
theorem Laws.HasWord.lensCorrection (part stream : Nat) : Laws.HasWord.Statement (.lensCorrection part stream) := rfl
theorem Laws.HasWord.stripScanout (part stream : Nat) (late : Bool) : Laws.HasWord.Statement (.stripScanout part stream late) := rfl
theorem Laws.HasWord.stripCountdownEnd (part stream : Nat) : Laws.HasWord.Statement (.stripCountdownEnd part stream) := rfl
theorem Laws.HasWord.av1StripSend (part stream : Nat) : Laws.HasWord.Statement (.av1StripSend part stream) := rfl
theorem Laws.HasWord.streamEnable (part stream : Nat) : Laws.HasWord.Statement (.streamEnable part stream) := rfl
theorem Laws.HasWord.powerTick (env : PowerEnv) : Laws.HasWord.Statement (.powerTick env) := rfl
theorem Laws.HasWord.leaseRequestDecision (slot : Nat) : Laws.HasWord.Statement (.leaseRequestDecision slot) := rfl
theorem Laws.HasWord.leaseExpiry (cluster : Nat) : Laws.HasWord.Statement (.leaseExpiry cluster) := rfl
theorem Laws.HasWord.migration (team : Nat) : Laws.HasWord.Statement (.migration team) := rfl
theorem Laws.HasWord.hangWatchdogExpiry (group : Nat) : Laws.HasWord.Statement (.hangWatchdogExpiry group) := rfl
theorem Laws.HasWord.yieldTimeout (group slice : Nat) : Laws.HasWord.Statement (.yieldTimeout group slice) := rfl
theorem Laws.HasWord.sleepExpiry (group slice : Nat) : Laws.HasWord.Statement (.sleepExpiry group slice) := rfl
theorem Laws.HasWord.activeSetTimeout (slot : Nat) : Laws.HasWord.Statement (.activeSetTimeout slot) := rfl
theorem Laws.HasWord.activeSetIdleLeave (slot : Nat) : Laws.HasWord.Statement (.activeSetIdleLeave slot) := rfl
theorem Laws.HasWord.activeSetEntry (slot : Nat) : Laws.HasWord.Statement (.activeSetEntry slot) := rfl
theorem Laws.HasWord.gateSequenceBegin (cluster : Nat) : Laws.HasWord.Statement (.gateSequenceBegin cluster) := rfl
theorem Laws.HasWord.gateCommit (cluster : Nat) : Laws.HasWord.Statement (.gateCommit cluster) := rfl
theorem Laws.HasWord.clusterWakeUp (cluster : Nat) : Laws.HasWord.Statement (.clusterWakeUp cluster) := rfl
theorem Laws.HasWord.saveBoundExpiry : Laws.HasWord.Statement (.saveBoundExpiry) := rfl
theorem Laws.HasWord.resizeStopAndMove (team : Nat) : Laws.HasWord.Statement (.resizeStopAndMove team) := rfl
theorem Laws.HasWord.stop : Laws.HasWord.Statement (.stop) := rfl
theorem Laws.HasWord.resume : Laws.HasWord.Statement (.resume) := rfl
theorem Laws.HasWord.save : Laws.HasWord.Statement (.save) := rfl
theorem Laws.HasWord.restore : Laws.HasWord.Statement (.restore) := rfl
theorem Laws.HasWord.kill : Laws.HasWord.Statement (.kill) := rfl
theorem Laws.HasWord.regrd : Laws.HasWord.Statement (.regrd) := rfl
theorem Laws.HasWord.regwr : Laws.HasWord.Statement (.regwr) := rfl
theorem Laws.HasWord.step : Laws.HasWord.Statement (.step) := rfl
theorem Laws.HasWord.ctxcmdUndefinedOp (op : BitVec 4) : Laws.HasWord.Statement (.ctxcmdUndefinedOp op) := rfl
theorem Laws.HasWord.tlbinvPage : Laws.HasWord.Statement (.tlbinvPage) := rfl
theorem Laws.HasWord.tlbinvPartition : Laws.HasWord.Statement (.tlbinvPartition) := rfl
theorem Laws.HasWord.tlbInvalidationDone : Laws.HasWord.Statement (.tlbInvalidationDone) := rfl
theorem Laws.HasWord.quietReq : Laws.HasWord.Statement (.quietReq) := rfl
theorem Laws.HasWord.quietDetectionEnd : Laws.HasWord.Statement (.quietDetectionEnd) := rfl
theorem Laws.HasWord.partitionReset : Laws.HasWord.Statement (.partitionReset) := rfl
theorem Laws.HasWord.partitionEnable (en : Bool) : Laws.HasWord.Statement (.partitionEnable en) := rfl
theorem Laws.HasWord.coreMaskWrite (word : BitVec 2) (value : Word) : Laws.HasWord.Statement (.coreMaskWrite word value) := rfl
theorem Laws.HasWord.l2ModeChange (priv : Bool) : Laws.HasWord.Statement (.l2ModeChange priv) := rfl
theorem Laws.HasWord.evctlEnable (value : Word) : Laws.HasWord.Statement (.evctlEnable value) := rfl
theorem Laws.HasWord.registerWrite (num : BitVec 9) (value : Word) : Laws.HasWord.Statement (.registerWrite num value) := rfl
theorem Laws.HasWord.eventRingWrite : Laws.HasWord.Statement (.eventRingWrite) := rfl
theorem Laws.HasWord.peerLinkFailure (link : Nat) : Laws.HasWord.Statement (.peerLinkFailure link) := rfl
theorem Laws.HasWord.hostAccess (acc : OutsideAccess) : Laws.HasWord.Statement (.hostAccess acc) := rfl
theorem Laws.HasWord.peerAccess (acc : OutsideAccess) : Laws.HasWord.Statement (.peerAccess acc) := rfl
theorem Laws.HasWord.hardwareFaultDetection (f : HwFault) : Laws.HasWord.Statement (.hardwareFaultDetection f) := rfl
theorem Laws.HasWord.functionReady (bit : Nat) : Laws.HasWord.Statement (.functionReady bit) := rfl
theorem Laws.HasWord.firmwareImageAccept (img : FwImage) : Laws.HasWord.Statement (.firmwareImageAccept img) := rfl
theorem Laws.HasWord.moduleReset : Laws.HasWord.Statement (.moduleReset) := rfl
theorem Laws.HasWord.getVersion : Laws.HasWord.Statement (.getVersion) := rfl
theorem Laws.HasWord.getCapabilities : Laws.HasWord.Statement (.getCapabilities) := rfl
theorem Laws.HasWord.negotiateAlgorithms : Laws.HasWord.Statement (.negotiateAlgorithms) := rfl
theorem Laws.HasWord.getDigests : Laws.HasWord.Statement (.getDigests) := rfl
theorem Laws.HasWord.getCertificate : Laws.HasWord.Statement (.getCertificate) := rfl
theorem Laws.HasWord.challenge (nonce : Nat) : Laws.HasWord.Statement (.challenge nonce) := rfl
theorem Laws.HasWord.getMeasurements : Laws.HasWord.Statement (.getMeasurements) := rfl
theorem Laws.HasWord.copyOnWriteCompletion (entry : Nat) : Laws.HasWord.Statement (.copyOnWriteCompletion entry) := rfl
theorem Laws.HasWord.configurationRequest (cxlIo : Bool) (req : ConfigRequest) :
    Laws.HasWord.Statement (.configurationRequest cxlIo req) := rfl
theorem Laws.HasWord.hostSnoop (line : Nat) (invalidate : Bool) : Laws.HasWord.Statement (.hostSnoop line invalidate) := rfl

end Sys2Proof
end

