-- ==== Sys2Proof/Laws/Pure.lean ====
section
/-! SUPPORT. The law of a register instruction: results, flags, frame and counters. -/

namespace Sys2Proof.Machine

/-! ### The lanes of an issue -/

theorem mem_activeLanes_wave {s : State} {k gang : Nat} {l : LaneId} (h : l ∈ activeLanes s (.wave k gang)) :
    ∃ g i x, l = .wave g i ∧ slice? s g (i / 4) = some x ∧ (levelOf x).running.getLsbD i = true ∧
      ∃ y, (g, y) ∈ s.work.groups ∧ i / 4 < y.width / 4 := by
  unfold activeLanes at h
  dsimp only at h
  rw [List.mem_flatMap] at h
  obtain ⟨e, he, hl⟩ := h
  split at hl
  · rename_i x hx
    rw [List.mem_filterMap] at hl
    obtain ⟨i, hi, hl⟩ := hl
    rw [List.mem_map] at hi
    obtain ⟨j, hj, rfl⟩ := hi
    rw [List.mem_range] at hj
    split at hl
    · rename_i hrun
      have hdiv : (4 * e.2 + j) / 4 = e.2 := by omega
      refine ⟨e.1, 4 * e.2 + j, x, (Option.some.inj hl).symm, ?_, hrun, ?_⟩
      · unfold slice?; rw [hdiv]; exact hx
      · unfold gangSlices at he
        rw [List.mem_filterMap] at he
        obtain ⟨z, hz, hze⟩ := he
        split at hze
        · have hzz := Option.some.inj hze
          unfold slotSliceList at hz
          rw [List.mem_flatMap] at hz
          obtain ⟨w, hw, hz⟩ := hz
          rw [List.mem_filterMap] at hz
          obtain ⟨n, hn, hz⟩ := hz
          rw [Option.map_eq_some_iff] at hz
          obtain ⟨y, hy, rfl⟩ := hz
          unfold slotGroups at hw
          rw [List.mem_flatMap] at hw
          obtain ⟨m, hm, hw⟩ := hw
          have hw2 := List.mem_of_mem_filter (List.mem_of_mem_filter hw)
          unfold seatSlices at hn
          have hn2 := List.mem_of_mem_filter hn
          rw [List.mem_range] at hn2
          subst hzz
          exact ⟨w.2, hw2, by simpa [hdiv] using hn2⟩
        · cases hze
    · cases hl
  · cases hl

theorem mem_issuing {s : State} {l : LaneId} (h : l ∈ issuing s) :
    (∃ k gang g i x, s.focus = .wave k gang ∧ l = .wave g i ∧ slice? s g (i / 4) = some x ∧ (levelOf x).running.getLsbD i = true) ∨
      (∃ k x, s.focus = .grip k ∧ l = .grip k ∧ issuing s = [.grip k] ∧ grip? s k = some x) ∨
      (∃ n, ∃ x : Mgmt, s.focus = .mgmt n ∧ l = .mgmt n ∧ issuing s = [.mgmt n] ∧ s.units.mgmt[n]? = some x) := by
  unfold issuing at h
  cases hf : s.focus with
  | none => rw [hf] at h; cases h
  | wave k gang =>
    rw [hf] at h
    obtain ⟨g, i, x, h1, h2, h3, -⟩ := mem_activeLanes_wave h
    exact .inl ⟨k, gang, g, i, x, rfl, h1, h2, h3⟩
  | grip k =>
    rw [hf] at h
    obtain ⟨h1, h2⟩ := activeLanes_grip s k l h
    have : ∃ x, grip? s k = some x := by
      unfold activeLanes at h
      dsimp only at h
      unfold grip?
      split at h
      · exact ⟨_, by assumption⟩
      · cases h
    obtain ⟨x, hx⟩ := this
    exact .inr (.inl ⟨k, x, rfl, h2, by unfold issuing; rw [hf, h1], hx⟩)
  | mgmt n =>
    rw [hf] at h
    obtain ⟨h1, h2⟩ := activeLanes_mgmt s n l h
    have : ∃ x : Mgmt, s.units.mgmt[n]? = some x := by
      unfold activeLanes at h
      dsimp only at h
      cases hx : s.units.mgmt[n]? with
      | none => simp [hx] at h
      | some x => exact ⟨x, rfl⟩
    obtain ⟨x, hx⟩ := this
    exact .inr (.inr ⟨n, x, rfl, h2, by unfold issuing; rw [hf, h1], hx⟩)

/-- Lane numbers are below 64 (R19). -/
theorem lidx_issuing {s : State} (hf : groupsFit s = true) {l : LaneId} (h : l ∈ issuing s) : lidxOf l < 64 := by
  have hcopy := h
  unfold issuing at h
  cases hfo : s.focus with
  | none => rw [hfo] at h; cases h
  | wave k gang =>
    rw [hfo] at h
    obtain ⟨g, i, x, rfl, -, -, y, hy, hi⟩ := mem_activeLanes_wave h
    simp only [groupsFit, Bool.and_eq_true, List.all_eq_true] at hf
    have := hf.1 (g, y) hy
    simp only [decide_eq_true_eq] at this
    simp only [lidxOf]
    omega
  | grip k =>
    rw [hfo] at h
    obtain ⟨-, rfl⟩ := activeLanes_grip s k l h
    exact (by decide : 0 < 64)
  | mgmt n =>
    rw [hfo] at h
    obtain ⟨-, rfl⟩ := activeLanes_mgmt s n l h
    exact (by decide : 0 < 64)

theorem ready_fit {s : State} {f : Form} (h : ready s f = true) : groupsFit s = true := by
  simp only [ready, Bool.and_eq_true] at h
  exact h.1.1

/-! ### Frames of register writes -/

theorem Kept.refl (s : State) : Kept s s := by
  constructor
  case scratch => exact fun k x h => ⟨x, h, rfl, rfl, rfl⟩
  case control => exact fun g x h => ⟨x, h, rfl, rfl, rfl, rfl, rfl, rfl, rfl⟩
  case frames => exact fun g n x h => ⟨x, h, rfl, rfl, rfl⟩
  all_goals intros; rfl

theorem Kept.trans {a b c : State} (h : Kept a b) (k : Kept b c) : Kept a c where
  memory x := (k.memory x).trans (h.memory x)
  poison := k.poison.trans h.poison
  posted := k.posted.trans h.posted
  late := k.late.trans h.late
  banked p n := (k.banked p n).trans (h.banked p n)
  system n := (k.system n).trans (h.system n)
  cores := k.cores.trans h.cores
  clusters := k.clusters.trans h.clusters
  events := k.events.trans h.events
  scratch j x hx := by
    obtain ⟨y, hy, e1, e2, e3⟩ := h.scratch j x hx
    obtain ⟨z, hz, d1, d2, d3⟩ := k.scratch j y hy
    exact ⟨z, hz, d1.trans e1, d2.trans e2, d3.trans e3⟩
  control g x hx := by
    obtain ⟨y, hy, e1, e2, e3, e4, e5, e6, e7⟩ := h.control g x hx
    obtain ⟨z, hz, d1, d2, d3, d4, d5, d6, d7⟩ := k.control g y hy
    exact ⟨z, hz, d1.trans e1, d2.trans e2, d3.trans e3, d4.trans e4, d5.trans e5, d6.trans e6, d7.trans e7⟩
  frames g n x hx := by
    obtain ⟨y, hy, e1, e2, e3⟩ := h.frames g n x hx
    obtain ⟨z, hz, d1, d2, d3⟩ := k.frames g n y hy
    exact ⟨z, hz, d1.trans e1, d2.trans e2, d3.trans e3⟩

theorem Kept.foldl {α : Type} (f : State → α → State) (h : ∀ s a, Kept s (f s a)) (as : List α) (s : State) : Kept s (as.foldl f s) := by
  induction as generalizing s with
  | nil => exact Kept.refl s
  | cons a as ih => exact (h s a).trans (ih _)

theorem kept_setLaneElem (s : State) (l : LaneId) (r : Nat) (e : Elem) : Kept s (setLaneElem s l r e) := by
  cases l with
  | wave g i =>
    rw [setLaneElem_wave]
    split
    · constructor
      case scratch => exact fun k x h => ⟨x, h, rfl, rfl, rfl⟩
      case control =>
        intro h x hx
        rw [group?_modGroup]
        split
        · rename_i he; subst he
          rw [hx]
          exact ⟨_, rfl, rfl, rfl, rfl, rfl, rfl, rfl, rfl⟩
        · exact ⟨x, hx, rfl, rfl, rfl, rfl, rfl, rfl, rfl⟩
      case frames =>
        intro h n x hx
        have := slice?_modGroup s g h n (fun x => { x with regs := setRegElem x.regs r i e }) (fun _ => rfl)
        exact ⟨x, this.trans hx, rfl, rfl, rfl⟩
      all_goals intros; rfl
    · constructor
      case scratch => exact fun k x h => ⟨x, h, rfl, rfl, rfl⟩
      case control =>
        intro h x hx
        rw [group?_modSlice]
        split
        · rename_i he; subst he
          rw [hx]
          exact ⟨_, rfl, rfl, rfl, rfl, rfl, rfl, rfl, rfl⟩
        · exact ⟨x, hx, rfl, rfl, rfl, rfl, rfl, rfl, rfl⟩
      case frames =>
        intro h n x hx
        rw [slice?_modSlice]
        split
        · rename_i he
          obtain ⟨rfl, rfl⟩ := he
          rw [hx]
          refine ⟨_, rfl, ?_⟩
          cases hfr : x.frames <;> simp [Frame.saved, hfr]
        · exact ⟨x, hx, rfl, rfl, rfl⟩
      all_goals intros; rfl
  | grip t =>
    constructor
    case scratch =>
      intro k x hx
      simp only [setLaneElem, team?_modTeam]
      split
      · rename_i he; subst he
        rw [hx]
        exact ⟨_, rfl, rfl, rfl, rfl⟩
      · exact ⟨x, hx, rfl, rfl, rfl⟩
    case control => exact fun g x h => ⟨x, h, rfl, rfl, rfl, rfl, rfl, rfl, rfl⟩
    case frames => exact fun g n x h => ⟨x, h, rfl, rfl, rfl⟩
    all_goals intros; rfl
  | mgmt n =>
    constructor
    case scratch => exact fun k x h => ⟨x, h, rfl, rfl, rfl⟩
    case control => exact fun g x h => ⟨x, h, rfl, rfl, rfl, rfl, rfl, rfl, rfl⟩
    case frames => exact fun g n x h => ⟨x, h, rfl, rfl, rfl⟩
    all_goals intros; rfl

theorem kept_writeLanes (s : State) (l : LaneId) (ws : List (Nat × Word)) : Kept s (writeLanes s l ws) := by
  refine Kept.foldl _ (fun s w => ?_) ws s
  exact kept_setLaneElem s l w.1 _

theorem saved_of_bared {x y : Slice} (h : x.bared = y.bared) : x.frames.map Frame.saved = y.frames.map Frame.saved := by
  have := congrArg (fun z => z.frames.map Frame.saved) h
  simp only [Slice.bared, List.map_map, Function.comp_def] at this
  exact this

theorem Booked.slice {u t : State} (h : Booked u t) (g n : Nat) (x : Slice) (hx : slice? u g n = some x) :
    ∃ y, slice? t g n = some y ∧ y.bared = x.bared := by
  have hg := h.groups g
  unfold slice? at hx ⊢
  cases hu : group? u g with
  | none => simp [hu] at hx
  | some a =>
    cases ht : group? t g with
    | none => simp [hu, ht] at hg
    | some b =>
      rw [hu, ht] at hg
      have hs := congrArg (fun z => z[n]?) (slices_of_bared (Option.some.inj hg))
      simp only [List.getElem?_map] at hs
      rw [hu] at hx
      simp only [Option.bind_some] at hx ⊢
      rw [hx] at hs
      cases hb : b.slices[n]? with
      | none => simp [hb] at hs
      | some y =>
        rw [hb] at hs
        exact ⟨y, rfl, Option.some.inj hs⟩

theorem Booked.kept {u t : State} (h : Booked u t) : Kept u t where
  memory a := by rw [h.mem]
  poison := h.memPoison
  posted := h.posted
  late := h.late
  banked p n := by
    have := h.unit Units.parts (fun _ => rfl)
    simp only [bankReg, partOf, this]
  system n := by
    have := h.unit Units.sysRegs (fun _ => rfl)
    simp only [sysReg, this]
  cores := h.unit Units.cores (fun _ => rfl)
  clusters := h.unit Units.clusters (fun _ => rfl)
  events := h.unit Units.events (fun _ => rfl)
  scratch k x hx := by
    have ht := h.teams k
    rw [hx] at ht
    cases hy : team? t k with
    | none => simp [hy] at ht
    | some y =>
      rw [hy] at ht
      have hb : y.bared = x.bared := Option.some.inj ht
      exact ⟨y, rfl, (congrArg Team.scratch hb : _), (congrArg Team.bad hb : _), (congrArg Team.windows hb : _)⟩
  control g x hx := by
    have ht := h.groups g
    rw [hx] at ht
    cases hy : group? t g with
    | none => simp [hy] at ht
    | some y =>
      rw [hy] at ht
      have hb : y.bared = x.bared := Option.some.inj ht
      exact ⟨y, rfl, (congrArg Group.mode hb : _), (congrArg Group.merr0 hb : _), (congrArg Group.merr1 hb : _),
        (congrArg Group.view hb : _), (congrArg Group.exited hb : _), (congrArg Group.status hb : _), (congrArg Group.ended hb : _)⟩
  frames g n x hx := by
    obtain ⟨y, hy, hb⟩ := h.slice g n x hx
    exact ⟨y, hy, saved_of_bared hb, (congrArg Slice.halt hb : _), (congrArg Slice.wait hb : _)⟩

/-! ### Register writes of all lanes -/

/-- The lanes' results written one lane after another. -/
def writeAll (s : State) (ls : List LaneId) (ws : LaneId → List (Nat × Word)) : State :=
  ls.foldl (fun u l => writeLanes u l (ws l)) s

theorem kept_writeAll (s : State) (ls : List LaneId) (ws : LaneId → List (Nat × Word)) : Kept s (writeAll s ls ws) :=
  Kept.foldl _ (fun s l => kept_writeLanes s l (ws l)) ls s

theorem steady_writeAll (s : State) (ls : List LaneId) (ws : LaneId → List (Nat × Word)) : Steady s (writeAll s ls ws) :=
  Steady.foldl _ (fun s l => steady_writeLanes s l (ws l)) ls s

theorem focus_setLaneElem (s : State) (l : LaneId) (r : Nat) (e : Elem) : (setLaneElem s l r e).focus = s.focus := by
  cases l with
  | wave g i => rw [setLaneElem_wave]; split <;> rfl
  | grip t => rfl
  | mgmt n => rfl

theorem focus_writeLanes (s : State) (l : LaneId) (ws : List (Nat × Word)) : (writeLanes s l ws).focus = s.focus := by
  unfold writeLanes
  induction ws generalizing s with
  | nil => rfl
  | cons w ws ih => rw [List.foldl_cons, ih]; exact focus_setLaneElem s l w.1 _

theorem focus_writeAll (s : State) (ls : List LaneId) (ws : LaneId → List (Nat × Word)) : (writeAll s ls ws).focus = s.focus := by
  unfold writeAll
  induction ls generalizing s with
  | nil => rfl
  | cons l ls ih => rw [List.foldl_cons, ih, focus_writeLanes]

theorem laneElem_writeAll_ne (s : State) (ls : List LaneId) (ws : LaneId → List (Nat × Word)) (h64 : ∀ l ∈ ls, lidxOf l < 64)
    {m : LaneId} {q : Nat} (hm : lidxOf m < 64) (h : ¬ (m ∈ ls ∧ ∃ w ∈ ws m, w.1 = q)) :
    laneElem (writeAll s ls ws) m q = laneElem s m q := by
  unfold writeAll
  induction ls generalizing s with
  | nil => rfl
  | cons l ls ih =>
    rw [List.foldl_cons, ih _ (fun x hx => h64 x (List.mem_cons_of_mem _ hx)) (fun hh => h ⟨List.mem_cons_of_mem _ hh.1, hh.2⟩)]
    refine laneElem_writeLanes_ne s (ws l) (h64 l List.mem_cons_self) hm ?_
    rintro ⟨rfl, hw⟩
    exact h ⟨List.mem_cons_self, hw⟩

theorem laneElem_writeAll (s : State) (ls : List LaneId) (ws : LaneId → List (Nat × Word)) (h64 : ∀ l ∈ ls, lidxOf l < 64)
    (hn : ∀ l ∈ ls, ((ws l).map (·.1)).Nodup) (hh : ∀ l ∈ ls, ∀ w ∈ ws l, laneHas s l w.1) {l : LaneId} (hl : l ∈ ls)
    {w : Nat × Word} (hw : w ∈ ws l) : laneElem (writeAll s ls ws) l w.1 = .full w.2 false := by
  unfold writeAll
  induction ls generalizing s with
  | nil => cases hl
  | cons m ls ih =>
    rw [List.foldl_cons]
    by_cases hin : l ∈ ls
    · refine ih _ (fun x hx => h64 x (List.mem_cons_of_mem _ hx)) (fun x hx => hn x (List.mem_cons_of_mem _ hx)) ?_ hin
      intro x hx v hv
      exact laneHas_writeLanes s m x v.1 _ (hh x (List.mem_cons_of_mem _ hx) v hv)
    · rcases List.mem_cons.mp hl with rfl | h
      · have := laneElem_writeAll_ne (writeLanes s l (ws l)) ls ws (fun x hx => h64 x (List.mem_cons_of_mem _ hx))
          (h64 l List.mem_cons_self) (fun hh => hin hh.1) (q := w.1)
        unfold writeAll at this
        rw [this]
        exact laneElem_writeLanes s (ws l) (h64 l List.mem_cons_self) (hn l List.mem_cons_self) (hh l List.mem_cons_self) w hw
      · exact absurd h hin

/-! ### Flags -/

theorem foldl_flOr_testBit (fs : List Flags) (a : Flags) (b : Nat) :
    (fs.foldl flOr a).testBit b = (a.testBit b || fs.any (·.testBit b)) := by
  induction fs generalizing a with
  | nil => simp
  | cons f fs ih => rw [List.foldl_cons, ih]; simp [flOr, Nat.testBit_or, Bool.or_assoc]

theorem flags_any (active : List LaneId) (ws : LaneId → List (Nat × Word)) (fl : LaneId → Flags) (tgt : LaneId → Option Addr) (g b : Nat) :
    (sliceKeys (doneActs active ws fl tgt)).any (fun k => k.1 == g && (flagsOf (doneActs active ws fl tgt) k).testBit b) =
      active.any (fun l => inGroup g l && (fl l).testBit b) := by
  rw [Bool.eq_iff_iff, List.any_eq_true, List.any_eq_true]
  constructor
  · rintro ⟨k, hk, h⟩
    rw [Bool.and_eq_true] at h
    obtain ⟨hkg, hb⟩ := h
    unfold flagsOf at hb
    rw [foldl_flOr_testBit, Nat.zero_testBit, Bool.false_or, List.any_map, List.any_eq_true] at hb
    obtain ⟨a, ha, hb⟩ := hb
    obtain ⟨hm, hd⟩ := doneActs_mem active ws fl tgt (List.mem_of_mem_filter ha)
    refine ⟨a.1, hm, ?_⟩
    have hkey : sliceKey a.1 = some k := by
      have := List.of_mem_filter ha
      simpa using this
    rw [Function.comp_apply, hd] at hb
    rw [Bool.and_eq_true]
    refine ⟨?_, hb⟩
    cases hl : a.1 with
    | wave h i =>
      rw [hl] at hkey
      simp only [sliceKey, Option.some.injEq] at hkey
      rw [← hkey] at hkg
      exact hkg
    | grip t => rw [hl] at hkey; cases hkey
    | mgmt n => rw [hl] at hkey; cases hkey
  · rintro ⟨l, hl, h⟩
    rw [Bool.and_eq_true] at h
    obtain ⟨hg, hb⟩ := h
    cases l with
    | grip t => cases hg
    | mgmt n => cases hg
    | wave h i =>
      have hmem : (LaneId.wave h i, Act.done (ws (.wave h i)) (fl (.wave h i)) (tgt (.wave h i))) ∈ doneActs active ws fl tgt :=
        List.mem_map.mpr ⟨_, hl, rfl⟩
      refine ⟨(h, i / 4), (mem_sliceKeys _ _).mpr ⟨_, hmem, rfl⟩, ?_⟩
      rw [Bool.and_eq_true]
      refine ⟨hg, ?_⟩
      unfold flagsOf
      rw [foldl_flOr_testBit, Nat.zero_testBit, Bool.false_or, List.any_map, List.any_eq_true]
      refine ⟨_, List.mem_filter.mpr ⟨hmem, by simp [sliceKey]⟩, ?_⟩
      exact hb

/-! ### The law -/

theorem doneOf_none (active : List LaneId) (ws : LaneId → List (Nat × Word)) (fl : LaneId → Flags) (k : Nat × Nat) :
    ∀ p ∈ doneOf (doneActs active ws fl (fun _ => none)) k, p.2 = none := by
  intro p hp
  unfold doneOf at hp
  rw [List.mem_filterMap] at hp
  obtain ⟨a, ha, hp⟩ := hp
  rw [(doneActs_mem active ws fl _ (List.mem_of_mem_filter ha)).2] at hp
  exact (Option.some.inj hp) ▸ rfl

theorem placeLevel_none (v : Level) (len : Nat) (ts : List (Nat × Option Addr)) (h : ∀ p ∈ ts, p.2 = none) :
    placeLevel v len ts = { v with pc := v.pc + BitVec.ofNat 56 len, running := maskOf (ts.map (·.1)) } := by
  have h1 : ts.filterMap (fun t => t.2.map (fun a => (t.1, a))) = [] := by
    rw [List.filterMap_eq_nil_iff]
    intro p hp
    simp [h p hp]
  have h2 : ts.filter (fun t => t.2.isNone) = ts := by
    rw [List.filter_eq_self]
    intro p hp
    simp [h p hp]
  unfold placeLevel
  simp only [h1, h2]
  rfl

theorem doneOf_lanes (active : List LaneId) (ws : LaneId → List (Nat × Word)) (fl : LaneId → Flags) (tgt : LaneId → Option Addr)
    (g n j : Nat) : j ∈ (doneOf (doneActs active ws fl tgt) (g, n)).map (·.1) ↔ .wave g j ∈ active ∧ j / 4 = n := by
  rw [List.mem_map]
  constructor
  · rintro ⟨p, hp, rfl⟩
    unfold doneOf at hp
    rw [List.mem_filterMap] at hp
    obtain ⟨a, ha, hp⟩ := hp
    obtain ⟨hm, hd⟩ := doneActs_mem active ws fl tgt (List.mem_of_mem_filter ha)
    rw [hd] at hp
    have hk := List.of_mem_filter ha
    cases hl : a.1 with
    | wave h i =>
      rw [hl] at hk hm hp
      have hk' : h = g ∧ i / 4 = n := by simpa [sliceKey] using hk
      rw [← Option.some.inj hp]
      exact ⟨by rw [← hk'.1]; exact hm, hk'.2⟩
    | grip t => rw [hl] at hk; simp [sliceKey] at hk
    | mgmt m => rw [hl] at hk; simp [sliceKey] at hk
  · rintro ⟨hm, hn⟩
    refine ⟨(j, tgt (.wave g j)), ?_, rfl⟩
    unfold doneOf
    rw [List.mem_filterMap]
    refine ⟨(.wave g j, .done (ws (.wave g j)) (fl (.wave g j)) (tgt (.wave g j))), ?_, rfl⟩
    refine List.mem_filter.mpr ⟨List.mem_map.mpr ⟨_, hm, rfl⟩, ?_⟩
    simp [sliceKey, hn]

/-- What the end of an issue that completes in every lane without a branch does to the contexts, when its effects leave levels and
counters alone. -/
theorem advanced_of_done {s u t : State} {len : Nat} {ws : LaneId → List (Nat × Word)} {fl : LaneId → Flags}
    (hsu : Steady s u) (hku : ∀ g n x, slice? s g n = some x → ∃ y, slice? u g n = some y ∧ y.frames.length = x.frames.length)
    (hgu : ∀ k x, grip? s k = some x → ∃ y, grip? u k = some y ∧ y.ended = x.ended ∧ y.halt = x.halt)
    (hmu : ∀ n : Nat, ∀ x : Mgmt, s.units.mgmt[n]? = some x → ∃ y : Mgmt, u.units.mgmt[n]? = some y ∧ y.running = x.running)
    (hb : Booked u t)
    (hw : ∀ k gang, s.focus = .wave k gang → ∀ g n, level? t g n =
      if (g, n) ∈ sliceKeys (doneActs (issuing s) ws fl (fun _ => none)) then
        (level? u g n).map (fun v => placeLevel v len (doneOf (doneActs (issuing s) ws fl (fun _ => none)) (g, n)))
      else level? u g n)
    (hg : ∀ k, s.focus = .grip k → gripPc? t k = (gripPc? u k).map (fun pc => pc + BitVec.ofNat 56 len))
    (hm : ∀ n, s.focus = .mgmt n → mgmtPc? t n = (mgmtPc? u n).map (fun pc => pc + BitVec.ofNat 56 len)) : Advanced s t len where
  wave g i h := by
    rcases mem_issuing h with ⟨k, gang, g', i', x, hf, he, hx, -⟩ | ⟨k, x, -, he, -⟩ | ⟨n, x, -, he, -⟩
    · cases he
      have hkey : (g, i / 4) ∈ sliceKeys (doneActs (issuing s) ws fl (fun _ => none)) :=
        (mem_sliceKeys _ _).mpr ⟨_, List.mem_map.mpr ⟨_, h, rfl⟩, rfl⟩
      have hl := hw k gang hf g (i / 4)
      rw [if_pos hkey, hsu.level] at hl
      have hlx : level? s g (i / 4) = some (levelOf x) := by unfold level?; rw [hx]; rfl
      rw [hlx, Option.map_some, placeLevel_none _ _ _ (doneOf_none (issuing s) ws fl _)] at hl
      obtain ⟨z, hz, hzl⟩ := hku g (i / 4) x hx
      obtain ⟨y, hy, hyb⟩ := hb.slice g (i / 4) z hz
      have hly : level? t g (i / 4) = some (levelOf y) := by unfold level?; rw [hy]; rfl
      have hyl := Option.some.inj (hly.symm.trans hl)
      have hlen : y.frames.length = z.frames.length := by
        have := congrArg List.length (saved_of_bared hyb)
        simpa using this
      refine ⟨x, y, hx, hy, by rw [hyl], by rw [hyl], by rw [hyl], hlen.trans hzl, ?_⟩
      intro j hj
      rw [hyl]
      dsimp only
      rw [maskOf_getLsbD]
      simp only [hj, decide_true, Bool.true_and]
      rw [Bool.eq_iff_iff, List.contains_iff_mem, doneOf_lanes, Bool.and_eq_true, List.contains_iff_mem, beq_iff_eq]
    · cases he
    · cases he
  grip k h := by
    rcases mem_issuing h with ⟨_, _, _, _, _, -, he, -⟩ | ⟨k', x, hf, he, -, hx⟩ | ⟨n, x, -, he, -⟩
    · cases he
    · cases he
      obtain ⟨z, hz, h1, h2⟩ := hgu k x hx
      have hp := hg k hf
      have ht := hb.teams k
      unfold grip? at hz hx
      cases hu : team? u k with
      | none => simp [hu] at hz
      | some a =>
        rw [hu] at hz ht
        simp only [Option.bind_some] at hz
        cases htt : team? t k with
        | none => simp [htt] at ht
        | some b =>
          rw [htt] at ht
          have hbb : b.bared = a.bared := Option.some.inj ht
          have hgr : b.grip.map Grip.bared = a.grip.map Grip.bared := congrArg Team.grip hbb
          rw [hz] at hgr
          cases hbg : b.grip with
          | none => simp [hbg] at hgr
          | some y =>
            rw [hbg] at hgr
            have hyz : y.bared = z.bared := Option.some.inj hgr
            have hgy : grip? t k = some y := by unfold grip?; rw [htt]; exact hbg
            refine ⟨x, y, hx, hgy, ?_, (congrArg Grip.ended hyz : _).trans h1, (congrArg Grip.halt hyz : _).trans h2⟩
            have hpx : gripPc? u k = some x.pc := by
              rw [hsu.grip]
              unfold gripPc? grip?
              rw [hx]
              rfl
            rw [hpx] at hp
            have : gripPc? t k = some y.pc := by unfold gripPc?; rw [hgy]; rfl
            rw [this] at hp
            exact Option.some.inj hp
    · cases he
  mgmt n h := by
    rcases mem_issuing h with ⟨_, _, _, _, _, -, he, -⟩ | ⟨_, _, -, he, -⟩ | ⟨n', x, hf, he, -, hx⟩
    · cases he
    · cases he
    · cases he
      obtain ⟨z, hz, h1⟩ := hmu n x hx
      have hp := hm n hf
      have ht := hb.mgmt n
      rw [hz] at ht
      cases hy : t.units.mgmt[n]? with
      | none => simp [hy] at ht
      | some y =>
        rw [hy] at ht
        have hyz : y.bared = z.bared := Option.some.inj ht
        refine ⟨x, y, hx, rfl, ?_, (congrArg Mgmt.running hyz : _).trans h1⟩
        have hpx : mgmtPc? u n = some x.pc := by
          rw [hsu.mgmt]
          unfold mgmtPc?
          rw [hx]
          rfl
        rw [hpx] at hp
        have : mgmtPc? t n = some y.pc := by unfold mgmtPc?; rw [hy]; rfl
        rw [this] at hp
        exact Option.some.inj hp

/-! ### Destinations -/

theorem topFrame_of_handler {s : State} {g i : Nat} (h : laneHandler s (.wave g i) = true) : (topFrame s g i).isSome = true := by
  unfold laneHandler at h
  unfold topFrame
  dsimp only at h
  cases hc : (group? s g).bind (sliceOf · i) with
  | none => simp [hc] at h
  | some c =>
    simp only [hc, Option.map_some, Option.getD_some, inHandler] at h
    cases hf : c.frames with
    | nil => simp [hf] at h
    | cons f fs => simp [hf]

theorem laneHas_of {s : State} {l : LaneId} (hl : l ∈ issuing s) {r : Nat}
    (h : ∀ g i, l = .wave g i → r < 56 ∨ laneHandler s l = true) : laneHas s l r := by
  rcases mem_issuing hl with ⟨_, _, g, i, x, -, rfl, hx, -⟩ | ⟨k, x, -, rfl, -, hx⟩ | ⟨n, x, -, rfl, -, hx⟩
  · refine ⟨?_, (h g i rfl).imp id topFrame_of_handler⟩
    unfold slice? at hx
    cases hg : group? s g with
    | none => simp [hg] at hx
    | some y => rfl
  · unfold grip? at hx
    simp [laneHas, hx]
  · simp [laneHas, hx]

/-- A lane that is ready has its destination register. -/
theorem laneHas_dst {s : State} {f : Form} (hr : ready s f = true) {d : Reg} (hd : f.dst = some d) {l : LaneId} (hl : l ∈ issuing s) :
    laneHas s l d.toNat := by
  refine laneHas_of hl (fun g i he => ?_)
  simp only [ready, Bool.and_eq_true, List.all_eq_true] at hr
  have hc := (hr.2 l hl).2
  rw [Option.isNone_iff_eq_none] at hc
  have ho := (commonAct_none hc).2
  unfold ownAct at ho
  subst he
  dsimp only at ho
  split at ho
  · cases ho
  · split at ho
    · cases ho
    · rw [hd] at ho
      dsimp only at ho
      split at ho
      · cases ho
      · rename_i h
        simp only [Bool.and_eq_true, decide_eq_true_eq, Bool.not_eq_true', not_and, Bool.not_eq_false] at h
        by_cases h56 : d.toNat < 56
        · exact .inl h56
        · exact .inr (h (by omega))

/-- A lane that is ready has both registers of its destination pair. -/
theorem laneHas_pair {s : State} {f : Form} (hr : ready s f = true) {d : Reg} (hd : d ∈ f.pairs) (he : evenReg d = true) {l : LaneId}
    (hl : l ∈ issuing s) : laneHas s l d.toNat ∧ laneHas s l (d.toNat + 1) := by
  have key : ∀ g i, l = .wave g i → d.toNat < 56 ∨ laneHandler s l = true := by
    intro g i e
    simp only [ready, Bool.and_eq_true, List.all_eq_true] at hr
    have hc := (hr.2 l hl).1.2
    subst e
    simp only [fieldsLegal, Bool.or_eq_true, List.all_eq_true, decide_eq_true_eq] at hc
    rcases hc with h | h
    · exact .inr h
    · exact .inl (h d hd)
  simp only [evenReg, beq_iff_eq] at he
  exact ⟨laneHas_of hl key, laneHas_of hl (fun g i e => (key g i e).imp (fun h => by omega) id)⟩

/-- A register write keeps which grip and management contexts there are, and that they run. -/
theorem grip_setLaneElem (s : State) (l : LaneId) (r : Nat) (e : Elem) (k : Nat) (x : Grip) (h : grip? s k = some x) :
    ∃ y, grip? (setLaneElem s l r e) k = some y ∧ y.ended = x.ended ∧ y.halt = x.halt := by
  cases l with
  | wave g i => rw [setLaneElem_wave]; split <;> exact ⟨x, h, rfl, rfl⟩
  | mgmt n => exact ⟨x, h, rfl, rfl⟩
  | grip j =>
    simp only [grip?, setLaneElem, team?_modTeam] at h ⊢
    split
    · rename_i he
      subst he
      cases ht : team? s k with
      | none => simp [ht] at h
      | some z => simp [ht] at h; exact ⟨{ x with regs := tput x.regs r e }, by simp [h], rfl, rfl⟩
    · exact ⟨x, h, rfl, rfl⟩

theorem mgmt_setLaneElem (s : State) (l : LaneId) (r : Nat) (e : Elem) (n : Nat) (x : Mgmt) (h : s.units.mgmt[n]? = some x) :
    ∃ y : Mgmt, (setLaneElem s l r e).units.mgmt[n]? = some y ∧ y.running = x.running := by
  cases l with
  | wave g i => rw [setLaneElem_wave]; split <;> exact ⟨x, h, rfl⟩
  | grip k => exact ⟨x, h, rfl⟩
  | mgmt m =>
    simp only [setLaneElem, modifyNth_getElem?]
    split
    · rename_i he
      subst he
      exact ⟨{ x with regs := tput x.regs r e }, by simp [h], rfl⟩
    · exact ⟨x, h, rfl⟩

theorem grip_writeAll (s : State) (ls : List LaneId) (ws : LaneId → List (Nat × Word)) (k : Nat) (x : Grip) (h : grip? s k = some x) :
    ∃ y, grip? (writeAll s ls ws) k = some y ∧ y.ended = x.ended ∧ y.halt = x.halt := by
  unfold writeAll
  induction ls generalizing s x with
  | nil => exact ⟨x, h, rfl, rfl⟩
  | cons l ls ih =>
    have one : ∀ (vs : List (Nat × Word)) (u : State) (x : Grip), grip? u k = some x →
        ∃ y, grip? (writeLanes u l vs) k = some y ∧ y.ended = x.ended ∧ y.halt = x.halt := by
      intro vs
      unfold writeLanes
      induction vs with
      | nil => exact fun u x hx => ⟨x, hx, rfl, rfl⟩
      | cons v vs ihv =>
        intro u x hx
        obtain ⟨y, h1, h2, h3⟩ := grip_setLaneElem u l v.1 (.full v.2 false) k x hx
        obtain ⟨z, h4, h5, h6⟩ := ihv _ y h1
        exact ⟨z, h4, h5.trans h2, h6.trans h3⟩
    obtain ⟨y, h1, h2, h3⟩ := one (ws l) s x h
    obtain ⟨z, h4, h5, h6⟩ := ih _ y h1
    exact ⟨z, h4, h5.trans h2, h6.trans h3⟩

theorem mgmt_writeAll (s : State) (ls : List LaneId) (ws : LaneId → List (Nat × Word)) (n : Nat) (x : Mgmt)
    (h : s.units.mgmt[n]? = some x) : ∃ y : Mgmt, (writeAll s ls ws).units.mgmt[n]? = some y ∧ y.running = x.running := by
  unfold writeAll
  induction ls generalizing s x with
  | nil => exact ⟨x, h, rfl⟩
  | cons l ls ih =>
    have one : ∀ (vs : List (Nat × Word)) (u : State) (x : Mgmt), u.units.mgmt[n]? = some x →
        ∃ y : Mgmt, (writeLanes u l vs).units.mgmt[n]? = some y ∧ y.running = x.running := by
      intro vs
      unfold writeLanes
      induction vs with
      | nil => exact fun u x hx => ⟨x, hx, rfl⟩
      | cons v vs ihv =>
        intro u x hx
        obtain ⟨y, h1, h2⟩ := mgmt_setLaneElem u l v.1 (.full v.2 false) n x hx
        obtain ⟨z, h4, h5⟩ := ihv _ y h1
        exact ⟨z, h4, h5.trans h2⟩
    obtain ⟨y, h1, h2⟩ := one (ws l) s x h
    obtain ⟨z, h4, h5⟩ := ih _ y h1
    exact ⟨z, h4, h5.trans h2⟩

/-- THE LAW OF A REGISTER INSTRUCTION. When its form is ready and its plan completes in every lane with registers that the lane has,
it answers a next state with those results and flags, everything else kept, and every context moved on. -/
theorem runEntry_pure (s : State) (i : Instr) (form : Form) (plan : LaneId → List Word → Act) (ws : LaneId → List (Nat × Word))
    (fl : LaneId → Flags) (hr : ready s form = true)
    (hp : ∀ l ∈ issuing s, plan l (laneVals s form (issuing s) l) = .done (ws l) (fl l) none)
    (hh : ∀ l ∈ issuing s, ∀ w ∈ ws l, laneHas s l w.1) (hn : ∀ l ∈ issuing s, ((ws l).map (·.1)).Nodup) :
    ∃ t, runEntry s i (pureEntry form plan) = .next t ∧ Completed s t form.len ws fl := by
  have hfit := ready_fit hr
  have h64 : ∀ l ∈ issuing s, lidxOf l < 64 := fun l h => lidx_issuing hfit h
  have heff : effects s (pureEntry form plan) ws = writeAll s (issuing s) ws := rfl
  obtain ⟨t, h1, hb, hw, hg, hm⟩ := runEntry_done s i (pureEntry form plan) ws fl (fun _ => none) hr (fun _ _ => rfl) (fun _ _ => rfl) rfl hp
    (by rw [heff, focus_writeAll])
  rw [heff] at hb hw hg hm
  have hsu := steady_writeAll s (issuing s) ws
  have hku := kept_writeAll s (issuing s) ws
  refine ⟨t, h1, ⟨⟨?_, ?_⟩, ?_, hku.trans hb.kept, ?_⟩⟩
  · intro l hl w hwl
    rw [hb.laneElem]
    exact laneElem_writeAll s (issuing s) ws h64 hn hh hl hwl
  · intro l r hl64 hne
    rw [hb.laneElem]
    exact laneElem_writeAll_ne s (issuing s) ws h64 hl64 hne
  · intro g x hx
    have hfs : fstat? s g = some x.fstat := by unfold fstat?; rw [hx]; rfl
    have hfu : fstat? (writeAll s (issuing s) ws) g = some x.fstat := (hsu.fstat g).trans hfs
    have back : ∀ w', fstat? t g = some w' → ∃ y, group? t g = some y ∧ y.fstat = w' := by
      intro w' hw'
      unfold fstat? at hw'
      rw [Option.map_eq_some_iff] at hw'
      exact hw'
    have plain : (∀ l ∈ issuing s, inGroup g l = false) → fstat? t g = some x.fstat →
        ∃ y, group? t g = some y ∧ ∀ b, b < 32 → y.fstat.getLsbD b =
          (x.fstat.getLsbD b || (issuing s).any (fun l => inGroup g l && (fl l).testBit b)) := by
      intro hnone hft
      obtain ⟨y, hy, hyf⟩ := back _ hft
      refine ⟨y, hy, fun b _ => ?_⟩
      rw [hyf]
      have : (issuing s).any (fun l => inGroup g l && (fl l).testBit b) = false := by
        rw [List.any_eq_false]
        intro l hl
        simp [hnone l hl]
      rw [this, Bool.or_false]
    cases hf : s.focus with
    | wave k gang =>
      obtain ⟨w', h2, h3⟩ := (hw k gang hf).2 g x.fstat hfu
      obtain ⟨y, hy, hyf⟩ := back w' h2
      refine ⟨y, hy, fun b hb' => ?_⟩
      rw [hyf, h3 b hb', flags_any]
    | grip k =>
      refine plain ?_ (((hg k hf).1 g).trans hfu)
      intro l hl
      rcases mem_issuing hl with ⟨_, _, _, _, _, hf', -⟩ | ⟨_, _, _, rfl, -⟩ | ⟨_, _, _, rfl, -⟩
      · rw [hf] at hf'; cases hf'
      · rfl
      · rfl
    | mgmt n =>
      refine plain ?_ (((hm n hf).1 g).trans hfu)
      intro l hl
      rcases mem_issuing hl with ⟨_, _, _, _, _, hf', -⟩ | ⟨_, _, _, rfl, -⟩ | ⟨_, _, _, rfl, -⟩
      · rw [hf] at hf'; cases hf'
      · rfl
      · rfl
    | none =>
      have : issuing s = [] := by unfold issuing activeLanes; rw [hf]
      simp [ready, this] at hr
  · refine advanced_of_done hsu ?_ (grip_writeAll s (issuing s) ws) (mgmt_writeAll s (issuing s) ws) hb
      (fun k gang hf => (hw k gang hf).1) (fun k hf => (hg k hf).2) (fun n hf => (hm n hf).2)
    intro g n x hx
    obtain ⟨y, hy, h2, -⟩ := hku.frames g n x hx
    refine ⟨y, hy, ?_⟩
    have := congrArg List.length h2
    simpa using this

end Sys2Proof.Machine
end

