-- ==== Sys2Proof/Laws/Results.lean ====
section
/-! SUPPORT. The laws of the shared shapes of register instructions: what each answers when its form is ready. -/

namespace Sys2Proof.Machine

theorem operand_val (s : State) (f : Form) (l : LaneId) (n : Nat) : val (laneVals s f (issuing s) l) n = operand s f l n := rfl

/-- A register instruction with one result. -/
theorem gives_one {s : State} (i : Instr) {f : Form} {d : Reg} (hd : f.dst = some d) (plan : LaneId → List Word → Act)
    (r : LaneId → Word × Flags) (hr : ready s f = true)
    (hp : ∀ l ∈ issuing s, plan l (laneVals s f (issuing s) l) = .done [(d.toNat, (r l).1)] (r l).2 none) :
    ∃ t, runEntry s i (pureEntry f plan) = .next t ∧ Completed s t f.len (one d (fun l => (r l).1)) (fun l => (r l).2) :=
  runEntry_pure s i f plan _ _ hr hp
    (fun l hl w hw => by rw [List.mem_singleton.mp hw]; exact laneHas_dst hr hd hl)
    (fun _ _ => List.nodup_singleton _)

theorem w32_low (v : DWord) : w32 v.toNat = v.extractLsb' 0 32 := by
  apply BitVec.eq_of_toNat_eq; simp [w32]

theorem w32_high (v : DWord) : w32 (v.toNat / 2 ^ 32) = v.extractLsb' 32 32 := by
  apply BitVec.eq_of_toNat_eq; simp [w32, Nat.shiftRight_eq_div_pow]

/-- A register instruction with a result in a pair. -/
theorem gives_two {s : State} (i : Instr) {f : Form} {d : Reg} (hd : d ∈ f.pairs) (he : evenReg d = true) (plan : LaneId → List Word → Act)
    (r : LaneId → DWord) (hr : ready s f = true)
    (hp : ∀ l ∈ issuing s, plan l (laneVals s f (issuing s) l) = result2 d (r l).toNat) :
    ∃ t, runEntry s i (pureEntry f plan) = .next t ∧ Completed s t f.len (two d r) noFlags := by
  refine runEntry_pure s i f plan _ _ hr (fun l hl => ?_) (fun l hl w hw => ?_) (fun l _ => ?_)
  · rw [hp l hl, result2, w32_low, w32_high]; rfl
  · have := laneHas_pair hr hd he hl
    simp only [two, List.mem_cons, List.not_mem_nil, or_false] at hw
    rcases hw with rfl | rfl
    · exact this.1
    · exact this.2
  · simp [two]

theorem gives_binary {s : State} (i : Instr) (ea eb : Bool) (d a b : Reg) (f : Word → Word → Word)
    (hr : ready s (regForm true ea eb d a b) = true) :
    ∃ t, execBinary i ea eb d a b f s = .next t ∧ Completed s t 4 (one d (fun l =>
      f (operand s (regForm true ea eb d a b) l 0) (operand s (regForm true ea eb d a b) l 1))) noFlags :=
  gives_one i rfl _ (fun l => (f (operand s (regForm true ea eb d a b) l 0) (operand s (regForm true ea eb d a b) l 1), 0)) hr
    (fun _ _ => rfl)

theorem gives_unary {s : State} (i : Instr) (ea : Bool) (d a : Reg) (f : Word → Word) (hr : ready s (regForm1 true ea d a) = true) :
    ∃ t, execUnary i ea d a f s = .next t ∧ Completed s t 4 (one d (fun l => f (operand s (regForm1 true ea d a) l 0))) noFlags :=
  gives_one i rfl _ (fun l => (f (operand s (regForm1 true ea d a) l 0), 0)) hr (fun _ _ => rfl)

theorem gives_ternary {s : State} (i : Instr) (d a b : Reg) (c : Reg5) (f : Word → Word → Word → Word)
    (hr : ready s (regForm4 true d a b c) = true) :
    ∃ t, execTernary i d a b c f s = .next t ∧ Completed s t 4 (one d (fun l => f (operand s (regForm4 true d a b c) l 0)
      (operand s (regForm4 true d a b c) l 1) (operand s (regForm4 true d a b c) l 2))) noFlags :=
  gives_one i rfl _ (fun l => (f (operand s (regForm4 true d a b c) l 0) (operand s (regForm4 true d a b c) l 1)
    (operand s (regForm4 true d a b c) l 2), 0)) hr (fun _ _ => rfl)

theorem gives_half {s : State} (i : Instr) (k : Bool) (d r : Reg5) (f : Word → Word → Word) (hr : ready s (halfForm true k d r) = true) :
    ∃ t, execHalf i k d r f s = .next t ∧ Completed s t 2 (one (reg5 d) (fun l =>
      f (operand s (halfForm true k d r) l 0) (if k then r.zeroExtend 32 else operand s (halfForm true k d r) l 1))) noFlags :=
  gives_one i rfl _ (fun l => (f (operand s (halfForm true k d r) l 0)
    (if k then r.zeroExtend 32 else operand s (halfForm true k d r) l 1), 0)) hr (fun _ _ => rfl)

/-- A floating-point instruction whose flags no lane's MODE enables. -/
theorem gives_fp {s : State} (i : Instr) {f : Form} {d : Reg} (hd : f.dst = some d) (g : Word → List Word → Word × Flags)
    (hr : ready s f = true)
    (he : ∀ l ∈ issuing s, enabledFlags (laneMode s l) (g (laneMode s l) (laneVals s f (issuing s) l)).2 = 0) :
    ∃ t, execFp i f d.toNat g s = .next t ∧ Completed s t f.len (one d (fun l => (g (laneMode s l) (laneVals s f (issuing s) l)).1))
      (fun l => (g (laneMode s l) (laneVals s f (issuing s) l)).2) :=
  gives_one i hd _ (fun l => g (laneMode s l) (laneVals s f (issuing s) l)) hr (fun l hl => by
    simp only [fpResult]; rw [if_pos (he l hl)])

end Sys2Proof.Machine
end

