-- ==== Sys2Proof/Laws/Scratch.lean ====
section
/-! SUPPORT. Laws of a team's scratchpad: what a store does to every byte of either side. -/

namespace Sys2Proof.Machine

theorem scratchKey_inj {side side' off off' : Nat} (h : off < 2 ^ 24) (h' : off' < 2 ^ 24)
    (e : scratchKey side off = scratchKey side' off') : side = side' ∧ off = off' := by
  unfold scratchKey at e
  omega

theorem range_filter_eq {n k : Nat} (h : k < n) : (List.range n).filter (fun i => decide (i = k)) = [k] := by
  induction n with
  | zero => omega
  | succ n ih =>
    rw [List.range_succ, List.filter_append]
    by_cases hk : k = n
    · subst hk
      have : (List.range k).filter (fun i => decide (i = k)) = [] := by
        rw [List.filter_eq_nil_iff]
        intro i hi e
        have := List.mem_range.mp hi
        simp at e
        omega
      rw [this]
      simp
    · rw [ih (by omega)]
      simp [Ne.symm hk]

theorem tgetD_puts (bs : List Byte) (key : Nat → Nat) (n : Nat) (m : Tab Byte) (k : Nat) :
    tgetD ((List.range n).foldl (fun m i => tput m (key i) (bs.getD i 0)) m) k 0 =
      (((List.range n).filter (fun i => key i = k)).getLast?.map (fun i => bs.getD i 0)).getD (tgetD m k 0) := by
  induction n with
  | zero => rfl
  | succ n ih =>
    rw [List.range_succ, List.foldl_append, List.filter_append]
    simp only [List.foldl_cons, List.foldl_nil]
    by_cases h : key n = k
    · subst h
      simp
    · rw [tgetD_tput_ne _ _ _ (fun e => h e.symm), ih]
      simp [h]

/-- Every byte of the scratchpad after a store. -/
theorem scratchGet_scratchPut (t : Team) (side off : Nat) (bs : List Byte) (side' o : Nat) (h : off + bs.length ≤ 2 ^ 24) (ho : o < 2 ^ 24) :
    scratchGet (scratchPut t side off bs) side' o =
      if side' = side ∧ off ≤ o ∧ o < off + bs.length then bs.getD (o - off) 0 else scratchGet t side' o := by
  unfold scratchGet scratchPut
  dsimp only
  rw [tgetD_puts bs (fun i => scratchKey side (off + i))]
  by_cases hc : side' = side ∧ off ≤ o ∧ o < off + bs.length
  · rw [if_pos hc]
    obtain ⟨rfl, h1, h2⟩ := hc
    have hf : (List.range bs.length).filter (fun i => decide (scratchKey side' (off + i) = scratchKey side' o)) = [o - off] := by
      rw [List.filter_congr (q := fun i => decide (i = o - off))]
      · exact range_filter_eq (by omega)
      · intro i hi
        have := List.mem_range.mp hi
        simp only [decide_eq_decide]
        constructor
        · intro e
          have := (scratchKey_inj (by omega) ho e).2
          omega
        · intro e
          subst e
          congr 1
          omega
    rw [hf]
    simp
  · rw [if_neg hc]
    have hf : (List.range bs.length).filter (fun i => decide (scratchKey side (off + i) = scratchKey side' o)) = [] := by
      rw [List.filter_eq_nil_iff]
      intro i hi e
      have := List.mem_range.mp hi
      have := scratchKey_inj (side := side) (side' := side') (by omega) ho (of_decide_eq_true e)
      exact hc ⟨this.1.symm, by omega, by omega⟩
    rw [hf]
    simp

/-- What was stored is what is read. -/
theorem scratchRead_scratchPut (t : Team) (side off : Nat) (bs : List Byte) (h : off + bs.length ≤ 2 ^ 24) :
    scratchRead (scratchPut t side off bs) side off bs.length = bs := by
  apply List.ext_getElem
  · simp [scratchRead]
  · intro i h1 h2
    simp only [scratchRead, List.getElem_map, List.getElem_range]
    rw [scratchGet_scratchPut t side off bs side (off + i) h (by omega), if_pos ⟨rfl, by omega, by omega⟩]
    simp [List.getD_eq_getElem?_getD, h2]

end Sys2Proof.Machine
end

