-- ==== Sys2Proof/Laws/Traps.lean ====
section
/-! SUPPORT. Laws of taking an exception and of returning from one: each way in which `takeTrap` can go, and where the lanes are after
RETT. -/

namespace Sys2Proof.Machine

/-- A cause that DBGMASK names stops the team (R269). -/
theorem takeTrap_masked {s : State} {g : Nat} {x : Group} (n : Nat) (pc : Addr) (lanes : LMask) (t : Trap) (hg : group? s g = some x)
    (h : t.cause < 32) (hm : (bankReg s (teamPart s x.team) 0x1E7).getLsbD t.cause = true) :
    takeTrap s g n pc lanes t = debugStop s g n pc t := by
  simp [takeTrap, hg, h, hm]

/-- Without a trap vector the cause is escalated (R260). -/
theorem takeTrap_noVector {s : State} {g : Nat} {x : Group} (n : Nat) (pc : Addr) (lanes : LMask) (t : Trap) (hg : group? s g = some x)
    (hm : (bankReg s (teamPart s x.team) 0x1E7).getLsbD t.cause = false) (hv : tvec s (teamPart s x.team) = 0) :
    takeTrap s g n pc lanes t = escalate s g n pc t t.cause := by
  simp [takeTrap, hg, hm, hv]

/-- Without a free frame cause 0x15 is escalated (R258, R260). -/
theorem takeTrap_noFrame {s : State} {g : Nat} {x : Group} (n : Nat) (pc : Addr) (lanes : LMask) (t : Trap) (hg : group? s g = some x)
    (hm : (bankReg s (teamPart s x.team) 0x1E7).getLsbD t.cause = false) (hv : tvec s (teamPart s x.team) ≠ 0)
    (hf : 4 ≤ framesUsed x n) : takeTrap s g n pc lanes t = escalate s g n pc t 0x15 := by
  simp only [takeTrap, hg, hm, if_neg hv, if_pos hf, Bool.and_false, Bool.false_eq_true, if_false]

/-- Otherwise the slice enters the handler with a new frame (R257). -/
theorem takeTrap_frame {s : State} {g : Nat} {x : Group} (n : Nat) (pc : Addr) (lanes : LMask) (t : Trap) (hg : group? s g = some x)
    (hm : (bankReg s (teamPart s x.team) 0x1E7).getLsbD t.cause = false) (hv : tvec s (teamPart s x.team) ≠ 0)
    (hf : framesUsed x n < 4) :
    takeTrap s g n pc lanes t = modSlice s g n (fun y =>
      { y with frames := trapFrame t pc (tvec s (teamPart s x.team)) lanes :: y.frames, redo := [], wait := .none, stepping := false }) := by
  have hf' : ¬ 4 ≤ framesUsed x n := by omega
  simp only [takeTrap, hg, hm, if_neg hv, if_neg hf', Bool.and_false, Bool.false_eq_true, if_false]

/-- The handler starts at the vector with the given lanes and an empty divergence. -/
@[simp] theorem trapFrame_level (t : Trap) (pc vec : Addr) (lanes : LMask) :
    (trapFrame t pc vec lanes).level = { pc := vec, running := lanes, pending := [], parked := [] } := rfl
@[simp] theorem trapFrame_cause (t : Trap) (pc vec : Addr) (lanes : LMask) : (trapFrame t pc vec lanes).cause = t.cause := rfl
@[simp] theorem trapFrame_pc (t : Trap) (pc vec : Addr) (lanes : LMask) : (trapFrame t pc vec lanes).pc = pc := rfl
@[simp] theorem trapFrame_lanes (t : Trap) (pc vec : Addr) (lanes : LMask) : (trapFrame t pc vec lanes).lanes = lanes := rfl
@[simp] theorem trapFrame_tlanes (t : Trap) (pc vec : Addr) (lanes : LMask) : (trapFrame t pc vec lanes).tlanes = t.tlanes := rfl
@[simp] theorem trapFrame_tdone (t : Trap) (pc vec : Addr) (lanes : LMask) : (trapFrame t pc vec lanes).tdone = t.tdone := rfl
@[simp] theorem trapFrame_taddr (t : Trap) (pc vec : Addr) (lanes : LMask) : (trapFrame t pc vec lanes).taddr = t.taddr := rfl

/-- Lanes that must execute the instruction again run it; the others wait after it (R259). -/
theorem resumeLevel_redo (v : Level) (pc : Addr) (len : Nat) {redo : LMask} (done : LMask) (h : redo ≠ 0) :
    resumeLevel v pc len redo done =
      { v with pc := pc, running := redo, pending := addPending v.pending (pc + BitVec.ofNat 56 len) done } := by
  unfold resumeLevel
  rw [if_pos h]

/-- With none to execute it again the lanes go on past the instruction (R259). -/
theorem resumeLevel_done (v : Level) (pc : Addr) (len : Nat) (done : LMask) :
    resumeLevel v pc len 0 done = { v with pc := pc + BitVec.ofNat 56 len, running := done } := by
  simp [resumeLevel]

/-- The frame is freed. -/
@[simp] theorem returnFrame_level (x : Slice) (f : Frame) (rest : List Frame) (len : Nat) :
    levelOf (returnFrame x f rest len) =
      resumeLevel (levelOf { x with frames := rest }) f.pc len (f.lanes &&& ~~~f.tdone) (f.lanes &&& f.tdone) := by
  unfold returnFrame
  rw [levelOf_setLevel]
  cases rest <;> rfl

theorem returnFrame_frames (x : Slice) (f : Frame) (rest : List Frame) (len : Nat) : (returnFrame x f rest len).frames.length = rest.length := by
  unfold returnFrame setLevel
  cases rest <;> rfl

end Sys2Proof.Machine
end

