-- ==== Sys2Proof/Tests/Slice0.lean ====
section
/-! SUPPORT. The tests of this package: for each statement of the obligations a state that meets its hypotheses, the words of every
encoding written out from the spec, worked examples of the spec, and an ill-formed term for each check of WellFormed. -/

open Sys2Proof Sys2Proof.Machine

namespace Sys2Proof.Tests

set_option Elab.async false

/-- A slice of `n` at a counter, all its lanes running. -/
def slice (n : Nat) : Slice :=
  { prog := { pc := 0x2000, running := sliceMask n, pending := [], parked := [] }, frames := [], wait := .none, gang := 0, redo := [],
    halt := none, stepping := false, skipBrk := none }

/-- A group of team 1 with four lanes in wave slot 0. -/
def group : Group :=
  { team := 1, gidx := 0, width := 4, seats := [0], base := 0, regs := [], mode := 0, fstat := 0, merr0 := 0, merr1 := 0, view := 0,
    slices := [slice 0], exited := 0, queues := [], status := .run, ended := false, mesh := none, pix := none, pages := [], failed := [],
    fenced := 0, startClk := 0, spent := [], quiet := 0 }

def grip : Grip :=
  { regs := [], pc := 0x3000, ended := false, stopped := false, stepping := false, skipBrk := none, pend := none, halt := none,
    retired := 0, readyAt := 0, sleepUntil := 0, sleepTurns := 0, pages := [], failed := [], fenced := false }

def team : Team :=
  { launch := 0, no := 0, tx := 0, ty := 0, tz := 0, core := 0, lcore := 0, pair := false, scr := 4096, tmem := 12288, groups := [2],
    scratch := [], bad := [], windows := [], grip := some grip, stopped := false, killed := false, ended := false, stashErr := false,
    resizeAt := none, rszHeld := false, moving := none, doomed := false }

def words : List Word := [0x1FF8, 0, 0, 0, 0, 0, 0, 0x100, 0, 0, 4096, 12288, 0, 0, 0, 0]

def launch : Launch :=
  { part := 0, src := .queue 0, slot := 0, desc := none, words := words, exec := 0x2000, access := 0x2000, total := 1, started := 1,
    ended := 0, killed := false, complete := false, rehCore := none, rot := 0, hold := none }

def slot : Slot :=
  { launch := 0, retired := 0, lastGang := 0, asyncs := [], active := true, since := 0, readyAt := 0, order := 0, sleepTurns := 0,
    reclaim := false, map := [], lastNamed := 0, rob := [], stored := [], cached := [] }

/-- A translation of the first 2^40 bytes to themselves. -/
def entry : TlbEntry :=
  { part := 0, va := 0, bits := 40, frame := 0, r := true, w := true, x := true, g := true, dirty := true, entry := 0, desc := 0 }

def part : Part := { Part.reset with regs := [(0x190, 0x8000), (0x1E0, 1), (0x1E1, 1)] }

def core : Core := { Core.reset with tlb := [entry] }

/-- One team of one group on core 0, its first gang in focus, every function ready, and the first 2^40 bytes translated to themselves. -/
def base : State :=
  { State.reset with
    work := { Work.reset with groups := [(2, group)], slots := [(0, slot)], teams := [(1, team)], launches := [(0, launch)], nextId := 10 }
    units := { Units.reset with cores := [(0, core)], ready := 0x1FFF, dieTlb := [(0, entry)], parts := [(0, part)] }
    focus := .wave 0 0 }

/-- The same with the grip context in focus. -/
def gripBase : State := { base with focus := .grip 1 }



/-! ### Witnesses: integer, floating-point and cross-lane results -/

/-- The forms of the register instructions are ready at once: two sources with an E bit, one source, three sources, pairs, narrow FCVT,
the 16-bit forms, and the cross-lane sources. -/
theorem witness_forms :
    ready base (regForm true true false 0 1 2) && ready base (regForm false false true 55 54 3) && ready base (regForm1 true false 0 1) &&
    ready base (regForm1 false true 1 0) && ready base (regForm4 true 0 1 2 3) && ready base (regForm4 false 0 1 2 31) &&
    ready base { plainForm true with dst := some 3 } && ready base { plainForm true with dst := some 3, srcs := [src 3 3 false] } &&
    ready base { regForm4 true 2 4 6 3 with dst := none, pairs := [2] } &&
    ready base { grip := true, srcs := srcPair 0 4 false ++ srcPair 1 6 true, pairs := [2, 4, 6], dst := none, len := 4 } &&
    ready base { grip := true, srcs := srcPair 0 4 false ++ [src 1 7 false], pairs := [2, 4], dst := none, len := 4 } &&
    ready base { grip := true, srcs := [src 0 4 false, srcC 5], pairs := [], dst := some 3, len := 4 } &&
    ready base (halfForm true true 3 31) && ready base (halfForm true false 3 4) && ready base (halfForm false false 3 4) &&
    ready base { halfForm true false 3 4 with srcs := [src 1 (reg5 4) false] } && ready base (cvtForm .f32f16 false 3 4) &&
    ready base { grip := false, srcs := [srcX .bc 1 4], pairs := [], dst := some 3, len := 4 } &&
    ready base { grip := false, srcs := [srcX .up 1 4, src 1 5 false], pairs := [], dst := some 3, len := 4 } = true := by decide +kernel

/-- On the grip the same forms are ready, but for the floating-point and cross-lane ones. -/
theorem witness_forms_grip :
    ready gripBase (regForm true true false 0 1 2) && ready gripBase (regForm1 true false 0 1) && ready gripBase (halfForm true false 3 4) &&
    ready gripBase (plainForm true) = true := by decide +kernel

theorem witness_evenReg : evenReg 2 = true := by decide

/-- With MODE 0 no flag is enabled, whatever an operation raises. -/
theorem witness_noEnabledFlags :
    ∀ l ∈ issuing base, ∀ fl, fl < 32 → enabledFlags (laneMode base l) fl = 0 := by decide +kernel

/-- A mode that enables every flag, with an operand of 0, of which FEXP2 raises none. -/
def modeBase : State := modGroup base 2 (fun x => { x with mode := 0x1F0 })
theorem witness_flagsEnabled :
    ready modeBase (regForm1 false false 3 4) = true ∧ (∀ l ∈ issuing base, (laneMode base l).toNat / 16 % 32 = 0) ∧
    (∀ l ∈ issuing modeBase, (laneMode modeBase l).toNat / 16 % 32 ≠ 0) ∧
    ∀ l ∈ issuing modeBase, enabledFlags (laneMode modeBase l) (sfuExp2 (modeFtz (laneMode modeBase l))
      (operand modeBase (regForm1 false false 3 4) l 0)).2 = 0 := by decide +kernel

theorem witness_finite : isFin (.fin true 3 2) = true ∧ isFin (.fin false 0 1) = true := by decide

/-- One third does not overflow; nor does 65,520 under rtz in FP16, the largest case of its range. -/
theorem witness_rounding :
    isFin (decodeFp fp32 (roundFp fp32 .rne false (.fin false 1 3)).1) = true ∧ (roundFp fp32 .rne false (.fin false 1 3)).2 / 4 % 2 = 0 ∧
    isFin (decodeFp fp16 (roundFp fp16 .rtz false (.fin true 65504 1)).1) = true ∧ (roundFp fp16 .rtz false (.fin true 65504 1)).2 / 4 % 2 = 0 ∧
    isFin (decodeFp bf16 0x7F7F) = true := by decide +kernel

theorem witness_crossLane :
    LaneId.wave 2 3 ∈ issuing base ∧ (group? base 2).isSome = true ∧ (4 : Reg).toNat < 56 := by decide +kernel

/-! ### Witnesses: control -/

theorem witness_branches :
    ready base (braForm false 4) = true ∧ ready base (plainForm true) = true ∧
    ready base { plainForm true with srcs := srcPair 0 4 false, pairs := [4] } = true ∧
    ∀ l ∈ issuing base, (operandWide base { plainForm true with srcs := srcPair 0 4 false, pairs := [4] } l 0).toNat < 2 ^ 56 ∧
      (operandWide base { plainForm true with srcs := srcPair 0 4 false, pairs := [4] } l 0).toNat % 2 = 0 := by decide +kernel

/-- The base with one lane running. -/
def oneLane (s : State) : State := modSlice s 2 0 (fun x => { x with prog := { x.prog with running := 1 } })

/-- A table at 0x4000 with two targets, its entry 0 naming a REGANG at 0x2100; v2 and v3 hold its address and v1 the index 1. -/
def brxState : State :=
  modGroup { oneLane base with
    mem := memPuts (memPuts (memPuts [] 0x2100 (leBytes 4 0x1004D)) 0x4000 (leBytes 8 (2 * 2 ^ 56 + 0x2100))) 0x4010 (leBytes 8 0x2200) } 2
    (fun x => { x with regs := [(64, .full 1 false), (128, .full 0x4000 false)] })
def brxForm : Form := { plainForm true with srcs := [src 0 1 false, srcN 1 2 0 false true, srcN 1 2 1 false true], pairs := [2] }
theorem witness_table :
    ready brxState brxForm = true ∧
    (∀ l ∈ issuing brxState, let i := (operand brxState brxForm l 0).toNat; let t := (operandWide brxState brxForm l 1).toNat
      t % 8 = 0 ∧ (0x2200 : Addr).toNat % 2 = 0 ∧ ∃ e w, laneRead brxState l t 8 = .ok e ∧
        fetchBytes brxState (laneCore brxState l) (lanePart brxState l) (BitVec.ofNat 56 (leNat e)) = .ok w ∧ isRegang w = true ∧
        leNat e % 2 = 0 ∧ i < leNat e / 2 ^ 56 ∧ ∃ e', laneRead brxState l (t + 8 * (i + 1)) 8 = .ok e' ∧ leNat e' = (0x2200 : Addr).toNat) ∧
    ∀ l ∈ issuing brxState, accessHeld brxState l = false := by
  refine ⟨by decide +kernel, ?_, by decide +kernel⟩
  have h : issuing brxState = [.wave 2 0] := by decide +kernel
  rw [h]
  intro l hl
  simp only [List.mem_singleton] at hl
  subst hl
  exact ⟨by decide +kernel, by decide, leBytes 8 (2 * 2 ^ 56 + 0x2100), leBytes 4 0x1004D, by decide +kernel, by decide +kernel,
    by decide +kernel, by decide +kernel, by decide +kernel, leBytes 8 0x2200, by decide +kernel, by decide +kernel⟩

/-- REGANG with a pending entry; with one parked entry of its own; and with every lane of the group at it. -/
def regangPending : State :=
  modSlice base 2 0 (fun x => { x with prog := { x.prog with running := 3, pending := [⟨0x2080, 12⟩] } })
def regangParked : State :=
  modSlice base 2 0 (fun x => { x with prog := { x.prog with running := 3, parked := [⟨0x2000, true, 12⟩] } })
theorem witness_regang :
    ready regangPending (plainForm true) = true ∧ (slice? regangPending 2 0).map (fun x => (x.frames, x.prog.pending)) = some ([], [⟨0x2080, 12⟩]) ∧
    ready regangParked (plainForm true) = true ∧
    (slice? regangParked 2 0).map (fun x => (x.frames, x.prog.pending, x.prog.parked)) = some ([], [], [⟨0x2000, true, 12⟩]) ∧
    LaneId.grip 1 ∈ issuing gripBase := by decide +kernel
theorem witness_regang_group :
    ∀ x, group? base 2 = some x → ∀ e ∈ liveSlices x, e.2.frames = [] ∧ e.2.halt = none ∧ e.2.wait = .none ∧ e.2.prog.pending = [] ∧
      e.2.prog.pc = 0x2000 ∧ e.2.prog.parked = [] := by decide +kernel

theorem witness_exit :
    (slice? regangPending 2 0).map (fun x => (12 : LMask) &&& ~~~x.prog.running) = some 12 ∧ LaneId.wave 2 0 ∈ issuing regangPending := by
  decide +kernel

/-- A group of two slices, of which the second waits at barrier 3 or runs elsewhere. -/
def twoSlices (w : Wait) : State :=
  modGroup base 2 (fun x => { x with width := 8, slices := [slice 0, { slice 1 with wait := w, gang := 1 }] })
theorem witness_barriers :
    ready base (plainForm false) = true ∧ (∀ l ∈ issuing base, laneHandler base l = false) ∧
    ready (twoSlices (.bar 3)) (plainForm false) = true ∧ ready (twoSlices .teamBar) (plainForm false) = true ∧
    ready (twoSlices .none) (plainForm false) = true ∧
    ((group? (twoSlices (.bar 3)) 2).map liveSlices).map (fun ls => ls.map (fun e => (e.1, e.2.wait))) = some [(0, .none), (1, .bar 3)] ∧
    ((group? (twoSlices .none) 2).map liveSlices).map (fun ls => ls.map (fun e => (e.1, e.2.wait))) = some [(0, .none), (1, .none)] ∧
    (group? (twoSlices .teamBar) 2).map (·.team) = some 1 := by decide +kernel

/-- A core above its migration threshold. -/
def hotBase : State := modCore base 0 (fun k => { k with therm := true })
theorem witness_yield :
    ready base (plainForm true) = true ∧ laneMigreq base (.wave 2 0) = 0 ∧ ready hotBase (plainForm true) = true ∧
    laneMigreq hotBase (.wave 2 0) ≠ 0 ∧ ready gripBase (plainForm true) = true := by decide +kernel

theorem witness_fence :
    ready base (plainForm true) = true ∧
    ∀ l ∈ issuing base, stashAbsent base (laneTeam base l) (laneSide base l) (fun _ => true) = none := by decide +kernel

/-- A copy of the grip's team in its core's queue. -/
def copyBase : State :=
  modCore gripBase 0 (fun k => { k with copies := [{ team := 1, cmd := [], dest := none, parts := 0, swap := none, moved := false }] })
theorem witness_qfence :
    ready copyBase (plainForm true) = true ∧ (LaneId.grip 1 ∈ issuing copyBase ∧ joins copyBase (.grip 1) 0 = true) ∧
    ready base (plainForm true) = true ∧ ∀ l ∈ issuing base, ∀ b, b < 8 → joins base l b = false := by decide +kernel

/-! ### Witnesses: exceptions and one step -/

/-- A slice in a handler whose frame says that lanes 2 and 3 completed. -/
def frame : Frame :=
  { cause := 0x0D, pc := 0x2000, lanes := 15, tlanes := 3, tdone := 12, taddr := [], pops := [], hregs := [],
    level := { pc := 0x8000, running := 15, pending := [], parked := [] } }
def handlerBase : State := modSlice base 2 0 (fun x => { x with frames := [frame] })

theorem one_group (s : State) (g : Nat) (h : ∀ l ∈ issuing s, inGroup g l = true) : ∀ k n, sliceIssues s k n → k = g := by
  rintro k n ⟨i, hi, _⟩
  have := h _ hi
  simpa [inGroup] using this

/-- Cause `c` of the base's one slice has a handler and a frame. -/
theorem trapsFit_of (s : State) (c : Nat) (hw : (issuing s).all (inGroup 2) = true)
    (hp : ((group? s 2).map (fun y => (List.range 16).all (fun n =>
      !(bankReg s (teamPart s y.team) 0x1E7).getLsbD c && (tvec s (teamPart s y.team) != 0) &&
        decide (framesUsed y n + slicesIssuing s 2 ≤ 4)))).getD false = true)
    (hl : (issuing s).all (fun l => decide (lidxOf l < 64)) = true) : trapsFit s c := by
  rintro g n x hs hx
  obtain rfl := one_group s 2 (by simpa using hw) g n hs
  obtain ⟨i, hi, rfl⟩ := hs
  have hi' : i < 64 := of_decide_eq_true ((List.all_eq_true.mp hl) _ hi)
  rw [hx] at hp
  simp only [Option.map_some, Option.getD_some, List.all_eq_true] at hp
  have := hp (i / 4) (by simp; omega)
  simp only [Bool.and_eq_true, Bool.not_eq_true', bne_iff_ne, decide_eq_true_eq] at this
  exact ⟨this.1.1, this.1.2, this.2⟩

theorem witness_traps :
    ready base (plainForm true) = true ∧ trapsFit base 0x0D ∧ trapsFit base 0x0E ∧ (∀ l ∈ issuing base, brkPassed base l = false) :=
  ⟨by decide +kernel, trapsFit_of _ _ (by decide +kernel) (by decide +kernel) (by decide +kernel),
    trapsFit_of _ _ (by decide +kernel) (by decide +kernel) (by decide +kernel), by decide +kernel⟩

/-- A slice whose next BRK a debugger's RESUME lets pass. -/
def passBase : State := modSlice base 2 0 (fun x => { x with skipBrk := some (0x2000, 0) })
theorem witness_brkPassed : ready passBase (plainForm true) = true ∧ ∀ l ∈ issuing passBase, brkPassed passBase l = true := by decide +kernel

theorem witness_rett :
    ready handlerBase (plainForm false) = true ∧ (slice? handlerBase 2 0).map rettOk = some true ∧
    (slice? handlerBase 2 0).map (·.frames) = some [frame] ∧ issuing handlerBase = [.wave 2 0, .wave 2 1, .wave 2 2, .wave 2 3] := by
  decide +kernel

/-- Partition 0 without a trap vector, and with cause 0x0D named in its debug mask. -/
def noVector : State := setBankReg base 0 0x190 0
def masked : State := setBankReg base 0 0x1E7 0x2000
theorem witness_escalation :
    ready noVector (plainForm true) = true ∧ tvec noVector 0 = 0 ∧ (bankReg noVector 0 0x1E7).getLsbD 0x0D = false ∧
    ready masked (plainForm true) = true ∧ (bankReg masked 0 0x1E7).getLsbD 0x0D = true ∧
    ready gripBase (plainForm true) = true ∧ (grip? gripBase 1).isSome = true ∧ (bankReg gripBase 0 0x1E7).getLsbD 0x0D = false := by
  decide +kernel

/-- The base with a word at its counter, and its wave first on the agenda. -/
def placed (w : Nat) : State := { base with mem := memPuts [] 0x2000 (leBytes 4 w), agenda := [.issue (.wave 0 0)], focus := .none }
/-- What issues there. -/
def chosen (w : Nat) : State := { renamed { placed w with agenda := [] } 0 0 with focus := .wave 0 0 }

theorem chosen_spec (w : Nat) (ho : (placed w).units.power.opened = none) (h : focusReh { placed w with agenda := [] } (.wave 0 0) = none)
    (h' : quadOrder (renamed { placed w with agenda := [] } 0 0) 0 0 = [⟨0, 0, 0, false⟩])
    (h'' : gangMay (renamed { placed w with agenda := [] } 0 0) 0 0 = true) : Chosen (placed w) (chosen w) 0 0 0 [] :=
  ⟨0, 0, [], rfl, ho, h, by simpa [slotCore, slotQuad] using h', by simpa [slotCore, slotQuad] using h'', rfl⟩

/-- The wave issues IADDI v3, v4, #-1. -/
theorem witness_step :
    Chosen (placed 0xFF808185) (chosen 0xFF808185) 0 0 0 [] ∧ (issuing (chosen 0xFF808185)).head? = some (.wave 2 0) ∧
    fetchBytes (chosen 0xFF808185) 0 0 0x2000 = .ok (leBytes 4 0xFF808185) ∧
    (decode (leBytes 4 0xFF808185)).toOption = some (.iaddi false 3 4 0x1FF, []) :=
  ⟨chosen_spec _ (by decide +kernel) (by decide +kernel) (by decide +kernel) (by decide +kernel), by decide +kernel, by decide +kernel, by decide +kernel⟩

/-- The wave meets the word 1, which is no instruction. -/
theorem witness_badWord :
    Chosen (placed 1) (chosen 1) 0 0 0 [] ∧ (issuing (chosen 1)).head? = some (.wave 2 0) ∧ groupsFit (chosen 1) = true ∧
    fetchBytes (chosen 1) 0 0 0x2000 = .ok (leBytes 4 1) ∧ (decode (leBytes 4 1)).toOption = none ∧ trapsFit (chosen 1) 1 :=
  ⟨chosen_spec _ (by decide +kernel) (by decide +kernel) (by decide +kernel) (by decide +kernel), by decide +kernel, by decide +kernel, by decide +kernel,
    by decide +kernel, trapsFit_of _ _ (by decide +kernel) (by decide +kernel) (by decide +kernel)⟩

/-- The grip context with a word at its counter. -/
def gripPlaced (w : Nat) : State := { base with mem := memPuts [] 0x3000 (leBytes 4 w), agenda := [.issue (.grip 1)], focus := .none }
/-- The grip context's issue. -/
def gripChosen (w : Nat) : State := { gripPlaced w with agenda := [], focus := .grip 1 }
theorem gripChosen_spec (w : Nat) (ho : (gripPlaced w).units.power.opened = none) (h : focusReh { gripPlaced w with agenda := [] } (.grip 1) = none)
    (h' : gripsReady { gripPlaced w with agenda := [] } 0 = [1]) : GripChosen (gripPlaced w) (gripChosen w) 1 [] :=
  ⟨1, team, [], rfl, ho, h, rfl, h', rfl, rfl⟩
theorem witness_gripStep :
    (GripChosen (gripPlaced 1) (gripChosen 1) 1 [] ∧ GripChosen (gripPlaced 0x00010071) (gripChosen 0x00010071) 1 []) ∧
    issuing (gripChosen 1) = [.grip 1] ∧ fetchBytes (gripChosen 1) 0 0 0x3000 = .ok (leBytes 4 1) ∧
    fetchBytes (gripChosen 0x00010071) 0 0 0x3000 = .ok (leBytes 4 0x00010071) ∧ (decode (leBytes 4 1)).toOption = none ∧
    (decode (leBytes 4 0x00010071)).toOption.isSome = true ∧ (bankReg (gripChosen 1) 0 0x1E7).getLsbD 1 = false :=
  ⟨⟨gripChosen_spec _ (by decide +kernel) (by decide +kernel) (by decide +kernel),
    gripChosen_spec _ (by decide +kernel) (by decide +kernel) (by decide +kernel)⟩, by decide +kernel, by decide +kernel, by decide +kernel,
    by decide +kernel, by decide +kernel, by decide +kernel⟩

/-- A management core that runs may issue. -/
def mgmtBase : State :=
  { base with units := { base.units with mgmt := [{ Mgmt.reset with running := true, pc := 0x3000 }, Mgmt.reset] }, focus := .mgmt 0 }
theorem witness_mgmtStep : mgmtMay mgmtBase 0 = true ∧ issuing mgmtBase = [.mgmt 0] ∧ mgmtBase.units.power.opened = none := by decide +kernel

theorem witness_sixteenBit :
    groupsFit base = true ∧ (∀ l ∈ issuing base, laneElem base l 0 = .full 0 false) ∧
    laneElem (modGroup base 2 (fun x => { x with regs := [(0, .empty 7)] })) (.wave 2 0) 0 = .empty 7 := by decide +kernel

theorem witness_encoding :
    (Instr.iaddi false 3 4 0x1FF).wellFormed = true ∧ (Instr.iaddi false 3 4 0x1FF).encodable = true ∧
    Memory.wf base.mem = true ∧ groupsFit base = true ∧ isNext (step (placed 0xFF808185)) = true := by decide +kernel


/-! ### Witnesses: the conditions of operands, and control registers -/

/-- Registers of the base group: register `r` of each lane holds what `f` gives. -/
def withRegs (s : State) (rs : List (Nat × Elem)) : State :=
  modGroup s 2 (fun x => { x with regs := rs.foldl (fun t e => (List.range 4).foldl (fun t i => tput t (64 * e.1 + i) e.2) t) x.regs })
/-- v1 awaits a result; v1 is poisoned; only lanes 0 and 1 await. -/
def emptyBase : State := withRegs base [(1, .empty 7)]
def poisonBase : State := withRegs base [(1, .full 5 true)]
def halfEmpty : State := modGroup base 2 (fun x => { x with regs := [(64, .empty 7), (65, .empty 7)] })
theorem witness_operands :
    groupsFit base = true ∧ issuing base ≠ [] ∧
    (∀ l ∈ issuing emptyBase, gather emptyBase (issuing emptyBase) [src 0 1 false, src 1 2 false] l (src 0 1 false) = .elem (.empty 7)) ∧
    (∀ l ∈ issuing poisonBase, gather poisonBase (issuing poisonBase) [src 0 1 false, src 1 2 false] l (src 0 1 false) = .elem (.full 5 true) ∧
      gather poisonBase (issuing poisonBase) [src 0 1 false, src 1 2 false] l (src 1 2 false) = .elem (.full 0 false)) ∧
    (∀ l ∈ issuing halfEmpty, gather halfEmpty (issuing halfEmpty) [src 0 1 true, src 1 2 false] l (src 0 1 true) =
      if lidxOf l < 2 then .elem (.empty 7) else .elem (.full 0 false)) ∧
    (∀ l ∈ issuing base, gather base (issuing base) [src 0 56 false, src 1 2 false] l (src 0 56 false) = .misuse ∧
      gather base (issuing base) [src 0 56 false, src 1 2 false] l (src 1 2 false) = .elem (.full 0 false)) := by decide +kernel
theorem witness_operand_traps :
    trapsFit halfEmpty 3 ∧ trapsFit poisonBase 0x10 ∧ trapsFit base 0x11 ∧ ∀ l ∈ issuing base, laneHandler base l = false :=
  ⟨trapsFit_of _ _ (by decide +kernel) (by decide +kernel) (by decide +kernel),
    trapsFit_of _ _ (by decide +kernel) (by decide +kernel) (by decide +kernel),
    trapsFit_of _ _ (by decide +kernel) (by decide +kernel) (by decide +kernel), by decide +kernel⟩

/-- FADD of 2^127 twice overflows while its flag is enabled. -/
def floatTrap : State := withRegs (modGroup base 2 (fun x => { x with mode := 0x1F0 })) [(1, .full 0x7F000000 false)]
theorem witness_contexts :
    (∀ l ∈ issuing handlerBase, laneHandler handlerBase l = true) ∧ (∀ l ∈ issuing base, laneHandler base l = false) ∧
    trapsFit handlerBase 1 ∧ trapsFit base 1 ∧ trapsFit base 2 ∧ trapsFit floatTrap 0x0B ∧ issuing gripBase = [.grip 1] ∧
    (bankReg gripBase 0 0x1E7).getLsbD 1 = false ∧ (bankReg gripBase 0 0x1E7).getLsbD 2 = false ∧
    (encode (.bar 3)).isSome = true ∧ (encode .rett).isSome = true :=
  ⟨by decide +kernel, by decide +kernel, trapsFit_of _ _ (by decide +kernel) (by decide +kernel) (by decide +kernel),
    trapsFit_of _ _ (by decide +kernel) (by decide +kernel) (by decide +kernel),
    trapsFit_of _ _ (by decide +kernel) (by decide +kernel) (by decide +kernel),
    trapsFit_of _ _ (by decide +kernel) (by decide +kernel) (by decide +kernel), by decide +kernel, by decide +kernel, by decide +kernel,
    by decide +kernel, by decide +kernel⟩
theorem witness_enabledFlag :
    ready floatTrap (regForm false false false 3 1 1) = true ∧ ∀ l ∈ issuing floatTrap, enabledFlags (laneMode floatTrap l)
      (put32 (modeRm (laneMode floatTrap l)) (laneMode floatTrap l) (numAdd (modeRm (laneMode floatTrap l))
        (rd32 (laneMode floatTrap l) (operand floatTrap (regForm false false false 3 1 1) l 0))
        (rd32 (laneMode floatTrap l) (operand floatTrap (regForm false false false 3 1 1) l 1)))).2 ≠ 0 := by decide +kernel

/-- SYSRD of FSTAT, of a frame register in and out of a handler, on the grip, and on a management core; CYC on each. -/
theorem witness_sysrd :
    ready base { plainForm true with dst := some 3 } = true ∧ (∀ l ∈ issuing base, flagsInFlight base l = false) ∧
    (∀ l ∈ issuing base, ((group? base 2).bind (fun x => x.slices[lidxOf l / 4]?)).map (·.frames) = some []) ∧
    ready handlerBase { plainForm true with dst := some 3 } = true ∧
    (slice? handlerBase 2 0).map (·.frames) = some [frame] ∧ ready gripBase { plainForm true with dst := some 3 } = true ∧
    issuing gripBase = [.grip 1] ∧ ready mgmtBase { plainForm true with dst := some 3 } = true ∧ issuing mgmtBase = [.mgmt 0] ∧
    (regSpec 0x150).isSome = true := by decide +kernel

/-- SYSWR of MODE, with a reserved bit, of FSTAT, MERRLOG0, EVPHASE and TDONE, and on a management core. -/
def syswrForm : Form := { plainForm true with srcs := [srcOne 0 4 false] }
theorem witness_syswr :
    ready base syswrForm = true ∧ (∀ l ∈ issuing base, (operand base syswrForm l 0).toNat < 8) ∧
    ready (withRegs base [(4, .full 0x200 false)]) syswrForm = true ∧
    (∀ l ∈ issuing (withRegs base [(4, .full 0x200 false)]), 512 ≤ (operand (withRegs base [(4, .full 0x200 false)]) syswrForm l 0).toNat) ∧
    ready (withRegs base [(4, .full 0x80000000 false)]) syswrForm = true ∧
    (∀ l ∈ issuing (withRegs base [(4, .full 0x80000000 false)]),
      operand (withRegs base [(4, .full 0x80000000 false)]) syswrForm l 0 = 0x80000000) ∧
    ready handlerBase syswrForm = true ∧ leadLane (issuing handlerBase) (.wave 2 3) = .wave 2 0 ∧
    ready mgmtBase syswrForm = true ∧ (operand mgmtBase syswrForm (.mgmt 0) 0).toNat &&& 0xFFFFFE00 = (operand mgmtBase syswrForm (.mgmt 0) 0).toNat := by
  decide +kernel
theorem oneGroup_base : OneGroup base := by unfold OneGroup; decide +kernel

/-! ### Witnesses: leases -/

/-- A lease of cluster 0, held by the base's wave slot or by another. -/
def leaseBase (k : Nat) : State := setCluster base 0 { Cluster.reset with lease := some { slots := [k], team := 1, us := 0 } }
theorem witness_leases :
    ready base { plainForm false with dst := some 3 } = true ∧ (group? base 2).map (fun x => decide (x.exited = allLanes x)) = some false ∧
    ready (leaseBase 0) (plainForm false) = true ∧ (clusterOf (leaseBase 0) 0).lease.map (·.slots) = some (laneHolder (leaseBase 0) (.wave 2 0)) ∧
    (clusterOf (leaseBase 5) 0).lease.map (·.slots) ≠ some (laneHolder (leaseBase 5) (.wave 2 0)) := by decide +kernel
theorem witness_leaseQuery :
    base.units.ready.getLsbD 11 = true ∧ ({ base with units := { base.units with ready := 0x7FF } } : State).units.ready.getLsbD 11 = false ∧
    ready { base with units := { base.units with ready := 0x7FF } } { plainForm false with dst := some 3 } = true := by decide +kernel

/-- A tick that reaches the refreeze threshold, one below it, and one in a refreeze interval. -/
def powered (n : Nat) (r : Bool) : State :=
  { base with units := { base.units with power := { Power.reset with meltMicroJ := n, refreeze := r } } }
theorem witness_powerTick :
    (powered 216003000000 false).units.ready.getLsbD 11 = true ∧ 58983 ≤ meltf (powered 216003000000 false) ∧
    meltf (powered 0 false) < 58983 ∧ (powered 0 true).units.power.refreeze = true := by decide +kernel

/-- A slice that has asked for a lease of 64 × 5 microseconds before the latest tick, whose decisions are open. -/
def asked : State :=
  let s := modSlice base 2 0 (fun x => { x with wait := .lease 3 5 0 })
  { s with units := { s.units with power := { Power.reset with ticks := 1, opened := some 0 } } }
theorem witness_leaseDecision :
    asked.units.power.opened.isSome = true ∧ expiredLeases asked = [] ∧ (leaseWaiters asked).head? = some 0 ∧
    (slotSliceList asked 0).map (fun e => (e.1, e.2.1, leaseAsked asked e.2.2)) = [(2, 0, some (3, 5))] := by decide +kernel
theorem witness_leaseExpiry :
    let s := { leaseBase 0 with units := { (leaseBase 0).units with power := { Power.reset with opened := some 0 } } }
    s.units.power.opened.isSome = true ∧ (expiredLeases s).contains 0 = true ∧
      (clusterOf s 0).lease.map (fun l => (l.slots, l.team)) = some ([0], 1) ∧ (slot? s 0).isSome = true := by decide +kernel

/-! ### Witnesses: memory -/

theorem tget?_mem {α : Type} {t : Tab α} {k : Nat} {x : α} (h : tget? t k = some x) : (k, x) ∈ t := by
  induction t with
  | nil => simp [tget?] at h
  | cons e rest ih =>
    obtain ⟨k', v⟩ := e
    simp only [tget?] at h
    split at h
    · cases h; simp_all
    · exact List.mem_cons_of_mem _ (ih h)

/-- A state without late accesses, tags, windows, own bytes and L1 sectors is calm. -/
theorem calm_of (s : State) (wf : Memory.wf s.mem = true) (late : s.late = []) (now : s.deferring = none)
    (rings : ∀ l ∈ issuing s, awaitsRing s l = false) (homes : ∀ x ∈ s.units.l2, x.own = []) (tags : s.units.tags = [])
    (teams : ∀ e ∈ s.work.teams, e.2.windows = []) (l1 : ∀ e ∈ s.units.cores, e.2.l1 = []) : Calm s where
  wf := wf
  late := late
  now := now
  rings := rings
  homes := homes
  tags := tags
  windows k x h := teams _ (tget?_mem h)
  lists := teams
  sectors c x hx := by
    have : (coreOf s c).l1 = [] := by
      unfold coreOf tgetD
      cases h : tget? s.units.cores c with
      | none => rfl
      | some y => exact l1 _ (tget?_mem h)
    rw [this] at hx
    exact absurd hx (List.not_mem_nil)

theorem calm_base : Calm base :=
  calm_of _ (by decide +kernel) (by decide) (by decide) (by decide +kernel) (by decide) (by decide) (by decide) (by decide +kernel)

/-- Whether a TLB answers a lane's access at once with an address and a G bit. -/
def hitAt (s : State) (l : LaneId) (va : Nat) (a : Acc) (pa : Nat) (g : Bool) : Bool :=
  match tlbHit s (laneCore s l) (lanePart s l) va a with
  | some e => decide (reach s va e = .ok pa e.g) && e.g == g
  | none => false
theorem hitsAt_of {s : State} {l : LaneId} {va : Nat} {a : Acc} {pa : Nat} {g : Bool} (h : hitAt s l va a pa g = true) : HitsAt s l va a pa g := by
  unfold hitAt at h
  split at h
  · rename_i e he
    simp only [Bool.and_eq_true, decide_eq_true_eq, beq_iff_eq] at h
    exact ⟨e, he, h.1, h.2⟩
  · cases h
theorem hits_of {s : State} {l : LaneId} {va : Nat} {a : Acc} {pa : Nat} {g : Bool} (h : hitAt s l va a pa g = true) : Hits s l va a pa := by
  obtain ⟨e, h1, h2, _⟩ := hitsAt_of h
  exact ⟨e, h1, h2⟩

/-- Whether a core's TLB answers accesses to a range at once. -/
def mappedAt (s : State) (core p va n pa : Nat) (as : List Acc) : Bool :=
  (List.range n).all (fun i => as.all (fun a => match tlbHit s core p (va + i) a with
    | some e => decide (reach s (va + i) e = .ok (pa + i) e.g)
    | none => false))
theorem mapped_of {s : State} {core p va n pa : Nat} {as : List Acc} (h : mappedAt s core p va n pa as = true) : Mapped s core p va n pa as := by
  intro i hi a ha
  have h1 := List.all_eq_true.mp (List.all_eq_true.mp h i (List.mem_range.mpr hi)) a ha
  split at h1
  · exact ⟨_, by assumption, of_decide_eq_true h1⟩
  · cases h1

/-- Whether a translation succeeds. -/
def isOk (r : Trans) : Bool := match r with | .ok _ _ => true | _ => false
theorem ok_of {r : Trans} (h : isOk r = true) : ∃ pa g, r = .ok pa g := by
  cases r <;> first | exact ⟨_, _, rfl⟩ | cases h

/-- Four lanes at one address: LD, ST and ATOM of a word there. -/
def ldForm : Form := loadForm (srcPair 0 2 false) [2] .b32 0
def stForm : Form := loadForm (srcPair 0 2 false ++ dataSrcs .b32 0) [2] .b32 0
theorem witness_ld :
    ready base ldForm = true ∧ (Instr.ld .b32 .grp false false 0 2 0).wellFormed = true ∧
    (∀ l ∈ issuing base, operand2 base ldForm l 0 = 0 ∧ awaitsRing base l = false ∧ isOk (laneTrans base l 0 .r) = true) ∧
    ∀ l ∈ issuing base, hitAt base l 0 .r 0 true = true := by decide +kernel
theorem witness_st :
    ready base stForm = true ∧ (Instr.st .b32 .dev false false 0 2 0).wellFormed = true ∧
    (∀ l ∈ issuing base, operand2 base stForm l 0 = 0 ∧ awaitsRing base l = false ∧ isOk (laneTrans base l 0 .w) = true ∧
      releaseAbsent base l .dev false = none) ∧ ∀ l ∈ issuing base, hitAt base l 0 .w 0 true = true := by decide +kernel
theorem witness_oneHome : OneHome base (fun _ => 0) (fun _ => true) :=
  ⟨by decide +kernel, by decide +kernel, by decide +kernel⟩
theorem witness_issueOrder : issuing base = [.wave 2 0, .wave 2 1, .wave 2 2] ++ .wave 2 3 :: [] := by decide +kernel

/-- A lane of a wave or of the grip. -/
def notMgmt (l : LaneId) : Bool := match l with | .mgmt _ => false | _ => true
theorem notMgmt_spec {l : LaneId} (h : notMgmt l = true) (m : Nat) : l ≠ .mgmt m := by
  rintro rfl
  cases h

/-- Four lanes at offset 0 of the team's scratchpad. -/
theorem scratch_base : ∀ l ∈ issuing base, ScratchAt base l 0 4 1 team 0 0 := by
  intro l hl
  have h : ∀ l ∈ issuing base, notMgmt l = true ∧ laneTeam base l = 1 ∧ laneSide base l = 0 := by decide +kernel
  obtain ⟨h1, h2, h3⟩ := h l hl
  exact ⟨notMgmt_spec h1, h2.symm, by decide +kernel, by decide, by decide, by decide, .inl ⟨by decide, rfl, h3.symm⟩⟩
theorem witness_ldl :
    ready base (loadForm [src 0 4 false] [] .b32 0) = true ∧ ready base (loadForm (src 0 4 false :: dataSrcs .b32 0) [] .b32 0) = true ∧
    ∀ l ∈ issuing base, scratchAct base l 0 4 (.done [] 0 none) = .done [] 0 none := by decide +kernel

/-- One lane for an atomic, so that no two lanes name one word. -/
def atomForm : Form := { grip := true, srcs := srcPair 0 2 false ++ atomSrcs .add 4, pairs := 2 :: atomPairs .add 4, dst := some 0, len := 4 }
theorem witness_atom :
    let s := oneLane base
    (Instr.atom .add .dev true 0 2 4).wellFormed = true ∧ ready s atomForm = true ∧ (issuing s).Nodup ∧ issuing s = [.wave 2 0] ∧
      operand2 s atomForm (.wave 2 0) 0 = 0 ∧ awaitsRing s (.wave 2 0) = false ∧ isOk (laneTrans s (.wave 2 0) 0 .rw) = true ∧
      releaseAbsent s (.wave 2 0) .dev true = none ∧ hitAt s (.wave 2 0) 0 .rw 0 true = true := by decide +kernel
theorem witness_atomHome : OneHome (oneLane base) (fun _ => 0) (fun _ => true) := ⟨by decide +kernel, by decide +kernel, by decide +kernel⟩
theorem calm_oneLane : Calm (oneLane base) :=
  calm_of _ (by decide +kernel) (by decide) (by decide) (by decide +kernel) (by decide) (by decide) (by decide) (by decide +kernel)
theorem witness_atoml :
    (Instr.atoml .cas false false 0 4 6).wellFormed = true ∧
    ready (oneLane base) { grip := true, srcs := src 0 4 false :: atomSrcs .cas 6, pairs := atomPairs .cas 6, dst := some 0, len := 4 } = true ∧
    scratchAct (oneLane base) (.wave 2 0) 0 4 (.done [] 0 none) = .done [] 0 none := by decide +kernel

/-! ### Witnesses: cache lines and stash windows -/

/-- An L1 sector of the line at 0 with one dirty byte. -/
def sectorBase : State :=
  modCore (oneLane base) 0 (fun k => { k with l1 := [{ pa := 0, part := 0, g := true, data := List.replicate 128 7, dirty := 1 }] })
theorem oneView_of (s : State) (wf : Memory.wf s.mem = true) (late : s.late = []) (homes : ∀ x ∈ s.units.l2, x.own = [])
    (tags : s.units.tags = []) (teams : ∀ e ∈ s.work.teams, e.2.windows = []) : OneView s :=
  ⟨wf, late, tags, homes, fun _ _ h => teams _ (tget?_mem h), teams⟩
theorem witness_cline :
    ready sectorBase (clineForm false 2) = true ∧ issuing sectorBase = [.wave 2 0] ∧ operand2 sectorBase (clineForm false 2) (.wave 2 0) 0 = 0 ∧
    isOk (laneTrans sectorBase (.wave 2 0) 0 .any) = true ∧ hitAt sectorBase (.wave 2 0) 0 .any 0 true = true ∧
    hitAt sectorBase (.wave 2 0) 0 .r 0 true = true ∧ paTarget sectorBase 0 = .local ∧ sectorBase.units.l2 = [] ∧
    (coreOf sectorBase 0).l1.map (fun x => (x.pa, x.dirty)) = [(0, 1)] := by decide +kernel
theorem oneView_sector : OneView sectorBase :=
  oneView_of _ (by decide +kernel) (by decide) (by decide) (by decide) (by decide)

/-- A record at offset 0 that names the 256 bytes from 0x1000 and the scratchpad from 512. -/
def recordBase : State :=
  modTeam (oneLane base) 1 (fun x => { x with scratch := (leBytes 8 0x1000 ++ leBytes 4 512 ++ leBytes 4 256).zipIdx.map (fun e => (e.2, e.1)) })
def mapForm : Form := { plainForm true with srcs := [srcOne 3 5 false, srcOne 0 4 false], dst := some 5 }
theorem witness_stashMap :
    ready recordBase mapForm = true ∧ (operand recordBase mapForm (.wave 2 0) 0).toNat = 0 ∧ (operand recordBase mapForm (.wave 2 0) 1).toNat = 0 ∧
    (team? recordBase 1).map (fun x => (scratchNum x 0 0 8, scratchNum x 0 8 4, scratchNum x 0 12 4, x.scr, x.windows.length)) =
      some (0x1000, 512, 256, 4096, 0) ∧ recordBase.late = [] ∧ accessHeld recordBase (.wave 2 0) = false ∧
    (team? recordBase 1).map (fun x => stashNeed recordBase 1 x 0 0) = some none := by decide +kernel

/-- Window 0 bound to two sectors, the first of them filled and dirty in its first byte. -/
def windowBase : State :=
  modTeam (oneLane base) 1 (fun x => { x with
    windows := [{ side := 0, num := 0, gaddr := 0x1000, soff := 512, len := 256, sectors := [(0, { dirty := 1 })], pages := [(0, 0x1000)] }] })
theorem witness_stashFlush :
    ready windowBase { plainForm true with srcs := [srcOne 0 4 false] } = true ∧
    (operand windowBase { plainForm true with srcs := [srcOne 0 4 false] } (.wave 2 0) 0).toNat = 0 ∧
    stashAbsent windowBase 1 0 (fun w => w.num = 0) = none ∧ accessHeld windowBase (.wave 2 0) = false ∧
    (team? windowBase 1).map (fun x => x.windows.map (fun w => ((unfilledSectors w).map (fun off => (stashNeed windowBase 1 x 0 off).map isOk)))) =
      some [[some true]] ∧ windowBase.units.l2 = [] ∧ mappedAt windowBase 0 0 0x1000 1 0x1000 [.w] = true ∧
    mappedAt windowBase 0 0 0x1080 1 0x1080 [.r] = true := by decide +kernel

/-! ### Witnesses: engines -/

/-- Bytes of the base team's scratchpad. -/
def withScratch (s : State) (bs : List (Nat × Byte)) : State := modTeam s 1 (fun x => { x with scratch := bs })
/-- Registers of the base grip context from v8. -/
def gripRegs (ws : List Word) : State :=
  ws.zipIdx.foldl (fun s e => setLaneElem s (.grip 1) (8 + e.2) (.full e.1 false)) gripBase
/-- A copy of 128 bytes from memory at 0x1000 to the scratchpad at 256, without a ring or with the ring at 64. -/
def copyWords (w0 : Word) : List Word := [w0, 128, 0x1000, 0, 256, 0, 1, 0]
/-- A queue of 64 copies. -/
def fullCopies (s : State) : State :=
  modCore s 0 (fun k => { k with copies := List.replicate 64 { team := 1, cmd := copyWords 0xFFFF0000, dest := none, parts := 0, swap := none, moved := false } })
def cpyForm : Form := { plainForm true with srcs := (List.range 8).map (fun n => srcN 0 8 n false false) }
theorem witness_cpy :
    let s := gripRegs (copyWords 0xFFFF0000)
    let b := gripRegs (copyWords 0xFFFFE000)
    ready s cpyForm = true ∧ issuing s = [.grip 1] ∧ (List.range 8).map (operand s cpyForm (.grip 1)) = copyWords 0xFFFF0000 ∧
      strayCopies s 1 0 = false ∧ (team? s 1).map (fun x => cmdCheck x (copyWords 0xFFFF0000)) = some none ∧ (coreOf s 0).copies = [] ∧
      ready (fullCopies s) cpyForm = true ∧ (coreOf (fullCopies s) 0).copies.length = 64 ∧ ready b cpyForm = true ∧
      (List.range 8).map (operand b cpyForm (.grip 1)) = copyWords 0xFFFFE000 ∧ (bankReg b 0 0x1E7).getLsbD 0x11 = false := by decide +kernel

/-- The base team's group with 32 lanes, and with a stream in queue 2 that is not popped out. -/
def wideBase (ws : List Word) : State :=
  modGroup (gripRegs ws) 2 (fun x => { x with width := 32, slices := (List.range 8).map slice })
def streamWords : List Word := [0, 4, 0x00010001, 0x00010001, 0, 0, 0, 0, 0]
def busyStream : State :=
  modGroup (wideBase streamWords) 2 (fun x => { x with queues := [(2, { desc := streamWords, popped := 0, entries := [] })] })
def qstrmForm : Form := { plainForm true with srcs := (List.range 8).map (fun n => srcN 0 8 n false false) ++ [src 1 16 false] }
theorem witness_qstrm :
    let s := wideBase streamWords
    let b := wideBase [0, 0x10000]
    ready s qstrmForm = true ∧ issuing s = [.grip 1] ∧ ((team? s 1).bind (fun x => teamGroup s x 0)).isSome = true ∧
      qstrmAct s (.grip 1) 2 8 (streamWords.take 8) 0 = .done [] 0 none ∧ ready busyStream qstrmForm = true ∧
      ((group? busyStream 2).bind (fun y => tget? y.queues 2)).map (fun q => decide (q.popped < queueTotal q)) = some true ∧
      qstrmAct busyStream (.grip 1) 2 8 (streamWords.take 8) 0 = .wait ∧ ready b qstrmForm = true ∧
      ((List.range 8).map (operand b qstrmForm (.grip 1))).getD 1 0 = 0x10000 := by decide +kernel

/-- The base with a slate holder and waiters of quadrant 0 of core 0. -/
def slateBase (h : Option Nat) (ws : List Nat) : State :=
  modCore base 0 (fun k => { k with quads := modifyNth k.quads 0 (fun q => { q with slate := h, waiters := ws }) })
theorem witness_slate :
    ready base (plainForm false) = true ∧ base.focus = .wave 0 0 ∧ mustReclaim base 0 = false ∧ slotQuad 0 < (coreOf base (slotCore 0)).quads.length ∧
    (quadOf (slateBase none []) 0 0).slate = none ∧ slotHolder (slateBase (some 0) []) 0 = 0 ∧
    (quadOf (slateBase (some 0) []) 0 0).slate = some 0 ∧ (quadOf (slateBase (some 4) []) 0 0).slate = some 4 ∧
    ready (slateBase (some 4) []) (plainForm false) = true ∧ mustReclaim (slateBase (some 4) []) 0 = false := by decide +kernel

/-- A ring header at offset 0: WIDX w, RIDX 0, COUNT 2, SIZE 128, BASE 128 and FLAGS f. -/
def ringState (w f : Byte) : State := withScratch base [(0, w), (8, 2), (12, 128), (16, 128), (20, f)]
def slotForm : Form := { plainForm true with srcs := [srcOne 0 4 false] }
/-- The words of the ring header that the base's lanes name. -/
def ringWords (s : State) : List Nat :=
  match team? s 1 with | some x => (List.range 6).map (fun n => scratchNum x 0 (4 * n) 4) | none => []
/-- Neither empty nor full; full; empty; and ended. -/
theorem witness_ring :
    ready (ringState 1 0) slotForm = true ∧ ringWords (ringState 1 0) = [1, 0, 2, 128, 128, 0] ∧
    operand (ringState 1 0) slotForm (.wave 2 0) 0 = 0 ∧ accessHeld (ringState 1 0) (.wave 2 0) = false ∧
    ready (ringState 1 0) { slotForm with dst := some 5 } = true ∧ ready (ringState 0 0) slotForm = true ∧
    ringWords (ringState 0 0) = [0, 0, 2, 128, 128, 0] ∧ ready (ringState 2 1) slotForm = true ∧ ringWords (ringState 2 1) = [2, 0, 2, 128, 128, 1] := by
  decide +kernel
theorem witness_ringEmpty : trapsFit (ringState 0 0) 0x12 :=
  trapsFit_of _ _ (by decide +kernel) (by decide +kernel) (by decide +kernel)

/-- A tile record at offset 0 that serves as A and as B: BASE 64, one block, one row; the block's SCALE byte is 0x80. -/
def mmaBase (h : Option Nat) : State := withScratch (slateBase h []) [(0, 64), (8, 1), (10, 1), (65, 0x80)]
def mmaForm : Form := { plainForm false with srcs := [srcOne 0 4 false, srcOne 1 6 false] }
theorem witness_mma :
    (Instr.mma false false false false true 16 4 6).wellFormed = true ∧ ready (mmaBase (some 0)) mmaForm = true ∧
    (mmaBase (some 0)).focus = .wave 0 0 ∧ (operand (mmaBase (some 0)) mmaForm (.wave 2 0) 0).toNat = 0 ∧
    (team? (mmaBase (some 0)) 1).map (fun x => (issuing (mmaBase (some 0))).map (fun m =>
      mmaCheck (mmaBase (some 0)) m 1 x 0 0 0 false false false [0, 1, 2, 3])) = some [none, none, none, none] ∧
    mustReclaim (mmaBase (some 0)) 0 = false ∧ holdsSlate (mmaBase (some 0)) 0 = true ∧ holdsSlate (mmaBase (some 4)) 0 = false ∧
    ready (mmaBase (some 4)) mmaForm = true ∧ ready (withRegs base [(4, .full 1 false)]) mmaForm = true ∧
    (∀ l ∈ issuing (withRegs base [(4, .full 1 false)]), (operand (withRegs base [(4, .full 1 false)]) mmaForm l 0).toNat % 32 ≠ 0) := by
  decide +kernel
theorem witness_mmaMisplaced : trapsFit (withRegs base [(4, .full 1 false)]) 8 :=
  trapsFit_of _ _ (by decide +kernel) (by decide +kernel) (by decide +kernel)
def mpackForm : Form := { plainForm false with
  srcs := (List.range 16).map (fun k => srcN 0 0 k false false) ++ (List.range 16).map (fun k => srcN 1 16 k false false) }
theorem witness_mpack : (Instr.mpack .bf16 false false 32 0 16).wellFormed = true ∧ ready base mpackForm = true ∧
    (∀ l ∈ issuing base, laneMode base l = 0) := by decide +kernel

/-- In shared mode every slice may home every line. -/
theorem shared_l2 {s : State} (h : privateMode s = false) (p line : Nat) : homeSlice s p false line = homeSlice s p true line := by
  unfold privateMode at h
  unfold homeSlice
  simp only [h, Bool.false_and, Bool.false_eq_true, if_false]

/-- The homes of a partition's lines do not depend on the G bit while the L2 is shared and holds nothing. -/
theorem oneHomeSpan_of {s : State} {p : Nat} (pa n : Nat) (h : ∀ line, homeSlice s p false line = homeSlice s p true line) (h' : s.units.l2 = []) :
    OneHomeSpan s p pa n := by
  intro b _ _
  refine ⟨fun g => ?_, fun x hx => by rw [h'] at hx; exact absurd hx List.not_mem_nil⟩
  cases g
  · exact h (b / 256)
  · rfl
theorem witness_tasks :
    ready base (taskForm false 2) = true ∧ (∀ l ∈ issuing base, lanePart base l = 0 ∧ operand2 base (taskForm false 2) l 0 = 0 ∧
      hitAt base l 0 .r 0 true = true) ∧ ready (oneLane base) (taskForm false 2) = true ∧ issuing (oneLane base) = [.wave 2 0] ∧
    operand2 (oneLane base) (taskForm false 2) (.wave 2 0) 0 = 0 ∧ hitAt (oneLane base) (.wave 2 0) 0 .rw 0 true = true := by decide +kernel
theorem witness_succHome : OneHomeSpan (oneLane base) 0 0 128 := oneHomeSpan_of 0 128 (shared_l2 (by decide +kernel) 0) (by decide)

/-- A texture descriptor at offset 0 (one 4-byte texel of format 0), and a ray record at offset 64 with its ring's header at 128. -/
def texBase : State := withScratch base [(8, 1), (10, 1), (12, 4)]
def rayBase : State :=
  withRegs (withScratch base [(100, 1), (102, 1), (104, 255), (105, 255), (106, 255), (107, 255), (108, 2), (136, 1), (140, 128), (145, 1)])
    [(4, .full 64 false)]
def texForm : Form := { plainForm false with srcs := srcPair 0 2 false ++ [srcOne 1 4 false], pairs := [2] }
def rayForm : Form := { plainForm false with srcs := [srcOne 0 4 false] }
theorem witness_tex :
    (Instr.tex false false 8 2 4).wellFormed = true ∧ ready texBase texForm = true ∧ (operand texBase texForm (.wave 2 0) 2).toNat = 0 ∧
    (team? texBase 1).map (fun x => tdOk (wordsOf (scratchRead x 0 0 64))) = some true ∧
    (∀ l ∈ issuing texBase, awaitsRing texBase l = false) ∧ ready (withRegs base [(4, .full 4 false)]) texForm = true ∧
    (operand (withRegs base [(4, .full 4 false)]) texForm (.wave 2 0) 2).toNat = 4 := by decide +kernel
theorem witness_raygo :
    ready rayBase rayForm = true ∧ (operand rayBase rayForm (.wave 2 0) 0).toNat = 64 ∧
    (team? rayBase 1).map (fun x => let w := wordsOf (scratchRead x 0 64 64)
      (ryOk w x.scr, ryRing w, ringValid x 0 (ryRing w), ringEos x 0 (ryRing w))) = some (true, 128, true, false) := by decide +kernel
theorem witness_texRayMisplaced : trapsFit (withRegs base [(4, .full 4 false)]) 6 :=
  trapsFit_of _ _ (by decide +kernel) (by decide +kernel) (by decide +kernel)

/-! ### Witnesses: raster instructions -/

def tileForm (depth : Bool) : Form :=
  { plainForm false with srcs := [src 0 4 false], pairs := (if depth then [] else [8]), dst := (if depth then some 8 else none) }
def tileStForm (depth : Bool) : Form :=
  { tileForm depth with srcs := src 0 4 false :: (if depth then [src 3 8 false] else [srcN 3 8 0 false false, srcN 3 8 1 false false]) }
theorem witness_tile :
    (∀ depth ∈ [false, true], (Instr.tileld depth false 8 4).wellFormed = true ∧ ready base (tileForm depth) = true ∧
      ready base (tileStForm depth) = true ∧ (∀ l ∈ issuing base, (operand base (tileForm depth) l 0).toNat = 0) ∧
      ready (withRegs base [(4, .full 0x400000 false)]) (tileForm depth) = true) ∧
    (∀ l ∈ issuing base, (operand (withRegs base [(4, .full 0x400000 false)]) (tileForm false) l 0).toNat = 2 ^ 22) := by decide +kernel
theorem witness_tileBad : trapsFit (withRegs base [(4, .full 0x400000 false)]) 7 :=
  trapsFit_of _ _ (by decide +kernel) (by decide +kernel) (by decide +kernel)

/-- A load and a store of the depth of sample 0, each alone in the queue of core 0's tile back end; the load's register awaits it. -/
def tileLoad : TileAccess := { id := some 7, group := 2, side := 0, d := 1, words := 1, lanes := [(0, 12288, [])] }
def tileStore : TileAccess := { id := none, group := 2, side := 0, d := 1, words := 1, lanes := [(0, 12288, [1, 2, 3, 4]), (1, 12288, [5, 6, 7, 8])] }
def tileBase (o : TileAccess) : State := modCore emptyBase 0 (fun k => { k with tbe := [.access o] })
theorem goesOn_of {s : State} {x : Team} {g : Nat} {y : Group} (h : g ∈ x.groups) (h' : group? s g = some y) (h'' : y.ended = false) : GoesOn s x :=
  ⟨g, h, y, h', h''⟩
theorem witness_tileTurn :
    (∀ o ∈ [tileLoad, tileStore], (coreOf (tileBase o) 0).tbe = [.access o] ∧
      (group? (tileBase o) 2).map (fun y => (decide (y.exited = allLanes y), y.team, y.ended)) = some (false, 1, false) ∧
      (team? (tileBase o) 1).map (·.groups) = some [2]) ∧ laneElem (tileBase tileLoad) (.wave 2 0) 1 = .empty 7 := by decide +kernel

/-- A raster record: one view, NATTR 1, PSZOUT and PSDISC as `w33` has them; and a pass with it. -/
def rasterWords (w33 : Word) : List Word := words ++ words ++ [0x101, w33, 0, 0, 0, 0, 0, 0, 0, 0, 0, 0, 0, 0, 0, 0]
def pass (w33 : Word) : Pass :=
  { part := 0, queue := 0, head := 0, recAddr := 0, words := rasterWords w33, views := [List.replicate 32 0], gaze := [], mesh := 0, pixels := 0,
    owner := 0, rasterised := 0, blocks := [], nextOrder := 0, phase := .cleared, hier := [] }
/-- The base's group as a mesh group of pass 5. -/
def meshBase : State :=
  let s := modGroup base 2 (fun x => { x with view := 0x40000000, mesh := some { verts := [], prims := [], handed := false } })
  { s with work := { s.work with launches := [(0, { launch with src := .mesh 5 })], passes := [(5, pass 1)] } }
def emitvForm (b : Reg) : Form :=
  { plainForm false with srcs := src 0 4 false :: (List.range 5).map (fun k => srcN 1 b k false false) }
def emitpForm : Form := { plainForm false with srcs := [src 0 4 false, src 1 8 false] }
theorem witness_mesh :
    (∀ l ∈ issuing meshBase, isMeshLane meshBase l = true ∧ (lanePass meshBase l).map (fun p => rrNattr p.words) = some 1) ∧
    (group? meshBase 2).map (fun x => x.mesh.isSome) = some true ∧ ready meshBase (emitvForm 8) = true ∧ ready meshBase emitpForm = true ∧
    (∀ l ∈ issuing meshBase, operand meshBase emitpForm l 0 = 0 ∧ operand meshBase emitpForm l 1 = 0) ∧
    ready meshBase (plainForm false) = true ∧ ready (withRegs meshBase [(4, .full 126 false)]) emitpForm = true ∧
    (∀ l ∈ issuing meshBase, operand (withRegs meshBase [(4, .full 126 false)]) emitpForm l 0 = 126) ∧
    ready (withRegs meshBase [(8, .full 64 false)]) emitpForm = true ∧
    (∀ l ∈ issuing meshBase, operand (withRegs meshBase [(8, .full 64 false)]) emitpForm l 1 = 64) := by decide +kernel
theorem witness_meshTraps :
    trapsFit meshBase 0x11 ∧ trapsFit (withRegs meshBase [(4, .full 126 false)]) 0x11 ∧ trapsFit (withRegs meshBase [(8, .full 64 false)]) 0x11 :=
  ⟨trapsFit_of _ _ (by decide +kernel) (by decide +kernel) (by decide +kernel),
    trapsFit_of _ _ (by decide +kernel) (by decide +kernel) (by decide +kernel),
    trapsFit_of _ _ (by decide +kernel) (by decide +kernel) (by decide +kernel)⟩

/-- The base's group as a pixel-shader group of pass 5. -/
def geom : PixGeom :=
  { view := 0, clip := [[0, 0, 0, 0x3F800000], [0, 0, 0, 0x3F800000], [0, 0, 0, 0x3F800000]], attrs := [[0], [0], [0]],
    fan := [{ x := 0, y := 0, z := 0 }, { x := 0, y := 0, z := 0 }, { x := 0, y := 0, z := 0 }] }
def pixelBase (w33 : Word) : State :=
  let s := modGroup base 2 (fun x => { x with view := 0x80000000, pix := some { pass := 5, order := 0, owner := 0, i0 := 0, j0 := 0, geom := geom, depths := [], outs := [] } })
  { s with work := { s.work with launches := [(0, { launch with src := .pixels 5 })], passes := [(5, pass w33)] } }
def pxoutForm : Form := { plainForm false with srcs := srcPair 0 4 false, pairs := [4] }
def zoutForm : Form := { plainForm false with srcs := [src 0 4 false] }
theorem witness_pixel :
    (∀ l ∈ issuing (pixelBase 0x301), isPixelLane (pixelBase 0x301) l = true ∧ rrPszout (laneRecord (pixelBase 0x301) l) = true ∧
      rrPsdisc (laneRecord (pixelBase 0x301) l) = true ∧ (lanePix (pixelBase 0x301) l).isSome = true ∧
      ((lanePass (pixelBase 0x301) l).map (fun p => rrNattr p.words)) = some 1) ∧
    ready (pixelBase 0x301) { plainForm false with dst := some 8 } = true ∧ ready (pixelBase 0x301) pxoutForm = true ∧
    ready (pixelBase 0x301) zoutForm = true ∧ ready (pixelBase 1) zoutForm = true ∧
    (∀ l ∈ issuing (pixelBase 1), isPixelLane (pixelBase 1) l = true ∧ rrPszout (laneRecord (pixelBase 1) l) = false ∧
      rrPsdisc (laneRecord (pixelBase 1) l) = false) ∧ ready base pxoutForm = true ∧ (∀ l ∈ issuing base, isPixelLane base l = false) ∧
    (encode (.pxout true false 4)).isSome = true := by decide +kernel
theorem witness_pixelTraps : trapsFit (pixelBase 1) 0x0F :=
  trapsFit_of _ _ (by decide +kernel) (by decide +kernel) (by decide +kernel)

/-! ### Witnesses: device steps -/

/-- The base's translation serves every range below 2^38, all of it local memory. -/
theorem mapped_entry {s : State} {core va n : Nat} (as : List Acc) (h : (coreOf s core).tlb = [entry]) (hr : s.units.ready = 0x1FFF)
    (hc : 2 ^ 38 ≤ capacity s) (hv : va + n ≤ 2 ^ 38) : Mapped s core 0 va n va as := by
  intro i hi a _
  have h1 : (va + i) % 2 ^ 40 = va + i := Nat.mod_eq_of_lt (by omega)
  have hp : paTarget s (va + i) = .local := by
    have b1 : ¬ 2 ^ 52 ≤ va + i := by omega
    have b2 : ¬ (va + i) / 2 ^ 50 = 1 := by omega
    have b3 : bit (va + i) 51 = false := by unfold bit; rw [Nat.div_eq_of_lt (by omega)]; rfl
    have b4 : va + i < capacity s := by omega
    simp only [paTarget, if_neg b1, if_neg b2, b3, if_pos b4, Bool.false_eq_true, if_false]
  have h2 : unitsReady s (va + i) = true := by
    unfold unitsReady
    rw [hr, hp]
    rfl
  have h4 : paOk s (va + i) = true := by
    unfold paOk
    rw [hp]
  refine ⟨entry, ?_, ?_⟩
  · have h3 : va + i < 1099511627776 := by omega
    have : tlbServes 0 (va + i) a entry = true := by cases a <;> simp [tlbServes, entry, permits, h3]
    simp [tlbHit, h, this]
  · simp only [reach, entry, Nat.zero_add, h1, h2, h4, Bool.not_true, Bool.false_eq_true, if_true, if_false]

theorem apart_of {a n b m : Nat} (h : decide (a + n ≤ b ∨ b + m ≤ a) = true) : apart a n b m := by
  simpa [apart] using h

/-- A result under way to v1 of lane 0, a cause pending for the wave, a stream whose first entry is to be fetched. -/
def postedBase : State := { emptyBase with posted := [{ id := 7, kind := .data, dests := [(.wave 2 0, 1, 5, false)], link := none }] }
def asyncBase : State := modSlot base 0 (fun x => { x with asyncs := [{ cause := 4, addr := 0x1000, team := 1 }] })
def streamBase : State := modGroup base 2 (fun x => { x with queues := [(2, { desc := streamWords, popped := 0, entries := [] })] })
theorem witness_arrivals :
    (postedBase.posted.map (·.kind) = [.data] ∧ laneElem postedBase (.wave 2 0) 1 = .empty 7 ∧ laneElem postedBase (.wave 2 1) 1 = .empty 7 ∧
      (group? postedBase 2).map (fun x => decide (x.exited = allLanes x)) = some false) ∧
    ((slot? asyncBase 0).map (·.asyncs) = some [{ cause := 4, addr := 0x1000, team := 1 }] ∧
      ((asyncSlices asyncBase (asyncSlots asyncBase 0 4)).find? (fun e => (e.1, e.2.1) = (2, 0))).map (fun e => (e.1, e.2.1)) = some (2, 0) ∧
      (bankReg asyncBase 0 0x1E7).getLsbD 4 = false ∧ tvec asyncBase 0 ≠ 0 ∧ (group? asyncBase 2).map (framesUsed · 0) = some 0) ∧
    ((quadOf (slateBase none [0]) 0 0).waiters = [0] ∧ slotHolder (slateBase none [0]) 0 = 0) ∧
    (group? streamBase 2).map (fun x => (tget? x.queues 2).map (fun q => (q.popped, q.entries.length, queueTotal q))) = some (some (0, 0, 1)) ∧
    (group? streamBase 2).map (fun x => x.slices.all (fun y => (slicePopsOf y).isEmpty)) = some true := by decide +kernel

/-- A page read of entry 0x5000 that is about to end, alone, or behind another. -/
def pageRead (n entry : Nat) (cow taken : Bool) : PageRead :=
  { id := n, part := 0, entry := entry, value := 0, frame := 0x6000, taken := taken, result := none, port := 0, nsid := 0, lba := 0, cow := cow,
    va := 0x7000, waiters := [] }
def readsBase (rs : List PageRead) (mem : List (Nat × Byte)) : State :=
  { base with mem := mem, units := { base.units with parts := [(0, { part with regs := (0x172, 0x4000) :: part.regs, reads := rs })] } }
/-- A group swapped out whose own slot is free, and one whose wave goes back to its slot's number. -/
def swappedBase (k : Nat) : State :=
  let s := modGroup base 2 (fun x => { x with status := .swapped, seats := [k] })
  { s with work := { s.work with slots := [(k, slot)] } }
def fillBase : State := modTeam windowBase 1 (fun x => { x with windows := x.windows.map (fun w => { w with sectors := [], pages := [] }) })
theorem witness_stashFill :
    (team? fillBase 1).map (fun x => x.windows.map (fun w => (w.len, tget? w.sectors 0))) = some [(256, none)] ∧
    (partOf fillBase (teamPart fillBase 1)).reads = [] ∧
    mappedAt fillBase 0 0 0x1000 1 0x1000 [.r] = true ∧ (coreOf fillBase 0).l1.all (fun y => y.dirty = 0) = true ∧ fillBase.units.l2 = [] := by
  decide +kernel
theorem witness_reads :
    let r := pageRead 9 0x5000 false true
    let q := pageRead 8 0x4000 false true
    (∀ rs ∈ [[r], [q, r]], ((List.range 16).findSome? (fun p => ((partOf (readsBase rs []) p).reads.find? (fun r => r.entry = 0x5000 && !r.cow &&
      r.result.isNone)).map (fun r => (p, r)))) = some (0, r)) ∧ readNum (readsBase [r] []) 0x5000 8 = r.value.toNat ∧
    (readsBase [r] []).units.ready.getLsbD 6 = true ∧ Memory.wf (readsBase [r] []).mem = true := by decide +kernel
theorem witness_swapped :
    (group? (swappedBase 0) 2).map (fun x => (x.status, x.pages, x.seats)) = some (.swapped, [], [0]) ∧
    (team? (swappedBase 0) 1).map (·.stopped) = some false ∧ slotCore 3072 = 0 ∧
    groupsAwait (swappedBase 3072) ((slotGroups (swappedBase 3072) 3072).map (·.1)) = false ∧
    returnSlots (swappedBase 3072) (slotCore 3072) [3072] = some [0] := by decide +kernel
/-- A copy-on-write of the last sharer; of one of two with a frame in the pool at 0x4000; and the same once the frame is taken. -/
theorem witness_cow :
    let s := readsBase [pageRead 9 0x5000 true false] [(0, 1), (8, 1)]
    let u := readsBase [pageRead 9 0x5000 true false] [(0, 1), (1, 0x20), (8, 2), (0x4004, 1), (0x4008, 1), (0x4011, 0x48), (0x4801, 0x60)]
    let v := readsBase [pageRead 9 0x5000 true true] [(0, 1), (1, 0x20), (8, 2)]
    readInProgress s 0x5000 true = some (0, pageRead 9 0x5000 true false) ∧ Memory.wf s.mem = true ∧ readNum s 0 8 % 2 = 1 ∧ readNum s 8 4 = 1 ∧
    readNum s 0x5000 8 = 0 ∧ readInProgress u 0x5000 true = some (0, pageRead 9 0x5000 true false) ∧ Memory.wf u.mem = true ∧
    readNum u 0 8 / 4096 % 2 ^ 40 * 4096 = 0x2000 ∧ readNum u 8 4 = 2 ∧ (takeFrame u 0).map (·.1) = some 0x6000 ∧ poolHead u 0 = 0x4000 ∧
    readInProgress v 0x5000 true = some (0, pageRead 9 0x5000 true true) ∧ readNum v 8 4 = 2 ∧ readNum v 0x5000 8 = 0 := by decide +kernel

/-- A copy of 128 bytes at the head of core 0's queue, in each direction, and one with a ring that has moved its bytes. -/
def copyState (w0 : Word) (moved : Bool) : State :=
  modCore (ringState 0 0) 0 (fun k => { k with copies := [{ team := 1, cmd := copyWords w0, dest := none, parts := 0, swap := none, moved := moved }] })
theorem witness_copies :
    cmdHasRing (copyWords 0xFFFF0000) = false ∧ cmdConv (copyWords 0xFFFF0000) = 0 ∧ cmdBlk (copyWords 0xFFFF0000) = false ∧
    cmdRows (copyWords 0xFFFF0000) = 1 ∧ cmdDdup (copyWords 0xFFFF0000) = false ∧ cmdLen (copyWords 0xFFFF0000) = 128 ∧
    cmdSoff (copyWords 0xFFFF0000) = 256 ∧ cmdDir (copyWords 0xFFFF0000) = 0 ∧ cmdDir (copyWords 0xFFFF0001) = 1 ∧
    cmdHasRing (copyWords 0xFFFF0001) = false ∧ cmdHasRing (copyWords 0) = true ∧ cmdHeader (copyWords 0) = 0 ∧
    (coreOf (copyState 0 true) 0).copies.map (·.moved) = [true] ∧ (team? (copyState 0 true) 1).map (·.groups) = some [2] ∧
    (group? (copyState 0 true) 2).map (·.ended) = some false := by decide +kernel
theorem witness_copyMapped : Mapped (copyState 0xFFFF0000 false) 0 0 0x1000 128 0x1000 [.r, .w] :=
  mapped_entry _ (by decide +kernel) (by decide) (by decide) (by decide)
theorem witness_copyHome : OneHomeSpan (copyState 0xFFFF0001 false) 0 0x1000 128 :=
  oneHomeSpan_of _ _ (shared_l2 (by decide +kernel) 0) (by decide)

/-- A matrix operation, a texture operation and a ray launch, each alone in its queue. -/
def matOp : MatOp :=
  { id := 7, group := 2, side := 0, i32 := false, outl := false, unf := false, acc := false, d := 1, ra := [], rb := [], lanes := 15, accIn := [] }
def texOp : TexOp := { id := 7, group := 2, gather := true, d := 1, desc := [0, 0, 0x10001, 4], coords := [(0, 0, 0)] }
def rayOp (n : Nat) : RayOp :=
  { group := 2, lanes := 15, team := 1, side := 0, words := ((team? rayBase 1).map (fun x => wordsOf (scratchRead x 0 64 64))).getD [], gaze := none,
    next := n }
theorem witness_engineOps :
    let s := modQuad emptyBase 0 0 (fun q => { q with mq := [matOp] })
    let u := modCore emptyBase 0 (fun k => { k with tex := [texOp] })
    (quadOf s 0 0).mq = [matOp] ∧ 0 < (coreOf s 0).quads.length ∧ (mmaResults team matOp).1.length = 64 ∧
    (coreOf u 0).tex = [texOp] ∧ ((texFetched texOp.desc true 0 0).all (fun e => e.1 < 2 ^ 56 && mappedAt u 0 0 e.1 (tdSize texOp.desc) e.1 [.r])) = true := by
  decide +kernel

/-- A view record at 0 of one sample on each axis: RMAX 1, one segment, density 128. -/
def viewMem : List (Nat × Byte) := [(64, 1), (66, 1), (80, 128), (96, 1), (98, 1), (112, 128)]
def rayState (n : Nat) : State :=
  { rayBase with mem := viewMem, units := { rayBase.units with clusters := [(0, { Cluster.reset with rays := [rayOp n] })] } }
def viewWords : List Word := wordsOf ((List.range 128).map (fun a => memGet viewMem a))
/-- How many records the launch at the head writes next. -/
def rayCount (s : State) (o : RayOp) : Option Nat :=
  match rayRecords s 0 0 0 o viewWords (viewWords.take 16) (0, 0) 1 o.next 4 with | .ok e => some e.1.length | .error _ => none
theorem witness_rays :
    (clusterOf (rayState 0) 0).rays = [rayOp 0] ∧ (clusterOf (rayState 1) 0).rays = [rayOp 1] ∧
    (rayRead (rayState 0) 0 0 0 0 128).toOption = some ((List.range 128).map (fun a => memGet viewMem a)) ∧
    (rayRead (rayState 0) 0 0 0 0 64).toOption.isSome = true ∧ (rayRead (rayState 0) 0 0 0 0 8).toOption = some (List.replicate 8 0) ∧
    rayCount (rayState 0) (rayOp 0) = some 1 ∧ rayCount (rayState 1) (rayOp 1) = some 0 ∧
    (team? (rayState 0) 1).map (fun m => [m.scr, ringUsed m 0 128, ringCount m 0 128, ringBase m 0 128, ringSize m 0 128]) = some [4096, 0, 1, 256, 128] ∧
    (team? (rayState 0) 1).map (fun m => [ringValid m 0 128, ringErr m 0 128, ringEos m 0 128]) = some [true, false, false] := by decide +kernel

/-! ### Witnesses: tasks and raster passes -/

/-- The base with memory, and with table registers of partition 0: a task table at 0x10000, a raster table at 0x14000, one front end. -/
def tableBase (s : State) (mem : List (Nat × Byte)) : State :=
  { s with mem := mem
           units := { s.units with parts := [(0, { part with regs := [(0x180, 0x10000), (0x1A0, 0x14000), (0x1E4, 0x40000)] ++ part.regs })] } }
/-- Descriptor 0 has one record of one group at 0x11000, whose kernel lies at 0x12000. -/
def dispatchBase : State :=
  tableBase base [(0x10004, 1), (0x10008, 1), (0x1000C, 1), (0x10011, 0x10), (0x10012, 1), (0x1001C, 1), (0x11001, 0x20), (0x11002, 1), (0x1101D, 1)]
/-- What a head offers: its slot index, its words and its seats. -/
def placeOf (h : HeadState) : Option (Nat × Nat × List (List Nat × Nat)) :=
  match h with | .place head none w _ seats => some (head, trEntry w, seats) | _ => none
theorem witness_dispatch :
    runningParts (refreshQueues dispatchBase) = [0] ∧ placeOf (headState (refreshQueues dispatchBase) 0 0 0) = some (0, 0x12000, [([6], 0)]) ∧
    (List.range 16).all (fun j => j = 0 || decide (headState (refreshQueues dispatchBase) 0 j 0 = .idle)) = true ∧
    (clusterOf dispatchBase 0).gate = .on ∧ dispatchBase.work.passes = [] := by decide +kernel

/-- An enqueue whose slot, index 0, is reserved. -/
def enqOp : EnqOp :=
  { part := 0, group := none, grip := none, mgmt := none, words := words, slot := some 0, written := false, failed := false }
def enqBase : State :=
  let s := tableBase base [(0x10008, 1), (0x1000C, 1), (0x10011, 0x10), (0x10012, 1), (0x1001C, 1)]
  modPart s 0 (fun x => { x with enqs := [enqOp] })
theorem witness_enqueue :
    let d := parseDesc false (readMem enqBase 0x10000 64)
    (partOf enqBase 0).enqs = [enqOp] ∧ Memory.wf enqBase.mem = true ∧ words.length = 16 ∧ trClass words = 0 ∧ descAddr enqBase 0 false 0 = some 0x10000 ∧
    d.en = true ∧ d.tail = 0 ∧ d.head = 0 ∧ d.cap = 1 ∧ slotAddr d 0 = 0x11000 := by decide +kernel
theorem witness_enqueueMapped :
    Mapped enqBase 0 0 0x10000 64 0x10000 [.rw, .w] ∧ Mapped enqBase 0 0 0x11000 64 0x11000 [.w] ∧ apart 0x10000 64 0x11000 64 ∧
    OneHomeSpan enqBase 0 0x10000 64 ∧ OneHomeSpan enqBase 0 0x11000 64 :=
  ⟨mapped_entry _ (by decide +kernel) (by decide) (by decide) (by decide), mapped_entry _ (by decide +kernel) (by decide) (by decide) (by decide), apart_of (by decide),
    oneHomeSpan_of _ _ (shared_l2 (by decide +kernel) 0) (by decide), oneHomeSpan_of _ _ (shared_l2 (by decide +kernel) 0) (by decide)⟩

/-- A launch whose one team has ended, with the successor counter at `c`. -/
def overBase (c : Word) : State :=
  { base with work := { base.work with launches := [(0, { launch with ended := 1, words := words.set 8 c })] } }
theorem witness_launchOver :
    (launch? (overBase 0) 0).map (fun l => (l.complete, l.src, l.started, l.ended)) = some (false, .queue 0, 1, 1) ∧
    (launch? (overBase 0) 0).map (fun l => (l.total, l.killed, trSucc l.words)) = some (1, false, 0) ∧
    (launch? (overBase 0x3000) 0).map (fun l => trSucc l.words) = some 0x3000 := by decide +kernel
theorem witness_launchCalm : Calm (overBase 0x3000) ∧ Mapped (overBase 0x3000) 0 0 0x3000 1 0x3000 [.rw] :=
  ⟨calm_of _ (by decide +kernel) (by decide) (by decide) (by decide +kernel) (by decide) (by decide) (by decide) (by decide +kernel),
    mapped_entry _ (by decide +kernel) (by decide) (by decide) (by decide)⟩

/-- Raster descriptor 0 at 0x14000 with one slot at 0x11000: zero, or naming the record at 0x13000. -/
def rasterDesc : List (Nat × Byte) := [(0x14004, 1), (0x14008, 1), (0x14011, 0x10), (0x14012, 1), (0x1401C, 1)]
def rasterBase (ok : Bool) : State :=
  tableBase (ringState 0 0) (if ok then viewMem ++ [(0x11001, 0x30), (0x11002, 1), (0x13001, 0x20), (0x13002, 1), (0x1301C, 2), (0x1301D, 1),
    (0x13041, 0x20), (0x13042, 1), (0x1305C, 2), (0x1305D, 1), (0x13080, 1), (0x13081, 1), (0x1308E, 1)] ++ rasterDesc else rasterDesc)
/-- How the record at the head is taken: the owner launch and the mesh launch's slot, or the code of its refusal. -/
def takenOf (s : State) : Option (Except Nat (Nat × Nat)) :=
  (enabledDesc s 0 true 0).map (fun d => match takeRecord s 0 0 d with
    | .ok (ps, _, _) => .ok (ps.owner, ps.recAddr)
    | .error (.refuse c) => .error c
    | .error (.page va _) => .error (1000 + va))
theorem witness_rasterTake :
    (takenOf (rasterBase true)).bind (·.toOption) = some (0, 0x13000) ∧
    (takenOf (rasterBase false)).map (fun e => match e with | .error c => c | .ok _ => 0) = some 17 ∧ partEnabled (rasterBase true) 0 = true ∧
    frontEnds (rasterBase true) 0 = 1 ∧ passUnderWay (rasterBase true) 0 0 = false ∧ (partOf (rasterBase true) 0).refusals = [] ∧
    (enabledDesc (rasterBase true) 0 true 0).map (fun d => (d.head, d.tail)) = some (0, 1) ∧ descAddr (rasterBase false) 0 true 0 = some 0x14000 := by
  decide +kernel

/-- A pass of one tile that the base's team owns, in a phase; with KEEP; and with DONE at 0x3000. -/
def tilePass (ph : PassPhase) : Pass :=
  { pass 0 with words := (rasterWords 0).set 35 0x10000, views := [viewWords], gaze := [(0, (0, 0))], phase := ph }
def passState (p : Pass) : State := { ringState 0 0 with work := { (ringState 0 0).work with passes := [(5, p)] } }
def keepPass : Pass := { tilePass .taken with words := (tilePass .taken).words.set 40 0x10 }
theorem witness_clear :
    (pass? (passState (tilePass .taken)) 5).map (·.phase) = some .taken ∧ ownersPlaced (passState (tilePass .taken)) (tilePass .taken) = true ∧
    ownersBusy (passState (tilePass .taken)) (tilePass .taken) = false ∧ rrKeep keepPass.words = true ∧ rrKeep (tilePass .taken).words = false ∧
    passTiles (tilePass .taken) = [(0, 0, 0)] ∧
    (sampleHome (passState (tilePass .taken)) (tilePass .taken) 0 0 0).map (fun e => (e.1, e.2.2)) = some (1, 0, 0) := by decide +kernel

/-- The base's group has handed over a meshlet without primitives; a pixel block of the tile waits, with the launch of its groups. -/
def handedBase : State :=
  let s := passState (tilePass .cleared)
  modGroup s 2 (fun x => { x with mesh := some { verts := [], prims := [], handed := true } })
def block : PixBlock := { i0 := 0, j0 := 0, order := 0, mask := 1, geom := geom, depths := [(0, 0)] }
def blockPass : Pass := { tilePass .cleared with blocks := [block], pixels := 6 }
def blockState : State :=
  let s := passState blockPass
  { s with work := { s.work with launches := s.work.launches ++ [(6, { launch with src := .pixels 5, words := words.set 7 0x102, total := 0, started := 0 })] } }
theorem witness_shading :
    (tilePass .cleared).rasterised < meshletCount (tilePass .cleared) ∧ ownersPlaced handedBase (tilePass .cleared) = true ∧
    (handedMeshlet handedBase (tilePass .cleared) 0).map (·.handed) = some true ∧
    (readyBlock blockState blockPass).map (fun e => (e.1, e.2.2.1, e.2.2.2.length)) = some (0, 0, 1) ∧ (launch? blockState 6).isSome = true ∧
    (clusterOf blockState 0).gate = .on := by decide +kernel

/-- The commit of sample 0, in a pass with late depth whose test passes (ZFUNC 7) or fails (ZFUNC 0). -/
def commit (c : Option PixOut) : TbeOp := { pass := 5, order := 0, view := 0, i := 0, j := 0, depth := 0, out := c }
def commitPass (z : Word) : Pass := { tilePass .cleared with words := (tilePass .cleared).words.set 33 z }
def commitBase (z : Word) : State := modCore (passState (commitPass z)) 0 (fun k => { k with tbe := [.commit (commit none)] })
theorem witness_commit :
    (coreOf (commitBase 0x200) 0).tbe = [.commit (commit none)] ∧ commitHeld (commitBase 0x200) (commit none) = false ∧
    earlyDepth (commitPass 0x200).words = false ∧ depthPass (rrZfunc (commitPass 0x200).words) 0 0 = false ∧
    depthPass (rrZfunc (commitPass 0x1E00).words) 0 0 = true ∧
    (sampleHome (commitBase 0x200) (commitPass 0x200) 0 0 0).map (fun e => (e.1, e.2.2)) = some (1, 0, 0) := by decide +kernel

/-- A pass that has drained; one that publishes its tile; and one whose tiles are published. -/
def drainedPass : Pass := { tilePass .cleared with rasterised := 1, mesh := 6, pixels := 7 }
def drainedBase : State :=
  let s := passState drainedPass
  let l : Launch := { launch with ended := 1 }
  { s with work := { s.work with launches := s.work.launches ++ [(6, { l with src := .mesh 5 }), (7, { l with src := .pixels 5 })] } }
def donePass (c : Word) : Pass := { tilePass (.publishing 1) with words := (tilePass .taken).words.set 46 c }
theorem witness_publication :
    drainedPass.phase = .cleared ∧ passDrained drainedBase 5 drainedPass = true ∧ tileCount (tilePass (.publishing 0)) = 1 ∧
    (passTiles (tilePass (.publishing 0)))[0]? = some (0, 0, 0) ∧ (teamOf (passState (tilePass (.publishing 0))) 0 0).map (·.1) = some 1 ∧
    (team? (passState (tilePass (.publishing 0))) 1).map (fun x => [ringValid x 0 0, ringErr x 0 0, ringEos x 0 0]) = some [true, false, false] ∧
    (team? (passState (tilePass (.publishing 0))) 1).map (fun x => [ringUsed x 0 0, ringCount x 0 0, ringBase x 0 0, ringSize x 0 0]) =
      some [0, 2, 128, 128] ∧ tileCount (donePass 0) = 1 ∧ rrDone (donePass 0).words = 0 ∧ rrDone (donePass 0x3000).words = 0x3000 := by
  decide +kernel
theorem witness_passDone : Calm (passState (donePass 0x3000)) ∧ Mapped (passState (donePass 0x3000)) 0 0 0x3000 1 0x3000 [.rw] ∧
    apart 0 64 128 256 :=
  ⟨calm_of _ (by decide +kernel) (by decide) (by decide) (by decide +kernel) (by decide) (by decide) (by decide) (by decide +kernel),
    mapped_entry _ (by decide +kernel) (by decide) (by decide) (by decide), apart_of (by decide)⟩

/-! ### Witnesses: display, clocks and waits -/

/-- A descriptor in use: enabled, 64 by 16 pixels, SBUD 1, with a sink and a value of word 14. -/
def streamDesc (w0 : Word) (out : Word) : List Word := [w0, 0x400010, 1, 0, 0, 0, 0, 0, 0, 0, 0, 0, 0, 0, out, 0]
def words2mem (a : Nat) (ws : List Word) : List (Nat × Byte) := memPuts [] a (bytesOf ws)
/-- The stream table at 0x15000 with descriptor 0, a timing record at 0x16000, and the sinks that PSINK names. -/
def displayBase (d : List Word) (sinks : Word) (timing : List Word) : State :=
  { base with mem := words2mem 0x15000 d ++ words2mem 0x16000 timing
              units := { base.units with parts := [(0, { part with regs := [(0x1B0, 0x15000), (0x1E4, sinks)] ++ part.regs })] } }
def readOf (r : DevRead) : List Byte := match r with | .ok bs => bs | _ => []
def timing : List Word := [25000, 0x10001, 0x10000, 0x10001, 0x10000, 0, 0, 0]
def dpDesc : List Word := streamDesc 0x80000000 0x16000
def av1Desc : List Word := streamDesc 0x80000002 0
theorem witness_streamEnable :
    sdEn (wordsOf (readOf (ownRead base 0 0 64 .r))) = false ∧ wordsOf (readOf (ownRead (displayBase dpDesc 0x10000 timing) 0 0x15000 64 .r)) = dpDesc ∧
    bankPair (displayBase dpDesc 0x10000 timing) 0 0x1B0 0x1B1 = 0x15000 ∧ sdEn dpDesc = true ∧ isAv1 dpDesc = false ∧ streamFieldsOk dpDesc = true ∧
    sinkHeld (displayBase dpDesc 0x10000 timing) 0 dpDesc = true ∧ sinkHeld (displayBase dpDesc 0 timing) 0 dpDesc = false ∧ sdOut dpDesc = 0x16000 ∧
    wordsOf (readOf (ownRead (displayBase dpDesc 0x10000 timing) 0 0x16000 32 .r)) = timing ∧ timingOk timing = true ∧
    timingOk (wordsOf (readOf (ownRead (displayBase dpDesc 0x10000 []) 0 0x16000 32 .r))) = false ∧ isAv1 av1Desc = true ∧
    streamFieldsOk av1Desc = true ∧ sinkHeld (displayBase av1Desc 1 []) 0 av1Desc = true := by decide +kernel
theorem witness_linkFits : linkFits (displayBase dpDesc 0x10000 timing) 0 dpDesc timing = true := by
  have h : 1 ≤ linkLanes (sdSink dpDesc) := by unfold linkLanes; split <;> decide
  have e : ((displayBase dpDesc 0x10000 timing).work.streams) = [] := by decide +kernel
  have r : vtPclk timing * pixelBits 0 dpDesc = 600000 := by decide +kernel
  simp only [linkFits, e, List.filter_nil, List.map_nil, List.foldl_nil, r, Nat.add_zero, decide_eq_true_eq]
  omega

/-- A stream of the base team's tiles, latched at 0, at a time in microseconds: its strip 0 is handed over at the ring's slot 0; or corrected. -/
def stream (d : List Word) (ready : Tab (List Word)) (us : Nat) : Stream :=
  { on := true, desc := d, timing := timing, latches := [(0, 0)], ready := ready, expired := [], sent := [], out := [], header := none, us := us,
    taken := [] }
def showing (x : Stream) : State :=
  let s := withScratch base [(0, 1), (8, 2), (12, 128), (16, 128), (140, 2)]
  { s with work := { s.work with streams := [(0, x)] } }
theorem witness_strips :
    let x := stream dpDesc [] 1
    (stream? (showing x) 0 0).map (·.on) = some true ∧ deadlines (showing x) 0 0 = showing x ∧
    (nextStrip (showing x) 0 x).map (fun e => (e.1, e.2.map (fun f => (f.1, f.2.length)))) = some (0, [(1, 1)]) ∧
    (meshBlock (showing x) 0 0 0 dpDesc).isNone = true ∧ tilesBusy (showing x) 0 = false := by decide +kernel
/-- A strip's scanout slot that has not come; and one that has, of a strip that is ready in time, ready too late, or not ready. -/
theorem witness_scanout :
    let early : Stream := { stream dpDesc [] 60 with latches := [(0, 60)] }
    (scanNext early = some (0, 60) ∧ (early.us + 5) * vtPclk early.timing ≤ scanSlot early 0 60) ∧
    ∀ ready ∈ [[], [(0, [])]], let x := stream dpDesc ready 1
      scanNext x = some (0, 0) ∧ scanSlot x 0 0 < (x.us + 5) * vtPclk x.timing ∧ slotStale x 0 0 false = false ∧ slotStale x 0 0 true = true ∧
      (stream? (showing x) 0 0).isSome = true := by decide +kernel
/-- An AV1 strip whose countdown has ended; one that is ready 251 microseconds after its latch, the last time at which it is sent, and after that. -/
theorem witness_av1 :
    isAv1 av1Desc = true ∧ countedStrip (stream av1Desc [] 1) = some (0, 0) ∧ sdSbud av1Desc = 1 ∧
    (stream av1Desc [(0, [])] 251).us - 0 ≤ sdSbud av1Desc + 250 ∧ sdSbud av1Desc + 250 < (stream av1Desc [(0, [])] 252).us - 0 ∧
    (stream? (showing (stream av1Desc [(0, [])] 252)) 0 0).map (·.latches) = some [(0, 0)] := by decide +kernel

/-- Core 0 at a clock, the watchdog's bound at 1 (2^20 clocks). -/
def clocked (s : State) (n : Nat) : State := setBankReg (modCore s 0 (fun k => { k with clk := n })) 0 0x192 1
theorem witness_watchdog :
    (group? (clocked base 1048576) 2).map (fun x => (x.ended, x.status, x.quiet)) = some (false, .run, 0) ∧
    (bankReg (clocked base 1048576) 0 0x192).toNat = 1 ∧ (coreOf (clocked base 1048576) 0).clk = 1048576 := by decide +kernel
/-- The slice waits at a YIELD or a SLEEP; a hot core asks for migration. -/
def waiting (s : State) (w : Wait) : State := modSlice s 2 0 (fun x => { x with wait := w })
theorem witness_waits :
    gangMates (waiting base (.yield 0)) 2 0 = [(2, 0)] ∧ laneMigreq (waiting base (.yield 0)) (.wave 2 0) = 0 ∧
    (modCore (waiting base (.yield 0)) 0 (fun k => { k with therm := true })).units.cores.length = 1 ∧
    laneMigreq (modCore (waiting base (.yield 0)) 0 (fun k => { k with therm := true })) (.wave 2 0) ≠ 0 ∧
    sliceClk (waiting base (.sleep 0 1)) 2 0 = 0 ∧ sliceClk (clocked (waiting base (.sleep 0 1)) 1) 2 0 = 1 ∧
    teamReh (waiting base (.sleep 0 1)) 1 = false := by decide +kernel
/-- The base's wave resident for 4,096 clocks, with another wave ready outside; a wave whose slice waits; and one outside the set. -/
def crowded : State :=
  let s := modCore base 0 (fun k => { k with clk := 4096 })
  { s with work := { s.work with groups := s.work.groups ++ [(3, { group with seats := [1], gidx := 1 })],
                                 slots := s.work.slots ++ [(1, { slot with active := false, order := 1 })] } }
def outsideBase : State := modSlot base 0 (fun x => { x with active := false })
theorem witness_activeSet :
    readyOutside crowded 0 0 = some 1 ∧ (slot? crowded 0).map (fun y => (y.active, y.since)) = some (true, 0) ∧ (coreOf crowded 0).clk = 4096 ∧
    waveReady (waiting crowded .slate) 0 = false ∧ readyOutside (waiting crowded .slate) 0 0 = some 1 ∧
    readyOutside outsideBase 0 0 = some 0 ∧ activeCount outsideBase 0 0 = 0 := by decide +kernel
/-- An idle cluster, one in a gate sequence and one that wakes. -/
def gated (x : Cluster) : State := setCluster base 5 x
theorem witness_gates :
    clusterIdle (gated { Cluster.reset with clk := 4096 }) 5 = true ∧ (clusterOf (gated { Cluster.reset with clk := 4096 }) 5).gate = .on ∧
    (clusterOf (gated { Cluster.reset with clk := 256, gate := .seq 0 }) 5).gate = .seq 0 ∧
    (clusterOf (gated { Cluster.reset with gate := .waking }) 5).gate = .waking := by decide +kernel
theorem witness_rename :
    (renameInstr base 0 [(2, 0, 15)] 0x2000 (some (.iaddi false 3 4 0x1FF))).isSome = true ∧ (slot? base 0).isSome = true := by decide +kernel

/-! ### Witnesses: the context interface -/

/-- The base's group and team stopped, CTXAD at 0x20000; and a target that no team has. -/
def stoppedBase : State :=
  setBankReg (modTeam (modGroup base 2 (fun x => { x with status := .stopped })) 1 (fun x => { x with stopped := true })) 0 0x198 0x20000
theorem witness_context :
    ctxBusy base 0 = false ∧ psel base = 0 ∧ ctxTeams base 0 = [1] ∧ ctxImages base 0 = [] ∧ ctxTeams (setBankReg base 0 0x196 1) 0 = [] ∧
    teamStopped stoppedBase 1 = true ∧ ctxTeams stoppedBase 0 = [1] ∧ ctxSlot stoppedBase 0 1 = some 0 ∧
    (teamGroupsIn stoppedBase 1 0).map (fun e => (e.1, e.2.status, e.2.slices.map (·.halt))) = [(2, .stopped, [none])] ∧
    ctxAddr stoppedBase 0 = 0x20000 ∧ ctxRangeOk stoppedBase 0x20000 136 = true ∧ posLane stoppedBase 0 0 = some (2, 0) ∧
    (group? stoppedBase 2).map (fun z => laneSeat z 0) = some 0 := by decide +kernel
theorem calm_stopped : Calm stoppedBase :=
  calm_of _ (by decide +kernel) (by decide) (by decide) (by decide +kernel) (by decide) (by decide) (by decide +kernel) (by decide +kernel)

/-- The base with CTXAD at 0x20000; an image there of the team, which has left its core; and a save at its bound. -/
def saveBase : State := setBankReg base 0 0x198 0x20000
def image : Image := { id := 0, tid := 1, team := team, groups := [(2, group)], slots := [(0, slot)], rot := 0 }
def restoreBase : State :=
  { saveBase with mem := [(0x20000, 2), (0x20018, 1)], work := { saveBase.work with teams := [], groups := [], slots := [], images := [image] } }
def boundBase : State :=
  { base with units := { base.units with saving := [{ part := 0, team := 1, pa := 0x20000, since := 0, pieces := 1, id := 5 }],
                                         mgmt := [{ Mgmt.reset with clk := 850000000 }, Mgmt.reset] } }
/-- The cores on which RESTORE can place the image. -/
def fitsAt (s : State) : Option Nat :=
  (restoreCores s image).find? (fun c => (teamFits s 0 team (imageAway image) [0] false false c).isSome)
theorem witness_saveRestore :
    savingOf saveBase 0 = none ∧ ctxTeams saveBase 0 = [1] ∧ (teamLaunch? saveBase 1).isSome = true ∧
    ctxRangeOk saveBase 0x20000 (imageSize team (teamSlots saveBase 1).length) = true ∧ teamPosted saveBase 1 [2] = false ∧
    teamCopies saveBase 1 = false ∧ ctxRangeOk restoreBase 0x20000 4096 = true ∧ readNum restoreBase 0x20000 4 = 2 ∧
    readNum restoreBase (0x20000 + 24) 4 % 16 = restoreBase.units.fuses.ver ∧
    (restoreBase.work.images.find? (fun i => i.id = readNum restoreBase (0x20000 + 96) 8)).map (·.tid) = some 1 ∧ fitsAt restoreBase = some 0 ∧
    launchReh launch = false ∧ boundBase.units.saving.length = 1 ∧ 1700000 * (bankReg boundBase 0 0x193).toNat = 850000000 := by decide +kernel
theorem calm_save : Calm saveBase ∧ Calm boundBase :=
  ⟨calm_of _ (by decide +kernel) (by decide) (by decide) (by decide +kernel) (by decide) (by decide) (by decide) (by decide +kernel),
    calm_of _ (by decide +kernel) (by decide) (by decide) (by decide +kernel) (by decide) (by decide) (by decide) (by decide +kernel)⟩

/-- A team at a YIELD with a second core to go to; the same with its core being removed; and with no other core. -/
def movable (mask : Word) (rem : List Nat) : State :=
  let s := waiting base (.yield 0)
  let s := setSysReg s 0x1C0 0x0800
  { s with units := { s.units with parts := [(0, { part with regs := [(0x1E1, mask), (0x190, 0x8000), (0x1E0, 1)], removing := rem })] } }
theorem witness_moves :
    atBoundary (movable 3 []) { team with grip := none } = true ∧ teamStopped (movable 3 []) 1 = false ∧
    (destination (movable 3 []) 1 team).map (·.1) = some 1 ∧ (moveReady (movable 3 []) 1 team).1 = true ∧ beingSaved (movable 3 []) 1 = false ∧
    beingRemoved (movable 2 [0]) 0 team = true ∧ (destination (movable 2 [0]) 1 team).map (·.1) = some 1 ∧
    (moveReady (beginMove (movable 2 [0]) 1 team) 1 team).1 = true ∧ beingRemoved (movable 0 [0]) 0 team = true ∧
    (destination (movable 0 [0]) 1 team).isNone = true := by decide +kernel

/-! ### Witnesses: privileged registers and the world outside -/

/-- Partition 0 with a register-image area, enabled or not. -/
def areaBase (en : Word) : State := setBankReg (setBankReg base 0 0x19C 0x1000000) 0 0x1E0 en
theorem witness_privileged :
    tlbBusy base 0 = false ∧ (partOf base 0).quietAt = none ∧ privateMode State.reset ≠ true ∧ l2ModeReady State.reset = true ∧
    (List.range 16).all (fun q => !partEnabled State.reset q || limitsOk State.reset q true) = true ∧ partEnabled (areaBase 0) 0 = false ∧
    rimBase (areaBase 0) 0 ≠ 0 ∧ limitsOk (areaBase 0) 0 (privateMode (areaBase 0)) = true ∧ rimBase (setBankReg base 0 0x1E0 0) 0 = 0 ∧
    partEnabled base 0 = true ∧ maskCores (setBankReg base 0 (maskReg (0 : BitVec 2).toNat) 0) 0 = [] ∧ savingOf base 0 = none ∧
    (0x1000 : Nat) &&& 0xFFFFFC00 = 0x1000 ∧ (1 : Nat) &&& 0xFFFFFC00 ≠ 1 := by decide +kernel
/-- Two partitions whose sinks overlap cannot both be enabled in private mode when their slices do. -/
def sharing : State :=
  { State.reset with units := { State.reset.units with
      parts := [(0, { Part.reset with regs := [(0x1E0, 1), (0x1E1, 1), (0x1E3, 1)] }), (1, { Part.reset with regs := [(0x1E0, 1), (0x1E1, 2), (0x1E3, 1)] })] } }
theorem witness_l2Forbidden :
    partEnabled sharing 0 = true ∧ limitsOk sharing 0 true = false ∧ l2ModeReady sharing = true ∧ privateMode sharing = false := by decide +kernel

/-- An event waits; the ring at 0x30000 has room for one, or has no valid capacity. -/
def eventBase (cap : Byte) : State :=
  setSysReg { base with mem := [(0x30008, cap), (0x30011, 0x40), (0x30012, 3)].filter (fun e => e.2 ≠ 0)
                        units := { base.units with events := [List.replicate 32 0] } } 0x1D4 0x30000
theorem witness_outside :
    eventRoom (eventBase 1) = true ∧ eventRoom (eventBase 0) = false ∧ Memory.wf (eventBase 1).mem = true ∧ 0 < base.units.fuses.npeer ∧
    base.units.linkDown = [] ∧ allTargets base { pa := 0x1000, size := 4, data := none } (fun t => decide (t = .local)) = true ∧
    allTargets base { pa := 0x1000, size := 4, data := some [1, 2, 3, 4] } (fun t => decide (t = .local)) = true ∧
    base.units.ready = 0x1FFF ∧ paTarget base (256 * 2 ^ 42) = .host ∧ State.reset.units.trust.verified = false ∧
    State.reset.units.ready.getLsbD 0 = false ∧ base.units.trust.stage = 0 := by decide +kernel
/-- A task queue's FLAGS hold EN and REF: a 1 over REF clears it, a 0 keeps it, and EN is as written (Table 10-3). -/
theorem test_hostFlags :
    let s : State := { base with mem := [(0x201C, 3)], units := { base.units with parts := [(0, { part with regs := (0x180, 0x2000) :: part.regs })] } }
    (0x201C, 3#8) ∈ flagBytes s 0 ∧ softBytes s 0x201B [7, 2, 7] = [7, 0, 7] ∧ softBytes s 0x201C [1] = [3] := by decide +kernel
theorem witness_verified :
    let s : State := { State.reset with units := { State.reset.units with trust := { State.reset.units.trust with verified := true, stage := 3 } } }
    s.units.trust.verified = true ∧ s.units.ready.getLsbD 0 = false ∧ 3 ≤ s.units.trust.stage := by decide +kernel

/-! ### Witnesses: further clauses

Each completes the witness above of the same statement. -/

/-- The base's wave may issue its oldest entry ahead; an issue of the late kind runs as well; and a tick that is open takes its last steps
before anything that is no part of it. -/
theorem witness_happenings :
    gangMay base 0 0 = true ∧
    (let s := { placed 0xFF808185 with agenda := [.issueLate (.wave 0 0)] }
     s.units.power.opened = none ∧ isNext (step { s with agenda := [.issue (.wave 0 0)], deferring := some s.nextTag }) = true) ∧
    asked.units.power.opened.isSome = true ∧ tickPart (.perform 0) = false ∧ tickPart (.event (.leaseExpiry 0)) = true := by decide +kernel

theorem witness_ldAbsent : ∀ l ∈ issuing base, loadAbsent base l 0 = none := by decide +kernel

theorem witness_flushFilled :
    (team? windowBase 1).map (fun x => x.windows.map (fun w => (sectorFilled w 0, w.pages))) = some [(true, [(0, 0x1000)])] ∧
    ∀ w : Window, w.pages = [(0, 0x1000)] → ∀ j, sectorFilled w j = decide (j = 0) := by
  refine ⟨by decide +kernel, ?_⟩
  intro w h j
  simp only [sectorFilled, h, tget?]
  by_cases hj : j = 0
  · subst hj; rfl
  · simp [hj, Ne.symm hj]

/-- A ring that has EOS and a slot still to be released. -/
def endedRay : State := withRegs (withScratch base ([(100, 1), (102, 1), (104, 255), (105, 255), (106, 255), (107, 255), (108, 2), (128, 1), (136, 1),
  (140, 128), (145, 1), (148, 1)])) [(4, .full 64 false)]
theorem witness_raygoEnded :
    ready endedRay rayForm = true ∧ (team? endedRay 1).map (fun x => let w := wordsOf (scratchRead x 0 64 64)
      (ryOk w x.scr, ryRing w, ringValid x 0 (ryRing w), ringEos x 0 (ryRing w), ringUsed x 0 (ryRing w))) = some (true, 128, true, true, 1) := by
  decide +kernel

theorem witness_notExited :
    (group? postedBase 2).map (fun y => y.exited) = some 0 ∧ (group? (tileBase tileStore) 2).map (·.exited) = some 0 ∧
    laneExited emptyBase 2 0 = false ∧ (group? (tileBase tileLoad) 2).map (·.exited) = some 0 := by decide +kernel
theorem witness_fillSector :
    (team? fillBase 1).map (fun x => x.windows.map (fun w => sectorFilled w 0)) = some [false] ∧ fillBase.units.tags = [] := by decide +kernel

theorem teamsGoOn_of {s : State} (h : ∀ e ∈ s.work.teams, e.2.ended = true ∨ GoesOn s e.2) : TeamsGoOn s := fun _ _ hx => h _ (tget?_mem hx)
theorem goesOn_reads (rs : List PageRead) (mem : List (Nat × Byte)) : NoWindows (readsBase rs mem) ∧ TeamsGoOn (readsBase rs mem) := by
  refine ⟨by simp [NoWindows, readsBase, base, team], teamsGoOn_of ?_⟩
  intro e he
  simp only [readsBase, base, List.mem_singleton] at he
  subst he
  exact .inr (goesOn_of (by decide : (2 : Nat) ∈ team.groups) (by rfl : group? (readsBase rs mem) 2 = some group) rfl)
theorem witness_placed : (group? (swappedBase 3072) 2).map (fun x => (x.seats, x.ended)) = some ([3072], false) := by decide +kernel
theorem witness_cowCalm : (readsBase [pageRead 9 0x5000 true false] []).late = [] ∧ (readsBase [pageRead 9 0x5000 true false] []).units.tags = [] ∧
    (partOf (readsBase [pageRead 9 0x5000 true false] []) 0).reads.head? = some (pageRead 9 0x5000 true false) := by decide +kernel
/-- A ring with a free slot, an invalid one, and a valid one that is full. -/
theorem witness_publishes :
    (team? (ringState 1 0) 1).map (fun x => (ringValid x 0 0, ringUsed x 0 0, ringCount x 0 0)) = some (true, 1, 2) ∧
    (team? (ringState 2 0) 1).map (fun x => (ringValid x 0 0, ringUsed x 0 0, ringCount x 0 0)) = some (true, 2, 2) ∧
    (team? base 1).map (fun x => ringValid x 0 0) = some false := by decide +kernel
theorem witness_rayCalm : (rayState 0).units.tags = [] := by decide +kernel
theorem witness_idleLeave :
    waveReady (waiting crowded .slate) 0 = false ∧ (slot? (waiting crowded .slate) 0).map (fun y => (y.active, decide (y.readyAt + 16 ≤ (coreOf crowded 0).clk))) =
      some (true, true) ∧
    oldestWaits (waiting crowded (.bar 0)) 0 = true ∧ readyOutside (waiting crowded (.bar 0)) 0 0 = some 1 := by decide +kernel
theorem witness_kill :
    team.moving = none ∧ engineBusy base 1 = false ∧ team.windows = [] ∧
    (team? (modTeam base 1 (fun x => { x with moving := some ([], false) })) 1).map (fun x => x.moving.isSome) = some true ∧
    (slice 0).wait = .none ∧ (levelOf (slice 0)).running ≠ 0 := by decide +kernel

/-- A save whose next piece is the last, and one whose pieces are all written. -/
def savingBase (n : Nat) : State :=
  { saveBase with units := { saveBase.units with saving := [{ part := 0, team := 1, pa := 0x20000, since := 0, pieces := n, id := 5 }] } }
theorem calm_saving : ∀ n ∈ [1, 5, 6], Calm (savingBase n) := by
  intro n hn
  simp only [List.mem_cons, List.not_mem_nil, or_false] at hn
  rcases hn with rfl | rfl | rfl <;>
    exact calm_of _ (by decide +kernel) rfl rfl (by decide +kernel) (by decide) (by decide) (by decide) (by decide +kernel)
theorem witness_saving : ∀ n ∈ [1, 5, 6],
    (savingOf (savingBase n) 0).map (·.pieces) = some n ∧ (team? (savingBase n) 1).map (·.moving) = some none ∧ (teamLaunch? (savingBase n) 1).isSome = true ∧
    ctxRangeOk (savingBase n) 0x20000 (imageSize team (teamSlots (savingBase n) 1).length) = true ∧ teamPosted (savingBase n) 1 [2] = false ∧
    teamCopies (savingBase n) 1 = false := by decide +kernel

/-- A pixel team on core 1 whose tile's owner is on core 0. -/
def followPix : Pix := { pass := 5, order := 0, owner := 0, i0 := 0, j0 := 0, geom := geom, depths := [], outs := [] }
def followTeam : Team := { team with launch := 6, core := 1, groups := [4], grip := none }
def followBase : State :=
  { base with work := { base.work with
      groups := [(2, group), (4, { group with team := 2, seats := [24], pix := some followPix })],
      slots := [(0, slot), (24, { slot with launch := 6 })], teams := [(1, team), (2, followTeam)],
      launches := [(0, launch), (6, { launch with src := .pixels 5 })], passes := [(5, pass 0x301)] } }
theorem witness_follow :
    ownerCore followBase followTeam = some 0 ∧ (moveReady followBase 2 followTeam).1 = true ∧ beingSaved followBase 2 = false ∧
    ((teamLaunch? followBase 2).bind (fun l => teamFits followBase l.part followTeam (fun j => 3072 ≤ j) (teamSlots followBase 2) (launchReh l) true 0)).isSome
      = true ∧ ownerCore (movable 3 []) { team with grip := none } = none := by decide +kernel
theorem witness_reset :
    savingOf base 0 = none ∧ base.late = [] ∧ (partOf base 0).reads = [] ∧
    (team? base 1).map (fun x => (x.killed, x.moving, x.windows.length, x.ended)) = some (false, none, 0, false) := by decide +kernel
theorem witness_eventWindows : NoWindows (eventBase 1) := by
  simp [NoWindows, eventBase, setSysReg, base, team]
theorem witness_config :
    base.units.ready.getLsbD 5 = true ∧ base.units.ready.getLsbD 7 = true ∧ State.reset.units.ready.getLsbD 5 = false ∧
    State.reset.units.ready.getLsbD 7 = false := by decide +kernel

/-! ### Decoding

Words written out from Tables 4-1 to 4-16 and the opcode table: the fixed bits of each encoding, with distinct values in its fields. -/

/-- Whether each word decodes to the instruction beside it, and that instruction is encoded by the word. -/
def decodes (halves : Bool) (ws : List (Nat × Instr)) : Bool :=
  ws.all (fun e => decide ((decode (leBytes (if halves then 2 else 4) e.1)).toOption = some (e.2, [])) &&
    decide ((encode e.2).map Code.bytes = some (leBytes (if halves then 2 else 4) e.1)) && e.2.wellFormed)

theorem test_decode_integer1 : decodes false [
    (0x02C10803, .iadd true false 16 8 24),
    (0x0AC10803, .isub true false 16 8 24),
    (0x12C10803, .imul true false 16 8 24),
    (0x1AC10803, .imulh true false 16 8 24),
    (0x22C10803, .imulhu true false 16 8 24),
    (0x2AC10803, .imin true false 16 8 24),
    (0x32C10803, .imax true false 16 8 24),
    (0x3AC10803, .iminu true false 16 8 24),
    (0x42C10803, .imaxu true false 16 8 24),
    (0x4AC10803, .and true false 16 8 24),
    (0x52C10803, .or true false 16 8 24),
    (0x5AC10803, .xor true false 16 8 24),
    (0x62C10803, .andn true false 16 8 24),
    (0x6AC10803, .shl true false 16 8 24),
    (0x72C10803, .shr true false 16 8 24),
    (0x7AC10803, .sar true false 16 8 24)] = true := by decide +kernel

theorem test_decode_integer2 : decodes false [
    (0x82C10803, .iadds true false 16 8 24),
    (0x8AC10803, .isubs true false 16 8 24),
    (0x0A890805, .iaddi true 16 8 21),
    (0x0A990805, .imuli true 16 8 21),
    (0x0AA90805, .andi true 16 8 21),
    (0x0AB90805, .ori true 16 8 21),
    (0x0AC90805, .xori true 16 8 21),
    (0x0AD90805, .shli true 16 8 21),
    (0x0AE90805, .shri true 16 8 21),
    (0x0AF90805, .sari true 16 8 21),
    (0x02010807, .mov true 16 8),
    (0x0A010807, .not true 16 8),
    (0x12010807, .ineg true 16 8),
    (0x1A010807, .iabs true 16 8),
    (0x22010807, .popc true 16 8),
    (0x2A010807, .clz true 16 8)] = true := by decide +kernel

theorem test_decode_integer3 : decodes false [
    (0x32010807, .brev true 16 8),
    (0x0AC10809, .imad 16 8 24 5),
    (0x0AC1080B, .imadwUint 16 8 24 5),
    (0x4AC1080B, .imadwInt 16 8 24 5),
    (0x02C1080D, .iaddw true false 16 8 24),
    (0x0AC1080D, .isubw true false 16 8 24),
    (0x12C1080D, .shlw true false 16 8 24),
    (0x32C1080F, .icmp .ltu true false 16 8 24),
    (0x0AC10811, .sel 16 8 24 5),
    (0x0A010813, .bfe 16 8 5),
    (0x4A010813, .bfeu 16 8 5),
    (0x8AC10813, .bfi 16 8 24 5),
    (0xCAC10813, .bperm 16 8 24 5),
    (0x00150815, .movi 16 21),
    (0x00152815, .movhi 16 21)] = true := by decide +kernel

theorem test_decode_float1 : decodes false [
    (0xD2C10817, .fadd true true false .rz true false 16 8 24),
    (0xD2C10819, .fmul true true false .rz true false 16 8 24),
    (0x12C1081B, .fmin true true false 16 8 24),
    (0x1AC1081B, .fmax true true false 16 8 24),
    (0x8AC1081D, .ffma .rz 16 8 24 5),
    (0x32C1081F, .fcmp .ord true false 16 8 24),
    (0x02010821, .frcp true 16 8),
    (0x0A010821, .frsq true 16 8),
    (0x12010821, .fsqrt true 16 8),
    (0x1A010821, .fexp2 true 16 8),
    (0x22010821, .flog2 true 16 8),
    (0x2A010821, .fsin true 16 8),
    (0x32010821, .fcos true 16 8),
    (0x3A010821, .fclass true 16 8),
    (0x42010821, .fabs true 16 8),
    (0x4A010821, .fneg true 16 8)] = true := by decide +kernel

theorem test_decode_float2 : decodes false [
    (0x12010823, .frnd .rz true 16 8),
    (0xB2610825, .fcvt .f32e2m1 5 .rz true 16 8),
    (0x92C10827, .hpadd true .rz true false 16 8 24),
    (0xB2C10827, .hpmul true .rz true false 16 8 24),
    (0x42C10827, .hpmin true false 16 8 24),
    (0x62C10827, .hpmax true false 16 8 24),
    (0x8AC10829, .hpfma .rz 16 8 24 5),
    (0x8AC1082B, .bpfma .rz 16 8 24 5),
    (0x8AC1082D, .fdot .e4 16 8 24 5),
    (0x4AC1082F, .sobol true 16 8 24 5)] = true := by decide +kernel

theorem test_decode_lanes : decodes false [
    (0xEE010831, .xmov .up 29 16 8),
    (0xEEC10833, .xfadd .up 29 16 8 24),
    (0xEEC10835, .xiadd .up 29 16 8 24),
    (0x1A010837, .vote .all true 16 8),
    (0xA2010839, .xred .fmin true true 16 8),
    (0x02C1003B, .emitv true false 8 24),
    (0x0AC1003B, .emitp true false 8 24),
    (0x1048283B, .attr .lin 9 16),
    (0x1A01003B, .disc true 8),
    (0x2201003B, .zout true 8),
    (0x2A09003B, .pxout true true 8),
    (0x02C1083D, .tex true false 16 8 24),
    (0x0AC1083D, .texg true false 16 8 24),
    (0x0209083F, .tileld true true 16 8),
    (0x0A09083F, .tilest true true 16 8),
    (0x1201003F, .raygo true 8)] = true := by decide +kernel

theorem test_decode_control1 : decodes false [
    (0xFFFEE441, .bra true 8 0x3fffb),
    (0xFFFEE443, .brz true 8 0x3fffb),
    (0xFFFFFDC5, .jmp 0x1fffffb),
    (0xFFFFFDC7, .call 0x1fffffb),
    (0x02010049, .ret true 8),
    (0x02C1004B, .brx true false 8 24),
    (0x0001004D, .regang true),
    (0x0000004F, .exit),
    (0x00030051, .bar 3),
    (0x00002051, .barTeam),
    (0x00000053, .yield),
    (0x0000C055, .fence .dev true),
    (0x00A50057, .qfence 0xa5),
    (0x00150059, .sleep 21),
    (0x0015085B, .leaseReq 16 21),
    (0x0000205B, .leaseFree)] = true := by decide +kernel

theorem test_decode_control2 : decodes false [
    (0x0000485B, .leaseQuery 16),
    (0x0A80085D, .sysrd 16 21),
    (0x0A99005D, .syswr 21 true 8),
    (0x00A0085D, .cyc 16 true),
    (0x0AB0005D, .trap 21),
    (0x0040005D, .rett),
    (0x0AD0005D, .brk 21)] = true := by decide +kernel

theorem test_decode_memory : decodes false [
    (0xAD990861, .ld .b64 .dev true true 16 8 43),
    (0xAE990863, .st .b64 .dev true true 16 8 43),
    (0xAD590865, .ldl .b64 true true true 16 8 43),
    (0xAE590867, .stl .b64 true true true 16 8 43),
    (0xD0C10869, .atom .exch .dev true 16 8 24),
    (0xB0C1086B, .atoml .exch true true 16 8 24),
    (0xAC89006D, .clinePf .dev true 8 43),
    (0xAC8900ED, .clineWb .dev true 8 43),
    (0xAC89016D, .clineInv .dev true 8 43),
    (0x0201086F, .stashMap true 16 8),
    (0x0A01006F, .stashUnmap true 8),
    (0x1201006F, .stashFlush true 8)] = true := by decide +kernel

theorem test_decode_engines : decodes false [
    (0x02010071, .cpy true 8),
    (0x02090873, .slotw true true 16 8),
    (0x0A010073, .slotr true 8),
    (0x12010073, .slotp true 8),
    (0x1A010073, .slote true 8),
    (0x1AC10075, .qstrm 3 true false 8 24),
    (0x0448F077, .mma false false false true false 32 7 9),
    (0x13440479, .mpack .bf16 true false 8 32 40),
    (0x0000007B, .mtake),
    (0x0005207B, .mpass 5),
    (0x0201007D, .tspawn true 8),
    (0x0A01007D, .tsucc true 8)] = true := by decide +kernel

theorem test_decode_sixteenBit : decodes true [
    (0xA620, .mov16 true 17 9),
    (0xA622, .iadd16 true 17 9),
    (0xA624, .isub16 true 17 9),
    (0xA626, .imul16 true 17 9),
    (0xA628, .and16 true 17 9),
    (0xA62A, .or16 true 17 9),
    (0xA62C, .xor16 true 17 9),
    (0xA62E, .shl16 true 17 9),
    (0xA630, .shr16 true 17 9),
    (0xA632, .sar16 true 17 9),
    (0xA634, .imin16 true 17 9),
    (0xA636, .imax16 true 17 9),
    (0xA638, .fadd16 true 17 9),
    (0xA63A, .fsub16 true 17 9),
    (0xA63C, .fmul16 true 17 9),
    (0xA63E, .fmax16 true 17 9)] = true := by decide +kernel

/-- Words that the spec's own examples assemble (R84, R378 to R425). -/
theorem test_decode_examples : decodes false [
    (0x14386497, .fadd false false false .rz false true 9 3 7), (0x49408183, .and false false 3 4 40), (0xF820E305, .andi false 6 7 (-16)),
    (0x40088469, .atom .add .dev false 8 4 1), (0xD2308469, .atom .cas .dev true 8 4 6), (0x0008E46B, .atoml .add false false 8 7 1),
    (0x1018433B, .attr .flat 3 6), (0x4C2881AB, .bpfma .rne 3 4 5 6), (0x00018141, .bra false 2 6), (0x0030404B, .brx false false 2 6),
    (0xFFFE20C3, .brz true 1 (-8)), (0x4080816D, .clineInv .dev false 4 16), (0x00A003DD, .cyc 7 true),
    (0xA068E325, .fcvt .e2m1f32 5 .mode false 6 7), (0x482081A5, .fcvt .f32e4m3 2 .rne false 3 4),
    (0xB0288197, .fadd true false true .rz false false 3 4 5), (0x0030810D, .iaddw false false 2 4 6), (0x0000C055, .fence .dev true),
    (0x09908461, .ld .b64 .dev true false 8 4 2), (0x08004365, .ldl .b32 false false false 6 2 2), (0x006401DB, .leaseReq 3 100),
    (0x11C94077, .mma false true false false false 0 10 57), (0x02594877, .mma false false false false true 16 10 11),
    (0xA80081B9, .xred .fmax true false 3 4), (0x200081B7, .vote .first false 3 4), (0x00000245, .jmp 4)] = true := by decide +kernel

/-- R77, R93, R88: a word cut short, reserved majors, an unassigned function, a field that must be zero, and an odd pair register. -/
theorem test_decode_refused :
    (decode []).toOption = none ∧ (decode (leBytes 2 3)).toOption = none ∧ (decode (leBytes 4 0x00000001)).toOption = none ∧
    (decode (leBytes 4 0x0000005F)).toOption = none ∧ (decode (leBytes 4 0x0000007F)).toOption = none ∧ (decode (leBytes 4 0xF8000003)).toOption = none ∧
    (decode (leBytes 4 0x04010007)).toOption = none ∧ (decode (leBytes 4 0x00004061)).toOption ≠ none ∧
    (decode (leBytes 4 0x00002061)).toOption = none := by decide +kernel

/-! ### Results of single instructions, from the examples that the spec gives -/

/-- Registers `ds` of lane 0, and FSTAT, after one instruction on registers `rs` under a MODE. -/
def after (rs : List (Nat × Word)) (mode : Word) (i : Instr) (ds : List Nat) : List Word :=
  match exec i (modGroup (withRegs base (rs.map (fun e => (e.1, Elem.full e.2 false)))) 2 (fun x => { x with mode := mode })) with
  | .next t => ds.map (fun r => match laneElem t (.wave 2 0) r with | .full v _ => v | .empty _ => 0xBAD) ++
      [((group? t 2).map (fun x => x.fstat)).getD 0]
  | _ => []

/-- The examples of R378, R379 and R395: IMULH, IMULHU, IADDS, ISUBS, AND, ANDN, ANDI, SHR and SAR. -/
theorem test_integer :
    after [(4, 0x80000000), (5, 2)] 0 (.imulh false false 3 4 5) [3] = [0xFFFFFFFF, 0] ∧
    after [(4, 0x80000000), (5, 2)] 0 (.imulhu false false 3 4 5) [3] = [1, 0] ∧
    after [(4, 0x7FFFFFF0), (5, 0x20)] 0 (.iadds false false 3 4 5) [3] = [0x7FFFFFFF, 0] ∧
    after [(4, 0x80000000), (5, 1)] 0 (.isubs false false 3 4 5) [3] = [0x80000000, 0] ∧
    after [(4, 0xFF0F), (40, 0x0F0F)] 0 (.and false false 3 4 40) [3] = [0x0F0F, 0] ∧
    after [(4, 0xFF0F), (40, 0x0F0F)] 0 (.andn false false 3 4 40) [3] = [0xF000, 0] ∧
    after [(7, 0x12345678)] 0 (.andi false 6 7 (-16)) [6] = [0x12345670, 0] ∧
    after [(4, 0x80000010), (5, 0x24)] 0 (.shr false false 3 4 5) [3] = [0x08000001, 0] ∧
    after [(4, 0x80000010), (5, 0x24)] 0 (.sar false false 3 4 5) [3] = [0xF8000001, 0] := by decide +kernel
/-- The examples of the bit-field instructions, of IADDW and of IMADW. -/
theorem test_fields :
    after [(4, 0xF80), (9, 0x804)] 0 (.bfe 3 4 9) [3] = [0xFFFFFFF8, 0] ∧ after [(4, 0xF80), (9, 0x804)] 0 (.bfeu 3 4 9) [3] = [0xF8, 0] ∧
    after [(4, 5), (5, 0xFFFFFFFF), (9, 0x804)] 0 (.bfi 3 4 5 9) [3] = [0xFFFFF05F, 0] ∧
    after [(4, 0x44332211), (5, 0x88776655), (9, 0x8407)] 0 (.bperm 3 4 5 9) [3] = [0x00551188, 0] ∧
    after [(4, 0xFFFFFFFF), (5, 1), (6, 1), (7, 0)] 0 (.iaddw false false 2 4 6) [2, 3] = [0, 2, 0] ∧
    after [(4, 0xFFFFFFFD), (5, 5), (6, 0xFFFFFFFF)] 0 (.imadwInt 2 4 5 6) [2, 3] = [0xFFFFFFF0, 0xFFFFFFFF, 0] ∧
    after [(4, 0xFFFFFFFD), (5, 5), (6, 0xFFFFFFFF)] 0 (.imadwUint 2 4 5 6) [2, 3] = [0xFFFFFFF0, 5, 0] := by decide +kernel
/-- The examples of FNEG, FADD, FFMA, FMUL, FCLASS, FCMP, FMIN and FMAX, with their flags in FSTAT. -/
theorem test_float :
    after [(4, 0x7F800001)] 0 (.fneg false 3 4) [3] = [0xFF800001, 0] ∧
    after [(4, 0x7F800001), (5, 0)] 0 (.fadd false false false .mode false false 3 4 5) [3] = [0x7FC00000, 1] ∧
    after [(4, 0x3F800001), (5, 0x3F800001), (6, 0xBF800002)] 0 (.ffma .mode 3 4 5 6) [3] = [0x28800000, 0] ∧
    after [(4, 0x3F800001), (5, 0x3F800001)] 0 (.fmul false false false .mode false false 3 4 5) [3] = [0x3F800002, 16] ∧
    after [(4, 1)] 0 (.fclass false 3 4) [3] = [0x20, 0] ∧ after [(4, 0xFFC00000)] 0 (.fclass false 3 4) [3] = [0x200, 0] ∧
    after [(4, 0x7FC00000), (5, 0x3F800000)] 0 (.fcmp .lt false false 3 4 5) [3] = [0, 1] ∧
    after [(4, 0x7FC00000), (5, 0x3F800000)] 0 (.fcmp .ne false false 3 4 5) [3] = [0xFFFFFFFF, 0] ∧
    after [(4, 1), (5, 0x80000000)] 8 (.fcmp .eq false false 3 4 5) [3] = [0xFFFFFFFF, 0] ∧
    after [(4, 0x80000000), (5, 0)] 0 (.fmin false false false 3 4 5) [3] = [0x80000000, 0] ∧
    after [(4, 0x7F800001), (5, 0x40000000)] 0 (.fmax false false false 3 4 5) [3] = [0x40000000, 1] ∧
    after [(4, 0x7F800001), (5, 0x40000000)] 0 (.fmax true false false 3 4 5) [3] = [0x7FC00000, 1] := by decide +kernel
/-- The examples of BPFMA, HPADD, HPMUL and FDOT, and of FCVT to E4M3, E2M1 and the P4 codes (R115, R123). -/
theorem test_packed :
    after [(4, 0x3F804000), (5, 0x40404040), (6, 0x3F80BF80)] 0 (.bpfma .mode 3 4 5 6) [3] = [0x408040A0, 0] ∧
    after [(4, 0x3C004000), (5, 0x3C00BC00)] 0 (.hpadd false .mode false false 3 4 5) [3] = [0x40003C00, 0] ∧
    after [(4, 0x5CB0), (5, 0x5CB0)] 0 (.hpmul false .mode false false 3 4 5) [3] = [0x7C00, 20] ∧
    after [(4, 0x5CB0), (5, 0x5CB0)] 0 (.hpmul false .rz false false 3 4 5) [3] = [0x7BFF, 20] ∧
    after [(4, 0x38383838), (5, 0x4838C040), (6, 0x3F000000)] 0 (.fdot .e4 3 4 5 6) [3] = [0x40B00000, 0] ∧
    after [(4, 0x43E80000)] 0 (.fcvt .f32e4m3 0 .rne false 3 4) [3] = [0x7E, 16] ∧
    after [(4, 0x43E88000)] 0 (.fcvt .f32e4m3 0 .rne false 3 4) [3] = [0x7F, 20] ∧
    after [(4, 0x43E88000)] 4 (.fcvt .f32e4m3 0 .rne false 3 4) [3] = [0x7E, 20] := by decide +kernel
/-- CALL writes the link pair (R354), and VOTE.bal counts the lanes that take part (R423). -/
theorem test_call_vote :
    (match exec (.call 0x200) base with
     | .next t => (laneElem t (.wave 2 0) 54, laneElem t (.wave 2 0) 55, (slice? t 2 0).map (fun x => (levelOf x).pc))
     | _ => (.empty 0, .empty 0, none)) = (.full 0x2004 false, .full 0 false, some 0x2400) ∧
    after [(5, 1)] 0 (.vote .bal false 3 5) [3] = [15, 0] := by decide +kernel

/-! ### Ill-formed terms: one for each check of WellFormed -/

theorem test_illFormed :
    (Instr.imadwInt 3 4 5 6).wellFormed = false ∧ (Instr.iaddw false false 2 4 7).wellFormed = false ∧ (Instr.shlw false false 2 5 6).wellFormed = false ∧
    (Instr.fcvt .f32f16 2 .mode false 3 4).wellFormed = false ∧ (Instr.fcvt .f32e4m3 4 .mode false 3 4).wellFormed = false ∧
    (Instr.fcvt .f32int 1 .mode false 3 4).wellFormed = false ∧ (Instr.emitv false false 1 6).wellFormed = false ∧
    (Instr.pxout false false 55).wellFormed = false ∧ (Instr.tex false false 54 2 4).wellFormed = false ∧ (Instr.texg false false 8 56 4).wellFormed = false ∧
    (Instr.tileld false false 7 4).wellFormed = false ∧ (Instr.tilest false false 56 4).wellFormed = false ∧ (Instr.ret false 53).wellFormed = false ∧
    (Instr.brx false false 2 7).wellFormed = false ∧ (Instr.ld .b64 .grp false false 7 4 0).wellFormed = false ∧
    (Instr.st .b128 .grp false false 6 4 0).wellFormed = false ∧ (Instr.ldl .b128 false false false 56 4 0).wellFormed = false ∧
    (Instr.stl .b64 false false false 7 4 0).wellFormed = false ∧ (Instr.atom .cas .grp false 8 4 7).wellFormed = false ∧
    (Instr.atoml .cas false false 8 7 5).wellFormed = false ∧ (Instr.clineWb .grp false 5 0).wellFormed = false ∧
    (Instr.cpy false 12).wellFormed = false ∧ (Instr.qstrm 0 false false 56 4).wellFormed = false := by decide
theorem test_illFormedMore :
    (Instr.mma false false false false false 8 4 6).wellFormed = false ∧ (Instr.mma false true false false false 16 4 6).wellFormed = false ∧
    (Instr.mma false false false false false 16 4 57).wellFormed = false ∧ (Instr.mpack .bf16 false false 52 0 16).wellFormed = false ∧
    (Instr.mpack .i8 false false 6 0 16).wellFormed = false ∧ (Instr.mpack .i8 false false 8 8 16).wellFormed = false ∧
    (Instr.mpack .i8 false false 8 0 44).wellFormed = false ∧ (Instr.mpass 6).wellFormed = false ∧ (Instr.tspawn false 3).wellFormed = false ∧
    (Instr.tsucc false 3).wellFormed = false ∧ (Instr.matrixOperation 128 0).wellFormed = false ∧ (Instr.slateObtained 0 4).wellFormed = false ∧
    (Instr.copyOperation 128).wellFormed = false ∧ (Instr.copyRingPublication 128).wellFormed = false ∧ (Instr.streamEntryFetch 0 16).wellFormed = false ∧
    (Instr.textureOperation 128).wellFormed = false ∧ (Instr.rayLaunch 32).wellFormed = false ∧ (Instr.stashFill 0 2 0 0).wellFormed = false ∧
    (Instr.nvmeReadCompletion 0 0 0 []).wellFormed = false ∧ (Instr.taskDispatch 128).wellFormed = false ∧
    (Instr.rasterRecordTake 16 0).wellFormed = false ∧ (Instr.pixelCommit 128).wellFormed = false ∧ (Instr.lensCorrection 0 16).wellFormed = false := by decide
theorem test_illFormedSteps :
    (Instr.stripScanout 16 0 false).wellFormed = false ∧ (Instr.stripCountdownEnd 0 16).wellFormed = false ∧ (Instr.av1StripSend 16 0).wellFormed = false ∧
    (Instr.streamEnable 0 16).wellFormed = false ∧ (Instr.leaseExpiry 32).wellFormed = false ∧ (Instr.gateSequenceBegin 32).wellFormed = false ∧
    (Instr.gateCommit 32).wellFormed = false ∧ (Instr.clusterWakeUp 32).wellFormed = false ∧ (Instr.yieldTimeout 0 16).wellFormed = false ∧
    (Instr.sleepExpiry 0 16).wellFormed = false ∧ (Instr.ctxcmdUndefinedOp 8).wellFormed = false ∧ (Instr.peerLinkFailure 8).wellFormed = false ∧
    (Instr.functionReady 13).wellFormed = false := by decide

end Sys2Proof.Tests
end

section
namespace Sys2Proof.Machine

/-! ### The exact values of finite numbers -/

theorem isFin_fin (n : Bool) (a b : Nat) : isFin (.fin n a b) = true ↔ b ≠ 0 := by simp [isFin]

/-- A signed numerator over its denominator. -/
theorem numVal_fin (n : Bool) (a b : Nat) : numVal (.fin n a b) = (sgn n a : ℚ) / b := by
  cases n <;> simp [numVal, sgn]

theorem exists_fin_of_isFin {x : Num} (h : isFin x = true) : ∃ n a b, b ≠ 0 ∧ x = .fin n a b := by
  cases x with
  | fin n a b => exact ⟨n, a, b, (isFin_fin n a b).1 h, rfl⟩
  | nan s => cases h
  | inf n => cases h

theorem sgn_natAbs (s : Int) : sgn (decide (s < 0)) s.natAbs = s := by
  simp only [sgn, decide_eq_true_eq]
  split <;> omega

theorem sgn_mul (m n : Bool) (a c : Nat) : sgn (m != n) (a * c) = sgn m a * sgn n c := by
  cases m <;> cases n <;> simp [sgn]

/-- The sum of two fractions over the product of the denominators, or zero where it is zero. -/
theorem numAdd_fin (rm : RMode) (na nc : Bool) (a b c d : Nat) (hb : b ≠ 0) (hd : d ≠ 0) :
    isFin (numAdd rm (.fin na a b) (.fin nc c d)).1 = true ∧
      numVal (numAdd rm (.fin na a b) (.fin nc c d)).1 = numVal (.fin na a b) + numVal (.fin nc c d) := by
  have sum : (sgn na a : ℚ) / b + (sgn nc c : ℚ) / d = ((sgn na (a * d) + sgn nc (c * b) : Int) : ℚ) / (b * d : Nat) := by
    rw [div_add_div _ _ (by exact_mod_cast hb) (by exact_mod_cast hd)]
    cases na <;> cases nc <;> simp [sgn] <;> ring
  rw [numVal_fin, numVal_fin, sum]
  unfold numAdd
  dsimp only
  split
  case isTrue h => simp [isFin, h, numVal]
  case isFalse h =>
    rw [isFin_fin, numVal_fin, sgn_natAbs]
    exact ⟨Nat.mul_ne_zero hb hd, rfl⟩

theorem numAdd_exact (rm : RMode) {x y : Num} (hx : isFin x = true) (hy : isFin y = true) :
    isFin (numAdd rm x y).1 = true ∧ numVal (numAdd rm x y).1 = numVal x + numVal y := by
  obtain ⟨na, a, b, hb, rfl⟩ := exists_fin_of_isFin hx
  obtain ⟨nc, c, d, hd, rfl⟩ := exists_fin_of_isFin hy
  exact numAdd_fin rm na nc a b c d hb hd

theorem numMul_exact {x y : Num} (hx : isFin x = true) (hy : isFin y = true) :
    isFin (numMul x y).1 = true ∧ numVal (numMul x y).1 = numVal x * numVal y := by
  obtain ⟨na, a, b, hb, rfl⟩ := exists_fin_of_isFin hx
  obtain ⟨nc, c, d, hd, rfl⟩ := exists_fin_of_isFin hy
  refine ⟨(isFin_fin _ _ _).2 (Nat.mul_ne_zero hb hd), ?_⟩
  change numVal (.fin (na != nc) (a * c) (b * d)) = _
  rw [numVal_fin, numVal_fin, numVal_fin, sgn_mul, div_mul_div_comm]
  push_cast
  rfl

/-- A product and a sum, neither of them rounded. -/
theorem numFma_fst (rm : RMode) (x y z : Num) : (numFma rm x y z).1 = (numAdd rm (numMul x y).1 z).1 := rfl

theorem numFma_exact (rm : RMode) {x y z : Num} (hx : isFin x = true) (hy : isFin y = true) (hz : isFin z = true) :
    isFin (numFma rm x y z).1 = true ∧ numVal (numFma rm x y z).1 = numVal x * numVal y + numVal z := by
  obtain ⟨hp, vp⟩ := numMul_exact hx hy
  rw [numFma_fst, ← vp]
  exact numAdd_exact rm hp hz

end Sys2Proof.Machine
end

section
open Sys2Proof Sys2Proof.Machine

/-- Settles O5: a sum is taken over the product of the denominators, a product numerator by numerator, and neither is rounded. -/
theorem floatArithmeticIsExactBeforeRounding : Obligations.FloatArithmeticIsExactBeforeRounding :=
  fun rm _ _ _ hx hy hz => ⟨numAdd_exact rm hx hy, numMul_exact hx hy, numFma_exact rm hx hy hz⟩

end

section
namespace Sys2Proof.Machine

/-! ### A reset of a partition over a table of teams that lists a number twice -/

/-- A team without groups, in no launch: partition 0 has it. -/
def bareTeam (ended : Bool) : Team :=
  { launch := 0, no := 0, tx := 0, ty := 0, tz := 0, core := 0, lcore := 0, pair := false, scr := 0, tmem := 0, groups := [], scratch := [],
    bad := [], windows := [], grip := none, stopped := false, killed := ended, ended := ended, stashErr := false, resizeAt := none,
    rszHeld := false, moving := none, doomed := false }

/-- The reset state with team 0 listed twice: reads find the first entry, which has ended, and the second has not. -/
def twiceListed : State := { State.reset with work := { Work.reset with teams := [(0, bareTeam true), (0, bareTeam false)] } }

/-- Each team that a read finds has ended. -/
theorem ended_of_team?_twiceListed {k : Nat} {x : Team} (h : team? twiceListed k = some x) : x.ended = true := by
  by_cases hk : k = 0
  · subst hk
    cases h
    rfl
  · have none : team? twiceListed k = none := by simp [team?, twiceListed, tget?, Ne.symm hk]
    rw [none] at h
    cases h

/-- The reset still waits for the second entry, which no kill reaches. -/
theorem resetPart_twiceListed_waits : (partOf (resetPart twiceListed 0) 0).resetting = true := by decide

end Sys2Proof.Machine
end

section
open Sys2Proof Sys2Proof.Machine

/-- Refutes O59: the statement is about every state, also one whose table of teams lists a number twice. PCTL.RST is claimed to be over in
its step when every team that `team?` finds is ready to end, but the reset waits for every entry of the table, and `twiceListed` holds
one that `team?` does not find, so that no kill reaches it. -/
theorem not_privilegedRegistersTakeEffect : ¬ Obligations.PrivilegedRegistersTakeEffect := by
  unfold Obligations.PrivilegedRegistersTakeEffect
  intro h
  obtain ⟨-, -, -, -, -, -, -, -, -, reset, -⟩ := h twiceListed
  have live (k : Nat) (x : Team) (hk : team? twiceListed k = some x) (_ : teamPart twiceListed k = psel twiceListed)
      (he : x.ended = false) :
      x.killed = false ∧ x.moving = none ∧ x.windows = [] ∧ engineBusy twiceListed k = false := by
    rw [ended_of_team?_twiceListed hk] at he
    cases he
  obtain ⟨t, ht, hdone, -⟩ := reset rfl rfl rfl live
  cases ht
  have waits : (partOf (resetPart twiceListed 0) 0).resetting = true := resetPart_twiceListed_waits
  exact absurd (waits.symm.trans hdone) (by decide)

end

section
/-! The canonical form of memory through every operation of the model, in the order of the model's files: each operation keeps the form
because it leaves memory as it was (`FormKept.of_eq rfl`), or because it is put together from operations that keep it. -/

namespace Sys2Proof.Machine

/-! ### How operations are put together -/

theorem FormKept.after {s u t : State} (k : FormKept u t) (h : FormKept s u) : FormKept s t := h.trans k

/-- Fields beside memory may change as they will. -/
theorem FormKept.fields {s u : State} {memPoison : List Nat} {work : Work} {units : Units} {posted : List Posted} {nextTag : Nat}
    {late : List Late} {deferring : Option Nat} {freeIx : Nat} {outside : Outside} {agenda : List Happening} {focus : Focus}
    (h : FormKept s u) :
    FormKept s ⟨u.mem, memPoison, work, units, posted, nextTag, late, deferring, freeIx, outside, agenda, focus⟩ := h

theorem FormKept.ite {s a b : State} {c : Prop} [Decidable c] (ha : FormKept s a) (hb : FormKept s b) :
    FormKept s (if c then a else b) := by
  split
  · exact ha
  · exact hb

theorem FormKept.of_fst {α : Type} {s t : State} {x : State × α} {a : α} (k : FormKept s x.1) (h : x = (t, a)) : FormKept s t := by
  subst h
  exact k

theorem FormKept.of_snd {α : Type} {s t : State} {x : α × State} {a : α} (k : FormKept s x.2) (h : x = (a, t)) : FormKept s t := by
  subst h
  exact k

/-- A fold that carries something beside the state. -/
theorem FormKept.foldl_fst {α β : Type} (f : State × β → α → State × β) (h : ∀ r a, FormKept r.1 (f r a).1) (as : List α)
    (r : State × β) : FormKept r.1 (as.foldl f r).1 := by
  induction as generalizing r with
  | nil => exact FormKept.refl _
  | cons a as ih => exact (h r a).trans (ih _)

/-- An operation that may be kept from going on leaves a memory in canonical form either way. -/
def TakeKept (s : State) (r : Except (State × Block) State) : Prop :=
  match r with
  | .ok t => FormKept s t
  | .error e => FormKept s e.1

theorem TakeKept.ok {s t : State} {r : Except (State × Block) State} (k : TakeKept s r) (h : r = .ok t) : FormKept s t := by
  subst h
  exact k

theorem TakeKept.error {s : State} {e : State × Block} {r : Except (State × Block) State} (k : TakeKept s r) (h : r = .error e) :
    FormKept s e.1 := by
  subst h
  exact k

/-- A meaning whose notes and effects keep the canonical form. -/
structure Entry.KeepsForm (e : Entry) : Prop where
  note : ∀ l vs s, FormKept s (e.note l vs s)
  eff : ∀ l vs s, FormKept s (e.eff l vs s)
  once : ∀ f, e.once = some f → ∀ xs s, FormKept s (f xs s)

/-- A meaning that acts for lanes only. -/
theorem Entry.KeepsForm.of_lanes {e : Entry} (note : ∀ l vs s, FormKept s (e.note l vs s)) (eff : ∀ l vs s, FormKept s (e.eff l vs s))
    (h : e.once = none) : e.KeepsForm :=
  ⟨note, eff, fun f hf => by rw [h] at hf; cases hf⟩

/-- A meaning without notes that acts for lanes only. -/
theorem Entry.KeepsForm.of_effects {e : Entry} (eff : ∀ l vs s, FormKept s (e.eff l vs s)) (hn : e.note = fun _ _ s => s)
    (h : e.once = none) : e.KeepsForm :=
  .of_lanes (fun _ _ s => by rw [hn]; exact FormKept.refl s) eff h

/-- A meaning that acts for no lane. -/
theorem Entry.KeepsForm.of_still {e : Entry} (hn : e.note = fun _ _ s => s) (he : e.eff = fun _ _ s => s) (h : e.once = none) :
    e.KeepsForm :=
  .of_effects (fun _ _ s => by rw [he]; exact FormKept.refl s) hn h

/-- A meaning that acts once for a group. -/
theorem Entry.KeepsForm.of_group {e : Entry} {f : List (LaneId × List Word) → State → State}
    (note : ∀ l vs s, FormKept s (e.note l vs s)) (eff : ∀ l vs s, FormKept s (e.eff l vs s)) (hf : ∀ xs s, FormKept s (f xs s))
    (h : e.once = some f) : e.KeepsForm :=
  ⟨note, eff, fun g hg => by rw [h] at hg; exact Option.some.inj hg ▸ hf⟩

theorem keepsForm_pureEntry (form : Form) (plan : LaneId → List Word → Act) : (pureEntry form plan).KeepsForm :=
  .of_lanes (fun _ _ s => FormKept.refl s) (fun _ _ s => FormKept.refl s) rfl

/-- The next state of an answer, if it has one, keeps the canonical form. -/
def OutcomeKept (s : State) (o : Host.Outcome State Fault Refusal) : Prop := ∀ t, o = .next t → FormKept s t

theorem OutcomeKept.next {s t : State} (h : FormKept s t) : OutcomeKept s (.next t) := by
  intro u e
  cases e
  exact h

theorem OutcomeKept.fault {s : State} (f : Fault) : OutcomeKept s (.fault f) := fun _ e => by cases e

theorem OutcomeKept.of_kept {s u : State} {o : Host.Outcome State Fault Refusal} (h : FormKept s u) (k : OutcomeKept u o) :
    OutcomeKept s o :=
  fun t e => h.trans (k t e)

theorem OutcomeKept.ite {s : State} {a b : Host.Outcome State Fault Refusal} {c : Prop} [Decidable c] (ha : OutcomeKept s a)
    (hb : OutcomeKept s b) : OutcomeKept s (if c then a else b) := by
  split
  · exact ha
  · exact hb

/-! ### Waves, groups and traps -/

theorem formKept_setCluster (s : State) (c : Nat) (x : Cluster) : FormKept s (setCluster s c x) := FormKept.of_eq rfl

theorem formKept_modQuad (s : State) (c q : Nat) (f : Quad → Quad) : FormKept s (modQuad s c q f) := FormKept.of_eq rfl

theorem formKept_setGroup (s : State) (g : Nat) (x : Group) : FormKept s (setGroup s g x) := FormKept.of_eq rfl

theorem formKept_modGroup (s : State) (g : Nat) (f : Group → Group) : FormKept s (modGroup s g f) := FormKept.of_eq rfl

theorem formKept_setTeam (s : State) (t : Nat) (x : Team) : FormKept s (setTeam s t x) := FormKept.of_eq rfl

theorem formKept_modLaunch (s : State) (l : Nat) (f : Launch → Launch) : FormKept s (modLaunch s l f) := FormKept.of_eq rfl

theorem formKept_modSlot (s : State) (k : Nat) (f : Slot → Slot) : FormKept s (modSlot s k f) := FormKept.of_eq rfl

theorem formKept_modPass (s : State) (p : Nat) (f : Pass → Pass) : FormKept s (modPass s p f) := FormKept.of_eq rfl

theorem formKept_setBankReg (s : State) (p n : Nat) (v : Word) : FormKept s (setBankReg s p n v) := FormKept.of_eq rfl

theorem formKept_setSysReg (s : State) (n : Nat) (v : Word) : FormKept s (setSysReg s n v) := FormKept.of_eq rfl

theorem formKept_setFwCode (s : State) (code : Nat) : FormKept s (setFwCode s code) := FormKept.of_eq rfl

theorem formKept_modSlice (s : State) (g n : Nat) (f : Slice → Slice) : FormKept s (modSlice s g n f) := FormKept.of_eq rfl

theorem formKept_setLaneElem (s : State) (l : LaneId) (r : Nat) (e : Elem) : FormKept s (setLaneElem s l r e) := by
  unfold setLaneElem
  split
  · exact FormKept.ite (formKept_modGroup _ _ _) (formKept_modSlice _ _ _ _)
  · exact formKept_modTeam _ _ _
  · exact FormKept.fields (FormKept.refl _)

theorem formKept_writeLane (s : State) (l : LaneId) (r : Nat) (v : Word) :
    FormKept s (writeLane s l r v) := formKept_setLaneElem _ _ _ _

theorem formKept_writeLanes (s : State) (l : LaneId) (ws : List (Nat × Word)) : FormKept s (writeLanes s l ws) :=
  FormKept.foldl _ (fun _ _ => formKept_writeLane _ _ _ _) _ _

theorem formKept_post (s : State) (kind : PostedKind) (dests : List (LaneId × Nat × Word × Bool)) : FormKept s (post s kind dests) :=
  FormKept.fields ((FormKept.foldl _ (fun _ _ => formKept_setLaneElem _ _ _ _) _ _).after (FormKept.fields (FormKept.refl _)))

theorem formKept_regroup (s : State) (es : List (Nat × Nat)) : FormKept s (regroup s es) :=
  FormKept.foldl _ (fun _ _ => formKept_modSlice _ _ _ _) _ _

theorem formKept_partWave (s : State) (k : Nat) : FormKept s (partWave s k) := formKept_regroup _ _

theorem formKept_partGroup (s : State) (g : Nat) : FormKept s (partGroup s g) :=
    FormKept.foldl _ (fun _ _ => formKept_partWave _ _) _ _

theorem formKept_squashRob (s : State) (g : Nat) : FormKept s (squashRob s g) := by
  unfold squashRob
  split
  · exact FormKept.refl _
  · exact FormKept.foldl _ (fun _ _ => formKept_modSlot _ _ _) _ _

theorem formKept_retireEntry (s : State) (k stamp : Nat) : FormKept s (retireEntry s k stamp) := FormKept.of_eq rfl

theorem formKept_squashGroup (s : State) (g : Nat) : FormKept s (squashGroup s g) := by
  unfold squashGroup
  split
  · exact FormKept.refl _
  · extract_lets u waited u1
    have hu : FormKept s u := formKept_squashRob _ _
    have hu1 : FormKept s u1 := (formKept_modGroup _ _ _).after hu
    split
    · exact FormKept.ite hu1 ((formKept_modQuad _ _ _ _).after hu1)
    · exact hu1

theorem formKept_stopGroup (s : State) (g : Nat) : FormKept s (stopGroup s g) :=
  (formKept_modGroup _ _ _).after (formKept_squashGroup _ _)

theorem formKept_stopTeam (s : State) (t : Nat) : FormKept s (stopTeam s t) := by
  unfold stopTeam
  split
  · exact FormKept.refl _
  · exact (formKept_modTeam _ _ _).after (FormKept.foldl _ (fun _ _ => formKept_stopGroup _ _) _ _)

theorem formKept_escalate (s : State) (g n : Nat) (pc : Addr) (t : Trap) (cause : Nat) : FormKept s (escalate s g n pc t cause) := by
  unfold escalate
  split
  · exact FormKept.refl _
  · split
    · exact (formKept_raiseEvent _ _).after ((formKept_stopGroup _ _).after (formKept_modSlice _ _ _ _))

theorem formKept_debugStop (s : State) (g n : Nat) (pc : Addr) (t : Trap) : FormKept s (debugStop s g n pc t) := by
  unfold debugStop
  split
  · exact FormKept.refl _
  · exact (formKept_stopTeam _ _).after (formKept_modSlice _ _ _ _)

theorem formKept_takeTrap (s : State) (g n : Nat) (pc : Addr) (lanes : LMask) (t : Trap) : FormKept s (takeTrap s g n pc lanes t) := by
  unfold takeTrap
  split
  · exact FormKept.refl _
  · exact FormKept.ite (formKept_debugStop _ _ _ _ _) (FormKept.ite (formKept_escalate _ _ _ _ _ _)
      (FormKept.ite (formKept_escalate _ _ _ _ _ _) (formKept_modSlice _ _ _ _)))

theorem formKept_gripTrap (s : State) (t : Nat) (cause detail : Nat) : FormKept s (gripTrap s t cause detail) := by
  unfold gripTrap
  split
  · exact FormKept.refl _
  · dsimp only
    exact FormKept.ite ((formKept_stopTeam _ _).after (formKept_modTeam _ _ _))
      ((formKept_raiseEvent _ _).after (formKept_modTeam _ _ _))

theorem formKept_mgmtTrap (s : State) (n cause : Nat) : FormKept s (mgmtTrap s n cause) := FormKept.of_eq rfl

theorem formKept_addAsync (s : State) (k team cause addr : Nat) : FormKept s (addAsync s k team cause addr) := FormKept.of_eq rfl

/-! ### The L1 -/

theorem formKept_noteLink (s : State) (l : LaneId) (pa : Nat) : FormKept s (noteLink s l pa) := formKept_noteLinkAt _ _ _ _

theorem formKept_freshL1 (s : State) (c : Nat) (pair : Bool) : FormKept s (freshL1 s c pair) :=
  FormKept.ite ((formKept_invalidateL1 _ _).after (formKept_invalidateL1 _ _)) (formKept_invalidateL1 _ _)

/-! ### Accesses of lanes -/

theorem formKept_promoteReads (s : State) (l : LaneId) : FormKept s (promoteReads s l) :=
  FormKept.fields (FormKept.foldl _ (fun _ _ => formKept_promote _ _ _) _ _)

theorem formKept_performLate (s : State) (id : Nat) : FormKept s (performLate s id) := formKept_performThose _ _

theorem formKept_drainLane (s : State) (l : LaneId) : FormKept s (drainLane s l) := formKept_performThose _ _

theorem formKept_drainGroup (s : State) (g : Nat) : FormKept s (drainGroup s g) := formKept_performThose _ _

theorem formKept_drainTeam (s : State) (tm : Nat) : FormKept s (drainTeam s tm) := formKept_performThose _ _

theorem formKept_drainFrame (s : State) (f : Nat) : FormKept s (drainFrame s f) := formKept_performThose _ _

theorem formKept_beforeAccess (s : State) (e : Late) : FormKept s (beforeAccess s e) := formKept_performThose _ _

theorem formKept_addLate (s : State) (e : Late) : FormKept s (addLate s e) := FormKept.of_eq rfl

theorem formKept_addParts (s : State) (e : Late) (mk : Nat → Nat → LateOp) : FormKept s (addParts s e mk) :=
  (FormKept.foldl _ (fun _ _ => formKept_addLate _ _) _ _).after
    (FormKept.ite ((formKept_releaseLane _ _ _).after (formKept_drainLane _ _)) (FormKept.refl _))

theorem formKept_loadAccess (s : State) (l : LaneId) (sc : Scope) (acq g : Bool) (d pa n : Nat) :
    FormKept s (loadAccess s l sc acq g d pa n) :=
  FormKept.ite ((formKept_addParts _ _ _).after (formKept_post _ _ _))
    (FormKept.ite ((formKept_acquireLane _ _ _).after ((formKept_noteLink _ _ _).after
    ((formKept_post _ _ _).after ((formKept_loadAt _ _ _ _ _ _ _).after
    ((formKept_countAccess _ _ _ _ _).after (formKept_beforeAccess _ _))))))
    ((formKept_noteLink _ _ _).after ((formKept_post _ _ _).after
    ((formKept_loadAt _ _ _ _ _ _ _).after ((formKept_countAccess _ _ _ _ _).after (formKept_beforeAccess _ _))))))

theorem formKept_storeAccess (s : State) (l : LaneId) (sc : Scope) (rel g : Bool) (pa : Nat) (bs : List Byte) :
    FormKept s (storeAccess s l sc rel g pa bs) :=
  FormKept.ite (formKept_addParts _ _ _) ((formKept_storeAt _ _ _ _ _ _ _ _).after
    ((formKept_countAccess _ _ _ _ _).after (formKept_beforeAccess _ _)))

theorem formKept_atomAccess (s : State) (l : LaneId) (op : AtomOp) (sc : Scope) (ar g : Bool) (d pa : Nat) (v c1 : Word) :
    FormKept s (atomAccess s l op sc ar g d pa v c1) :=
  FormKept.ite ((formKept_addParts _ _ _).after (formKept_post _ _ _))
    (FormKept.ite ((formKept_acquireLane _ _ _).after ((formKept_noteLink _ _ _).after
    ((formKept_post _ _ _).after ((formKept_atomAt _ _ _ _ _ _ _ _ _ _).after
    ((formKept_countAccess _ _ _ _ _).after (formKept_beforeAccess _ _))))))
    ((formKept_noteLink _ _ _).after ((formKept_post _ _ _).after
    ((formKept_atomAt _ _ _ _ _ _ _ _ _ _).after ((formKept_countAccess _ _ _ _ _).after (formKept_beforeAccess _ _))))))

theorem formKept_loadLocal (s : State) (l : LaneId) (team sync : Bool) (tm side off d n : Nat) :
    FormKept s (loadLocal s l team sync tm side off d n) :=
  FormKept.ite ((formKept_addParts _ _ _).after (formKept_post _ _ _))
    (FormKept.ite ((formKept_acquireLane _ _ _).after ((formKept_post _ _ _).after
    ((formKept_loadScratchAt _ _ _ _ _ _).after (formKept_beforeAccess _ _))))
    ((formKept_post _ _ _).after ((formKept_loadScratchAt _ _ _ _ _ _).after (formKept_beforeAccess _ _))))

theorem formKept_storeLocal (s : State) (l : LaneId) (team sync : Bool) (tm side off : Nat) (bs : List Byte) :
    FormKept s (storeLocal s l team sync tm side off bs) :=
  FormKept.ite (formKept_addParts _ _ _) ((formKept_scratchStore _ _ _ _ _).after
    (FormKept.ite ((formKept_releaseLane _ _ _).after (formKept_beforeAccess _ _)) (formKept_beforeAccess _ _)))

theorem formKept_atomLocal (s : State) (l : LaneId) (op : AtomOp) (team sync : Bool) (tm side off d : Nat) (v c1 : Word) :
    FormKept s (atomLocal s l op team sync tm side off d v c1) :=
  FormKept.ite ((formKept_addParts _ _ _).after (formKept_post _ _ _))
    (FormKept.ite ((formKept_acquireLane _ _ _).after ((formKept_post _ _ _).after
    ((formKept_atomScratchAt _ _ _ _ _ _ _ _).after (FormKept.ite ((formKept_releaseLane _ _ _).after (formKept_beforeAccess _ _))
    (formKept_beforeAccess _ _))))) ((formKept_post _ _ _).after
    ((formKept_atomScratchAt _ _ _ _ _ _ _ _).after (FormKept.ite ((formKept_releaseLane _ _ _).after (formKept_beforeAccess _ _))
    (formKept_beforeAccess _ _)))))

theorem formKept_fenceAccesses (s : State) (l : LaneId) (sc : Bool) : FormKept s (fenceAccesses s l sc) :=
  FormKept.fields (formKept_performThose _ _)

theorem formKept_markFenced (s : State) (l : LaneId) : FormKept s (markFenced s l) := by
  unfold markFenced
  split
  · exact formKept_modGroup _ _ _
  · exact formKept_modTeam _ _ _
  · exact FormKept.refl _

/-! ### Ends of groups and teams -/

theorem formKept_completeRegang (s : State) (g : Nat) : FormKept s (completeRegang s g) := by
  unfold completeRegang
  split
  · exact FormKept.refl _
  · dsimp only
    split
    · exact FormKept.refl _
    · split
      · exact FormKept.refl _
      · exact FormKept.foldl _ (fun _ _ => formKept_modSlice _ _ _ _) _ _

theorem formKept_releaseBar (s : State) (g : Nat) (w : Wait) : FormKept s (releaseBar s g w) :=
  (formKept_partGroup _ _).after (formKept_modGroup _ _ _)

theorem formKept_completeBar (s : State) (g : Nat) : FormKept s (completeBar s g) := by
  unfold completeBar
  split
  · exact FormKept.refl _
  · exact FormKept.ite (FormKept.refl _) (FormKept.foldl _ (fun _ _ => FormKept.ite (formKept_releaseBar _ _ _) (FormKept.refl _)) _ _)

theorem formKept_completeTeamBar (s : State) (tm : Nat) : FormKept s (completeTeamBar s tm) := by
  unfold completeTeamBar
  split
  · exact FormKept.refl _
  · exact FormKept.ite (FormKept.ite ((formKept_invalidateL1 _ _).after
      ((formKept_invalidateL1 _ _).after (FormKept.foldl _ (fun _ _ => formKept_releaseBar _ _ _) _ _)))
      (FormKept.foldl _ (fun _ _ => formKept_releaseBar _ _ _) _ _)) (FormKept.refl _)

theorem formKept_setSlate (s : State) (core quad : Nat) (h : Option Nat) : FormKept s (setSlate s core quad h) := FormKept.of_eq rfl

theorem formKept_endLease (s : State) (cl : Nat) (trap : Bool) : FormKept s (endLease s cl trap) := by
  unfold endLease
  split
  · exact FormKept.refl _
  · dsimp only
    split
    · split
      · exact (formKept_addAsync _ _ _ _ _).after (formKept_setCluster _ _ _)
      · exact formKept_setCluster _ _ _
    · exact formKept_setCluster _ _ _

theorem formKept_dropHolder (s : State) (k : Nat) : FormKept s (dropHolder s k) := by
  unfold dropHolder
  split
  · exact FormKept.refl _
  · extract_lets c q u u1
    have hu : FormKept s u := formKept_modSlot _ _ _
    have hu1 : FormKept s u1 := (formKept_modQuad _ _ _ _).after hu
    split
    · exact FormKept.ite ((formKept_endLease _ _ _).after hu1) hu1
    · exact hu1

theorem formKept_chargeLaunch (s : State) (lid c : Nat) : FormKept s (chargeLaunch s lid c) := by
  unfold chargeLaunch
  split
  · exact FormKept.refl _
  · exact formKept_modPart _ _ _

theorem formKept_chargeGroup (s : State) (g : Nat) : FormKept s (chargeGroup s g) := by
  unfold chargeGroup
  split
  · exact FormKept.refl _
  · split
    · exact FormKept.refl _
    · exact formKept_chargeLaunch _ _ _

theorem formKept_leaveCores (s : State) (p : Nat) : FormKept s (leaveCores s p) := FormKept.of_eq rfl

theorem formKept_endTeam (s : State) (tm : Nat) : FormKept s (endTeam s tm) := by
  unfold endTeam
  split
  · exact FormKept.refl _
  · exact (formKept_leaveCores _ _).after ((formKept_modLaunch _ _ _).after
      ((formKept_setCluster _ _ _).after ((formKept_modTeam _ _ _).after
      (FormKept.ite ((formKept_stashCleanAll _ _ _ _).after (formKept_stashCleanAll _ _ _ _)) (formKept_stashCleanAll _ _ _ _)))))

theorem formKept_tryEndTeam (s : State) (tm : Nat) : FormKept s (tryEndTeam s tm) := by
  unfold tryEndTeam
  split
  · exact FormKept.refl _
  · split
    · dsimp only
      split
      · exact (formKept_noteAccess _ _ _ _ _).after (formKept_drainTeam _ _)
      · exact (formKept_endTeam _ _).after (formKept_drainTeam _ _)
    · exact FormKept.refl _

theorem formKept_tryEndGroup (s : State) (g : Nat) : FormKept s (tryEndGroup s g) := by
  unfold tryEndGroup
  split
  · exact FormKept.refl _
  · exact FormKept.ite (FormKept.refl _) ((formKept_tryEndTeam _ _).after
      ((FormKept.foldl _ (fun _ _ => FormKept.ite (FormKept.fields (FormKept.refl _)) (FormKept.refl _)) _ _).after
      ((formKept_modGroup _ _ _).after (formKept_chargeGroup _ _))))

theorem formKept_groupExited (s : State) (g : Nat) : FormKept s (groupExited s g) := by
  unfold groupExited
  split
  · exact FormKept.refl _
  · exact FormKept.ite (FormKept.refl _) ((formKept_tryEndGroup _ _).after
      (FormKept.ite ((formKept_modTeam _ _ _).after ((FormKept.foldl _ (fun _ _ => formKept_dropHolder _ _) _ _).after
      (formKept_modGroup _ _ _))) ((FormKept.foldl _ (fun _ _ => formKept_dropHolder _ _) _ _).after (formKept_modGroup _ _ _))))

theorem formKept_commitPixel (s : State) (g l : Nat) (discarded : Bool) : FormKept s (commitPixel s g l discarded) := by
  unfold commitPixel
  split
  · exact FormKept.refl _
  · split
    · exact FormKept.refl _
    · exact FormKept.ite (FormKept.refl _) (formKept_modCore _ _ _)

theorem formKept_exitLanes (s : State) (g n : Nat) (m : LMask) (discarded : Bool) : FormKept s (exitLanes s g n m discarded) :=
  (formKept_modGroup _ _ _).after (FormKept.foldl _ (fun _ _ => (formKept_commitPixel _ _ _ _).after (formKept_drainLane _ _)) _ _)

theorem formKept_groupProgress (s : State) (g : Nat) : FormKept s (groupProgress s g) := by
  unfold groupProgress
  dsimp only
  refine (formKept_groupExited _ _).after ?_
  split
  · exact (formKept_completeTeamBar _ _).after ((formKept_completeBar _ _).after (formKept_completeRegang _ _))
  · exact (formKept_completeBar _ _).after (formKept_completeRegang _ _)

/-! ### Renaming and the register file -/

theorem formKept_storeLine (s : State) (base r : Nat) (es : List Elem) : FormKept s (storeLine s base r es) :=
  (formKept_storeDev _ _ _).after (formKept_storeDev _ _ _)

theorem formKept_landImage (s : State) (k r pos : Nat) (e : Elem) : FormKept s (landImage s k r pos e) := by
  unfold landImage
  split
  · exact FormKept.ite ((formKept_storeDev _ _ _).after (formKept_storeDev _ _ _)) (FormKept.refl _)
  · exact FormKept.refl _

theorem formKept_fetchLine (s : State) (k r : Nat) : FormKept s (fetchLine s k r) := by
  unfold fetchLine
  split
  · exact FormKept.refl _
  · split
    · dsimp only
      refine (formKept_modSlot _ _ _).after ?_
      refine FormKept.foldl _ (fun s pos => ?_) _ _
      split
      · exact formKept_modGroup _ _ _
      · exact FormKept.refl _
    · exact FormKept.refl _

theorem formKept_fetchLines (s : State) (k : Nat) : FormKept s (fetchLines s k) := by
  unfold fetchLines
  split
  · exact FormKept.foldl _ (fun _ _ => formKept_fetchLine _ _ _) _ _
  · exact FormKept.refl _

theorem formKept_evictReg (s : State) (k r : Nat) : FormKept s (evictReg s k r) :=
  (formKept_modSlot _ _ _).after (formKept_storeLine _ _ _ _)

theorem formKept_makeRoom (s : State) (c q n : Nat) : FormKept s (makeRoom s c q n) :=
  FormKept.foldl _ (fun _ _ => formKept_evictReg _ _ _) _ _

theorem formKept_renameInstr (s : State) (k : Nat) (slices : List (Nat × Nat × LMask)) (pc : Addr) (i : Option Instr) {t : State}
    (h : renameInstr s k slices pc i = some t) : FormKept s t := by
  unfold renameInstr at h
  dsimp only at h
  split at h
  · cases h
  · split at h
    · cases h
    · split at h
      · cases h
      · split at h
        · cases h
        · rw [← Option.some.inj h]
          exact (formKept_modSlot _ _ _).after ((formKept_modQuad _ _ _ _).after ((formKept_makeRoom _ _ _ _).after
            (FormKept.foldl _ (fun _ _ => formKept_fetchLine _ _ _) _ _)))

theorem formKept_clearPlace (s : State) (k : Nat) : FormKept s (clearPlace s k) :=
  FormKept.foldl _ (fun _ _ => formKept_fetchLines _ _) _ _

theorem formKept_moveLines (s : State) (k j : Nat) : FormKept s (moveLines s k j) := by
  unfold moveLines
  split
  · exact FormKept.refl _
  · exact FormKept.ite (FormKept.refl _) (FormKept.ite ((FormKept.foldl _ (fun _ _ => formKept_storeLine _ _ _ _) _ _).after
      (FormKept.ite (formKept_clearPlace _ _) ((FormKept.foldl _ (fun _ _ => formKept_evictReg _ _ _) _ _).after
      (formKept_clearPlace _ _)))) ((formKept_modSlot _ _ _).after
      ((FormKept.foldl _ (fun _ _ => formKept_storeLine _ _ _ _) _ _).after
      (FormKept.ite (formKept_clearPlace _ _) ((FormKept.foldl _ (fun _ _ => formKept_evictReg _ _ _) _ _).after
      (formKept_clearPlace _ _))))))

/-! ### Instructions that act for lanes -/

theorem formKept_raiseFlags (s : State) (g : Nat) (fl : Flags) : FormKept s (raiseFlags s g fl) := FormKept.of_eq rfl

theorem formKept_settleWaveSlice (s0 : State) (s : State) (e : Entry) (active : List LaneId) (kept : Bool) (g n : Nat)
    (as : List (LaneId × Act)) : FormKept s (settleWaveSlice s0 s e active kept g n as) := by
  unfold settleWaveSlice
  dsimp only
  split
  · exact (formKept_modSlice _ _ _ _).after (formKept_raiseFlags _ _ _)
  · split
    · exact (formKept_takeTrap _ _ _ _ _ _).after (FormKept.ite ((formKept_modSlice _ _ _ _).after (formKept_raiseFlags _ _ _))
        (formKept_raiseFlags _ _ _))
    · exact FormKept.ite ((formKept_modSlice _ _ _ _).after (formKept_raiseFlags _ _ _)) (formKept_raiseFlags _ _ _)

theorem formKept_consumePops (s0 s : State) (f : Form) (as : List (LaneId × Act)) : FormKept s (consumePops s0 s f as) :=
  FormKept.of_eq (booked_consumePops s0 s f as).mem

theorem formKept_addPage (s : State) (l : LaneId) (id : Nat) : FormKept s (addPage s l id) := by
  unfold addPage
  split
  · exact formKept_modGroup _ _ _
  · exact formKept_modTeam _ _ _
  · exact FormKept.fields (FormKept.refl _)

theorem formKept_clearFailed (s : State) (ls : List LaneId) :
    FormKept s (clearFailed s ls) := FormKept.of_eq (booked_clearFailed s ls).mem

theorem formKept_noteLane (s : State) (l : LaneId) (va : Nat) (a : Acc) : FormKept s (noteLane s l va a) := by
  unfold noteLane
  dsimp only
  split
  · exact FormKept.ite (FormKept.refl _) ((formKept_addPage _ _ _).after (formKept_noteAccess _ _ _ _ _))
  · exact formKept_noteAccess _ _ _ _ _

theorem formKept_releaseSlate (s : State) (k : Nat) : FormKept s (releaseSlate s k) :=
  FormKept.ite ((formKept_modSlot _ _ _).after (formKept_setSlate _ _ _ _)) (FormKept.refl _)

theorem formKept_moveSlot (s : State) (k j : Nat) : FormKept s (moveSlot s k j) := FormKept.fields (formKept_moveLines _ _ _)

theorem formKept_vacateSlot (s : State) (k : Nat) : FormKept s (vacateSlot s k) :=
  (formKept_moveSlot _ _ _).after (FormKept.fields ((FormKept.foldl _ (fun _ _ => formKept_modGroup _ _ _) _ _).after
    ((formKept_modQuad _ _ _ _).after (formKept_releaseSlate _ _))))

theorem formKept_vacateAway (s : State) (k : Nat) : FormKept s (vacateAway s k) :=
  FormKept.ite (formKept_vacateSlot _ _) (FormKept.refl _)

theorem formKept_vacateSeats (s : State) (g : Nat) : FormKept s (vacateSeats s g) := by
  unfold vacateSeats
  split
  · exact FormKept.foldl _ (fun _ _ => formKept_vacateAway _ _) _ _
  · exact FormKept.refl _

theorem formKept_swapGroup (s : State) (g : Nat) : FormKept s (swapGroup s g) :=
  (formKept_vacateSeats _ _).after ((formKept_modGroup _ _ _).after ((formKept_squashGroup _ _).after (formKept_drainGroup _ _)))

theorem formKept_exitProgress (s : State) (g : Nat) : FormKept s (exitProgress s g) :=
  (formKept_vacateSeats _ _).after (formKept_groupProgress _ _)

theorem formKept_swapOut (s : State) (ls : List LaneId) : FormKept s (swapOut s ls) := by
  unfold swapOut
  refine FormKept.foldl _ (fun s l => ?_) _ _
  split
  · exact formKept_swapGroup _ _
  · exact FormKept.refl _

theorem formKept_waveRetired (s : State) (k : Nat) (gs : List Nat) : FormKept s (waveRetired s k gs) :=
  (FormKept.foldl _ (fun _ _ => formKept_modGroup _ _ _) _ _).after (formKept_modSlot _ _ _)

theorem formKept_noteRetired (s : State) (f : Focus) (as : List (LaneId × Act)) : FormKept s (noteRetired s f as) :=
  FormKept.of_eq (booked_noteRetired s f as).mem

theorem formKept_settleSingle (s : State) (len : Nat) (l : LaneId) (a : Act) : FormKept s (settleSingle s len l a) := by
  unfold settleSingle
  split
  · exact formKept_modTeam _ _ _
  · exact formKept_gripTrap _ _ _ _
  · exact FormKept.fields (FormKept.refl _)
  · exact formKept_mgmtTrap _ _ _
  · exact FormKept.refl _

theorem formKept_partFocus (s : State) : FormKept s (partFocus s) := FormKept.of_eq (booked_partFocus s).mem

theorem formKept_settleGang (s : State) (e : Entry) (active : List LaneId) (as : List (LaneId × Act)) {f : State → Nat → Nat → State}
    (hf : ∀ t g n, FormKept t (f t g n)) : FormKept s (settleGang s e active as f) :=
  (FormKept.foldl _ (fun _ _ => formKept_exitProgress _ _) _ _).after ((formKept_partFocus _).after
    (FormKept.foldl _ (fun _ _ => FormKept.ite (formKept_settleWaveSlice _ _ _ _ _ _ _ _)
      ((hf _ _ _).after (formKept_modSlice _ _ _ _))) _ _))

theorem formKept_settleAll (s0 s : State) (e : Entry) (active : List LaneId) (as : List (LaneId × Act)) :
    FormKept s (settleAll s0 s e active as) := by
  unfold settleAll
  split
  · exact (formKept_partFocus _).after (FormKept.foldl _ (fun _ _ => formKept_settleWaveSlice _ _ _ _ _ _ _ _) _ _)
  · exact FormKept.foldl _ (fun _ _ => formKept_settleSingle _ _ _ _) _ _

theorem formKept_applyActs {e : Entry} (he : e.KeepsForm) (s0 : State) (active : List LaneId) (seen : List Nat) (s : State)
    (as : List (LaneId × Act)) : FormKept s (applyActs s0 e active seen s as) := by
  induction as generalizing seen s with
  | nil => exact FormKept.refl s
  | cons a as ih =>
    unfold applyActs
    split
    · exact (formKept_writeLanes _ _ _).trans ((he.eff _ _ _).trans (ih _ _))
    · exact FormKept.ite (ih _ _) ((he.note _ _ _).trans (ih _ _))
    · exact ih _ _

theorem formKept_groupEffects {e : Entry} (he : e.KeepsForm) (s0 : State) (active done : List LaneId) (s : State) :
    FormKept s (groupEffects s0 e active done s) := by
  unfold groupEffects
  split
  · exact FormKept.refl s
  · rename_i f h
    exact FormKept.foldl _ (fun _ _ => he.once f h _ _) _ _

theorem formKept_applyDone {e : Entry} (he : e.KeepsForm) (s0 s : State) (active : List LaneId) (as : List (LaneId × Act)) :
    FormKept s (applyDone s0 s e active as) :=
  (formKept_applyActs he _ _ _ _ _).trans (formKept_groupEffects he _ _ _ _)

theorem formKept_finish {e : Entry} (he : e.KeepsForm) (s : State) (active : List LaneId) (as : List (LaneId × Act)) :
    FormKept s (finish s e active as) :=
  FormKept.ite (FormKept.refl _) (FormKept.ite ((FormKept.foldl _ (fun _ _ => he.note _ _ _) _ _).trans (formKept_swapOut _ _))
    ((formKept_applyDone he _ _ _ _).trans ((formKept_consumePops _ _ _ _).trans ((formKept_settleAll _ _ _ _ _).trans
      ((formKept_noteRetired _ _ _).trans (formKept_clearFailed _ _))))))

theorem outcomeKept_runEntry {e : Entry} (he : e.KeepsForm) (s : State) (i : Instr) : OutcomeKept s (runEntry s i e) := by
  unfold runEntry
  dsimp only
  split
  · exact OutcomeKept.fault _
  · exact OutcomeKept.next (formKept_finish he _ _ _)

theorem outcomeKept_runMove {f : State → Nat → Nat → State} {g : State → LaneId → State} (hf : ∀ t k n, FormKept t (f t k n))
    (hg : ∀ t l, FormKept t (g t l)) (s : State) (i : Instr) (e : Entry) : OutcomeKept s (runMove s i e f g) := by
  unfold runMove
  dsimp only
  split
  · exact OutcomeKept.fault _
  · split
    · exact OutcomeKept.next (FormKept.refl s)
    · split
      · exact OutcomeKept.next ((formKept_settleGang _ _ _ _ hf).trans (formKept_noteRetired _ _ _))
      · refine OutcomeKept.next (FormKept.trans (FormKept.foldl _ (fun t a => ?_) _ _) (formKept_noteRetired _ _ _))
        split
        · exact hg _ _
        · exact formKept_settleSingle _ _ _ _

theorem formKept_stepSingle (len : Nat) (s : State) (l : LaneId) : FormKept s (stepSingle len s l) := formKept_settleSingle _ _ _ _

/-- A register instruction, without effects but its writes. -/
theorem outcomeKept_runPure (s : State) (i : Instr) (form : Form) (plan : LaneId → List Word → Act) :
    OutcomeKept s (runEntry s i (pureEntry form plan)) := outcomeKept_runEntry (keepsForm_pureEntry form plan) s i

/-! ### Special functions -/

theorem outcomeKept_execSpecial (i : Instr) (ea : Bool) (d a : Reg) (f : Word → Word → Word × Flags) (s : State) :
    OutcomeKept s (execSpecial i ea d a f s) := by
  refine outcomeKept_runEntry (.of_effects (fun l vs t => ?_) rfl rfl) _ _
  dsimp only
  split
  · split
    · exact formKept_post _ _ _
    · exact FormKept.refl _
  · exact FormKept.refl _

theorem outcomeKept_execFrcp (ea : Bool) (d a : Reg) (s : State) : OutcomeKept s (execFrcp ea d a s) :=
  outcomeKept_execSpecial _ _ _ _ _ _

theorem outcomeKept_execFrsq (ea : Bool) (d a : Reg) (s : State) : OutcomeKept s (execFrsq ea d a s) :=
  outcomeKept_execSpecial _ _ _ _ _ _

theorem outcomeKept_execFsqrt (ea : Bool) (d a : Reg) (s : State) : OutcomeKept s (execFsqrt ea d a s) :=
  outcomeKept_execSpecial _ _ _ _ _ _

theorem outcomeKept_execFexp2 (ea : Bool) (d a : Reg) (s : State) : OutcomeKept s (execFexp2 ea d a s) :=
  outcomeKept_execSpecial _ _ _ _ _ _

theorem outcomeKept_execFlog2 (ea : Bool) (d a : Reg) (s : State) : OutcomeKept s (execFlog2 ea d a s) :=
  outcomeKept_execSpecial _ _ _ _ _ _

theorem outcomeKept_execFsin (ea : Bool) (d a : Reg) (s : State) : OutcomeKept s (execFsin ea d a s) :=
  outcomeKept_execSpecial _ _ _ _ _ _

theorem outcomeKept_execFcos (ea : Bool) (d a : Reg) (s : State) : OutcomeKept s (execFcos ea d a s) :=
  outcomeKept_execSpecial _ _ _ _ _ _

/-! ### Branches -/

theorem outcomeKept_execBra (ea : Bool) (a : Reg) (off : BitVec 18) (s : State) : OutcomeKept s (execBra ea a off s) :=
  outcomeKept_runEntry (.of_still rfl rfl rfl) _ _

theorem outcomeKept_execBrz (ea : Bool) (a : Reg) (off : BitVec 18) (s : State) : OutcomeKept s (execBrz ea a off s) :=
  outcomeKept_runEntry (.of_still rfl rfl rfl) _ _

theorem outcomeKept_execRet (ea : Bool) (a : Reg) (s : State) : OutcomeKept s (execRet ea a s) :=
  outcomeKept_runEntry (.of_still rfl rfl rfl) _ _

theorem formKept_brxNote (l : LaneId) (i t : Nat) (s : State) : FormKept s (brxNote l i t s) := by
  unfold brxNote
  refine FormKept.foldl _ (fun s e => ?_) _ _
  dsimp only
  split
  · exact (formKept_laneFetch _ _ _ _ _).after ((formKept_ownStash _ _ _).after (formKept_noteLane _ _ _ _))
  · exact formKept_noteLane _ _ _ _

theorem outcomeKept_execBrx (ea eb : Bool) (a b : Reg) (s : State) : OutcomeKept s (execBrx ea eb a b s) :=
  outcomeKept_runEntry (.of_lanes (fun _ _ _ => formKept_brxNote _ _ _ _) (fun _ _ _ => formKept_brxNote _ _ _ _) rfl) _ _

/-! ### Synchronisation and traps -/

theorem outcomeKept_execRegang (span : Bool) (s : State) : OutcomeKept s (execRegang span s) :=
  outcomeKept_runMove (fun _ _ _ => formKept_modSlice _ _ _ _) (formKept_stepSingle 4) _ _ _

theorem formKept_exitSingle (s : State) (l : LaneId) : FormKept s (exitSingle s l) := by
  unfold exitSingle
  split
  · exact (formKept_modTeam _ _ _).after (formKept_drainLane _ _)
  · exact FormKept.fields (formKept_drainLane _ _)
  · exact FormKept.refl _

theorem outcomeKept_execExit (s : State) : OutcomeKept s (execExit s) :=
  outcomeKept_runMove (fun _ _ _ => formKept_exitLanes _ _ _ _ _) formKept_exitSingle _ _ _

theorem formKept_waitSlice (w : Wait) (s : State) (g n : Nat) : FormKept s (waitSlice w s g n) := FormKept.of_eq rfl

theorem formKept_arriveSlice (w : Wait) (s : State) (g n : Nat) : FormKept s (arriveSlice w s g n) :=
  (formKept_waitSlice _ _ _ _).after (formKept_drainGroup _ _)

theorem outcomeKept_execBar (id : BitVec 2) (s : State) : OutcomeKept s (execBar id s) :=
  outcomeKept_runMove (formKept_arriveSlice _) (formKept_stepSingle 4) _ _ _

theorem outcomeKept_execBarTeam (s : State) : OutcomeKept s (execBarTeam s) :=
  outcomeKept_runMove (formKept_arriveSlice _) (formKept_stepSingle 4) _ _ _

theorem formKept_passSlice (len : Nat) (s : State) (g n : Nat) : FormKept s (passSlice len s g n) := FormKept.of_eq rfl

theorem outcomeKept_execYield (s : State) : OutcomeKept s (execYield s) :=
  outcomeKept_runMove (fun _ _ _ => FormKept.ite (formKept_passSlice _ _ _ _) (formKept_waitSlice _ _ _ _))
    (formKept_stepSingle 4) _ _ _

theorem formKept_sleepSlice (n : Nat) (s : State) (g k : Nat) : FormKept s (sleepSlice n s g k) := by
  unfold sleepSlice
  split
  · exact formKept_passSlice _ _ _ _
  · extract_lets l u
    have hu : FormKept s u := formKept_waitSlice _ _ _ _
    split
    · split
      · exact (formKept_modSlot _ _ _).after hu
      · exact hu
    · exact hu

theorem formKept_sleepSingle (n : Nat) (s : State) (l : LaneId) : FormKept s (sleepSingle n s l) := by
  unfold sleepSingle
  extract_lets u
  have hu : FormKept s u := formKept_stepSingle _ _ _
  split
  · exact (formKept_modTeam _ _ _).after hu
  · exact FormKept.fields hu
  · exact hu

theorem outcomeKept_execSleep (n : BitVec 16) (s : State) : OutcomeKept s (execSleep n s) :=
  outcomeKept_runMove (formKept_sleepSlice _) (formKept_sleepSingle _) _ _ _

theorem formKept_fenceLane (scope : Scope) (sc : Bool) (l : LaneId) (s : State) : FormKept s (fenceLane scope sc l s) := by
  unfold fenceLane
  extract_lets u c
  have hu : FormKept s u := formKept_fenceAccesses _ _ _
  split
  · exact FormKept.ite ((formKept_promoteReads _ _).after hu) hu
  · split
    · exact (formKept_promoteReads _ _).after ((formKept_invalidateL1 _ _).after ((formKept_releaseWide _ _ _ _).after hu))
    · split
      · exact (formKept_markFenced _ _).after (FormKept.ite ((formKept_invalidateL1 _ _).after hu) hu)
      · exact hu

theorem outcomeKept_execFence (scope : Scope) (sc : Bool) (s : State) : OutcomeKept s (execFence scope sc s) := by
  refine outcomeKept_runEntry (.of_lanes (fun l x t => ?_) (fun _ _ _ => formKept_fenceLane _ _ _ _) rfl) _ _
  dsimp only
  split
  · exact formKept_noteLane _ _ _ _
  · exact FormKept.refl _

theorem outcomeKept_execQfence (mask : BitVec 8) (s : State) : OutcomeKept s (execQfence mask s) :=
  outcomeKept_runEntry (.of_still rfl rfl rfl) _ _

theorem outcomeKept_execTrap (n : BitVec 9) (s : State) : OutcomeKept s (execTrap n s) :=
  outcomeKept_runEntry (.of_still rfl rfl rfl) _ _

theorem outcomeKept_execBrk (n : BitVec 9) (s : State) : OutcomeKept s (execBrk n s) :=
  outcomeKept_runEntry (.of_still rfl rfl rfl) _ _

theorem formKept_rettSlice (s : State) (g n : Nat) : FormKept s (rettSlice s g n) := FormKept.of_eq rfl

theorem outcomeKept_execRett (s : State) : OutcomeKept s (execRett s) :=
  outcomeKept_runMove formKept_rettSlice (fun _ _ => FormKept.refl _) _ _ _

/-! ### Loads, stores and the stash -/

theorem formKept_noteOwn (s : State) (l : LaneId) (tm va : Nat) : FormKept s (noteOwn s l tm va) := by
  unfold noteOwn
  extract_lets p u
  have hu : FormKept s u := formKept_noteAccess _ _ _ _ _
  split
  · exact (formKept_addPage _ _ _).after hu
  · exact (formKept_addPage _ _ _).after hu
  · exact hu

theorem formKept_noteWait (s : State) (l : LaneId) (va : Nat) (a : Acc) (absent : Option Nat) :
    FormKept s (noteWait s l va a absent) := by
  unfold noteWait
  split
  · exact formKept_noteLane _ _ _ _
  · exact formKept_noteLane _ _ _ _

theorem formKept_loadLane (z : Size) (sc : Scope) (acq : Bool) (d : Reg) (l : LaneId) (va : Nat) (s : State) :
    FormKept s (loadLane z sc acq d l va s) := by
  unfold loadLane
  split
  · exact (formKept_loadAccess _ _ _ _ _ _ _ _).after (formKept_noteLane _ _ _ _)
  · exact FormKept.refl _

theorem outcomeKept_execLd (size : Size) (scope : Scope) (acq : Bool) (ea : Bool) (d a : Reg) (off : BitVec 6) (s : State) :
    OutcomeKept s (execLd size scope acq ea d a off s) := by
  refine outcomeKept_runEntry (.of_lanes (fun l vs t => ?_) (fun _ _ _ => formKept_loadLane _ _ _ _ _ _ _) rfl) _ _
  dsimp only
  split
  · exact formKept_noteOwn _ _ _ _
  · exact formKept_noteLane _ _ _ _

theorem formKept_storeLane (sc : Scope) (rel : Bool) (l : LaneId) (va : Nat) (bs : List Byte) (s : State) :
    FormKept s (storeLane sc rel l va bs s) := by
  unfold storeLane
  split
  · exact (formKept_storeAccess _ _ _ _ _ _ _).after (formKept_noteLane _ _ _ _)
  · exact FormKept.refl _

theorem outcomeKept_execSt (size : Size) (scope : Scope) (rel : Bool) (ea : Bool) (d a : Reg) (off : BitVec 6) (s : State) :
    OutcomeKept s (execSt size scope rel ea d a off s) :=
  outcomeKept_runEntry (.of_lanes (fun _ _ _ => formKept_noteWait _ _ _ _ _) (fun _ _ _ => formKept_storeLane _ _ _ _ _ _) rfl) _ _

theorem formKept_scratchFill (l : LaneId) (e n : Nat) (s : State) : FormKept s (scratchFill l e n s) := by
  unfold scratchFill
  split
  · exact FormKept.refl _
  · split
    · exact FormKept.ite (FormKept.refl _) ((formKept_addPage _ _ _).after (formKept_stashFillAt _ _ _ _))
    · exact formKept_stashFillAt _ _ _ _

theorem formKept_loadScratch (z : Size) (sc : Bool) (acq : Bool) (d : Reg) (l : LaneId) (e : Nat) (s : State) :
    FormKept s (loadScratch z sc acq d l e s) := by
  unfold loadScratch
  dsimp only
  split
  · exact formKept_scratchFill _ _ _ _
  · exact (formKept_loadLocal _ _ _ _ _ _ _ _ _).after (formKept_scratchFill _ _ _ _)

theorem formKept_storeScratch (team rel : Bool) (l : LaneId) (e : Nat) (bs : List Byte) (s : State) :
    FormKept s (storeScratch team rel l e bs s) := by
  unfold storeScratch
  dsimp only
  split
  · exact formKept_scratchFill _ _ _ _
  · exact (formKept_storeLocal _ _ _ _ _ _ _ _).after (formKept_scratchFill _ _ _ _)

theorem outcomeKept_execLdl (size : Size) (team acq : Bool) (ea : Bool) (d a : Reg) (off : BitVec 6) (s : State) :
    OutcomeKept s (execLdl size team acq ea d a off s) :=
  outcomeKept_runEntry (.of_lanes (fun _ _ _ => formKept_scratchFill _ _ _ _)
    (fun _ _ _ => formKept_loadScratch _ _ _ _ _ _ _) rfl) _ _

theorem outcomeKept_execStl (size : Size) (team rel : Bool) (ea : Bool) (d a : Reg) (off : BitVec 6) (s : State) :
    OutcomeKept s (execStl size team rel ea d a off s) :=
  outcomeKept_runEntry (.of_lanes (fun _ _ _ => formKept_scratchFill _ _ _ _) (fun _ _ _ => formKept_storeScratch _ _ _ _ _ _) rfl) _ _

theorem formKept_prefetchLane (l : LaneId) (va : Nat) (s : State) : FormKept s (prefetchLane l va s) := by
  unfold prefetchLane
  split
  · exact FormKept.refl _
  · split
    · exact (formKept_touchL2 _ _ _ _ _).after ((formKept_touchL2 _ _ _ _ _).after (formKept_noteLane _ _ _ _))
    · exact FormKept.refl _

theorem formKept_clineLane (inv : Bool) (l : LaneId) (va : Nat) (s : State) : FormKept s (clineLane inv l va s) := by
  unfold clineLane
  split
  · exact FormKept.refl _
  · exact FormKept.ite ((formKept_modCore _ _ _).after ((FormKept.foldl _ (fun _ _ => formKept_cleanSector _ _ _) _ _).after
      ((formKept_noteLane _ _ _ _).after (formKept_beforeAccess _ _))))
      ((FormKept.foldl _ (fun _ _ => formKept_cleanSector _ _ _) _ _).after
      ((formKept_noteLane _ _ _ _).after (formKept_beforeAccess _ _)))
  · exact FormKept.refl _

theorem outcomeKept_execClinePf (scope : Scope) (ea : Bool) (a : Reg) (off : BitVec 6) (s : State) :
    OutcomeKept s (execClinePf scope ea a off s) :=
  outcomeKept_runEntry (.of_effects (fun _ _ _ => formKept_prefetchLane _ _ _) rfl rfl) _ _

theorem outcomeKept_execClineWb (scope : Scope) (ea : Bool) (a : Reg) (off : BitVec 6) (s : State) :
    OutcomeKept s (execClineWb scope ea a off s) :=
  outcomeKept_runEntry (.of_effects (fun _ _ _ => formKept_clineLane _ _ _ _) rfl rfl) _ _

theorem outcomeKept_execClineInv (scope : Scope) (ea : Bool) (a : Reg) (off : BitVec 6) (s : State) :
    OutcomeKept s (execClineInv scope ea a off s) :=
  outcomeKept_runEntry (.of_effects (fun _ _ _ => formKept_clineLane _ _ _ _) rfl rfl) _ _

theorem formKept_fillNote (l : LaneId) (tm side off : Nat) (s : State) : FormKept s (fillNote l tm side off s) := by
  unfold fillNote
  split
  · exact FormKept.ite (FormKept.refl _) ((formKept_addPage _ _ _).after (formKept_stashFillAt _ _ _ _))
  · exact formKept_stashFillAt _ _ _ _

theorem formKept_stashFlushWindow (s : State) (tm side num : Nat) (unfill : Bool) :
    FormKept s (stashFlushWindow s tm side num unfill) := by
  unfold stashFlushWindow
  dsimp only
  split
  · exact (FormKept.foldl _ (fun _ _ => formKept_stashClean _ _ _ _ _ _) _ _).after (formKept_performThose _ _)
  · exact formKept_performThose _ _

theorem formKept_stashFlushFill (s : State) (tm side num : Nat) : FormKept s (stashFlushFill s tm side num) := by
  unfold stashFlushFill
  dsimp only
  split
  · exact (FormKept.foldl _ (fun _ _ => formKept_stashFillAt _ _ _ _) _ _).after (formKept_stashFlushWindow _ _ _ _ _)
  · exact formKept_stashFlushWindow _ _ _ _ _

theorem formKept_stashDrop (s : State) (tm side num : Nat) : FormKept s (stashDrop s tm side num) :=
  (formKept_modTeam _ _ _).after (formKept_stashFlushWindow _ _ _ _ _)

theorem formKept_stashMapLane (l : LaneId) (off win : Nat) (s : State) : FormKept s (stashMapLane l off win s) := by
  unfold stashMapLane
  extract_lets tm side u u1
  have hu : FormKept s u := (formKept_performThose _ _).after (formKept_stashFillAt _ _ _ _)
  have hu1 : FormKept s u1 := (formKept_stashDrop _ _ _ _).after hu
  split
  · exact hu1
  · split
    · exact (formKept_modTeam _ _ _).after hu1

theorem formKept_stashWinNote (l : LaneId) (win : Nat) (fill : Bool) (s : State) : FormKept s (stashWinNote l win fill s) := by
  unfold stashWinNote
  split
  · exact formKept_noteLane _ _ _ _
  · split
    · exact FormKept.ite (FormKept.foldl _ (fun _ _ => formKept_fillNote _ _ _ _ _) _ _) (FormKept.refl _)
    · exact FormKept.refl _

theorem outcomeKept_execStashMap (ea : Bool) (d a : Reg) (s : State) : OutcomeKept s (execStashMap ea d a s) :=
  outcomeKept_runEntry (.of_lanes (fun _ _ _ => FormKept.ite ((formKept_stashWinNote _ _ _ _).after (formKept_fillNote _ _ _ _ _))
    (FormKept.refl _)) (fun _ _ _ => FormKept.ite (formKept_stashMapLane _ _ _ _) (FormKept.refl _)) rfl) _ _

theorem outcomeKept_execStashUnmap (ea : Bool) (a : Reg) (s : State) : OutcomeKept s (execStashUnmap ea a s) :=
  outcomeKept_runEntry (.of_lanes (fun _ _ _ => FormKept.ite (formKept_stashWinNote _ _ _ _) (FormKept.refl _))
    (fun _ _ _ => FormKept.ite (formKept_stashDrop _ _ _ _) (FormKept.refl _)) rfl) _ _

theorem outcomeKept_execStashFlush (ea : Bool) (a : Reg) (s : State) : OutcomeKept s (execStashFlush ea a s) :=
  outcomeKept_runEntry (.of_lanes (fun _ _ _ => FormKept.ite (formKept_stashWinNote _ _ _ _) (FormKept.refl _))
    (fun _ _ _ => FormKept.ite (formKept_stashFlushFill _ _ _ _) (FormKept.refl _)) rfl) _ _

/-! ### Atomics -/

theorem formKept_atomLane (op : AtomOp) (sc : Scope) (ar : Bool) (d : Reg) (l : LaneId) (va : Nat) (v c1 : Word) (s : State) :
    FormKept s (atomLane op sc ar d l va v c1 s) := by
  unfold atomLane
  split
  · exact (formKept_atomAccess _ _ _ _ _ _ _ _ _ _).after (formKept_noteLane _ _ _ _)
  · exact FormKept.refl _

theorem outcomeKept_execAtom (op : AtomOp) (scope : Scope) (ar : Bool) (d a b : Reg) (s : State) :
    OutcomeKept s (execAtom op scope ar d a b s) :=
  outcomeKept_runEntry (.of_lanes (fun _ _ _ => formKept_noteWait _ _ _ _ _)
    (fun _ _ _ => formKept_atomLane _ _ _ _ _ _ _ _ _) rfl) _ _

theorem formKept_atomScratch (op : AtomOp) (team ar : Bool) (d : Reg) (l : LaneId) (e : Nat) (v c1 : Word) (s : State) :
    FormKept s (atomScratch op team ar d l e v c1 s) := by
  unfold atomScratch
  dsimp only
  split
  · exact formKept_scratchFill _ _ _ _
  · exact (formKept_atomLocal _ _ _ _ _ _ _ _ _ _ _).after (formKept_scratchFill _ _ _ _)

theorem outcomeKept_execAtoml (op : AtomOp) (team ar : Bool) (d a b : Reg) (s : State) :
    OutcomeKept s (execAtoml op team ar d a b s) :=
  outcomeKept_runEntry (.of_lanes (fun _ _ _ => formKept_scratchFill _ _ _ _)
    (fun _ _ _ => formKept_atomScratch _ _ _ _ _ _ _ _ _) rfl) _ _

/-! ### Spans of engines -/

theorem formKept_engDone (s : State) (p eng : Nat) : FormKept s (engDone s p eng) := FormKept.of_eq rfl

theorem formKept_poolNote (s : State) (eng core p va : Nat) (a : Acc) : FormKept s (poolNote s eng core p va a) := by
  unfold poolNote
  split
  · exact FormKept.refl _
  · split
    · exact FormKept.ite (FormKept.refl _) (formKept_noteAccess _ _ _ _ _)
    · exact FormKept.ite (FormKept.refl _) (formKept_noteAccess _ _ _ _ _)
    · exact FormKept.refl _

theorem takeKept_spanTake (eng core p : Nat) (a : Acc) (cs : List (Nat × Nat)) (s : State) : TakeKept s
    (spanTake eng core p a cs s) := by
  induction cs with
  | nil => exact FormKept.refl s
  | cons c cs ih =>
    unfold spanTake
    split
    · exact formKept_poolNote _ _ _ _ _ _
    · exact ih

theorem formKept_spanMark (s : State) (core p va : Nat) (bad : List Bool) : FormKept s (spanMark s core p va bad) := by
  unfold spanMark
  refine FormKept.foldl _ (fun s b => ?_) _ _
  split
  · split
    · exact formKept_poisonMem _ _ _
    · exact FormKept.refl _
  · exact FormKept.refl _

theorem formKept_spanWait (s : State) (eng core p va : Nat) (a : Acc) : FormKept s (spanWait s eng core p va a) := by
  unfold spanWait
  dsimp only
  split
  · exact (formKept_modPart _ _ _).after (formKept_noteAccess _ _ _ _ _)
  · exact (formKept_modPart _ _ _).after (formKept_noteAccess _ _ _ _ _)
  · exact formKept_noteAccess _ _ _ _ _

theorem formKept_scratchHold (s : State) (eng tm side off n : Nat) {e : State × Block} (h : scratchHold s eng tm side off n = some e) :
    FormKept s e.1 := by
  simp only [scratchHold, Option.bind_eq_some_iff, Option.map_eq_some_iff] at h
  obtain ⟨t, -, b, -, rfl⟩ := h
  split
  · exact formKept_poolNote _ _ _ _ _ _
  · exact FormKept.refl s

theorem formKept_scratchWrite (s : State) (tm side off : Nat) (bs : List Byte) (bad : Bool) :
    FormKept s (scratchWrite s tm side off bs bad) :=
  FormKept.ite ((formKept_modTeam _ _ _).after (formKept_scratchStore _ _ _ _ _)) (formKept_scratchStore _ _ _ _ _)

theorem formKept_scratchMark (s : State) (tm side off : Nat) (bad : List Bool) :
    FormKept s (scratchMark s tm side off bad) := FormKept.of_eq rfl

theorem formKept_ringAdvance (s : State) (tm side off k : Nat) : FormKept s (ringAdvance s tm side off k) :=
  formKept_ringChange _ _ _ _ _ _

theorem formKept_ringFlag (s : State) (tm side off f : Nat) : FormKept s (ringFlag s tm side off f) := formKept_ringChange _ _ _ _ _ _

/-! ### Copies, slots and streams -/

theorem formKept_cpyFill (s : State) (l : LaneId) (cmd : List Word) : FormKept s (cpyFill s l cmd) :=
  FormKept.ite (formKept_fillNote _ _ _ _ _) (FormKept.refl _)

theorem outcomeKept_execCpy (ea : Bool) (a : Reg) (s : State) : OutcomeKept s (execCpy ea a s) := by
  refine outcomeKept_runEntry (.of_lanes (fun _ _ _ => formKept_cpyFill _ _ _) (fun l vs t => ?_) rfl) _ _
  dsimp only
  exact (formKept_modCore _ _ _).after (formKept_cpyFill _ _ _)

theorem formKept_dropPage (s : State) (p va : Nat) : FormKept s (dropPage s p va) := FormKept.of_eq rfl

theorem formKept_takeDesc (s : State) (p : Nat) {d : Nat} {t : State} (h : takeDesc s p = some (d, t)) : FormKept s t := by
  unfold takeDesc at h
  dsimp only at h
  split at h
  · split at h
    · rename_i hf
      rw [← (Prod.mk.inj (Option.some.inj h)).2]
      exact (formKept_modPart _ _ _).after (formKept_takeFrame s _ p _ hf)
    · cases h
  · rw [← (Prod.mk.inj (Option.some.inj h)).2]
    exact formKept_modPart _ _ _

theorem formKept_dedupPrepare (s : State) (core p va : Nat) (bs : List Byte) (bad : List Bool) :
    FormKept s (dedupPrepare s core p va bs bad).1 := by
  have plain : FormKept s (spanMark (spanWrite s core p va bs false) core p va bad) :=
    (formKept_spanWrite _ _ _ _ _ _).trans (formKept_spanMark _ _ _ _ _)
  unfold dedupPrepare
  dsimp only
  split
  · split
    · exact plain
    · split
      · exact formKept_storeDev _ _ _
      · split
        · exact plain.trans (formKept_tlbDrop _ _)
        · rename_i h
          exact plain.trans ((formKept_takeDesc _ _ h).trans ((formKept_storeDev _ _ _).trans (formKept_modPart _ _ _)))
  · exact FormKept.refl s

theorem formKept_leaveFrame (s : State) (core f : Nat) : FormKept s (leaveFrame s core f) :=
  (formKept_modCore _ _ _).after ((formKept_recallDev _ _ _).after (formKept_drainFrame _ _))

theorem formKept_dedupSwap (s : State) (core p va : Nat) (w : LeafSwap) : FormKept s (dedupSwap s core p va w).1 := by
  unfold dedupSwap
  extract_lets old u f u1 u2 u3 c u4
  have hu : FormKept s u := FormKept.ite (formKept_drainFrame _ _) (FormKept.refl _)
  have h3 : FormKept u u3 :=
    (FormKept.ite (FormKept.refl _) (formKept_leaveFrame _ _ _)).trans ((formKept_storeDev _ _ _).trans
      (FormKept.ite (FormKept.refl _) (formKept_giveFrame _ _ _)))
  split
  · exact hu.trans (h3.trans ((formKept_tlbDrop _ _).trans (formKept_movePages _ _ _ _)))
  · split
    · exact hu.trans (formKept_retireDesc _ _ _)
    · exact hu.trans ((formKept_storeDev _ _ _).trans
        (FormKept.ite ((formKept_giveFrame _ _ _).trans (formKept_retireDesc _ _ _)) (FormKept.refl _)))

theorem formKept_copyFail (s : State) (core : Nat) (o : CopyOp) (cause addr : Nat) : FormKept s (copyFail s core o cause addr) :=
  (formKept_tryEndTeam _ _).after ((formKept_modTeam _ _ _).after
    ((formKept_modCore _ _ _).after (FormKept.ite (formKept_ringFlag _ _ _ _ _) (FormKept.refl _))))

theorem formKept_copyDone (s : State) (core : Nat) (o : CopyOp) : FormKept s (copyDone s core o) :=
  (formKept_tryEndTeam _ _).after (formKept_modCore _ _ _)

theorem formKept_modCopy (s : State) (core : Nat) (f : CopyOp → CopyOp) : FormKept s (modCopy s core f) := FormKept.of_eq rfl

theorem takeKept_copyRow (s : State) (core p : Nat) (o : CopyOp) (pl : Nat × Nat) (ga : Nat) : TakeKept s
    (copyRow s core p o pl ga) := by
  unfold copyRow
  dsimp only
  split
  · split
    · exact FormKept.refl s
    · exact (formKept_spanNote _ _ _ _ _ _).trans ((formKept_scratchReady _ _ _ _ _).trans ((formKept_scratchWrite _ _ _ _ _ _).trans
        (formKept_scratchMark _ _ _ _ _)))
  · split
    · exact formKept_scratchReady _ _ _ _ _
    · split
      · exact formKept_scratchReady _ _ _ _ _
      · exact (formKept_scratchReady _ _ _ _ _).trans ((formKept_spanWrite _ _ _ _ _ _).trans (formKept_spanMark _ _ _ _ _))

theorem takeKept_partTake (s : State) (core p : Nat) (o : CopyOp) (pl : Nat × Nat) (ga gn sn : Nat) :
    TakeKept s (partTake s core p o pl ga gn sn) := by
  unfold partTake
  split
  · rename_i e h
    exact (takeKept_spanTake _ _ _ _ _ _).error h
  · rename_i u h
    have hu := (takeKept_spanTake _ _ _ _ _ _).ok h
    split
    · rename_i e he
      exact hu.trans (formKept_scratchHold _ _ _ _ _ _ he)
    · exact hu

theorem formKept_partDone (s : State) (core : Nat) (o : CopyOp) : FormKept s (partDone s core o) :=
  FormKept.ite (formKept_modCopy _ _ _) (FormKept.ite (formKept_modCopy _ _ _) (formKept_copyDone _ _ _))

theorem formKept_copyEnds (core : Nat) (o : CopyOp) (e : State × Block) : FormKept e.1 (copyEnds core o e) := by
  unfold copyEnds
  dsimp only
  split
  · exact formKept_spanWait _ _ _ _ _ _
  · exact (formKept_modPart _ _ _).trans (formKept_copyFail _ _ _ _ _)

theorem formKept_copyPart (s : State) (core dest : Nat) (o : CopyOp) : FormKept s (copyPart s core dest o) := by
  unfold copyPart
  extract_lets +onlyGivenNames p c
  split
  · extract_lets +onlyGivenNames va
    split
    · split
      · rename_i h
        exact (formKept_partDone _ _ _).after (FormKept.of_fst (formKept_dedupSwap _ _ _ _ _) h)
      · rename_i h
        exact (formKept_modCopy _ _ _).after (FormKept.of_fst (formKept_dedupSwap _ _ _ _ _) h)
    · dsimp only
      have drop : FormKept s (dropPage s p va) := formKept_dropPage _ _ _
      split
      · rename_i h
        exact (formKept_copyEnds _ _ _).after (((takeKept_partTake _ _ _ _ _ _ _ _).error h).after drop)
      · rename_i u h
        have hu : FormKept s u := ((takeKept_partTake _ _ _ _ _ _ _ _).ok h).after drop
        split
        · exact (formKept_scratchReady _ _ _ _ _).after hu
        · split
          · rename_i hd
            exact (formKept_modCopy _ _ _).after ((FormKept.of_fst (formKept_dedupPrepare _ _ _ _ _ _) hd).after
              ((formKept_scratchReady _ _ _ _ _).after hu))
          · rename_i hd
            exact (formKept_partDone _ _ _).after ((FormKept.of_fst (formKept_dedupPrepare _ _ _ _ _ _) hd).after
              ((formKept_scratchReady _ _ _ _ _).after hu))
          · rename_i hd
            exact (FormKept.of_fst (formKept_dedupPrepare _ _ _ _ _ _) hd).after ((formKept_scratchReady _ _ _ _ _).after hu)
  · dsimp only
    split
    · rename_i h
      exact (formKept_copyEnds _ _ _).after ((takeKept_partTake _ _ _ _ _ _ _ _).error h)
    · rename_i u h
      have hu : FormKept s u := (takeKept_partTake _ _ _ _ _ _ _ _).ok h
      split
      · rename_i hr
        exact (formKept_copyEnds _ _ _).after (((takeKept_copyRow _ _ _ _ _ _).error hr).after hu)
      · rename_i hr
        exact (formKept_partDone _ _ _).after (((takeKept_copyRow _ _ _ _ _ _).ok hr).after hu)

/-- What keeps a copy from the header of its ring, if it has one. -/
theorem formKept_headerHold {s : State} {c : Prop} [Decidable c] {eng tm side off n : Nat} {e : State × Block}
    (h : (if c then scratchHold s eng tm side off n else none) = some e) : FormKept s e.1 := by
  split at h
  · exact formKept_scratchHold _ _ _ _ _ _ h
  · cases h

theorem formKept_copyStep (s : State) (core : Nat) : FormKept s (copyStep s core) := by
  unfold copyStep
  split
  · exact FormKept.refl s
  · rename_i o _ _
    dsimp only
    split
    · exact FormKept.refl s
    · split
      · exact formKept_modCore _ _ _
      · split
        · exact formKept_copyPart _ _ _ _
        · split
          · rename_i e h
            exact (formKept_copyEnds _ _ _).after (formKept_headerHold h)
          · have hu : FormKept s (if cmdHasRing o.cmd = true then scratchReady s o.team 0 (cmdHeader o.cmd) 64 else s) :=
              FormKept.ite (formKept_scratchReady _ _ _ _ _) (FormKept.refl _)
            split
            · exact hu
            · exact (formKept_copyFail _ _ _ _ _).after hu
            · exact (formKept_copyPart _ _ _ _).after ((formKept_modCopy _ _ _).after hu)

theorem formKept_publishStep (s : State) (core : Nat) : FormKept s (publishStep s core) := by
  unfold publishStep
  split
  · exact FormKept.refl s
  · dsimp only
    split
    · exact FormKept.refl s
    · split
      · rename_i e h
        exact (formKept_scratchHold _ _ _ _ _ _ h).trans (formKept_copyEnds _ _ _)
      · exact (formKept_scratchReady _ _ _ _ _).trans (FormKept.ite (FormKept.refl _) ((formKept_ringAdvance _ _ _ _ _).trans
          ((FormKept.ite (formKept_ringFlag _ _ _ _ _) (FormKept.refl _)).trans (formKept_copyDone _ _ _))))

theorem formKept_slotApply (s : State) (l : LaneId) (off : Nat) (op : SlotOp) : FormKept s (slotApply s l off op) := by
  unfold slotApply
  dsimp only
  split
  · exact FormKept.refl _
  · exact (formKept_ringAdvance _ _ _ _ _).after (formKept_releaseLane _ _ _)
  · exact (formKept_ringAdvance _ _ _ _ _).after (formKept_releaseLane _ _ _)
  · exact (formKept_ringFlag _ _ _ _ _).after (formKept_releaseLane _ _ _)

theorem outcomeKept_execSlot (i : Instr) (ea : Bool) (a : Reg) (d : Option Reg) (op : SlotOp) (s : State) :
    OutcomeKept s (execSlot i ea a d op s) := by
  refine outcomeKept_runEntry (.of_lanes (fun _ _ _ => formKept_fillNote _ _ _ _ _) (fun l vs t => ?_) rfl) _ _
  dsimp only
  split
  · exact FormKept.refl _
  · split
    · exact (formKept_post _ _ _).after (formKept_stashFillAt _ _ _ _)
    · exact (formKept_slotApply _ _ _ _).after (formKept_stashFillAt _ _ _ _)

theorem outcomeKept_execQstrm (q : BitVec 3) (ea eb : Bool) (a b : Reg) (s : State) : OutcomeKept s (execQstrm q ea eb a b s) := by
  refine outcomeKept_runEntry (.of_effects (fun l vs t => ?_) rfl rfl) _ _
  dsimp only
  split
  · exact formKept_modGroup _ _ _
  · exact FormKept.refl _

theorem formKept_streamBlock (s : State) (eng tm : Nat) (d : List Word) (n : Nat) {e : State × Block}
    (h : streamBlock s eng tm d n = some e) : FormKept s e.1 := by
  obtain ⟨p, -, hp⟩ := List.exists_of_findSome?_eq_some h
  exact formKept_scratchHold _ _ _ _ _ _ hp

theorem formKept_streamStep (s : State) (g queue : Nat) : FormKept s (streamStep s g queue) := by
  unfold streamStep
  split
  · exact FormKept.refl _
  · split
    · dsimp only
      split
      · exact FormKept.refl _
      · split
        · rename_i h
          exact (formKept_spanWait _ _ _ _ _ _).after (formKept_streamBlock _ _ _ _ _ h)
        · rename_i h
          exact (formKept_modTeam _ _ _).after ((formKept_engDone _ _ _).after (formKept_streamBlock _ _ _ _ _ h))
        · split
          · exact (formKept_modGroup _ _ _).after (FormKept.foldl _ (fun _ _ => formKept_stashFillAt _ _ _ _) _ _)
          · exact FormKept.foldl _ (fun _ _ => formKept_stashFillAt _ _ _ _) _ _
    · exact FormKept.refl _

/-! ### The matrix engine -/

theorem formKept_mmaNote (active : List LaneId) (l : LaneId) (i32 outl unf : Bool) (ra rb : Nat) (s : State) :
    FormKept s (mmaNote active l i32 outl unf ra rb s) := by
  unfold mmaNote
  dsimp only
  split
  · split
    · exact formKept_addAsync _ _ _ _ _
    · exact FormKept.refl _
  · exact formKept_fillNote _ _ _ _ _
  · exact FormKept.refl _

theorem formKept_mmaEnter (i32 outl unf acc : Bool) (d : Reg) (active : List LaneId) (l : LaneId) (ra rb : Nat) (s : State) :
    FormKept s (mmaEnter i32 outl unf acc d active l ra rb s) := by
  unfold mmaEnter
  split
  · exact (formKept_modQuad _ _ _ _).after ((formKept_post _ _ _).after (formKept_acquireLane _ _ _))
  · exact FormKept.refl _

theorem formKept_takeSlate (s : State) (k : Nat) : FormKept s (takeSlate s k) := FormKept.of_eq rfl

theorem formKept_awaitSlate (s : State) (g n : Nat) : FormKept s (awaitSlate s g n) := FormKept.of_eq rfl

theorem formKept_reclaimNow (s : State) : FormKept s (reclaimNow s) := by
  unfold reclaimNow
  split
  · exact FormKept.ite (formKept_takeSlate _ _) (FormKept.refl _)
  · exact FormKept.refl _

theorem formKept_gangAwaits (s : State) : FormKept s (gangAwaits s) := by
  unfold gangAwaits
  split
  · exact FormKept.foldl _ (fun _ _ => formKept_awaitSlate _ _ _) _ _
  · exact FormKept.refl _

theorem keepsForm_mmaEntry (s : State) (active : List LaneId) (i32 outl unf acc : Bool) (d a b : Reg) :
    (mmaEntry s active i32 outl unf acc d a b).KeepsForm :=
  .of_lanes (fun _ _ _ => FormKept.ite (formKept_mmaNote _ _ _ _ _ _ _ _) (FormKept.refl _))
    (fun _ _ _ => FormKept.ite (formKept_mmaEnter _ _ _ _ _ _ _ _ _ _) (FormKept.refl _)) rfl

theorem formKept_failNotes {e : Entry} (he : e.KeepsForm) (s : State) (active : List LaneId) (as : List (LaneId × Act)) :
    FormKept s (failNotes s e active as) := FormKept.foldl _ (fun _ _ => he.note _ _ _) _ _

theorem formKept_settleFailing {e : Entry} (he : e.KeepsForm) (s : State) (active : List LaneId) (as : List (LaneId × Act)) :
    FormKept s (settleFailing s e active as) :=
  FormKept.ite (FormKept.refl _) ((formKept_failNotes he _ _ _).trans (formKept_finish he _ _ _))

theorem formKept_lanesAwait (s : State) (ls : List LaneId) : FormKept s (lanesAwait s ls) :=
  FormKept.foldl _ (fun _ _ => formKept_awaitSlate _ _ _) _ _

theorem outcomeKept_execMma (i32 bq outl unf acc : Bool) (d a b : Reg) (s : State) :
    OutcomeKept s (execMma i32 bq outl unf acc d a b s) := by
  have he (u : State) (active : List LaneId) : (mmaEntry u active i32 outl unf acc d a b).KeepsForm :=
    keepsForm_mmaEntry u active i32 outl unf acc d a b
  unfold execMma
  extract_lets active e i as away ok u e' as'
  have hu : FormKept s u := FormKept.ite (FormKept.refl _) (formKept_reclaimNow _)
  refine OutcomeKept.ite (OutcomeKept.fault _) (OutcomeKept.ite (OutcomeKept.next (FormKept.refl _)) (OutcomeKept.ite
    (OutcomeKept.next (formKept_finish (he _ _) _ _ _)) (OutcomeKept.ite (OutcomeKept.next ?_) (OutcomeKept.ite (OutcomeKept.next ?_)
    (OutcomeKept.next ?_)))))
  · exact (formKept_lanesAwait _ _).after (formKept_settleFailing (he _ _) _ _ _)
  · exact formKept_settleFailing (he _ _) _ _ _
  · exact (formKept_finish (he _ _) _ _ _).after ((formKept_failNotes (he _ _) _ _ _).after hu)

theorem formKept_landElem (s : State) (id : Nat) (l : LaneId) (r : Nat) (v : Word) (bad : Bool) :
    FormKept s (landElem s id l r v bad) := by
  unfold landElem
  split
  · split
    · exact FormKept.refl _
    · split
      · split
        · split
          · exact (formKept_landImage _ _ _ _ _).after (formKept_setLaneElem _ _ _ _)
          · exact FormKept.refl _
        · exact FormKept.refl _
      · exact formKept_modSlice _ _ _ _
  · exact FormKept.ite (formKept_setLaneElem _ _ _ _) (FormKept.refl _)

theorem formKept_landInputs (s : State) (id g i r : Nat) (v : Word) (bad : Bool) :
    FormKept s (landInputs s id g i r v bad) := FormKept.of_eq rfl

theorem formKept_landPosted (s : State) (p : Posted) : FormKept s (landPosted s p) := by
  unfold landPosted
  dsimp only
  refine (FormKept.foldl _ (fun _ _ => formKept_tryEndGroup _ _) _ _).after ?_
  refine (FormKept.foldl _ (fun s d => ?_) _ _).after ((formKept_noteReply _ _).after (FormKept.fields (FormKept.refl _)))
  split
  · exact (formKept_landInputs _ _ _ _ _ _ _).after (formKept_landElem _ _ _ _ _ _)
  · exact formKept_landElem _ _ _ _ _ _

theorem formKept_noteDamage (s : State) (g : Nat) (ds : List Damage) : FormKept s (noteDamage s g ds) := by
  unfold noteDamage
  split
  · exact FormKept.refl _
  · exact formKept_modGroup _ _ _

theorem formKept_matrixStep (s : State) (core quad : Nat) : FormKept s (matrixStep s core quad) := by
  unfold matrixStep
  split
  · exact FormKept.refl _
  · dsimp only
    split
    · exact formKept_modQuad _ _ _ _
    · split
      · exact formKept_modQuad _ _ _ _
      · split
        · exact FormKept.refl _
        · split
          · exact formKept_spanWait _ _ _ _ _ _
          · split
            · refine (formKept_modQuad _ _ _ _).after ?_
              split
              · exact (formKept_addAsync _ _ _ _ _).after ((formKept_engDone _ _ _).after
                  (FormKept.foldl _ (fun _ _ => formKept_scratchReady _ _ _ _ _) _ _))
              · exact FormKept.foldl _ (fun _ _ => formKept_scratchReady _ _ _ _ _) _ _
            · refine (formKept_tryEndTeam _ _).after ((formKept_landPosted _ _).after
                ((formKept_modQuad _ _ _ _).after ((formKept_noteDamage _ _ _).after ?_)))
              split
              · exact (formKept_addAsync _ _ _ _ _).after ((formKept_engDone _ _ _).after
                  (FormKept.foldl _ (fun _ _ => formKept_scratchReady _ _ _ _ _) _ _))
              · exact FormKept.foldl _ (fun _ _ => formKept_scratchReady _ _ _ _ _) _ _

theorem outcomeKept_execMtake (s : State) : OutcomeKept s (execMtake s) :=
  outcomeKept_runMove (fun _ _ _ => FormKept.ite
    ((formKept_passSlice _ _ _ _).after ((formKept_acquireLane _ _ _).after (formKept_takeSlate _ _))) (formKept_awaitSlate _ _ _))
    (fun _ _ => FormKept.refl _) _ _ _

theorem formKept_passSlate (s : State) (k tm rank : Nat) : FormKept s (passSlate s k tm rank) := by
  unfold passSlate
  dsimp only
  split
  · exact FormKept.refl _
  · split
    · exact FormKept.fields ((formKept_modSlot _ _ _).after (formKept_modQuad _ _ _ _))
    · exact formKept_setSlate _ _ _ _

theorem formKept_releaseLanes (s : State) (ls : List LaneId) : FormKept s (releaseLanes s ls) :=
  FormKept.foldl _ (fun _ _ => (formKept_releaseLane _ _ _).after (formKept_drainLane _ _)) _ _

theorem outcomeKept_execMpass (rank : BitVec 16) (s : State) : OutcomeKept s (execMpass rank s) := by
  unfold execMpass
  extract_lets active first k u held
  have hu : FormKept s u := FormKept.ite (FormKept.refl _) (formKept_reclaimNow _)
  refine OutcomeKept.ite (OutcomeKept.next (formKept_gangAwaits _)) (OutcomeKept.of_kept hu (outcomeKept_runMove (fun t g n => ?_)
    (fun _ _ => FormKept.refl _) _ _ _))
  exact FormKept.ite ((formKept_passSlate _ _ _ _).after ((formKept_releaseLanes _ _).after (formKept_passSlice _ _ _ _)))
    (formKept_passSlice _ _ _ _)

theorem formKept_slateStep (s : State) (core quad : Nat) : FormKept s (slateStep s core quad) := by
  unfold slateStep
  dsimp only
  split
  · exact FormKept.fields (formKept_takeSlate _ _)
  · exact FormKept.refl _

/-! ### Placing teams -/

theorem formKept_freshId (s : State) : FormKept s (freshId s).2 := FormKept.of_eq rfl

theorem formKept_openSlot (s : State) (k launch : Nat) : FormKept s (openSlot s k launch) := by
  unfold openSlot
  dsimp only
  split
  · exact FormKept.ite (formKept_fetchLines _ _) ((formKept_modSlot _ _ _).after (formKept_fetchLines _ _))
  · exact FormKept.fields ((formKept_freshId _).after (formKept_clearPlace _ _))

theorem formKept_startGangs (s : State) (gs : List Nat) (old : List Nat) : FormKept s (startGangs s gs old) :=
  FormKept.foldl _ (fun _ _ => formKept_modGroup _ _ _) _ _

theorem formKept_startTeam (s : State) (lid : Nat) (l : Launch) (no : Nat) (coord : Word × Word × Word) (c : Nat)
    (seats : List (List Nat × Nat))
    (role : Role) (grip : Bool) : FormKept s (startTeam s lid l no coord c seats role grip) := by
  unfold startTeam
  dsimp only
  exact (formKept_modLaunch _ _ _).after ((formKept_setTeam _ _ _).after
    ((formKept_freshL1 _ _ _).after ((formKept_startGangs _ _ _).after
    ((FormKept.foldl _ (fun _ _ => formKept_setGroup _ _ _) _ _).after
    ((FormKept.foldl _ (fun _ _ => formKept_openSlot _ _ _) _ _).after (FormKept.fields (formKept_freshId _)))))))

theorem formKept_wakeFor (s : State) (c : Nat) : FormKept s (wakeFor s c).2 := by
  unfold wakeFor
  dsimp only
  split
  · exact FormKept.refl s
  · split <;> exact FormKept.of_eq rfl
  · exact FormKept.of_eq rfl
  · exact FormKept.refl s

/-! ### Tasks, dispatch and completion -/

theorem formKept_ownWait (s : State) (p va : Nat) (a : Acc) : FormKept s (ownWait s p va a) := formKept_spanWait _ _ _ _ _ _

theorem formKept_noteDesc (s : State) (p : Nat) (raster : Bool) (q : Nat) : FormKept s (noteDesc s p raster q) := by
  unfold noteDesc
  extract_lets k u
  have hu : FormKept s u := by
    dsimp only [u]
    split
    · exact formKept_devPromote _ _ _
    · exact FormKept.refl _
  split
  · exact FormKept.ite hu ((formKept_raiseEvent _ _).after ((formKept_engDone _ _ _).after ((formKept_modPart _ _ _).after hu)))
  · exact (formKept_ownWait _ _ _ _).after hu
  · exact hu

theorem formKept_putDesc (s : State) (p : Nat) (at? : Option Nat) (off v : Nat) : FormKept s (putDesc s p at? off v) := by
  unfold putDesc
  split
  · exact formKept_devPut _ _ _ _ _
  · exact FormKept.refl _

theorem formKept_devWrite_getD (s : State) (p va : Nat) (bs : List Byte) : FormKept s ((devWrite s p va bs).getD s) := by
  cases h : devWrite s p va bs with
  | none => exact FormKept.refl s
  | some t => exact formKept_devWrite s t p va bs h

theorem formKept_writeRefusal (s : State) (p : Nat) (r : Refused) : FormKept s (writeRefusal s p r) := by
  unfold writeRefusal
  dsimp only
  refine (formKept_raiseEvent _ _).after ((formKept_engDone _ _ _).after ?_)
  split
  · exact (formKept_putDesc _ _ _ _ _).after ((formKept_putDesc _ _ _ _ _).after
      ((formKept_putDesc _ _ _ _ _).after (formKept_putDesc _ _ _ _ _)))
  · exact FormKept.refl _

theorem formKept_refusalStep (s : State) (p : Nat) : FormKept s (refusalStep s p) := by
  unfold refusalStep
  split
  · exact FormKept.refl _
  · split
    · exact formKept_ownWait _ _ _ _
    · exact (formKept_writeRefusal _ _ _).after (formKept_modPart _ _ _)

theorem formKept_recordRefusal (s : State) (p : Nat) (r : Refused) : FormKept s (recordRefusal s p r) :=
  (formKept_refusalStep _ _).after (formKept_modPart _ _ _)

theorem formKept_refuseTask (s : State) (p : Nat) (at? : Option Nat) (q ridx code cls : Nat) :
    FormKept s (refuseTask s p at? q ridx code cls) :=
  formKept_recordRefusal _ _ _

theorem formKept_refuseRaster (s : State) (p q ridx code : Nat) : FormKept s (refuseRaster s p q ridx code) :=
  formKept_recordRefusal _ _ _

theorem formKept_publishRecord (s : State) (p n k : Nat) (e : EnqOp) : FormKept s (publishRecord s p n k e) :=
  (formKept_modPart _ _ _).after (formKept_putDesc _ _ _ _ _)

theorem formKept_writeRecord (s : State) (p n k : Nat) (d : QDesc) (e : EnqOp) : FormKept s (writeRecord s p n k d e) := by
  unfold writeRecord
  extract_lets e' u
  have hu : FormKept s u := (formKept_modPart _ _ _).after (formKept_devWrite_getD _ _ _ _)
  split
  · exact (formKept_publishRecord _ _ _ _ _).after hu
  · exact hu

theorem formKept_enqueueStep (s : State) (p : Nat) : FormKept s (enqueueStep s p) := by
  unfold enqueueStep
  split
  · exact FormKept.refl _
  · split
    · exact formKept_refusalStep _ _
    · dsimp only
      split
      · exact (formKept_refuseTask _ _ _ _ _ _ _).after ((formKept_modPart _ _ _).after (formKept_noteDesc _ _ _ _))
      · split
        · exact (formKept_writeRecord _ _ _ _ _ _).after ((formKept_putDesc _ _ _ _ _).after (formKept_modPart _ _ _))
        · exact (formKept_putDesc _ _ _ _ _).after (formKept_modPart _ _ _)
      · exact formKept_writeRecord _ _ _ _ _ _
      · exact formKept_publishRecord _ _ _ _ _
      · exact (formKept_raiseEvent _ _).after ((formKept_engDone _ _ _).after (formKept_modPart _ _ _))
      · exact FormKept.refl _
      · exact formKept_ownWait _ _ _ _

theorem formKept_taskNote (l : LaneId) (succ : Bool) (x : Nat) (s : State) : FormKept s (taskNote l succ x s) :=
  FormKept.ite (formKept_noteWait _ _ _ _ _) (FormKept.refl _)

theorem formKept_addEnqueue (s : State) (l : LaneId) (words : List Word) : FormKept s (addEnqueue s l words) := FormKept.of_eq rfl

theorem formKept_spawnLane (l : LaneId) (x : Nat) (s : State) : FormKept s (spawnLane l x s) := by
  unfold spawnLane
  split
  · exact (formKept_addEnqueue _ _ _).after ((formKept_promoteFor _ _ _ _).after
      ((formKept_touchL2 _ _ _ _ _).after ((formKept_releaseLane _ _ _).after
      ((formKept_drainLane _ _).after (formKept_noteLane _ _ _ _)))))
  · exact FormKept.refl _

theorem formKept_succLane (l : LaneId) (x : Nat) (s : State) : FormKept s (succLane l x s) := by
  unfold succLane
  split
  · exact FormKept.ite ((formKept_addEnqueue _ _ _).after ((formKept_acquireLane _ _ _).after
      ((formKept_writeL2 _ _ _ _ _).after ((formKept_recallStash _ _).after
      ((formKept_promoteFor _ _ _ _).after ((formKept_releaseLane _ _ _).after
      ((formKept_drainLane _ _).after (formKept_noteLane _ _ _ _))))))))
      ((formKept_acquireLane _ _ _).after ((formKept_writeL2 _ _ _ _ _).after
      ((formKept_recallStash _ _).after ((formKept_promoteFor _ _ _ _).after
      ((formKept_releaseLane _ _ _).after ((formKept_drainLane _ _).after (formKept_noteLane _ _ _ _)))))))
  · exact FormKept.refl _

theorem outcomeKept_execTspawn (ea : Bool) (a : Reg) (s : State) : OutcomeKept s (execTspawn ea a s) :=
  outcomeKept_runEntry (.of_lanes (fun _ _ _ => formKept_taskNote _ _ _ _) (fun _ _ _ => formKept_spawnLane _ _ _) rfl) _ _

theorem outcomeKept_execTsucc (ea : Bool) (a : Reg) (s : State) : OutcomeKept s (execTsucc ea a s) :=
  outcomeKept_runEntry (.of_lanes (fun _ _ _ => formKept_taskNote _ _ _ _) (fun _ _ _ => formKept_succLane _ _ _) rfl) _ _

theorem formKept_refreshQueues (s : State) : FormKept s (refreshQueues s) :=
  (FormKept.foldl _ (fun _ _ => formKept_modPart _ _ _) _ _).after
    (FormKept.foldl _ (fun _ _ => FormKept.foldl _ (fun _ _ => formKept_noteDesc _ _ _ _) _ _) _ _)

theorem formKept_refuseHead (s : State) (p q head code : Nat) : FormKept s (refuseHead s p q head code) :=
  (formKept_refuseTask _ _ _ _ _ _ _).after (formKept_putDesc _ _ _ _ _)

theorem formKept_placeHead (s : State) (p q core head : Nat) (lid? : Option Nat) (w : List Word) (header : Nat)
    (seats : List (List Nat × Nat)) : FormKept s (placeHead s p q core head lid? w header seats) := by
  unfold placeHead
  split
  rename_i lid u hu
  have h1 : FormKept s u := by
    split at hu
    · cases hu
      exact FormKept.refl s
    · cases hu
      exact FormKept.of_eq rfl
  refine h1.trans ?_
  split
  rename_i up v hv
  refine (FormKept.of_snd (formKept_wakeFor _ _) hv).trans ?_
  split
  · exact formKept_modLaunch _ _ _
  · split
    · exact FormKept.refl _
    · exact (formKept_modLaunch _ _ _).trans ((formKept_startTeam _ _ _ _ _ _ _ _ _).trans
        (FormKept.ite ((formKept_modPart _ _ _).trans (formKept_putDesc _ _ _ _ _)) (FormKept.refl _)))

theorem formKept_dispatchStep (s : State) (core : Nat) : FormKept s (dispatchStep s core) := by
  unfold dispatchStep
  split
  · exact FormKept.refl _
  · split
    · split
      · rename_i h
        have ht := FormKept.of_snd (formKept_wakeFor _ _) h
        exact FormKept.ite ((formKept_startTeam _ _ _ _ _ _ _ _ _).after ((formKept_modLaunch _ _ _).after ht))
          ((formKept_modLaunch _ _ _).after ht)
    · extract_lets u ps heads waits
      have hu : FormKept s u := formKept_refreshQueues _
      split
      · exact (FormKept.foldl _ (fun _ _ => formKept_ownWait _ _ _ _) _ _).after hu
      · dsimp only
        split
        · exact hu
        · split
          · exact (formKept_refreshQueues _).after ((formKept_refuseHead _ _ _ _ _).after ((formKept_modPart _ _ _).after hu))
          · exact (formKept_refreshQueues _).after ((formKept_placeHead _ _ _ _ _ _ _ _ _).after ((formKept_modPart _ _ _).after hu))
          · exact (formKept_modPart _ _ _).after hu

theorem formKept_performWrites (s : State) : FormKept s (performWrites s) := FormKept.foldl _ (fun _ _ => formKept_writebackL1 _ _) _ _

/-- The counter that a device's decrement writes. -/
theorem formKept_countDown (s : State) (p va pa : Nat) (g : Bool) (bs : List Byte) :
    FormKept s (writeL2 (recallStash (promote (noteAccess s 0 p va .rw) none (pa / 256)) pa) p g pa bs) :=
  (formKept_writeL2 _ _ _ _ _).after ((formKept_recallStash _ _).after
    ((formKept_promote _ _ _).after (formKept_noteAccess _ _ _ _ _)))

theorem formKept_deviceSucc (s : State) (p va : Nat) {r : State × Bool} (h : deviceSucc s p va = some r) : FormKept s r.1 := by
  unfold deviceSucc at h
  split at h
  · rw [← Option.some.inj h]
    exact FormKept.refl s
  · split at h
    · split at h
      · rw [← Option.some.inj h]
        exact formKept_engDone _ _ _
      · cases h
    · dsimp only at h
      split at h
      · rw [← Option.some.inj h]
        dsimp only
        exact (formKept_modPart _ _ _).after (formKept_countDown _ _ _ _ _ _)
      · rw [← Option.some.inj h]
        dsimp only
        exact formKept_countDown _ _ _ _ _ _
    · cases h
    · rw [← Option.some.inj h]
      exact FormKept.refl s

theorem formKept_completeLaunch (s : State) (lid : Nat) : FormKept s (completeLaunch s lid) := by
  unfold completeLaunch
  split
  · exact FormKept.refl _
  · split
    · exact FormKept.refl _
    · dsimp only
      split
      · exact (formKept_modLaunch _ _ _).after (formKept_performWrites _)
      · split
        · exact (formKept_ownWait _ _ _ _).after (formKept_performWrites _)
        · rename_i h
          exact (formKept_modLaunch _ _ _).after (FormKept.trans (formKept_performWrites _) (formKept_deviceSucc _ _ _ h))
        · rename_i h
          have ht := FormKept.trans (formKept_performWrites _) (formKept_deviceSucc _ _ _ h)
          split
          · exact (formKept_modLaunch _ _ _).after ((formKept_refuseTask _ _ _ _ _ _ _).after ht)
          · exact (formKept_modLaunch _ _ _).after ht

/-! ### Arrivals, page reads and the active set -/

theorem formKept_landSlotw (s : State) (p : Posted) (header : Nat) (free : Bool) (team side : Nat) :
    FormKept s (landSlotw s p header free team side) := by
  unfold landSlotw
  split
  · exact FormKept.refl _
  · split
    · exact FormKept.refl _
    · split
      · exact FormKept.refl _
      · dsimp only
        split
        · exact (formKept_acquireLane _ _ _).after (formKept_landPosted _ _)
        · exact formKept_landPosted _ _

theorem formKept_arrive (s : State) (id : Nat) : FormKept s (arrive s id) := by
  unfold arrive
  split
  · exact FormKept.refl _
  · split
    · exact formKept_landPosted _ _
    · exact (formKept_landPosted _ _).after (formKept_raiseFlags _ _ _)
    · exact (formKept_landSlotw _ _ _ _ _ _).after (formKept_stashFillAt _ _ _ _)
    · exact FormKept.refl _
    · exact FormKept.refl _
    · exact FormKept.refl _
    · exact FormKept.refl _

theorem formKept_deliverAsync (s : State) (k : Nat) (p : Nat × Nat → Bool) : FormKept s (deliverAsync s k p) := by
  unfold deliverAsync
  split
  · exact FormKept.refl _
  · split
    · exact FormKept.refl _
    · exact (formKept_partWave _ _).after ((formKept_takeTrap _ _ _ _ _ _).after (formKept_modSlot _ _ _))

theorem formKept_reachBoundary (s : State) (k : Nat) (es : List (Nat × Nat)) : FormKept s (reachBoundary s k es) :=
  FormKept.foldl _ (fun _ _ => formKept_deliverAsync _ _ _) _ _

theorem formKept_fillSector (s : State) (team side window sector : Nat) : FormKept s (fillSector s team side window sector) := by
  unfold fillSector
  split
  · exact FormKept.ite (formKept_stashFillAt _ _ _ _) (FormKept.refl _)
  · exact FormKept.refl _

theorem formKept_endRead (s : State) (p : Nat) (r : PageRead) (failed : Bool) : FormKept s (endRead s p r failed) :=
  (FormKept.foldl _ (fun _ _ => formKept_tryEndTeam _ _) _ _).after
    ((formKept_modPart _ _ _).after (FormKept.fields (FormKept.refl _)))

theorem formKept_finishRead (s : State) (p : Nat) (r : PageRead) (sct sc : Byte) (block : List Byte) :
    FormKept s (finishRead s p r sct sc block) :=
  FormKept.ite ((formKept_endRead _ _ _ _).after (FormKept.ite ((formKept_storeDev _ _ _).after (formKept_storeDev _ _ _))
    ((formKept_giveFrame _ _ _).after (formKept_storeDev _ _ _))))
    ((formKept_endRead _ _ _ _).after ((formKept_raiseEvent _ _).after
    (FormKept.ite ((formKept_storeDev _ _ _).after (formKept_giveFrame _ _ _)) (formKept_giveFrame _ _ _))))

theorem formKept_cowPart (s : State) (p : Nat) (r : PageRead) : FormKept s (cowPart s p r) := by
  unfold cowPart
  extract_lets d u
  have hu : FormKept s u := (formKept_drainFrame _ _).after (formKept_promote _ _ _)
  split
  · exact (formKept_endRead _ _ _ _).after ((formKept_cowEnd _ _ _ _ _ _).after hu)
  · split
    · rename_i h
      exact (formKept_endRead _ _ _ _).after (FormKept.trans hu (FormKept.of_fst (formKept_cowBegin _ _ _ _ _) h))
    · rename_i h
      exact (formKept_endRead _ _ _ _).after (FormKept.trans hu (FormKept.of_fst (formKept_cowBegin _ _ _ _ _) h))
    · rename_i h
      exact (formKept_modPart _ _ _).after (FormKept.trans hu (FormKept.of_fst (formKept_cowBegin _ _ _ _ _) h))

theorem formKept_serviceStep (s : State) (p : Nat) : FormKept s (serviceStep s p) := by
  unfold serviceStep
  split
  · exact FormKept.refl _
  · split
    · exact formKept_cowPart _ _ _
    · split
      · exact formKept_finishRead _ _ _ _ _ _
      · exact FormKept.refl _

theorem formKept_nvmeStep (s : State) (entry : Nat) (sct sc : Byte) (block : List Byte) :
    FormKept s (nvmeStep s entry sct sc block) := by
  unfold nvmeStep
  split
  · exact FormKept.refl _
  · split
    · exact FormKept.refl _
    · exact (formKept_serviceStep _ _).after (formKept_modPart _ _ _)

theorem formKept_cowStep (s : State) (entry : Nat) : FormKept s (cowStep s entry) := by
  unfold cowStep
  split
  · exact FormKept.refl _
  · split
    · exact FormKept.ite (formKept_serviceStep _ _) (FormKept.refl _)
    · exact FormKept.refl _

theorem formKept_resumeSlot (s : State) (k : Nat) : FormKept s (resumeSlot s k) :=
  FormKept.ite ((formKept_modQuad _ _ _ _).after (formKept_modSlot _ _ _)) (formKept_modSlot _ _ _)

theorem formKept_placeSwapped (s : State) (g : Nat) : FormKept s (placeSwapped s g) := by
  unfold placeSwapped
  split
  · exact FormKept.refl _
  · split
    · exact FormKept.refl _
    · split
      · exact FormKept.refl _
      · dsimp only
        split
        · exact formKept_modGroup _ _ _
        · split
          · exact FormKept.refl _
          · split
            · exact FormKept.refl _
            · exact (formKept_modGroup _ _ _).after ((FormKept.foldl _ (fun _ _ => formKept_resumeSlot _ _) _ _).after
                (FormKept.foldl _ (fun _ _ => formKept_moveSlot _ _ _) _ _))

/-! ### Gates, leases and power -/

theorem formKept_passOne (s : State) (g n : Nat) : FormKept s (passOne s g n) := FormKept.of_eq rfl

theorem formKept_retireHead (s : State) (k : Nat) (es : List (Nat × Nat)) : FormKept s (retireHead s k es) := by
  unfold retireHead
  split
  · exact FormKept.ite (formKept_retireEntry _ _ _) (FormKept.refl _)
  · exact FormKept.refl _

theorem formKept_passAll (s : State) (k : Nat) (es : List (Nat × Nat)) : FormKept s (passAll s k es) :=
  (formKept_reachBoundary _ _ _).after ((formKept_partWave _ _).after
    ((formKept_waveRetired _ _ _).after ((FormKept.foldl _ (fun _ _ => formKept_passOne _ _ _) _ _).after
    (formKept_retireHead _ _ _))))

theorem formKept_passWait (s : State) (g n : Nat) : FormKept s (passWait s g n) := formKept_passAll _ _ _

theorem formKept_yieldStep (s : State) (g n : Nat) : FormKept s (yieldStep s g n) := by
  unfold yieldStep
  split
  · exact FormKept.ite (formKept_passWait _ _ _) (FormKept.refl _)
  · exact FormKept.refl _

theorem formKept_endYields (s : State) : FormKept s (endYields s) := by
  unfold endYields
  refine FormKept.foldl _ (fun s e => ?_) _ _
  refine FormKept.foldl _ (fun s n => ?_) _ _
  split
  · exact FormKept.ite (formKept_passWait _ _ _) (FormKept.refl _)
  · exact FormKept.refl _

theorem formKept_sleepStep (s : State) (g n : Nat) : FormKept s (sleepStep s g n) := by
  unfold sleepStep
  split
  · exact FormKept.ite (formKept_passWait _ _ _) (FormKept.refl _)
  · exact FormKept.refl _

theorem formKept_hangStep (s : State) (g : Nat) : FormKept s (hangStep s g) := by
  unfold hangStep
  split
  · exact FormKept.refl _
  · dsimp only
    exact FormKept.ite (FormKept.refl _) ((formKept_raiseEvent _ _).after (formKept_stopTeam _ _))

theorem formKept_leaveActive (s : State) (k : Nat) : FormKept s (leaveActive s k) := FormKept.of_eq rfl

theorem formKept_leaveLast (s : State) (k : Nat) : FormKept s (leaveLast s k) := FormKept.of_eq rfl

theorem formKept_activeTimeout (s : State) (k : Nat) : FormKept s (activeTimeout s k) := by
  unfold activeTimeout
  split
  · exact FormKept.refl _
  · exact FormKept.ite (formKept_leaveLast _ _) (FormKept.refl _)

theorem formKept_activeIdle (s : State) (k : Nat) : FormKept s (activeIdle s k) := by
  unfold activeIdle
  split
  · exact FormKept.refl _
  · exact FormKept.ite (formKept_leaveActive _ _) (FormKept.refl _)

theorem formKept_activeEnter (s : State) (k : Nat) : FormKept s (activeEnter s k) :=
  FormKept.ite (formKept_modSlot _ _ _) (FormKept.refl _)

theorem formKept_gateBegin (s : State) (cl : Nat) : FormKept s (gateBegin s cl) :=
  FormKept.ite (formKept_setCluster _ _ _) (FormKept.refl _)

theorem formKept_gateEnd (s : State) (cl : Nat) : FormKept s (gateEnd s cl) := by
  unfold gateEnd
  dsimp only
  split
  · exact FormKept.ite (formKept_setCluster _ _ _) (FormKept.refl _)
  · exact FormKept.refl _

theorem formKept_wakeUp (s : State) (cl : Nat) : FormKept s (wakeUp s cl) :=
  FormKept.ite ((FormKept.foldl _ (fun _ _ => formKept_dispatchStep _ _) _ _).after (formKept_setCluster _ _ _)) (FormKept.refl _)

theorem outcomeKept_execLeaseFree (s : State) : OutcomeKept s (execLeaseFree s) := by
  refine outcomeKept_runEntry (.of_effects (fun l x t => ?_) rfl rfl) _ _
  dsimp only
  split
  · exact FormKept.ite (formKept_endLease _ _ _) (FormKept.refl _)
  · exact FormKept.refl _

theorem outcomeKept_execLeaseReq (d : Reg) (n : BitVec 16) (s : State) : OutcomeKept s (execLeaseReq d n s) :=
  outcomeKept_runMove (formKept_waitSlice _) (formKept_stepSingle 4) _ _ _

theorem formKept_giveLease (s : State) (cl : Nat) (h : List Nat) (team us : Nat) :
    FormKept s (giveLease s cl h team us) := FormKept.of_eq rfl

theorem formKept_decideSlot (s : State) (k : Nat) : FormKept s (decideSlot s k) := by
  unfold decideSlot
  split
  · exact FormKept.refl _
  · exact (formKept_passAll _ _ _).after ((FormKept.foldl _ (fun _ _ => FormKept.foldl _
      (fun _ _ => formKept_writeLane _ _ _ _) _ _) _ _).after (FormKept.ite (formKept_giveLease _ _ _ _ _) (FormKept.refl _)))

theorem formKept_quadLevel (s : State) (c q n : Nat) : FormKept s (quadLevel s c q n) := FormKept.of_eq rfl

theorem formKept_addSteps (s : State) (xs : List PowerStep) : FormKept s (addSteps s xs) := FormKept.of_eq rfl

theorem formKept_lowerClock (s : State) (cl n : Nat) : FormKept s (lowerClock s cl n) := FormKept.of_eq rfl

theorem formKept_undoStep (s : State) (x : PowerStep) : FormKept s (undoStep s x) := by
  unfold undoStep
  split
  · exact formKept_quadLevel _ _ _ _
  · exact FormKept.ite (formKept_lowerClock _ _ _) (FormKept.refl _)

theorem formKept_throttle (s : State) (powerMilliW : Nat) : FormKept s (throttle s powerMilliW) := by
  unfold throttle
  dsimp only
  split
  · exact FormKept.ite ((formKept_addSteps _ _).after (FormKept.foldl _ (fun _ _ => formKept_lowerClock _ _ _) _ _))
      ((formKept_addSteps _ _).after (FormKept.foldl _ (fun _ _ => formKept_quadLevel _ _ _ _) _ _))
  · split
    · split
      · exact FormKept.fields (formKept_undoStep _ _)
      · exact FormKept.refl _
    · exact FormKept.refl _

theorem formKept_shutTick (s : State) : FormKept s (shutTick s) := by
  unfold shutTick
  split
  · exact FormKept.refl _
  · exact (formKept_throttle _ _).after (FormKept.fields (FormKept.refl _))

theorem formKept_closeTick (s : State) : FormKept s (closeTick s) := FormKept.ite (formKept_shutTick _) (FormKept.refl _)

theorem formKept_expireLease (s : State) (cl : Nat) : FormKept s (expireLease s cl) :=
  FormKept.ite ((formKept_closeTick _).after (formKept_endLease _ _ _)) (FormKept.refl _)

theorem formKept_decideLease (s : State) (k : Nat) : FormKept s (decideLease s k) :=
  FormKept.ite ((formKept_closeTick _).after (formKept_decideSlot _ _)) (FormKept.refl _)

theorem formKept_finishTick (s : State) : FormKept s (finishTick s) := by
  unfold finishTick
  dsimp only
  refine (formKept_shutTick _).after ?_
  refine (FormKept.foldl _ (fun s x => ?_) _ _).after (FormKept.foldl _ (fun _ _ => formKept_expireLease _ _) _ _)
  split
  · exact formKept_decideLease _ _
  · exact FormKept.refl _

theorem formKept_readSensor (s : State) (x : Sensor) : FormKept s (readSensor s x) := FormKept.of_eq rfl

theorem formKept_beginHold (s : State) (c : Nat) : FormKept s (beginHold s c) := FormKept.of_eq rfl

theorem formKept_endHold (s : State) (c : Nat) : FormKept s (endHold s c) :=
  FormKept.ite ((formKept_setCluster _ _ _).after ((formKept_modCore _ _ _).after
    ((FormKept.foldl _ (fun _ _ => formKept_modQuad _ _ _ _) _ _).after (formKept_addSteps _ _))))
    ((formKept_modCore _ _ _).after ((FormKept.foldl _ (fun _ _ => formKept_modQuad _ _ _ _) _ _).after (formKept_addSteps _ _)))

theorem formKept_senseCore (s : State) (c : Nat) : FormKept s (senseCore s c) := by
  unfold senseCore
  dsimp only
  exact FormKept.ite ((formKept_beginHold _ _).after (formKept_modCore _ _ _))
    (FormKept.ite ((formKept_endHold _ _).after (formKept_modCore _ _ _)) (formKept_modCore _ _ _))

theorem formKept_meltStep (s : State) (delta : Int) : FormKept s (meltStep s delta) :=
  FormKept.ite ((FormKept.foldl _ (fun _ _ => formKept_endLease _ _ _) _ _).after
    (FormKept.fields (FormKept.fields (FormKept.ite ((formKept_raiseEvent _ _).after (FormKept.fields (FormKept.refl _)))
    (FormKept.fields (FormKept.refl _)))))) (FormKept.ite (FormKept.fields
    (FormKept.fields (FormKept.ite ((formKept_raiseEvent _ _).after (FormKept.fields (FormKept.refl _)))
    (FormKept.fields (FormKept.refl _))))) (FormKept.fields (FormKept.ite
    ((formKept_raiseEvent _ _).after (FormKept.fields (FormKept.refl _))) (FormKept.fields (FormKept.refl _)))))

theorem formKept_passMicros (s : State) : FormKept s (passMicros s) := FormKept.of_eq rfl

theorem formKept_powerStep (s : State) (env : PowerEnv) : FormKept s (powerStep s env) :=
  FormKept.ite (FormKept.refl _) ((formKept_closeTick _).after
    (FormKept.fields ((formKept_meltStep _ _).after ((formKept_endYields _).after
    ((FormKept.foldl _ (fun _ _ => formKept_senseCore _ _) _ _).after
    ((FormKept.foldl _ (fun _ _ => formKept_readSensor _ _) _ _).after ((formKept_passMicros _).after (formKept_finishTick _))))))))

/-! ### Instructions of the graphics stages -/

theorem formKept_modMesh (s : State) (l : LaneId) (f : Mesh → Mesh) : FormKept s (modMesh s l f) := by
  unfold modMesh
  split
  · exact formKept_modGroup _ _ _
  · exact FormKept.refl _

theorem formKept_modOut (s : State) (l : LaneId) (f : PixOut → PixOut) : FormKept s (modOut s l f) := by
  unfold modOut
  split
  · exact formKept_modGroup _ _ _
  · exact FormKept.refl _

theorem outcomeKept_execEmitv (ea eb : Bool) (a b : Reg) (s : State) : OutcomeKept s (execEmitv ea eb a b s) :=
  outcomeKept_runEntry (.of_effects (fun _ _ _ => formKept_modMesh _ _ _) rfl rfl) _ _

theorem outcomeKept_execEmitp (ea eb : Bool) (a b : Reg) (s : State) : OutcomeKept s (execEmitp ea eb a b s) :=
  outcomeKept_runEntry (.of_effects (fun _ _ _ => formKept_modMesh _ _ _) rfl rfl) _ _

theorem outcomeKept_execAttr (kind : AttrKind) (n : BitVec 4) (d : Reg) (s : State) : OutcomeKept s (execAttr kind n d s) :=
  outcomeKept_runEntry (.of_still rfl rfl rfl) _ _

theorem keepsForm_discEntry (ea : Bool) (a : Reg) (s : State) : (discEntry ea a s).KeepsForm :=
  .of_still rfl rfl rfl

theorem outcomeKept_execDisc (ea : Bool) (a : Reg) (s : State) : OutcomeKept s (execDisc ea a s) := by
  unfold execDisc
  extract_lets active e as t gone parts u v
  have ht : FormKept s t := formKept_finish (keepsForm_discEntry _ _ _) _ _ _
  have hv : FormKept s v := (formKept_partFocus _).after ((FormKept.foldl _ (fun _ _ => formKept_exitLanes _ _ _ _ _) _ _).after ht)
  exact OutcomeKept.ite (OutcomeKept.fault _) (OutcomeKept.ite (OutcomeKept.next ht)
    (OutcomeKept.next ((FormKept.foldl _ (fun _ _ => formKept_exitProgress _ _) _ _).after hv)))

theorem outcomeKept_execZout (ea : Bool) (a : Reg) (s : State) : OutcomeKept s (execZout ea a s) :=
  outcomeKept_runEntry (.of_effects (fun _ _ _ => formKept_modOut _ _ _) rfl rfl) _ _

theorem outcomeKept_execPxout (blend ea : Bool) (a : Reg) (s : State) : OutcomeKept s (execPxout blend ea a s) :=
  outcomeKept_runEntry (.of_effects (fun _ _ _ => formKept_modOut _ _ _) rfl rfl) _ _

/-! ### Textures and tiles -/

theorem formKept_texEnter (s : State) (active : List LaneId) (gather : Bool) (d off : Nat) (xs : List (LaneId × List Word)) :
    FormKept s (texEnter s active gather d off xs) := by
  unfold texEnter
  split
  · exact (formKept_modCore _ _ _).after ((formKept_post _ _ _).after (formKept_scratchFill _ _ _ _))
  · exact FormKept.refl _

theorem outcomeKept_execTexture (i : Instr) (gather ea eb : Bool) (d a b : Reg) (s : State) :
    OutcomeKept s (execTexture i gather ea eb d a b s) :=
  outcomeKept_runEntry (.of_group (fun _ _ _ => formKept_scratchFill _ _ _ _) (fun _ _ _ => FormKept.refl _)
    (fun _ _ => formKept_texEnter _ _ _ _ _ _) rfl) _ _

theorem formKept_textureStep (s : State) (core : Nat) : FormKept s (textureStep s core) := by
  unfold textureStep
  split
  · exact FormKept.refl _
  · dsimp only
    split
    · exact formKept_modCore _ _ _
    · split
      · exact formKept_spanWait _ _ _ _ _ _
      · refine (formKept_tryEndTeam _ _).after ((formKept_landPosted _ _).after ((formKept_modCore _ _ _).after ?_))
        split
        · exact (formKept_addAsync _ _ _ _ _).after ((formKept_engDone _ _ _).after
            ((formKept_poolNote _ _ _ _ _ _).after (FormKept.foldl _
            (fun _ _ => FormKept.ite (formKept_spanNote _ _ _ _ _ _) (FormKept.refl _)) _ _)))
        · exact FormKept.foldl _ (fun _ _ => FormKept.ite (formKept_spanNote _ _ _ _ _ _) (FormKept.refl _)) _ _

theorem formKept_tileEnter (s : State) (depth : Bool) (load : Option Nat) (d words : Nat) (xs : List (LaneId × Word × List Byte)) :
    FormKept s (tileEnter s depth load d words xs) := by
  unfold tileEnter
  split
  · dsimp only
    split
    · exact formKept_modCore _ _ _
    · exact FormKept.refl _
  · exact FormKept.refl _

theorem outcomeKept_execTileld (depth ea : Bool) (d a : Reg) (s : State) : OutcomeKept s (execTileld depth ea d a s) :=
  outcomeKept_runEntry (.of_group (fun _ _ _ => FormKept.refl _) (fun _ _ _ => FormKept.refl _)
    (fun _ _ => (formKept_tileEnter _ _ _ _ _ _).after (formKept_post _ _ _)) rfl) _ _

theorem outcomeKept_execTilest (depth ea : Bool) (d a : Reg) (s : State) : OutcomeKept s (execTilest depth ea d a s) :=
  outcomeKept_runEntry (.of_group (fun _ _ _ => FormKept.refl _) (fun _ _ _ => FormKept.refl _)
    (fun _ _ => formKept_tileEnter _ _ _ _ _ _) rfl) _ _

/-! ### Rays -/

theorem formKept_raygoFill (l : LaneId) (off : Nat) (s : State) : FormKept s (raygoFill l off s) := by
  unfold raygoFill
  extract_lets u
  have hu : FormKept s u := formKept_scratchFill _ _ _ _
  split
  · exact FormKept.ite hu ((formKept_fillNote _ _ _ _ _).after hu)
  · exact hu

theorem outcomeKept_execRaygo (ea : Bool) (a : Reg) (s : State) : OutcomeKept s (execRaygo ea a s) := by
  refine outcomeKept_runEntry (.of_lanes (fun _ _ _ => formKept_raygoFill _ _ _) (fun l vs t => ?_) rfl) _ _
  dsimp only
  split
  · exact FormKept.ite (FormKept.refl _) ((formKept_setCluster _ _ _).after (formKept_raygoFill _ _ _))
  · exact FormKept.refl _

theorem formKept_rayFail (s : State) (cl : Nat) (o : RayOp) (fault : Option (Nat × Nat)) : FormKept s (rayFail s cl o fault) := by
  unfold rayFail
  extract_lets u c v w
  have hv : FormKept s v := (formKept_setCluster _ _ _).after ((formKept_ringFlag _ _ _ _ _).after (formKept_engDone _ _ _))
  refine (formKept_tryEndTeam _ _).after ?_
  dsimp only [w]
  split
  · exact (formKept_addAsync _ _ _ _ _).after hv
  · exact hv

theorem formKept_rayGaze (s : State) (cl core p : Nat) (o : RayOp) {r : State × Word × Word} (h : rayGaze s cl core p o = .ok r) :
    FormKept s r.1 := by
  unfold rayGaze at h
  split at h
  · rw [← Except.ok.inj h]
    exact FormKept.refl s
  · extract_lets +onlyGivenNames va u at h
    have hu : FormKept s u := by
      dsimp only [u]
      split
      · exact formKept_promote _ _ _
      · exact FormKept.refl s
    split at h
    · cases h
    · rw [← Except.ok.inj h]
      exact (formKept_setCluster _ _ _).after hu

theorem formKept_rayStep (s : State) (cl : Nat) : FormKept s (rayStep s cl) := by
  unfold rayStep
  split
  · exact FormKept.refl _
  · rename_i o _ _
    split
    · exact FormKept.ite (FormKept.refl _) (formKept_setCluster _ _ _)
    · extract_lets +onlyGivenNames core p w h stop
      have hstop (u : State) (b : Block) : FormKept u (stop u b) := by
        dsimp only [stop]
        split
        · exact formKept_spanWait _ _ _ _ _ _
        · exact (formKept_rayFail _ _ _ _).after (formKept_poolNote _ _ _ _ _ _)
      split
      · exact hstop _ _
      · rename_i u gaze hu
        have hu : FormKept s u := formKept_rayGaze _ _ _ _ _ hu
        split
        · exact (hstop _ _).after hu
        · extract_lets +onlyGivenNames v t
          have hv : FormKept s v := (formKept_scratchReady _ _ _ _ _).after hu
          split
          · exact hv
          · split
            · exact (formKept_rayFail _ _ _ _).after hv
            · split
              · exact (hstop _ _).after hv
              · split
                · exact (hstop _ _).after hv
                · exact (hstop _ _).after hv
                · extract_lets +onlyGivenNames per
                  split
                  · exact (hstop _ _).after hv
                  · extract_lets +onlyGivenNames last keep done
                    have hkeep (x : State) : FormKept x (keep x) := formKept_setCluster _ _ _
                    have hdone (x : State) : FormKept x (done x) :=
                      (formKept_tryEndTeam _ _).after ((formKept_setCluster _ _ _).after (formKept_ringFlag _ _ _ _ _))
                    split
                    · exact (hdone _).after hv
                    · split
                      · exact hv
                      · extract_lets +onlyGivenNames pads off
                        split
                        · exact (hstop _ _).after hv
                        · extract_lets +onlyGivenNames a b c
                          have hc : FormKept s c :=
                            (formKept_ringAdvance _ _ _ _ _).after ((formKept_scratchWrite _ _ _ _ _ _).after (FormKept.fields hv))
                          exact FormKept.ite ((hdone _).after hc) ((hkeep _).after hc)

/-! ### Raster passes -/

theorem formKept_promoteGaze (s : State) (p : Nat) (d : QDesc) : FormKept s (promoteGaze s p d) := by
  unfold promoteGaze
  split
  · exact FormKept.foldl _ (fun _ _ => formKept_devPromote _ _ _) _ _
  · exact FormKept.refl _

theorem formKept_latchStrips (s : State) (ps : Pass) : FormKept s (latchStrips s ps) := FormKept.of_eq rfl

theorem formKept_startPass (s : State) (p q : Nat) (ps : Pass) (meshHeader pixHeader : Nat) :
    FormKept s (startPass s p q ps meshHeader pixHeader) :=
  (formKept_latchStrips _ _).after (FormKept.fields ((formKept_freshId _).after ((formKept_freshId _).after ((formKept_freshId _).after
    ((FormKept.foldl _ (fun _ _ => formKept_devWrite_getD _ _ _ _) _ _).after ((formKept_engDone _ _ _).after
      (formKept_putDesc _ _ _ _ _)))))))

theorem formKept_takeStep (s : State) (p q : Nat) : FormKept s (takeStep s p q) := by
  unfold takeStep
  split
  · exact FormKept.refl _
  · extract_lets u
    have hu : FormKept s u := formKept_noteDesc _ _ _ _
    split
    · exact hu
    · split
      · exact hu
      · extract_lets u1
        have hu1 : FormKept s u1 := (formKept_promoteGaze _ _ _).after hu
        split
        · exact (formKept_ownWait _ _ _ _).after hu1
        · exact (formKept_refuseRaster _ _ _ _ _).after ((formKept_putDesc _ _ _ _ _).after hu1)
        · exact (formKept_startPass _ _ _ _ _ _).after hu1

theorem formKept_putDepth (s : State) (p : Pass) (v i j : Nat) (z : Word) : FormKept s (putDepth s p v i j z) := by
  unfold putDepth
  split
  · exact formKept_scratchWrite _ _ _ _ _ _
  · exact FormKept.refl _

theorem formKept_putColour (s : State) (p : Pass) (v i j c : Nat) : FormKept s (putColour s p v i j c) := by
  unfold putColour
  split
  · exact formKept_scratchWrite _ _ _ _ _ _
  · exact FormKept.refl _

theorem formKept_reloadHier (s : State) (lid no : Nat) : FormKept s (reloadHier s lid no) := FormKept.of_eq rfl

theorem formKept_storeDepth (s : State) (pid : Nat) (p : Pass) (v i j : Nat) (z : Word) : FormKept s (storeDepth s pid p v i j z) :=
  (formKept_modPass _ _ _).after (formKept_putDepth _ _ _ _ _ _)

theorem formKept_commitOp (s : State) (o : TbeOp) : FormKept s (commitOp s o) := by
  unfold commitOp
  split
  · exact FormKept.refl _
  · dsimp only
    split
    · exact FormKept.refl _
    · split
      · exact FormKept.ite (formKept_storeDepth _ _ _ _ _ _ _) (FormKept.refl _)
      · exact (formKept_putColour _ _ _ _ _ _).after (FormKept.ite (formKept_storeDepth _ _ _ _ _ _ _) (FormKept.refl _))

theorem formKept_tileAccess (s : State) (a : TileAccess) : FormKept s (tileAccess s a) := by
  unfold tileAccess
  split
  · exact FormKept.refl _
  · split
    · exact FormKept.refl _
    · split
      · exact (formKept_tryEndTeam _ _).after (formKept_landPosted _ _)
      · exact (formKept_tryEndTeam _ _).after (formKept_modTeam _ _ _)

theorem formKept_commitStep (s : State) (core : Nat) : FormKept s (commitStep s core) := by
  unfold commitStep
  dsimp only
  split
  · exact FormKept.refl _
  · split
    · exact (formKept_commitOp _ _).after (formKept_modCore _ _ _)
    · exact (formKept_tileAccess _ _).after (formKept_modCore _ _ _)

theorem formKept_clearTile (s : State) (p : Pass) (v row col : Nat) : FormKept s (clearTile s p v row col) := by
  unfold clearTile
  split
  · exact FormKept.refl _
  · exact (formKept_scratchWrite _ _ _ _ _ _).after (formKept_scratchWrite _ _ _ _ _ _)

theorem formKept_clearStep (s : State) (pid : Nat) : FormKept s (clearStep s pid) := by
  unfold clearStep
  split
  · exact FormKept.refl _
  · exact FormKept.ite (FormKept.refl _) ((formKept_modPass _ _ _).after
      (FormKept.ite (FormKept.refl _) (FormKept.foldl _ (fun _ _ => formKept_clearTile _ _ _ _ _) _ _)))

theorem formKept_testSample (pid v : Nat) (fan : List NdcVertex) (r : State × List (Nat × Nat × Word)) (ij : Nat × Nat) :
    FormKept r.1 (testSample pid v fan r ij).1 := by
  unfold testSample
  split
  · exact FormKept.refl _
  · dsimp only
    split
    · exact FormKept.refl _
    · split
      · exact FormKept.refl _
      · split
        · exact FormKept.refl _
        · exact FormKept.ite (formKept_storeDepth _ _ _ _ _ _ _) (FormKept.refl _)

theorem formKept_addBlocks (s : State) (pid : Nat) (geom : PixGeom) (xs : List (Nat × Nat × Word)) :
    FormKept s (addBlocks s pid geom xs) :=
  FormKept.foldl _ (fun _ _ => formKept_modPass _ _ _) _ _

theorem formKept_rasterPrim (s : State) (pid : Nat) (vs : List (List Word)) (v : Nat) : FormKept s (rasterPrim s pid vs v) := by
  unfold rasterPrim
  split
  · exact FormKept.refl s
  · dsimp only
    split
    · exact FormKept.refl s
    · split
      · exact FormKept.refl s
      · exact FormKept.foldl _ (fun u fan => (formKept_addBlocks _ _ _ _).after
          (FormKept.foldl_fst _ (formKept_testSample pid v fan) _ (u, []))) _ _

theorem formKept_rasterMeshlet (s : State) (pid : Nat) (p : Pass) (m : Mesh) : FormKept s (rasterMeshlet s pid p m) := by
  unfold rasterMeshlet
  refine FormKept.foldl _ (fun s e => ?_) _ _
  split
  · exact FormKept.foldl _ (fun _ _ => formKept_rasterPrim _ _ _ _) _ _
  · exact FormKept.refl _

theorem formKept_meshletStep (s : State) (pid : Nat) : FormKept s (meshletStep s pid) := by
  unfold meshletStep
  split
  · exact FormKept.refl _
  · split
    · exact FormKept.refl _
    · split
      · exact FormKept.refl _
      · exact (formKept_modPass _ _ _).after (formKept_rasterMeshlet _ _ _ _)

theorem formKept_pixelStartStep (s : State) (pid : Nat) : FormKept s (pixelStartStep s pid) := by
  unfold pixelStartStep
  split
  · exact FormKept.refl _
  · split
    · split
      · rename_i h
        have ht := FormKept.of_snd (formKept_wakeFor _ _) h
        exact FormKept.ite ht ((formKept_modPass _ _ _).after
          ((formKept_modLaunch _ _ _).after ((formKept_startTeam _ _ _ _ _ _ _ _ _).after ht)))
    · exact FormKept.refl _

theorem formKept_publishBlocked (s : State) (p core : Nat) (b : Block) : FormKept s (publishBlocked s p core b) := by
  unfold publishBlocked
  split
  · exact formKept_spanWait _ _ _ _ _ _
  · exact (formKept_engDone _ _ _).after (formKept_poolNote _ _ _ _ _ _)

theorem formKept_publishTile (s : State) (pid : Nat) (p : Pass) (q : Nat) : FormKept s (publishTile s pid p q) := by
  unfold publishTile
  dsimp only
  split
  · split
    · exact formKept_publishBlocked _ _ _ _
    · split
      · exact formKept_scratchReady _ _ _ _ _
      · split
        · exact (formKept_publishBlocked _ _ _ _).after (formKept_scratchReady _ _ _ _ _)
        · exact (formKept_modPass _ _ _).after ((formKept_ringAdvance _ _ _ _ _).after
            ((formKept_scratchWrite _ _ _ _ _ _).after (formKept_scratchReady _ _ _ _ _)))
  · exact FormKept.refl _

theorem formKept_publicationStep (s : State) (pid : Nat) : FormKept s (publicationStep s pid) := by
  unfold publicationStep
  split
  · exact FormKept.refl _
  · split
    · exact FormKept.ite (formKept_modPass _ _ _) (FormKept.refl _)
    · exact FormKept.ite (formKept_publishTile _ _ _ _) (FormKept.refl _)
    · exact FormKept.refl _

theorem formKept_passDone (s : State) (pid : Nat) : FormKept s (passDone s pid) := by
  unfold passDone
  split
  · exact FormKept.refl _
  · split
    · exact FormKept.refl _
    · dsimp only
      split
      · exact (formKept_modPass _ _ _).after (formKept_performWrites _)
      · split
        · exact (formKept_ownWait _ _ _ _).after (formKept_performWrites _)
        · rename_i h
          exact (formKept_modPass _ _ _).after (FormKept.trans (formKept_performWrites _) (formKept_deviceSucc _ _ _ h))
        · rename_i h
          exact (formKept_modPass _ _ _).after ((formKept_refuseRaster _ _ _ _ _).after
            (FormKept.trans (formKept_performWrites _) (formKept_deviceSucc _ _ _ h)))

/-! ### Context commands, saves and migration -/

theorem formKept_ctxDone (s : State) (p res : Nat) : FormKept s (ctxDone s p res) := FormKept.of_eq rfl

theorem formKept_ctxRun (s : State) {f : Nat → State} (hf : ∀ p, FormKept s (f p)) : FormKept s (ctxRun s f) :=
  FormKept.ite (FormKept.refl _) (hf _)

theorem formKept_launchCommand (s : State) (p : Nat) {f : State → Nat → State} (hf : ∀ u k, FormKept u (f u k)) :
    FormKept s (launchCommand s p f) :=
  FormKept.ite (formKept_ctxDone _ _ _) ((formKept_ctxDone _ _ _).after (FormKept.foldl _ hf _ _))

theorem formKept_stopOne (s : State) (t : Nat) : FormKept s (stopOne s t) := (formKept_stopTeam _ _).after (formKept_modTeam _ _ _)

theorem formKept_stopCommand (s : State) (p : Nat) : FormKept s (stopCommand s p) := formKept_launchCommand s p formKept_stopOne

theorem formKept_resumeSlice (s : State) (g n : Nat) : FormKept s (resumeSlice s g n) := by
  unfold resumeSlice
  split
  · exact FormKept.refl _
  · exact (formKept_partGroup _ _).after (formKept_modSlice _ _ _ _)

theorem formKept_resumeSlices (s : State) (g : Nat) : FormKept s (resumeSlices s g) := by
  unfold resumeSlices
  split
  · exact FormKept.refl _
  · exact FormKept.foldl _ (fun _ _ => formKept_resumeSlice _ _ _) _ _

theorem formKept_resumeTeam (s : State) (tid : Nat) : FormKept s (resumeTeam s tid) := by
  unfold resumeTeam
  split
  · exact FormKept.refl _
  · exact (formKept_modTeam _ _ _).after (FormKept.foldl _ (fun _ _ => (formKept_modGroup _ _ _).after
      (formKept_resumeSlices _ _)) _ _)

theorem formKept_resumeCommand (s : State) (p : Nat) : FormKept s (resumeCommand s p) := formKept_launchCommand s p formKept_resumeTeam

theorem formKept_stepSlices (s : State) (tid k : Nat) : FormKept s (stepSlices s tid k) :=
  FormKept.foldl _ (fun _ _ => (formKept_modGroup _ _ _).after (formKept_resumeSlices _ _)) _ _

theorem formKept_stepCommand (s : State) (p : Nat) : FormKept s (stepCommand s p) := by
  unfold stepCommand
  split
  · exact formKept_ctxDone _ _ _
  · split
    · exact formKept_ctxDone _ _ _
    · split
      · exact formKept_ctxDone _ _ _
      · exact (formKept_stepSlices _ _ _).after (formKept_ctxDone _ _ _)

theorem formKept_dropWork (s : State) (tid : Nat) (gs : List Nat) : FormKept s (dropWork s tid gs) :=
  FormKept.fields (FormKept.foldl _ (fun _ _ => formKept_noteReply _ _) _ _)

theorem formKept_killNow (s : State) (tid : Nat) : FormKept s (killNow s tid) := by
  unfold killNow
  split
  · exact FormKept.refl _
  · split
    · exact FormKept.refl _
    · dsimp only
      refine (formKept_tryEndTeam _ _).after ((formKept_modLaunch _ _ _).after ((formKept_modTeam _ _ _).after ?_))
      refine (FormKept.foldl _ (fun s g => ?_) _ _).after ((formKept_dropWork _ _ _).after (formKept_drainTeam _ _))
      split
      · exact FormKept.refl _
      · exact FormKept.ite (FormKept.refl _) ((FormKept.foldl _
          (fun _ _ => (formKept_vacateAway _ _).after (FormKept.ite (FormKept.fields (FormKept.refl _)) (FormKept.refl _))) _ _).after
          ((formKept_modGroup _ _ _).after ((FormKept.foldl _ (fun _ _ => formKept_dropHolder _ _) _ _).after
          ((formKept_modGroup _ _ _).after ((formKept_chargeGroup _ _).after (formKept_squashGroup _ _))))))

theorem formKept_killTeam (s : State) (tid : Nat) : FormKept s (killTeam s tid) :=
  FormKept.ite (formKept_modTeam _ _ _) (formKept_killNow _ _)

theorem formKept_killImage (s : State) (m : Image) : FormKept s (killImage s m) :=
  (formKept_modLaunch _ _ _).after (FormKept.fields (FormKept.foldl _ (fun _ _ => formKept_chargeLaunch _ _ _) _ _))

theorem formKept_killCommand (s : State) (p : Nat) : FormKept s (killCommand s p) :=
  FormKept.ite (formKept_ctxDone _ _ _) ((formKept_ctxDone _ _ _).after
    ((FormKept.foldl _ (fun _ _ => formKept_killImage _ _) _ _).after (FormKept.foldl _ (fun _ _ => formKept_killTeam _ _) _ _)))

theorem formKept_flushTeam (s : State) (tid : Nat) (t : Team) : FormKept s (flushTeam s tid t) :=
  (formKept_dropTags _ _).after (FormKept.ite ((formKept_writebackL1 _ _).after
    ((formKept_writebackL1 _ _).after ((formKept_stashCleanAll _ _ _ _).after
    ((formKept_stashCleanAll _ _ _ _).after (formKept_drainTeam _ _)))))
    ((formKept_writebackL1 _ _).after ((formKept_stashCleanAll _ _ _ _).after
    ((formKept_stashCleanAll _ _ _ _).after (formKept_drainTeam _ _)))))

theorem formKept_leaveSlot (s : State) (k : Nat) : FormKept s (leaveSlot s k) :=
  FormKept.ite ((formKept_modQuad _ _ _ _).after (formKept_releaseSlate _ _)) (FormKept.refl _)

theorem formKept_storeLines (s : State) (k : Nat) : FormKept s (storeLines s k) :=
  (formKept_modSlot _ _ _).after ((FormKept.foldl _ (fun _ _ => formKept_storeLine _ _ _ _) _ _).after (formKept_clearPlace _ _))

theorem formKept_moveTeamSlot (s : State) (tid k j : Nat) : FormKept s (moveTeamSlot s tid k j) :=
  FormKept.ite (formKept_moveSlot _ _ _) ((formKept_vacateAway _ _).after
    (FormKept.ite ((formKept_storeLines _ _).after (FormKept.fields (formKept_fetchLines _ _)))
    (FormKept.fields (formKept_fetchLines _ _))))

theorem formKept_storePa (s : State) (p pa : Nat) (bs : List Byte) : FormKept s (storePa s p pa bs) :=
  FormKept.foldl _ (fun _ _ => formKept_writeL2 _ _ _ _ _) _ _

theorem formKept_detachTeam (s : State) (tid : Nat) (t : Team) : FormKept s (detachTeam s tid t).1 := by
  unfold detachTeam
  refine (FormKept.foldl _ (fun _ _ => formKept_moveTeamSlot _ _ _ _) _ _).after (FormKept.fields ?_)
  split
  · exact FormKept.ite ((formKept_endLease _ _ _).after (FormKept.foldl _ (fun _ _ => formKept_leaveSlot _ _) _ _))
      (FormKept.foldl _ (fun _ _ => formKept_leaveSlot _ _) _ _)
  · exact FormKept.foldl _ (fun _ _ => formKept_leaveSlot _ _) _ _

theorem formKept_endSaving (s : State) (p : Nat) : FormKept s (endSaving s p) := FormKept.of_eq rfl

theorem formKept_freeRehCore (s : State) (lid : Nat) : FormKept s (freeRehCore s lid) :=
  FormKept.ite (FormKept.refl _) (formKept_modLaunch _ _ _)

theorem formKept_modSaving (s : State) (p : Nat) (g : Saving → Saving) : FormKept s (modSaving s p g) := FormKept.of_eq rfl

theorem formKept_openImage (s : State) (x : Saving) (t : Team) (l : Launch) : FormKept s (openImage s x t l) := by
  unfold openImage
  split
  · rename_i h
    exact (formKept_modSaving _ _ _).after ((formKept_storePa _ _ _ _).after (FormKept.of_snd (formKept_freshId _) h))

theorem formKept_writePiece (s : State) (x : Saving) (t : Team) (l : Launch) : FormKept s (writePiece s x t l) :=
  (formKept_modSaving _ _ _).after ((formKept_storePa _ _ _ _).after
    ((formKept_storePa _ _ _ _).after (FormKept.fields (FormKept.foldl _ (fun _ _ => formKept_fetchLines _ _) _ _))))

theorem formKept_closeImage (s : State) (x : Saving) (t : Team) (l : Launch) : FormKept s (closeImage s x t l) := by
  unfold closeImage
  dsimp only
  exact (formKept_ctxDone _ _ _).after ((formKept_endSaving _ _).after
    ((formKept_leaveCores _ _).after ((formKept_freeRehCore _ _).after
    (FormKept.fields ((formKept_detachTeam _ _ _).after ((FormKept.foldl _ (fun _ _ => formKept_modGroup _ _ _) _ _).after
    (formKept_storePa _ _ _ _)))))))

theorem formKept_writeImage (s : State) (x : Saving) : FormKept s (writeImage s x) := by
  unfold writeImage
  split
  · split
    · dsimp only
      split
      · exact (formKept_openImage _ _ _ _).after (formKept_flushTeam _ _ _)
      · exact formKept_flushTeam _ _ _
    · exact FormKept.ite (formKept_writePiece _ _ _ _) (formKept_closeImage _ _ _ _)
  · exact (formKept_ctxDone _ _ _).after (formKept_endSaving _ _)

theorem formKept_tearSave (s : State) (x : Saving) : FormKept s (tearSave s x) :=
  (formKept_ctxDone _ _ _).after ((formKept_endSaving _ _).after (FormKept.ite (formKept_storePa _ _ _ _) (FormKept.refl _)))

theorem formKept_continueSave (s : State) (x : Saving) : FormKept s (continueSave s x) := by
  unfold continueSave
  split
  · exact formKept_tearSave _ _
  · split
    · exact FormKept.refl _
    · split
      · exact formKept_ownWait _ _ _ _
      · exact FormKept.ite (formKept_writeImage _ _) (formKept_tearSave _ _)

theorem formKept_beginSave (s : State) (p : Nat) : FormKept s (beginSave s p) := by
  unfold beginSave
  split
  · exact formKept_ctxDone _ _ _
  · split
    · exact formKept_ctxDone _ _ _
    · exact FormKept.ite (formKept_ctxDone _ _ _) ((formKept_continueSave _ _).after
        (FormKept.fields ((formKept_setBankReg _ _ _ _).after ((formKept_setBankReg _ _ _ _).after (formKept_stopOne _ _)))))

theorem formKept_saveStep (s : State) : FormKept s (saveStep s) := by
  unfold saveStep
  split
  · exact formKept_continueSave _ _
  · exact formKept_ctxRun s (formKept_beginSave s)

theorem formKept_saveBound (s : State) : FormKept s (saveBound s) :=
  FormKept.foldl _ (fun _ _ => FormKept.ite (formKept_tearSave _ _) (FormKept.refl _)) _ _

theorem formKept_rehearseOn (s : State) (lid c : Nat) (rot : Option Nat) : FormKept s (rehearseOn s lid c rot) := FormKept.of_eq rfl

theorem formKept_placeImage (s : State) (p pa : Nat) (m : Image) (c : Nat) (ks : List (Nat × Nat)) :
    FormKept s (placeImage s p pa m c ks) :=
  (FormKept.foldl _ (fun _ _ => formKept_resumeSlot _ _) _ _).after
    ((formKept_wakeFor _ _).after ((formKept_freshL1 _ _ _).after
    ((formKept_reloadHier _ _ _).after ((formKept_rehearseOn _ _ _ _).after
    ((FormKept.foldl _ (fun _ _ => formKept_storeLines _ _) _ _).after (FormKept.fields (formKept_storePa _ _ _ _)))))))

theorem formKept_restoreCommand (s : State) (p : Nat) : FormKept s (restoreCommand s p) := by
  unfold restoreCommand
  dsimp only
  split
  · exact formKept_ctxDone _ _ _
  · split
    · exact formKept_ctxDone _ _ _
    · split
      · exact formKept_ctxDone _ _ _
      · split
        · exact formKept_ctxDone _ _ _
        · split
          · exact formKept_ctxDone _ _ _
          · split
            · exact formKept_ctxDone _ _ _
            · split
              · exact formKept_ctxDone _ _ _
              · exact (formKept_ctxDone _ _ _).after (formKept_placeImage _ _ _ _ _ _)

theorem formKept_debugWrite (s : State) (g r fr i : Nat) (v : Word) : FormKept s (debugWrite s g r fr i v) :=
  FormKept.ite (formKept_modGroup _ _ _) (formKept_modSlice _ _ _ _)

theorem formKept_debugCommand (s : State) (p : Nat) {f : State → Nat → State} (hf : ∀ u k, FormKept u (f u k)) :
    FormKept s (debugCommand s p f) := by
  unfold debugCommand
  split
  · exact formKept_ctxDone _ _ _
  · split
    · exact formKept_ctxDone _ _ _
    · split
      · exact formKept_ctxDone _ _ _
      · split
        · exact formKept_ctxDone _ _ _
        · exact (formKept_ctxDone _ _ _).after ((hf _ _).after (formKept_fetchLines _ _))

theorem formKept_regrdCommand (s : State) (p : Nat) : FormKept s (regrdCommand s p) :=
  formKept_debugCommand s p (fun _ _ => formKept_storePa _ _ _ _)

theorem formKept_debugPut (s : State) (p k : Nat) : FormKept s (debugPut s p k) := by
  unfold debugPut
  refine FormKept.foldl _ (fun s' pos => ?_) _ _
  split
  · exact formKept_debugWrite _ _ _ _ _ _
  · exact FormKept.refl _

theorem formKept_endRingWaits (s : State) : FormKept s (endRingWaits s) := FormKept.of_eq rfl

theorem formKept_regwrCommand (s : State) (p : Nat) : FormKept s (regwrCommand s p) :=
  formKept_debugCommand s p (fun _ _ => (formKept_endRingWaits _).after (formKept_debugPut _ _ _))

theorem formKept_moveLease (s : State) (cl : Nat) : FormKept s (moveLease s cl) := by
  unfold moveLease
  split
  · exact FormKept.refl _
  · exact FormKept.ite (FormKept.refl _) (FormKept.ite (formKept_endLease _ _ _)
      ((formKept_setCluster _ _ _).after (formKept_setCluster _ _ _)))

theorem formKept_moveTeam (s : State) (tid c : Nat) (ks : List (Nat × Nat)) : FormKept s (moveTeam s tid c ks) := by
  unfold moveTeam
  split
  · exact FormKept.refl _
  · exact (formKept_leaveCores _ _).after ((FormKept.foldl _ (fun _ _ => formKept_resumeSlot _ _) _ _).after
      ((formKept_reloadHier _ _ _).after ((formKept_rehearseOn _ _ _ _).after
      ((FormKept.foldl _ (fun _ _ => formKept_modGroup _ _ _) _ _).after
      ((formKept_wakeFor _ _).after ((formKept_freshL1 _ _ _).after
      ((formKept_modTeam _ _ _).after ((formKept_setCluster _ _ _).after
      ((formKept_moveLease _ _).after ((FormKept.foldl _ (fun _ _ => formKept_moveTeamSlot _ _ _ _) _ _).after
      ((FormKept.foldl _ (fun _ _ => formKept_modGroup _ _ _) _ _).after
      ((FormKept.foldl _ (fun _ _ => formKept_leaveSlot _ _) _ _).after (formKept_flushTeam _ _ _)))))))))))))

theorem formKept_endMove (s : State) (tid : Nat) : FormKept s (endMove s tid) := by
  unfold endMove
  split
  · exact FormKept.refl _
  · exact FormKept.ite ((formKept_killNow _ _).after ((formKept_modTeam _ _ _).after
      (FormKept.foldl _ (fun _ _ => formKept_modGroup _ _ _) _ _)))
      ((formKept_modTeam _ _ _).after (FormKept.foldl _ (fun _ _ => formKept_modGroup _ _ _) _ _))

theorem formKept_beginMove (s : State) (tid : Nat) (t : Team) : FormKept s (beginMove s tid t) :=
  FormKept.ite (FormKept.refl _) ((formKept_modTeam _ _ _).after (FormKept.foldl _ (fun _ _ => formKept_stopGroup _ _) _ _))

theorem formKept_holdResize (s : State) (tid : Nat) (t : Team) : FormKept s (holdResize s tid t) := by
  unfold holdResize
  dsimp only
  exact FormKept.ite ((formKept_endMove _ _).after (formKept_modTeam _ _ _))
    ((formKept_raiseEvent _ _).after ((formKept_endMove _ _).after (formKept_modTeam _ _ _)))

theorem formKept_moveReady (s : State) (tid : Nat) (t : Team) : FormKept s (moveReady s tid t).2 := by
  unfold moveReady
  split
  · exact FormKept.refl _
  · split
    · exact formKept_ownWait _ _ _ _
    · exact FormKept.refl _

theorem formKept_followStep (s : State) (tid c : Nat) (t : Team) : FormKept s (followStep s tid c t) := by
  unfold followStep
  split
  · exact FormKept.refl _
  · split
    · exact FormKept.refl _
    · split
      · rename_i h
        have ht := FormKept.of_snd (formKept_moveReady _ _ _) h
        exact FormKept.ite ((formKept_endMove _ _).after ((formKept_moveTeam _ _ _ _).after ht)) ht

theorem formKept_migrationStep (s : State) (tid : Nat) : FormKept s (migrationStep s tid) := by
  unfold migrationStep
  split
  · exact FormKept.refl _
  · dsimp only
    split
    · exact formKept_followStep _ _ _ _
    · split
      · exact FormKept.refl _
      · split
        · exact FormKept.ite (formKept_holdResize _ _ _) (FormKept.refl _)
        · split
          · exact formKept_moveReady _ _ _
          · refine (FormKept.foldl _ (fun s g => ?_) _ _).after ((formKept_moveTeam _ _ _ _).after (formKept_moveReady _ _ _))
            split
            · refine FormKept.foldl _ (fun s n => ?_) _ _
              split
              · exact formKept_passWait _ _ _
              · exact FormKept.refl _
            · exact FormKept.refl _

theorem formKept_resizeStep (s : State) (tid : Nat) : FormKept s (resizeStep s tid) := by
  unfold resizeStep
  split
  · exact FormKept.refl _
  · dsimp only
    split
    · exact FormKept.refl _
    · split
      · exact FormKept.ite (formKept_holdResize _ _ _) (formKept_endMove _ _)
      · split
        · exact formKept_modTeam _ _ _
        · exact FormKept.ite (FormKept.refl _) (FormKept.ite ((formKept_moveReady _ _ _).after (formKept_beginMove _ _ _))
            ((formKept_endMove _ _).after ((formKept_moveTeam _ _ _ _).after
            ((formKept_moveReady _ _ _).after (formKept_beginMove _ _ _)))))

/-! ### Display streams -/

theorem formKept_setStream (s : State) (p n : Nat) (x : Stream) : FormKept s (setStream s p n x) := FormKept.of_eq rfl

theorem formKept_setBankBit (s : State) (p reg n : Nat) : FormKept s (setBankBit s p reg n) := FormKept.of_eq rfl

theorem formKept_streamError (s : State) (p n : Nat) : FormKept s (streamError s p n) := by
  unfold streamError
  dsimp only
  refine (formKept_setBankBit _ _ _ _).after ?_
  split
  · exact formKept_setStream _ _ _ _
  · exact FormKept.refl _

theorem formKept_startStream (s : State) (p n : Nat) (d t : List Word) : FormKept s (startStream s p n d t) := FormKept.of_eq rfl

theorem formKept_streamEnableStep (s : State) (p n : Nat) : FormKept s (streamEnableStep s p n) := by
  unfold streamEnableStep
  dsimp only
  split
  · exact FormKept.refl _
  · split
    · exact formKept_ownWait _ _ _ _
    · exact formKept_engDone _ _ _
    · split
      · split
        · exact formKept_setStream _ _ _ _
        · exact FormKept.refl _
      · split
        · exact formKept_streamError _ _ _
        · split
          · exact FormKept.ite (formKept_startStream _ _ _ _ _) (FormKept.refl _)
          · split
            · exact formKept_streamError _ _ _
            · split
              · exact formKept_ownWait _ _ _ _
              · exact (formKept_streamError _ _ _).after (formKept_engDone _ _ _)
              · exact FormKept.ite (formKept_startStream _ _ _ _ _) (formKept_streamError _ _ _)

theorem formKept_releaseSlots (tid h n : Nat) (r : State × List (Nat × Nat)) : FormKept r.1 (releaseSlots tid h n r).1 := by
  induction n generalizing r with
  | zero => exact FormKept.refl _
  | succ n ih =>
    unfold releaseSlots
    split
    · exact FormKept.refl _
    · extract_lets e
      split
      · refine (ih (_, _)).after ?_
        dsimp only
        exact formKept_ringAdvance _ _ _ _ _
      · exact FormKept.refl _

theorem formKept_releaseStrip (s : State) (p n : Nat) (x : Stream) (ts : List (Nat × List OutTile)) :
    FormKept s (releaseStrip s p n x ts) :=
  (formKept_setStream _ _ _ _).after (FormKept.foldl_fst _ (fun _ _ => formKept_releaseSlots _ _ _ _) _ (s, _))

theorem formKept_takeRing (p n h : Nat) (r : State × Option Block) (tid : Nat) : FormKept r.1 (takeRing p n h r tid).1 := by
  unfold takeRing
  split
  · dsimp only
    split
    · exact FormKept.refl _
    · split
      · exact FormKept.refl _
      · split
        · exact formKept_scratchReady _ _ _ _ _
        · split
          · exact formKept_scratchReady _ _ _ _ _
          · dsimp only
            exact (FormKept.foldl _ (fun _ _ => formKept_scratchReady _ _ _ _ _) _ _).after (formKept_scratchReady _ _ _ _ _)
  · exact FormKept.refl _

theorem formKept_takeRings (s : State) (p n : Nat) (d : List Word) : FormKept s (takeRings s p n d).1 := by
  unfold takeRings
  split
  · exact FormKept.refl s
  · exact FormKept.foldl_fst _ (formKept_takeRing _ _ _) _ (s, none)

theorem formKept_displayBlocked (s : State) (p n : Nat) (b : Block) : FormKept s (displayBlocked s p n b) := by
  unfold displayBlocked
  split
  · exact formKept_spanWait _ _ _ _ _ _
  · exact (formKept_engDone _ _ _).after (formKept_poolNote _ _ _ _ _ _)

theorem formKept_scanoutStep (s : State) (p n : Nat) (late : Bool) : FormKept s (scanoutStep s p n late) := by
  unfold scanoutStep
  split
  · exact FormKept.refl _
  · split
    · exact FormKept.refl _
    · split
      · exact FormKept.refl _
      · split
        · exact FormKept.refl _
        · split
          · exact formKept_setStream _ _ _ _
          · exact (formKept_setBankBit _ _ _ _).after ((formKept_setBankBit _ _ _ _).after (formKept_setStream _ _ _ _))
          · exact FormKept.ite ((formKept_setBankBit _ _ _ _).after
              ((formKept_setBankBit _ _ _ _).after (formKept_setStream _ _ _ _)))
              ((formKept_setBankBit _ _ _ _).after (formKept_setStream _ _ _ _))

theorem formKept_emitGroup (s : State) (p n : Nat) (x : Stream) : FormKept s (emitGroup s p n x) := FormKept.of_eq rfl

theorem formKept_sendSkipped (s : State) (p n : Nat) (x : Stream) (k : Nat) : FormKept s (sendSkipped s p n x k) := FormKept.of_eq rfl

theorem formKept_countdownStep (s : State) (p n : Nat) : FormKept s (countdownStep s p n) := by
  unfold countdownStep
  split
  · exact FormKept.refl _
  · split
    · exact FormKept.refl _
    · split
      · exact FormKept.refl _
      · exact FormKept.ite (FormKept.refl _) (formKept_sendSkipped _ _ _ _ _)

theorem formKept_deadlineStep (p n : Nat) (s : State) (_ : Nat) : FormKept s (deadlineStep p n s x) := by
  unfold deadlineStep
  split
  · exact FormKept.refl _
  · split
    · exact formKept_countdownStep _ _ _
    · split
      · exact FormKept.ite (formKept_scanoutStep _ _ _ _) (FormKept.refl _)
      · exact FormKept.refl _

theorem formKept_deadlines (s : State) (p n : Nat) : FormKept s (deadlines s p n) :=
  FormKept.foldl _ (fun u k => formKept_deadlineStep p n u k) _ _

theorem formKept_lensStep (s : State) (p n : Nat) : FormKept s (lensStep s p n) := by
  unfold lensStep
  extract_lets u
  have hu : FormKept s u := formKept_deadlines _ _ _
  split
  · exact hu
  · split
    · exact hu
    · split
      · rename_i h
        exact (formKept_displayBlocked _ _ _ _).after (FormKept.trans hu (FormKept.of_fst (formKept_takeRings _ _ _ _) h))
      · rename_i h
        have ht := FormKept.trans hu (FormKept.of_fst (formKept_takeRings _ _ _ _) h)
        split
        · exact ht
        · split
          · exact ht
          · split
            · exact (formKept_releaseStrip _ _ _ _ _).after ht
            · split
              · exact (formKept_displayBlocked _ _ _ _).after ht
              · exact (formKept_releaseStrip _ _ _ _ _).after ht

theorem formKept_av1SendStep (s : State) (p n : Nat) : FormKept s (av1SendStep s p n) := by
  unfold av1SendStep
  split
  · exact FormKept.refl _
  · split
    · exact FormKept.refl _
    · split
      · exact FormKept.refl _
      · exact FormKept.ite (formKept_sendSkipped _ _ _ _ _) (formKept_emitGroup _ _ _ _)

/-! ### Control registers -/

theorem outcomeKept_execSysrd (d : Reg) (n : BitVec 9) (s : State) : OutcomeKept s (execSysrd d n s) := by
  refine outcomeKept_runEntry (.of_effects (fun l x t => ?_) rfl rfl) _ _
  dsimp only
  split
  · exact FormKept.refl _
  · exact FormKept.fields (FormKept.refl _)

theorem formKept_tlbStart (s : State) (p : Nat) (f : TlbEntry → Bool) : FormKept s (tlbStart s p f) :=
  FormKept.ite (FormKept.refl _) ((formKept_setBankReg _ _ _ _).after (formKept_tlbDrop _ _))

theorem formKept_tlbPage (s : State) : FormKept s (tlbPage s) := formKept_tlbStart _ _ _

theorem formKept_tlbPartition (s : State) : FormKept s (tlbPartition s) := formKept_tlbStart _ _ _

theorem formKept_tlbDone (s : State) : FormKept s (tlbDone s) :=
  FormKept.foldl _ (fun _ _ => FormKept.ite ((formKept_modPart _ _ _).after (formKept_setBankReg _ _ _ _)) (FormKept.refl _)) _ _

theorem formKept_quietBegin (s : State) (p : Nat) : FormKept s (quietBegin s p) :=
  FormKept.ite (FormKept.refl _) ((formKept_setBankReg _ _ _ _).after (formKept_modPart _ _ _))

theorem formKept_quietEnd (s : State) : FormKept s (quietEnd s) := by
  unfold quietEnd
  refine FormKept.foldl _ (fun s p => ?_) _ _
  split
  · exact FormKept.refl _
  · exact (formKept_setBankReg _ _ _ _).after (formKept_modPart _ _ _)

theorem formKept_flushRounds (n : Nat) (s : State) (f : L2Line → Bool) : FormKept s (flushRounds n s f) := by
  induction n generalizing s with
  | zero => exact FormKept.refl s
  | succ n ih => exact (ih _).after (FormKept.foldl _ (fun _ _ => formKept_evictLine _ _) _ _)

theorem formKept_flushLines (s : State) (f : L2Line → Bool) : FormKept s (flushLines s f) := formKept_flushRounds _ _ _

theorem formKept_l2Mode (s : State) (priv : Bool) : FormKept s (l2Mode s priv) :=
  FormKept.ite (FormKept.refl _) (FormKept.ite (formKept_setFwCode _ _) ((formKept_setSysReg _ _ _).after (formKept_flushLines _ _)))

theorem formKept_sliceSet (s : State) (p : Nat) (v : Word) : FormKept s (sliceSet s p v) :=
  FormKept.ite (FormKept.refl _) ((formKept_setBankReg _ _ _ _).after (FormKept.ite (formKept_flushLines _ _) (FormKept.refl _)))

theorem formKept_evctl (s : State) (p : Nat) (v : Word) : FormKept s (evctl s p v) :=
  FormKept.ite ((formKept_modPart _ _ _).after (formKept_setBankReg _ _ _ _)) (formKept_setBankReg _ _ _ _)

theorem formKept_partEnable (s : State) (p : Nat) (en : Bool) : FormKept s (partEnable s p en) :=
  FormKept.ite (formKept_setBankReg _ _ _ _) (FormKept.ite (FormKept.refl _)
    (FormKept.ite (formKept_setFwCode _ _) ((formKept_modPart _ _ _).after (formKept_setBankReg _ _ _ _))))

theorem formKept_killPartition (s : State) (p : Nat) : FormKept s (killPartition s p) :=
  (formKept_modPart _ _ _).after ((FormKept.foldl _ (fun _ _ => (formKept_putDesc _ _ _ _ _).after
    (formKept_modLaunch _ _ _)) _ _).after ((FormKept.foldl _ (fun _ _ => formKept_killImage _ _) _ _).after
    (FormKept.foldl _ (fun _ _ => formKept_killTeam _ _) _ _)))

theorem formKept_emptyQueues (s : State) (p : Nat) : FormKept s (emptyQueues s p) :=
  FormKept.fields ((formKept_modPart _ _ _).after ((FormKept.foldl _ (fun _ _ => formKept_modPass _ _ _) _ _).after
    (FormKept.foldl _ (fun _ _ => formKept_endRead _ _ _ _) _ _)))

theorem formKept_resetGoOn (s : State) (p : Nat) : FormKept s (resetGoOn s p) :=
  FormKept.ite (FormKept.refl _) (FormKept.ite ((formKept_emptyQueues _ _).after (formKept_killPartition _ _))
    ((formKept_modPart _ _ _).after ((formKept_tlbDrop _ _).after
    (FormKept.ite ((formKept_flushLines _ _).after ((formKept_emptyQueues _ _).after (formKept_killPartition _ _)))
    ((formKept_emptyQueues _ _).after (formKept_killPartition _ _))))))

theorem formKept_resetPart (s : State) (p : Nat) : FormKept s (resetPart s p) :=
    (formKept_resetGoOn _ _).after (formKept_modPart _ _ _)

theorem formKept_addCore (s : State) (p c : Nat) : FormKept s (addCore s p c) :=
  (FormKept.foldl _ (fun _ _ => FormKept.ite (formKept_modTeam _ _ _) (FormKept.refl _)) _ _).after (formKept_modPart _ _ _)

theorem formKept_removeCore (s : State) (p c : Nat) : FormKept s (removeCore s p c) :=
  FormKept.ite (FormKept.refl _) ((FormKept.foldl _ (fun _ _ => formKept_resizeStep _ _) _ _).after (formKept_modPart _ _ _))

theorem formKept_coreMask (s : State) (p word : Nat) (v : Word) : FormKept s (coreMask s p word v) :=
  FormKept.ite ((formKept_modPart _ _ _).after (formKept_setBankReg _ _ _ _))
    (FormKept.ite (formKept_setFwCode _ _) ((formKept_endYields _).after
    ((FormKept.foldl _ (fun _ _ => formKept_removeCore _ _ _) _ _).after
    ((FormKept.foldl _ (fun _ _ => formKept_addCore _ _ _) _ _).after (formKept_setBankReg _ _ _ _)))))

theorem formKept_plainWrite (s : State) (p n : Nat) (r : RegSpec) (v : Nat) : FormKept s (plainWrite s p n r v) :=
  FormKept.ite (FormKept.ite ((formKept_modPart _ _ _).after (formKept_setBankReg _ _ _ _))
    (FormKept.ite ((formKept_modPart _ _ _).after (formKept_setBankReg _ _ _ _)) (formKept_setBankReg _ _ _ _)))
    (formKept_setSysReg _ _ _)

theorem formKept_limitedWrite (s : State) (p n : Nat) (v : Word) : FormKept s (limitedWrite s p n v) :=
  FormKept.ite (formKept_setFwCode _ _) (FormKept.ite (formKept_sliceSet _ _ _) (formKept_setBankReg _ _ _ _))

theorem formKept_pctlWrite (s : State) (p : Nat) (v : Word) : FormKept s (pctlWrite s p v) :=
  (formKept_partEnable _ _ _).after (FormKept.ite (formKept_resetPart _ _) (FormKept.refl _))

theorem formKept_ctxWrite (s : State) (op : Nat) : FormKept s (ctxWrite s op) := by
  unfold ctxWrite
  split
  · exact formKept_ctxRun s (formKept_stopCommand s)
  · exact formKept_ctxRun s (formKept_resumeCommand s)
  · exact formKept_ctxRun s (formKept_beginSave s)
  · exact formKept_ctxRun s (formKept_restoreCommand s)
  · exact formKept_ctxRun s (formKept_killCommand s)
  · exact formKept_ctxRun s (formKept_regrdCommand s)
  · exact formKept_ctxRun s (formKept_regwrCommand s)
  · exact formKept_ctxRun s (formKept_stepCommand s)
  · exact formKept_ctxRun s (fun _ => formKept_ctxDone _ _ _)

theorem formKept_privWrite (s : State) (n : Nat) (v : Word) : FormKept s (privWrite s n v) := by
  unfold privWrite
  dsimp only
  split
  · exact FormKept.refl _
  · split
    · exact FormKept.refl _
    · split
      · exact formKept_evctl _ _ _
      · split
        · exact formKept_tlbPage _
        · exact formKept_tlbPartition _
        · exact FormKept.refl _
      · exact FormKept.ite (formKept_quietBegin _ _) (FormKept.refl _)
      · exact formKept_ctxWrite _ _
      · exact FormKept.ite (FormKept.refl _) (formKept_setBankReg _ _ _ _)
      · exact FormKept.ite (FormKept.refl _) (formKept_setBankReg _ _ _ _)
      · exact formKept_l2Mode _ _
      · exact formKept_pctlWrite _ _ _
      · exact formKept_coreMask _ _ _ _
      · exact formKept_coreMask _ _ _ _
      · exact formKept_coreMask _ _ _ _
      · exact formKept_coreMask _ _ _ _
      · exact formKept_limitedWrite _ _ _ _
      · exact formKept_limitedWrite _ _ _ _
      · exact formKept_limitedWrite _ _ _ _
      · exact formKept_plainWrite _ _ _ _ _

theorem formKept_writeTdone (s : State) (g i : Nat) (v : Word) : FormKept s (writeTdone s g i v) := by
  unfold writeTdone
  split
  · exact FormKept.refl _
  · exact formKept_modSlice _ _ _ _

theorem formKept_userWrite (s : State) (l : LaneId) (n : Nat) (v : Word) : FormKept s (userWrite s l n v) := by
  unfold userWrite
  split
  · exact formKept_setBankReg _ _ _ _
  · exact formKept_modGroup _ _ _
  · exact formKept_modGroup _ _ _
  · exact FormKept.ite (formKept_modGroup _ _ _) (FormKept.refl _)
  · exact formKept_writeTdone _ _ _ _
  · exact FormKept.refl _

theorem outcomeKept_execSyswr (n : BitVec 9) (ea : Bool) (a : Reg) (s : State) : OutcomeKept s (execSyswr n ea a s) :=
  outcomeKept_runEntry (.of_effects (fun _ _ _ => FormKept.ite (FormKept.ite (formKept_userWrite _ _ _ _) (formKept_privWrite _ _ _))
    (FormKept.refl _)) rfl rfl) _ _

/-! ### The world outside -/

theorem formKept_eventStep (s : State) : FormKept s (eventStep s) := by
  unfold eventStep
  split
  · exact FormKept.refl _
  · exact FormKept.ite (FormKept.refl _) (FormKept.fields ((formKept_storeDev _ _ _).after (formKept_storeDev _ _ _)))

theorem formKept_linkFails (s : State) (n : Nat) : FormKept s (linkFails s n) :=
  FormKept.ite (FormKept.refl _) ((formKept_raiseEvent _ _).after (FormKept.fields (FormKept.refl _)))

theorem formKept_outsideRead (s : State) (pa n : Nat) : FormKept s (outsideRead s pa n) := FormKept.of_eq rfl

theorem formKept_outsideWrite (s : State) (pa : Nat) (bs : List Byte) : FormKept s (outsideWrite s pa bs) :=
  (formKept_shareStore _ _ _).after ((formKept_storeMem _ _ _).after ((formKept_keepHomes _ _ _ _).after (formKept_recallStash _ _)))

theorem formKept_outsideSector (s : State) (pa : Nat) (bs : Option (List Byte)) : FormKept s (outsideSector s pa bs) := by
  unfold outsideSector
  split
  · exact formKept_outsideWrite _ _ _
  · exact formKept_promote _ _ _

theorem formKept_outsideAccess (s : State) (acc : OutsideAccess) : FormKept s (outsideAccess s acc) := by
  unfold outsideAccess
  split
  · exact FormKept.foldl _ (fun _ _ => formKept_outsideSector _ _ _) _ _
  · exact (formKept_outsideRead _ _ _).after (FormKept.foldl _ (fun _ _ => formKept_outsideSector _ _ _) _ _)

theorem formKept_hostHolds (s : State) (acc : OutsideAccess) : FormKept s (hostHolds s acc) := FormKept.of_eq rfl

theorem formKept_hostStep (s : State) (acc : OutsideAccess) : FormKept s (hostStep s acc) :=
  FormKept.ite (FormKept.ite ((formKept_hostHolds _ _).after (formKept_outsideAccess _ _)) (FormKept.refl _))
    (FormKept.ite (formKept_outsideAccess _ _) (FormKept.refl _))

theorem formKept_snoopHost (s : State) (acc : OutsideAccess) : FormKept s (snoopHost s acc) :=
  (FormKept.foldl _ (fun _ _ => formKept_snoopRead _ _) _ _).after (FormKept.fields (FormKept.refl _))

theorem formKept_countPeer (s : State) (acc : OutsideAccess) : FormKept s (countPeer s acc) :=
  FormKept.foldl _ (fun _ _ => (formKept_countSent _ _ _).after (formKept_countGot _ _ _)) _ _

theorem formKept_peerStep (s : State) (acc : OutsideAccess) : FormKept s (peerStep s acc) :=
  FormKept.ite (FormKept.ite ((formKept_snoopHost _ _).after ((formKept_outsideAccess _ _).after (formKept_countPeer _ _)))
    (FormKept.refl _)) (FormKept.ite (formKept_outsideAccess _ _) (FormKept.refl _))

theorem formKept_snoopLine (s : State) (x : L2Line) (invalidate : Bool) : FormKept s (snoopLine s x invalidate) :=
  FormKept.ite (formKept_evictLine _ _) (FormKept.fields ((formKept_ownBack _ _).after (formKept_charge _ _ _ _)))

theorem formKept_snoopStep (s : State) (line : Nat) (invalidate : Bool) : FormKept s (snoopStep s line invalidate) :=
  FormKept.ite (FormKept.refl _) ((formKept_outsideRead _ _ _).after
    ((FormKept.foldl _ (fun _ _ => formKept_snoopLine _ _ _) _ _).after (formKept_promote _ _ _)))

theorem formKept_poisonElem (s : State) (k off : Nat) : FormKept s (poisonElem s k off) := by
  unfold poisonElem
  dsimp only
  split
  · exact FormKept.refl _
  · refine FormKept.foldl _ (fun s e => ?_) _ _
    refine FormKept.foldl _ (fun s i => ?_) _ _
    split
    · split
      · exact formKept_modGroup _ _ _
      · exact FormKept.refl _
    · exact FormKept.refl _

theorem formKept_poisonElems (s : State) (slot off n : Nat) : FormKept s (poisonElems s slot off n) :=
  FormKept.foldl _ (fun _ _ => formKept_poisonElem _ _ _) _ _

theorem formKept_poisonScratch (s : State) (c off n : Nat) : FormKept s (poisonScratch s c off n) := by
  refine FormKept.foldl_fst _ (fun r e => ?_) _ (s, 0)
  exact formKept_modTeam _ _ _

theorem formKept_poisonUnit (s : State) (f : HwFault) : FormKept s (poisonUnit s f) := by
  unfold poisonUnit
  split
  · exact formKept_poisonScratch _ _ _ _
  · exact formKept_poisonElems _ _ _ _
  · exact formKept_poisonMem _ _ _

theorem formKept_faultStep (s : State) (f : HwFault) : FormKept s (faultStep s f) :=
  (formKept_raiseEvent _ _).after (FormKept.ite (formKept_poisonUnit _ _) (FormKept.refl _))

theorem formKept_becomeReady (s : State) (n : Nat) : FormKept s (becomeReady s n) :=
  FormKept.ite (FormKept.refl _) (FormKept.ite (FormKept.fields (FormKept.fields (FormKept.refl _)))
    (FormKept.fields (FormKept.refl _)))

theorem formKept_acceptImage (s : State) (img : FwImage) : FormKept s (acceptImage s img) :=
  FormKept.ite (formKept_setFwCode _ _) (FormKept.fields (formKept_setFwCode _ _))

theorem formKept_resetModule (s : State) : FormKept s (resetModule s) := FormKept.of_eq rfl

theorem formKept_spdmReply (s : State) (need stage : Nat) (reply : List Nat) : FormKept s (spdmReply s need stage reply) :=
  FormKept.ite (FormKept.refl _) (FormKept.ite (FormKept.fields (FormKept.refl _)) (FormKept.fields (FormKept.refl _)))

theorem formKept_controlAccess (s : State) (cxlIo : Bool) (r : ConfigRequest) : FormKept s (controlAccess s cxlIo r) := by
  unfold controlAccess
  split
  · exact FormKept.fields (FormKept.refl _)
  · exact FormKept.fields (FormKept.refl _)

theorem formKept_configAnswer (s : State) (cxlIo : Bool) (r : ConfigRequest) : FormKept s (configAnswer s cxlIo r) :=
  FormKept.ite (FormKept.refl _) (FormKept.ite (formKept_controlAccess _ _ _)
    (FormKept.ite (FormKept.fields (FormKept.refl _)) (FormKept.refl _)))

/-! ### Every instruction -/

/-- Whatever an instruction does, its next state keeps the canonical form: one line for each meaning, one for all register instructions. -/
theorem outcomeKept_exec (i : Instr) (s : State) : OutcomeKept s (exec i s) := by
  cases i with
  | iadd | isub | imul | imulh | imulhu | imin | imax | iminu | imaxu | and | or | xor | andn | shl | shr | sar | iadds | isubs
  | iaddi | imuli | andi | ori | xori | shli | shri | sari | mov | not | ineg | iabs | popc | clz | brev | imad | imadwUint
  | imadwInt | iaddw | isubw | shlw | icmp | sel | bfe | bfeu | bfi | bperm | movi | movhi | fadd | fmul | fmin | fmax | ffma
  | fcmp | fclass | fabs | fneg | frnd | fcvt | hpadd | hpmul | hpmin | hpmax | hpfma | bpfma | fdot | sobol | xmov | xfadd
  | xiadd | vote | xred | jmp | call | leaseQuery | cyc | mpack | mov16 | iadd16 | isub16 | imul16 | and16 | or16 | xor16
  | shl16 | shr16 | sar16 | imin16 | imax16 | fadd16 | fsub16 | fmul16 | fmax16 =>
    exact outcomeKept_runPure _ _ _ _
  | frcp => exact outcomeKept_execFrcp _ _ _ _
  | frsq => exact outcomeKept_execFrsq _ _ _ _
  | fsqrt => exact outcomeKept_execFsqrt _ _ _ _
  | fexp2 => exact outcomeKept_execFexp2 _ _ _ _
  | flog2 => exact outcomeKept_execFlog2 _ _ _ _
  | fsin => exact outcomeKept_execFsin _ _ _ _
  | fcos => exact outcomeKept_execFcos _ _ _ _
  | emitv => exact outcomeKept_execEmitv _ _ _ _ _
  | emitp => exact outcomeKept_execEmitp _ _ _ _ _
  | attr => exact outcomeKept_execAttr _ _ _ _
  | disc => exact outcomeKept_execDisc _ _ _
  | zout => exact outcomeKept_execZout _ _ _
  | pxout => exact outcomeKept_execPxout _ _ _ _
  | tex | texg => exact outcomeKept_execTexture _ _ _ _ _ _ _ _
  | tileld => exact outcomeKept_execTileld _ _ _ _ _
  | tilest => exact outcomeKept_execTilest _ _ _ _ _
  | raygo => exact outcomeKept_execRaygo _ _ _
  | bra => exact outcomeKept_execBra _ _ _ _
  | brz => exact outcomeKept_execBrz _ _ _ _
  | ret => exact outcomeKept_execRet _ _ _
  | brx => exact outcomeKept_execBrx _ _ _ _ _
  | regang => exact outcomeKept_execRegang _ _
  | exit => exact outcomeKept_execExit _
  | bar => exact outcomeKept_execBar _ _
  | barTeam => exact outcomeKept_execBarTeam _
  | yield => exact outcomeKept_execYield _
  | fence => exact outcomeKept_execFence _ _ _
  | qfence => exact outcomeKept_execQfence _ _
  | sleep => exact outcomeKept_execSleep _ _
  | leaseReq => exact outcomeKept_execLeaseReq _ _ _
  | leaseFree => exact outcomeKept_execLeaseFree _
  | sysrd => exact outcomeKept_execSysrd _ _ _
  | syswr => exact outcomeKept_execSyswr _ _ _ _
  | trap => exact outcomeKept_execTrap _ _
  | rett => exact outcomeKept_execRett _
  | brk => exact outcomeKept_execBrk _ _
  | ld => exact outcomeKept_execLd _ _ _ _ _ _ _ _
  | st => exact outcomeKept_execSt _ _ _ _ _ _ _ _
  | ldl => exact outcomeKept_execLdl _ _ _ _ _ _ _ _
  | stl => exact outcomeKept_execStl _ _ _ _ _ _ _ _
  | atom => exact outcomeKept_execAtom _ _ _ _ _ _ _
  | atoml => exact outcomeKept_execAtoml _ _ _ _ _ _ _
  | clinePf => exact outcomeKept_execClinePf _ _ _ _ _
  | clineWb => exact outcomeKept_execClineWb _ _ _ _ _
  | clineInv => exact outcomeKept_execClineInv _ _ _ _ _
  | stashMap => exact outcomeKept_execStashMap _ _ _ _
  | stashUnmap => exact outcomeKept_execStashUnmap _ _ _
  | stashFlush => exact outcomeKept_execStashFlush _ _ _
  | cpy => exact outcomeKept_execCpy _ _ _
  | slotw | slotr | slotp | slote => exact outcomeKept_execSlot _ _ _ _ _ _
  | qstrm => exact outcomeKept_execQstrm _ _ _ _ _ _
  | mma => exact outcomeKept_execMma _ _ _ _ _ _ _ _ _
  | mtake => exact outcomeKept_execMtake _
  | mpass => exact outcomeKept_execMpass _ _
  | tspawn => exact outcomeKept_execTspawn _ _ _
  | tsucc => exact outcomeKept_execTsucc _ _ _
  | postedResultArrival => exact OutcomeKept.next (formKept_arrive _ _)
  | asynchronousCauseDelivery => exact OutcomeKept.next (formKept_deliverAsync _ _ _)
  | matrixOperation => exact OutcomeKept.next (formKept_matrixStep _ _ _)
  | slateObtained => exact OutcomeKept.next (formKept_slateStep _ _ _)
  | copyOperation => exact OutcomeKept.next (formKept_copyStep _ _)
  | copyRingPublication => exact OutcomeKept.next (formKept_publishStep _ _)
  | streamEntryFetch => exact OutcomeKept.next (formKept_streamStep _ _ _)
  | textureOperation => exact OutcomeKept.next (formKept_textureStep _ _)
  | rayLaunch => exact OutcomeKept.next (formKept_rayStep _ _)
  | stashFill => exact OutcomeKept.next (formKept_fillSector _ _ _ _ _)
  | nvmeReadCompletion => exact OutcomeKept.next (formKept_nvmeStep _ _ _ _ _)
  | swappedGroupPlacement => exact OutcomeKept.next (formKept_placeSwapped _ _)
  | taskDispatch => exact OutcomeKept.next (formKept_dispatchStep _ _)
  | deviceEnqueue => exact OutcomeKept.next (formKept_enqueueStep _ _)
  | launchCompletion => exact OutcomeKept.next (formKept_completeLaunch _ _)
  | rasterRecordTake => exact OutcomeKept.next (formKept_takeStep _ _ _)
  | passStartClear => exact OutcomeKept.next (formKept_clearStep _ _)
  | meshletRasterisation => exact OutcomeKept.next (formKept_meshletStep _ _)
  | pixelGroupStart => exact OutcomeKept.next (formKept_pixelStartStep _ _)
  | pixelCommit => exact OutcomeKept.next (formKept_commitStep _ _)
  | tilePublication => exact OutcomeKept.next (formKept_publicationStep _ _)
  | passCompletion => exact OutcomeKept.next (formKept_passDone _ _)
  | lensCorrection => exact OutcomeKept.next (formKept_lensStep _ _ _)
  | stripScanout => exact OutcomeKept.next (formKept_scanoutStep _ _ _ _)
  | stripCountdownEnd => exact OutcomeKept.next (formKept_countdownStep _ _ _)
  | av1StripSend => exact OutcomeKept.next (formKept_av1SendStep _ _ _)
  | streamEnable => exact OutcomeKept.next (formKept_streamEnableStep _ _ _)
  | powerTick => exact OutcomeKept.next (formKept_powerStep _ _)
  | leaseRequestDecision => exact OutcomeKept.next (formKept_decideLease _ _)
  | leaseExpiry => exact OutcomeKept.next (formKept_expireLease _ _)
  | migration => exact OutcomeKept.next (formKept_migrationStep _ _)
  | hangWatchdogExpiry => exact OutcomeKept.next (formKept_hangStep _ _)
  | yieldTimeout => exact OutcomeKept.next (formKept_yieldStep _ _ _)
  | sleepExpiry => exact OutcomeKept.next (formKept_sleepStep _ _ _)
  | activeSetTimeout => exact OutcomeKept.next (formKept_activeTimeout _ _)
  | activeSetIdleLeave => exact OutcomeKept.next (formKept_activeIdle _ _)
  | activeSetEntry => exact OutcomeKept.next (formKept_activeEnter _ _)
  | gateSequenceBegin => exact OutcomeKept.next (formKept_gateBegin _ _)
  | gateCommit => exact OutcomeKept.next (formKept_gateEnd _ _)
  | clusterWakeUp => exact OutcomeKept.next (formKept_wakeUp _ _)
  | saveBoundExpiry => exact OutcomeKept.next (formKept_saveBound _)
  | resizeStopAndMove => exact OutcomeKept.next (formKept_resizeStep _ _)
  | stop => exact OutcomeKept.next (formKept_ctxRun s (formKept_stopCommand s))
  | resume => exact OutcomeKept.next (formKept_ctxRun s (formKept_resumeCommand s))
  | restore => exact OutcomeKept.next (formKept_ctxRun s (formKept_restoreCommand s))
  | kill => exact OutcomeKept.next (formKept_ctxRun s (formKept_killCommand s))
  | regrd => exact OutcomeKept.next (formKept_ctxRun s (formKept_regrdCommand s))
  | regwr => exact OutcomeKept.next (formKept_ctxRun s (formKept_regwrCommand s))
  | step => exact OutcomeKept.next (formKept_ctxRun s (formKept_stepCommand s))
  | ctxcmdUndefinedOp => exact OutcomeKept.next (formKept_ctxRun s fun _ => formKept_ctxDone _ _ _)
  | save => exact OutcomeKept.next (formKept_saveStep _)
  | tlbinvPage => exact OutcomeKept.next (formKept_tlbPage _)
  | tlbinvPartition => exact OutcomeKept.next (formKept_tlbPartition _)
  | tlbInvalidationDone => exact OutcomeKept.next (formKept_tlbDone _)
  | quietReq => exact OutcomeKept.next (formKept_quietBegin _ _)
  | quietDetectionEnd => exact OutcomeKept.next (formKept_quietEnd _)
  | partitionReset => exact OutcomeKept.next (formKept_resetPart _ _)
  | partitionEnable => exact OutcomeKept.next (formKept_partEnable _ _ _)
  | coreMaskWrite => exact OutcomeKept.next (formKept_coreMask _ _ _ _)
  | l2ModeChange => exact OutcomeKept.next (formKept_l2Mode _ _)
  | evctlEnable => exact OutcomeKept.next (formKept_evctl _ _ _)
  | registerWrite => exact OutcomeKept.next (formKept_privWrite _ _ _)
  | eventRingWrite => exact OutcomeKept.next (formKept_eventStep _)
  | peerLinkFailure => exact OutcomeKept.next (formKept_linkFails _ _)
  | hostAccess => exact OutcomeKept.next (formKept_hostStep _ _)
  | peerAccess => exact OutcomeKept.next (formKept_peerStep _ _)
  | hardwareFaultDetection => exact OutcomeKept.next (formKept_faultStep _ _)
  | functionReady => exact OutcomeKept.next (formKept_becomeReady _ _)
  | firmwareImageAccept => exact OutcomeKept.next (formKept_acceptImage _ _)
  | moduleReset => exact OutcomeKept.next (formKept_resetModule _)
  | getVersion | getCapabilities | negotiateAlgorithms | getDigests | getCertificate | challenge | getMeasurements =>
    exact OutcomeKept.next (formKept_spdmReply _ _ _ _)
  | copyOnWriteCompletion => exact OutcomeKept.next (formKept_cowStep _ _)
  | configurationRequest => exact OutcomeKept.next (formKept_configAnswer _ _ _)
  | hostSnoop => exact OutcomeKept.next (formKept_snoopStep _ _ _)

/-! ### Issue, turns and the steps of the module -/

theorem formKept_noteFetch (s : State) (l : LaneId) (pc : Addr) : FormKept s (noteFetch s l pc) := formKept_noteLane _ _ _ _

theorem formKept_trapAll (s : State) (cause detail : Nat) : FormKept s (trapAll s cause detail) := by
  unfold trapAll
  dsimp only
  refine (formKept_finish (keepsForm_pureEntry _ _) _ _ _).after ?_
  split
  · exact FormKept.ite (formKept_noteLane _ _ _ _) (FormKept.refl _)
  · exact FormKept.refl _

theorem outcomeKept_runFocus (s : State) : OutcomeKept s (runFocus s) := by
  unfold runFocus
  split
  · exact OutcomeKept.next (FormKept.refl s)
  · split
    · exact OutcomeKept.of_kept (formKept_noteFetch _ _ _) (outcomeKept_exec _ _)
    · exact OutcomeKept.next (formKept_trapAll _ _ _)
    · exact OutcomeKept.next ((formKept_swapOut _ _).after (FormKept.foldl _ (fun _ _ => formKept_noteLane _ _ _ _) _ _))
    · exact OutcomeKept.next (FormKept.refl s)

/-- A context brought into focus runs. -/
theorem outcomeKept_runFocus_focus (s : State) (f : Focus) : OutcomeKept s (runFocus { s with focus := f }) :=
  OutcomeKept.of_kept (FormKept.fields (FormKept.refl s)) (outcomeKept_runFocus _)

theorem formKept_endStepping (s : State) (es : List (Nat × Nat)) : FormKept s (endStepping s es) :=
  FormKept.foldl _ (fun _ _ => FormKept.ite (formKept_modSlice _ _ _ _) (FormKept.refl _)) _ _

theorem outcomeKept_issueGang (s : State) (k gang : Nat) : OutcomeKept s (issueGang s k gang) := by
  have run := outcomeKept_runFocus_focus s (.wave k gang)
  unfold issueGang
  dsimp only
  split
  · rename_i t ht
    exact OutcomeKept.next ((formKept_endStepping _ _).after (run t ht))
  · exact run

theorem outcomeKept_issueGrip (s : State) (t : Nat) : OutcomeKept s (issueGrip s t) := by
  unfold issueGrip
  split
  · exact OutcomeKept.next ((formKept_gripTrap _ _ _ _).after (formKept_modTeam _ _ _))
  · exact outcomeKept_runFocus_focus s (.grip t)

theorem outcomeKept_tryGrips (s : State) (ts : List Nat) : OutcomeKept s (tryGrips s ts) := by
  induction ts with
  | nil => exact OutcomeKept.next (FormKept.refl s)
  | cons t ts ih =>
    have issue := outcomeKept_issueGrip s t
    unfold tryGrips
    split
    · rename_i u hu
      exact OutcomeKept.ite ih (OutcomeKept.next (issue u hu))
    · exact issue

theorem outcomeKept_gripStep (s : State) (c : Nat) : OutcomeKept s (gripStep s c) := outcomeKept_tryGrips s _

theorem formKept_noteReady (s : State) (k : Nat) : FormKept s (noteReady s k) :=
    FormKept.ite (formKept_modSlot _ _ _) (FormKept.refl _)

theorem formKept_elapseCluster (s : State) (cl n : Nat) : FormKept s (elapseCluster s cl n) := by
  unfold elapseCluster
  split
  · exact FormKept.refl _
  · exact (formKept_setCluster _ _ _).after ((FormKept.foldl _ (fun _ _ => formKept_noteReady _ _) _ _).after
      (FormKept.foldl _ (fun _ _ => formKept_modCore _ _ _) _ _))

theorem formKept_elapse (s : State) (core n : Nat) : FormKept s (elapse s core n) := FormKept.fields (formKept_elapseCluster _ _ _)

/-- Steps that keep the canonical form, from whatever state each is tried. -/
def StepsKept (fs : List (State → State)) : Prop := ∀ f ∈ fs, ∀ s, FormKept s (f s)

theorem StepsKept.nil : StepsKept [] := fun _ h => by cases h

theorem StepsKept.cons {f : State → State} {fs : List (State → State)} (h : ∀ s, FormKept s (f s)) (hs : StepsKept fs) :
    StepsKept (f :: fs) :=
  List.forall_mem_cons.2 ⟨h, hs⟩

theorem StepsKept.append {fs gs : List (State → State)} (hf : StepsKept fs) (hg : StepsKept gs) : StepsKept (fs ++ gs) :=
  List.forall_mem_append.2 ⟨hf, hg⟩

theorem StepsKept.map {α : Type} {f : α → State → State} (as : List α) (h : ∀ a s, FormKept s (f a s)) : StepsKept (as.map f) := by
  intro g hg
  obtain ⟨a, -, rfl⟩ := List.mem_map.1 hg
  exact h a

theorem StepsKept.flatMap {α : Type} {f : α → List (State → State)} (as : List α) (h : ∀ a, StepsKept (f a)) :
    StepsKept (as.flatMap f) := by
  intro g hg
  obtain ⟨a, -, ha⟩ := List.mem_flatMap.1 hg
  exact h a g ha

theorem formKept_firstChange {s t : State} {fs : List (State → State)} (hfs : StepsKept fs) (h : firstChange s fs = some t) :
    FormKept s t := by
  obtain ⟨f, hf, ht⟩ := List.exists_of_findSome?_eq_some h
  dsimp only at ht
  split at ht
  · cases ht
  · rw [← Option.some.inj ht]
    exact hfs f hf s

theorem stepsKept_engineSteps (s : State) (c : Nat) : StepsKept (engineSteps s c) := by
  refine .append (.append (.append (.map _ fun p u => ?_) ?_) (.flatMap _ fun q => ?_)) ?_
  · exact formKept_arrive u p.id
  · exact .cons (formKept_copyStep · c) (.cons (formKept_publishStep · c) (.cons (formKept_textureStep · c)
      (.cons (formKept_commitStep · c) .nil)))
  · exact .cons (formKept_matrixStep · c q) (.cons (formKept_slateStep · c q) .nil)
  · exact .cons (formKept_rayStep · (c / 4)) .nil

theorem stepsKept_workSteps (s : State) : StepsKept (workSteps s) := by
  refine .append (.append (.append (.append (.flatMap _ fun e => ?_) (.flatMap _ fun e => ?_)) (.flatMap _ fun e => ?_))
    (.map _ fun e u => ?_)) (.flatMap _ fun e => ?_)
  · exact .cons (formKept_deliverAsync · e.1 _) (.cons (formKept_activeIdle · e.1) (.cons (formKept_activeTimeout · e.1)
      (.cons (formKept_activeEnter · e.1) .nil)))
  · refine .append (.append (.cons (formKept_placeSwapped · e.1) (.cons (formKept_hangStep · e.1) .nil)) (.map _ fun q u => ?_))
      (.flatMap _ fun n => ?_)
    · exact formKept_streamStep u e.1 q.1
    · exact .cons (formKept_yieldStep · e.1 n) (.cons (formKept_sleepStep · e.1 n) .nil)
  · exact .cons (formKept_migrationStep · e.1) (.cons (formKept_resizeStep · e.1) (.cons (formKept_tryEndTeam · e.1) .nil))
  · exact formKept_completeLaunch u e.1
  · exact .cons (formKept_clearStep · e.1) (.cons (formKept_meshletStep · e.1) (.cons (formKept_pixelStartStep · e.1)
      (.cons (formKept_publicationStep · e.1) (.cons (formKept_passDone · e.1) .nil))))

theorem stepsKept_partSteps (s : State) : StepsKept (partSteps s) := by
  refine .flatMap _ fun p => .append (.append ?_ (.map _ fun q u => ?_)) (.flatMap _ fun e => ?_)
  · exact .cons (formKept_serviceStep · p) (.cons (formKept_enqueueStep · p) (.cons (formKept_refusalStep · p)
      (.cons (formKept_resetGoOn · p) .nil)))
  · exact formKept_takeStep u p q
  · exact .cons (formKept_deadlines · p (e.1 % 16)) (.cons (formKept_lensStep · p (e.1 % 16))
      (.cons (formKept_av1SendStep · p (e.1 % 16)) .nil))

theorem stepsKept_moduleSteps (s : State) : StepsKept (moduleSteps s) := by
  refine .append (.append (.append (.cons formKept_saveBound .nil) (.map _ fun x u => ?_)) ?_) (.flatMap _ fun cl => ?_)
  · exact formKept_continueSave u x
  · exact .cons formKept_tlbDone (.cons formKept_quietEnd (.cons formKept_eventStep .nil))
  · exact .cons (formKept_gateBegin · cl) (.cons (formKept_gateEnd · cl) (.cons (formKept_wakeUp · cl) .nil))

theorem stepsKept_dispatchSteps (s : State) : StepsKept (dispatchSteps s) := .map _ fun c u => formKept_dispatchStep u c

theorem stepsKept_ownSteps (s : State) : StepsKept (ownSteps s) := by
  refine .append (.append (.append (.append (.append (.map _ fun e u => ?_) (stepsKept_moduleSteps s))
    (.flatMap _ (stepsKept_engineSteps s))) (stepsKept_partSteps s)) (stepsKept_workSteps s)) (stepsKept_dispatchSteps s)
  exact formKept_performLate u e.id

theorem formKept_pruneRob (s : State) (k : Nat) : FormKept s (pruneRob s k) := by
  unfold pruneRob
  split
  · exact FormKept.refl _
  · exact FormKept.ite (FormKept.refl _) (formKept_modSlot _ _ _)

theorem formKept_renameGang (s : State) (k gang : Nat) {t : State} (h : renameGang s k gang = some t) : FormKept s t := by
  unfold renameGang at h
  split at h
  · cases h
  · split at h
    · extract_lets i at h
      split at h
      · cases h
      · obtain ⟨u, hu, ht⟩ := Option.map_eq_some_iff.1 h
        rw [← ht]
        exact (formKept_modSlot _ _ _).after (formKept_renameInstr _ _ _ _ _ hu)
    · cases h

theorem formKept_renameWave (s : State) (k : Nat) {t : State} (h : renameWave s k = some t) : FormKept s t := by
  obtain ⟨g, -, hg⟩ := List.exists_of_findSome?_eq_some h
  exact formKept_renameGang _ _ _ hg

theorem formKept_quadRename (s : State) (c q : Nat) : FormKept s (quadRename s c q) := by
  unfold quadRename
  extract_lets ks last
  generalize h : (ks.filter (· != last) ++ ks.filter (· == last)).findSome? (renameWave s) = o
  cases o with
  | none => exact FormKept.refl s
  | some t =>
    obtain ⟨k, -, hk⟩ := List.exists_of_findSome?_eq_some h
    exact formKept_renameWave _ _ hk

theorem formKept_executeAhead (s : State) (k stamp : Nat) : FormKept s (executeAhead s k stamp) := FormKept.of_eq rfl

theorem formKept_endIssue (s t : State) (k gang stamp : Nat) : FormKept t (endIssue s t k gang stamp) :=
  (formKept_modQuad _ _ _ _).after ((formKept_pruneRob _ _).after
    (FormKept.ite ((formKept_reachBoundary _ _ _).after (formKept_retireEntry _ _ _)) (FormKept.refl _)))

theorem outcomeKept_tryEntries (s : State) (xs : List Candidate) : OutcomeKept s (tryEntries s xs) := by
  induction xs generalizing s with
  | nil => exact OutcomeKept.next (FormKept.refl s)
  | cons x xs ih =>
    have issue := outcomeKept_issueGang s x.wave x.gang
    unfold tryEntries
    refine OutcomeKept.ite (ih s) (OutcomeKept.ite (OutcomeKept.next (formKept_executeAhead _ _ _)) ?_)
    split
    · rename_i t ht
      exact OutcomeKept.ite (OutcomeKept.next ((formKept_endIssue _ _ _ _ _).after (issue t ht)))
        (OutcomeKept.of_kept (FormKept.fields (issue t ht)) (ih _))
    · exact issue

theorem outcomeKept_quadStep (s : State) (c q : Nat) : OutcomeKept s (quadStep s c q) :=
  OutcomeKept.of_kept ((formKept_quadRename _ _ _).after (FormKept.foldl _ (fun _ _ => formKept_pruneRob _ _) _ _))
    (outcomeKept_tryEntries _ _)

/-- A rename that may have no room for its instruction. -/
theorem formKept_renameGang_getD (s : State) (k g : Nat) : FormKept s ((renameGang s k g).getD s) := by
  cases h : renameGang s k g with
  | none => exact FormKept.refl s
  | some t => exact formKept_renameGang _ _ _ h

theorem outcomeKept_tryGangs (s : State) (k : Nat) (gs : List Nat) : OutcomeKept s (tryGangs s k gs) := by
  induction gs with
  | nil => exact OutcomeKept.next (FormKept.refl s)
  | cons g gs ih =>
    have issue := OutcomeKept.of_kept (formKept_renameGang_getD s k g) (outcomeKept_issueGang ((renameGang s k g).getD s) k g)
    unfold tryGangs
    refine OutcomeKept.ite ih ?_
    dsimp only
    split
    · rename_i t ht
      exact OutcomeKept.ite
        (OutcomeKept.next ((formKept_reachBoundary _ _ _).after ((formKept_retireEntry _ _ _).after (issue t ht)))) ih
    · exact issue

theorem outcomeKept_waveTurn (s : State) (k : Nat) : OutcomeKept s (waveTurn s k) := by
  unfold waveTurn
  split
  · exact OutcomeKept.next (FormKept.refl s)
  · exact OutcomeKept.ite
      (OutcomeKept.next ((FormKept.foldl _ (fun _ _ => formKept_sleepStep _ _ _) _ _).after (formKept_modSlot _ _ _)))
      (OutcomeKept.ite (outcomeKept_tryGangs s k _) (OutcomeKept.next (FormKept.refl s)))

theorem outcomeKept_gripTurn (s : State) (t : Nat) : OutcomeKept s (gripTurn s t) := by
  unfold gripTurn
  split
  · exact OutcomeKept.next (FormKept.refl s)
  · exact OutcomeKept.ite (OutcomeKept.next (formKept_modTeam _ _ _))
      (OutcomeKept.ite (outcomeKept_issueGrip s t) (OutcomeKept.next (FormKept.refl s)))

theorem outcomeKept_rehTurn (s : State) (lid c : Nat) : OutcomeKept s (rehTurn s lid c) := by
  unfold rehTurn
  split
  · exact OutcomeKept.next (FormKept.refl s)
  · extract_lets gs k hold u
    have hu : FormKept s u := formKept_modLaunch _ _ _
    refine OutcomeKept.ite (OutcomeKept.next (FormKept.refl s)) (OutcomeKept.ite (OutcomeKept.next hu)
      (OutcomeKept.of_kept hu (OutcomeKept.ite (outcomeKept_waveTurn u k) ?_)))
    split
    · exact outcomeKept_gripTurn u _
    · exact OutcomeKept.next (FormKept.refl u)

theorem outcomeKept_rehGoOn (s : State) (lid c : Nat) : OutcomeKept s (rehGoOn s lid c) := by
  unfold rehGoOn
  split
  · rename_i t ht
    exact OutcomeKept.next (formKept_firstChange (stepsKept_engineSteps s c) ht)
  · exact OutcomeKept.ite (OutcomeKept.next (FormKept.refl s)) (outcomeKept_rehTurn s lid c)

theorem outcomeKept_issueStep (s : State) (f : Focus) : OutcomeKept s (issueStep s f) := by
  unfold issueStep
  split
  · exact outcomeKept_rehGoOn s _ _
  · split
    · exact outcomeKept_quadStep s _ _
    · split
      · exact outcomeKept_gripStep s _
      · exact OutcomeKept.next (FormKept.refl s)
    · exact OutcomeKept.ite (outcomeKept_runFocus_focus s _) (OutcomeKept.next (FormKept.refl s))
    · exact OutcomeKept.next (FormKept.refl s)

theorem outcomeKept_takeTurn (s : State) (t : Turn) : OutcomeKept s (takeTurn s t) := by
  cases t with
  | quad c q => exact outcomeKept_quadStep s c q
  | grip c => exact outcomeKept_gripStep s c
  | mgmt n => exact outcomeKept_runFocus_focus s (.mgmt n)
  | reh l c => exact outcomeKept_rehGoOn s l c

theorem outcomeKept_tryTurns (s : State) (xs : List (Nat × Turn)) : OutcomeKept s (tryTurns s xs) := by
  induction xs with
  | nil => exact OutcomeKept.next (FormKept.foldl _ (fun _ _ => formKept_elapse _ _ _) _ _)
  | cons x xs ih =>
    have turn := outcomeKept_takeTurn s x.2
    unfold tryTurns
    split
    · rename_i t ht
      exact OutcomeKept.ite ih (OutcomeKept.next ((formKept_elapse _ _ _).after (turn t ht)))
    · exact turn

theorem outcomeKept_autoStep (s : State) : OutcomeKept s (autoStep s) := by
  unfold autoStep
  refine OutcomeKept.ite (OutcomeKept.next (formKept_finishTick s)) ?_
  split
  · rename_i t ht
    exact OutcomeKept.next (formKept_firstChange (stepsKept_ownSteps s) ht)
  · exact outcomeKept_tryTurns s _

theorem outcomeKept_happenNow (s : State) (h : Happening) : OutcomeKept s (happenNow s h) := by
  cases h with
  | issue f => exact outcomeKept_issueStep s f
  | issueLate f =>
    have issue : OutcomeKept s (issueStep { s with deferring := some s.nextTag } f) :=
      OutcomeKept.of_kept (FormKept.fields (FormKept.refl s)) (outcomeKept_issueStep _ f)
    unfold happenNow
    dsimp only
    split
    · rename_i t ht
      exact OutcomeKept.next (FormKept.fields (issue t ht))
    · exact issue
  | perform id => exact OutcomeKept.next (formKept_performLate s id)
  | elapse core clocks => exact OutcomeKept.next (formKept_elapse s core clocks)
  | event i => exact outcomeKept_exec i s

theorem outcomeKept_happen (s : State) (h : Happening) : OutcomeKept s (happen s h) :=
  OutcomeKept.of_kept (FormKept.ite (formKept_finishTick s) (FormKept.refl s)) (outcomeKept_happenNow _ h)

/-! ### Steps -/

theorem outcomeKept_step (s : State) : OutcomeKept s (step s) := by
  unfold step
  split
  · exact OutcomeKept.of_kept (FormKept.fields (FormKept.refl s)) (outcomeKept_happen _ _)
  · exact outcomeKept_autoStep s

end Sys2Proof.Machine
end

section
open Sys2Proof Sys2Proof.Machine

/-- Settles O29: memory changes only through stores, each of which leaves it in canonical form, so that whatever a step does, by the
agenda or by itself, it keeps the form. -/
theorem stepKeepsMemoryForm : Obligations.StepKeepsMemoryForm := by
  unfold Obligations.StepKeepsMemoryForm
  exact fun s t h hs => outcomeKept_step s t hs h

end

section
/-! One step: what the agenda, a quadrant and a grip make of an instruction, each said once. -/

namespace Sys2Proof.Machine

theorem fetchAt_of_decode {s : State} {l : LaneId} {pc : Addr} {bs : List Byte} {i : Instr}
    (hf : fetchBytes s (laneCore s l) (lanePart s l) pc = .ok bs) (hd : decode bs = .ok (i, [])) : fetchAt s l pc = .instr i := by
  simp [fetchAt, hf, hd]

/-- A context whose counter names an instruction executes it in the state that the fetch's translation leaves. -/
theorem runFocus_of_decode {s : State} {l : LaneId} {ls : List LaneId} {bs : List Byte} {i : Instr} (hi : issuing s = l :: ls)
    (hf : fetchBytes s (laneCore s l) (lanePart s l) (focusPc s s.focus) = .ok bs) (hd : decode bs = .ok (i, [])) :
    runFocus s = exec i (noteLane s l (focusPc s s.focus).toNat .x) := by
  unfold issuing at hi
  simp only [runFocus, hi, fetchAt_of_decode hf hd, noteFetch]

/-- The first entry of the agenda happens at once while no power tick is open. -/
theorem step_of_agenda {s : State} {h : Happening} {rest : List Happening} (ha : s.agenda = h :: rest)
    (ho : s.units.power.opened = none) : step s = happenNow { s with agenda := rest } h := by
  simp [step, ha, happen, ho]

theorem step_of_tickPart {s : State} {h : Happening} {rest : List Happening} (ha : s.agenda = h :: rest)
    (ht : tickPart h = true) : step s = happenNow { s with agenda := rest } h := by
  simp [step, ha, happen, ht]

theorem quadStep_eq (s : State) (c q : Nat) : quadStep s c q = tryEntries (renamed s c q) (quadOrder (renamed s c q) c q) := rfl

/-- An oldest entry that may issue is tried in the state in which its context has come into focus. -/
theorem tryEntries_oldest {v : State} {x : Candidate} (xs : List Candidate) (hm : gangMay v x.wave x.gang = true) (hx : x.ahead = false) :
    tryEntries v (x :: xs) =
      match runFocus { v with focus := .wave x.wave x.gang } with
      | .next t =>
        let t' := endStepping t (gangSlices v x.wave x.gang)
        if gangIssued v t' x.wave x.gang then .next (endIssue v t' x.wave x.gang x.stamp) else tryEntries { t' with focus := v.focus } xs
      | r => r := by
  simp only [tryEntries, hm, hx, issueGang, Bool.not_true, Bool.false_eq_true, if_false]
  cases runFocus { v with focus := .wave x.wave x.gang } <;> rfl

/-- A wave that the agenda names makes its quadrant choose: the oldest entry that it tries first issues in the chosen state. -/
theorem step_of_chosen {s u : State} {stamp k gang : Nat} {xs : List Candidate} (h : Chosen s u stamp k gang xs) :
    ∃ f, step s =
      match runFocus u with
      | .next t =>
        let t' := endStepping t (gangSlices u k gang)
        if gangIssued u t' k gang then .next (endIssue u t' k gang stamp) else tryEntries { t' with focus := f } xs
      | r => r := by
  obtain ⟨k₀, g₀, rest, ha, ho, hr, hq, hm, rfl⟩ := h
  refine ⟨(renamed { s with agenda := rest } (slotCore k₀) (slotQuad k₀)).focus, ?_⟩
  rw [step_of_agenda ha ho]
  simp only [happenNow, issueStep, hr, quadStep_eq, hq]
  generalize renamed { s with agenda := rest } (slotCore k₀) (slotQuad k₀) = v at hm
  exact tryEntries_oldest xs hm rfl

/-- An issue of the late kind is an issue under a number that marks the accesses it leaves (R170). -/
theorem happenNow_issueLate (s : State) (f : Focus) :
    happenNow s (.issueLate f) =
      match happenNow { s with deferring := some s.nextTag } (.issue f) with
      | .next t => .next { t with deferring := none }
      | r => r := rfl

/-- The same for a grip context: the oldest that may issue does, and one that changes nothing lets the next try. -/
theorem step_of_gripChosen {s u : State} {k : Nat} {ks : List Nat} (h : GripChosen s u k ks) :
    step s =
      match runFocus u with
      | .next t => if { t with focus := s.focus } = { u with focus := s.focus } then tryGrips { u with focus := s.focus } ks else .next t
      | r => r := by
  obtain ⟨k₀, x, rest, ha, ho, hr, ht, hg, hp, rfl⟩ := h
  rw [step_of_agenda ha ho]
  have ht' : team? { s with agenda := rest } k₀ = some x := ht
  have hp' : ((team? { s with agenda := rest } k).bind (·.grip)).bind (·.pend) = none := hp
  simp only [happenNow, issueStep, hr, ht', gripStep, hg, tryGrips, issueGrip, hp'] <;>
    cases runFocus { s with agenda := rest, focus := .grip k } <;> rfl

end Sys2Proof.Machine
end

section
open Sys2Proof Sys2Proof.Machine

/-- Settles O27: each clause is the equation of `step` for its kind of agenda entry, after the two equations that say which context of a
quadrant or of a grip issues. -/
theorem stepRunsTheDecodedInstruction : Obligations.StepRunsTheDecodedInstruction := by
  unfold Obligations.StepRunsTheDecodedInstruction
  refine ⟨?_, ?_, ?_, ?_, ?_, ?_, ?_, ?_, ?_⟩
  · intro s u stamp k gang xs l ls bs i hc hi hf hd
    obtain ⟨f, hs⟩ := step_of_chosen hc
    rw [hs, runFocus_of_decode hi hf hd]
    cases exec i (noteLane u l (focusPc u u.focus).toNat .x) with
    | next t => exact ⟨fun h => if_pos h, fun h => ⟨f, if_neg (by simp [h])⟩⟩
    | fault r => rfl
    | refused r => rfl
  · intro s x xs hm hx
    simp [tryEntries, hm, hx]
  · intro s u k ks bs i hc hi hf hd
    have hfocus : u.focus = .grip k := by
      obtain ⟨k₀, x, rest, -, -, -, -, -, -, rfl⟩ := hc
      rfl
    rw [step_of_gripChosen hc, runFocus_of_decode hi (hfocus ▸ hf) hd, hfocus]
    cases exec i (noteLane u (.grip k) (focusPc u (.grip k)).toNat .x) with
    | next t => dsimp only; split <;> rfl
    | fault r => rfl
    | refused r => rfl
  · intro s n rest l ls bs i ha ho hm s1 hi hf hd
    rw [step_of_agenda ha ho]
    have hm' : mgmtMay { s with agenda := rest } n = true := hm
    simp only [happenNow, issueStep, focusReh, hm', if_true]
    exact runFocus_of_decode hi hf hd
  · intro s t f rest ha ho ht
    rw [step_of_agenda (s := { s with agenda := .issue f :: rest, deferring := some s.nextTag }) rfl ho] at ht
    rw [step_of_agenda ha ho, happenNow_issueLate]
    exact ht.symm ▸ rfl
  · intro s id rest ha ho
    rw [step_of_agenda ha ho]
    rfl
  · intro s i rest ha ho
    rcases ho with ho | ht
    · exact step_of_agenda ha ho
    · exact step_of_tickPart ha ht
  · intro s core clocks rest ha ho
    exact step_of_agenda ha ho
  · intro s h rest ha ho ht
    simp [step, ha, happen, ho, ht]

end

section
open Sys2Proof Sys2Proof.Machine

/-- No bank holds a written register at reset, so that every partition reads the same values. -/
theorem bankReg_reset (p n : Nat) : bankReg State.reset p n = bankReg State.reset 0 n := rfl

/-- Settles O28: the reset state is a literal, and its registers are evaluated. -/
theorem resetValues : Obligations.ResetValues := by
  unfold Obligations.ResetValues
  refine ⟨⟨rfl, rfl, rfl, rfl, rfl, rfl, rfl, rfl, fun c => ⟨rfl, rfl, rfl⟩, fun cl => ⟨rfl, rfl⟩,
    fun p => ⟨rfl, rfl, rfl, fun n hn => (bankReg_reset p n).trans ?_⟩, rfl, rfl, ?_⟩, rfl, rfl⟩
  · revert n
    decide
  · decide

end

section
/-! A group that the table lists twice. Reads find the first entry; the slots of a wave list both, so that the second says whether its
slices go, and the first is what they are. -/

namespace Sys2Proof.Machine

/-- A slice of four lanes that run at 0x2000. -/
def plainSlice : Slice :=
  { prog := { pc := 0x2000, running := sliceMask 0, pending := [], parked := [] }, frames := [], wait := .none, gang := 0, redo := [],
    halt := none, stepping := false, skipBrk := none }

/-- A group of team 1 with one slice in wave slot 0. -/
def oneSlice (x : Slice) : Group :=
  { team := 1, gidx := 0, width := 4, seats := [0], base := 0, regs := [], mode := 0, fstat := 0, merr0 := 0, merr1 := 0, view := 0,
    slices := [x], exited := 0, queues := [], status := .run, ended := false, mesh := none, pix := none, pages := [], failed := [],
    fenced := 0, startClk := 0, spent := [], quiet := 0 }

/-- Its team, of launch 0. -/
def oneTeam : Team :=
  { launch := 0, no := 0, tx := 0, ty := 0, tz := 0, core := 0, lcore := 0, pair := false, scr := 0, tmem := 0, groups := [2],
    scratch := [], bad := [], windows := [], grip := none, stopped := false, killed := false, ended := false, stashErr := false,
    resizeAt := none, rszHeld := false, moving := none, doomed := false }

def oneLaunch : Launch :=
  { part := 0, src := .queue 0, slot := 0, desc := none, words := [], exec := 0x2000, access := 0x2000, total := 1, started := 1,
    ended := 0, killed := false, complete := false, rehCore := none, rot := 0, hold := none }

/-- Wave slot 0, with the causes that it has still to deliver. -/
def oneSlot (asyncs : List AsyncCause) : Slot :=
  { launch := 0, retired := 0, lastGang := 0, asyncs := asyncs, active := true, since := 0, readyAt := 0, order := 0, sleepTurns := 0,
    reclaim := false, map := [], lastNamed := 0, rob := [], stored := [], cached := [] }

/-- A translation of the first 2^40 bytes to themselves. -/
def flatEntry : TlbEntry :=
  { part := 0, va := 0, bits := 40, frame := 0, r := true, w := true, x := true, g := true, dirty := true, entry := 0, desc := 0 }

/-- Every function is ready, partition 0 runs with a trap vector, and group 2 stands in the table twice, the first time with slice `x`. -/
def groupTwice (x : Slice) (asyncs : List AsyncCause) : State :=
  { State.reset with
    work := { Work.reset with groups := [(2, oneSlice x), (2, oneSlice plainSlice)], slots := [(0, oneSlot asyncs)], teams := [(1, oneTeam)],
                              launches := [(0, oneLaunch)], nextId := 10 }
    units := { Units.reset with cores := [(0, { Core.reset with tlb := [flatEntry] })], ready := 0x1FFF, dieTlb := [(0, flatEntry)],
                                parts := [(0, { Part.reset with regs := [(0x190, 0x8000), (0x1E0, 1), (0x1E1, 1)] })] }
    focus := .wave 0 0 }

/-- Slice 0 of group 2. -/
def firstSlice (o : Host.Outcome State Fault Refusal) : Option Slice :=
  match o with
  | .next t => slice? t 2 0
  | _ => none

/-! ### A slice that waits at a barrier and issues because its second entry does not wait -/

def waitingSlice : Slice := { plainSlice with wait := .bar 0, prog := { plainSlice.prog with pending := [⟨0x3000, 15⟩] } }

/-- The barrier of the group is complete once the pending entry runs, and moves it past its address. -/
theorem regang_waitingSlice_moves :
    (firstSlice (exec (.regang true) (groupTwice waitingSlice []))).map (·.prog.pc) = some 0x3004 := by decide +kernel

/-! ### A slice that has taken a cause and takes another, because its second entry is in no handler -/

/-- Word 1, which is no instruction, at the counter of the wave that the agenda names; an expired lease is still to be delivered to it. -/
def illegalTwice : State :=
  { groupTwice plainSlice [{ cause := 0x0C, addr := 0, team := 1 }] with
    mem := memPuts [] 0x2000 (leBytes 4 1), agenda := [.issue (.wave 0 0)], focus := .none }

/-- The state that the quadrant's choice issues in. -/
def illegalChosen : State := { renamed { illegalTwice with agenda := [] } 0 0 with focus := .wave 0 0 }

theorem chosen_illegalTwice : Chosen illegalTwice illegalChosen 0 0 0 [] :=
  ⟨0, 0, [], rfl, rfl, by decide +kernel, by decide +kernel, by decide +kernel, rfl⟩

/-- Its one slice has the vector, no debug mask and three frames to spare. -/
theorem trapsFit_illegalChosen : trapsFit illegalChosen 1 := by
  have lanes : ∀ l ∈ issuing illegalChosen, inGroup 2 l = true ∧ lidxOf l / 4 = 0 := by decide +kernel
  have fits : (group? illegalChosen 2).map (fun y => decide ((bankReg illegalChosen (teamPart illegalChosen y.team) 0x1E7).getLsbD 1 = false ∧
      tvec illegalChosen (teamPart illegalChosen y.team) ≠ 0 ∧ framesUsed y 0 + slicesIssuing illegalChosen 2 ≤ 4)) = some true := by
    decide +kernel
  rintro g n x ⟨i, hi, rfl⟩ hx
  obtain ⟨hg, hn⟩ := lanes _ hi
  have hg' : g = 2 := by simpa [inGroup] using hg
  subst hg'
  rw [hx] at fits
  change i / 4 = 0 at hn
  rw [hn]
  exact of_decide_eq_true (Option.some.inj fits)

/-- Both causes are taken in one step. -/
theorem step_illegalTwice_frames : (firstSlice (step illegalTwice)).map (fun z => z.frames.map (·.cause)) = some [0x0C, 1] := by
  decide +kernel

end Sys2Proof.Machine
end

section
open Sys2Proof Sys2Proof.Machine

/-- Refutes O16: the statement is about every state, also one whose table lists a group twice. The second entry has no wait and so lets the
slice issue, while the first, which REGANG acts on, waits at a barrier: the pending entry that runs next completes the barrier and goes on
four bytes behind its address. -/
theorem not_regangParksAndRejoinsLanes : ¬ Obligations.RegangParksAndRejoinsLanes := by
  unfold Obligations.RegangParksAndRejoinsLanes
  intro h
  obtain ⟨t, ht, pending, -⟩ := h true (groupTwice waitingSlice []) (by decide +kernel)
  obtain ⟨runs, -⟩ := pending 2 0 waitingSlice ⟨0, by decide +kernel, rfl⟩ rfl rfl
  have stays := runs ⟨0x3000, 15⟩ [] rfl (by decide)
  have moves := regang_waitingSlice_moves
  rw [ht] at moves
  change (slice? t 2 0).map (·.prog.pc) = _ at moves
  have at3000 := congrArg (Option.map Level.pc) stays
  rw [Option.map_map] at at3000
  exact absurd (moves.symm.trans at3000) (by decide)

/-- Refutes O22: the statement is about every state, also one whose table lists a group twice. The slice takes cause 0x01, and, at the
boundary that it has so reached, the pending cause of its wave as well, since the second entry is in no handler: two frames are new. -/
theorem not_reservedFieldsTakeCauseOne : ¬ Obligations.ReservedFieldsTakeCauseOne := by
  unfold Obligations.ReservedFieldsTakeCauseOne
  intro h
  obtain ⟨-, -, wave, -⟩ := h
  have lanes : issuing illegalChosen = .wave 2 0 :: (issuing illegalChosen).tail := by decide +kernel
  obtain ⟨t, ht, trapped⟩ := wave illegalTwice illegalChosen 0 0 0 [] (.wave 2 0) _ (leBytes 4 1) .reservedMajor chosen_illegalTwice lanes
    (by decide +kernel) (by decide +kernel) (by decide +kernel) trapsFit_illegalChosen
  obtain ⟨z, f, hz, hframes, -⟩ := trapped.entry.frame 2 0 plainSlice (oneSlice plainSlice) ⟨0, by decide +kernel, rfl⟩ (by decide +kernel)
    (by decide +kernel) (by decide +kernel)
  have two := step_illegalTwice_frames
  rw [ht] at two
  change (slice? t 2 0).map _ = _ at two
  rw [hz] at two
  simp [hframes, plainSlice] at two

end

section
/-! Branches: what the end of an issue that completes in every lane makes of the levels of slices and of the counters of one-lane contexts,
when lanes have targets. -/

namespace Sys2Proof.Machine

/-! ### The lanes of a slice -/

/-- The issuing lanes of a slice, in the order of the issue. -/
def lanesIn (s : State) (k : Nat × Nat) : List LaneId := (issuing s).filter (fun l => sliceKey l = some k)

theorem mem_lanesIn {s : State} {g n : Nat} {l : LaneId} : l ∈ lanesIn s (g, n) ↔ ∃ i, l = .wave g i ∧ .wave g i ∈ issuing s ∧ i / 4 = n := by
  unfold lanesIn
  rw [List.mem_filter]
  cases l with
  | wave h i =>
    simp only [sliceKey, decide_eq_true_eq, Option.some.injEq, Prod.mk.injEq, LaneId.wave.injEq]
    constructor
    · rintro ⟨hm, rfl, hn⟩
      exact ⟨i, ⟨rfl, rfl⟩, hm, hn⟩
    · rintro ⟨j, ⟨rfl, rfl⟩, hm, hn⟩
      exact ⟨hm, rfl, hn⟩
  | grip t => simp [sliceKey]
  | mgmt n => simp [sliceKey]

theorem lanesIn_ne_nil {s : State} {g n : Nat} (h : sliceIssues s g n) : lanesIn s (g, n) ≠ [] := by
  obtain ⟨i, hi, hn⟩ := h
  exact List.ne_nil_of_mem (mem_lanesIn.2 ⟨i, rfl, hi, hn⟩)

theorem issuingIn_eq (s : State) (g n : Nat) (p : LaneId → Bool) :
    issuingIn s g n p = maskOf (((lanesIn s (g, n)).filter p).map lidxOf) := by
  unfold issuingIn lanesIn
  rw [List.filter_filter]
  congr 2
  refine List.filter_congr fun l _ => ?_
  cases l <;> simp [sliceKey, Bool.decide_and, Bool.beq_eq_decide_eq]

/-- The lanes of a slice that completed, each with its target. -/
theorem doneOf_doneActs (s : State) (ws : LaneId → List (Nat × Word)) (fl : LaneId → Flags) (tgt : LaneId → Option Addr) (k : Nat × Nat) :
    doneOf (doneActs (issuing s) ws fl tgt) k = (lanesIn s k).map (fun l => (lidxOf l, tgt l)) := by
  unfold doneOf ofSlice doneActs lanesIn
  rw [List.filter_map, List.filterMap_map]
  exact congrFun (List.filterMap_eq_map (f := fun l => (lidxOf l, tgt l))) _

theorem maskOf_eq_zero {ls : List Nat} (h : ∀ i ∈ ls, i < 64) : maskOf ls = 0 ↔ ls = [] := by
  refine ⟨fun h0 => List.eq_nil_iff_forall_not_mem.2 fun i hi => ?_, fun h0 => by rw [h0]; rfl⟩
  have bit := maskOf_getLsbD ls i
  rw [h0] at bit
  simp [h i hi, hi] at bit

/-! ### The law -/

/-- The contexts that have issued after an issue whose lane `l` has the target `tgt l`, or goes on past its instruction of `len` bytes. -/
structure Moved (s t : State) (len : Nat) (tgt : LaneId → Option Addr) : Prop where
  wave : ∀ g n x, sliceIssues s g n → slice? s g n = some x →
    (slice? t g n).map levelOf = some (placeLevel (levelOf x) len ((lanesIn s (g, n)).map (fun l => (lidxOf l, tgt l))))
  grip : ∀ k, .grip k ∈ issuing s → (grip? t k).map (·.pc) = (grip? s k).map (fun x => (tgt (.grip k)).getD (x.pc + BitVec.ofNat 56 len))
  mgmt : ∀ n, .mgmt n ∈ issuing s →
    (t.units.mgmt[n]?).map (·.pc) = (s.units.mgmt[n]?).map (fun x => (tgt (.mgmt n)).getD (x.pc + BitVec.ofNat 56 len))

theorem raised_of_fstat {s t : State} {fl : LaneId → Flags}
    (h : ∀ g w, fstat? s g = some w → ∃ w', fstat? t g = some w' ∧ ∀ b, b < 32 →
      w'.getLsbD b = (w.getLsbD b || (issuing s).any (fun l => inGroup g l && (fl l).testBit b))) : Raised s t fl := by
  intro g x hx
  obtain ⟨w', hw, hbits⟩ := h g x.fstat (by unfold fstat?; rw [hx]; rfl)
  obtain ⟨y, hy, rfl⟩ := Option.map_eq_some_iff.1 hw
  exact ⟨y, hy, hbits⟩

/-- A one-lane context issues for no group. -/
theorem raised_of_single {s t : State} {l : LaneId} {fl : LaneId → Flags} (hs : issuing s = [l]) (hl : ∀ g, inGroup g l = false)
    (h : ∀ g, fstat? t g = fstat? s g) : Raised s t fl := by
  refine raised_of_fstat fun g w hw => ⟨w, (h g).trans hw, fun b _ => ?_⟩
  simp [hs, hl g]

/-- An issue that completes in every lane, with effects that leave levels, flags and counters alone. -/
theorem runEntry_moved (s : State) (i : Instr) (e : Entry) (ws : LaneId → List (Nat × Word)) (fl : LaneId → Flags)
    (tgt : LaneId → Option Addr) (hr : ready s e.form = true) (hl : ∀ l ∈ issuing s, e.legal l = true)
    (hb : ∀ l ∈ issuing s, e.before l (laneVals s e.form (issuing s) l) = none) (ho : e.once = none)
    (hp : ∀ l ∈ issuing s, e.plan l (laneVals s e.form (issuing s) l) = .done (ws l) (fl l) (tgt l))
    (hf : (effects s e ws).focus = s.focus) (hs : Steady s (effects s e ws)) :
    ∃ t, runEntry s i e = .next t ∧ Booked (effects s e ws) t ∧ Raised s t fl ∧ Moved s t e.form.len tgt := by
  obtain ⟨t, ht, hbooked, hwave, hgrip, hmgmt⟩ := runEntry_done s i e ws fl tgt hr hl hb ho hp hf
  obtain ⟨l, hl⟩ : ∃ l, l ∈ issuing s := by
    refine List.exists_mem_of_ne_nil _ fun hn => ?_
    simp [ready, hn] at hr
  refine ⟨t, ht, hbooked, ?_, ?_, ?_, ?_⟩
  · rcases mem_issuing hl with ⟨k, gang, g, i, x, hfoc, -⟩ | ⟨k, x, hfoc, rfl, hone, -⟩ | ⟨n, x, hfoc, rfl, hone, -⟩
    · refine raised_of_fstat fun g w hw => ?_
      obtain ⟨w', hw', hbits⟩ := (hwave k gang hfoc).2 g w ((hs.fstat g).trans hw)
      exact ⟨w', hw', fun b hb => (hbits b hb).trans (by rw [flags_any])⟩
    · exact raised_of_single hone (fun _ => rfl) fun g => ((hgrip k hfoc).1 g).trans (hs.fstat g)
    · exact raised_of_single hone (fun _ => rfl) fun g => ((hmgmt n hfoc).1 g).trans (hs.fstat g)
  · intro g n x hn hx
    obtain ⟨i, hi, hin⟩ := hn
    rcases mem_issuing hi with ⟨k, gang, g', i', x', hfoc, -⟩ | ⟨k, x', -, he, -⟩ | ⟨m, x', -, he, -⟩
    · have hkey : (g, n) ∈ sliceKeys (doneActs (issuing s) ws fl tgt) :=
        (mem_sliceKeys _ _).2 ⟨_, List.mem_map.2 ⟨_, hi, rfl⟩, by simp [sliceKey, hin]⟩
      have level := (hwave k gang hfoc).1 g n
      rw [if_pos hkey, hs.level, doneOf_doneActs] at level
      have hlx : level? s g n = some (levelOf x) := by unfold level?; rw [hx]; rfl
      rw [hlx] at level
      exact level
    · cases he
    · cases he
  · intro k hk
    rcases mem_issuing hk with ⟨_, _, _, _, _, -, he, -⟩ | ⟨k', x, hfoc, he, -⟩ | ⟨m, x, -, he, -⟩
    · cases he
    · cases he
      refine (hgrip k hfoc).2.trans ?_
      rw [hs.grip, gripPc?, Option.map_map]
      rfl
    · cases he
  · intro n hn
    rcases mem_issuing hn with ⟨_, _, _, _, _, -, he, -⟩ | ⟨k', x, hfoc, he, -⟩ | ⟨m, x, hfoc, he, -⟩
    · cases he
    · cases he
    · cases he
      refine (hmgmt n hfoc).2.trans ?_
      rw [hs.mgmt, mgmtPc?, Option.map_map]
      rfl

/-- An issue that completes in every lane, with no effect but its writes to registers. -/
theorem runEntry_writes (s : State) (i : Instr) (e : Entry) (ws : LaneId → List (Nat × Word)) (fl : LaneId → Flags)
    (tgt : LaneId → Option Addr) (hr : ready s e.form = true) (hl : ∀ l ∈ issuing s, e.legal l = true)
    (hb : ∀ l ∈ issuing s, e.before l (laneVals s e.form (issuing s) l) = none) (ho : e.once = none) (he : e.eff = fun _ _ u => u)
    (hp : ∀ l ∈ issuing s, e.plan l (laneVals s e.form (issuing s) l) = .done (ws l) (fl l) (tgt l))
    (hh : ∀ l ∈ issuing s, ∀ w ∈ ws l, laneHas s l w.1) (hn : ∀ l ∈ issuing s, ((ws l).map (·.1)).Nodup) :
    ∃ t, runEntry s i e = .next t ∧ Wrote s t ws ∧ Raised s t fl ∧ Kept s t ∧ Moved s t e.form.len tgt := by
  have h64 : ∀ l ∈ issuing s, lidxOf l < 64 := fun l h => lidx_issuing (ready_fit hr) h
  have heff : effects s e ws = writeAll s (issuing s) ws := by
    unfold effects
    rw [he]
    rfl
  obtain ⟨t, ht, hbooked, hraised, hmoved⟩ := runEntry_moved s i e ws fl tgt hr hl hb ho hp
    (by rw [heff, focus_writeAll]) (by rw [heff]; exact steady_writeAll _ _ _)
  rw [heff] at hbooked
  refine ⟨t, ht, ⟨fun l hl w hw => ?_, fun l r hl hne => ?_⟩, hraised, (kept_writeAll _ _ _).trans hbooked.kept, hmoved⟩
  · rw [hbooked.laneElem]
    exact laneElem_writeAll s (issuing s) ws h64 hn hh hl hw
  · rw [hbooked.laneElem]
    exact laneElem_writeAll_ne s (issuing s) ws h64 hl hne

/-- An issue that only takes lanes to their targets. -/
theorem runEntry_untouched (s : State) (i : Instr) (e : Entry) (tgt : LaneId → Option Addr) (hr : ready s e.form = true)
    (hl : ∀ l ∈ issuing s, e.legal l = true) (hb : ∀ l ∈ issuing s, e.before l (laneVals s e.form (issuing s) l) = none)
    (ho : e.once = none) (he : e.eff = fun _ _ u => u)
    (hp : ∀ l ∈ issuing s, e.plan l (laneVals s e.form (issuing s) l) = .done [] 0 (tgt l)) :
    ∃ t, runEntry s i e = .next t ∧ Untouched s t ∧ Moved s t e.form.len tgt := by
  obtain ⟨t, ht, hwrote, hraised, hkept, hmoved⟩ := runEntry_writes s i e (fun _ => []) noFlags tgt hr hl hb ho he hp
    (fun _ _ _ h => by cases h) fun _ _ => List.nodup_nil
  exact ⟨t, ht, ⟨hwrote, hraised, hkept⟩, hmoved⟩

/-! ### Branches with one target -/

/-- Lanes with one target are of one class. -/
theorem targetClasses_const (q : Addr) (ls : List Nat) (h : ls ≠ []) : targetClasses (ls.map (·, q)) = [(q, maskOf ls)] := by
  have fold (ls : List Nat) (m : LMask) :
      (ls.map (·, q)).foldl (fun acc t =>
        if acc.any (·.1 = t.2) then acc.map (fun c => if c.1 = t.2 then (c.1, c.2 ||| laneBit t.1) else c)
        else acc ++ [(t.2, laneBit t.1)]) [(q, m)] = [(q, ls.foldl (fun m l => m ||| laneBit l) m)] := by
    induction ls generalizing m with
    | nil => rfl
    | cons i ls ih => simpa using ih (m ||| laneBit i)
  cases ls with
  | nil => exact absurd rfl h
  | cons i ls => simpa [targetClasses, maskOf] using fold ls (laneBit i)

theorem branch_taken (p : LaneId → Bool) (q : Addr) (ls : List LaneId) :
    (ls.map (fun l => (lidxOf l, if p l then some q else none))).filterMap (fun t => t.2.map (fun a => (t.1, a))) =
      ((ls.filter p).map lidxOf).map (·, q) := by
  induction ls with
  | nil => rfl
  | cons l ls ih => cases hp : p l <;> simpa [hp] using ih

theorem branch_stay (p : LaneId → Bool) (q : Addr) (ls : List LaneId) :
    ((ls.map (fun l => (lidxOf l, if p l then some q else none))).filter (fun t => t.2.isNone)).map (·.1) =
      (ls.filter (fun l => !p l)).map lidxOf := by
  induction ls with
  | nil => rfl
  | cons l ls ih => cases hp : p l <;> simpa [hp] using ih

/-- A slice whose lanes `p` go to `q` while the others go on. -/
theorem placeLevel_branch (v : Level) (len : Nat) (p : LaneId → Bool) (q : Addr) (ls : List LaneId) (h64 : ∀ l ∈ ls, lidxOf l < 64)
    (hne : ls ≠ []) :
    let take := maskOf ((ls.filter p).map lidxOf)
    let stay := maskOf ((ls.filter (fun l => !p l)).map lidxOf)
    placeLevel v len (ls.map (fun l => (lidxOf l, if p l then some q else none))) =
      if stay = 0 then { v with pc := q, running := take }
      else if take = 0 then { v with pc := v.pc + BitVec.ofNat 56 len, running := stay }
      else { v with pc := q, running := take, pending := addPending v.pending (v.pc + BitVec.ofNat 56 len) stay } := by
  intro take stay
  have zero (r : LaneId → Bool) : maskOf ((ls.filter r).map lidxOf) = 0 ↔ ls.filter r = [] := by
    refine (maskOf_eq_zero fun i hi => ?_).trans List.map_eq_nil_iff
    obtain ⟨l, hl, rfl⟩ := List.mem_map.1 hi
    exact h64 l (List.mem_of_mem_filter hl)
  unfold placeLevel
  rw [branch_taken, branch_stay]
  by_cases hp : ls.filter p = []
  · have stayAll : ls.filter (fun l => !p l) = ls := by
      refine List.filter_eq_self.2 fun l hl => ?_
      simpa using List.filter_eq_nil_iff.1 hp l hl
    have hs : stay ≠ 0 := fun h => hne (stayAll ▸ (zero _).1 h)
    rw [if_neg hs, if_pos ((zero p).2 hp), hp]
    rfl
  · have ht : take ≠ 0 := fun h => hp ((zero p).1 h)
    rw [targetClasses_const q _ (fun h => hp (List.map_eq_nil_iff.1 h))]
    by_cases hs : stay = 0
    · rw [if_pos hs]
      change Level.mk q _ (addPending v.pending _ stay) _ = _
      rw [hs]
      rfl
    · rw [if_neg hs, if_neg ht]
      rfl

/-- An issue that moves lanes `p` to one target and lets the others go on is a branch. -/
theorem Moved.branched {s t : State} {p : LaneId → Bool} {q : Addr} (hf : groupsFit s = true)
    (h : Moved s t 4 (fun l => if p l then some q else none)) : Branched s t p q where
  wave g n x hn hx := by
    rw [h.wave g n x hn hx, issuingIn_eq, issuingIn_eq]
    refine congrArg some (placeLevel_branch (levelOf x) 4 p q (lanesIn s (g, n)) (fun l hl => ?_) (lanesIn_ne_nil hn))
    exact lidx_issuing hf (List.mem_of_mem_filter hl)
  grip k hk := by
    rw [h.grip k hk]
    cases p (.grip k) <;> rfl
  mgmt n hn := by
    rw [h.mgmt n hn]
    cases p (.mgmt n) <;> rfl

/-! ### Branches with a target for each lane -/

/-- Some pending entry holds lane `j` at address `a`. -/
def PendsAt (ps : List PendEntry) (a : Addr) (j : Nat) : Prop := ∃ e ∈ ps, e.pc = a ∧ e.lanes.getLsbD j = true

theorem PendsAt.addPending {ps : List PendEntry} {a : Addr} {j : Nat} (h : PendsAt ps a j) (pc : Addr) (m : LMask) :
    PendsAt (addPending ps pc m) a j := by
  obtain ⟨e, he, hpc, hj⟩ := h
  unfold Sys2Proof.Machine.addPending
  split
  · exact ⟨e, he, hpc, hj⟩
  · split
    · refine ⟨_, List.mem_map_of_mem he, ?_⟩
      split <;> simp [hpc, hj]
    · exact ⟨e, List.mem_append_left _ he, hpc, hj⟩

theorem pendsAt_addPending_self (ps : List PendEntry) {a : Addr} {m : LMask} {j : Nat} (h : m.getLsbD j = true) :
    PendsAt (addPending ps a m) a j := by
  unfold addPending
  split
  · rename_i hm
    simp [hm] at h
  · split
    · rename_i hany
      obtain ⟨e, he, hpc⟩ := List.any_eq_true.1 hany
      refine ⟨_, List.mem_map_of_mem he, ?_⟩
      rw [if_pos (by simpa using hpc)]
      simpa [h] using hpc
    · exact ⟨⟨a, m⟩, List.mem_append_right _ (List.mem_singleton_self _), rfl, h⟩

theorem PendsAt.foldl_addPending {ps : List PendEntry} {a : Addr} {j : Nat} (h : PendsAt ps a j) (cs : List (Addr × LMask)) :
    PendsAt (cs.foldl (fun ps d => Sys2Proof.Machine.addPending ps d.1 d.2) ps) a j := by
  induction cs generalizing ps with
  | nil => exact h
  | cons c cs ih => exact ih (h.addPending c.1 c.2)

theorem pendsAt_foldl (ps : List PendEntry) {cs : List (Addr × LMask)} {c : Addr × LMask} (hc : c ∈ cs) {j : Nat} (h : c.2.getLsbD j = true) :
    PendsAt (cs.foldl (fun ps d => addPending ps d.1 d.2) ps) c.1 j := by
  induction cs generalizing ps with
  | nil => cases hc
  | cons d cs ih =>
    rcases List.mem_cons.1 hc with rfl | hc
    · exact (pendsAt_addPending_self ps h).foldl_addPending cs
    · exact ih _ hc

/-- Classes of lanes `ts` by target: the addresses differ, and a class holds exactly the lanes that go to its address. -/
structure Classes (cs : List (Addr × LMask)) (ts : List (Nat × Addr)) : Prop where
  apart : (cs.map (·.1)).Nodup
  holds : ∀ t ∈ ts, ∃ c ∈ cs, c.1 = t.2 ∧ c.2.getLsbD t.1 = true
  only : ∀ c ∈ cs, ∀ j, c.2.getLsbD j = true → (j, c.1) ∈ ts

/-- One more lane joins the class of its target. -/
def addTarget (cs : List (Addr × LMask)) (t : Nat × Addr) : List (Addr × LMask) :=
  if cs.any (·.1 = t.2) then cs.map (fun c => if c.1 = t.2 then (c.1, c.2 ||| laneBit t.1) else c) else cs ++ [(t.2, laneBit t.1)]

theorem targetClasses_eq (ts : List (Nat × Addr)) : targetClasses ts = ts.foldl addTarget [] := rfl

theorem laneBit_getLsbD {i : Nat} (h : i < 64) (j : Nat) : (laneBit i).getLsbD j = decide (j = i) := by
  have one : maskOf [i] = laneBit i := BitVec.zero_or
  rw [← one, maskOf_getLsbD]
  by_cases hj : j = i <;> simp [hj, h]

theorem addTarget_fst (cs : List (Addr × LMask)) (t : Nat × Addr) :
    (addTarget cs t).map (·.1) = if cs.any (·.1 = t.2) then cs.map (·.1) else cs.map (·.1) ++ [t.2] := by
  unfold addTarget
  split
  · rw [List.map_map]
    refine List.map_congr_left fun c _ => ?_
    dsimp only [Function.comp]
    split <;> rfl
  · simp

theorem Classes.addTarget {cs : List (Addr × LMask)} {ts : List (Nat × Addr)} (h : Classes cs ts) {t : Nat × Addr} (ht : t.1 < 64) :
    Classes (addTarget cs t) (ts ++ [t]) where
  apart := by
    rw [addTarget_fst]
    split
    · exact h.apart
    · rename_i hn
      refine List.nodup_append.2 ⟨h.apart, List.nodup_singleton _, fun a ha b hb => ?_⟩
      obtain ⟨c, hc, rfl⟩ := List.mem_map.1 ha
      rw [List.mem_singleton.1 hb]
      exact fun he => hn (List.any_eq_true.2 ⟨c, hc, by simpa using he⟩)
  holds u hu := by
    unfold Sys2Proof.Machine.addTarget
    rcases List.mem_append.1 hu with hu | hu
    · obtain ⟨c, hc, hpc, hj⟩ := h.holds u hu
      split
      · refine ⟨_, List.mem_map_of_mem hc, ?_⟩
        split <;> simp [hpc, hj]
      · exact ⟨c, List.mem_append_left _ hc, hpc, hj⟩
    · obtain rfl := List.mem_singleton.1 hu
      split
      · rename_i hany
        obtain ⟨c, hc, hpc⟩ := List.any_eq_true.1 hany
        refine ⟨_, List.mem_map_of_mem hc, ?_⟩
        rw [if_pos (by simpa using hpc)]
        simpa [laneBit_getLsbD ht] using hpc
      · exact ⟨_, List.mem_append_right _ (List.mem_singleton_self _), rfl, by simp [laneBit_getLsbD ht]⟩
  only c hc j hj := by
    unfold Sys2Proof.Machine.addTarget at hc
    split at hc
    · obtain ⟨d, hd, rfl⟩ := List.mem_map.1 hc
      by_cases he : d.1 = t.2
      · rw [if_pos he] at hj ⊢
        rw [BitVec.getLsbD_or, Bool.or_eq_true] at hj
        rcases hj with hj | hj
        · exact List.mem_append_left _ (h.only d hd j hj)
        · rw [laneBit_getLsbD ht, decide_eq_true_eq] at hj
          rw [hj, he]
          exact List.mem_append_right _ (List.mem_singleton_self _)
      · rw [if_neg he] at hj ⊢
        exact List.mem_append_left _ (h.only d hd j hj)
    · rcases List.mem_append.1 hc with hc | hc
      · exact List.mem_append_left _ (h.only c hc j hj)
      · obtain rfl := List.mem_singleton.1 hc
        rw [laneBit_getLsbD ht, decide_eq_true_eq] at hj
        rw [hj]
        exact List.mem_append_right _ (List.mem_singleton_self _)

theorem classes_targetClasses {ts : List (Nat × Addr)} (h : ∀ t ∈ ts, t.1 < 64) : Classes (targetClasses ts) ts := by
  rw [targetClasses_eq]
  suffices fold : ∀ us cs, Classes cs us → Classes (ts.foldl addTarget cs) (us ++ ts) from
    fold [] [] ⟨List.nodup_nil, List.forall_mem_nil _, List.forall_mem_nil _⟩
  induction ts with
  | nil => exact fun us cs hc => by simpa using hc
  | cons t ts ih =>
    intro us cs hc
    have := ih (fun u hu => h u (List.mem_cons_of_mem _ hu)) (us ++ [t]) _ (hc.addTarget (h t List.mem_cons_self))
    simpa using this

/-- The first class is that of the first lane's target. -/
theorem head_targetClasses (t : Nat × Addr) (ts : List (Nat × Addr)) : ∃ m rest, targetClasses (t :: ts) = (t.2, m) :: rest := by
  have keep (c : Addr × LMask) (cs : List (Addr × LMask)) : ∃ m rest, ts.foldl addTarget (c :: cs) = (c.1, m) :: rest := by
    induction ts generalizing c cs with
    | nil => exact ⟨c.2, cs, rfl⟩
    | cons u ts ih =>
      have step : ∃ m rest, addTarget (c :: cs) u = (c.1, m) :: rest := by
        unfold addTarget
        split
        · rw [List.map_cons]
          split
          · exact ⟨_, _, rfl⟩
          · exact ⟨c.2, _, rfl⟩
        · exact ⟨c.2, cs ++ [(u.2, laneBit u.1)], rfl⟩
      obtain ⟨m, rest, hs⟩ := step
      rw [List.foldl_cons, hs]
      exact ih (c.1, m) rest
  exact keep (t.2, laneBit t.1) []

/-- A slice whose lanes each go to a target: the first lane's target is where the slice goes on. -/
theorem placeLevel_scatter (v : Level) (len : Nat) (l : LaneId) (ls : List LaneId) (q : LaneId → Addr)
    (h64 : ∀ m ∈ l :: ls, lidxOf m < 64) (hinj : ∀ a ∈ l :: ls, ∀ b ∈ l :: ls, lidxOf a = lidxOf b → a = b) :
    let w := placeLevel v len ((l :: ls).map (fun m => (lidxOf m, some (q m))))
    w.pc = q l ∧ ∀ m ∈ l :: ls, (q m = q l → w.running.getLsbD (lidxOf m) = true) ∧
      (q m ≠ q l → w.running.getLsbD (lidxOf m) = false ∧ PendsAt w.pending (q m) (lidxOf m)) := by
  have targets : ((l :: ls).map (fun m => (lidxOf m, some (q m)))).filterMap (fun t => t.2.map (fun a => (t.1, a))) =
      (l :: ls).map (fun m => (lidxOf m, q m)) := by
    rw [List.filterMap_map]
    exact congrFun (List.filterMap_eq_map (f := fun m => (lidxOf m, q m))) _
  have classes : Classes (targetClasses ((l :: ls).map (fun m => (lidxOf m, q m)))) ((l :: ls).map (fun m => (lidxOf m, q m))) := by
    refine classes_targetClasses fun t ht => ?_
    obtain ⟨m, hm, rfl⟩ := List.mem_map.1 ht
    exact h64 m hm
  obtain ⟨mask, rest, hc⟩ := head_targetClasses (lidxOf l, q l) (ls.map (fun m => (lidxOf m, q m)))
  have hc' : targetClasses ((l :: ls).map (fun m => (lidxOf m, q m))) = (q l, mask) :: rest := hc
  intro w
  have hw : w = placeLevel v len ((l :: ls).map (fun m => (lidxOf m, some (q m)))) := rfl
  clear_value w
  unfold placeLevel at hw
  rw [targets, hc'] at hw
  rw [hc'] at classes
  subst hw
  refine ⟨rfl, fun m hm => ?_⟩
  obtain ⟨c, hcm, hpc, hbit⟩ := classes.holds (lidxOf m, q m) (List.mem_map_of_mem hm)
  refine ⟨fun hq => ?_, fun hq => ⟨?_, ?_⟩⟩
  · rcases List.mem_cons.1 hcm with rfl | hcm
    · exact hbit
    · have hn := (List.nodup_cons.1 classes.apart).1
      exact absurd (List.mem_map.2 ⟨c, hcm, hpc.trans hq⟩) hn
  · refine Bool.eq_false_iff.2 fun hr => ?_
    obtain ⟨m', hm', he⟩ := List.mem_map.1 (classes.only (q l, mask) List.mem_cons_self _ hr)
    obtain ⟨h1, h2⟩ := Prod.mk.inj he
    rw [hinj m' hm' m hm h1] at h2
    exact hq h2
  · rcases List.mem_cons.1 hcm with rfl | hcm
    · exact absurd hpc.symm hq
    · have pends := pendsAt_foldl (addPending v.pending (v.pc + BitVec.ofNat 56 len)
        (maskOf ((((l :: ls).map (fun m => (lidxOf m, some (q m)))).filter (fun t => t.2.isNone)).map (·.1)))) hcm hbit
      rw [hpc] at pends
      exact pends

/-- The lanes of one slice that run, in ascending order. -/
def runningLanes (s : State) (e : Nat × Nat) : List LaneId :=
  ((slice? s e.1 e.2).map (fun x => ((List.range 4).map (4 * e.2 + ·)).filterMap (fun i =>
    if (levelOf x).running.getLsbD i then some (LaneId.wave e.1 i) else none))).getD []

theorem activeLanes_wave (s : State) (k gang : Nat) : activeLanes s (.wave k gang) = (gangSlices s k gang).flatMap (runningLanes s) := by
  unfold activeLanes
  refine List.flatMap_congr fun e _ => ?_
  unfold runningLanes slice?
  cases (group? s e.1).bind (·.slices[e.2]?) <;> rfl

theorem mem_runningLanes {s : State} {e : Nat × Nat} {l : LaneId} (h : l ∈ runningLanes s e) :
    sliceKey l = some e := by
  obtain ⟨g, n⟩ := e
  unfold runningLanes at h
  cases hx : slice? s g n with
  | none => simp [hx] at h
  | some x =>
    simp only [hx, Option.map_some, Option.getD_some] at h
    obtain ⟨i, hi, hl⟩ := List.mem_filterMap.1 h
    obtain ⟨j, hj, rfl⟩ := List.mem_map.1 hi
    have hj4 := List.mem_range.1 hj
    split at hl
    · rw [← Option.some.inj hl]
      simp only [sliceKey, Option.some.injEq, Prod.mk.injEq, true_and]
      omega
    · cases hl

theorem runningLanes_ascend (s : State) (e : Nat × Nat) : (runningLanes s e).Pairwise (fun a b => lidxOf a < lidxOf b) := by
  unfold runningLanes
  cases slice? s e.1 e.2 with
  | none => exact List.Pairwise.nil
  | some x =>
    rw [Option.map_some, Option.getD_some]
    have ascend : ((List.range 4).map (4 * e.2 + ·)).Pairwise (· < ·) :=
      List.pairwise_map.2 (List.pairwise_lt_range.imp fun h => Nat.add_lt_add_left h _)
    refine ascend.filterMap _ fun i j hij a ha b hb => ?_
    split at ha
    · split at hb
      · rw [← Option.some.inj ha, ← Option.some.inj hb]
        exact hij
      · cases hb
    · cases ha

theorem lanesIn_wave {s : State} {k gang : Nat} (hf : s.focus = .wave k gang) (e : Nat × Nat) :
    lanesIn s e = ((gangSlices s k gang).flatMap (runningLanes s)).filter (fun l => sliceKey l = some e) := by
  rw [lanesIn, issuing, hf, activeLanes_wave]

theorem mem_runningLanes_of_lanesIn {s : State} {k gang : Nat} (hf : s.focus = .wave k gang) {e : Nat × Nat} {l : LaneId}
    (h : l ∈ lanesIn s e) : l ∈ runningLanes s e := by
  rw [lanesIn_wave hf] at h
  obtain ⟨hl, hk⟩ := List.mem_filter.1 h
  obtain ⟨d, -, hd⟩ := List.mem_flatMap.1 hl
  rw [mem_runningLanes hd] at hk
  obtain rfl : d = e := by simpa using hk
  exact hd

/-- The first issuing lane of a slice is the slice's first that runs. -/
theorem head_flatMap_runningLanes {s : State} {gs : List (Nat × Nat)} {e : Nat × Nat} {l : LaneId} {ls : List LaneId}
    (h : (gs.flatMap (runningLanes s)).filter (fun l => sliceKey l = some e) = l :: ls) : ∃ rest, runningLanes s e = l :: rest := by
  induction gs with
  | nil => cases h
  | cons d gs ih =>
    rw [List.flatMap_cons, List.filter_append] at h
    by_cases he : d = e
    · subst he
      rw [List.filter_eq_self.2 fun m hm => by simpa using mem_runningLanes hm] at h
      cases hr : runningLanes s d with
      | nil =>
        rw [hr] at h
        obtain ⟨rest, hrest⟩ := ih h
        cases hr.symm.trans hrest
      | cons a as =>
        rw [hr] at h
        exact ⟨as, congrArg (· :: as) (List.cons.inj h).1⟩
    · rw [List.filter_eq_nil_iff.2 fun m hm => by simpa [mem_runningLanes hm] using he, List.nil_append] at h
      exact ih h

/-- The first issuing lane of a slice is its lowest. -/
theorem lowest_lanesIn {s : State} {k gang : Nat} (hf : s.focus = .wave k gang) {e : Nat × Nat} {l : LaneId} {ls : List LaneId}
    (h : lanesIn s e = l :: ls) : ∀ m ∈ lanesIn s e, lidxOf l ≤ lidxOf m := by
  intro m hm
  obtain ⟨rest, hrest⟩ := head_flatMap_runningLanes ((lanesIn_wave hf e).symm.trans h)
  have hin := mem_runningLanes_of_lanesIn hf hm
  have ascend := runningLanes_ascend s e
  rw [hrest] at hin ascend
  rcases List.mem_cons.1 hin with rfl | hin
  · exact Nat.le_refl _
  · exact Nat.le_of_lt ((List.pairwise_cons.1 ascend).1 m hin)

theorem lidxOf_inj_lanesIn {s : State} {e : Nat × Nat} {a b : LaneId} (ha : a ∈ lanesIn s e) (hb : b ∈ lanesIn s e)
    (h : lidxOf a = lidxOf b) : a = b := by
  obtain ⟨g, n⟩ := e
  obtain ⟨i, rfl, -⟩ := mem_lanesIn.1 ha
  obtain ⟨j, rfl, -⟩ := mem_lanesIn.1 hb
  exact congrArg (LaneId.wave g) h

/-- An issue that takes every lane to a target of its own scatters them. -/
theorem Moved.scattered {s t : State} {len : Nat} {q : LaneId → Addr} (hf : groupsFit s = true)
    (h : Moved s t len (fun l => some (q l))) : Scattered s t q where
  runs g i hi hlow := by
    rcases mem_issuing hi with ⟨k, gang, g', i', x, hfoc, he, hx, -⟩ | ⟨k, x, -, he, -⟩ | ⟨n, x, -, he, -⟩
    · cases he
      have lane {j : Nat} (hj : LaneId.wave g j ∈ issuing s) (hji : j / 4 = i / 4) : LaneId.wave g j ∈ lanesIn s (g, i / 4) :=
        mem_lanesIn.2 ⟨j, rfl, hj, hji⟩
      have level := h.wave g (i / 4) x ⟨i, hi, rfl⟩ hx
      obtain ⟨y, hy, hyl⟩ := Option.map_eq_some_iff.1 level
      obtain ⟨l, ls, hls⟩ := List.exists_cons_of_ne_nil (lanesIn_ne_nil (s := s) (g := g) (n := i / 4) ⟨i, hi, rfl⟩)
      have first : l = .wave g i := by
        have hl : l ∈ lanesIn s (g, i / 4) := hls ▸ List.mem_cons_self
        obtain ⟨j, rfl, hj, hji⟩ := mem_lanesIn.1 hl
        have below : j ≤ i := lowest_lanesIn hfoc hls _ (lane hi rfl)
        rw [Nat.le_antisymm below (hlow j hj hji)]
      subst first
      have place := placeLevel_scatter (levelOf x) len (.wave g i) ls q
        (fun m hm => lidx_issuing hf (List.mem_of_mem_filter (hls ▸ hm : m ∈ lanesIn s (g, i / 4))))
        (fun a ha b hb => lidxOf_inj_lanesIn (hls ▸ ha) (hls ▸ hb))
      rw [← hls, ← hyl] at place
      exact ⟨y, hy, place.1, fun j hj hji => place.2 _ (lane hj hji)⟩
    · cases he
    · cases he
  grip k hk := by
    rw [h.grip k hk]
    rcases mem_issuing hk with ⟨_, _, _, _, _, -, he, -⟩ | ⟨k', x, -, he, -, hx⟩ | ⟨n, x, -, he, -⟩
    · cases he
    · cases he
      rw [hx]
      rfl
    · cases he
  mgmt n hn := by
    rw [h.mgmt n hn]
    rcases mem_issuing hn with ⟨_, _, _, _, _, -, he, -⟩ | ⟨k, x, -, he, -⟩ | ⟨m, x, -, he, -, hx⟩
    · cases he
    · cases he
    · cases he
      rw [hx]
      rfl

/-! ### Targets -/

theorem branchTarget_eq {n : Nat} (pc : Addr) (off : BitVec n) : branchTarget pc off = BitVec.ofInt 56 (pc.toNat + 2 * off.toInt) := by
  have hpc : pc = BitVec.ofInt 56 pc.toNat := by simp
  unfold branchTarget BitVec.signExtend
  conv_lhs => rw [hpc]
  rw [← BitVec.ofInt_add, ← BitVec.ofInt_add]
  congr 1
  omega

theorem pairNat_eq (lo hi : Word) : pairNat lo hi = (hi ++ lo).toNat := by
  rw [BitVec.toNat_append, Nat.shiftLeft_eq, ← Nat.shiftLeft_eq, ← Nat.shiftLeft_add_eq_or_of_lt lo.isLt, Nat.shiftLeft_eq, pairNat]
  omega

/-- RET goes to an even address below 2^56. -/
theorem retAct_done {v : DWord} (h : v.toNat < 2 ^ 56 ∧ v.toNat % 2 = 0) : retAct v.toNat = .done [] 0 (some (v.extractLsb' 0 56)) := by
  have low : BitVec.ofNat 56 v.toNat = v.extractLsb' 0 56 := by
    apply BitVec.eq_of_toNat_eq
    simp
  have even : bit v.toNat 0 = false := by
    simp [bit, h.2]
  rw [retAct, if_neg (Nat.not_le.2 h.1), even, low]
  rfl

/-! ### The instructions -/

theorem execBra_branched (ea : Bool) (a : Reg) (off : BitVec 18) (s : State) (hr : ready s (braForm ea a) = true) :
    ∃ t, execBra ea a off s = .next t ∧ Untouched s t ∧
      Branched s t (fun l => operand s (braForm ea a) l 0 ≠ 0) (branchTarget (focusPc s s.focus) off) := by
  obtain ⟨t, ht, hu, hm⟩ := runEntry_untouched s (.bra ea a off)
    { pureEntry (braForm ea a) (fun _ vs => .done [] 0 (if val vs 0 ≠ 0 then some (branchTarget (focusPc s s.focus) off) else none)) with
      branch := true }
    (fun l => if operand s (braForm ea a) l 0 ≠ 0 then some (branchTarget (focusPc s s.focus) off) else none)
    hr (fun _ _ => rfl) (fun _ _ => rfl) rfl rfl fun _ _ => rfl
  replace hm : Moved s t 4 _ := hm
  exact ⟨t, ht, hu, Moved.branched (ready_fit hr) (by simpa only [decide_eq_true_eq] using hm)⟩

theorem execBrz_branched (ea : Bool) (a : Reg) (off : BitVec 18) (s : State) (hr : ready s (braForm ea a) = true) :
    ∃ t, execBrz ea a off s = .next t ∧ Untouched s t ∧
      Branched s t (fun l => operand s (braForm ea a) l 0 = 0) (branchTarget (focusPc s s.focus) off) := by
  obtain ⟨t, ht, hu, hm⟩ := runEntry_untouched s (.brz ea a off)
    { pureEntry (braForm ea a) (fun _ vs => .done [] 0 (if val vs 0 = 0 then some (branchTarget (focusPc s s.focus) off) else none)) with
      branch := true }
    (fun l => if operand s (braForm ea a) l 0 = 0 then some (branchTarget (focusPc s s.focus) off) else none)
    hr (fun _ _ => rfl) (fun _ _ => rfl) rfl rfl fun _ _ => rfl
  replace hm : Moved s t 4 _ := hm
  exact ⟨t, ht, hu, Moved.branched (ready_fit hr) (by simpa only [decide_eq_true_eq] using hm)⟩

theorem execJmp_branched (off : BitVec 25) (s : State) (hr : ready s (plainForm true) = true) :
    ∃ t, execJmp off s = .next t ∧ Untouched s t ∧ Branched s t (fun _ => true) (branchTarget (focusPc s s.focus) off) := by
  obtain ⟨t, ht, hu, hm⟩ := runEntry_untouched s (.jmp off)
    (pureEntry (plainForm true) (fun _ _ => .done [] 0 (some (branchTarget (focusPc s s.focus) off))))
    (fun _ => some (branchTarget (focusPc s s.focus) off))
    hr (fun _ _ => rfl) (fun _ _ => rfl) rfl rfl fun _ _ => rfl
  exact ⟨t, ht, hu, Moved.branched (ready_fit hr) hm⟩

/-- The return address that CALL leaves, in two registers. -/
def returnPair (pc : Addr) : List (Nat × Word) := [(54, w32 (pc + 4).toNat), (55, w32 ((pc + 4).toNat / 2 ^ 32))]

theorem returnPair_eq (pc : Addr) :
    returnPair pc = [(54, (pc + 4).extractLsb' 0 32), (55, BitVec.ofNat 32 ((pc + 4).toNat / 2 ^ 32))] := by
  have low : w32 (pc + 4).toNat = (pc + 4).extractLsb' 0 32 := by
    apply BitVec.eq_of_toNat_eq
    simp [w32]
  rw [returnPair, low]
  rfl

theorem execCall_branched (off : BitVec 25) (s : State) (hr : ready s (plainForm true) = true) :
    ∃ t, execCall off s = .next t ∧ Wrote s t (fun _ => returnPair (focusPc s s.focus)) ∧ Raised s t noFlags ∧ Kept s t ∧
      Branched s t (fun _ => true) (branchTarget (focusPc s s.focus) off) := by
  have has (l : LaneId) (hl : l ∈ issuing s) : ∀ w ∈ returnPair (focusPc s s.focus), laneHas s l w.1 := by
    intro w hw
    refine laneHas_of hl fun _ _ _ => .inl ?_
    simp only [returnPair, List.mem_cons, List.not_mem_nil, or_false] at hw
    rcases hw with rfl | rfl
    · exact (by decide : 54 < 56)
    · exact (by decide : 55 < 56)
  obtain ⟨t, ht, hw, hf, hk, hm⟩ := runEntry_writes s (.call off)
    (pureEntry (plainForm true) (fun _ _ => .done (returnPair (focusPc s s.focus)) 0 (some (branchTarget (focusPc s s.focus) off))))
    (fun _ => returnPair (focusPc s s.focus)) noFlags
    (fun _ => some (branchTarget (focusPc s s.focus) off)) hr (fun _ _ => rfl) (fun _ _ => rfl) rfl rfl (fun _ _ => rfl)
    has fun _ _ => by simp [returnPair]
  exact ⟨t, ht, hw, hf, hk, Moved.branched (ready_fit hr) hm⟩

theorem execRet_scattered (ea : Bool) (a : Reg) (s : State) (hr : ready s { plainForm true with srcs := srcPair 0 a ea, pairs := [a] } = true)
    (hq : ∀ l ∈ issuing s, (operandWide s { plainForm true with srcs := srcPair 0 a ea, pairs := [a] } l 0).toNat < 2 ^ 56 ∧
      (operandWide s { plainForm true with srcs := srcPair 0 a ea, pairs := [a] } l 0).toNat % 2 = 0) :
    ∃ t, execRet ea a s = .next t ∧ Untouched s t ∧
      Scattered s t (fun l => (operandWide s { plainForm true with srcs := srcPair 0 a ea, pairs := [a] } l 0).extractLsb' 0 56) := by
  obtain ⟨t, ht, hu, hm⟩ := runEntry_untouched s (.ret ea a)
    { pureEntry { plainForm true with srcs := srcPair 0 a ea, pairs := [a] } (fun _ vs => retAct (pairNat (val vs 0) (val vs 1))) with
      branch := true }
    (fun l => some ((operandWide s { plainForm true with srcs := srcPair 0 a ea, pairs := [a] } l 0).extractLsb' 0 56)) hr
    (fun _ _ => rfl) (fun _ _ => rfl) rfl rfl
    fun l hl => (congrArg retAct (pairNat_eq _ _)).trans (retAct_done (hq l hl))
  exact ⟨t, ht, hu, Moved.scattered (ready_fit hr) hm⟩

end Sys2Proof.Machine
end

section
open Sys2Proof Sys2Proof.Machine

/-- Settles O14: the issue completes in every lane, with the target for the lanes that take the branch, and what the end of such an issue
makes of the levels is `Moved.branched` and `Moved.scattered`. -/
theorem branchesJumpsAndReturns : Obligations.BranchesJumpsAndReturns := by
  unfold Obligations.BranchesJumpsAndReturns
  refine ⟨fun ea a off s hr => ⟨?_, ?_⟩, fun off ea a s => ⟨fun hr => ⟨?_, ?_⟩, fun hr hq => ?_⟩⟩
  · rw [← branchTarget_eq]
    exact execBra_branched ea a off s hr
  · rw [← branchTarget_eq]
    exact execBrz_branched ea a off s hr
  · rw [← branchTarget_eq]
    exact execJmp_branched off s hr
  · rw [← branchTarget_eq, ← returnPair_eq]
    obtain ⟨t, ht, hw, hf, hk, hb⟩ := execCall_branched off s hr
    exact ⟨t, ht, hk, hf, hb, hw⟩
  · exact execRet_scattered ea a s hr hq

end

section
/-! What memory and its caches never change, whatever is accessed through them: the contexts, their registers and the images. In the order
of the model's files, each operation leaves the contexts because it writes no field of theirs, or because it is put together from
operations that do. -/

namespace Sys2Proof.Machine

/-- What memory and its caches never change: the groups, the images, the grip and the management contexts, and who issues. -/
structure Contexts where
  groups : Tab Group
  images : List Image
  grips : Nat → Option Grip
  mgmt : List Mgmt
  focus : Focus

def contexts (s : State) : Contexts := ⟨s.work.groups, s.work.images, grip? s, s.units.mgmt, s.focus⟩

/-- `t` has the contexts of `s`. -/
def ContextsKept (s t : State) : Prop := contexts t = contexts s

theorem ContextsKept.refl (s : State) : ContextsKept s s := rfl

theorem ContextsKept.trans {a b c : State} (h : ContextsKept a b) (k : ContextsKept b c) : ContextsKept a c := Eq.trans k h

theorem ContextsKept.foldl {α : Type} (f : State → α → State) (h : ∀ s a, ContextsKept s (f s a)) (as : List α) (s : State) :
    ContextsKept s (as.foldl f s) := by
  induction as generalizing s with
  | nil => exact ContextsKept.refl s
  | cons a as ih => exact (h s a).trans (ih _)

theorem contextsKept_storeMem (s : State) (pa : Nat) (bs : List Byte) : ContextsKept s (storeMem s pa bs) := rfl

theorem contextsKept_storeSnoop (s : State) (pa : Nat) (bs : List Byte) : ContextsKept s (storeSnoop s pa bs) := rfl

theorem contextsKept_snoopRead (s : State) (line : Nat) : ContextsKept s (snoopRead s line) := by
  unfold snoopRead
  split <;> rfl

/-- Teams that keep their grip contexts may change otherwise. -/
theorem contextsKept_teams {s : State} {ts : Tab Team}
    (h : ∀ j, (tget? ts j).bind (·.grip) = (tget? s.work.teams j).bind (·.grip)) :
    ContextsKept s { s with work := { s.work with teams := ts } } := by
  have hg : grip? { s with work := { s.work with teams := ts } } = grip? s := funext h
  simp only [ContextsKept, contexts, hg]

theorem contextsKept_modTeam (s : State) (k : Nat) (f : Team → Team) (hf : ∀ x, (f x).grip = x.grip) : ContextsKept s (modTeam s k f) := by
  refine contextsKept_teams fun j => ?_
  rw [tget?_tmod]
  split
  · rename_i hj
    subst hj
    cases tget? s.work.teams j <;> simp [hf]
  · rfl

theorem bind_tget?_map {α β : Type} (t : Tab α) (f : Nat × α → Nat × α) (hk : ∀ e, (f e).1 = e.1) (p : α → Option β)
    (hp : ∀ e, p (f e).2 = p e.2) (j : Nat) : (tget? (t.map f) j).bind p = (tget? t j).bind p := by
  induction t with
  | nil => rfl
  | cons e t ih =>
    simp only [List.map_cons, tget?, hk]
    split
    · exact hp e
    · exact ih

/-! Updates that leave memory alone. -/

theorem contextsKept_modPart (s : State) (p : Nat) (f : Part → Part) : ContextsKept s (modPart s p f) := rfl

theorem contextsKept_modCore (s : State) (c : Nat) (f : Core → Core) : ContextsKept s (modCore s c f) := rfl

theorem contextsKept_tlbDrop (s : State) (f : TlbEntry → Bool) : ContextsKept s (tlbDrop s f) := rfl

theorem contextsKept_tlbFill (s : State) (c : Nat) (e : TlbEntry) : ContextsKept s (tlbFill s c e) := rfl

theorem contextsKept_raiseEvent (s : State) (r : List Byte) : ContextsKept s (raiseEvent s r) := rfl

theorem contextsKept_charge (s : State) (p lo n : Nat) : ContextsKept s (charge s p lo n) := rfl

theorem contextsKept_mergeL1 (s : State) (c base : Nat) (m : BitVec 128) (d : List Byte) : ContextsKept s (mergeL1 s c base m d) :=
  rfl

theorem contextsKept_patchL1 (s : State) (c pa : Nat) (bs : List Byte) (dirty : Bool) : ContextsKept s (patchL1 s c pa bs dirty) :=
  rfl

theorem contextsKept_dropTags (s : State) (f : RelTag → Bool) : ContextsKept s (dropTags s f) := rfl

theorem contextsKept_stashLeave (s : State) (tm : Nat) (w : Window) (sec pa : Nat) (u : Bool) :
    ContextsKept s (stashLeave s tm w sec pa u) :=
  contextsKept_modTeam _ _ _ fun _ => rfl

theorem contextsKept_stashFails (s : State) (tm va c : Nat) : ContextsKept s (stashFails s tm va c) :=
  contextsKept_modTeam _ _ _ fun _ => rfl

theorem contextsKept_poolEvent (s : State) (p : Nat) : ContextsKept s (poolEvent s p) := rfl

theorem contextsKept_addRead (s : State) (p : Nat) (r : PageRead) : ContextsKept s (addRead s p r) := rfl

theorem contextsKept_movePages (s : State) (p va f : Nat) : ContextsKept s (movePages s p va f) :=
  contextsKept_teams (bind_tget?_map _ _ (fun e => by split <;> rfl) _ fun e => by split <;> rfl)

theorem contextsKept_poisonAt (s : State) (as : List Nat) : ContextsKept s (poisonAt s as) := rfl

theorem contextsKept_countSent (s : State) (p d : Nat) : ContextsKept s (countSent s p d) := rfl

theorem contextsKept_countGot (s : State) (p d : Nat) : ContextsKept s (countGot s p d) := rfl

theorem contextsKept_poisonMem (s : State) (pa n : Nat) : ContextsKept s (poisonMem s pa n) := rfl

theorem contextsKept_keepHomes (s : State) (home line : Nat) (hit : Nat → Bool) : ContextsKept s (keepHomes s home line hit) := by
  unfold keepHomes
  split <;> exact rfl

theorem contextsKept_noteReply (s : State) (p : Posted) : ContextsKept s (noteReply s p) := by
  unfold noteReply
  split
  · exact contextsKept_countGot _ _ _
  · exact ContextsKept.refl _

theorem contextsKept_countAccess (s : State) (l : LaneId) (g load : Bool) (pa : Nat) : ContextsKept s (countAccess s l g load pa) := by
  unfold countAccess
  dsimp only
  split
  · split <;> exact rfl
  · split <;> exact rfl

/-! Bytes written at a home. -/

theorem contextsKept_landL2 (s : State) (p : Nat) (g : Bool) (pa : Nat) (bs : List Byte) : ContextsKept s (landL2 s p g pa bs) :=
  (contextsKept_keepHomes s _ _ _).trans (contextsKept_storeSnoop _ _ _)

theorem contextsKept_landMask (s : State) (p : Nat) (g : Bool) (base : Nat) (m : BitVec 128) (d : List Byte) :
    ContextsKept s (landMask s p g base m d) := by
  refine (contextsKept_keepHomes s _ _ _).trans (ContextsKept.foldl _ (fun s i => ?_) _ _)
  split
  · exact contextsKept_storeSnoop _ _ _
  · exact ContextsKept.refl _

theorem contextsKept_ownBack (s : State) (l : L2Line) : ContextsKept s (ownBack s l) :=
  (contextsKept_keepHomes s _ _ _).trans (ContextsKept.foldl _ (fun _ _ => contextsKept_storeSnoop _ _ _) _ _)

/-! Stores of the device itself, after the stash sectors that they recall. -/

theorem contextsKept_stashLand (s : State) (t : Team) (w : Window) (sec p : Nat) (g : Bool) (pa : Nat) :
    ContextsKept s (stashLand s t w sec p g pa) := (contextsKept_landMask _ _ _ _ _ _).trans (contextsKept_poisonAt _ _)

theorem contextsKept_setD (s : State) (e : TlbEntry) : ContextsKept s (setD s e) := contextsKept_storeSnoop _ _ _

theorem contextsKept_recallOne (s : State) (h : Nat × Window × Nat) : ContextsKept s (recallOne s h) := by
  have marked : ∀ e : TlbEntry, ContextsKept s (if e.dirty then s else setD s e) := by
    intro e
    split
    · exact ContextsKept.refl _
    · exact contextsKept_setD _ _
  unfold recallOne
  split
  · exact ContextsKept.refl _
  · dsimp only
    split
    · exact contextsKept_stashLeave _ _ _ _ _ _
    · split
      · exact (marked _).trans ((contextsKept_stashLand _ _ _ _ _ _ _).trans (contextsKept_stashLeave _ _ _ _ _ _))
      · exact contextsKept_stashFails _ _ _ _
      · exact ContextsKept.refl _

theorem contextsKept_recallDev (s : State) (pa n : Nat) : ContextsKept s (recallDev s pa n) :=
  ContextsKept.foldl _ (fun _ _ => ContextsKept.foldl _ (fun _ _ => contextsKept_recallOne _ _) _ _) _ s

theorem contextsKept_storeDev (s : State) (pa : Nat) (bs : List Byte) : ContextsKept s (storeDev s pa bs) :=
  (contextsKept_recallDev s pa bs.length).trans (contextsKept_storeSnoop _ pa bs)

/-! The frame pool and page service. -/

theorem contextsKept_takeFrame (s t : State) (p f : Nat) (h : takeFrame s p = some (f, t)) : ContextsKept s t := by
  unfold takeFrame at h
  split at h
  · cases h
  · simp only [Option.some.injEq, Prod.mk.injEq] at h
    obtain ⟨_, rfl⟩ := h
    exact contextsKept_storeDev _ _ _

theorem contextsKept_giveFrame (s : State) (p f : Nat) : ContextsKept s (giveFrame s p f) := by
  unfold giveFrame
  dsimp only
  split
  · exact rfl
  · exact (contextsKept_storeDev _ _ _).trans (contextsKept_storeDev _ _ _)

theorem contextsKept_startRead (s : State) (p va entry e : Nat) : ContextsKept s (startRead s p va entry e) := by
  have either : ∀ (u : State) (v : Nat), ContextsKept u (if bit e 15 then storeDev u entry (leBytes 8 v) else u) := by
    intro u v
    split
    · exact contextsKept_storeDev _ _ _
    · exact ContextsKept.refl _
  have other : ∀ (u : State) (v : Nat), ContextsKept u (if bit e 15 then u else storeDev u entry (leBytes 8 v)) := by
    intro u v
    split
    · exact ContextsKept.refl _
    · exact contextsKept_storeDev _ _ _
  unfold startRead
  dsimp only
  split
  · exact ContextsKept.refl _
  · split
    · exact (either s _).trans (contextsKept_poolEvent _ _)
    · rename_i f u h
      exact (contextsKept_takeFrame s u p f h).trans ((other u _).trans (contextsKept_addRead _ _ _))

theorem contextsKept_startCow (s : State) (p va entry e : Nat) : ContextsKept s (startCow s p va entry e) := by
  unfold startCow
  split
  · exact ContextsKept.refl _
  · exact contextsKept_addRead _ _ _

theorem contextsKept_noteAccess (s : State) (core p va : Nat) (a : Acc) : ContextsKept s (noteAccess s core p va a) := by
  unfold noteAccess
  split
  · exact ContextsKept.refl _
  · split
    · split
      · exact (contextsKept_storeDev _ _ _).trans (contextsKept_tlbFill _ _ _)
      · exact contextsKept_tlbFill _ _ _
    · exact contextsKept_startRead _ _ _ _ _
    · split
      · exact contextsKept_poolEvent _ _
      · exact contextsKept_startCow _ _ _ _ _
    · exact ContextsKept.refl _
    · exact ContextsKept.refl _

theorem contextsKept_retireDesc (s : State) (p d : Nat) : ContextsKept s (retireDesc s p d) :=
  (contextsKept_modPart s p _).trans ((contextsKept_storeDev _ _ _).trans (contextsKept_tlbDrop _ _))

theorem contextsKept_installOwn (s : State) (p va entry e f : Nat) (taken : Bool) : ContextsKept s (installOwn s p va entry e f taken) := by
  unfold installOwn
  split
  · exact (contextsKept_storeDev _ _ _).trans ((contextsKept_tlbDrop _ _).trans (contextsKept_movePages _ _ _ _))
  · split
    · exact contextsKept_giveFrame _ _ _
    · exact ContextsKept.refl _

theorem contextsKept_cowBegin (s : State) (p va entry e : Nat) : ContextsKept s (cowBegin s p va entry e).1 := by
  unfold cowBegin
  dsimp only
  split
  · exact ContextsKept.refl _
  · split
    · dsimp only
      exact (contextsKept_storeDev s _ _).trans ((contextsKept_retireDesc _ p _).trans (contextsKept_installOwn _ _ _ _ _ _ _))
    · split
      · exact contextsKept_poolEvent _ _
      · rename_i f u h
        dsimp only
        exact (contextsKept_takeFrame s u p f h).trans ((contextsKept_storeDev _ _ _).trans (contextsKept_poisonAt _ _))

theorem contextsKept_cowEnd (s : State) (p va entry e f : Nat) : ContextsKept s (cowEnd s p va entry e f) := by
  have retired : ∀ (u : State) (c : Nat), ContextsKept u
      (if c = 1 then retireDesc (giveFrame u p (descFrame u (entryDesc e))) p (entryDesc e) else u) := by
    intro u c
    split
    · exact (contextsKept_giveFrame _ _ _).trans (contextsKept_retireDesc _ _ _)
    · exact ContextsKept.refl _
  unfold cowEnd
  dsimp only
  exact (contextsKept_storeDev s _ _).trans ((retired _ _).trans (contextsKept_installOwn _ _ _ _ _ _ _))

/-! Writebacks, each over the access to a line's tag that it makes. -/

/-- An access to tags that keeps the contexts. -/
def TouchKeepsContexts (touch : Touch) : Prop := ∀ s p g w pa, ContextsKept s (touch s p g w pa)

theorem contextsKept_stashCleanOne {touch : Touch} (k : TouchKeepsContexts touch) (s : State) (tm side num sec : Nat) (u : Bool) :
    ContextsKept s (stashCleanOne touch s tm side num sec u) := by
  unfold stashCleanOne
  split
  · exact ContextsKept.refl _
  · split
    · exact ContextsKept.refl _
    · split
      · exact contextsKept_stashLeave _ _ _ _ _ _
      · extract_lets p va core
        split
        · exact (contextsKept_noteAccess _ _ _ _ _).trans ((k _ _ _ _ _).trans ((contextsKept_stashLand _ _ _ _ _ _ _).trans
            ((contextsKept_mergeL1 _ _ _ _ _).trans (contextsKept_stashLeave _ _ _ _ _ _))))
        · exact contextsKept_stashFails _ _ _ _
        · exact contextsKept_stashFails _ _ _ _
        · split
          · exact contextsKept_stashFails _ _ _ _
          · exact contextsKept_noteAccess _ _ _ _ _
        · exact ContextsKept.refl _

theorem contextsKept_recallWith {touch : Touch} (k : TouchKeepsContexts touch) (s : State) (pa : Nat) :
    ContextsKept s (recallWith touch s pa) :=
  ContextsKept.foldl _ (fun _ _ => contextsKept_stashCleanOne k _ _ _ _ _ _) _ s

theorem contextsKept_cleanWith {touch : Touch} (k : TouchKeepsContexts touch) (s : State) (c : Nat) (x : L1Sector) :
    ContextsKept s (cleanWith touch s c x) := by
  unfold cleanWith
  split
  · exact ContextsKept.refl _
  · exact (contextsKept_recallWith k _ _).trans ((k _ _ _ _ _).trans ((contextsKept_landMask _ _ _ _ _ _).trans
      (contextsKept_modCore _ _ _)))

theorem contextsKept_writebackWith {touch : Touch} (k : TouchKeepsContexts touch) (s : State) (c : Nat) :
    ContextsKept s (writebackWith touch s c) :=
  ContextsKept.foldl _ (fun _ _ => contextsKept_cleanWith k _ _ _) _ s

theorem contextsKept_evictWith {wb : State → Nat → State} (k : ∀ s c, ContextsKept s (wb s c)) (s : State) (l : L2Line) :
    ContextsKept s (evictWith wb s l) := by
  have tagged : ContextsKept s (match s.units.tags.find? (fun t => t.line = l.line) with
      | some t => wb (dropTags s (fun u => u.line = l.line)) t.core
      | none => s) := by
    split
    · exact (contextsKept_dropTags _ _).trans (k _ _)
    · exact ContextsKept.refl _
  unfold evictWith
  extract_lets u
  have h : ContextsKept s u := tagged
  refine h.trans ?_
  clear_value u
  split
  · exact ContextsKept.refl _
  · exact (contextsKept_charge _ _ _ _).trans ((contextsKept_ownBack _ _).trans (rfl))

theorem touchKeepsContexts_touchWith {wb : State → Nat → State} (k : ∀ s c, ContextsKept s (wb s c)) :
    TouchKeepsContexts (touchWith wb) := by
  intro s p g w pa
  unfold touchWith
  split
  · exact ContextsKept.refl _
  · extract_lets line u sec home present sameSet u0 units u1 missing u2
    have h0 : ContextsKept s u := contextsKept_snoopRead _ _
    have h1 : ContextsKept u u1 := by
      dsimp only [u1]
      split
      · exact ContextsKept.refl _
      · refine ContextsKept.trans (b := u0) ?_ (rfl)
        dsimp only [u0]
        split
        · exact ContextsKept.refl _
        · split
          · exact contextsKept_evictWith k _ _
          · exact ContextsKept.refl _
    have h2 : ContextsKept u1 u2 := by
      dsimp only [u2]
      split
      · exact contextsKept_charge _ _ _ _
      · exact ContextsKept.refl _
    exact h0.trans (h1.trans (h2.trans (rfl)))

theorem touchKeepsContexts_touchFuel (n : Nat) : TouchKeepsContexts (touchFuel n) := by
  induction n with
  | zero => exact touchKeepsContexts_touchWith (fun s _ => ContextsKept.refl s)
  | succ n ih => exact touchKeepsContexts_touchWith (fun s c => contextsKept_writebackWith ih s c)

theorem touchKeepsContexts_touchL2 : TouchKeepsContexts touchL2 := fun s => touchKeepsContexts_touchFuel s.units.tags.length s

theorem contextsKept_touchL2 (s : State) (p : Nat) (g write : Bool) (pa : Nat) : ContextsKept s (touchL2 s p g write pa) :=
  touchKeepsContexts_touchL2 s p g write pa

theorem contextsKept_cleanSector (s : State) (c : Nat) (x : L1Sector) : ContextsKept s (cleanSector s c x) :=
  contextsKept_cleanWith touchKeepsContexts_touchL2 s c x

theorem contextsKept_writebackL1 (s : State) (c : Nat) : ContextsKept s (writebackL1 s c) :=
  contextsKept_writebackWith touchKeepsContexts_touchL2 s c

theorem contextsKept_evictLine (s : State) (l : L2Line) : ContextsKept s (evictLine s l) :=
  contextsKept_evictWith contextsKept_writebackL1 s l

theorem contextsKept_recallStash (s : State) (pa : Nat) : ContextsKept s (recallStash s pa) :=
  contextsKept_recallWith touchKeepsContexts_touchL2 s pa

theorem contextsKept_clearTag (s : State) (t : RelTag) : ContextsKept s (clearTag s t) :=
  (contextsKept_dropTags s _).trans (contextsKept_writebackL1 _ t.core)

theorem contextsKept_promote (s : State) (team : Option Nat) (line : Nat) : ContextsKept s (promote s team line) := by
  unfold promote
  split
  · split
    · exact ContextsKept.refl _
    · exact contextsKept_clearTag _ _
  · exact ContextsKept.refl _

theorem contextsKept_shareStore (s : State) (pa : Nat) (bs : List Byte) : ContextsKept s (shareStore s pa bs) := by
  refine ContextsKept.foldl _ (fun s h => ?_) _ s
  dsimp only
  split
  · split
    · exact contextsKept_modTeam _ _ _ fun _ => rfl
    · exact ContextsKept.refl _
  · exact ContextsKept.refl _

theorem contextsKept_writeL2 (s : State) (p : Nat) (g : Bool) (pa : Nat) (bs : List Byte) : ContextsKept s (writeL2 s p g pa bs) :=
  (contextsKept_recallStash s pa).trans ((contextsKept_touchL2 _ p g true pa).trans ((contextsKept_landL2 _ p g pa bs).trans
    (contextsKept_shareStore _ pa bs)))

theorem contextsKept_fillL1 (s : State) (c p : Nat) (g : Bool) (pa : Nat) : ContextsKept s (fillL1 s c p g pa) := by
  have room : ∀ (b : Prop) [Decidable b] (xs : List L1Sector) (f : Core → Core), ContextsKept s
      (if b then s else modCore (xs.foldl (fun s x => cleanSector s c x) s) c f) := by
    intro b _ xs f
    split
    · exact ContextsKept.refl _
    · exact (ContextsKept.foldl _ (fun _ _ => contextsKept_cleanSector _ _ _) _ s).trans (contextsKept_modCore _ _ _)
  unfold fillL1
  dsimp only
  split
  · exact (contextsKept_touchL2 s p g false pa).trans (contextsKept_mergeL1 _ _ _ _ _)
  · exact (room _ _ _).trans ((contextsKept_touchL2 _ p g false pa).trans (contextsKept_modCore _ _ _))

theorem contextsKept_invalidateL1 (s : State) (c : Nat) : ContextsKept s (invalidateL1 s c) :=
  (contextsKept_writebackL1 s c).trans (contextsKept_modCore _ _ _)

/-! The scratchpad and its stash windows. -/

theorem grip_setWindow (t : Team) (w : Window) : (setWindow t w).grip = t.grip := rfl

theorem grip_scratchPut (t : Team) (side off : Nat) (bs : List Byte) : (scratchPut t side off bs).grip = t.grip := rfl

theorem grip_fillWindow (t : Team) (w : Window) (n pa : Nat) (bs : List Byte) (bad : List Nat) :
    (fillWindow t w n pa bs bad).grip = t.grip := by
  simp only [fillWindow, grip_setWindow, grip_scratchPut]

theorem contextsKept_stashFillAt (s : State) (tm side off : Nat) : ContextsKept s (stashFillAt s tm side off) := by
  have own : ∀ (u : State) (c : Nat) (o : Option L1Sector),
      ContextsKept u (match o with | some y => cleanSector u c y | none => u) := by
    intro u c o
    cases o with
    | none => exact ContextsKept.refl _
    | some y => exact contextsKept_cleanSector _ _ _
  unfold stashFillAt
  split
  · exact ContextsKept.refl _
  · split
    · exact ContextsKept.refl _
    · split
      · exact ContextsKept.refl _
      · dsimp only
        split
        · split
          · exact ContextsKept.refl _
          · exact (contextsKept_noteAccess s _ _ _ _).trans ((own _ _ _).trans ((contextsKept_touchL2 _ _ _ _ _).trans
              ((contextsKept_mergeL1 _ _ _ _ _).trans (contextsKept_modTeam _ _ _ fun _ => grip_fillWindow _ _ _ _ _ _))))
        · exact contextsKept_noteAccess _ _ _ _ _

theorem contextsKept_scratchReady (s : State) (tm side off n : Nat) : ContextsKept s (scratchReady s tm side off n) :=
  ContextsKept.foldl _ (fun _ _ => contextsKept_stashFillAt _ _ _ _) _ s

/-- A fold over a team's windows leaves its grip context alone. -/
theorem grip_foldl {α : Type} (f : Team → α → Team) (h : ∀ t a, (f t a).grip = t.grip) (as : List α) (t : Team) :
    (as.foldl f t).grip = t.grip := by
  induction as generalizing t with
  | nil => rfl
  | cons a as ih => exact (ih _).trans (h t a)

theorem contextsKept_scratchStore (s : State) (tm side off : Nat) (bs : List Byte) : ContextsKept s (scratchStore s tm side off bs) := by
  refine (contextsKept_scratchReady s tm side off bs.length).trans (contextsKept_modTeam _ _ _ fun x => ?_)
  dsimp only
  rw [grip_foldl _ (fun t i => by split <;> rfl)]
  rfl

theorem contextsKept_stashClean (s : State) (tm side num sec : Nat) (unfill : Bool) :
    ContextsKept s (stashClean s tm side num sec unfill) := by
  have others : ∀ (b : Prop) [Decidable b] (hs : List (Nat × Window × Nat)), ContextsKept s (if b then hs.foldl (fun s h =>
      if h.1 = tm && h.2.1.side = side && h.2.1.num = num then s
      else stashCleanOne touchL2 s h.1 h.2.1.side h.2.1.num h.2.2 true) s else s) := by
    intro b _ hs
    split
    · refine ContextsKept.foldl _ (fun s h => ?_) _ s
      split
      · exact ContextsKept.refl _
      · exact contextsKept_stashCleanOne touchKeepsContexts_touchL2 _ _ _ _ _ _
    · exact ContextsKept.refl _
  unfold stashClean
  split
  · exact ContextsKept.refl _
  · exact (others _ _).trans (contextsKept_stashCleanOne touchKeepsContexts_touchL2 _ _ _ _ _ _)

theorem contextsKept_stashCleanAll (s : State) (tm side : Nat) (unfill : Bool) : ContextsKept s (stashCleanAll s tm side unfill) := by
  unfold stashCleanAll
  split
  · exact ContextsKept.refl _
  · refine ContextsKept.foldl _ (fun s w => ?_) _ s
    split
    · exact ContextsKept.foldl _ (fun _ _ => contextsKept_stashClean _ _ _ _ _ _) _ s
    · exact ContextsKept.refl _

theorem contextsKept_releaseWide (s : State) (tm core side : Nat) : ContextsKept s (releaseWide s tm core side) :=
  (contextsKept_stashCleanAll s tm side false).trans ((contextsKept_writebackL1 _ core).trans (contextsKept_dropTags _ _))

/-! The device's own accesses. -/

theorem contextsKept_devPromote (s : State) (p va : Nat) : ContextsKept s (devPromote s p va) := by
  unfold devPromote
  split
  · exact contextsKept_promote _ _ _
  · exact ContextsKept.refl _

theorem contextsKept_devWrite (s t : State) (p va : Nat) (bs : List Byte) (h : devWrite s p va bs = some t) : ContextsKept s t := by
  unfold devWrite at h
  split at h
  · simp only [Option.some.injEq] at h
    subst h
    exact (contextsKept_noteAccess _ _ _ _ _).trans (contextsKept_writeL2 _ _ _ _ _)
  · cases h

theorem contextsKept_devPut (s : State) (p va n v : Nat) : ContextsKept s (devPut s p va n v) := by
  unfold devPut
  cases h : devWrite s p va (leBytes n v) with
  | none => exact ContextsKept.refl _
  | some t => exact contextsKept_devWrite s t p va _ h

/-! Accesses of lanes (Access.lean). -/

theorem contextsKept_ownStash (s : State) (l : LaneId) (pa : Nat) : ContextsKept s (ownStash s l pa) := by
  unfold ownStash
  split
  · exact ContextsKept.refl _
  · refine ContextsKept.foldl _ (fun s h => ?_) _ s
    split
    · split
      · exact contextsKept_stashCleanOne touchKeepsContexts_touchL2 _ _ _ _ _ _
      · exact ContextsKept.refl _
    · exact ContextsKept.refl _

theorem contextsKept_laneFetch (s : State) (l : LaneId) (g narrow : Bool) (pa : Nat) : ContextsKept s (laneFetch s l g narrow pa) := by
  unfold laneFetch
  split
  · exact contextsKept_touchL2 _ _ _ _ _
  · split
    · exact ContextsKept.refl _
    · exact contextsKept_fillL1 _ _ _ _ _

theorem contextsKept_releaseLane (s : State) (l : LaneId) (sc : Scope) : ContextsKept s (releaseLane s l sc) := by
  unfold releaseLane
  split
  · exact ContextsKept.refl _
  · split
    · exact contextsKept_releaseWide _ _ _ _
    · split
      · split
        · exact contextsKept_writebackL1 _ _
        · exact ContextsKept.refl _
      · exact ContextsKept.refl _

theorem contextsKept_acquireLane (s : State) (l : LaneId) (sc : Scope) : ContextsKept s (acquireLane s l sc) := by
  unfold acquireLane
  split
  · exact ContextsKept.refl _
  · split
    · exact contextsKept_invalidateL1 _ _
    · split
      · split
        · exact contextsKept_invalidateL1 _ _
        · exact ContextsKept.refl _
      · exact ContextsKept.refl _

theorem contextsKept_promoteFor (s : State) (l : LaneId) (sc : Scope) (pa : Nat) : ContextsKept s (promoteFor s l sc pa) := by
  unfold promoteFor
  split
  · exact contextsKept_promote _ _ _
  · exact ContextsKept.refl _

theorem contextsKept_noteTagRead (s : State) (l : LaneId) (pa : Nat) : ContextsKept s (noteTagRead s l pa) := by
  unfold noteTagRead
  split <;> exact rfl

theorem contextsKept_setTag (s : State) (l : LaneId) (pa : Nat) : ContextsKept s (setTag s l pa) := by
  unfold setTag
  dsimp only
  split
  · split
    · exact ContextsKept.refl _
    · exact (contextsKept_clearTag _ _).trans (rfl)
  · exact rfl

theorem contextsKept_loadAt (s : State) (l : LaneId) (sc : Scope) (acq g : Bool) (pa n : Nat) :
    ContextsKept s (loadAt s l sc acq g pa n).1 := by
  have got : ∀ u : State, ContextsKept u (if acq then promoteFor u l sc pa else u) := by
    intro u
    split
    · exact contextsKept_promoteFor _ _ _ _
    · exact ContextsKept.refl _
  exact (contextsKept_ownStash s l pa).trans ((contextsKept_noteTagRead _ _ _).trans ((got _).trans (contextsKept_laneFetch _ _ _ _ _)))

theorem contextsKept_storeAt (s : State) (l : LaneId) (sc : Scope) (rel tag g : Bool) (pa : Nat) (bs : List Byte) :
    ContextsKept s (storeAt s l sc rel tag g pa bs) := by
  have held : ∀ (u : State) (c : Nat) (bs : List Byte), ContextsKept u (match l with | .mgmt _ => u | _ => patchL1 u c pa bs false) := by
    intro u c bs
    cases l with
    | mgmt n => exact ContextsKept.refl _
    | _ => exact contextsKept_patchL1 _ _ _ _ _
  unfold storeAt
  extract_lets u bs c u1 u2
  have first : ContextsKept s u := by
    dsimp only [u]
    split
    · exact contextsKept_releaseLane _ _ _
    · exact ContextsKept.refl _
  refine first.trans ?_
  split
  · exact (contextsKept_recallStash _ _).trans ((contextsKept_laneFetch _ _ _ _ _).trans (contextsKept_patchL1 _ _ _ _ _))
  · have h1 : ContextsKept u u1 := contextsKept_writeL2 _ _ _ _ _
    have h2 : ContextsKept u1 u2 := held u1 c bs
    refine h1.trans (h2.trans ?_)
    clear_value u2
    split
    · exact contextsKept_setTag _ _ _
    · exact ContextsKept.refl _

theorem contextsKept_yieldLine (s : State) (pa : Nat) : ContextsKept s (yieldLine s pa) :=
  ContextsKept.foldl _ (fun _ _ => contextsKept_evictLine _ _) _ s

theorem contextsKept_atomAt (s : State) (l : LaneId) (op : AtomOp) (sc : Scope) (ar tag g : Bool) (pa : Nat) (v c1 : Word) :
    ContextsKept s (atomAt s l op sc ar tag g pa v c1).1 := by
  have patched : ∀ (u : State) (c : Nat) (w : Word),
      ContextsKept u (match l with | .mgmt _ => u | _ => patchL1 u c pa (leBytes 4 w.toNat) false) := by
    intro u c w
    cases l with
    | mgmt n => exact ContextsKept.refl _
    | _ => exact contextsKept_patchL1 _ _ _ _ _
  unfold atomAt
  extract_lets u c u1 u2 u3 old bad patch u4
  have h0 : ContextsKept s u := by
    refine ContextsKept.trans ?_ (contextsKept_noteTagRead _ l pa)
    split
    · exact (contextsKept_releaseLane _ _ _).trans (contextsKept_promoteFor _ _ _ _)
    · exact ContextsKept.refl _
  have h1 : ContextsKept u u1 := by
    dsimp only [u1]
    split
    · exact ContextsKept.refl _
    · exact contextsKept_cleanSector _ _ _
    · exact ContextsKept.refl _
  have h2 : ContextsKept u1 u2 := contextsKept_recallStash _ _
  have h3 : ContextsKept u2 u3 := by
    dsimp only [u3]
    split
    · exact contextsKept_yieldLine _ _
    · exact ContextsKept.refl _
  have h4 : ContextsKept u3 u4 := by
    clear_value u3
    dsimp only [u4]
    split
    · rename_i w _
      have lands : ContextsKept u3 (if hostAtomic u3 sc pa then storeMem u3 pa (leBytes 4 w.toNat)
          else writeL2 u3 (lanePart u3 l) g pa (leBytes 4 w.toNat)) := by
        split
        · exact contextsKept_storeMem _ _ _
        · exact contextsKept_writeL2 _ _ _ _ _
      generalize hostAtomic u3 sc pa = o at lands
      have h := lands.trans (patched _ c w)
      refine ContextsKept.trans
        (b := patch (if o then storeMem u3 pa (leBytes 4 w.toNat) else writeL2 u3 (lanePart u3 l) g pa (leBytes 4 w.toNat)) w) h ?_
      clear_value patch
      generalize patch _ w = x
      split
      · exact contextsKept_setTag _ _ _
      · exact ContextsKept.refl _
    · refine ContextsKept.trans ?_ (patched _ c old)
      split
      · exact ContextsKept.refl _
      · exact contextsKept_touchL2 _ _ _ _ _
  exact h0.trans (h1.trans (h2.trans (h3.trans h4)))

theorem contextsKept_loadScratchAt (s : State) (tm side off n : Nat) (ga : Option Nat) :
    ContextsKept s (loadScratchAt s tm side off n ga).1 := by
  unfold loadScratchAt
  extract_lets u
  have h : ContextsKept s u := contextsKept_scratchReady _ _ _ _ _
  clear_value u
  split
  · split
    · split <;> exact h
    · exact h
  · exact h

theorem contextsKept_atomScratchAt (s : State) (op : AtomOp) (tm side off : Nat) (ga : Option Nat) (v c1 : Word) :
    ContextsKept s (atomScratchAt s op tm side off ga v c1).1 := by
  unfold atomScratchAt
  extract_lets r old
  have h : ContextsKept s r.1 := contextsKept_loadScratchAt _ _ _ _ _ _
  clear_value r old
  split
  · exact h.trans (contextsKept_scratchStore _ _ _ _ _)
  · exact h

theorem contextsKept_lateValue (s : State) (e : Late) (bs : List Byte) (bad : Bool) : ContextsKept s (lateValue s e bs bad) := rfl

theorem contextsKept_noteLinkAt (s : State) (l : LaneId) (pa id : Nat) : ContextsKept s (noteLinkAt s l pa id) := by
  unfold noteLinkAt
  split <;> exact rfl

theorem contextsKept_performOne (s : State) (e : Late) : ContextsKept s (performOne s e) := by
  unfold performOne
  extract_lets u done before
  have h : ContextsKept s u := rfl
  have hd : ∀ v, ContextsKept v (done v) := by
    intro v
    dsimp only [done]
    split
    · exact contextsKept_acquireLane _ _ _
    · exact ContextsKept.refl _
  have hb : ∀ v, ContextsKept v (before v) := by
    intro v
    dsimp only [before]
    split
    · exact contextsKept_releaseLane _ _ _
    · exact ContextsKept.refl _
  refine h.trans ?_
  clear_value u done before
  split
  · exact (contextsKept_countAccess u _ _ _ _).trans ((contextsKept_loadAt _ _ _ _ _ _ _).trans ((contextsKept_lateValue _ _ _ _).trans
      ((contextsKept_noteLinkAt _ _ _ _).trans (hd _))))
  · exact (contextsKept_loadScratchAt u _ _ _ _ _).trans ((contextsKept_lateValue _ _ _ _).trans (hd _))
  · split
    · exact hb _
    · exact (contextsKept_countAccess u _ _ _ _).trans (contextsKept_storeAt _ _ _ _ _ _ _ _)
  · exact (hb _).trans (contextsKept_scratchStore _ _ _ _ _)
  · split
    · exact (hb u).trans (rfl)
    · exact (contextsKept_countAccess u _ _ _ _).trans ((contextsKept_atomAt _ _ _ _ _ _ _ _ _ _).trans
        ((contextsKept_lateValue _ _ _ _).trans
        ((contextsKept_noteLinkAt _ _ _ _).trans (hd _))))
  · exact (hb u).trans ((contextsKept_atomScratchAt _ _ _ _ _ _ _ _).trans ((contextsKept_lateValue _ _ _ _).trans (hd _)))

/-- Accesses performed in any order keep the contexts. -/
theorem contextsKept_performThose (s : State) (seed : Late → Bool) : ContextsKept s (performThose s seed) :=
  ContextsKept.foldl _ (fun s e => contextsKept_performOne s e) _ s

/-! Ranges (Spans.lean). -/

theorem contextsKept_spanNote (s : State) (core p va n : Nat) (a : Acc) : ContextsKept s (spanNote s core p va n a) := by
  unfold spanNote
  refine ContextsKept.foldl _ (fun s c => ?_) _ s
  split
  · exact (contextsKept_noteAccess _ _ _ _ _).trans (contextsKept_touchL2 _ _ _ _ _)
  · exact ContextsKept.refl _

theorem contextsKept_spanWrite (s : State) (core p va : Nat) (bs : List Byte) (bad : Bool) :
    ContextsKept s (spanWrite s core p va bs bad) := by
  unfold spanWrite
  refine ContextsKept.foldl _ (fun u c => ?_) _ s
  split
  · extract_lets data v
    refine ContextsKept.trans (b := v) ((contextsKept_noteAccess u _ _ _ _).trans ((contextsKept_writeL2 _ _ _ _ _).trans
      (contextsKept_patchL1 _ _ _ _ _))) ?_
    split
    · exact contextsKept_poisonMem _ _ _
    · exact ContextsKept.refl _
  · exact ContextsKept.refl _

theorem contextsKept_ringPut (s : State) (tm side off k v : Nat) : ContextsKept s (ringPut s tm side off k v) :=
  contextsKept_scratchStore _ _ _ _ _

theorem contextsKept_ringChange (s : State) (tm side off k : Nat) (h : Nat → Nat) : ContextsKept s (ringChange s tm side off k h) := by
  unfold ringChange
  extract_lets u
  refine ContextsKept.trans (b := u) (contextsKept_scratchReady s tm side off 64) ?_
  split
  · exact contextsKept_ringPut _ _ _ _ _ _
  · exact ContextsKept.refl _

end Sys2Proof.Machine

end

section
/-! BRX (R31 to R33, R353): what its accesses leave alone, and the target of each lane. -/

namespace Sys2Proof.Machine

/-- Registers, levels, flags, counters and the focus are as before. -/
structure Undisturbed (s t : State) : Prop where
  steady : Steady s t
  elems : ∀ l r, laneElem t l r = laneElem s l r
  focus : t.focus = s.focus

theorem Undisturbed.refl (s : State) : Undisturbed s s := ⟨Steady.refl s, fun _ _ => rfl, rfl⟩

theorem Undisturbed.trans {a b c : State} (h : Undisturbed a b) (k : Undisturbed b c) : Undisturbed a c :=
  ⟨h.steady.trans k.steady, fun l r => (k.elems l r).trans (h.elems l r), k.focus.trans h.focus⟩

theorem Undisturbed.foldl {α : Type} (f : State → α → State) (h : ∀ s a, Undisturbed s (f s a)) (as : List α) (s : State) :
    Undisturbed s (as.foldl f s) := by
  induction as generalizing s with
  | nil => exact Undisturbed.refl s
  | cons a as ih => exact (h s a).trans (ih _)

theorem laneElem_grip (s : State) (k r : Nat) :
    laneElem s (.grip k) r = ((grip? s k).map (fun x => tgetD x.regs r (.full 0 false))).getD (.full 0 false) := by
  unfold laneElem grip?
  dsimp only
  cases (team? s k).bind (·.grip) <;> rfl

theorem laneElem_mgmt (s : State) (n r : Nat) :
    laneElem s (.mgmt n) r = ((s.units.mgmt[n]?).map (fun x => tgetD x.regs r (.full 0 false))).getD (.full 0 false) := by
  unfold laneElem
  dsimp only
  cases s.units.mgmt[n]? <;> rfl

theorem laneElem_modGroup (s : State) (g : Nat) (f : Group → Group) (hr : ∀ x, (f x).regs = x.regs) (hs : ∀ x, (f x).slices = x.slices)
    (l : LaneId) (r : Nat) : laneElem (modGroup s g f) l r = laneElem s l r := by
  cases l with
  | wave h i =>
    rw [laneElem_wave, laneElem_wave, topFrame_modGroup_regs s g h i f hs, group?_modGroup]
    by_cases hg : h = g
    · subst hg
      rw [if_pos rfl, Option.map_map]
      simp only [Function.comp_def, hr]
    · rw [if_neg hg]
  | grip k => rfl
  | mgmt n => rfl

theorem ContextsKept.undisturbed {s t : State} (h : ContextsKept s t) : Undisturbed s t := by
  have groups (g : Nat) : group? t g = group? s g := congrArg (fun c : Contexts => tget? c.groups g) h
  have grips (k : Nat) : grip? t k = grip? s k := congrArg (fun c : Contexts => c.grips k) h
  have mgmt : t.units.mgmt = s.units.mgmt := congrArg Contexts.mgmt h
  refine ⟨⟨fun g n => ?_, fun g => ?_, fun k => ?_, fun n => ?_⟩, fun l r => ?_, congrArg Contexts.focus h⟩
  · simp only [level?, slice?, groups]
  · simp only [fstat?, groups]
  · simp only [gripPc?, grips]
  · simp only [mgmtPc?, mgmt]
  · cases l with
    | wave g i => simp only [laneElem_wave, topFrame, groups]
    | grip k => simp only [laneElem_grip, grips]
    | mgmt n => simp only [laneElem_mgmt, mgmt]

/-- The pages that a context awaits are no register, level, flag or counter. -/
theorem undisturbed_addPage (s : State) (l : LaneId) (id : Nat) : Undisturbed s (addPage s l id) := by
  cases l with
  | wave g i =>
    refine ⟨steady_modGroup s _ _ (fun _ => rfl) (fun _ => rfl), fun m r => ?_, rfl⟩
    exact laneElem_modGroup s g _ (fun _ => by rfl) (fun _ => by rfl) m r
  | grip k =>
    refine ⟨steady_modTeam s _ _ (fun x => by cases x.grip <;> rfl), fun m r => ?_, rfl⟩
    cases m with
    | wave h j => rfl
    | grip j =>
      simp only [addPage, laneElem_grip, grip?, team?_modTeam]
      split
      · rename_i hk
        subst hk
        cases h : team? s j with
        | none => rfl
        | some x => cases hx : x.grip <;> simp [hx]
      · rfl
    | mgmt n => rfl
  | mgmt n =>
    refine ⟨steady_modMgmt s _ _ (fun _ => rfl), fun m r => ?_, rfl⟩
    cases m with
    | wave h j => rfl
    | grip k => rfl
    | mgmt m =>
      simp only [addPage, laneElem_mgmt, modifyNth_getElem?]
      split
      · rename_i hm
        subst hm
        cases s.units.mgmt[m]? <;> rfl
      · rfl

theorem undisturbed_noteLane (s : State) (l : LaneId) (va : Nat) (a : Acc) : Undisturbed s (noteLane s l va a) := by
  have noted := (contextsKept_noteAccess s (laneCore s l) (lanePart s l) va a).undisturbed
  unfold noteLane
  dsimp only
  split
  · split
    · exact Undisturbed.refl s
    · exact noted.trans (undisturbed_addPage _ _ _)
  · exact noted

theorem undisturbed_brxNote (l : LaneId) (i t : Nat) (s : State) : Undisturbed s (brxNote l i t s) := by
  refine Undisturbed.foldl _ (fun s e => ?_) _ s
  dsimp only
  split
  · exact (undisturbed_noteLane _ _ _ _).trans ((contextsKept_ownStash _ _ _).trans (contextsKept_laneFetch _ _ _ _ _)).undisturbed
  · exact undisturbed_noteLane _ _ _ _

/-- An issue that completes in every lane without a write, with effects that disturb no context. -/
theorem runEntry_scattered (s : State) (i : Instr) (e : Entry) (q : LaneId → Addr) (hr : ready s e.form = true)
    (hl : ∀ l ∈ issuing s, e.legal l = true) (hb : ∀ l ∈ issuing s, e.before l (laneVals s e.form (issuing s) l) = none)
    (ho : e.once = none) (he : ∀ l vs u, Undisturbed u (e.eff l vs u))
    (hp : ∀ l ∈ issuing s, e.plan l (laneVals s e.form (issuing s) l) = .done [] 0 (some (q l))) :
    ∃ t, runEntry s i e = .next t ∧ Scattered s t q ∧ Wrote s t (fun _ => []) ∧ Raised s t noFlags := by
  have still : Undisturbed s (effects s e (fun _ => [])) := Undisturbed.foldl _ (fun u l => he l _ u) _ s
  obtain ⟨t, ht, hbooked, hraised, hmoved⟩ := runEntry_moved s i e (fun _ => []) noFlags (fun l => some (q l)) hr hl hb ho hp
    still.focus still.steady
  refine ⟨t, ht, hmoved.scattered (ready_fit hr), ⟨fun _ _ => List.forall_mem_nil _, fun l r _ _ => ?_⟩, hraised⟩
  exact (hbooked.laneElem l r).trans (still.elems l r)

/-! ### The table -/

/-- The table at `t` permits entry `i + 1`, which is the address `q` (R31, R32, R353). -/
structure Permitted (s : State) (l : LaneId) (i t : Nat) (q : Addr) : Prop where
  aligned : t % 8 = 0
  even : q.toNat % 2 = 0
  head : ∃ e w, laneRead s l t 8 = .ok e ∧ fetchBytes s (laneCore s l) (lanePart s l) (BitVec.ofNat 56 (leNat e)) = .ok w ∧
    isRegang w = true ∧ leNat e % 2 = 0 ∧ i < leNat e / 2 ^ 56 ∧ ∃ e', laneRead s l (t + 8 * (i + 1)) 8 = .ok e' ∧ leNat e' = q.toNat
  free : accessHeld s l = false

/-- A table that passes its checks hands on its first entry. -/
theorem brxTable_permitted {s : State} {l : LaneId} {i t : Nat} {q : Addr} (h : Permitted s l i t q) :
    ∃ e0, i < e0 / 2 ^ 56 ∧ ∀ f, brxTable s l i t f = f e0 := by
  obtain ⟨e, w, he, hw, hregang, hrc, hi, -⟩ := h.head
  refine ⟨leNat e, hi, fun f => ?_⟩
  have rc : BitVec.ofNat 56 (leNat e % 2 ^ 56) = BitVec.ofNat 56 (leNat e) := by
    apply BitVec.eq_of_toNat_eq
    simp
  have even : bit (leNat e % 2 ^ 56) 0 = false := by
    unfold bit
    simp only [decide_eq_false_iff_not]
    omega
  unfold brxTable
  rw [if_neg (fun hn => hn h.aligned), h.free, he]
  dsimp only [readThen]
  rw [rc, hw, even]
  simp [hregang]

theorem brxAct_permitted {s : State} {l : LaneId} {i t : Nat} {q : Addr} (h : Permitted s l i t q) :
    brxAct s l i t = .done [] 0 (some q) := by
  obtain ⟨e0, hi, htable⟩ := brxTable_permitted h
  obtain ⟨-, -, -, -, -, -, -, e', he', hq⟩ := h.head
  have even : bit q.toNat 0 = false := by
    simp [bit, h.even]
  rw [brxAct, htable, if_neg (Nat.not_le.2 hi), he', readThen, hq, even]
  simp [Nat.not_le.2 q.isLt]

/-- The form of BRX. -/
def brxForm (ea eb : Bool) (a b : Reg) : Form :=
  { plainForm true with srcs := [src 0 a ea, srcN 1 b 0 eb true, srcN 1 b 1 eb true], pairs := [b] }

theorem execBrx_scattered (ea eb : Bool) (a b : Reg) (s : State) (q : LaneId → Addr)
    (hr : ready s (brxForm ea eb a b) = true)
    (h : ∀ l ∈ issuing s, Permitted s l (operand s (brxForm ea eb a b) l 0).toNat (operandWide s (brxForm ea eb a b) l 1).toNat (q l)) :
    ∃ t, execBrx ea eb a b s = .next t ∧ Scattered s t q ∧ Wrote s t (fun _ => []) ∧ Raised s t noFlags := by
  refine runEntry_scattered s _ _ q hr (fun _ _ => rfl) (fun l hl => ?_) rfl (fun l vs u => undisturbed_brxNote _ _ _ _) fun l hl => ?_
  · obtain ⟨e0, -, htable⟩ := brxTable_permitted (h l hl)
    have checked := htable fun _ => Act.done [] 0 none
    rw [operandWide, ← pairNat_eq] at checked
    dsimp only
    split
    · rfl
    · rename_i hne
      exact (hne _ _ _ checked).elim
  · exact (congrArg (brxAct s l _) (pairNat_eq _ _)).trans (brxAct_permitted (h l hl))

end Sys2Proof.Machine
end

section
open Sys2Proof Sys2Proof.Machine

/-- Settles O15: the table's checks pass in every lane, so that the issue completes with each lane's entry as its target; the accesses that
BRX makes disturb no context. -/
theorem indirectBranchesFollowTheTable : Obligations.IndirectBranchesFollowTheTable := by
  unfold Obligations.IndirectBranchesFollowTheTable
  intro ea eb a b s q f hr htable hfree
  refine execBrx_scattered ea eb a b s q hr fun l hl => ?_
  obtain ⟨haligned, heven, hhead⟩ := htable l hl
  exact ⟨haligned, heven, hhead, hfree l hl⟩

end

section
/-! The widths of groups through every operation of the model, in the order of the model's files. An operation on memory leaves every
group (`ContextsKept.fit`); another leaves the tables of groups and images as they were (`FitKept.of_eq`, `FitKept.fields`), changes groups
that keep their widths (`fitKept_modGroup`, `fitKept_mapGroups`), or is put together from such operations. -/

namespace Sys2Proof.Machine

/-- `t` has no group of more than 64 lanes if `s` has none. -/
def FitKept (s t : State) : Prop := groupsFit s = true → groupsFit t = true

theorem FitKept.refl (s : State) : FitKept s s := fun h => h

theorem FitKept.trans {a b c : State} (h : FitKept a b) (k : FitKept b c) : FitKept a c := fun w => k (h w)

theorem FitKept.of_eq {s t : State} (hg : t.work.groups = s.work.groups) (hi : t.work.images = s.work.images) : FitKept s t := by
  unfold FitKept groupsFit
  rw [hg, hi]
  exact id

theorem ContextsKept.groups {s t : State} (h : ContextsKept s t) : t.work.groups = s.work.groups := congrArg Contexts.groups h

theorem ContextsKept.images {s t : State} (h : ContextsKept s t) : t.work.images = s.work.images := congrArg Contexts.images h

theorem ContextsKept.fit {s t : State} (h : ContextsKept s t) : FitKept s t :=
  FitKept.of_eq h.groups h.images

theorem FitKept.foldl {α : Type} (f : State → α → State) (h : ∀ s a, FitKept s (f s a)) (as : List α) (s : State) :
    FitKept s (as.foldl f s) := by
  induction as generalizing s with
  | nil => exact FitKept.refl s
  | cons a as ih => exact (h s a).trans (ih _)

/-- Fields beside the groups and the images may change as they will. -/
theorem FitKept.fields {s u : State} {mem : List Host.Cell} {memPoison : List Nat} {slots : Tab Slot} {teams : Tab Team}
    {launches : Tab Launch} {passes : Tab Pass} {streams : Tab Stream} {nextId : Nat} {units : Units} {posted : List Posted}
    {nextTag : Nat} {late : List Late} {deferring : Option Nat} {freeIx : Nat} {outside : Outside} {agenda : List Happening}
    {focus : Focus} (h : FitKept s u) :
    FitKept s ⟨mem, memPoison, ⟨u.work.groups, slots, teams, launches, passes, streams, u.work.images, nextId⟩, units, posted, nextTag,
      late, deferring, freeIx, outside, agenda, focus⟩ := h

theorem fitKept_modTeam (s : State) (k : Nat) (f : Team → Team) : FitKept s (modTeam s k f) := FitKept.of_eq rfl rfl

/-! ### The table of groups -/

/-- Every group of a table has at most 64 lanes. -/
def WidthsFit (t : Tab Group) : Prop := ∀ e ∈ t, e.2.width ≤ 64

theorem groupsFit_iff (s : State) : groupsFit s = true ↔ WidthsFit s.work.groups ∧ ∀ m ∈ s.work.images, WidthsFit m.groups := by
  simp [groupsFit, WidthsFit, List.all_eq_true]

theorem WidthsFit.tget? {t : Tab Group} {k : Nat} {x : Group} (ht : WidthsFit t) (h : tget? t k = some x) : x.width ≤ 64 := by
  induction t with
  | nil => cases h
  | cons e t ih =>
    obtain ⟨he, hes⟩ := List.forall_mem_cons.1 ht
    unfold Sys2Proof.Machine.tget? at h
    split at h
    · cases h
      exact he
    · exact ih hes h

theorem WidthsFit.tput {t : Tab Group} (ht : WidthsFit t) (k : Nat) {x : Group} (hx : x.width ≤ 64) : WidthsFit (tput t k x) := by
  induction t with
  | nil => simpa [WidthsFit, Sys2Proof.Machine.tput] using hx
  | cons e t ih =>
    obtain ⟨he, hes⟩ := List.forall_mem_cons.1 ht
    unfold Sys2Proof.Machine.tput
    split
    · exact List.forall_mem_cons.2 ⟨hx, ht⟩
    · split
      · exact List.forall_mem_cons.2 ⟨hx, hes⟩
      · exact List.forall_mem_cons.2 ⟨he, ih hes⟩

theorem WidthsFit.tmod {t : Tab Group} (ht : WidthsFit t) (k : Nat) (f : Group → Group) (hf : ∀ x, (f x).width = x.width) :
    WidthsFit (tmod t k f) := by
  unfold Sys2Proof.Machine.tmod
  split
  · rename_i x hx
    exact ht.tput k ((hf x).trans_le (ht.tget? hx))
  · exact ht

theorem WidthsFit.foldl_tput {α : Type} (key : α → Nat) (val : α → Group) {as : List α} (h : ∀ a ∈ as, (val a).width ≤ 64) {t : Tab Group}
    (ht : WidthsFit t) : WidthsFit (as.foldl (fun t a => Sys2Proof.Machine.tput t (key a) (val a)) t) := by
  induction as generalizing t with
  | nil => exact ht
  | cons a as ih =>
    obtain ⟨ha, has⟩ := List.forall_mem_cons.1 h
    exact ih has (ht.tput _ ha)

theorem WidthsFit.map {t : Tab Group} (ht : WidthsFit t) (f : Nat × Group → Nat × Group) (hf : ∀ e, (f e).2.width = e.2.width) :
    WidthsFit (t.map f) := by
  intro e he
  obtain ⟨e', he', rfl⟩ := List.mem_map.1 he
  exact (hf e').trans_le (ht e' he')

theorem widthsFit_groups {s : State} (hs : groupsFit s = true) : WidthsFit s.work.groups := ((groupsFit_iff s).1 hs).1

theorem widthsFit_image {s : State} (hs : groupsFit s = true) {m : Image} (hm : m ∈ s.work.images) : WidthsFit m.groups :=
  ((groupsFit_iff s).1 hs).2 m hm

/-- A group of the machine has at most 64 lanes if all do. -/
theorem width_of_group? {s : State} (hs : groupsFit s = true) {g : Nat} {x : Group} (h : group? s g = some x) : x.width ≤ 64 :=
  (widthsFit_groups hs).tget? h

/-- Groups and images may both change. -/
theorem fitKept_tables {s u : State} {mem : List Host.Cell} {memPoison : List Nat} {gs : Tab Group} {slots : Tab Slot} {teams : Tab Team}
    {launches : Tab Launch} {passes : Tab Pass} {streams : Tab Stream} {is : List Image} {nextId : Nat} {units : Units}
    {posted : List Posted} {nextTag : Nat} {late : List Late} {deferring : Option Nat} {freeIx : Nat} {outside : Outside}
    {agenda : List Happening} {focus : Focus} (h : FitKept s u)
    (hgs : groupsFit u = true → WidthsFit gs) (his : groupsFit u = true → ∀ m ∈ is, WidthsFit m.groups) :
    FitKept s ⟨mem, memPoison, ⟨gs, slots, teams, launches, passes, streams, is, nextId⟩, units, posted, nextTag,
      late, deferring, freeIx, outside, agenda, focus⟩ :=
  fun hs => (groupsFit_iff _).2 ⟨hgs (h hs), his (h hs)⟩

theorem fitKept_groups {s : State} {gs : Tab Group} (h : WidthsFit s.work.groups → WidthsFit gs) :
    FitKept s { s with work := { s.work with groups := gs } } :=
  fitKept_tables (FitKept.refl s) (fun hs => h (widthsFit_groups hs)) fun hs _ => widthsFit_image hs

/-- Every group may change if it keeps its width. -/
theorem fitKept_mapGroups {s : State} (f : Nat × Group → Nat × Group) (hf : ∀ e, (f e).2.width = e.2.width) :
    FitKept s { s with work := { s.work with groups := s.work.groups.map f } } :=
  fitKept_groups fun h => h.map f hf

theorem fitKept_setGroup (s : State) (g : Nat) (x : Group) (hx : x.width ≤ 64) : FitKept s (setGroup s g x) :=
  fitKept_groups fun h => h.tput g hx

theorem fitKept_modGroup (s : State) (g : Nat) (f : Group → Group) (hf : ∀ x, (f x).width = x.width := by intro _; rfl) :
    FitKept s (modGroup s g f) :=
  fitKept_groups fun h => h.tmod g f hf

/-! ### How operations are put together -/

theorem FitKept.after {s u t : State} (k : FitKept u t) (h : FitKept s u) : FitKept s t := h.trans k

theorem FitKept.ite {s a b : State} {c : Prop} [Decidable c] (ha : FitKept s a) (hb : FitKept s b) :
    FitKept s (if c then a else b) := by
  split
  · exact ha
  · exact hb

theorem FitKept.of_fst {α : Type} {s t : State} {x : State × α} {a : α} (k : FitKept s x.1) (h : x = (t, a)) : FitKept s t := by
  subst h
  exact k

theorem FitKept.of_snd {α : Type} {s t : State} {x : α × State} {a : α} (k : FitKept s x.2) (h : x = (a, t)) : FitKept s t := by
  subst h
  exact k

/-- A fold that carries something beside the state. -/
theorem FitKept.foldl_fst {α β : Type} (f : State × β → α → State × β) (h : ∀ r a, FitKept r.1 (f r a).1) (as : List α)
    (r : State × β) : FitKept r.1 (as.foldl f r).1 := by
  induction as generalizing r with
  | nil => exact FitKept.refl _
  | cons a as ih => exact (h r a).trans (ih _)

/-- An operation that may be kept from going on leaves groups that fit either way. -/
def TakeFits (s : State) (r : Except (State × Block) State) : Prop :=
  match r with
  | .ok t => FitKept s t
  | .error e => FitKept s e.1

theorem TakeFits.ok {s t : State} {r : Except (State × Block) State} (k : TakeFits s r) (h : r = .ok t) : FitKept s t := by
  subst h
  exact k

theorem TakeFits.error {s : State} {e : State × Block} {r : Except (State × Block) State} (k : TakeFits s r) (h : r = .error e) :
    FitKept s e.1 := by
  subst h
  exact k

/-- A meaning whose notes and effects keep groups at their widths. -/
structure Entry.KeepsFit (e : Entry) : Prop where
  note : ∀ l vs s, FitKept s (e.note l vs s)
  eff : ∀ l vs s, FitKept s (e.eff l vs s)
  once : ∀ f, e.once = some f → ∀ xs s, FitKept s (f xs s)

/-- A meaning that acts for lanes only. -/
theorem Entry.KeepsFit.of_lanes {e : Entry} (note : ∀ l vs s, FitKept s (e.note l vs s)) (eff : ∀ l vs s, FitKept s (e.eff l vs s))
    (h : e.once = none) : e.KeepsFit :=
  ⟨note, eff, fun f hf => by rw [h] at hf; cases hf⟩

/-- A meaning without notes that acts for lanes only. -/
theorem Entry.KeepsFit.of_effects {e : Entry} (eff : ∀ l vs s, FitKept s (e.eff l vs s)) (hn : e.note = fun _ _ s => s)
    (h : e.once = none) : e.KeepsFit :=
  .of_lanes (fun _ _ s => by rw [hn]; exact FitKept.refl s) eff h

/-- A meaning that acts for no lane. -/
theorem Entry.KeepsFit.of_still {e : Entry} (hn : e.note = fun _ _ s => s) (he : e.eff = fun _ _ s => s) (h : e.once = none) :
    e.KeepsFit :=
  .of_effects (fun _ _ s => by rw [he]; exact FitKept.refl s) hn h

/-- A meaning that acts once for a group. -/
theorem Entry.KeepsFit.of_group {e : Entry} {f : List (LaneId × List Word) → State → State}
    (note : ∀ l vs s, FitKept s (e.note l vs s)) (eff : ∀ l vs s, FitKept s (e.eff l vs s)) (hf : ∀ xs s, FitKept s (f xs s))
    (h : e.once = some f) : e.KeepsFit :=
  ⟨note, eff, fun g hg => by rw [h] at hg; exact Option.some.inj hg ▸ hf⟩

theorem keepsFit_pureEntry (form : Form) (plan : LaneId → List Word → Act) : (pureEntry form plan).KeepsFit :=
  .of_lanes (fun _ _ s => FitKept.refl s) (fun _ _ s => FitKept.refl s) rfl

/-- The next state of an answer, if it has one, keeps the widths. -/
def OutcomeFits (s : State) (o : Host.Outcome State Fault Refusal) : Prop := ∀ t, o = .next t → FitKept s t

theorem OutcomeFits.next {s t : State} (h : FitKept s t) : OutcomeFits s (.next t) := by
  intro u e
  cases e
  exact h

theorem OutcomeFits.fault {s : State} (f : Fault) : OutcomeFits s (.fault f) := fun _ e => by cases e

theorem OutcomeFits.of_kept {s u : State} {o : Host.Outcome State Fault Refusal} (h : FitKept s u) (k : OutcomeFits u o) :
    OutcomeFits s o :=
  fun t e => h.trans (k t e)

theorem OutcomeFits.ite {s : State} {a b : Host.Outcome State Fault Refusal} {c : Prop} [Decidable c] (ha : OutcomeFits s a)
    (hb : OutcomeFits s b) : OutcomeFits s (if c then a else b) := by
  split
  · exact ha
  · exact hb

/-! ### Waves, groups and traps -/

theorem fitKept_setCluster (s : State) (c : Nat) (x : Cluster) : FitKept s (setCluster s c x) := FitKept.of_eq rfl rfl

theorem fitKept_modQuad (s : State) (c q : Nat) (f : Quad → Quad) : FitKept s (modQuad s c q f) := FitKept.of_eq rfl rfl

theorem fitKept_setTeam (s : State) (t : Nat) (x : Team) : FitKept s (setTeam s t x) := FitKept.of_eq rfl rfl

theorem fitKept_modLaunch (s : State) (l : Nat) (f : Launch → Launch) : FitKept s (modLaunch s l f) := FitKept.of_eq rfl rfl

theorem fitKept_modSlot (s : State) (k : Nat) (f : Slot → Slot) : FitKept s (modSlot s k f) := FitKept.of_eq rfl rfl

theorem fitKept_modPass (s : State) (p : Nat) (f : Pass → Pass) : FitKept s (modPass s p f) := FitKept.of_eq rfl rfl

theorem fitKept_setBankReg (s : State) (p n : Nat) (v : Word) : FitKept s (setBankReg s p n v) := FitKept.of_eq rfl rfl

theorem fitKept_setSysReg (s : State) (n : Nat) (v : Word) : FitKept s (setSysReg s n v) := FitKept.of_eq rfl rfl

theorem fitKept_setFwCode (s : State) (code : Nat) : FitKept s (setFwCode s code) := FitKept.of_eq rfl rfl

theorem fitKept_modSlice (s : State) (g n : Nat) (f : Slice → Slice) : FitKept s (modSlice s g n f) :=
  fitKept_modGroup _ _ _ fun _ => rfl

theorem fitKept_setLaneElem (s : State) (l : LaneId) (r : Nat) (e : Elem) : FitKept s (setLaneElem s l r e) := by
  unfold setLaneElem
  split
  · exact FitKept.ite (fitKept_modGroup _ _ _) (fitKept_modSlice _ _ _ _)
  · exact fitKept_modTeam _ _ _
  · exact FitKept.fields (FitKept.refl _)

theorem fitKept_writeLane (s : State) (l : LaneId) (r : Nat) (v : Word) :
    FitKept s (writeLane s l r v) := fitKept_setLaneElem _ _ _ _

theorem fitKept_writeLanes (s : State) (l : LaneId) (ws : List (Nat × Word)) : FitKept s (writeLanes s l ws) :=
  FitKept.foldl _ (fun _ _ => fitKept_writeLane _ _ _ _) _ _

theorem fitKept_post (s : State) (kind : PostedKind) (dests : List (LaneId × Nat × Word × Bool)) : FitKept s (post s kind dests) :=
  FitKept.fields ((FitKept.foldl _ (fun _ _ => fitKept_setLaneElem _ _ _ _) _ _).after (FitKept.fields (FitKept.refl _)))

theorem fitKept_regroup (s : State) (es : List (Nat × Nat)) : FitKept s (regroup s es) :=
  FitKept.foldl _ (fun _ _ => fitKept_modSlice _ _ _ _) _ _

theorem fitKept_partWave (s : State) (k : Nat) : FitKept s (partWave s k) := fitKept_regroup _ _

theorem fitKept_partGroup (s : State) (g : Nat) : FitKept s (partGroup s g) :=
    FitKept.foldl _ (fun _ _ => fitKept_partWave _ _) _ _

theorem fitKept_squashRob (s : State) (g : Nat) : FitKept s (squashRob s g) := by
  unfold squashRob
  split
  · exact FitKept.refl _
  · exact FitKept.foldl _ (fun _ _ => fitKept_modSlot _ _ _) _ _

theorem fitKept_retireEntry (s : State) (k stamp : Nat) : FitKept s (retireEntry s k stamp) := FitKept.of_eq rfl rfl

theorem fitKept_squashGroup (s : State) (g : Nat) : FitKept s (squashGroup s g) := by
  unfold squashGroup
  split
  · exact FitKept.refl _
  · extract_lets u waited u1
    have hu : FitKept s u := fitKept_squashRob _ _
    have hu1 : FitKept s u1 := (fitKept_modGroup _ _ _).after hu
    split
    · exact FitKept.ite hu1 ((fitKept_modQuad _ _ _ _).after hu1)
    · exact hu1

theorem fitKept_stopGroup (s : State) (g : Nat) : FitKept s (stopGroup s g) :=
  (fitKept_modGroup _ _ _ fun x => by split <;> rfl).after (fitKept_squashGroup _ _)

theorem fitKept_stopTeam (s : State) (t : Nat) : FitKept s (stopTeam s t) := by
  unfold stopTeam
  split
  · exact FitKept.refl _
  · exact (fitKept_modTeam _ _ _).after (FitKept.foldl _ (fun _ _ => fitKept_stopGroup _ _) _ _)

theorem fitKept_escalate (s : State) (g n : Nat) (pc : Addr) (t : Trap) (cause : Nat) : FitKept s (escalate s g n pc t cause) := by
  unfold escalate
  split
  · exact FitKept.refl _
  · split
    · exact (contextsKept_raiseEvent _ _).fit.after ((fitKept_stopGroup _ _).after (fitKept_modSlice _ _ _ _))

theorem fitKept_debugStop (s : State) (g n : Nat) (pc : Addr) (t : Trap) : FitKept s (debugStop s g n pc t) := by
  unfold debugStop
  split
  · exact FitKept.refl _
  · exact (fitKept_stopTeam _ _).after (fitKept_modSlice _ _ _ _)

theorem fitKept_takeTrap (s : State) (g n : Nat) (pc : Addr) (lanes : LMask) (t : Trap) : FitKept s (takeTrap s g n pc lanes t) := by
  unfold takeTrap
  split
  · exact FitKept.refl _
  · exact FitKept.ite (fitKept_debugStop _ _ _ _ _) (FitKept.ite (fitKept_escalate _ _ _ _ _ _)
      (FitKept.ite (fitKept_escalate _ _ _ _ _ _) (fitKept_modSlice _ _ _ _)))

theorem fitKept_gripTrap (s : State) (t : Nat) (cause detail : Nat) : FitKept s (gripTrap s t cause detail) := by
  unfold gripTrap
  split
  · exact FitKept.refl _
  · dsimp only
    exact FitKept.ite ((fitKept_stopTeam _ _).after (fitKept_modTeam _ _ _))
      ((contextsKept_raiseEvent _ _).fit.after (fitKept_modTeam _ _ _))

theorem fitKept_mgmtTrap (s : State) (n cause : Nat) : FitKept s (mgmtTrap s n cause) := FitKept.of_eq rfl rfl

theorem fitKept_addAsync (s : State) (k team cause addr : Nat) : FitKept s (addAsync s k team cause addr) := FitKept.of_eq rfl rfl

/-! ### The L1 -/

theorem fitKept_noteLink (s : State) (l : LaneId) (pa : Nat) : FitKept s (noteLink s l pa) := (contextsKept_noteLinkAt _ _ _ _).fit

theorem fitKept_freshL1 (s : State) (c : Nat) (pair : Bool) : FitKept s (freshL1 s c pair) :=
  FitKept.ite ((contextsKept_invalidateL1 _ _).fit.after (contextsKept_invalidateL1 _ _).fit) (contextsKept_invalidateL1 _ _).fit

/-! ### Accesses of lanes -/

theorem fitKept_promoteReads (s : State) (l : LaneId) : FitKept s (promoteReads s l) :=
  FitKept.fields (FitKept.foldl _ (fun _ _ => (contextsKept_promote _ _ _).fit) _ _)

theorem fitKept_performLate (s : State) (id : Nat) : FitKept s (performLate s id) := (contextsKept_performThose _ _).fit

theorem fitKept_drainLane (s : State) (l : LaneId) : FitKept s (drainLane s l) := (contextsKept_performThose _ _).fit

theorem fitKept_drainGroup (s : State) (g : Nat) : FitKept s (drainGroup s g) := (contextsKept_performThose _ _).fit

theorem fitKept_drainTeam (s : State) (tm : Nat) : FitKept s (drainTeam s tm) := (contextsKept_performThose _ _).fit

theorem fitKept_drainFrame (s : State) (f : Nat) : FitKept s (drainFrame s f) := (contextsKept_performThose _ _).fit

theorem fitKept_beforeAccess (s : State) (e : Late) : FitKept s (beforeAccess s e) := (contextsKept_performThose _ _).fit

theorem fitKept_addLate (s : State) (e : Late) : FitKept s (addLate s e) := FitKept.of_eq rfl rfl

theorem fitKept_addParts (s : State) (e : Late) (mk : Nat → Nat → LateOp) : FitKept s (addParts s e mk) :=
  (FitKept.foldl _ (fun _ _ => fitKept_addLate _ _) _ _).after
    (FitKept.ite ((contextsKept_releaseLane _ _ _).fit.after (fitKept_drainLane _ _)) (FitKept.refl _))

theorem fitKept_loadAccess (s : State) (l : LaneId) (sc : Scope) (acq g : Bool) (d pa n : Nat) :
    FitKept s (loadAccess s l sc acq g d pa n) :=
  FitKept.ite ((fitKept_addParts _ _ _).after (fitKept_post _ _ _))
    (FitKept.ite ((contextsKept_acquireLane _ _ _).fit.after ((fitKept_noteLink _ _ _).after
    ((fitKept_post _ _ _).after ((contextsKept_loadAt _ _ _ _ _ _ _).fit.after
    ((contextsKept_countAccess _ _ _ _ _).fit.after (fitKept_beforeAccess _ _))))))
    ((fitKept_noteLink _ _ _).after ((fitKept_post _ _ _).after
    ((contextsKept_loadAt _ _ _ _ _ _ _).fit.after ((contextsKept_countAccess _ _ _ _ _).fit.after (fitKept_beforeAccess _ _))))))

theorem fitKept_storeAccess (s : State) (l : LaneId) (sc : Scope) (rel g : Bool) (pa : Nat) (bs : List Byte) :
    FitKept s (storeAccess s l sc rel g pa bs) :=
  FitKept.ite (fitKept_addParts _ _ _) ((contextsKept_storeAt _ _ _ _ _ _ _ _).fit.after
    ((contextsKept_countAccess _ _ _ _ _).fit.after (fitKept_beforeAccess _ _)))

theorem fitKept_atomAccess (s : State) (l : LaneId) (op : AtomOp) (sc : Scope) (ar g : Bool) (d pa : Nat) (v c1 : Word) :
    FitKept s (atomAccess s l op sc ar g d pa v c1) :=
  FitKept.ite ((fitKept_addParts _ _ _).after (fitKept_post _ _ _))
    (FitKept.ite ((contextsKept_acquireLane _ _ _).fit.after ((fitKept_noteLink _ _ _).after
    ((fitKept_post _ _ _).after ((contextsKept_atomAt _ _ _ _ _ _ _ _ _ _).fit.after
    ((contextsKept_countAccess _ _ _ _ _).fit.after (fitKept_beforeAccess _ _))))))
    ((fitKept_noteLink _ _ _).after ((fitKept_post _ _ _).after
    ((contextsKept_atomAt _ _ _ _ _ _ _ _ _ _).fit.after ((contextsKept_countAccess _ _ _ _ _).fit.after (fitKept_beforeAccess _ _))))))

theorem fitKept_loadLocal (s : State) (l : LaneId) (team sync : Bool) (tm side off d n : Nat) :
    FitKept s (loadLocal s l team sync tm side off d n) :=
  FitKept.ite ((fitKept_addParts _ _ _).after (fitKept_post _ _ _))
    (FitKept.ite ((contextsKept_acquireLane _ _ _).fit.after ((fitKept_post _ _ _).after
    ((contextsKept_loadScratchAt _ _ _ _ _ _).fit.after (fitKept_beforeAccess _ _))))
    ((fitKept_post _ _ _).after ((contextsKept_loadScratchAt _ _ _ _ _ _).fit.after (fitKept_beforeAccess _ _))))

theorem fitKept_storeLocal (s : State) (l : LaneId) (team sync : Bool) (tm side off : Nat) (bs : List Byte) :
    FitKept s (storeLocal s l team sync tm side off bs) :=
  FitKept.ite (fitKept_addParts _ _ _) ((contextsKept_scratchStore _ _ _ _ _).fit.after
    (FitKept.ite ((contextsKept_releaseLane _ _ _).fit.after (fitKept_beforeAccess _ _)) (fitKept_beforeAccess _ _)))

theorem fitKept_atomLocal (s : State) (l : LaneId) (op : AtomOp) (team sync : Bool) (tm side off d : Nat) (v c1 : Word) :
    FitKept s (atomLocal s l op team sync tm side off d v c1) :=
  FitKept.ite ((fitKept_addParts _ _ _).after (fitKept_post _ _ _))
    (FitKept.ite ((contextsKept_acquireLane _ _ _).fit.after ((fitKept_post _ _ _).after
    ((contextsKept_atomScratchAt _ _ _ _ _ _ _ _).fit.after (FitKept.ite ((contextsKept_releaseLane _ _ _).fit.after
      (fitKept_beforeAccess _ _))
    (fitKept_beforeAccess _ _))))) ((fitKept_post _ _ _).after
    ((contextsKept_atomScratchAt _ _ _ _ _ _ _ _).fit.after (FitKept.ite ((contextsKept_releaseLane _ _ _).fit.after
      (fitKept_beforeAccess _ _))
    (fitKept_beforeAccess _ _)))))

theorem fitKept_fenceAccesses (s : State) (l : LaneId) (sc : Bool) : FitKept s (fenceAccesses s l sc) :=
  FitKept.fields (contextsKept_performThose _ _).fit

theorem fitKept_markFenced (s : State) (l : LaneId) : FitKept s (markFenced s l) := by
  unfold markFenced
  split
  · exact fitKept_modGroup _ _ _
  · exact fitKept_modTeam _ _ _
  · exact FitKept.refl _

/-! ### Ends of groups and teams -/

theorem fitKept_completeRegang (s : State) (g : Nat) : FitKept s (completeRegang s g) := by
  unfold completeRegang
  split
  · exact FitKept.refl _
  · dsimp only
    split
    · exact FitKept.refl _
    · split
      · exact FitKept.refl _
      · exact FitKept.foldl _ (fun _ _ => fitKept_modSlice _ _ _ _) _ _

theorem fitKept_releaseBar (s : State) (g : Nat) (w : Wait) : FitKept s (releaseBar s g w) :=
  (fitKept_partGroup _ _).after (fitKept_modGroup _ _ _)

theorem fitKept_completeBar (s : State) (g : Nat) : FitKept s (completeBar s g) := by
  unfold completeBar
  split
  · exact FitKept.refl _
  · exact FitKept.ite (FitKept.refl _) (FitKept.foldl _ (fun _ _ => FitKept.ite (fitKept_releaseBar _ _ _) (FitKept.refl _)) _ _)

theorem fitKept_completeTeamBar (s : State) (tm : Nat) : FitKept s (completeTeamBar s tm) := by
  unfold completeTeamBar
  split
  · exact FitKept.refl _
  · exact FitKept.ite (FitKept.ite ((contextsKept_invalidateL1 _ _).fit.after
      ((contextsKept_invalidateL1 _ _).fit.after (FitKept.foldl _ (fun _ _ => fitKept_releaseBar _ _ _) _ _)))
      (FitKept.foldl _ (fun _ _ => fitKept_releaseBar _ _ _) _ _)) (FitKept.refl _)

theorem fitKept_setSlate (s : State) (core quad : Nat) (h : Option Nat) : FitKept s (setSlate s core quad h) := FitKept.of_eq rfl rfl

theorem fitKept_endLease (s : State) (cl : Nat) (trap : Bool) : FitKept s (endLease s cl trap) := by
  unfold endLease
  split
  · exact FitKept.refl _
  · dsimp only
    split
    · split
      · exact (fitKept_addAsync _ _ _ _ _).after (fitKept_setCluster _ _ _)
      · exact fitKept_setCluster _ _ _
    · exact fitKept_setCluster _ _ _

theorem fitKept_dropHolder (s : State) (k : Nat) : FitKept s (dropHolder s k) := by
  unfold dropHolder
  split
  · exact FitKept.refl _
  · extract_lets c q u u1
    have hu : FitKept s u := fitKept_modSlot _ _ _
    have hu1 : FitKept s u1 := (fitKept_modQuad _ _ _ _).after hu
    split
    · exact FitKept.ite ((fitKept_endLease _ _ _).after hu1) hu1
    · exact hu1

theorem fitKept_chargeLaunch (s : State) (lid c : Nat) : FitKept s (chargeLaunch s lid c) := by
  unfold chargeLaunch
  split
  · exact FitKept.refl _
  · exact (contextsKept_modPart _ _ _).fit

theorem fitKept_chargeGroup (s : State) (g : Nat) : FitKept s (chargeGroup s g) := by
  unfold chargeGroup
  split
  · exact FitKept.refl _
  · split
    · exact FitKept.refl _
    · exact fitKept_chargeLaunch _ _ _

theorem fitKept_leaveCores (s : State) (p : Nat) : FitKept s (leaveCores s p) := FitKept.of_eq rfl rfl

theorem fitKept_endTeam (s : State) (tm : Nat) : FitKept s (endTeam s tm) := by
  unfold endTeam
  split
  · exact FitKept.refl _
  · exact (fitKept_leaveCores _ _).after ((fitKept_modLaunch _ _ _).after
      ((fitKept_setCluster _ _ _).after ((fitKept_modTeam _ _ _).after
      (FitKept.ite ((contextsKept_stashCleanAll _ _ _ _).fit.after
        (contextsKept_stashCleanAll _ _ _ _).fit) (contextsKept_stashCleanAll _ _ _ _).fit))))

theorem fitKept_tryEndTeam (s : State) (tm : Nat) : FitKept s (tryEndTeam s tm) := by
  unfold tryEndTeam
  split
  · exact FitKept.refl _
  · split
    · dsimp only
      split
      · exact (contextsKept_noteAccess _ _ _ _ _).fit.after (fitKept_drainTeam _ _)
      · exact (fitKept_endTeam _ _).after (fitKept_drainTeam _ _)
    · exact FitKept.refl _

theorem fitKept_tryEndGroup (s : State) (g : Nat) : FitKept s (tryEndGroup s g) := by
  unfold tryEndGroup
  split
  · exact FitKept.refl _
  · exact FitKept.ite (FitKept.refl _) ((fitKept_tryEndTeam _ _).after
      ((FitKept.foldl _ (fun _ _ => FitKept.ite (FitKept.fields (FitKept.refl _)) (FitKept.refl _)) _ _).after
      ((fitKept_modGroup _ _ _).after (fitKept_chargeGroup _ _))))

theorem fitKept_groupExited (s : State) (g : Nat) : FitKept s (groupExited s g) := by
  unfold groupExited
  split
  · exact FitKept.refl _
  · exact FitKept.ite (FitKept.refl _) ((fitKept_tryEndGroup _ _).after
      (FitKept.ite ((fitKept_modTeam _ _ _).after ((FitKept.foldl _ (fun _ _ => fitKept_dropHolder _ _) _ _).after
      (fitKept_modGroup _ _ _))) ((FitKept.foldl _ (fun _ _ => fitKept_dropHolder _ _) _ _).after (fitKept_modGroup _ _ _))))

theorem fitKept_commitPixel (s : State) (g l : Nat) (discarded : Bool) : FitKept s (commitPixel s g l discarded) := by
  unfold commitPixel
  split
  · exact FitKept.refl _
  · split
    · exact FitKept.refl _
    · exact FitKept.ite (FitKept.refl _) (contextsKept_modCore _ _ _).fit

theorem fitKept_exitLanes (s : State) (g n : Nat) (m : LMask) (discarded : Bool) : FitKept s (exitLanes s g n m discarded) :=
  (fitKept_modGroup _ _ _).after (FitKept.foldl _ (fun _ _ => (fitKept_commitPixel _ _ _ _).after (fitKept_drainLane _ _)) _ _)

theorem fitKept_groupProgress (s : State) (g : Nat) : FitKept s (groupProgress s g) := by
  unfold groupProgress
  dsimp only
  refine (fitKept_groupExited _ _).after ?_
  split
  · exact (fitKept_completeTeamBar _ _).after ((fitKept_completeBar _ _).after (fitKept_completeRegang _ _))
  · exact (fitKept_completeBar _ _).after (fitKept_completeRegang _ _)

/-! ### Renaming and the register file -/

theorem fitKept_storeLine (s : State) (base r : Nat) (es : List Elem) : FitKept s (storeLine s base r es) :=
  (contextsKept_storeDev _ _ _).fit.after (contextsKept_storeDev _ _ _).fit

theorem fitKept_landImage (s : State) (k r pos : Nat) (e : Elem) : FitKept s (landImage s k r pos e) := by
  unfold landImage
  split
  · exact FitKept.ite ((contextsKept_storeDev _ _ _).fit.after (contextsKept_storeDev _ _ _).fit) (FitKept.refl _)
  · exact FitKept.refl _

theorem fitKept_fetchLine (s : State) (k r : Nat) : FitKept s (fetchLine s k r) := by
  unfold fetchLine
  split
  · exact FitKept.refl _
  · split
    · dsimp only
      refine (fitKept_modSlot _ _ _).after ?_
      refine FitKept.foldl _ (fun s pos => ?_) _ _
      split
      · exact fitKept_modGroup _ _ _ fun x => by split <;> rfl
      · exact FitKept.refl _
    · exact FitKept.refl _

theorem fitKept_fetchLines (s : State) (k : Nat) : FitKept s (fetchLines s k) := by
  unfold fetchLines
  split
  · exact FitKept.foldl _ (fun _ _ => fitKept_fetchLine _ _ _) _ _
  · exact FitKept.refl _

theorem fitKept_evictReg (s : State) (k r : Nat) : FitKept s (evictReg s k r) :=
  (fitKept_modSlot _ _ _).after (fitKept_storeLine _ _ _ _)

theorem fitKept_makeRoom (s : State) (c q n : Nat) : FitKept s (makeRoom s c q n) :=
  FitKept.foldl _ (fun _ _ => fitKept_evictReg _ _ _) _ _

theorem fitKept_renameInstr (s : State) (k : Nat) (slices : List (Nat × Nat × LMask)) (pc : Addr) (i : Option Instr) {t : State}
    (h : renameInstr s k slices pc i = some t) : FitKept s t := by
  unfold renameInstr at h
  dsimp only at h
  split at h
  · cases h
  · split at h
    · cases h
    · split at h
      · cases h
      · split at h
        · cases h
        · rw [← Option.some.inj h]
          exact (fitKept_modSlot _ _ _).after ((fitKept_modQuad _ _ _ _).after ((fitKept_makeRoom _ _ _ _).after
            (FitKept.foldl _ (fun _ _ => fitKept_fetchLine _ _ _) _ _)))

theorem fitKept_clearPlace (s : State) (k : Nat) : FitKept s (clearPlace s k) :=
  FitKept.foldl _ (fun _ _ => fitKept_fetchLines _ _) _ _

theorem fitKept_moveLines (s : State) (k j : Nat) : FitKept s (moveLines s k j) := by
  unfold moveLines
  split
  · exact FitKept.refl _
  · exact FitKept.ite (FitKept.refl _) (FitKept.ite ((FitKept.foldl _ (fun _ _ => fitKept_storeLine _ _ _ _) _ _).after
      (FitKept.ite (fitKept_clearPlace _ _) ((FitKept.foldl _ (fun _ _ => fitKept_evictReg _ _ _) _ _).after
      (fitKept_clearPlace _ _)))) ((fitKept_modSlot _ _ _).after
      ((FitKept.foldl _ (fun _ _ => fitKept_storeLine _ _ _ _) _ _).after
      (FitKept.ite (fitKept_clearPlace _ _) ((FitKept.foldl _ (fun _ _ => fitKept_evictReg _ _ _) _ _).after
      (fitKept_clearPlace _ _))))))

/-! ### Instructions that act for lanes -/

theorem fitKept_raiseFlags (s : State) (g : Nat) (fl : Flags) : FitKept s (raiseFlags s g fl) := fitKept_modGroup _ _ _

theorem fitKept_settleWaveSlice (s0 : State) (s : State) (e : Entry) (active : List LaneId) (kept : Bool) (g n : Nat)
    (as : List (LaneId × Act)) : FitKept s (settleWaveSlice s0 s e active kept g n as) := by
  unfold settleWaveSlice
  dsimp only
  split
  · exact (fitKept_modSlice _ _ _ _).after (fitKept_raiseFlags _ _ _)
  · split
    · exact (fitKept_takeTrap _ _ _ _ _ _).after (FitKept.ite ((fitKept_modSlice _ _ _ _).after (fitKept_raiseFlags _ _ _))
        (fitKept_raiseFlags _ _ _))
    · exact FitKept.ite ((fitKept_modSlice _ _ _ _).after (fitKept_raiseFlags _ _ _)) (fitKept_raiseFlags _ _ _)

theorem fitKept_consumePops (s0 s : State) (f : Form) (as : List (LaneId × Act)) : FitKept s (consumePops s0 s f as) := by
  refine FitKept.foldl _ (fun s l => ?_) _ _
  split
  · exact FitKept.foldl _ (fun _ _ => fitKept_modGroup _ _ _) _ _
  · exact FitKept.refl _

theorem fitKept_addPage (s : State) (l : LaneId) (id : Nat) : FitKept s (addPage s l id) := by
  unfold addPage
  split
  · exact fitKept_modGroup _ _ _
  · exact fitKept_modTeam _ _ _
  · exact FitKept.fields (FitKept.refl _)

theorem fitKept_clearFailed (s : State) (ls : List LaneId) : FitKept s (clearFailed s ls) := by
  refine FitKept.foldl _ (fun s l => FitKept.ite (FitKept.refl _) ?_) _ _
  split
  · exact fitKept_modGroup _ _ _
  · exact fitKept_modTeam _ _ _
  · exact FitKept.fields (FitKept.refl _)

theorem fitKept_noteLane (s : State) (l : LaneId) (va : Nat) (a : Acc) : FitKept s (noteLane s l va a) := by
  unfold noteLane
  dsimp only
  split
  · exact FitKept.ite (FitKept.refl _) ((fitKept_addPage _ _ _).after (contextsKept_noteAccess _ _ _ _ _).fit)
  · exact (contextsKept_noteAccess _ _ _ _ _).fit

theorem fitKept_releaseSlate (s : State) (k : Nat) : FitKept s (releaseSlate s k) :=
  FitKept.ite ((fitKept_modSlot _ _ _).after (fitKept_setSlate _ _ _ _)) (FitKept.refl _)

theorem fitKept_moveSlot (s : State) (k j : Nat) : FitKept s (moveSlot s k j) :=
  (FitKept.fields (fitKept_mapGroups _ fun e => by split <;> rfl)).after (fitKept_moveLines _ _ _)

theorem width_leaveClock (s : State) (x : Group) : (leaveClock s x).width = x.width := by
  unfold leaveClock
  dsimp only
  split <;> rfl

theorem fitKept_vacateSlot (s : State) (k : Nat) : FitKept s (vacateSlot s k) :=
  (fitKept_moveSlot _ _ _).after (FitKept.fields ((FitKept.foldl _
    (fun _ _ => fitKept_modGroup _ _ _ (width_leaveClock _)) _ _).after ((fitKept_modQuad _ _ _ _).after (fitKept_releaseSlate _ _))))

theorem fitKept_vacateAway (s : State) (k : Nat) : FitKept s (vacateAway s k) :=
  FitKept.ite (fitKept_vacateSlot _ _) (FitKept.refl _)

theorem fitKept_vacateSeats (s : State) (g : Nat) : FitKept s (vacateSeats s g) := by
  unfold vacateSeats
  split
  · exact FitKept.foldl _ (fun _ _ => fitKept_vacateAway _ _) _ _
  · exact FitKept.refl _

theorem fitKept_swapGroup (s : State) (g : Nat) : FitKept s (swapGroup s g) :=
  (fitKept_vacateSeats _ _).after ((fitKept_modGroup _ _ _).after ((fitKept_squashGroup _ _).after (fitKept_drainGroup _ _)))

theorem fitKept_exitProgress (s : State) (g : Nat) : FitKept s (exitProgress s g) :=
  (fitKept_vacateSeats _ _).after (fitKept_groupProgress _ _)

theorem fitKept_swapOut (s : State) (ls : List LaneId) : FitKept s (swapOut s ls) := by
  unfold swapOut
  refine FitKept.foldl _ (fun s l => ?_) _ _
  split
  · exact fitKept_swapGroup _ _
  · exact FitKept.refl _

theorem fitKept_waveRetired (s : State) (k : Nat) (gs : List Nat) : FitKept s (waveRetired s k gs) :=
  (FitKept.foldl _ (fun _ _ => fitKept_modGroup _ _ _) _ _).after (fitKept_modSlot _ _ _)

theorem fitKept_noteRetired (s : State) (f : Focus) (as : List (LaneId × Act)) : FitKept s (noteRetired s f as) := by
  unfold noteRetired
  extract_lets u
  have hu : FitKept s u := by
    dsimp only [u]
    split
    · exact fitKept_modSlot _ _ _
    · exact FitKept.refl _
  refine FitKept.ite (FitKept.trans hu ?_) hu
  split
  · exact FitKept.ite (fitKept_waveRetired _ _ _) (FitKept.refl _)
  · exact fitKept_modTeam _ _ _
  · exact FitKept.fields (FitKept.refl _)
  · exact FitKept.refl _

theorem fitKept_settleSingle (s : State) (len : Nat) (l : LaneId) (a : Act) : FitKept s (settleSingle s len l a) := by
  unfold settleSingle
  split
  · exact fitKept_modTeam _ _ _
  · exact fitKept_gripTrap _ _ _ _
  · exact FitKept.fields (FitKept.refl _)
  · exact fitKept_mgmtTrap _ _ _
  · exact FitKept.refl _

theorem fitKept_partFocus (s : State) : FitKept s (partFocus s) := by
  unfold partFocus
  split
  · exact fitKept_partWave _ _
  · exact FitKept.refl _

theorem fitKept_settleGang (s : State) (e : Entry) (active : List LaneId) (as : List (LaneId × Act)) {f : State → Nat → Nat → State}
    (hf : ∀ t g n, FitKept t (f t g n)) : FitKept s (settleGang s e active as f) :=
  (FitKept.foldl _ (fun _ _ => fitKept_exitProgress _ _) _ _).after ((fitKept_partFocus _).after
    (FitKept.foldl _ (fun _ _ => FitKept.ite (fitKept_settleWaveSlice _ _ _ _ _ _ _ _)
      ((hf _ _ _).after (fitKept_modSlice _ _ _ _))) _ _))

theorem fitKept_settleAll (s0 s : State) (e : Entry) (active : List LaneId) (as : List (LaneId × Act)) :
    FitKept s (settleAll s0 s e active as) := by
  unfold settleAll
  split
  · exact (fitKept_partFocus _).after (FitKept.foldl _ (fun _ _ => fitKept_settleWaveSlice _ _ _ _ _ _ _ _) _ _)
  · exact FitKept.foldl _ (fun _ _ => fitKept_settleSingle _ _ _ _) _ _

theorem fitKept_applyActs {e : Entry} (he : e.KeepsFit) (s0 : State) (active : List LaneId) (seen : List Nat) (s : State)
    (as : List (LaneId × Act)) : FitKept s (applyActs s0 e active seen s as) := by
  induction as generalizing seen s with
  | nil => exact FitKept.refl s
  | cons a as ih =>
    unfold applyActs
    split
    · exact (fitKept_writeLanes _ _ _).trans ((he.eff _ _ _).trans (ih _ _))
    · exact FitKept.ite (ih _ _) ((he.note _ _ _).trans (ih _ _))
    · exact ih _ _

theorem fitKept_groupEffects {e : Entry} (he : e.KeepsFit) (s0 : State) (active done : List LaneId) (s : State) :
    FitKept s (groupEffects s0 e active done s) := by
  unfold groupEffects
  split
  · exact FitKept.refl s
  · rename_i f h
    exact FitKept.foldl _ (fun _ _ => he.once f h _ _) _ _

theorem fitKept_applyDone {e : Entry} (he : e.KeepsFit) (s0 s : State) (active : List LaneId) (as : List (LaneId × Act)) :
    FitKept s (applyDone s0 s e active as) :=
  (fitKept_applyActs he _ _ _ _ _).trans (fitKept_groupEffects he _ _ _ _)

theorem fitKept_finish {e : Entry} (he : e.KeepsFit) (s : State) (active : List LaneId) (as : List (LaneId × Act)) :
    FitKept s (finish s e active as) :=
  FitKept.ite (FitKept.refl _) (FitKept.ite ((FitKept.foldl _ (fun _ _ => he.note _ _ _) _ _).trans (fitKept_swapOut _ _))
    ((fitKept_applyDone he _ _ _ _).trans ((fitKept_consumePops _ _ _ _).trans ((fitKept_settleAll _ _ _ _ _).trans
      ((fitKept_noteRetired _ _ _).trans (fitKept_clearFailed _ _))))))

theorem outcomeFits_runEntry {e : Entry} (he : e.KeepsFit) (s : State) (i : Instr) : OutcomeFits s (runEntry s i e) := by
  unfold runEntry
  dsimp only
  split
  · exact OutcomeFits.fault _
  · exact OutcomeFits.next (fitKept_finish he _ _ _)

theorem outcomeFits_runMove {f : State → Nat → Nat → State} {g : State → LaneId → State} (hf : ∀ t k n, FitKept t (f t k n))
    (hg : ∀ t l, FitKept t (g t l)) (s : State) (i : Instr) (e : Entry) : OutcomeFits s (runMove s i e f g) := by
  unfold runMove
  dsimp only
  split
  · exact OutcomeFits.fault _
  · split
    · exact OutcomeFits.next (FitKept.refl s)
    · split
      · exact OutcomeFits.next ((fitKept_settleGang _ _ _ _ hf).trans (fitKept_noteRetired _ _ _))
      · refine OutcomeFits.next (FitKept.trans (FitKept.foldl _ (fun t a => ?_) _ _) (fitKept_noteRetired _ _ _))
        split
        · exact hg _ _
        · exact fitKept_settleSingle _ _ _ _

theorem fitKept_stepSingle (len : Nat) (s : State) (l : LaneId) : FitKept s (stepSingle len s l) := fitKept_settleSingle _ _ _ _

/-- A register instruction, without effects but its writes. -/
theorem outcomeFits_runPure (s : State) (i : Instr) (form : Form) (plan : LaneId → List Word → Act) :
    OutcomeFits s (runEntry s i (pureEntry form plan)) := outcomeFits_runEntry (keepsFit_pureEntry form plan) s i

/-! ### Special functions -/

theorem outcomeFits_execSpecial (i : Instr) (ea : Bool) (d a : Reg) (f : Word → Word → Word × Flags) (s : State) :
    OutcomeFits s (execSpecial i ea d a f s) := by
  refine outcomeFits_runEntry (.of_effects (fun l vs t => ?_) rfl rfl) _ _
  dsimp only
  split
  · split
    · exact fitKept_post _ _ _
    · exact FitKept.refl _
  · exact FitKept.refl _

theorem outcomeFits_execFrcp (ea : Bool) (d a : Reg) (s : State) : OutcomeFits s (execFrcp ea d a s) :=
  outcomeFits_execSpecial _ _ _ _ _ _

theorem outcomeFits_execFrsq (ea : Bool) (d a : Reg) (s : State) : OutcomeFits s (execFrsq ea d a s) :=
  outcomeFits_execSpecial _ _ _ _ _ _

theorem outcomeFits_execFsqrt (ea : Bool) (d a : Reg) (s : State) : OutcomeFits s (execFsqrt ea d a s) :=
  outcomeFits_execSpecial _ _ _ _ _ _

theorem outcomeFits_execFexp2 (ea : Bool) (d a : Reg) (s : State) : OutcomeFits s (execFexp2 ea d a s) :=
  outcomeFits_execSpecial _ _ _ _ _ _

theorem outcomeFits_execFlog2 (ea : Bool) (d a : Reg) (s : State) : OutcomeFits s (execFlog2 ea d a s) :=
  outcomeFits_execSpecial _ _ _ _ _ _

theorem outcomeFits_execFsin (ea : Bool) (d a : Reg) (s : State) : OutcomeFits s (execFsin ea d a s) :=
  outcomeFits_execSpecial _ _ _ _ _ _

theorem outcomeFits_execFcos (ea : Bool) (d a : Reg) (s : State) : OutcomeFits s (execFcos ea d a s) :=
  outcomeFits_execSpecial _ _ _ _ _ _

/-! ### Branches -/

theorem outcomeFits_execBra (ea : Bool) (a : Reg) (off : BitVec 18) (s : State) : OutcomeFits s (execBra ea a off s) :=
  outcomeFits_runEntry (.of_still rfl rfl rfl) _ _

theorem outcomeFits_execBrz (ea : Bool) (a : Reg) (off : BitVec 18) (s : State) : OutcomeFits s (execBrz ea a off s) :=
  outcomeFits_runEntry (.of_still rfl rfl rfl) _ _

theorem outcomeFits_execRet (ea : Bool) (a : Reg) (s : State) : OutcomeFits s (execRet ea a s) :=
  outcomeFits_runEntry (.of_still rfl rfl rfl) _ _

theorem fitKept_brxNote (l : LaneId) (i t : Nat) (s : State) : FitKept s (brxNote l i t s) := by
  unfold brxNote
  refine FitKept.foldl _ (fun s e => ?_) _ _
  dsimp only
  split
  · exact (contextsKept_laneFetch _ _ _ _ _).fit.after ((contextsKept_ownStash _ _ _).fit.after (fitKept_noteLane _ _ _ _))
  · exact fitKept_noteLane _ _ _ _

theorem outcomeFits_execBrx (ea eb : Bool) (a b : Reg) (s : State) : OutcomeFits s (execBrx ea eb a b s) :=
  outcomeFits_runEntry (.of_lanes (fun _ _ _ => fitKept_brxNote _ _ _ _) (fun _ _ _ => fitKept_brxNote _ _ _ _) rfl) _ _

/-! ### Synchronisation and traps -/

theorem outcomeFits_execRegang (span : Bool) (s : State) : OutcomeFits s (execRegang span s) :=
  outcomeFits_runMove (fun _ _ _ => fitKept_modSlice _ _ _ _) (fitKept_stepSingle 4) _ _ _

theorem fitKept_exitSingle (s : State) (l : LaneId) : FitKept s (exitSingle s l) := by
  unfold exitSingle
  split
  · exact (fitKept_modTeam _ _ _).after (fitKept_drainLane _ _)
  · exact FitKept.fields (fitKept_drainLane _ _)
  · exact FitKept.refl _

theorem outcomeFits_execExit (s : State) : OutcomeFits s (execExit s) :=
  outcomeFits_runMove (fun _ _ _ => fitKept_exitLanes _ _ _ _ _) fitKept_exitSingle _ _ _

theorem fitKept_waitSlice (w : Wait) (s : State) (g n : Nat) : FitKept s (waitSlice w s g n) := fitKept_modSlice _ _ _ _

theorem fitKept_arriveSlice (w : Wait) (s : State) (g n : Nat) : FitKept s (arriveSlice w s g n) :=
  (fitKept_waitSlice _ _ _ _).after (fitKept_drainGroup _ _)

theorem outcomeFits_execBar (id : BitVec 2) (s : State) : OutcomeFits s (execBar id s) :=
  outcomeFits_runMove (fitKept_arriveSlice _) (fitKept_stepSingle 4) _ _ _

theorem outcomeFits_execBarTeam (s : State) : OutcomeFits s (execBarTeam s) :=
  outcomeFits_runMove (fitKept_arriveSlice _) (fitKept_stepSingle 4) _ _ _

theorem fitKept_passSlice (len : Nat) (s : State) (g n : Nat) : FitKept s (passSlice len s g n) := fitKept_modSlice _ _ _ _

theorem outcomeFits_execYield (s : State) : OutcomeFits s (execYield s) :=
  outcomeFits_runMove (fun _ _ _ => FitKept.ite (fitKept_passSlice _ _ _ _) (fitKept_waitSlice _ _ _ _))
    (fitKept_stepSingle 4) _ _ _

theorem fitKept_sleepSlice (n : Nat) (s : State) (g k : Nat) : FitKept s (sleepSlice n s g k) := by
  unfold sleepSlice
  split
  · exact fitKept_passSlice _ _ _ _
  · extract_lets l u
    have hu : FitKept s u := fitKept_waitSlice _ _ _ _
    split
    · split
      · exact (fitKept_modSlot _ _ _).after hu
      · exact hu
    · exact hu

theorem fitKept_sleepSingle (n : Nat) (s : State) (l : LaneId) : FitKept s (sleepSingle n s l) := by
  unfold sleepSingle
  extract_lets u
  have hu : FitKept s u := fitKept_stepSingle _ _ _
  split
  · exact (fitKept_modTeam _ _ _).after hu
  · exact FitKept.fields hu
  · exact hu

theorem outcomeFits_execSleep (n : BitVec 16) (s : State) : OutcomeFits s (execSleep n s) :=
  outcomeFits_runMove (fitKept_sleepSlice _) (fitKept_sleepSingle _) _ _ _

theorem fitKept_fenceLane (scope : Scope) (sc : Bool) (l : LaneId) (s : State) : FitKept s (fenceLane scope sc l s) := by
  unfold fenceLane
  extract_lets u c
  have hu : FitKept s u := fitKept_fenceAccesses _ _ _
  split
  · exact FitKept.ite ((fitKept_promoteReads _ _).after hu) hu
  · split
    · exact (fitKept_promoteReads _ _).after ((contextsKept_invalidateL1 _ _).fit.after ((contextsKept_releaseWide _ _ _ _).fit.after hu))
    · split
      · exact (fitKept_markFenced _ _).after (FitKept.ite ((contextsKept_invalidateL1 _ _).fit.after hu) hu)
      · exact hu

theorem outcomeFits_execFence (scope : Scope) (sc : Bool) (s : State) : OutcomeFits s (execFence scope sc s) := by
  refine outcomeFits_runEntry (.of_lanes (fun l x t => ?_) (fun _ _ _ => fitKept_fenceLane _ _ _ _) rfl) _ _
  dsimp only
  split
  · exact fitKept_noteLane _ _ _ _
  · exact FitKept.refl _

theorem outcomeFits_execQfence (mask : BitVec 8) (s : State) : OutcomeFits s (execQfence mask s) :=
  outcomeFits_runEntry (.of_still rfl rfl rfl) _ _

theorem outcomeFits_execTrap (n : BitVec 9) (s : State) : OutcomeFits s (execTrap n s) :=
  outcomeFits_runEntry (.of_still rfl rfl rfl) _ _

theorem outcomeFits_execBrk (n : BitVec 9) (s : State) : OutcomeFits s (execBrk n s) :=
  outcomeFits_runEntry (.of_still rfl rfl rfl) _ _

theorem fitKept_rettSlice (s : State) (g n : Nat) : FitKept s (rettSlice s g n) := fitKept_modSlice _ _ _ _

theorem outcomeFits_execRett (s : State) : OutcomeFits s (execRett s) :=
  outcomeFits_runMove fitKept_rettSlice (fun _ _ => FitKept.refl _) _ _ _

/-! ### Loads, stores and the stash -/

theorem fitKept_noteOwn (s : State) (l : LaneId) (tm va : Nat) : FitKept s (noteOwn s l tm va) := by
  unfold noteOwn
  extract_lets p u
  have hu : FitKept s u := (contextsKept_noteAccess _ _ _ _ _).fit
  split
  · exact (fitKept_addPage _ _ _).after hu
  · exact (fitKept_addPage _ _ _).after hu
  · exact hu

theorem fitKept_noteWait (s : State) (l : LaneId) (va : Nat) (a : Acc) (absent : Option Nat) :
    FitKept s (noteWait s l va a absent) := by
  unfold noteWait
  split
  · exact fitKept_noteLane _ _ _ _
  · exact fitKept_noteLane _ _ _ _

theorem fitKept_loadLane (z : Size) (sc : Scope) (acq : Bool) (d : Reg) (l : LaneId) (va : Nat) (s : State) :
    FitKept s (loadLane z sc acq d l va s) := by
  unfold loadLane
  split
  · exact (fitKept_loadAccess _ _ _ _ _ _ _ _).after (fitKept_noteLane _ _ _ _)
  · exact FitKept.refl _

theorem outcomeFits_execLd (size : Size) (scope : Scope) (acq : Bool) (ea : Bool) (d a : Reg) (off : BitVec 6) (s : State) :
    OutcomeFits s (execLd size scope acq ea d a off s) := by
  refine outcomeFits_runEntry (.of_lanes (fun l vs t => ?_) (fun _ _ _ => fitKept_loadLane _ _ _ _ _ _ _) rfl) _ _
  dsimp only
  split
  · exact fitKept_noteOwn _ _ _ _
  · exact fitKept_noteLane _ _ _ _

theorem fitKept_storeLane (sc : Scope) (rel : Bool) (l : LaneId) (va : Nat) (bs : List Byte) (s : State) :
    FitKept s (storeLane sc rel l va bs s) := by
  unfold storeLane
  split
  · exact (fitKept_storeAccess _ _ _ _ _ _ _).after (fitKept_noteLane _ _ _ _)
  · exact FitKept.refl _

theorem outcomeFits_execSt (size : Size) (scope : Scope) (rel : Bool) (ea : Bool) (d a : Reg) (off : BitVec 6) (s : State) :
    OutcomeFits s (execSt size scope rel ea d a off s) :=
  outcomeFits_runEntry (.of_lanes (fun _ _ _ => fitKept_noteWait _ _ _ _ _) (fun _ _ _ => fitKept_storeLane _ _ _ _ _ _) rfl) _ _

theorem fitKept_scratchFill (l : LaneId) (e n : Nat) (s : State) : FitKept s (scratchFill l e n s) := by
  unfold scratchFill
  split
  · exact FitKept.refl _
  · split
    · exact FitKept.ite (FitKept.refl _) ((fitKept_addPage _ _ _).after (contextsKept_stashFillAt _ _ _ _).fit)
    · exact (contextsKept_stashFillAt _ _ _ _).fit

theorem fitKept_loadScratch (z : Size) (sc : Bool) (acq : Bool) (d : Reg) (l : LaneId) (e : Nat) (s : State) :
    FitKept s (loadScratch z sc acq d l e s) := by
  unfold loadScratch
  dsimp only
  split
  · exact fitKept_scratchFill _ _ _ _
  · exact (fitKept_loadLocal _ _ _ _ _ _ _ _ _).after (fitKept_scratchFill _ _ _ _)

theorem fitKept_storeScratch (team rel : Bool) (l : LaneId) (e : Nat) (bs : List Byte) (s : State) :
    FitKept s (storeScratch team rel l e bs s) := by
  unfold storeScratch
  dsimp only
  split
  · exact fitKept_scratchFill _ _ _ _
  · exact (fitKept_storeLocal _ _ _ _ _ _ _ _).after (fitKept_scratchFill _ _ _ _)

theorem outcomeFits_execLdl (size : Size) (team acq : Bool) (ea : Bool) (d a : Reg) (off : BitVec 6) (s : State) :
    OutcomeFits s (execLdl size team acq ea d a off s) :=
  outcomeFits_runEntry (.of_lanes (fun _ _ _ => fitKept_scratchFill _ _ _ _)
    (fun _ _ _ => fitKept_loadScratch _ _ _ _ _ _ _) rfl) _ _

theorem outcomeFits_execStl (size : Size) (team rel : Bool) (ea : Bool) (d a : Reg) (off : BitVec 6) (s : State) :
    OutcomeFits s (execStl size team rel ea d a off s) :=
  outcomeFits_runEntry (.of_lanes (fun _ _ _ => fitKept_scratchFill _ _ _ _) (fun _ _ _ => fitKept_storeScratch _ _ _ _ _ _) rfl) _ _

theorem fitKept_prefetchLane (l : LaneId) (va : Nat) (s : State) : FitKept s (prefetchLane l va s) := by
  unfold prefetchLane
  split
  · exact FitKept.refl _
  · split
    · exact (contextsKept_touchL2 _ _ _ _ _).fit.after ((contextsKept_touchL2 _ _ _ _ _).fit.after (fitKept_noteLane _ _ _ _))
    · exact FitKept.refl _

theorem fitKept_clineLane (inv : Bool) (l : LaneId) (va : Nat) (s : State) : FitKept s (clineLane inv l va s) := by
  unfold clineLane
  split
  · exact FitKept.refl _
  · exact FitKept.ite ((contextsKept_modCore _ _ _).fit.after ((FitKept.foldl _ (fun _ _ => (contextsKept_cleanSector _ _ _).fit) _ _).after
      ((fitKept_noteLane _ _ _ _).after (fitKept_beforeAccess _ _))))
      ((FitKept.foldl _ (fun _ _ => (contextsKept_cleanSector _ _ _).fit) _ _).after
      ((fitKept_noteLane _ _ _ _).after (fitKept_beforeAccess _ _)))
  · exact FitKept.refl _

theorem outcomeFits_execClinePf (scope : Scope) (ea : Bool) (a : Reg) (off : BitVec 6) (s : State) :
    OutcomeFits s (execClinePf scope ea a off s) :=
  outcomeFits_runEntry (.of_effects (fun _ _ _ => fitKept_prefetchLane _ _ _) rfl rfl) _ _

theorem outcomeFits_execClineWb (scope : Scope) (ea : Bool) (a : Reg) (off : BitVec 6) (s : State) :
    OutcomeFits s (execClineWb scope ea a off s) :=
  outcomeFits_runEntry (.of_effects (fun _ _ _ => fitKept_clineLane _ _ _ _) rfl rfl) _ _

theorem outcomeFits_execClineInv (scope : Scope) (ea : Bool) (a : Reg) (off : BitVec 6) (s : State) :
    OutcomeFits s (execClineInv scope ea a off s) :=
  outcomeFits_runEntry (.of_effects (fun _ _ _ => fitKept_clineLane _ _ _ _) rfl rfl) _ _

theorem fitKept_fillNote (l : LaneId) (tm side off : Nat) (s : State) : FitKept s (fillNote l tm side off s) := by
  unfold fillNote
  split
  · exact FitKept.ite (FitKept.refl _) ((fitKept_addPage _ _ _).after (contextsKept_stashFillAt _ _ _ _).fit)
  · exact (contextsKept_stashFillAt _ _ _ _).fit

theorem fitKept_stashFlushWindow (s : State) (tm side num : Nat) (unfill : Bool) :
    FitKept s (stashFlushWindow s tm side num unfill) := by
  unfold stashFlushWindow
  dsimp only
  split
  · exact (FitKept.foldl _ (fun _ _ => (contextsKept_stashClean _ _ _ _ _ _).fit) _ _).after (contextsKept_performThose _ _).fit
  · exact (contextsKept_performThose _ _).fit

theorem fitKept_stashFlushFill (s : State) (tm side num : Nat) : FitKept s (stashFlushFill s tm side num) := by
  unfold stashFlushFill
  dsimp only
  split
  · exact (FitKept.foldl _ (fun _ _ => (contextsKept_stashFillAt _ _ _ _).fit) _ _).after (fitKept_stashFlushWindow _ _ _ _ _)
  · exact fitKept_stashFlushWindow _ _ _ _ _

theorem fitKept_stashDrop (s : State) (tm side num : Nat) : FitKept s (stashDrop s tm side num) :=
  (fitKept_modTeam _ _ _).after (fitKept_stashFlushWindow _ _ _ _ _)

theorem fitKept_stashMapLane (l : LaneId) (off win : Nat) (s : State) : FitKept s (stashMapLane l off win s) := by
  unfold stashMapLane
  extract_lets tm side u u1
  have hu : FitKept s u := (contextsKept_performThose _ _).fit.after (contextsKept_stashFillAt _ _ _ _).fit
  have hu1 : FitKept s u1 := (fitKept_stashDrop _ _ _ _).after hu
  split
  · exact hu1
  · split
    · exact (fitKept_modTeam _ _ _).after hu1

theorem fitKept_stashWinNote (l : LaneId) (win : Nat) (fill : Bool) (s : State) : FitKept s (stashWinNote l win fill s) := by
  unfold stashWinNote
  split
  · exact fitKept_noteLane _ _ _ _
  · split
    · exact FitKept.ite (FitKept.foldl _ (fun _ _ => fitKept_fillNote _ _ _ _ _) _ _) (FitKept.refl _)
    · exact FitKept.refl _

theorem outcomeFits_execStashMap (ea : Bool) (d a : Reg) (s : State) : OutcomeFits s (execStashMap ea d a s) :=
  outcomeFits_runEntry (.of_lanes (fun _ _ _ => FitKept.ite ((fitKept_stashWinNote _ _ _ _).after (fitKept_fillNote _ _ _ _ _))
    (FitKept.refl _)) (fun _ _ _ => FitKept.ite (fitKept_stashMapLane _ _ _ _) (FitKept.refl _)) rfl) _ _

theorem outcomeFits_execStashUnmap (ea : Bool) (a : Reg) (s : State) : OutcomeFits s (execStashUnmap ea a s) :=
  outcomeFits_runEntry (.of_lanes (fun _ _ _ => FitKept.ite (fitKept_stashWinNote _ _ _ _) (FitKept.refl _))
    (fun _ _ _ => FitKept.ite (fitKept_stashDrop _ _ _ _) (FitKept.refl _)) rfl) _ _

theorem outcomeFits_execStashFlush (ea : Bool) (a : Reg) (s : State) : OutcomeFits s (execStashFlush ea a s) :=
  outcomeFits_runEntry (.of_lanes (fun _ _ _ => FitKept.ite (fitKept_stashWinNote _ _ _ _) (FitKept.refl _))
    (fun _ _ _ => FitKept.ite (fitKept_stashFlushFill _ _ _ _) (FitKept.refl _)) rfl) _ _

/-! ### Atomics -/

theorem fitKept_atomLane (op : AtomOp) (sc : Scope) (ar : Bool) (d : Reg) (l : LaneId) (va : Nat) (v c1 : Word) (s : State) :
    FitKept s (atomLane op sc ar d l va v c1 s) := by
  unfold atomLane
  split
  · exact (fitKept_atomAccess _ _ _ _ _ _ _ _ _ _).after (fitKept_noteLane _ _ _ _)
  · exact FitKept.refl _

theorem outcomeFits_execAtom (op : AtomOp) (scope : Scope) (ar : Bool) (d a b : Reg) (s : State) :
    OutcomeFits s (execAtom op scope ar d a b s) :=
  outcomeFits_runEntry (.of_lanes (fun _ _ _ => fitKept_noteWait _ _ _ _ _)
    (fun _ _ _ => fitKept_atomLane _ _ _ _ _ _ _ _ _) rfl) _ _

theorem fitKept_atomScratch (op : AtomOp) (team ar : Bool) (d : Reg) (l : LaneId) (e : Nat) (v c1 : Word) (s : State) :
    FitKept s (atomScratch op team ar d l e v c1 s) := by
  unfold atomScratch
  dsimp only
  split
  · exact fitKept_scratchFill _ _ _ _
  · exact (fitKept_atomLocal _ _ _ _ _ _ _ _ _ _ _).after (fitKept_scratchFill _ _ _ _)

theorem outcomeFits_execAtoml (op : AtomOp) (team ar : Bool) (d a b : Reg) (s : State) :
    OutcomeFits s (execAtoml op team ar d a b s) :=
  outcomeFits_runEntry (.of_lanes (fun _ _ _ => fitKept_scratchFill _ _ _ _)
    (fun _ _ _ => fitKept_atomScratch _ _ _ _ _ _ _ _ _) rfl) _ _

/-! ### Spans of engines -/

theorem fitKept_engDone (s : State) (p eng : Nat) : FitKept s (engDone s p eng) := FitKept.of_eq rfl rfl

theorem fitKept_poolNote (s : State) (eng core p va : Nat) (a : Acc) : FitKept s (poolNote s eng core p va a) := by
  unfold poolNote
  split
  · exact FitKept.refl _
  · split
    · exact FitKept.ite (FitKept.refl _) (contextsKept_noteAccess _ _ _ _ _).fit
    · exact FitKept.ite (FitKept.refl _) (contextsKept_noteAccess _ _ _ _ _).fit
    · exact FitKept.refl _

theorem takeFits_spanTake (eng core p : Nat) (a : Acc) (cs : List (Nat × Nat)) (s : State) : TakeFits s
    (spanTake eng core p a cs s) := by
  induction cs with
  | nil => exact FitKept.refl s
  | cons c cs ih =>
    unfold spanTake
    split
    · exact fitKept_poolNote _ _ _ _ _ _
    · exact ih

theorem fitKept_spanMark (s : State) (core p va : Nat) (bad : List Bool) : FitKept s (spanMark s core p va bad) := by
  unfold spanMark
  refine FitKept.foldl _ (fun s b => ?_) _ _
  split
  · split
    · exact (contextsKept_poisonMem _ _ _).fit
    · exact FitKept.refl _
  · exact FitKept.refl _

theorem fitKept_spanWait (s : State) (eng core p va : Nat) (a : Acc) : FitKept s (spanWait s eng core p va a) := by
  unfold spanWait
  dsimp only
  split
  · exact (contextsKept_modPart _ _ _).fit.after (contextsKept_noteAccess _ _ _ _ _).fit
  · exact (contextsKept_modPart _ _ _).fit.after (contextsKept_noteAccess _ _ _ _ _).fit
  · exact (contextsKept_noteAccess _ _ _ _ _).fit

theorem fitKept_scratchHold (s : State) (eng tm side off n : Nat) {e : State × Block} (h : scratchHold s eng tm side off n = some e) :
    FitKept s e.1 := by
  simp only [scratchHold, Option.bind_eq_some_iff, Option.map_eq_some_iff] at h
  obtain ⟨t, -, b, -, rfl⟩ := h
  split
  · exact fitKept_poolNote _ _ _ _ _ _
  · exact FitKept.refl s

theorem fitKept_scratchWrite (s : State) (tm side off : Nat) (bs : List Byte) (bad : Bool) :
    FitKept s (scratchWrite s tm side off bs bad) :=
  FitKept.ite ((fitKept_modTeam _ _ _).after (contextsKept_scratchStore _ _ _ _ _).fit) (contextsKept_scratchStore _ _ _ _ _).fit

theorem fitKept_scratchMark (s : State) (tm side off : Nat) (bad : List Bool) :
    FitKept s (scratchMark s tm side off bad) := FitKept.of_eq rfl rfl

theorem fitKept_ringAdvance (s : State) (tm side off k : Nat) : FitKept s (ringAdvance s tm side off k) :=
  (contextsKept_ringChange _ _ _ _ _ _).fit

theorem fitKept_ringFlag (s : State) (tm side off f : Nat) : FitKept s (ringFlag s tm side off f) :=
  (contextsKept_ringChange _ _ _ _ _ _).fit

/-! ### Copies, slots and streams -/

theorem fitKept_cpyFill (s : State) (l : LaneId) (cmd : List Word) : FitKept s (cpyFill s l cmd) :=
  FitKept.ite (fitKept_fillNote _ _ _ _ _) (FitKept.refl _)

theorem outcomeFits_execCpy (ea : Bool) (a : Reg) (s : State) : OutcomeFits s (execCpy ea a s) := by
  refine outcomeFits_runEntry (.of_lanes (fun _ _ _ => fitKept_cpyFill _ _ _) (fun l vs t => ?_) rfl) _ _
  dsimp only
  exact (contextsKept_modCore _ _ _).fit.after (fitKept_cpyFill _ _ _)

theorem fitKept_dropPage (s : State) (p va : Nat) : FitKept s (dropPage s p va) := FitKept.of_eq rfl rfl

theorem fitKept_takeDesc (s : State) (p : Nat) {d : Nat} {t : State} (h : takeDesc s p = some (d, t)) : FitKept s t := by
  unfold takeDesc at h
  dsimp only at h
  split at h
  · split at h
    · rename_i hf
      rw [← (Prod.mk.inj (Option.some.inj h)).2]
      exact (contextsKept_modPart _ _ _).fit.after (contextsKept_takeFrame s _ p _ hf).fit
    · cases h
  · rw [← (Prod.mk.inj (Option.some.inj h)).2]
    exact (contextsKept_modPart _ _ _).fit

theorem fitKept_dedupPrepare (s : State) (core p va : Nat) (bs : List Byte) (bad : List Bool) :
    FitKept s (dedupPrepare s core p va bs bad).1 := by
  have plain : FitKept s (spanMark (spanWrite s core p va bs false) core p va bad) :=
    (contextsKept_spanWrite _ _ _ _ _ _).fit.trans (fitKept_spanMark _ _ _ _ _)
  unfold dedupPrepare
  dsimp only
  split
  · split
    · exact plain
    · split
      · exact (contextsKept_storeDev _ _ _).fit
      · split
        · exact plain.trans (contextsKept_tlbDrop _ _).fit
        · rename_i h
          exact plain.trans ((fitKept_takeDesc _ _ h).trans ((contextsKept_storeDev _ _ _).fit.trans (contextsKept_modPart _ _ _).fit))
  · exact FitKept.refl s

theorem fitKept_leaveFrame (s : State) (core f : Nat) : FitKept s (leaveFrame s core f) :=
  (contextsKept_modCore _ _ _).fit.after ((contextsKept_recallDev _ _ _).fit.after (fitKept_drainFrame _ _))

theorem fitKept_dedupSwap (s : State) (core p va : Nat) (w : LeafSwap) : FitKept s (dedupSwap s core p va w).1 := by
  unfold dedupSwap
  extract_lets old u f u1 u2 u3 c u4
  have hu : FitKept s u := FitKept.ite (fitKept_drainFrame _ _) (FitKept.refl _)
  have h3 : FitKept u u3 :=
    (FitKept.ite (FitKept.refl _) (fitKept_leaveFrame _ _ _)).trans ((contextsKept_storeDev _ _ _).fit.trans
      (FitKept.ite (FitKept.refl _) (contextsKept_giveFrame _ _ _).fit))
  split
  · exact hu.trans (h3.trans ((contextsKept_tlbDrop _ _).fit.trans (contextsKept_movePages _ _ _ _).fit))
  · split
    · exact hu.trans (contextsKept_retireDesc _ _ _).fit
    · exact hu.trans ((contextsKept_storeDev _ _ _).fit.trans
        (FitKept.ite ((contextsKept_giveFrame _ _ _).fit.trans (contextsKept_retireDesc _ _ _).fit) (FitKept.refl _)))

theorem fitKept_copyFail (s : State) (core : Nat) (o : CopyOp) (cause addr : Nat) : FitKept s (copyFail s core o cause addr) :=
  (fitKept_tryEndTeam _ _).after ((fitKept_modTeam _ _ _).after
    ((contextsKept_modCore _ _ _).fit.after (FitKept.ite (fitKept_ringFlag _ _ _ _ _) (FitKept.refl _))))

theorem fitKept_copyDone (s : State) (core : Nat) (o : CopyOp) : FitKept s (copyDone s core o) :=
  (fitKept_tryEndTeam _ _).after (contextsKept_modCore _ _ _).fit

theorem fitKept_modCopy (s : State) (core : Nat) (f : CopyOp → CopyOp) : FitKept s (modCopy s core f) := FitKept.of_eq rfl rfl

theorem takeFits_copyRow (s : State) (core p : Nat) (o : CopyOp) (pl : Nat × Nat) (ga : Nat) : TakeFits s
    (copyRow s core p o pl ga) := by
  unfold copyRow
  dsimp only
  split
  · split
    · exact FitKept.refl s
    · exact (contextsKept_spanNote _ _ _ _ _ _).fit.trans ((contextsKept_scratchReady _ _ _ _ _).fit.trans
        ((fitKept_scratchWrite _ _ _ _ _ _).trans
        (fitKept_scratchMark _ _ _ _ _)))
  · split
    · exact (contextsKept_scratchReady _ _ _ _ _).fit
    · split
      · exact (contextsKept_scratchReady _ _ _ _ _).fit
      · exact (contextsKept_scratchReady _ _ _ _ _).fit.trans ((contextsKept_spanWrite _ _ _ _ _ _).fit.trans (fitKept_spanMark _ _ _ _ _))

theorem takeFits_partTake (s : State) (core p : Nat) (o : CopyOp) (pl : Nat × Nat) (ga gn sn : Nat) :
    TakeFits s (partTake s core p o pl ga gn sn) := by
  unfold partTake
  split
  · rename_i e h
    exact (takeFits_spanTake _ _ _ _ _ _).error h
  · rename_i u h
    have hu := (takeFits_spanTake _ _ _ _ _ _).ok h
    split
    · rename_i e he
      exact hu.trans (fitKept_scratchHold _ _ _ _ _ _ he)
    · exact hu

theorem fitKept_partDone (s : State) (core : Nat) (o : CopyOp) : FitKept s (partDone s core o) :=
  FitKept.ite (fitKept_modCopy _ _ _) (FitKept.ite (fitKept_modCopy _ _ _) (fitKept_copyDone _ _ _))

theorem fitKept_copyEnds (core : Nat) (o : CopyOp) (e : State × Block) : FitKept e.1 (copyEnds core o e) := by
  unfold copyEnds
  dsimp only
  split
  · exact fitKept_spanWait _ _ _ _ _ _
  · exact (contextsKept_modPart _ _ _).fit.trans (fitKept_copyFail _ _ _ _ _)

theorem fitKept_copyPart (s : State) (core dest : Nat) (o : CopyOp) : FitKept s (copyPart s core dest o) := by
  unfold copyPart
  extract_lets +onlyGivenNames p c
  split
  · extract_lets +onlyGivenNames va
    split
    · split
      · rename_i h
        exact (fitKept_partDone _ _ _).after (FitKept.of_fst (fitKept_dedupSwap _ _ _ _ _) h)
      · rename_i h
        exact (fitKept_modCopy _ _ _).after (FitKept.of_fst (fitKept_dedupSwap _ _ _ _ _) h)
    · dsimp only
      have drop : FitKept s (dropPage s p va) := fitKept_dropPage _ _ _
      split
      · rename_i h
        exact (fitKept_copyEnds _ _ _).after (((takeFits_partTake _ _ _ _ _ _ _ _).error h).after drop)
      · rename_i u h
        have hu : FitKept s u := ((takeFits_partTake _ _ _ _ _ _ _ _).ok h).after drop
        split
        · exact (contextsKept_scratchReady _ _ _ _ _).fit.after hu
        · split
          · rename_i hd
            exact (fitKept_modCopy _ _ _).after ((FitKept.of_fst (fitKept_dedupPrepare _ _ _ _ _ _) hd).after
              ((contextsKept_scratchReady _ _ _ _ _).fit.after hu))
          · rename_i hd
            exact (fitKept_partDone _ _ _).after ((FitKept.of_fst (fitKept_dedupPrepare _ _ _ _ _ _) hd).after
              ((contextsKept_scratchReady _ _ _ _ _).fit.after hu))
          · rename_i hd
            exact (FitKept.of_fst (fitKept_dedupPrepare _ _ _ _ _ _) hd).after ((contextsKept_scratchReady _ _ _ _ _).fit.after hu)
  · dsimp only
    split
    · rename_i h
      exact (fitKept_copyEnds _ _ _).after ((takeFits_partTake _ _ _ _ _ _ _ _).error h)
    · rename_i u h
      have hu : FitKept s u := (takeFits_partTake _ _ _ _ _ _ _ _).ok h
      split
      · rename_i hr
        exact (fitKept_copyEnds _ _ _).after (((takeFits_copyRow _ _ _ _ _ _).error hr).after hu)
      · rename_i hr
        exact (fitKept_partDone _ _ _).after (((takeFits_copyRow _ _ _ _ _ _).ok hr).after hu)

/-- What keeps a copy from the header of its ring, if it has one. -/
theorem fitKept_headerHold {s : State} {c : Prop} [Decidable c] {eng tm side off n : Nat} {e : State × Block}
    (h : (if c then scratchHold s eng tm side off n else none) = some e) : FitKept s e.1 := by
  split at h
  · exact fitKept_scratchHold _ _ _ _ _ _ h
  · cases h

theorem fitKept_copyStep (s : State) (core : Nat) : FitKept s (copyStep s core) := by
  unfold copyStep
  split
  · exact FitKept.refl s
  · rename_i o _ _
    dsimp only
    split
    · exact FitKept.refl s
    · split
      · exact (contextsKept_modCore _ _ _).fit
      · split
        · exact fitKept_copyPart _ _ _ _
        · split
          · rename_i e h
            exact (fitKept_copyEnds _ _ _).after (fitKept_headerHold h)
          · have hu : FitKept s (if cmdHasRing o.cmd = true then scratchReady s o.team 0 (cmdHeader o.cmd) 64 else s) :=
              FitKept.ite (contextsKept_scratchReady _ _ _ _ _).fit (FitKept.refl _)
            split
            · exact hu
            · exact (fitKept_copyFail _ _ _ _ _).after hu
            · exact (fitKept_copyPart _ _ _ _).after ((fitKept_modCopy _ _ _).after hu)

theorem fitKept_publishStep (s : State) (core : Nat) : FitKept s (publishStep s core) := by
  unfold publishStep
  split
  · exact FitKept.refl s
  · dsimp only
    split
    · exact FitKept.refl s
    · split
      · rename_i e h
        exact (fitKept_scratchHold _ _ _ _ _ _ h).trans (fitKept_copyEnds _ _ _)
      · exact (contextsKept_scratchReady _ _ _ _ _).fit.trans (FitKept.ite (FitKept.refl _) ((fitKept_ringAdvance _ _ _ _ _).trans
          ((FitKept.ite (fitKept_ringFlag _ _ _ _ _) (FitKept.refl _)).trans (fitKept_copyDone _ _ _))))

theorem fitKept_slotApply (s : State) (l : LaneId) (off : Nat) (op : SlotOp) : FitKept s (slotApply s l off op) := by
  unfold slotApply
  dsimp only
  split
  · exact FitKept.refl _
  · exact (fitKept_ringAdvance _ _ _ _ _).after (contextsKept_releaseLane _ _ _).fit
  · exact (fitKept_ringAdvance _ _ _ _ _).after (contextsKept_releaseLane _ _ _).fit
  · exact (fitKept_ringFlag _ _ _ _ _).after (contextsKept_releaseLane _ _ _).fit

theorem outcomeFits_execSlot (i : Instr) (ea : Bool) (a : Reg) (d : Option Reg) (op : SlotOp) (s : State) :
    OutcomeFits s (execSlot i ea a d op s) := by
  refine outcomeFits_runEntry (.of_lanes (fun _ _ _ => fitKept_fillNote _ _ _ _ _) (fun l vs t => ?_) rfl) _ _
  dsimp only
  split
  · exact FitKept.refl _
  · split
    · exact (fitKept_post _ _ _).after (contextsKept_stashFillAt _ _ _ _).fit
    · exact (fitKept_slotApply _ _ _ _).after (contextsKept_stashFillAt _ _ _ _).fit

theorem outcomeFits_execQstrm (q : BitVec 3) (ea eb : Bool) (a b : Reg) (s : State) : OutcomeFits s (execQstrm q ea eb a b s) := by
  refine outcomeFits_runEntry (.of_effects (fun l vs t => ?_) rfl rfl) _ _
  dsimp only
  split
  · exact fitKept_modGroup _ _ _
  · exact FitKept.refl _

theorem fitKept_streamBlock (s : State) (eng tm : Nat) (d : List Word) (n : Nat) {e : State × Block}
    (h : streamBlock s eng tm d n = some e) : FitKept s e.1 := by
  obtain ⟨p, -, hp⟩ := List.exists_of_findSome?_eq_some h
  exact fitKept_scratchHold _ _ _ _ _ _ hp

theorem width_deliverEntry (x : Group) (queue n : Nat) (q : Queue) (es : List Elem) : (deliverEntry x queue n q es).width = x.width := by
  unfold deliverEntry
  split <;> rfl

theorem fitKept_streamStep (s : State) (g queue : Nat) : FitKept s (streamStep s g queue) := by
  unfold streamStep
  split
  · exact FitKept.refl _
  · split
    · dsimp only
      split
      · exact FitKept.refl _
      · split
        · rename_i h
          exact (fitKept_spanWait _ _ _ _ _ _).after (fitKept_streamBlock _ _ _ _ _ h)
        · rename_i h
          exact (fitKept_modTeam _ _ _).after ((fitKept_engDone _ _ _).after (fitKept_streamBlock _ _ _ _ _ h))
        · split
          · exact (fitKept_modGroup _ _ _ fun _ => width_deliverEntry _ _ _ _ _).after
              (FitKept.foldl _ (fun _ _ => (contextsKept_stashFillAt _ _ _ _).fit) _ _)
          · exact FitKept.foldl _ (fun _ _ => (contextsKept_stashFillAt _ _ _ _).fit) _ _
    · exact FitKept.refl _

/-! ### The matrix engine -/

theorem fitKept_mmaNote (active : List LaneId) (l : LaneId) (i32 outl unf : Bool) (ra rb : Nat) (s : State) :
    FitKept s (mmaNote active l i32 outl unf ra rb s) := by
  unfold mmaNote
  dsimp only
  split
  · split
    · exact fitKept_addAsync _ _ _ _ _
    · exact FitKept.refl _
  · exact fitKept_fillNote _ _ _ _ _
  · exact FitKept.refl _

theorem fitKept_mmaEnter (i32 outl unf acc : Bool) (d : Reg) (active : List LaneId) (l : LaneId) (ra rb : Nat) (s : State) :
    FitKept s (mmaEnter i32 outl unf acc d active l ra rb s) := by
  unfold mmaEnter
  split
  · exact (fitKept_modQuad _ _ _ _).after ((fitKept_post _ _ _).after (contextsKept_acquireLane _ _ _).fit)
  · exact FitKept.refl _

theorem fitKept_takeSlate (s : State) (k : Nat) : FitKept s (takeSlate s k) := FitKept.of_eq rfl rfl

theorem fitKept_awaitSlate (s : State) (g n : Nat) : FitKept s (awaitSlate s g n) :=
  (fitKept_waitSlice _ _ _ _).after (fitKept_modQuad _ _ _ _)

theorem fitKept_reclaimNow (s : State) : FitKept s (reclaimNow s) := by
  unfold reclaimNow
  split
  · exact FitKept.ite (fitKept_takeSlate _ _) (FitKept.refl _)
  · exact FitKept.refl _

theorem fitKept_gangAwaits (s : State) : FitKept s (gangAwaits s) := by
  unfold gangAwaits
  split
  · exact FitKept.foldl _ (fun _ _ => fitKept_awaitSlate _ _ _) _ _
  · exact FitKept.refl _

theorem keepsFit_mmaEntry (s : State) (active : List LaneId) (i32 outl unf acc : Bool) (d a b : Reg) :
    (mmaEntry s active i32 outl unf acc d a b).KeepsFit :=
  .of_lanes (fun _ _ _ => FitKept.ite (fitKept_mmaNote _ _ _ _ _ _ _ _) (FitKept.refl _))
    (fun _ _ _ => FitKept.ite (fitKept_mmaEnter _ _ _ _ _ _ _ _ _ _) (FitKept.refl _)) rfl

theorem fitKept_failNotes {e : Entry} (he : e.KeepsFit) (s : State) (active : List LaneId) (as : List (LaneId × Act)) :
    FitKept s (failNotes s e active as) := FitKept.foldl _ (fun _ _ => he.note _ _ _) _ _

theorem fitKept_settleFailing {e : Entry} (he : e.KeepsFit) (s : State) (active : List LaneId) (as : List (LaneId × Act)) :
    FitKept s (settleFailing s e active as) :=
  FitKept.ite (FitKept.refl _) ((fitKept_failNotes he _ _ _).trans (fitKept_finish he _ _ _))

theorem fitKept_lanesAwait (s : State) (ls : List LaneId) : FitKept s (lanesAwait s ls) :=
  FitKept.foldl _ (fun _ _ => fitKept_awaitSlate _ _ _) _ _

theorem outcomeFits_execMma (i32 bq outl unf acc : Bool) (d a b : Reg) (s : State) :
    OutcomeFits s (execMma i32 bq outl unf acc d a b s) := by
  have he (u : State) (active : List LaneId) : (mmaEntry u active i32 outl unf acc d a b).KeepsFit :=
    keepsFit_mmaEntry u active i32 outl unf acc d a b
  unfold execMma
  extract_lets active e i as away ok u e' as'
  have hu : FitKept s u := FitKept.ite (FitKept.refl _) (fitKept_reclaimNow _)
  refine OutcomeFits.ite (OutcomeFits.fault _) (OutcomeFits.ite (OutcomeFits.next (FitKept.refl _)) (OutcomeFits.ite
    (OutcomeFits.next (fitKept_finish (he _ _) _ _ _)) (OutcomeFits.ite (OutcomeFits.next ?_) (OutcomeFits.ite (OutcomeFits.next ?_)
    (OutcomeFits.next ?_)))))
  · exact (fitKept_lanesAwait _ _).after (fitKept_settleFailing (he _ _) _ _ _)
  · exact fitKept_settleFailing (he _ _) _ _ _
  · exact (fitKept_finish (he _ _) _ _ _).after ((fitKept_failNotes (he _ _) _ _ _).after hu)

theorem fitKept_landElem (s : State) (id : Nat) (l : LaneId) (r : Nat) (v : Word) (bad : Bool) :
    FitKept s (landElem s id l r v bad) := by
  unfold landElem
  split
  · split
    · exact FitKept.refl _
    · split
      · split
        · split
          · exact (fitKept_landImage _ _ _ _ _).after (fitKept_setLaneElem _ _ _ _)
          · exact FitKept.refl _
        · exact FitKept.refl _
      · exact fitKept_modSlice _ _ _ _
  · exact FitKept.ite (fitKept_setLaneElem _ _ _ _) (FitKept.refl _)

theorem fitKept_landInputs (s : State) (id g i r : Nat) (v : Word) (bad : Bool) :
    FitKept s (landInputs s id g i r v bad) := FitKept.of_eq rfl rfl

theorem fitKept_landPosted (s : State) (p : Posted) : FitKept s (landPosted s p) := by
  unfold landPosted
  dsimp only
  refine (FitKept.foldl _ (fun _ _ => fitKept_tryEndGroup _ _) _ _).after ?_
  refine (FitKept.foldl _ (fun s d => ?_) _ _).after ((contextsKept_noteReply _ _).fit.after (FitKept.fields (FitKept.refl _)))
  split
  · exact (fitKept_landInputs _ _ _ _ _ _ _).after (fitKept_landElem _ _ _ _ _ _)
  · exact fitKept_landElem _ _ _ _ _ _

theorem fitKept_noteDamage (s : State) (g : Nat) (ds : List Damage) : FitKept s (noteDamage s g ds) := by
  unfold noteDamage
  split
  · exact FitKept.refl _
  · exact fitKept_modGroup _ _ _ fun x => by dsimp only; split <;> rfl

theorem fitKept_matrixStep (s : State) (core quad : Nat) : FitKept s (matrixStep s core quad) := by
  unfold matrixStep
  split
  · exact FitKept.refl _
  · dsimp only
    split
    · exact fitKept_modQuad _ _ _ _
    · split
      · exact fitKept_modQuad _ _ _ _
      · split
        · exact FitKept.refl _
        · split
          · exact fitKept_spanWait _ _ _ _ _ _
          · split
            · refine (fitKept_modQuad _ _ _ _).after ?_
              split
              · exact (fitKept_addAsync _ _ _ _ _).after ((fitKept_engDone _ _ _).after
                  (FitKept.foldl _ (fun _ _ => (contextsKept_scratchReady _ _ _ _ _).fit) _ _))
              · exact FitKept.foldl _ (fun _ _ => (contextsKept_scratchReady _ _ _ _ _).fit) _ _
            · refine (fitKept_tryEndTeam _ _).after ((fitKept_landPosted _ _).after
                ((fitKept_modQuad _ _ _ _).after ((fitKept_noteDamage _ _ _).after ?_)))
              split
              · exact (fitKept_addAsync _ _ _ _ _).after ((fitKept_engDone _ _ _).after
                  (FitKept.foldl _ (fun _ _ => (contextsKept_scratchReady _ _ _ _ _).fit) _ _))
              · exact FitKept.foldl _ (fun _ _ => (contextsKept_scratchReady _ _ _ _ _).fit) _ _

theorem outcomeFits_execMtake (s : State) : OutcomeFits s (execMtake s) :=
  outcomeFits_runMove (fun _ _ _ => FitKept.ite
    ((fitKept_passSlice _ _ _ _).after ((contextsKept_acquireLane _ _ _).fit.after (fitKept_takeSlate _ _))) (fitKept_awaitSlate _ _ _))
    (fun _ _ => FitKept.refl _) _ _ _

theorem fitKept_passSlate (s : State) (k tm rank : Nat) : FitKept s (passSlate s k tm rank) := by
  unfold passSlate
  dsimp only
  split
  · exact FitKept.refl _
  · split
    · exact (fitKept_mapGroups _ fun e => by split <;> rfl).after
        ((fitKept_modSlot _ _ _).after (fitKept_modQuad _ _ _ _))
    · exact fitKept_setSlate _ _ _ _

theorem fitKept_releaseLanes (s : State) (ls : List LaneId) : FitKept s (releaseLanes s ls) :=
  FitKept.foldl _ (fun _ _ => (contextsKept_releaseLane _ _ _).fit.after (fitKept_drainLane _ _)) _ _

theorem outcomeFits_execMpass (rank : BitVec 16) (s : State) : OutcomeFits s (execMpass rank s) := by
  unfold execMpass
  extract_lets active first k u held
  have hu : FitKept s u := FitKept.ite (FitKept.refl _) (fitKept_reclaimNow _)
  refine OutcomeFits.ite (OutcomeFits.next (fitKept_gangAwaits _)) (OutcomeFits.of_kept hu (outcomeFits_runMove (fun t g n => ?_)
    (fun _ _ => FitKept.refl _) _ _ _))
  exact FitKept.ite ((fitKept_passSlate _ _ _ _).after ((fitKept_releaseLanes _ _).after (fitKept_passSlice _ _ _ _)))
    (fitKept_passSlice _ _ _ _)

theorem fitKept_slateStep (s : State) (core quad : Nat) : FitKept s (slateStep s core quad) := by
  unfold slateStep
  dsimp only
  split
  · exact (fitKept_mapGroups _ fun e => by split <;> rfl).after (fitKept_takeSlate _ _)
  · exact FitKept.refl _

/-! ### Placing teams -/

theorem fitKept_freshId (s : State) : FitKept s (freshId s).2 := FitKept.of_eq rfl rfl

theorem fitKept_openSlot (s : State) (k launch : Nat) : FitKept s (openSlot s k launch) := by
  unfold openSlot
  dsimp only
  split
  · exact FitKept.ite (fitKept_fetchLines _ _) ((fitKept_modSlot _ _ _).after (fitKept_fetchLines _ _))
  · exact FitKept.fields ((fitKept_freshId _).after (fitKept_clearPlace _ _))

theorem fitKept_startGangs (s : State) (gs : List Nat) (old : List Nat) : FitKept s (startGangs s gs old) :=
  FitKept.foldl _ (fun _ _ => fitKept_modGroup _ _ _) _ _

theorem width_freshGroup (w : List Word) (team gidx : Nat) (seats : List Nat) (base clk : Nat) (pc : Addr) (role : Role) :
    (freshGroup w team gidx seats base clk pc role).width ≤ 64 := by
  have two : bits (wordAt w 7) 1 0 ≤ 3 := by
    unfold bits
    omega
  have power : 2 ^ bits (wordAt w 7) 1 0 ≤ 2 ^ 3 := Nat.pow_le_pow_right (by decide) two
  change 8 * 2 ^ bits (wordAt w 7) 1 0 ≤ 64
  omega

theorem fitKept_startTeam (s : State) (lid : Nat) (l : Launch) (no : Nat) (coord : Word × Word × Word) (c : Nat)
    (seats : List (List Nat × Nat))
    (role : Role) (grip : Bool) : FitKept s (startTeam s lid l no coord c seats role grip) := by
  unfold startTeam
  dsimp only
  exact (fitKept_modLaunch _ _ _).after ((fitKept_setTeam _ _ _).after
    ((fitKept_freshL1 _ _ _).after ((fitKept_startGangs _ _ _).after
    ((FitKept.foldl _ (fun _ _ => fitKept_setGroup _ _ _ (width_freshGroup _ _ _ _ _ _ _ _)) _ _).after
    ((FitKept.foldl _ (fun _ _ => fitKept_openSlot _ _ _) _ _).after (FitKept.fields (fitKept_freshId _)))))))

theorem fitKept_wakeFor (s : State) (c : Nat) : FitKept s (wakeFor s c).2 := by
  unfold wakeFor
  dsimp only
  split
  · exact FitKept.refl s
  · split <;> exact FitKept.of_eq rfl rfl
  · exact FitKept.of_eq rfl rfl
  · exact FitKept.refl s

/-! ### Tasks, dispatch and completion -/

theorem fitKept_ownWait (s : State) (p va : Nat) (a : Acc) : FitKept s (ownWait s p va a) := fitKept_spanWait _ _ _ _ _ _

theorem fitKept_noteDesc (s : State) (p : Nat) (raster : Bool) (q : Nat) : FitKept s (noteDesc s p raster q) := by
  unfold noteDesc
  extract_lets k u
  have hu : FitKept s u := by
    dsimp only [u]
    split
    · exact (contextsKept_devPromote _ _ _).fit
    · exact FitKept.refl _
  split
  · exact FitKept.ite hu ((contextsKept_raiseEvent _ _).fit.after ((fitKept_engDone _ _ _).after
      ((contextsKept_modPart _ _ _).fit.after hu)))
  · exact (fitKept_ownWait _ _ _ _).after hu
  · exact hu

theorem fitKept_putDesc (s : State) (p : Nat) (at? : Option Nat) (off v : Nat) : FitKept s (putDesc s p at? off v) := by
  unfold putDesc
  split
  · exact (contextsKept_devPut _ _ _ _ _).fit
  · exact FitKept.refl _

theorem fitKept_devWrite_getD (s : State) (p va : Nat) (bs : List Byte) : FitKept s ((devWrite s p va bs).getD s) := by
  cases h : devWrite s p va bs with
  | none => exact FitKept.refl s
  | some t => exact (contextsKept_devWrite s t p va bs h).fit

theorem fitKept_writeRefusal (s : State) (p : Nat) (r : Refused) : FitKept s (writeRefusal s p r) := by
  unfold writeRefusal
  dsimp only
  refine (contextsKept_raiseEvent _ _).fit.after ((fitKept_engDone _ _ _).after ?_)
  split
  · exact (fitKept_putDesc _ _ _ _ _).after ((fitKept_putDesc _ _ _ _ _).after
      ((fitKept_putDesc _ _ _ _ _).after (fitKept_putDesc _ _ _ _ _)))
  · exact FitKept.refl _

theorem fitKept_refusalStep (s : State) (p : Nat) : FitKept s (refusalStep s p) := by
  unfold refusalStep
  split
  · exact FitKept.refl _
  · split
    · exact fitKept_ownWait _ _ _ _
    · exact (fitKept_writeRefusal _ _ _).after (contextsKept_modPart _ _ _).fit

theorem fitKept_recordRefusal (s : State) (p : Nat) (r : Refused) : FitKept s (recordRefusal s p r) :=
  (fitKept_refusalStep _ _).after (contextsKept_modPart _ _ _).fit

theorem fitKept_refuseTask (s : State) (p : Nat) (at? : Option Nat) (q ridx code cls : Nat) :
    FitKept s (refuseTask s p at? q ridx code cls) :=
  fitKept_recordRefusal _ _ _

theorem fitKept_refuseRaster (s : State) (p q ridx code : Nat) : FitKept s (refuseRaster s p q ridx code) :=
  fitKept_recordRefusal _ _ _

theorem fitKept_publishRecord (s : State) (p n k : Nat) (e : EnqOp) : FitKept s (publishRecord s p n k e) :=
  (contextsKept_modPart _ _ _).fit.after (fitKept_putDesc _ _ _ _ _)

theorem fitKept_writeRecord (s : State) (p n k : Nat) (d : QDesc) (e : EnqOp) : FitKept s (writeRecord s p n k d e) := by
  unfold writeRecord
  extract_lets e' u
  have hu : FitKept s u := (contextsKept_modPart _ _ _).fit.after (fitKept_devWrite_getD _ _ _ _)
  split
  · exact (fitKept_publishRecord _ _ _ _ _).after hu
  · exact hu

theorem fitKept_enqueueStep (s : State) (p : Nat) : FitKept s (enqueueStep s p) := by
  unfold enqueueStep
  split
  · exact FitKept.refl _
  · split
    · exact fitKept_refusalStep _ _
    · dsimp only
      split
      · exact (fitKept_refuseTask _ _ _ _ _ _ _).after ((contextsKept_modPart _ _ _).fit.after (fitKept_noteDesc _ _ _ _))
      · split
        · exact (fitKept_writeRecord _ _ _ _ _ _).after ((fitKept_putDesc _ _ _ _ _).after (contextsKept_modPart _ _ _).fit)
        · exact (fitKept_putDesc _ _ _ _ _).after (contextsKept_modPart _ _ _).fit
      · exact fitKept_writeRecord _ _ _ _ _ _
      · exact fitKept_publishRecord _ _ _ _ _
      · exact (contextsKept_raiseEvent _ _).fit.after ((fitKept_engDone _ _ _).after (contextsKept_modPart _ _ _).fit)
      · exact FitKept.refl _
      · exact fitKept_ownWait _ _ _ _

theorem fitKept_taskNote (l : LaneId) (succ : Bool) (x : Nat) (s : State) : FitKept s (taskNote l succ x s) :=
  FitKept.ite (fitKept_noteWait _ _ _ _ _) (FitKept.refl _)

theorem fitKept_addEnqueue (s : State) (l : LaneId) (words : List Word) : FitKept s (addEnqueue s l words) := FitKept.of_eq rfl rfl

theorem fitKept_spawnLane (l : LaneId) (x : Nat) (s : State) : FitKept s (spawnLane l x s) := by
  unfold spawnLane
  split
  · exact (fitKept_addEnqueue _ _ _).after ((contextsKept_promoteFor _ _ _ _).fit.after
      ((contextsKept_touchL2 _ _ _ _ _).fit.after ((contextsKept_releaseLane _ _ _).fit.after
      ((fitKept_drainLane _ _).after (fitKept_noteLane _ _ _ _)))))
  · exact FitKept.refl _

theorem fitKept_succLane (l : LaneId) (x : Nat) (s : State) : FitKept s (succLane l x s) := by
  unfold succLane
  split
  · exact FitKept.ite ((fitKept_addEnqueue _ _ _).after ((contextsKept_acquireLane _ _ _).fit.after
      ((contextsKept_writeL2 _ _ _ _ _).fit.after ((contextsKept_recallStash _ _).fit.after
      ((contextsKept_promoteFor _ _ _ _).fit.after ((contextsKept_releaseLane _ _ _).fit.after
      ((fitKept_drainLane _ _).after (fitKept_noteLane _ _ _ _))))))))
      ((contextsKept_acquireLane _ _ _).fit.after ((contextsKept_writeL2 _ _ _ _ _).fit.after
      ((contextsKept_recallStash _ _).fit.after ((contextsKept_promoteFor _ _ _ _).fit.after
      ((contextsKept_releaseLane _ _ _).fit.after ((fitKept_drainLane _ _).after (fitKept_noteLane _ _ _ _)))))))
  · exact FitKept.refl _

theorem outcomeFits_execTspawn (ea : Bool) (a : Reg) (s : State) : OutcomeFits s (execTspawn ea a s) :=
  outcomeFits_runEntry (.of_lanes (fun _ _ _ => fitKept_taskNote _ _ _ _) (fun _ _ _ => fitKept_spawnLane _ _ _) rfl) _ _

theorem outcomeFits_execTsucc (ea : Bool) (a : Reg) (s : State) : OutcomeFits s (execTsucc ea a s) :=
  outcomeFits_runEntry (.of_lanes (fun _ _ _ => fitKept_taskNote _ _ _ _) (fun _ _ _ => fitKept_succLane _ _ _) rfl) _ _

theorem fitKept_refreshQueues (s : State) : FitKept s (refreshQueues s) :=
  (FitKept.foldl _ (fun _ _ => (contextsKept_modPart _ _ _).fit) _ _).after
    (FitKept.foldl _ (fun _ _ => FitKept.foldl _ (fun _ _ => fitKept_noteDesc _ _ _ _) _ _) _ _)

theorem fitKept_refuseHead (s : State) (p q head code : Nat) : FitKept s (refuseHead s p q head code) :=
  (fitKept_refuseTask _ _ _ _ _ _ _).after (fitKept_putDesc _ _ _ _ _)

theorem fitKept_placeHead (s : State) (p q core head : Nat) (lid? : Option Nat) (w : List Word) (header : Nat)
    (seats : List (List Nat × Nat)) : FitKept s (placeHead s p q core head lid? w header seats) := by
  unfold placeHead
  split
  rename_i lid u hu
  have h1 : FitKept s u := by
    split at hu
    · cases hu
      exact FitKept.refl s
    · cases hu
      exact FitKept.of_eq rfl rfl
  refine h1.trans ?_
  split
  rename_i up v hv
  refine (FitKept.of_snd (fitKept_wakeFor _ _) hv).trans ?_
  split
  · exact fitKept_modLaunch _ _ _
  · split
    · exact FitKept.refl _
    · exact (fitKept_modLaunch _ _ _).trans ((fitKept_startTeam _ _ _ _ _ _ _ _ _).trans
        (FitKept.ite ((contextsKept_modPart _ _ _).fit.trans (fitKept_putDesc _ _ _ _ _)) (FitKept.refl _)))

theorem fitKept_dispatchStep (s : State) (core : Nat) : FitKept s (dispatchStep s core) := by
  unfold dispatchStep
  split
  · exact FitKept.refl _
  · split
    · split
      · rename_i h
        have ht := FitKept.of_snd (fitKept_wakeFor _ _) h
        exact FitKept.ite ((fitKept_startTeam _ _ _ _ _ _ _ _ _).after ((fitKept_modLaunch _ _ _).after ht))
          ((fitKept_modLaunch _ _ _).after ht)
    · extract_lets u ps heads waits
      have hu : FitKept s u := fitKept_refreshQueues _
      split
      · exact (FitKept.foldl _ (fun _ _ => fitKept_ownWait _ _ _ _) _ _).after hu
      · dsimp only
        split
        · exact hu
        · split
          · exact (fitKept_refreshQueues _).after ((fitKept_refuseHead _ _ _ _ _).after ((contextsKept_modPart _ _ _).fit.after hu))
          · exact (fitKept_refreshQueues _).after ((fitKept_placeHead _ _ _ _ _ _ _ _ _).after ((contextsKept_modPart _ _ _).fit.after hu))
          · exact (contextsKept_modPart _ _ _).fit.after hu

theorem fitKept_performWrites (s : State) : FitKept s (performWrites s) :=
  FitKept.foldl _ (fun _ _ => (contextsKept_writebackL1 _ _).fit) _ _

/-- The counter that a device's decrement writes. -/
theorem fitKept_countDown (s : State) (p va pa : Nat) (g : Bool) (bs : List Byte) :
    FitKept s (writeL2 (recallStash (promote (noteAccess s 0 p va .rw) none (pa / 256)) pa) p g pa bs) :=
  (contextsKept_writeL2 _ _ _ _ _).fit.after ((contextsKept_recallStash _ _).fit.after
    ((contextsKept_promote _ _ _).fit.after (contextsKept_noteAccess _ _ _ _ _).fit))

theorem fitKept_deviceSucc (s : State) (p va : Nat) {r : State × Bool} (h : deviceSucc s p va = some r) : FitKept s r.1 := by
  unfold deviceSucc at h
  split at h
  · rw [← Option.some.inj h]
    exact FitKept.refl s
  · split at h
    · split at h
      · rw [← Option.some.inj h]
        exact fitKept_engDone _ _ _
      · cases h
    · dsimp only at h
      split at h
      · rw [← Option.some.inj h]
        dsimp only
        exact (contextsKept_modPart _ _ _).fit.after (fitKept_countDown _ _ _ _ _ _)
      · rw [← Option.some.inj h]
        dsimp only
        exact fitKept_countDown _ _ _ _ _ _
    · cases h
    · rw [← Option.some.inj h]
      exact FitKept.refl s

theorem fitKept_completeLaunch (s : State) (lid : Nat) : FitKept s (completeLaunch s lid) := by
  unfold completeLaunch
  split
  · exact FitKept.refl _
  · split
    · exact FitKept.refl _
    · dsimp only
      split
      · exact (fitKept_modLaunch _ _ _).after (fitKept_performWrites _)
      · split
        · exact (fitKept_ownWait _ _ _ _).after (fitKept_performWrites _)
        · rename_i h
          exact (fitKept_modLaunch _ _ _).after (FitKept.trans (fitKept_performWrites _) (fitKept_deviceSucc _ _ _ h))
        · rename_i h
          have ht := FitKept.trans (fitKept_performWrites _) (fitKept_deviceSucc _ _ _ h)
          split
          · exact (fitKept_modLaunch _ _ _).after ((fitKept_refuseTask _ _ _ _ _ _ _).after ht)
          · exact (fitKept_modLaunch _ _ _).after ht

/-! ### Arrivals, page reads and the active set -/

theorem fitKept_landSlotw (s : State) (p : Posted) (header : Nat) (free : Bool) (team side : Nat) :
    FitKept s (landSlotw s p header free team side) := by
  unfold landSlotw
  split
  · exact FitKept.refl _
  · split
    · exact FitKept.refl _
    · split
      · exact FitKept.refl _
      · dsimp only
        split
        · exact (contextsKept_acquireLane _ _ _).fit.after (fitKept_landPosted _ _)
        · exact fitKept_landPosted _ _

theorem fitKept_arrive (s : State) (id : Nat) : FitKept s (arrive s id) := by
  unfold arrive
  split
  · exact FitKept.refl _
  · split
    · exact fitKept_landPosted _ _
    · exact (fitKept_landPosted _ _).after (fitKept_raiseFlags _ _ _)
    · exact (fitKept_landSlotw _ _ _ _ _ _).after (contextsKept_stashFillAt _ _ _ _).fit
    · exact FitKept.refl _
    · exact FitKept.refl _
    · exact FitKept.refl _
    · exact FitKept.refl _

theorem fitKept_deliverAsync (s : State) (k : Nat) (p : Nat × Nat → Bool) : FitKept s (deliverAsync s k p) := by
  unfold deliverAsync
  split
  · exact FitKept.refl _
  · split
    · exact FitKept.refl _
    · exact (fitKept_partWave _ _).after ((fitKept_takeTrap _ _ _ _ _ _).after (fitKept_modSlot _ _ _))

theorem fitKept_reachBoundary (s : State) (k : Nat) (es : List (Nat × Nat)) : FitKept s (reachBoundary s k es) :=
  FitKept.foldl _ (fun _ _ => fitKept_deliverAsync _ _ _) _ _

theorem fitKept_fillSector (s : State) (team side window sector : Nat) : FitKept s (fillSector s team side window sector) := by
  unfold fillSector
  split
  · exact FitKept.ite (contextsKept_stashFillAt _ _ _ _).fit (FitKept.refl _)
  · exact FitKept.refl _

theorem fitKept_endRead (s : State) (p : Nat) (r : PageRead) (failed : Bool) : FitKept s (endRead s p r failed) :=
  (FitKept.foldl _ (fun _ _ => fitKept_tryEndTeam _ _) _ _).after
    ((contextsKept_modPart _ _ _).fit.after (FitKept.fields (fitKept_mapGroups _ fun _ => by rfl)))

theorem fitKept_finishRead (s : State) (p : Nat) (r : PageRead) (sct sc : Byte) (block : List Byte) :
    FitKept s (finishRead s p r sct sc block) :=
  FitKept.ite ((fitKept_endRead _ _ _ _).after (FitKept.ite ((contextsKept_storeDev _ _ _).fit.after (contextsKept_storeDev _ _ _).fit)
    ((contextsKept_giveFrame _ _ _).fit.after (contextsKept_storeDev _ _ _).fit)))
    ((fitKept_endRead _ _ _ _).after ((contextsKept_raiseEvent _ _).fit.after
    (FitKept.ite ((contextsKept_storeDev _ _ _).fit.after (contextsKept_giveFrame _ _ _).fit) (contextsKept_giveFrame _ _ _).fit)))

theorem fitKept_cowPart (s : State) (p : Nat) (r : PageRead) : FitKept s (cowPart s p r) := by
  unfold cowPart
  extract_lets d u
  have hu : FitKept s u := (fitKept_drainFrame _ _).after (contextsKept_promote _ _ _).fit
  split
  · exact (fitKept_endRead _ _ _ _).after ((contextsKept_cowEnd _ _ _ _ _ _).fit.after hu)
  · split
    · rename_i h
      exact (fitKept_endRead _ _ _ _).after (FitKept.trans hu (FitKept.of_fst (contextsKept_cowBegin _ _ _ _ _).fit h))
    · rename_i h
      exact (fitKept_endRead _ _ _ _).after (FitKept.trans hu (FitKept.of_fst (contextsKept_cowBegin _ _ _ _ _).fit h))
    · rename_i h
      exact (contextsKept_modPart _ _ _).fit.after (FitKept.trans hu (FitKept.of_fst (contextsKept_cowBegin _ _ _ _ _).fit h))

theorem fitKept_serviceStep (s : State) (p : Nat) : FitKept s (serviceStep s p) := by
  unfold serviceStep
  split
  · exact FitKept.refl _
  · split
    · exact fitKept_cowPart _ _ _
    · split
      · exact fitKept_finishRead _ _ _ _ _ _
      · exact FitKept.refl _

theorem fitKept_nvmeStep (s : State) (entry : Nat) (sct sc : Byte) (block : List Byte) :
    FitKept s (nvmeStep s entry sct sc block) := by
  unfold nvmeStep
  split
  · exact FitKept.refl _
  · split
    · exact FitKept.refl _
    · exact (fitKept_serviceStep _ _).after (contextsKept_modPart _ _ _).fit

theorem fitKept_cowStep (s : State) (entry : Nat) : FitKept s (cowStep s entry) := by
  unfold cowStep
  split
  · exact FitKept.refl _
  · split
    · exact FitKept.ite (fitKept_serviceStep _ _) (FitKept.refl _)
    · exact FitKept.refl _

theorem fitKept_resumeSlot (s : State) (k : Nat) : FitKept s (resumeSlot s k) :=
  FitKept.ite ((fitKept_modQuad _ _ _ _).after (fitKept_modSlot _ _ _)) (fitKept_modSlot _ _ _)

theorem fitKept_placeSwapped (s : State) (g : Nat) : FitKept s (placeSwapped s g) := by
  unfold placeSwapped
  split
  · exact FitKept.refl _
  · split
    · exact FitKept.refl _
    · split
      · exact FitKept.refl _
      · dsimp only
        split
        · exact fitKept_modGroup _ _ _
        · split
          · exact FitKept.refl _
          · split
            · exact FitKept.refl _
            · exact (fitKept_modGroup _ _ _).after ((FitKept.foldl _ (fun _ _ => fitKept_resumeSlot _ _) _ _).after
                (FitKept.foldl _ (fun _ _ => fitKept_moveSlot _ _ _) _ _))

/-! ### Gates, leases and power -/

theorem fitKept_passOne (s : State) (g n : Nat) : FitKept s (passOne s g n) :=
  (fitKept_passSlice _ _ _ _).after (fitKept_modSlice _ _ _ _)

theorem fitKept_retireHead (s : State) (k : Nat) (es : List (Nat × Nat)) : FitKept s (retireHead s k es) := by
  unfold retireHead
  split
  · exact FitKept.ite (fitKept_retireEntry _ _ _) (FitKept.refl _)
  · exact FitKept.refl _

theorem fitKept_passAll (s : State) (k : Nat) (es : List (Nat × Nat)) : FitKept s (passAll s k es) :=
  (fitKept_reachBoundary _ _ _).after ((fitKept_partWave _ _).after
    ((fitKept_waveRetired _ _ _).after ((FitKept.foldl _ (fun _ _ => fitKept_passOne _ _ _) _ _).after
    (fitKept_retireHead _ _ _))))

theorem fitKept_passWait (s : State) (g n : Nat) : FitKept s (passWait s g n) := fitKept_passAll _ _ _

theorem fitKept_yieldStep (s : State) (g n : Nat) : FitKept s (yieldStep s g n) := by
  unfold yieldStep
  split
  · exact FitKept.ite (fitKept_passWait _ _ _) (FitKept.refl _)
  · exact FitKept.refl _

theorem fitKept_endYields (s : State) : FitKept s (endYields s) := by
  unfold endYields
  refine FitKept.foldl _ (fun s e => ?_) _ _
  refine FitKept.foldl _ (fun s n => ?_) _ _
  split
  · exact FitKept.ite (fitKept_passWait _ _ _) (FitKept.refl _)
  · exact FitKept.refl _

theorem fitKept_sleepStep (s : State) (g n : Nat) : FitKept s (sleepStep s g n) := by
  unfold sleepStep
  split
  · exact FitKept.ite (fitKept_passWait _ _ _) (FitKept.refl _)
  · exact FitKept.refl _

theorem fitKept_hangStep (s : State) (g : Nat) : FitKept s (hangStep s g) := by
  unfold hangStep
  split
  · exact FitKept.refl _
  · dsimp only
    exact FitKept.ite (FitKept.refl _) ((contextsKept_raiseEvent _ _).fit.after (fitKept_stopTeam _ _))

theorem fitKept_leaveActive (s : State) (k : Nat) : FitKept s (leaveActive s k) := FitKept.of_eq rfl rfl

theorem fitKept_leaveLast (s : State) (k : Nat) : FitKept s (leaveLast s k) := FitKept.of_eq rfl rfl

theorem fitKept_activeTimeout (s : State) (k : Nat) : FitKept s (activeTimeout s k) := by
  unfold activeTimeout
  split
  · exact FitKept.refl _
  · exact FitKept.ite (fitKept_leaveLast _ _) (FitKept.refl _)

theorem fitKept_activeIdle (s : State) (k : Nat) : FitKept s (activeIdle s k) := by
  unfold activeIdle
  split
  · exact FitKept.refl _
  · exact FitKept.ite (fitKept_leaveActive _ _) (FitKept.refl _)

theorem fitKept_activeEnter (s : State) (k : Nat) : FitKept s (activeEnter s k) :=
  FitKept.ite (fitKept_modSlot _ _ _) (FitKept.refl _)

theorem fitKept_gateBegin (s : State) (cl : Nat) : FitKept s (gateBegin s cl) :=
  FitKept.ite (fitKept_setCluster _ _ _) (FitKept.refl _)

theorem fitKept_gateEnd (s : State) (cl : Nat) : FitKept s (gateEnd s cl) := by
  unfold gateEnd
  dsimp only
  split
  · exact FitKept.ite (fitKept_setCluster _ _ _) (FitKept.refl _)
  · exact FitKept.refl _

theorem fitKept_wakeUp (s : State) (cl : Nat) : FitKept s (wakeUp s cl) :=
  FitKept.ite ((FitKept.foldl _ (fun _ _ => fitKept_dispatchStep _ _) _ _).after (fitKept_setCluster _ _ _)) (FitKept.refl _)

theorem outcomeFits_execLeaseFree (s : State) : OutcomeFits s (execLeaseFree s) := by
  refine outcomeFits_runEntry (.of_effects (fun l x t => ?_) rfl rfl) _ _
  dsimp only
  split
  · exact FitKept.ite (fitKept_endLease _ _ _) (FitKept.refl _)
  · exact FitKept.refl _

theorem outcomeFits_execLeaseReq (d : Reg) (n : BitVec 16) (s : State) : OutcomeFits s (execLeaseReq d n s) :=
  outcomeFits_runMove (fitKept_waitSlice _) (fitKept_stepSingle 4) _ _ _

theorem fitKept_giveLease (s : State) (cl : Nat) (h : List Nat) (team us : Nat) :
    FitKept s (giveLease s cl h team us) := FitKept.of_eq rfl rfl

theorem fitKept_decideSlot (s : State) (k : Nat) : FitKept s (decideSlot s k) := by
  unfold decideSlot
  split
  · exact FitKept.refl _
  · exact (fitKept_passAll _ _ _).after ((FitKept.foldl _ (fun _ _ => FitKept.foldl _
      (fun _ _ => fitKept_writeLane _ _ _ _) _ _) _ _).after (FitKept.ite (fitKept_giveLease _ _ _ _ _) (FitKept.refl _)))

theorem fitKept_quadLevel (s : State) (c q n : Nat) : FitKept s (quadLevel s c q n) := FitKept.of_eq rfl rfl

theorem fitKept_addSteps (s : State) (xs : List PowerStep) : FitKept s (addSteps s xs) := FitKept.of_eq rfl rfl

theorem fitKept_lowerClock (s : State) (cl n : Nat) : FitKept s (lowerClock s cl n) := FitKept.of_eq rfl rfl

theorem fitKept_undoStep (s : State) (x : PowerStep) : FitKept s (undoStep s x) := by
  unfold undoStep
  split
  · exact fitKept_quadLevel _ _ _ _
  · exact FitKept.ite (fitKept_lowerClock _ _ _) (FitKept.refl _)

theorem fitKept_throttle (s : State) (powerMilliW : Nat) : FitKept s (throttle s powerMilliW) := by
  unfold throttle
  dsimp only
  split
  · exact FitKept.ite ((fitKept_addSteps _ _).after (FitKept.foldl _ (fun _ _ => fitKept_lowerClock _ _ _) _ _))
      ((fitKept_addSteps _ _).after (FitKept.foldl _ (fun _ _ => fitKept_quadLevel _ _ _ _) _ _))
  · split
    · split
      · exact FitKept.fields (fitKept_undoStep _ _)
      · exact FitKept.refl _
    · exact FitKept.refl _

theorem fitKept_shutTick (s : State) : FitKept s (shutTick s) := by
  unfold shutTick
  split
  · exact FitKept.refl _
  · exact (fitKept_throttle _ _).after (FitKept.fields (FitKept.refl _))

theorem fitKept_closeTick (s : State) : FitKept s (closeTick s) := FitKept.ite (fitKept_shutTick _) (FitKept.refl _)

theorem fitKept_expireLease (s : State) (cl : Nat) : FitKept s (expireLease s cl) :=
  FitKept.ite ((fitKept_closeTick _).after (fitKept_endLease _ _ _)) (FitKept.refl _)

theorem fitKept_decideLease (s : State) (k : Nat) : FitKept s (decideLease s k) :=
  FitKept.ite ((fitKept_closeTick _).after (fitKept_decideSlot _ _)) (FitKept.refl _)

theorem fitKept_finishTick (s : State) : FitKept s (finishTick s) := by
  unfold finishTick
  dsimp only
  refine (fitKept_shutTick _).after ?_
  refine (FitKept.foldl _ (fun s x => ?_) _ _).after (FitKept.foldl _ (fun _ _ => fitKept_expireLease _ _) _ _)
  split
  · exact fitKept_decideLease _ _
  · exact FitKept.refl _

theorem fitKept_readSensor (s : State) (x : Sensor) : FitKept s (readSensor s x) := FitKept.of_eq rfl rfl

theorem fitKept_beginHold (s : State) (c : Nat) : FitKept s (beginHold s c) := FitKept.of_eq rfl rfl

theorem fitKept_endHold (s : State) (c : Nat) : FitKept s (endHold s c) :=
  FitKept.ite ((fitKept_setCluster _ _ _).after ((contextsKept_modCore _ _ _).fit.after
    ((FitKept.foldl _ (fun _ _ => fitKept_modQuad _ _ _ _) _ _).after (fitKept_addSteps _ _))))
    ((contextsKept_modCore _ _ _).fit.after ((FitKept.foldl _ (fun _ _ => fitKept_modQuad _ _ _ _) _ _).after (fitKept_addSteps _ _)))

theorem fitKept_senseCore (s : State) (c : Nat) : FitKept s (senseCore s c) := by
  unfold senseCore
  dsimp only
  exact FitKept.ite ((fitKept_beginHold _ _).after (contextsKept_modCore _ _ _).fit)
    (FitKept.ite ((fitKept_endHold _ _).after (contextsKept_modCore _ _ _).fit) (contextsKept_modCore _ _ _).fit)

theorem fitKept_meltStep (s : State) (delta : Int) : FitKept s (meltStep s delta) :=
  FitKept.ite ((FitKept.foldl _ (fun _ _ => fitKept_endLease _ _ _) _ _).after
    (FitKept.fields (FitKept.fields (FitKept.ite ((contextsKept_raiseEvent _ _).fit.after (FitKept.fields (FitKept.refl _)))
    (FitKept.fields (FitKept.refl _)))))) (FitKept.ite (FitKept.fields
    (FitKept.fields (FitKept.ite ((contextsKept_raiseEvent _ _).fit.after (FitKept.fields (FitKept.refl _)))
    (FitKept.fields (FitKept.refl _))))) (FitKept.fields (FitKept.ite
    ((contextsKept_raiseEvent _ _).fit.after (FitKept.fields (FitKept.refl _))) (FitKept.fields (FitKept.refl _)))))

theorem fitKept_passMicros (s : State) : FitKept s (passMicros s) := FitKept.of_eq rfl rfl

theorem fitKept_powerStep (s : State) (env : PowerEnv) : FitKept s (powerStep s env) :=
  FitKept.ite (FitKept.refl _) ((fitKept_closeTick _).after
    (FitKept.fields ((fitKept_meltStep _ _).after ((fitKept_endYields _).after
    ((FitKept.foldl _ (fun _ _ => fitKept_senseCore _ _) _ _).after
    ((FitKept.foldl _ (fun _ _ => fitKept_readSensor _ _) _ _).after ((fitKept_passMicros _).after (fitKept_finishTick _))))))))

/-! ### Instructions of the graphics stages -/

theorem fitKept_modMesh (s : State) (l : LaneId) (f : Mesh → Mesh) : FitKept s (modMesh s l f) := by
  unfold modMesh
  split
  · exact fitKept_modGroup _ _ _
  · exact FitKept.refl _

theorem fitKept_modOut (s : State) (l : LaneId) (f : PixOut → PixOut) : FitKept s (modOut s l f) := by
  unfold modOut
  split
  · exact fitKept_modGroup _ _ _
  · exact FitKept.refl _

theorem outcomeFits_execEmitv (ea eb : Bool) (a b : Reg) (s : State) : OutcomeFits s (execEmitv ea eb a b s) :=
  outcomeFits_runEntry (.of_effects (fun _ _ _ => fitKept_modMesh _ _ _) rfl rfl) _ _

theorem outcomeFits_execEmitp (ea eb : Bool) (a b : Reg) (s : State) : OutcomeFits s (execEmitp ea eb a b s) :=
  outcomeFits_runEntry (.of_effects (fun _ _ _ => fitKept_modMesh _ _ _) rfl rfl) _ _

theorem outcomeFits_execAttr (kind : AttrKind) (n : BitVec 4) (d : Reg) (s : State) : OutcomeFits s (execAttr kind n d s) :=
  outcomeFits_runEntry (.of_still rfl rfl rfl) _ _

theorem keepsFit_discEntry (ea : Bool) (a : Reg) (s : State) : (discEntry ea a s).KeepsFit :=
  .of_still rfl rfl rfl

theorem outcomeFits_execDisc (ea : Bool) (a : Reg) (s : State) : OutcomeFits s (execDisc ea a s) := by
  unfold execDisc
  extract_lets active e as t gone parts u v
  have ht : FitKept s t := fitKept_finish (keepsFit_discEntry _ _ _) _ _ _
  have hv : FitKept s v := (fitKept_partFocus _).after ((FitKept.foldl _ (fun _ _ => fitKept_exitLanes _ _ _ _ _) _ _).after ht)
  exact OutcomeFits.ite (OutcomeFits.fault _) (OutcomeFits.ite (OutcomeFits.next ht)
    (OutcomeFits.next ((FitKept.foldl _ (fun _ _ => fitKept_exitProgress _ _) _ _).after hv)))

theorem outcomeFits_execZout (ea : Bool) (a : Reg) (s : State) : OutcomeFits s (execZout ea a s) :=
  outcomeFits_runEntry (.of_effects (fun _ _ _ => fitKept_modOut _ _ _) rfl rfl) _ _

theorem outcomeFits_execPxout (blend ea : Bool) (a : Reg) (s : State) : OutcomeFits s (execPxout blend ea a s) :=
  outcomeFits_runEntry (.of_effects (fun _ _ _ => fitKept_modOut _ _ _) rfl rfl) _ _

/-! ### Textures and tiles -/

theorem fitKept_texEnter (s : State) (active : List LaneId) (gather : Bool) (d off : Nat) (xs : List (LaneId × List Word)) :
    FitKept s (texEnter s active gather d off xs) := by
  unfold texEnter
  split
  · exact (contextsKept_modCore _ _ _).fit.after ((fitKept_post _ _ _).after (fitKept_scratchFill _ _ _ _))
  · exact FitKept.refl _

theorem outcomeFits_execTexture (i : Instr) (gather ea eb : Bool) (d a b : Reg) (s : State) :
    OutcomeFits s (execTexture i gather ea eb d a b s) :=
  outcomeFits_runEntry (.of_group (fun _ _ _ => fitKept_scratchFill _ _ _ _) (fun _ _ _ => FitKept.refl _)
    (fun _ _ => fitKept_texEnter _ _ _ _ _ _) rfl) _ _

theorem fitKept_textureStep (s : State) (core : Nat) : FitKept s (textureStep s core) := by
  unfold textureStep
  split
  · exact FitKept.refl _
  · dsimp only
    split
    · exact (contextsKept_modCore _ _ _).fit
    · split
      · exact fitKept_spanWait _ _ _ _ _ _
      · refine (fitKept_tryEndTeam _ _).after ((fitKept_landPosted _ _).after ((contextsKept_modCore _ _ _).fit.after ?_))
        split
        · exact (fitKept_addAsync _ _ _ _ _).after ((fitKept_engDone _ _ _).after
            ((fitKept_poolNote _ _ _ _ _ _).after (FitKept.foldl _
            (fun _ _ => FitKept.ite (contextsKept_spanNote _ _ _ _ _ _).fit (FitKept.refl _)) _ _)))
        · exact FitKept.foldl _ (fun _ _ => FitKept.ite (contextsKept_spanNote _ _ _ _ _ _).fit (FitKept.refl _)) _ _

theorem fitKept_tileEnter (s : State) (depth : Bool) (load : Option Nat) (d words : Nat) (xs : List (LaneId × Word × List Byte)) :
    FitKept s (tileEnter s depth load d words xs) := by
  unfold tileEnter
  split
  · dsimp only
    split
    · exact (contextsKept_modCore _ _ _).fit
    · exact FitKept.refl _
  · exact FitKept.refl _

theorem outcomeFits_execTileld (depth ea : Bool) (d a : Reg) (s : State) : OutcomeFits s (execTileld depth ea d a s) :=
  outcomeFits_runEntry (.of_group (fun _ _ _ => FitKept.refl _) (fun _ _ _ => FitKept.refl _)
    (fun _ _ => (fitKept_tileEnter _ _ _ _ _ _).after (fitKept_post _ _ _)) rfl) _ _

theorem outcomeFits_execTilest (depth ea : Bool) (d a : Reg) (s : State) : OutcomeFits s (execTilest depth ea d a s) :=
  outcomeFits_runEntry (.of_group (fun _ _ _ => FitKept.refl _) (fun _ _ _ => FitKept.refl _)
    (fun _ _ => fitKept_tileEnter _ _ _ _ _ _) rfl) _ _

/-! ### Rays -/

theorem fitKept_raygoFill (l : LaneId) (off : Nat) (s : State) : FitKept s (raygoFill l off s) := by
  unfold raygoFill
  extract_lets u
  have hu : FitKept s u := fitKept_scratchFill _ _ _ _
  split
  · exact FitKept.ite hu ((fitKept_fillNote _ _ _ _ _).after hu)
  · exact hu

theorem outcomeFits_execRaygo (ea : Bool) (a : Reg) (s : State) : OutcomeFits s (execRaygo ea a s) := by
  refine outcomeFits_runEntry (.of_lanes (fun _ _ _ => fitKept_raygoFill _ _ _) (fun l vs t => ?_) rfl) _ _
  dsimp only
  split
  · exact FitKept.ite (FitKept.refl _) ((fitKept_setCluster _ _ _).after (fitKept_raygoFill _ _ _))
  · exact FitKept.refl _

theorem fitKept_rayFail (s : State) (cl : Nat) (o : RayOp) (fault : Option (Nat × Nat)) : FitKept s (rayFail s cl o fault) := by
  unfold rayFail
  extract_lets u c v w
  have hv : FitKept s v := (fitKept_setCluster _ _ _).after ((fitKept_ringFlag _ _ _ _ _).after (fitKept_engDone _ _ _))
  refine (fitKept_tryEndTeam _ _).after ?_
  dsimp only [w]
  split
  · exact (fitKept_addAsync _ _ _ _ _).after hv
  · exact hv

theorem fitKept_rayGaze (s : State) (cl core p : Nat) (o : RayOp) {r : State × Word × Word} (h : rayGaze s cl core p o = .ok r) :
    FitKept s r.1 := by
  unfold rayGaze at h
  split at h
  · rw [← Except.ok.inj h]
    exact FitKept.refl s
  · extract_lets +onlyGivenNames va u at h
    have hu : FitKept s u := by
      dsimp only [u]
      split
      · exact (contextsKept_promote _ _ _).fit
      · exact FitKept.refl s
    split at h
    · cases h
    · rw [← Except.ok.inj h]
      exact (fitKept_setCluster _ _ _).after hu

theorem fitKept_rayStep (s : State) (cl : Nat) : FitKept s (rayStep s cl) := by
  unfold rayStep
  split
  · exact FitKept.refl _
  · rename_i o _ _
    split
    · exact FitKept.ite (FitKept.refl _) (fitKept_setCluster _ _ _)
    · extract_lets +onlyGivenNames core p w h stop
      have hstop (u : State) (b : Block) : FitKept u (stop u b) := by
        dsimp only [stop]
        split
        · exact fitKept_spanWait _ _ _ _ _ _
        · exact (fitKept_rayFail _ _ _ _).after (fitKept_poolNote _ _ _ _ _ _)
      split
      · exact hstop _ _
      · rename_i u gaze hu
        have hu : FitKept s u := fitKept_rayGaze _ _ _ _ _ hu
        split
        · exact (hstop _ _).after hu
        · extract_lets +onlyGivenNames v t
          have hv : FitKept s v := (contextsKept_scratchReady _ _ _ _ _).fit.after hu
          split
          · exact hv
          · split
            · exact (fitKept_rayFail _ _ _ _).after hv
            · split
              · exact (hstop _ _).after hv
              · split
                · exact (hstop _ _).after hv
                · exact (hstop _ _).after hv
                · extract_lets +onlyGivenNames per
                  split
                  · exact (hstop _ _).after hv
                  · extract_lets +onlyGivenNames last keep done
                    have hkeep (x : State) : FitKept x (keep x) := fitKept_setCluster _ _ _
                    have hdone (x : State) : FitKept x (done x) :=
                      (fitKept_tryEndTeam _ _).after ((fitKept_setCluster _ _ _).after (fitKept_ringFlag _ _ _ _ _))
                    split
                    · exact (hdone _).after hv
                    · split
                      · exact hv
                      · extract_lets +onlyGivenNames pads off
                        split
                        · exact (hstop _ _).after hv
                        · extract_lets +onlyGivenNames a b c
                          have hc : FitKept s c :=
                            (fitKept_ringAdvance _ _ _ _ _).after ((fitKept_scratchWrite _ _ _ _ _ _).after (FitKept.fields hv))
                          exact FitKept.ite ((hdone _).after hc) ((hkeep _).after hc)

/-! ### Raster passes -/

theorem fitKept_promoteGaze (s : State) (p : Nat) (d : QDesc) : FitKept s (promoteGaze s p d) := by
  unfold promoteGaze
  split
  · exact FitKept.foldl _ (fun _ _ => (contextsKept_devPromote _ _ _).fit) _ _
  · exact FitKept.refl _

theorem fitKept_latchStrips (s : State) (ps : Pass) : FitKept s (latchStrips s ps) := FitKept.of_eq rfl rfl

theorem fitKept_startPass (s : State) (p q : Nat) (ps : Pass) (meshHeader pixHeader : Nat) :
    FitKept s (startPass s p q ps meshHeader pixHeader) :=
  (fitKept_latchStrips _ _).after (FitKept.fields ((fitKept_freshId _).after ((fitKept_freshId _).after ((fitKept_freshId _).after
    ((FitKept.foldl _ (fun _ _ => fitKept_devWrite_getD _ _ _ _) _ _).after ((fitKept_engDone _ _ _).after
      (fitKept_putDesc _ _ _ _ _)))))))

theorem fitKept_takeStep (s : State) (p q : Nat) : FitKept s (takeStep s p q) := by
  unfold takeStep
  split
  · exact FitKept.refl _
  · extract_lets u
    have hu : FitKept s u := fitKept_noteDesc _ _ _ _
    split
    · exact hu
    · split
      · exact hu
      · extract_lets u1
        have hu1 : FitKept s u1 := (fitKept_promoteGaze _ _ _).after hu
        split
        · exact (fitKept_ownWait _ _ _ _).after hu1
        · exact (fitKept_refuseRaster _ _ _ _ _).after ((fitKept_putDesc _ _ _ _ _).after hu1)
        · exact (fitKept_startPass _ _ _ _ _ _).after hu1

theorem fitKept_putDepth (s : State) (p : Pass) (v i j : Nat) (z : Word) : FitKept s (putDepth s p v i j z) := by
  unfold putDepth
  split
  · exact fitKept_scratchWrite _ _ _ _ _ _
  · exact FitKept.refl _

theorem fitKept_putColour (s : State) (p : Pass) (v i j c : Nat) : FitKept s (putColour s p v i j c) := by
  unfold putColour
  split
  · exact fitKept_scratchWrite _ _ _ _ _ _
  · exact FitKept.refl _

theorem fitKept_reloadHier (s : State) (lid no : Nat) : FitKept s (reloadHier s lid no) := FitKept.of_eq rfl rfl

theorem fitKept_storeDepth (s : State) (pid : Nat) (p : Pass) (v i j : Nat) (z : Word) : FitKept s (storeDepth s pid p v i j z) :=
  (fitKept_modPass _ _ _).after (fitKept_putDepth _ _ _ _ _ _)

theorem fitKept_commitOp (s : State) (o : TbeOp) : FitKept s (commitOp s o) := by
  unfold commitOp
  split
  · exact FitKept.refl _
  · dsimp only
    split
    · exact FitKept.refl _
    · split
      · exact FitKept.ite (fitKept_storeDepth _ _ _ _ _ _ _) (FitKept.refl _)
      · exact (fitKept_putColour _ _ _ _ _ _).after (FitKept.ite (fitKept_storeDepth _ _ _ _ _ _ _) (FitKept.refl _))

theorem fitKept_tileAccess (s : State) (a : TileAccess) : FitKept s (tileAccess s a) := by
  unfold tileAccess
  split
  · exact FitKept.refl _
  · split
    · exact FitKept.refl _
    · split
      · exact (fitKept_tryEndTeam _ _).after (fitKept_landPosted _ _)
      · exact (fitKept_tryEndTeam _ _).after (fitKept_modTeam _ _ _)

theorem fitKept_commitStep (s : State) (core : Nat) : FitKept s (commitStep s core) := by
  unfold commitStep
  dsimp only
  split
  · exact FitKept.refl _
  · split
    · exact (fitKept_commitOp _ _).after (contextsKept_modCore _ _ _).fit
    · exact (fitKept_tileAccess _ _).after (contextsKept_modCore _ _ _).fit

theorem fitKept_clearTile (s : State) (p : Pass) (v row col : Nat) : FitKept s (clearTile s p v row col) := by
  unfold clearTile
  split
  · exact FitKept.refl _
  · exact (fitKept_scratchWrite _ _ _ _ _ _).after (fitKept_scratchWrite _ _ _ _ _ _)

theorem fitKept_clearStep (s : State) (pid : Nat) : FitKept s (clearStep s pid) := by
  unfold clearStep
  split
  · exact FitKept.refl _
  · exact FitKept.ite (FitKept.refl _) ((fitKept_modPass _ _ _).after
      (FitKept.ite (FitKept.refl _) (FitKept.foldl _ (fun _ _ => fitKept_clearTile _ _ _ _ _) _ _)))

theorem fitKept_testSample (pid v : Nat) (fan : List NdcVertex) (r : State × List (Nat × Nat × Word)) (ij : Nat × Nat) :
    FitKept r.1 (testSample pid v fan r ij).1 := by
  unfold testSample
  split
  · exact FitKept.refl _
  · dsimp only
    split
    · exact FitKept.refl _
    · split
      · exact FitKept.refl _
      · split
        · exact FitKept.refl _
        · exact FitKept.ite (fitKept_storeDepth _ _ _ _ _ _ _) (FitKept.refl _)

theorem fitKept_addBlocks (s : State) (pid : Nat) (geom : PixGeom) (xs : List (Nat × Nat × Word)) :
    FitKept s (addBlocks s pid geom xs) :=
  FitKept.foldl _ (fun _ _ => fitKept_modPass _ _ _) _ _

theorem fitKept_rasterPrim (s : State) (pid : Nat) (vs : List (List Word)) (v : Nat) : FitKept s (rasterPrim s pid vs v) := by
  unfold rasterPrim
  split
  · exact FitKept.refl s
  · dsimp only
    split
    · exact FitKept.refl s
    · split
      · exact FitKept.refl s
      · exact FitKept.foldl _ (fun u fan => (fitKept_addBlocks _ _ _ _).after
          (FitKept.foldl_fst _ (fitKept_testSample pid v fan) _ (u, []))) _ _

theorem fitKept_rasterMeshlet (s : State) (pid : Nat) (p : Pass) (m : Mesh) : FitKept s (rasterMeshlet s pid p m) := by
  unfold rasterMeshlet
  refine FitKept.foldl _ (fun s e => ?_) _ _
  split
  · exact FitKept.foldl _ (fun _ _ => fitKept_rasterPrim _ _ _ _) _ _
  · exact FitKept.refl _

theorem fitKept_meshletStep (s : State) (pid : Nat) : FitKept s (meshletStep s pid) := by
  unfold meshletStep
  split
  · exact FitKept.refl _
  · split
    · exact FitKept.refl _
    · split
      · exact FitKept.refl _
      · exact (fitKept_modPass _ _ _).after (fitKept_rasterMeshlet _ _ _ _)

theorem fitKept_pixelStartStep (s : State) (pid : Nat) : FitKept s (pixelStartStep s pid) := by
  unfold pixelStartStep
  split
  · exact FitKept.refl _
  · split
    · split
      · rename_i h
        have ht := FitKept.of_snd (fitKept_wakeFor _ _) h
        exact FitKept.ite ht ((fitKept_modPass _ _ _).after
          ((fitKept_modLaunch _ _ _).after ((fitKept_startTeam _ _ _ _ _ _ _ _ _).after ht)))
    · exact FitKept.refl _

theorem fitKept_publishBlocked (s : State) (p core : Nat) (b : Block) : FitKept s (publishBlocked s p core b) := by
  unfold publishBlocked
  split
  · exact fitKept_spanWait _ _ _ _ _ _
  · exact (fitKept_engDone _ _ _).after (fitKept_poolNote _ _ _ _ _ _)

theorem fitKept_publishTile (s : State) (pid : Nat) (p : Pass) (q : Nat) : FitKept s (publishTile s pid p q) := by
  unfold publishTile
  dsimp only
  split
  · split
    · exact fitKept_publishBlocked _ _ _ _
    · split
      · exact (contextsKept_scratchReady _ _ _ _ _).fit
      · split
        · exact (fitKept_publishBlocked _ _ _ _).after (contextsKept_scratchReady _ _ _ _ _).fit
        · exact (fitKept_modPass _ _ _).after ((fitKept_ringAdvance _ _ _ _ _).after
            ((fitKept_scratchWrite _ _ _ _ _ _).after (contextsKept_scratchReady _ _ _ _ _).fit))
  · exact FitKept.refl _

theorem fitKept_publicationStep (s : State) (pid : Nat) : FitKept s (publicationStep s pid) := by
  unfold publicationStep
  split
  · exact FitKept.refl _
  · split
    · exact FitKept.ite (fitKept_modPass _ _ _) (FitKept.refl _)
    · exact FitKept.ite (fitKept_publishTile _ _ _ _) (FitKept.refl _)
    · exact FitKept.refl _

theorem fitKept_passDone (s : State) (pid : Nat) : FitKept s (passDone s pid) := by
  unfold passDone
  split
  · exact FitKept.refl _
  · split
    · exact FitKept.refl _
    · dsimp only
      split
      · exact (fitKept_modPass _ _ _).after (fitKept_performWrites _)
      · split
        · exact (fitKept_ownWait _ _ _ _).after (fitKept_performWrites _)
        · rename_i h
          exact (fitKept_modPass _ _ _).after (FitKept.trans (fitKept_performWrites _) (fitKept_deviceSucc _ _ _ h))
        · rename_i h
          exact (fitKept_modPass _ _ _).after ((fitKept_refuseRaster _ _ _ _ _).after
            (FitKept.trans (fitKept_performWrites _) (fitKept_deviceSucc _ _ _ h)))

/-! ### Context commands, saves and migration -/

theorem fitKept_ctxDone (s : State) (p res : Nat) : FitKept s (ctxDone s p res) := FitKept.of_eq rfl rfl

theorem fitKept_ctxRun (s : State) {f : Nat → State} (hf : ∀ p, FitKept s (f p)) : FitKept s (ctxRun s f) :=
  FitKept.ite (FitKept.refl _) (hf _)

theorem fitKept_launchCommand (s : State) (p : Nat) {f : State → Nat → State} (hf : ∀ u k, FitKept u (f u k)) :
    FitKept s (launchCommand s p f) :=
  FitKept.ite (fitKept_ctxDone _ _ _) ((fitKept_ctxDone _ _ _).after (FitKept.foldl _ hf _ _))

theorem fitKept_stopOne (s : State) (t : Nat) : FitKept s (stopOne s t) := (fitKept_stopTeam _ _).after (fitKept_modTeam _ _ _)

theorem fitKept_stopCommand (s : State) (p : Nat) : FitKept s (stopCommand s p) := fitKept_launchCommand s p fitKept_stopOne

theorem fitKept_resumeSlice (s : State) (g n : Nat) : FitKept s (resumeSlice s g n) := by
  unfold resumeSlice
  split
  · exact FitKept.refl _
  · exact (fitKept_partGroup _ _).after (fitKept_modSlice _ _ _ _)

theorem fitKept_resumeSlices (s : State) (g : Nat) : FitKept s (resumeSlices s g) := by
  unfold resumeSlices
  split
  · exact FitKept.refl _
  · exact FitKept.foldl _ (fun _ _ => fitKept_resumeSlice _ _ _) _ _

theorem width_runAgain (s : State) (x : Group) : (runAgain s x).width = x.width := by
  unfold runAgain
  split <;> rfl

theorem fitKept_resumeTeam (s : State) (tid : Nat) : FitKept s (resumeTeam s tid) := by
  unfold resumeTeam
  split
  · exact FitKept.refl _
  · exact (fitKept_modTeam _ _ _).after (FitKept.foldl _ (fun _ _ => (fitKept_modGroup _ _ _ (width_runAgain _)).after
      (fitKept_resumeSlices _ _)) _ _)

theorem fitKept_resumeCommand (s : State) (p : Nat) : FitKept s (resumeCommand s p) := fitKept_launchCommand s p fitKept_resumeTeam

theorem fitKept_stepSlices (s : State) (tid k : Nat) : FitKept s (stepSlices s tid k) :=
  FitKept.foldl _ (fun _ _ => (fitKept_modGroup _ _ _ fun x => by split <;> rfl).after (fitKept_resumeSlices _ _)) _ _

theorem fitKept_stepCommand (s : State) (p : Nat) : FitKept s (stepCommand s p) := by
  unfold stepCommand
  split
  · exact fitKept_ctxDone _ _ _
  · split
    · exact fitKept_ctxDone _ _ _
    · split
      · exact fitKept_ctxDone _ _ _
      · exact (fitKept_stepSlices _ _ _).after (fitKept_ctxDone _ _ _)

theorem fitKept_dropWork (s : State) (tid : Nat) (gs : List Nat) : FitKept s (dropWork s tid gs) :=
  FitKept.fields (FitKept.foldl _ (fun _ _ => (contextsKept_noteReply _ _).fit) _ _)

theorem fitKept_killNow (s : State) (tid : Nat) : FitKept s (killNow s tid) := by
  unfold killNow
  split
  · exact FitKept.refl _
  · split
    · exact FitKept.refl _
    · dsimp only
      refine (fitKept_tryEndTeam _ _).after ((fitKept_modLaunch _ _ _).after ((fitKept_modTeam _ _ _).after ?_))
      refine (FitKept.foldl _ (fun s g => ?_) _ _).after ((fitKept_dropWork _ _ _).after (fitKept_drainTeam _ _))
      split
      · exact FitKept.refl _
      · exact FitKept.ite (FitKept.refl _) ((FitKept.foldl _
          (fun _ _ => (fitKept_vacateAway _ _).after (FitKept.ite (FitKept.fields (FitKept.refl _)) (FitKept.refl _))) _ _).after
          ((fitKept_modGroup _ _ _).after ((FitKept.foldl _ (fun _ _ => fitKept_dropHolder _ _) _ _).after
          ((fitKept_modGroup _ _ _).after ((fitKept_chargeGroup _ _).after (fitKept_squashGroup _ _))))))

theorem fitKept_killTeam (s : State) (tid : Nat) : FitKept s (killTeam s tid) :=
  FitKept.ite (fitKept_modTeam _ _ _) (fitKept_killNow _ _)

theorem fitKept_killImage (s : State) (m : Image) : FitKept s (killImage s m) :=
  (fitKept_modLaunch _ _ _).after (fitKept_tables (FitKept.foldl _ (fun _ _ => fitKept_chargeLaunch _ _ _) _ _) widthsFit_groups
    fun hs _ hm => widthsFit_image hs (List.mem_of_mem_filter hm))

theorem fitKept_killCommand (s : State) (p : Nat) : FitKept s (killCommand s p) :=
  FitKept.ite (fitKept_ctxDone _ _ _) ((fitKept_ctxDone _ _ _).after
    ((FitKept.foldl _ (fun _ _ => fitKept_killImage _ _) _ _).after (FitKept.foldl _ (fun _ _ => fitKept_killTeam _ _) _ _)))

theorem fitKept_flushTeam (s : State) (tid : Nat) (t : Team) : FitKept s (flushTeam s tid t) :=
  (contextsKept_dropTags _ _).fit.after (FitKept.ite ((contextsKept_writebackL1 _ _).fit.after
    ((contextsKept_writebackL1 _ _).fit.after ((contextsKept_stashCleanAll _ _ _ _).fit.after
    ((contextsKept_stashCleanAll _ _ _ _).fit.after (fitKept_drainTeam _ _)))))
    ((contextsKept_writebackL1 _ _).fit.after ((contextsKept_stashCleanAll _ _ _ _).fit.after
    ((contextsKept_stashCleanAll _ _ _ _).fit.after (fitKept_drainTeam _ _)))))

theorem fitKept_leaveSlot (s : State) (k : Nat) : FitKept s (leaveSlot s k) :=
  FitKept.ite ((fitKept_modQuad _ _ _ _).after (fitKept_releaseSlate _ _)) (FitKept.refl _)

theorem fitKept_storeLines (s : State) (k : Nat) : FitKept s (storeLines s k) :=
  (fitKept_modSlot _ _ _).after ((FitKept.foldl _ (fun _ _ => fitKept_storeLine _ _ _ _) _ _).after (fitKept_clearPlace _ _))

theorem fitKept_moveTeamSlot (s : State) (tid k j : Nat) : FitKept s (moveTeamSlot s tid k j) :=
  have moved : ∀ {u : State}, FitKept (fetchLines s k) u → FitKept s (vacateAway (if j < 3072 then storeLines u j else u) k) := fun h =>
    (fitKept_vacateAway _ _).after ((FitKept.ite (fitKept_storeLines _ _) (FitKept.refl _)).after (h.after (fitKept_fetchLines _ _)))
  FitKept.ite (fitKept_moveSlot _ _ _) (moved (FitKept.fields (fitKept_mapGroups _ fun e => by split <;> rfl)))

theorem contextsKept_storePa (s : State) (p pa : Nat) (bs : List Byte) : ContextsKept s (storePa s p pa bs) :=
  ContextsKept.foldl _ (fun _ _ => contextsKept_writeL2 _ _ _ _ _) _ _

theorem fitKept_detachTeam (s : State) (tid : Nat) (t : Team) : FitKept s (detachTeam s tid t).1 := by
  unfold detachTeam
  refine (FitKept.foldl _ (fun _ _ => fitKept_moveTeamSlot _ _ _ _) _ _).after (FitKept.fields ?_)
  split
  · exact FitKept.ite ((fitKept_endLease _ _ _).after (FitKept.foldl _ (fun _ _ => fitKept_leaveSlot _ _) _ _))
      (FitKept.foldl _ (fun _ _ => fitKept_leaveSlot _ _) _ _)
  · exact FitKept.foldl _ (fun _ _ => fitKept_leaveSlot _ _) _ _

theorem fitKept_endSaving (s : State) (p : Nat) : FitKept s (endSaving s p) := FitKept.of_eq rfl rfl

theorem fitKept_freeRehCore (s : State) (lid : Nat) : FitKept s (freeRehCore s lid) :=
  FitKept.ite (FitKept.refl _) (fitKept_modLaunch _ _ _)

theorem fitKept_modSaving (s : State) (p : Nat) (g : Saving → Saving) : FitKept s (modSaving s p g) := FitKept.of_eq rfl rfl

theorem fitKept_openImage (s : State) (x : Saving) (t : Team) (l : Launch) : FitKept s (openImage s x t l) := by
  unfold openImage
  split
  · rename_i h
    exact (fitKept_modSaving _ _ _).after ((contextsKept_storePa _ _ _ _).fit.after (FitKept.of_snd (fitKept_freshId _) h))

theorem fitKept_writePiece (s : State) (x : Saving) (t : Team) (l : Launch) : FitKept s (writePiece s x t l) :=
  (fitKept_modSaving _ _ _).after ((contextsKept_storePa _ _ _ _).fit.after
    ((contextsKept_storePa _ _ _ _).fit.after (FitKept.fields (FitKept.foldl _ (fun _ _ => fitKept_fetchLines _ _) _ _))))

theorem widthsFit_teamTab {s : State} (hs : groupsFit s = true) (t : Team) : WidthsFit (teamTab s t) := by
  refine WidthsFit.foldl_tput _ _ (fun e he => ?_) (fun _ h => by cases h)
  obtain ⟨g, -, hg⟩ := List.mem_filterMap.1 he
  obtain ⟨x, hx, rfl⟩ := Option.map_eq_some_iff.1 hg
  exact width_of_group? hs hx

theorem fitKept_closeImage (s : State) (x : Saving) (t : Team) (l : Launch) : FitKept s (closeImage s x t l) := by
  unfold closeImage
  dsimp only
  refine (fitKept_ctxDone _ _ _).after ((fitKept_endSaving _ _).after
    ((fitKept_leaveCores _ _).after ((fitKept_freeRehCore _ _).after
    (fitKept_tables ((fitKept_detachTeam _ _ _).after ((FitKept.foldl _ (fun _ _ => fitKept_modGroup _ _ _ (width_leaveClock _)) _ _).after
    (contextsKept_storePa _ _ _ _).fit)) (fun hs _ he => widthsFit_groups hs _ (List.mem_of_mem_filter he)) fun hs m hm => ?_))))
  rcases List.mem_append.1 hm with hm | hm
  · exact widthsFit_image hs hm
  · obtain rfl := List.mem_singleton.1 hm
    exact (widthsFit_teamTab hs t).map _ fun _ => rfl

theorem fitKept_writeImage (s : State) (x : Saving) : FitKept s (writeImage s x) := by
  unfold writeImage
  split
  · split
    · dsimp only
      split
      · exact (fitKept_openImage _ _ _ _).after (fitKept_flushTeam _ _ _)
      · exact fitKept_flushTeam _ _ _
    · exact FitKept.ite (fitKept_writePiece _ _ _ _) (fitKept_closeImage _ _ _ _)
  · exact (fitKept_ctxDone _ _ _).after (fitKept_endSaving _ _)

theorem fitKept_tearSave (s : State) (x : Saving) : FitKept s (tearSave s x) :=
  (fitKept_ctxDone _ _ _).after ((fitKept_endSaving _ _).after (FitKept.ite (contextsKept_storePa _ _ _ _).fit (FitKept.refl _)))

theorem fitKept_continueSave (s : State) (x : Saving) : FitKept s (continueSave s x) := by
  unfold continueSave
  split
  · exact fitKept_tearSave _ _
  · split
    · exact FitKept.refl _
    · split
      · exact fitKept_ownWait _ _ _ _
      · exact FitKept.ite (fitKept_writeImage _ _) (fitKept_tearSave _ _)

theorem fitKept_beginSave (s : State) (p : Nat) : FitKept s (beginSave s p) := by
  unfold beginSave
  split
  · exact fitKept_ctxDone _ _ _
  · split
    · exact fitKept_ctxDone _ _ _
    · exact FitKept.ite (fitKept_ctxDone _ _ _) ((fitKept_continueSave _ _).after
        (FitKept.fields (fitKept_stopOne _ _)))

theorem fitKept_saveStep (s : State) : FitKept s (saveStep s) := by
  unfold saveStep
  split
  · exact fitKept_continueSave _ _
  · exact fitKept_ctxRun s (fitKept_beginSave s)

theorem fitKept_saveBound (s : State) : FitKept s (saveBound s) :=
  FitKept.foldl _ (fun _ _ => FitKept.ite (fitKept_tearSave _ _) (FitKept.refl _)) _ _

theorem fitKept_rehearseOn (s : State) (lid c : Nat) (rot : Option Nat) : FitKept s (rehearseOn s lid c rot) := FitKept.of_eq rfl rfl

theorem fitKept_placeImage (s : State) (p pa : Nat) (m : Image) (c : Nat) (ks : List (Nat × Nat)) (hm : m ∈ s.work.images) :
    FitKept s (placeImage s p pa m c ks) := by
  have kept : ContextsKept s (storePa s p pa (leBytes 4 0)) := contextsKept_storePa _ _ _ _
  refine (FitKept.foldl _ (fun _ _ => fitKept_resumeSlot _ _) _ _).after ((fitKept_wakeFor _ _).after ((fitKept_freshL1 _ _ _).after
    ((fitKept_reloadHier _ _ _).after ((fitKept_rehearseOn _ _ _ _).after
    ((FitKept.foldl _ (fun _ _ => fitKept_storeLines _ _) _ _).after (fitKept_tables kept.fit (fun hs => ?_)
    fun hs x hx => widthsFit_image hs (List.mem_of_mem_filter hx)))))))
  refine WidthsFit.foldl_tput _ _ (fun e he => ?_) (widthsFit_groups hs)
  have hm' : m ∈ (storePa s p pa (leBytes 4 0)).work.images := by rwa [kept.images]
  exact widthsFit_image hs hm' e he

theorem fitKept_restoreCommand (s : State) (p : Nat) : FitKept s (restoreCommand s p) := by
  unfold restoreCommand
  dsimp only
  split
  · exact fitKept_ctxDone _ _ _
  · split
    · exact fitKept_ctxDone _ _ _
    · split
      · exact fitKept_ctxDone _ _ _
      · split
        · exact fitKept_ctxDone _ _ _
        · rename_i hm
          split
          · exact fitKept_ctxDone _ _ _
          · split
            · exact fitKept_ctxDone _ _ _
            · split
              · exact fitKept_ctxDone _ _ _
              · exact (fitKept_ctxDone _ _ _).after (fitKept_placeImage _ _ _ _ _ _ (List.mem_of_find?_eq_some hm))

theorem fitKept_debugWrite (s : State) (g r fr i : Nat) (v : Word) : FitKept s (debugWrite s g r fr i v) :=
  FitKept.ite (fitKept_modGroup _ _ _) (fitKept_modSlice _ _ _ _)

theorem fitKept_debugCommand (s : State) (p : Nat) {f : State → Nat → State} (hf : ∀ u k, FitKept u (f u k)) :
    FitKept s (debugCommand s p f) := by
  unfold debugCommand
  split
  · exact fitKept_ctxDone _ _ _
  · split
    · exact fitKept_ctxDone _ _ _
    · split
      · exact fitKept_ctxDone _ _ _
      · split
        · exact fitKept_ctxDone _ _ _
        · exact (fitKept_ctxDone _ _ _).after ((hf _ _).after (fitKept_fetchLines _ _))

theorem fitKept_regrdCommand (s : State) (p : Nat) : FitKept s (regrdCommand s p) :=
  fitKept_debugCommand s p fun _ _ => (contextsKept_storePa _ _ _ _).fit

theorem fitKept_debugPut (s : State) (p k : Nat) : FitKept s (debugPut s p k) := by
  unfold debugPut
  refine FitKept.foldl _ (fun s' pos => ?_) _ _
  split
  · exact fitKept_debugWrite _ _ _ _ _ _
  · exact FitKept.refl _

theorem fitKept_endRingWaits (s : State) : FitKept s (endRingWaits s) := FitKept.of_eq rfl rfl

theorem fitKept_regwrCommand (s : State) (p : Nat) : FitKept s (regwrCommand s p) :=
  fitKept_debugCommand s p (fun _ _ => (fitKept_endRingWaits _).after (fitKept_debugPut _ _ _))

theorem fitKept_moveLease (s : State) (cl : Nat) : FitKept s (moveLease s cl) := by
  unfold moveLease
  split
  · exact FitKept.refl _
  · exact FitKept.ite (FitKept.refl _) (FitKept.ite (fitKept_endLease _ _ _)
      ((fitKept_setCluster _ _ _).after (fitKept_setCluster _ _ _)))

theorem fitKept_moveTeam (s : State) (tid c : Nat) (ks : List (Nat × Nat)) : FitKept s (moveTeam s tid c ks) := by
  unfold moveTeam
  split
  · exact FitKept.refl _
  · exact (fitKept_leaveCores _ _).after ((FitKept.foldl _ (fun _ _ => fitKept_resumeSlot _ _) _ _).after
      ((fitKept_reloadHier _ _ _).after ((fitKept_rehearseOn _ _ _ _).after
      ((FitKept.foldl _ (fun _ _ => fitKept_modGroup _ _ _) _ _).after
      ((fitKept_wakeFor _ _).after ((fitKept_freshL1 _ _ _).after
      ((fitKept_modTeam _ _ _).after ((fitKept_setCluster _ _ _).after
      ((fitKept_moveLease _ _).after ((FitKept.foldl _ (fun _ _ => fitKept_moveTeamSlot _ _ _ _) _ _).after
      ((FitKept.foldl _ (fun _ _ => fitKept_modGroup _ _ _ (width_leaveClock _)) _ _).after
      ((FitKept.foldl _ (fun _ _ => fitKept_leaveSlot _ _) _ _).after (fitKept_flushTeam _ _ _)))))))))))))

theorem fitKept_endMove (s : State) (tid : Nat) : FitKept s (endMove s tid) := by
  unfold endMove
  split
  · exact FitKept.refl _
  · exact FitKept.ite ((fitKept_killNow _ _).after ((fitKept_modTeam _ _ _).after
      (FitKept.foldl _ (fun _ _ => fitKept_modGroup _ _ _ (width_runAgain _)) _ _)))
      ((fitKept_modTeam _ _ _).after (FitKept.foldl _ (fun _ _ => fitKept_modGroup _ _ _ (width_runAgain _)) _ _))

theorem fitKept_beginMove (s : State) (tid : Nat) (t : Team) : FitKept s (beginMove s tid t) :=
  FitKept.ite (FitKept.refl _) ((fitKept_modTeam _ _ _).after (FitKept.foldl _ (fun _ _ => fitKept_stopGroup _ _) _ _))

theorem fitKept_holdResize (s : State) (tid : Nat) (t : Team) : FitKept s (holdResize s tid t) := by
  unfold holdResize
  dsimp only
  exact FitKept.ite ((fitKept_endMove _ _).after (fitKept_modTeam _ _ _))
    ((contextsKept_raiseEvent _ _).fit.after ((fitKept_endMove _ _).after (fitKept_modTeam _ _ _)))

theorem fitKept_moveReady (s : State) (tid : Nat) (t : Team) : FitKept s (moveReady s tid t).2 := by
  unfold moveReady
  split
  · exact FitKept.refl _
  · split
    · exact fitKept_ownWait _ _ _ _
    · exact FitKept.refl _

theorem fitKept_followStep (s : State) (tid c : Nat) (t : Team) : FitKept s (followStep s tid c t) := by
  unfold followStep
  split
  · exact FitKept.refl _
  · split
    · exact FitKept.refl _
    · split
      · rename_i h
        have ht := FitKept.of_snd (fitKept_moveReady _ _ _) h
        exact FitKept.ite ((fitKept_endMove _ _).after ((fitKept_moveTeam _ _ _ _).after ht)) ht

theorem fitKept_migrationStep (s : State) (tid : Nat) : FitKept s (migrationStep s tid) := by
  unfold migrationStep
  split
  · exact FitKept.refl _
  · dsimp only
    split
    · exact fitKept_followStep _ _ _ _
    · split
      · exact FitKept.refl _
      · split
        · exact FitKept.ite (fitKept_holdResize _ _ _) (FitKept.refl _)
        · split
          · exact fitKept_moveReady _ _ _
          · refine (FitKept.foldl _ (fun s g => ?_) _ _).after ((fitKept_moveTeam _ _ _ _).after (fitKept_moveReady _ _ _))
            split
            · refine FitKept.foldl _ (fun s n => ?_) _ _
              split
              · exact fitKept_passWait _ _ _
              · exact FitKept.refl _
            · exact FitKept.refl _

theorem fitKept_resizeStep (s : State) (tid : Nat) : FitKept s (resizeStep s tid) := by
  unfold resizeStep
  split
  · exact FitKept.refl _
  · dsimp only
    split
    · exact FitKept.refl _
    · split
      · exact FitKept.ite (fitKept_holdResize _ _ _) (fitKept_endMove _ _)
      · split
        · exact fitKept_modTeam _ _ _
        · exact FitKept.ite (FitKept.refl _) (FitKept.ite ((fitKept_moveReady _ _ _).after (fitKept_beginMove _ _ _))
            ((fitKept_endMove _ _).after ((fitKept_moveTeam _ _ _ _).after
            ((fitKept_moveReady _ _ _).after (fitKept_beginMove _ _ _)))))

/-! ### Display streams -/

theorem fitKept_setStream (s : State) (p n : Nat) (x : Stream) : FitKept s (setStream s p n x) := FitKept.of_eq rfl rfl

theorem fitKept_setBankBit (s : State) (p reg n : Nat) : FitKept s (setBankBit s p reg n) := FitKept.of_eq rfl rfl

theorem fitKept_streamError (s : State) (p n : Nat) : FitKept s (streamError s p n) := by
  unfold streamError
  dsimp only
  refine (fitKept_setBankBit _ _ _ _).after ?_
  split
  · exact fitKept_setStream _ _ _ _
  · exact FitKept.refl _

theorem fitKept_startStream (s : State) (p n : Nat) (d t : List Word) : FitKept s (startStream s p n d t) := FitKept.of_eq rfl rfl

theorem fitKept_streamEnableStep (s : State) (p n : Nat) : FitKept s (streamEnableStep s p n) := by
  unfold streamEnableStep
  dsimp only
  split
  · exact FitKept.refl _
  · split
    · exact fitKept_ownWait _ _ _ _
    · exact fitKept_engDone _ _ _
    · split
      · split
        · exact fitKept_setStream _ _ _ _
        · exact FitKept.refl _
      · split
        · exact fitKept_streamError _ _ _
        · split
          · exact FitKept.ite (fitKept_startStream _ _ _ _ _) (FitKept.refl _)
          · split
            · exact fitKept_streamError _ _ _
            · split
              · exact fitKept_ownWait _ _ _ _
              · exact (fitKept_streamError _ _ _).after (fitKept_engDone _ _ _)
              · exact FitKept.ite (fitKept_startStream _ _ _ _ _) (fitKept_streamError _ _ _)

theorem fitKept_releaseSlots (tid h n : Nat) (r : State × List (Nat × Nat)) : FitKept r.1 (releaseSlots tid h n r).1 := by
  induction n generalizing r with
  | zero => exact FitKept.refl _
  | succ n ih =>
    unfold releaseSlots
    split
    · exact FitKept.refl _
    · extract_lets e
      split
      · refine (ih (_, _)).after ?_
        dsimp only
        exact fitKept_ringAdvance _ _ _ _ _
      · exact FitKept.refl _

theorem fitKept_releaseStrip (s : State) (p n : Nat) (x : Stream) (ts : List (Nat × List OutTile)) :
    FitKept s (releaseStrip s p n x ts) :=
  (fitKept_setStream _ _ _ _).after (FitKept.foldl_fst _ (fun _ _ => fitKept_releaseSlots _ _ _ _) _ (s, _))

theorem fitKept_takeRing (p n h : Nat) (r : State × Option Block) (tid : Nat) : FitKept r.1 (takeRing p n h r tid).1 := by
  unfold takeRing
  split
  · dsimp only
    split
    · exact FitKept.refl _
    · split
      · exact FitKept.refl _
      · split
        · exact (contextsKept_scratchReady _ _ _ _ _).fit
        · split
          · exact (contextsKept_scratchReady _ _ _ _ _).fit
          · dsimp only
            exact (FitKept.foldl _ (fun _ _ => (contextsKept_scratchReady _ _ _ _ _).fit) _ _).after
              (contextsKept_scratchReady _ _ _ _ _).fit
  · exact FitKept.refl _

theorem fitKept_takeRings (s : State) (p n : Nat) (d : List Word) : FitKept s (takeRings s p n d).1 := by
  unfold takeRings
  split
  · exact FitKept.refl s
  · exact FitKept.foldl_fst _ (fitKept_takeRing _ _ _) _ (s, none)

theorem fitKept_displayBlocked (s : State) (p n : Nat) (b : Block) : FitKept s (displayBlocked s p n b) := by
  unfold displayBlocked
  split
  · exact fitKept_spanWait _ _ _ _ _ _
  · exact (fitKept_engDone _ _ _).after (fitKept_poolNote _ _ _ _ _ _)

theorem fitKept_scanoutStep (s : State) (p n : Nat) (late : Bool) : FitKept s (scanoutStep s p n late) := by
  unfold scanoutStep
  split
  · exact FitKept.refl _
  · split
    · exact FitKept.refl _
    · split
      · exact FitKept.refl _
      · split
        · exact FitKept.refl _
        · split
          · exact fitKept_setStream _ _ _ _
          · exact (fitKept_setBankBit _ _ _ _).after ((fitKept_setBankBit _ _ _ _).after (fitKept_setStream _ _ _ _))
          · exact FitKept.ite ((fitKept_setBankBit _ _ _ _).after
              ((fitKept_setBankBit _ _ _ _).after (fitKept_setStream _ _ _ _)))
              ((fitKept_setBankBit _ _ _ _).after (fitKept_setStream _ _ _ _))

theorem fitKept_emitGroup (s : State) (p n : Nat) (x : Stream) : FitKept s (emitGroup s p n x) := FitKept.of_eq rfl rfl

theorem fitKept_sendSkipped (s : State) (p n : Nat) (x : Stream) (k : Nat) : FitKept s (sendSkipped s p n x k) := FitKept.of_eq rfl rfl

theorem fitKept_countdownStep (s : State) (p n : Nat) : FitKept s (countdownStep s p n) := by
  unfold countdownStep
  split
  · exact FitKept.refl _
  · split
    · exact FitKept.refl _
    · split
      · exact FitKept.refl _
      · exact FitKept.ite (FitKept.refl _) (fitKept_sendSkipped _ _ _ _ _)

theorem fitKept_deadlineStep (p n : Nat) (s : State) (_ : Nat) : FitKept s (deadlineStep p n s x) := by
  unfold deadlineStep
  split
  · exact FitKept.refl _
  · split
    · exact fitKept_countdownStep _ _ _
    · split
      · exact FitKept.ite (fitKept_scanoutStep _ _ _ _) (FitKept.refl _)
      · exact FitKept.refl _

theorem fitKept_deadlines (s : State) (p n : Nat) : FitKept s (deadlines s p n) :=
  FitKept.foldl _ (fun u k => fitKept_deadlineStep p n u k) _ _

theorem fitKept_lensStep (s : State) (p n : Nat) : FitKept s (lensStep s p n) := by
  unfold lensStep
  extract_lets u
  have hu : FitKept s u := fitKept_deadlines _ _ _
  split
  · exact hu
  · split
    · exact hu
    · split
      · rename_i h
        exact (fitKept_displayBlocked _ _ _ _).after (FitKept.trans hu (FitKept.of_fst (fitKept_takeRings _ _ _ _) h))
      · rename_i h
        have ht := FitKept.trans hu (FitKept.of_fst (fitKept_takeRings _ _ _ _) h)
        split
        · exact ht
        · split
          · exact ht
          · split
            · exact (fitKept_releaseStrip _ _ _ _ _).after ht
            · split
              · exact (fitKept_displayBlocked _ _ _ _).after ht
              · exact (fitKept_releaseStrip _ _ _ _ _).after ht

theorem fitKept_av1SendStep (s : State) (p n : Nat) : FitKept s (av1SendStep s p n) := by
  unfold av1SendStep
  split
  · exact FitKept.refl _
  · split
    · exact FitKept.refl _
    · split
      · exact FitKept.refl _
      · exact FitKept.ite (fitKept_sendSkipped _ _ _ _ _) (fitKept_emitGroup _ _ _ _)

/-! ### Control registers -/

theorem outcomeFits_execSysrd (d : Reg) (n : BitVec 9) (s : State) : OutcomeFits s (execSysrd d n s) := by
  refine outcomeFits_runEntry (.of_effects (fun l x t => ?_) rfl rfl) _ _
  dsimp only
  split
  · exact FitKept.refl _
  · exact FitKept.fields (FitKept.refl _)

theorem fitKept_tlbStart (s : State) (p : Nat) (f : TlbEntry → Bool) : FitKept s (tlbStart s p f) :=
  FitKept.ite (FitKept.refl _) ((fitKept_setBankReg _ _ _ _).after (contextsKept_tlbDrop _ _).fit)

theorem fitKept_tlbPage (s : State) : FitKept s (tlbPage s) := fitKept_tlbStart _ _ _

theorem fitKept_tlbPartition (s : State) : FitKept s (tlbPartition s) := fitKept_tlbStart _ _ _

theorem fitKept_tlbDone (s : State) : FitKept s (tlbDone s) :=
  FitKept.foldl _ (fun _ _ => FitKept.ite ((contextsKept_modPart _ _ _).fit.after (fitKept_setBankReg _ _ _ _)) (FitKept.refl _)) _ _

theorem fitKept_quietBegin (s : State) (p : Nat) : FitKept s (quietBegin s p) :=
  FitKept.ite (FitKept.refl _) ((fitKept_setBankReg _ _ _ _).after (contextsKept_modPart _ _ _).fit)

theorem fitKept_quietEnd (s : State) : FitKept s (quietEnd s) := by
  unfold quietEnd
  refine FitKept.foldl _ (fun s p => ?_) _ _
  split
  · exact FitKept.refl _
  · exact (fitKept_setBankReg _ _ _ _).after (contextsKept_modPart _ _ _).fit

theorem fitKept_flushRounds (n : Nat) (s : State) (f : L2Line → Bool) : FitKept s (flushRounds n s f) := by
  induction n generalizing s with
  | zero => exact FitKept.refl s
  | succ n ih => exact (ih _).after (FitKept.foldl _ (fun _ _ => (contextsKept_evictLine _ _).fit) _ _)

theorem fitKept_flushLines (s : State) (f : L2Line → Bool) : FitKept s (flushLines s f) := fitKept_flushRounds _ _ _

theorem fitKept_l2Mode (s : State) (priv : Bool) : FitKept s (l2Mode s priv) :=
  FitKept.ite (FitKept.refl _) (FitKept.ite (fitKept_setFwCode _ _) ((fitKept_setSysReg _ _ _).after (fitKept_flushLines _ _)))

theorem fitKept_sliceSet (s : State) (p : Nat) (v : Word) : FitKept s (sliceSet s p v) :=
  FitKept.ite (FitKept.refl _) ((fitKept_setBankReg _ _ _ _).after (FitKept.ite (fitKept_flushLines _ _) (FitKept.refl _)))

theorem fitKept_evctl (s : State) (p : Nat) (v : Word) : FitKept s (evctl s p v) :=
  FitKept.ite ((contextsKept_modPart _ _ _).fit.after (fitKept_setBankReg _ _ _ _)) (fitKept_setBankReg _ _ _ _)

theorem fitKept_partEnable (s : State) (p : Nat) (en : Bool) : FitKept s (partEnable s p en) :=
  FitKept.ite (fitKept_setBankReg _ _ _ _) (FitKept.ite (FitKept.refl _)
    (FitKept.ite (fitKept_setFwCode _ _) ((contextsKept_modPart _ _ _).fit.after (fitKept_setBankReg _ _ _ _))))

theorem fitKept_killPartition (s : State) (p : Nat) : FitKept s (killPartition s p) :=
  (contextsKept_modPart _ _ _).fit.after ((FitKept.foldl _ (fun _ _ => (fitKept_putDesc _ _ _ _ _).after
    (fitKept_modLaunch _ _ _)) _ _).after ((FitKept.foldl _ (fun _ _ => fitKept_killImage _ _) _ _).after
    (FitKept.foldl _ (fun _ _ => fitKept_killTeam _ _) _ _)))

theorem fitKept_emptyQueues (s : State) (p : Nat) : FitKept s (emptyQueues s p) :=
  FitKept.fields ((FitKept.foldl _ (fun _ _ => fitKept_modPass _ _ _) _ _).after (FitKept.foldl _ (fun _ _ => fitKept_endRead _ _ _ _) _ _))

theorem fitKept_resetGoOn (s : State) (p : Nat) : FitKept s (resetGoOn s p) :=
  FitKept.ite (FitKept.refl _) (FitKept.ite ((fitKept_emptyQueues _ _).after (fitKept_killPartition _ _))
    ((contextsKept_modPart _ _ _).fit.after ((contextsKept_tlbDrop _ _).fit.after
    (FitKept.ite ((fitKept_flushLines _ _).after ((fitKept_emptyQueues _ _).after (fitKept_killPartition _ _)))
    ((fitKept_emptyQueues _ _).after (fitKept_killPartition _ _))))))

theorem fitKept_resetPart (s : State) (p : Nat) : FitKept s (resetPart s p) :=
    (fitKept_resetGoOn _ _).after (contextsKept_modPart _ _ _).fit

theorem fitKept_addCore (s : State) (p c : Nat) : FitKept s (addCore s p c) :=
  (FitKept.foldl _ (fun _ _ => FitKept.ite (fitKept_modTeam _ _ _) (FitKept.refl _)) _ _).after (contextsKept_modPart _ _ _).fit

theorem fitKept_removeCore (s : State) (p c : Nat) : FitKept s (removeCore s p c) :=
  FitKept.ite (FitKept.refl _) ((FitKept.foldl _ (fun _ _ => fitKept_resizeStep _ _) _ _).after (contextsKept_modPart _ _ _).fit)

theorem fitKept_coreMask (s : State) (p word : Nat) (v : Word) : FitKept s (coreMask s p word v) :=
  FitKept.ite ((contextsKept_modPart _ _ _).fit.after (fitKept_setBankReg _ _ _ _))
    (FitKept.ite (fitKept_setFwCode _ _) ((fitKept_endYields _).after
    ((FitKept.foldl _ (fun _ _ => fitKept_removeCore _ _ _) _ _).after
    ((FitKept.foldl _ (fun _ _ => fitKept_addCore _ _ _) _ _).after (fitKept_setBankReg _ _ _ _)))))

theorem fitKept_plainWrite (s : State) (p n : Nat) (r : RegSpec) (v : Nat) : FitKept s (plainWrite s p n r v) :=
  FitKept.ite (FitKept.ite ((contextsKept_modPart _ _ _).fit.after (fitKept_setBankReg _ _ _ _))
    (FitKept.ite ((contextsKept_modPart _ _ _).fit.after (fitKept_setBankReg _ _ _ _)) (fitKept_setBankReg _ _ _ _)))
    (fitKept_setSysReg _ _ _)

theorem fitKept_limitedWrite (s : State) (p n : Nat) (v : Word) : FitKept s (limitedWrite s p n v) :=
  FitKept.ite (fitKept_setFwCode _ _) (FitKept.ite (fitKept_sliceSet _ _ _) (fitKept_setBankReg _ _ _ _))

theorem fitKept_pctlWrite (s : State) (p : Nat) (v : Word) : FitKept s (pctlWrite s p v) :=
  (fitKept_partEnable _ _ _).after (FitKept.ite (fitKept_resetPart _ _) (FitKept.refl _))

theorem fitKept_ctxWrite (s : State) (op : Nat) : FitKept s (ctxWrite s op) := by
  unfold ctxWrite
  split
  · exact fitKept_ctxRun s (fitKept_stopCommand s)
  · exact fitKept_ctxRun s (fitKept_resumeCommand s)
  · exact fitKept_ctxRun s (fitKept_beginSave s)
  · exact fitKept_ctxRun s (fitKept_restoreCommand s)
  · exact fitKept_ctxRun s (fitKept_killCommand s)
  · exact fitKept_ctxRun s (fitKept_regrdCommand s)
  · exact fitKept_ctxRun s (fitKept_regwrCommand s)
  · exact fitKept_ctxRun s (fitKept_stepCommand s)
  · exact fitKept_ctxRun s (fun _ => fitKept_ctxDone _ _ _)

theorem fitKept_privWrite (s : State) (n : Nat) (v : Word) : FitKept s (privWrite s n v) := by
  unfold privWrite
  dsimp only
  split
  · exact FitKept.refl _
  · split
    · exact FitKept.refl _
    · split
      · exact fitKept_evctl _ _ _
      · split
        · exact fitKept_tlbPage _
        · exact fitKept_tlbPartition _
        · exact FitKept.refl _
      · exact FitKept.ite (fitKept_quietBegin _ _) (FitKept.refl _)
      · exact fitKept_ctxWrite _ _
      · exact FitKept.ite (FitKept.refl _) (fitKept_setBankReg _ _ _ _)
      · exact FitKept.ite (FitKept.refl _) (fitKept_setBankReg _ _ _ _)
      · exact fitKept_l2Mode _ _
      · exact fitKept_pctlWrite _ _ _
      · exact fitKept_coreMask _ _ _ _
      · exact fitKept_coreMask _ _ _ _
      · exact fitKept_coreMask _ _ _ _
      · exact fitKept_coreMask _ _ _ _
      · exact fitKept_limitedWrite _ _ _ _
      · exact fitKept_limitedWrite _ _ _ _
      · exact fitKept_limitedWrite _ _ _ _
      · exact fitKept_plainWrite _ _ _ _ _

theorem fitKept_writeTdone (s : State) (g i : Nat) (v : Word) : FitKept s (writeTdone s g i v) := by
  unfold writeTdone
  split
  · exact FitKept.refl _
  · exact fitKept_modSlice _ _ _ _

theorem fitKept_userWrite (s : State) (l : LaneId) (n : Nat) (v : Word) : FitKept s (userWrite s l n v) := by
  unfold userWrite
  split
  · exact fitKept_setBankReg _ _ _ _
  · exact fitKept_modGroup _ _ _
  · exact fitKept_modGroup _ _ _
  · exact FitKept.ite (fitKept_modGroup _ _ _) (FitKept.refl _)
  · exact fitKept_writeTdone _ _ _ _
  · exact FitKept.refl _

theorem outcomeFits_execSyswr (n : BitVec 9) (ea : Bool) (a : Reg) (s : State) : OutcomeFits s (execSyswr n ea a s) :=
  outcomeFits_runEntry (.of_effects (fun _ _ _ => FitKept.ite (FitKept.ite (fitKept_userWrite _ _ _ _) (fitKept_privWrite _ _ _))
    (FitKept.refl _)) rfl rfl) _ _

/-! ### The world outside -/

theorem fitKept_eventStep (s : State) : FitKept s (eventStep s) := by
  unfold eventStep
  split
  · exact FitKept.refl _
  · exact FitKept.ite (FitKept.refl _) (FitKept.fields ((contextsKept_storeDev _ _ _).fit.after (contextsKept_storeDev _ _ _).fit))

theorem fitKept_linkFails (s : State) (n : Nat) : FitKept s (linkFails s n) :=
  FitKept.ite (FitKept.refl _) ((contextsKept_raiseEvent _ _).fit.after (FitKept.fields (FitKept.refl _)))

theorem fitKept_outsideRead (s : State) (pa n : Nat) : FitKept s (outsideRead s pa n) := FitKept.of_eq rfl rfl

theorem fitKept_outsideWrite (s : State) (pa : Nat) (bs : List Byte) : FitKept s (outsideWrite s pa bs) :=
  (contextsKept_shareStore _ _ _).fit.after ((contextsKept_storeMem _ _ _).fit.after ((contextsKept_keepHomes _ _ _ _).fit.after
    (contextsKept_recallStash _ _).fit))

theorem fitKept_outsideSector (s : State) (pa : Nat) (bs : Option (List Byte)) : FitKept s (outsideSector s pa bs) := by
  unfold outsideSector
  split
  · exact fitKept_outsideWrite _ _ _
  · exact (contextsKept_promote _ _ _).fit

theorem fitKept_outsideAccess (s : State) (acc : OutsideAccess) : FitKept s (outsideAccess s acc) := by
  unfold outsideAccess
  split
  · exact FitKept.foldl _ (fun _ _ => fitKept_outsideSector _ _ _) _ _
  · exact (fitKept_outsideRead _ _ _).after (FitKept.foldl _ (fun _ _ => fitKept_outsideSector _ _ _) _ _)

theorem fitKept_hostHolds (s : State) (acc : OutsideAccess) : FitKept s (hostHolds s acc) := FitKept.of_eq rfl rfl

theorem fitKept_hostStep (s : State) (acc : OutsideAccess) : FitKept s (hostStep s acc) :=
  FitKept.ite (FitKept.ite ((fitKept_hostHolds _ _).after (fitKept_outsideAccess _ _)) (FitKept.refl _))
    (FitKept.ite (fitKept_outsideAccess _ _) (FitKept.refl _))

theorem fitKept_snoopHost (s : State) (acc : OutsideAccess) : FitKept s (snoopHost s acc) :=
  (FitKept.foldl _ (fun _ _ => (contextsKept_snoopRead _ _).fit) _ _).after (FitKept.fields (FitKept.refl _))

theorem fitKept_countPeer (s : State) (acc : OutsideAccess) : FitKept s (countPeer s acc) :=
  FitKept.foldl _ (fun _ _ => (contextsKept_countSent _ _ _).fit.after (contextsKept_countGot _ _ _).fit) _ _

theorem fitKept_peerStep (s : State) (acc : OutsideAccess) : FitKept s (peerStep s acc) :=
  FitKept.ite (FitKept.ite ((fitKept_snoopHost _ _).after ((fitKept_outsideAccess _ _).after (fitKept_countPeer _ _)))
    (FitKept.refl _)) (FitKept.ite (fitKept_outsideAccess _ _) (FitKept.refl _))

theorem fitKept_snoopLine (s : State) (x : L2Line) (invalidate : Bool) : FitKept s (snoopLine s x invalidate) :=
  FitKept.ite (contextsKept_evictLine _ _).fit (FitKept.fields ((contextsKept_ownBack _ _).fit.after (contextsKept_charge _ _ _ _).fit))

theorem fitKept_snoopStep (s : State) (line : Nat) (invalidate : Bool) : FitKept s (snoopStep s line invalidate) :=
  FitKept.ite (FitKept.refl _) ((fitKept_outsideRead _ _ _).after
    ((FitKept.foldl _ (fun _ _ => fitKept_snoopLine _ _ _) _ _).after (contextsKept_promote _ _ _).fit))

theorem fitKept_poisonElem (s : State) (k off : Nat) : FitKept s (poisonElem s k off) := by
  unfold poisonElem
  dsimp only
  split
  · exact FitKept.refl _
  · refine FitKept.foldl _ (fun s e => ?_) _ _
    refine FitKept.foldl _ (fun s i => ?_) _ _
    split
    · split
      · exact fitKept_modGroup _ _ _
      · exact FitKept.refl _
    · exact FitKept.refl _

theorem fitKept_poisonElems (s : State) (slot off n : Nat) : FitKept s (poisonElems s slot off n) :=
  FitKept.foldl _ (fun _ _ => fitKept_poisonElem _ _ _) _ _

theorem fitKept_poisonScratch (s : State) (c off n : Nat) : FitKept s (poisonScratch s c off n) := by
  refine FitKept.foldl_fst _ (fun r e => ?_) _ (s, 0)
  exact fitKept_modTeam _ _ _

theorem fitKept_poisonUnit (s : State) (f : HwFault) : FitKept s (poisonUnit s f) := by
  unfold poisonUnit
  split
  · exact fitKept_poisonScratch _ _ _ _
  · exact fitKept_poisonElems _ _ _ _
  · exact (contextsKept_poisonMem _ _ _).fit

theorem fitKept_faultStep (s : State) (f : HwFault) : FitKept s (faultStep s f) :=
  (contextsKept_raiseEvent _ _).fit.after (FitKept.ite (fitKept_poisonUnit _ _) (FitKept.refl _))

theorem fitKept_becomeReady (s : State) (n : Nat) : FitKept s (becomeReady s n) :=
  FitKept.ite (FitKept.refl _) (FitKept.ite (FitKept.fields (FitKept.fields (FitKept.refl _)))
    (FitKept.fields (FitKept.refl _)))

theorem fitKept_acceptImage (s : State) (img : FwImage) : FitKept s (acceptImage s img) :=
  FitKept.ite (fitKept_setFwCode _ _) (FitKept.fields (FitKept.refl _))

theorem fitKept_resetModule (s : State) : FitKept s (resetModule s) := fun _ => rfl

theorem fitKept_spdmReply (s : State) (need stage : Nat) (reply : List Nat) : FitKept s (spdmReply s need stage reply) :=
  FitKept.ite (FitKept.refl _) (FitKept.ite (FitKept.fields (FitKept.refl _)) (FitKept.fields (FitKept.refl _)))

theorem fitKept_controlAccess (s : State) (cxlIo : Bool) (r : ConfigRequest) : FitKept s (controlAccess s cxlIo r) := by
  unfold controlAccess
  split
  · exact FitKept.fields (FitKept.refl _)
  · exact FitKept.fields (FitKept.refl _)

theorem fitKept_configAnswer (s : State) (cxlIo : Bool) (r : ConfigRequest) : FitKept s (configAnswer s cxlIo r) :=
  FitKept.ite (FitKept.refl _) (FitKept.ite (fitKept_controlAccess _ _ _)
    (FitKept.ite (FitKept.fields (FitKept.refl _)) (FitKept.refl _)))

/-! ### Every instruction -/

/-- Whatever an instruction does, its next state keeps the widths: one line for each meaning, one for all register instructions. -/
theorem outcomeFits_exec (i : Instr) (s : State) : OutcomeFits s (exec i s) := by
  cases i with
  | iadd | isub | imul | imulh | imulhu | imin | imax | iminu | imaxu | and | or | xor | andn | shl | shr | sar | iadds | isubs
  | iaddi | imuli | andi | ori | xori | shli | shri | sari | mov | not | ineg | iabs | popc | clz | brev | imad | imadwUint
  | imadwInt | iaddw | isubw | shlw | icmp | sel | bfe | bfeu | bfi | bperm | movi | movhi | fadd | fmul | fmin | fmax | ffma
  | fcmp | fclass | fabs | fneg | frnd | fcvt | hpadd | hpmul | hpmin | hpmax | hpfma | bpfma | fdot | sobol | xmov | xfadd
  | xiadd | vote | xred | jmp | call | leaseQuery | cyc | mpack | mov16 | iadd16 | isub16 | imul16 | and16 | or16 | xor16
  | shl16 | shr16 | sar16 | imin16 | imax16 | fadd16 | fsub16 | fmul16 | fmax16 =>
    exact outcomeFits_runPure _ _ _ _
  | frcp => exact outcomeFits_execFrcp _ _ _ _
  | frsq => exact outcomeFits_execFrsq _ _ _ _
  | fsqrt => exact outcomeFits_execFsqrt _ _ _ _
  | fexp2 => exact outcomeFits_execFexp2 _ _ _ _
  | flog2 => exact outcomeFits_execFlog2 _ _ _ _
  | fsin => exact outcomeFits_execFsin _ _ _ _
  | fcos => exact outcomeFits_execFcos _ _ _ _
  | emitv => exact outcomeFits_execEmitv _ _ _ _ _
  | emitp => exact outcomeFits_execEmitp _ _ _ _ _
  | attr => exact outcomeFits_execAttr _ _ _ _
  | disc => exact outcomeFits_execDisc _ _ _
  | zout => exact outcomeFits_execZout _ _ _
  | pxout => exact outcomeFits_execPxout _ _ _ _
  | tex | texg => exact outcomeFits_execTexture _ _ _ _ _ _ _ _
  | tileld => exact outcomeFits_execTileld _ _ _ _ _
  | tilest => exact outcomeFits_execTilest _ _ _ _ _
  | raygo => exact outcomeFits_execRaygo _ _ _
  | bra => exact outcomeFits_execBra _ _ _ _
  | brz => exact outcomeFits_execBrz _ _ _ _
  | ret => exact outcomeFits_execRet _ _ _
  | brx => exact outcomeFits_execBrx _ _ _ _ _
  | regang => exact outcomeFits_execRegang _ _
  | exit => exact outcomeFits_execExit _
  | bar => exact outcomeFits_execBar _ _
  | barTeam => exact outcomeFits_execBarTeam _
  | yield => exact outcomeFits_execYield _
  | fence => exact outcomeFits_execFence _ _ _
  | qfence => exact outcomeFits_execQfence _ _
  | sleep => exact outcomeFits_execSleep _ _
  | leaseReq => exact outcomeFits_execLeaseReq _ _ _
  | leaseFree => exact outcomeFits_execLeaseFree _
  | sysrd => exact outcomeFits_execSysrd _ _ _
  | syswr => exact outcomeFits_execSyswr _ _ _ _
  | trap => exact outcomeFits_execTrap _ _
  | rett => exact outcomeFits_execRett _
  | brk => exact outcomeFits_execBrk _ _
  | ld => exact outcomeFits_execLd _ _ _ _ _ _ _ _
  | st => exact outcomeFits_execSt _ _ _ _ _ _ _ _
  | ldl => exact outcomeFits_execLdl _ _ _ _ _ _ _ _
  | stl => exact outcomeFits_execStl _ _ _ _ _ _ _ _
  | atom => exact outcomeFits_execAtom _ _ _ _ _ _ _
  | atoml => exact outcomeFits_execAtoml _ _ _ _ _ _ _
  | clinePf => exact outcomeFits_execClinePf _ _ _ _ _
  | clineWb => exact outcomeFits_execClineWb _ _ _ _ _
  | clineInv => exact outcomeFits_execClineInv _ _ _ _ _
  | stashMap => exact outcomeFits_execStashMap _ _ _ _
  | stashUnmap => exact outcomeFits_execStashUnmap _ _ _
  | stashFlush => exact outcomeFits_execStashFlush _ _ _
  | cpy => exact outcomeFits_execCpy _ _ _
  | slotw | slotr | slotp | slote => exact outcomeFits_execSlot _ _ _ _ _ _
  | qstrm => exact outcomeFits_execQstrm _ _ _ _ _ _
  | mma => exact outcomeFits_execMma _ _ _ _ _ _ _ _ _
  | mtake => exact outcomeFits_execMtake _
  | mpass => exact outcomeFits_execMpass _ _
  | tspawn => exact outcomeFits_execTspawn _ _ _
  | tsucc => exact outcomeFits_execTsucc _ _ _
  | postedResultArrival => exact OutcomeFits.next (fitKept_arrive _ _)
  | asynchronousCauseDelivery => exact OutcomeFits.next (fitKept_deliverAsync _ _ _)
  | matrixOperation => exact OutcomeFits.next (fitKept_matrixStep _ _ _)
  | slateObtained => exact OutcomeFits.next (fitKept_slateStep _ _ _)
  | copyOperation => exact OutcomeFits.next (fitKept_copyStep _ _)
  | copyRingPublication => exact OutcomeFits.next (fitKept_publishStep _ _)
  | streamEntryFetch => exact OutcomeFits.next (fitKept_streamStep _ _ _)
  | textureOperation => exact OutcomeFits.next (fitKept_textureStep _ _)
  | rayLaunch => exact OutcomeFits.next (fitKept_rayStep _ _)
  | stashFill => exact OutcomeFits.next (fitKept_fillSector _ _ _ _ _)
  | nvmeReadCompletion => exact OutcomeFits.next (fitKept_nvmeStep _ _ _ _ _)
  | swappedGroupPlacement => exact OutcomeFits.next (fitKept_placeSwapped _ _)
  | taskDispatch => exact OutcomeFits.next (fitKept_dispatchStep _ _)
  | deviceEnqueue => exact OutcomeFits.next (fitKept_enqueueStep _ _)
  | launchCompletion => exact OutcomeFits.next (fitKept_completeLaunch _ _)
  | rasterRecordTake => exact OutcomeFits.next (fitKept_takeStep _ _ _)
  | passStartClear => exact OutcomeFits.next (fitKept_clearStep _ _)
  | meshletRasterisation => exact OutcomeFits.next (fitKept_meshletStep _ _)
  | pixelGroupStart => exact OutcomeFits.next (fitKept_pixelStartStep _ _)
  | pixelCommit => exact OutcomeFits.next (fitKept_commitStep _ _)
  | tilePublication => exact OutcomeFits.next (fitKept_publicationStep _ _)
  | passCompletion => exact OutcomeFits.next (fitKept_passDone _ _)
  | lensCorrection => exact OutcomeFits.next (fitKept_lensStep _ _ _)
  | stripScanout => exact OutcomeFits.next (fitKept_scanoutStep _ _ _ _)
  | stripCountdownEnd => exact OutcomeFits.next (fitKept_countdownStep _ _ _)
  | av1StripSend => exact OutcomeFits.next (fitKept_av1SendStep _ _ _)
  | streamEnable => exact OutcomeFits.next (fitKept_streamEnableStep _ _ _)
  | powerTick => exact OutcomeFits.next (fitKept_powerStep _ _)
  | leaseRequestDecision => exact OutcomeFits.next (fitKept_decideLease _ _)
  | leaseExpiry => exact OutcomeFits.next (fitKept_expireLease _ _)
  | migration => exact OutcomeFits.next (fitKept_migrationStep _ _)
  | hangWatchdogExpiry => exact OutcomeFits.next (fitKept_hangStep _ _)
  | yieldTimeout => exact OutcomeFits.next (fitKept_yieldStep _ _ _)
  | sleepExpiry => exact OutcomeFits.next (fitKept_sleepStep _ _ _)
  | activeSetTimeout => exact OutcomeFits.next (fitKept_activeTimeout _ _)
  | activeSetIdleLeave => exact OutcomeFits.next (fitKept_activeIdle _ _)
  | activeSetEntry => exact OutcomeFits.next (fitKept_activeEnter _ _)
  | gateSequenceBegin => exact OutcomeFits.next (fitKept_gateBegin _ _)
  | gateCommit => exact OutcomeFits.next (fitKept_gateEnd _ _)
  | clusterWakeUp => exact OutcomeFits.next (fitKept_wakeUp _ _)
  | saveBoundExpiry => exact OutcomeFits.next (fitKept_saveBound _)
  | resizeStopAndMove => exact OutcomeFits.next (fitKept_resizeStep _ _)
  | stop => exact OutcomeFits.next (fitKept_ctxRun s (fitKept_stopCommand s))
  | resume => exact OutcomeFits.next (fitKept_ctxRun s (fitKept_resumeCommand s))
  | restore => exact OutcomeFits.next (fitKept_ctxRun s (fitKept_restoreCommand s))
  | kill => exact OutcomeFits.next (fitKept_ctxRun s (fitKept_killCommand s))
  | regrd => exact OutcomeFits.next (fitKept_ctxRun s (fitKept_regrdCommand s))
  | regwr => exact OutcomeFits.next (fitKept_ctxRun s (fitKept_regwrCommand s))
  | step => exact OutcomeFits.next (fitKept_ctxRun s (fitKept_stepCommand s))
  | ctxcmdUndefinedOp => exact OutcomeFits.next (fitKept_ctxRun s fun _ => fitKept_ctxDone _ _ _)
  | save => exact OutcomeFits.next (fitKept_saveStep _)
  | tlbinvPage => exact OutcomeFits.next (fitKept_tlbPage _)
  | tlbinvPartition => exact OutcomeFits.next (fitKept_tlbPartition _)
  | tlbInvalidationDone => exact OutcomeFits.next (fitKept_tlbDone _)
  | quietReq => exact OutcomeFits.next (fitKept_quietBegin _ _)
  | quietDetectionEnd => exact OutcomeFits.next (fitKept_quietEnd _)
  | partitionReset => exact OutcomeFits.next (fitKept_resetPart _ _)
  | partitionEnable => exact OutcomeFits.next (fitKept_partEnable _ _ _)
  | coreMaskWrite => exact OutcomeFits.next (fitKept_coreMask _ _ _ _)
  | l2ModeChange => exact OutcomeFits.next (fitKept_l2Mode _ _)
  | evctlEnable => exact OutcomeFits.next (fitKept_evctl _ _ _)
  | registerWrite => exact OutcomeFits.next (fitKept_privWrite _ _ _)
  | eventRingWrite => exact OutcomeFits.next (fitKept_eventStep _)
  | peerLinkFailure => exact OutcomeFits.next (fitKept_linkFails _ _)
  | hostAccess => exact OutcomeFits.next (fitKept_hostStep _ _)
  | peerAccess => exact OutcomeFits.next (fitKept_peerStep _ _)
  | hardwareFaultDetection => exact OutcomeFits.next (fitKept_faultStep _ _)
  | functionReady => exact OutcomeFits.next (fitKept_becomeReady _ _)
  | firmwareImageAccept => exact OutcomeFits.next (fitKept_acceptImage _ _)
  | moduleReset => exact OutcomeFits.next (fitKept_resetModule _)
  | getVersion | getCapabilities | negotiateAlgorithms | getDigests | getCertificate | challenge | getMeasurements =>
    exact OutcomeFits.next (fitKept_spdmReply _ _ _ _)
  | copyOnWriteCompletion => exact OutcomeFits.next (fitKept_cowStep _ _)
  | configurationRequest => exact OutcomeFits.next (fitKept_configAnswer _ _ _)
  | hostSnoop => exact OutcomeFits.next (fitKept_snoopStep _ _ _)

/-! ### Issue, turns and the steps of the module -/

theorem fitKept_noteFetch (s : State) (l : LaneId) (pc : Addr) : FitKept s (noteFetch s l pc) := fitKept_noteLane _ _ _ _

theorem fitKept_trapAll (s : State) (cause detail : Nat) : FitKept s (trapAll s cause detail) := by
  unfold trapAll
  dsimp only
  refine (fitKept_finish (keepsFit_pureEntry _ _) _ _ _).after ?_
  split
  · exact FitKept.ite (fitKept_noteLane _ _ _ _) (FitKept.refl _)
  · exact FitKept.refl _

theorem outcomeFits_runFocus (s : State) : OutcomeFits s (runFocus s) := by
  unfold runFocus
  split
  · exact OutcomeFits.next (FitKept.refl s)
  · split
    · exact OutcomeFits.of_kept (fitKept_noteFetch _ _ _) (outcomeFits_exec _ _)
    · exact OutcomeFits.next (fitKept_trapAll _ _ _)
    · exact OutcomeFits.next ((fitKept_swapOut _ _).after (FitKept.foldl _ (fun _ _ => fitKept_noteLane _ _ _ _) _ _))
    · exact OutcomeFits.next (FitKept.refl s)

/-- A context brought into focus runs. -/
theorem outcomeFits_runFocus_focus (s : State) (f : Focus) : OutcomeFits s (runFocus { s with focus := f }) :=
  OutcomeFits.of_kept (FitKept.fields (FitKept.refl s)) (outcomeFits_runFocus _)

theorem fitKept_endStepping (s : State) (es : List (Nat × Nat)) : FitKept s (endStepping s es) :=
  FitKept.foldl _ (fun _ _ => FitKept.ite (fitKept_modSlice _ _ _ _) (FitKept.refl _)) _ _

theorem outcomeFits_issueGang (s : State) (k gang : Nat) : OutcomeFits s (issueGang s k gang) := by
  have run := outcomeFits_runFocus_focus s (.wave k gang)
  unfold issueGang
  dsimp only
  split
  · rename_i t ht
    exact OutcomeFits.next ((fitKept_endStepping _ _).after (run t ht))
  · exact run

theorem outcomeFits_issueGrip (s : State) (t : Nat) : OutcomeFits s (issueGrip s t) := by
  unfold issueGrip
  split
  · exact OutcomeFits.next ((fitKept_gripTrap _ _ _ _).after (fitKept_modTeam _ _ _))
  · exact outcomeFits_runFocus_focus s (.grip t)

theorem outcomeFits_tryGrips (s : State) (ts : List Nat) : OutcomeFits s (tryGrips s ts) := by
  induction ts with
  | nil => exact OutcomeFits.next (FitKept.refl s)
  | cons t ts ih =>
    have issue := outcomeFits_issueGrip s t
    unfold tryGrips
    split
    · rename_i u hu
      exact OutcomeFits.ite ih (OutcomeFits.next (issue u hu))
    · exact issue

theorem outcomeFits_gripStep (s : State) (c : Nat) : OutcomeFits s (gripStep s c) := outcomeFits_tryGrips s _

theorem fitKept_noteReady (s : State) (k : Nat) : FitKept s (noteReady s k) :=
    FitKept.ite (fitKept_modSlot _ _ _) (FitKept.refl _)

theorem fitKept_elapseCluster (s : State) (cl n : Nat) : FitKept s (elapseCluster s cl n) := by
  unfold elapseCluster
  split
  · exact FitKept.refl _
  · exact (fitKept_setCluster _ _ _).after ((FitKept.foldl _ (fun _ _ => fitKept_noteReady _ _) _ _).after
      (FitKept.foldl _ (fun _ _ => (contextsKept_modCore _ _ _).fit) _ _))

theorem fitKept_elapse (s : State) (core n : Nat) : FitKept s (elapse s core n) := FitKept.fields (fitKept_elapseCluster _ _ _)

/-- Steps that keep groups at their widths, from whatever state each is tried. -/
def StepsFit (fs : List (State → State)) : Prop := ∀ f ∈ fs, ∀ s, FitKept s (f s)

theorem StepsFit.nil : StepsFit [] := fun _ h => by cases h

theorem StepsFit.cons {f : State → State} {fs : List (State → State)} (h : ∀ s, FitKept s (f s)) (hs : StepsFit fs) :
    StepsFit (f :: fs) :=
  List.forall_mem_cons.2 ⟨h, hs⟩

theorem StepsFit.append {fs gs : List (State → State)} (hf : StepsFit fs) (hg : StepsFit gs) : StepsFit (fs ++ gs) :=
  List.forall_mem_append.2 ⟨hf, hg⟩

theorem StepsFit.map {α : Type} {f : α → State → State} (as : List α) (h : ∀ a s, FitKept s (f a s)) : StepsFit (as.map f) := by
  intro g hg
  obtain ⟨a, -, rfl⟩ := List.mem_map.1 hg
  exact h a

theorem StepsFit.flatMap {α : Type} {f : α → List (State → State)} (as : List α) (h : ∀ a, StepsFit (f a)) :
    StepsFit (as.flatMap f) := by
  intro g hg
  obtain ⟨a, -, ha⟩ := List.mem_flatMap.1 hg
  exact h a g ha

theorem fitKept_firstChange {s t : State} {fs : List (State → State)} (hfs : StepsFit fs) (h : firstChange s fs = some t) :
    FitKept s t := by
  obtain ⟨f, hf, ht⟩ := List.exists_of_findSome?_eq_some h
  dsimp only at ht
  split at ht
  · cases ht
  · rw [← Option.some.inj ht]
    exact hfs f hf s

theorem stepsFit_engineSteps (s : State) (c : Nat) : StepsFit (engineSteps s c) := by
  refine .append (.append (.append (.map _ fun p u => ?_) ?_) (.flatMap _ fun q => ?_)) ?_
  · exact fitKept_arrive u p.id
  · exact .cons (fitKept_copyStep · c) (.cons (fitKept_publishStep · c) (.cons (fitKept_textureStep · c)
      (.cons (fitKept_commitStep · c) .nil)))
  · exact .cons (fitKept_matrixStep · c q) (.cons (fitKept_slateStep · c q) .nil)
  · exact .cons (fitKept_rayStep · (c / 4)) .nil

theorem stepsFit_workSteps (s : State) : StepsFit (workSteps s) := by
  refine .append (.append (.append (.append (.flatMap _ fun e => ?_) (.flatMap _ fun e => ?_)) (.flatMap _ fun e => ?_))
    (.map _ fun e u => ?_)) (.flatMap _ fun e => ?_)
  · exact .cons (fitKept_deliverAsync · e.1 _) (.cons (fitKept_activeIdle · e.1) (.cons (fitKept_activeTimeout · e.1)
      (.cons (fitKept_activeEnter · e.1) .nil)))
  · refine .append (.append (.cons (fitKept_placeSwapped · e.1) (.cons (fitKept_hangStep · e.1) .nil)) (.map _ fun q u => ?_))
      (.flatMap _ fun n => ?_)
    · exact fitKept_streamStep u e.1 q.1
    · exact .cons (fitKept_yieldStep · e.1 n) (.cons (fitKept_sleepStep · e.1 n) .nil)
  · exact .cons (fitKept_migrationStep · e.1) (.cons (fitKept_resizeStep · e.1) (.cons (fitKept_tryEndTeam · e.1) .nil))
  · exact fitKept_completeLaunch u e.1
  · exact .cons (fitKept_clearStep · e.1) (.cons (fitKept_meshletStep · e.1) (.cons (fitKept_pixelStartStep · e.1)
      (.cons (fitKept_publicationStep · e.1) (.cons (fitKept_passDone · e.1) .nil))))

theorem stepsFit_partSteps (s : State) : StepsFit (partSteps s) := by
  refine .flatMap _ fun p => .append (.append ?_ (.map _ fun q u => ?_)) (.flatMap _ fun e => ?_)
  · exact .cons (fitKept_serviceStep · p) (.cons (fitKept_enqueueStep · p) (.cons (fitKept_refusalStep · p)
      (.cons (fitKept_resetGoOn · p) .nil)))
  · exact fitKept_takeStep u p q
  · exact .cons (fitKept_deadlines · p (e.1 % 16)) (.cons (fitKept_lensStep · p (e.1 % 16))
      (.cons (fitKept_av1SendStep · p (e.1 % 16)) .nil))

theorem stepsFit_moduleSteps (s : State) : StepsFit (moduleSteps s) := by
  refine .append (.append (.append (.cons fitKept_saveBound .nil) (.map _ fun x u => ?_)) ?_) (.flatMap _ fun cl => ?_)
  · exact fitKept_continueSave u x
  · exact .cons fitKept_tlbDone (.cons fitKept_quietEnd (.cons fitKept_eventStep .nil))
  · exact .cons (fitKept_gateBegin · cl) (.cons (fitKept_gateEnd · cl) (.cons (fitKept_wakeUp · cl) .nil))

theorem stepsFit_dispatchSteps (s : State) : StepsFit (dispatchSteps s) := .map _ fun c u => fitKept_dispatchStep u c

theorem stepsFit_ownSteps (s : State) : StepsFit (ownSteps s) := by
  refine .append (.append (.append (.append (.append (.map _ fun e u => ?_) (stepsFit_moduleSteps s))
    (.flatMap _ (stepsFit_engineSteps s))) (stepsFit_partSteps s)) (stepsFit_workSteps s)) (stepsFit_dispatchSteps s)
  exact fitKept_performLate u e.id

theorem fitKept_pruneRob (s : State) (k : Nat) : FitKept s (pruneRob s k) := by
  unfold pruneRob
  split
  · exact FitKept.refl _
  · exact FitKept.ite (FitKept.refl _) (fitKept_modSlot _ _ _)

theorem fitKept_renameGang (s : State) (k gang : Nat) {t : State} (h : renameGang s k gang = some t) : FitKept s t := by
  unfold renameGang at h
  split at h
  · cases h
  · split at h
    · extract_lets i at h
      split at h
      · cases h
      · obtain ⟨u, hu, ht⟩ := Option.map_eq_some_iff.1 h
        rw [← ht]
        exact (fitKept_modSlot _ _ _).after (fitKept_renameInstr _ _ _ _ _ hu)
    · cases h

theorem fitKept_renameWave (s : State) (k : Nat) {t : State} (h : renameWave s k = some t) : FitKept s t := by
  obtain ⟨g, -, hg⟩ := List.exists_of_findSome?_eq_some h
  exact fitKept_renameGang _ _ _ hg

theorem fitKept_quadRename (s : State) (c q : Nat) : FitKept s (quadRename s c q) := by
  unfold quadRename
  extract_lets ks last
  generalize h : (ks.filter (· != last) ++ ks.filter (· == last)).findSome? (renameWave s) = o
  cases o with
  | none => exact FitKept.refl s
  | some t =>
    obtain ⟨k, -, hk⟩ := List.exists_of_findSome?_eq_some h
    exact fitKept_renameWave _ _ hk

theorem fitKept_executeAhead (s : State) (k stamp : Nat) : FitKept s (executeAhead s k stamp) := FitKept.of_eq rfl rfl

theorem fitKept_endIssue (s t : State) (k gang stamp : Nat) : FitKept t (endIssue s t k gang stamp) :=
  (fitKept_modQuad _ _ _ _).after ((fitKept_pruneRob _ _).after
    (FitKept.ite ((fitKept_reachBoundary _ _ _).after (fitKept_retireEntry _ _ _)) (FitKept.refl _)))

theorem outcomeFits_tryEntries (s : State) (xs : List Candidate) : OutcomeFits s (tryEntries s xs) := by
  induction xs generalizing s with
  | nil => exact OutcomeFits.next (FitKept.refl s)
  | cons x xs ih =>
    have issue := outcomeFits_issueGang s x.wave x.gang
    unfold tryEntries
    refine OutcomeFits.ite (ih s) (OutcomeFits.ite (OutcomeFits.next (fitKept_executeAhead _ _ _)) ?_)
    split
    · rename_i t ht
      exact OutcomeFits.ite (OutcomeFits.next ((fitKept_endIssue _ _ _ _ _).after (issue t ht)))
        (OutcomeFits.of_kept (FitKept.fields (issue t ht)) (ih _))
    · exact issue

theorem outcomeFits_quadStep (s : State) (c q : Nat) : OutcomeFits s (quadStep s c q) :=
  OutcomeFits.of_kept ((fitKept_quadRename _ _ _).after (FitKept.foldl _ (fun _ _ => fitKept_pruneRob _ _) _ _))
    (outcomeFits_tryEntries _ _)

/-- A rename that may have no room for its instruction. -/
theorem fitKept_renameGang_getD (s : State) (k g : Nat) : FitKept s ((renameGang s k g).getD s) := by
  cases h : renameGang s k g with
  | none => exact FitKept.refl s
  | some t => exact fitKept_renameGang _ _ _ h

theorem outcomeFits_tryGangs (s : State) (k : Nat) (gs : List Nat) : OutcomeFits s (tryGangs s k gs) := by
  induction gs with
  | nil => exact OutcomeFits.next (FitKept.refl s)
  | cons g gs ih =>
    have issue := OutcomeFits.of_kept (fitKept_renameGang_getD s k g) (outcomeFits_issueGang ((renameGang s k g).getD s) k g)
    unfold tryGangs
    refine OutcomeFits.ite ih ?_
    dsimp only
    split
    · rename_i t ht
      exact OutcomeFits.ite
        (OutcomeFits.next ((fitKept_reachBoundary _ _ _).after ((fitKept_retireEntry _ _ _).after (issue t ht)))) ih
    · exact issue

theorem outcomeFits_waveTurn (s : State) (k : Nat) : OutcomeFits s (waveTurn s k) := by
  unfold waveTurn
  split
  · exact OutcomeFits.next (FitKept.refl s)
  · exact OutcomeFits.ite
      (OutcomeFits.next ((FitKept.foldl _ (fun _ _ => fitKept_sleepStep _ _ _) _ _).after (fitKept_modSlot _ _ _)))
      (OutcomeFits.ite (outcomeFits_tryGangs s k _) (OutcomeFits.next (FitKept.refl s)))

theorem outcomeFits_gripTurn (s : State) (t : Nat) : OutcomeFits s (gripTurn s t) := by
  unfold gripTurn
  split
  · exact OutcomeFits.next (FitKept.refl s)
  · exact OutcomeFits.ite (OutcomeFits.next (fitKept_modTeam _ _ _))
      (OutcomeFits.ite (outcomeFits_issueGrip s t) (OutcomeFits.next (FitKept.refl s)))

theorem outcomeFits_rehTurn (s : State) (lid c : Nat) : OutcomeFits s (rehTurn s lid c) := by
  unfold rehTurn
  split
  · exact OutcomeFits.next (FitKept.refl s)
  · extract_lets gs k hold u
    have hu : FitKept s u := fitKept_modLaunch _ _ _
    refine OutcomeFits.ite (OutcomeFits.next (FitKept.refl s)) (OutcomeFits.ite (OutcomeFits.next hu)
      (OutcomeFits.of_kept hu (OutcomeFits.ite (outcomeFits_waveTurn u k) ?_)))
    split
    · exact outcomeFits_gripTurn u _
    · exact OutcomeFits.next (FitKept.refl u)

theorem outcomeFits_rehGoOn (s : State) (lid c : Nat) : OutcomeFits s (rehGoOn s lid c) := by
  unfold rehGoOn
  split
  · rename_i t ht
    exact OutcomeFits.next (fitKept_firstChange (stepsFit_engineSteps s c) ht)
  · exact OutcomeFits.ite (OutcomeFits.next (FitKept.refl s)) (outcomeFits_rehTurn s lid c)

theorem outcomeFits_issueStep (s : State) (f : Focus) : OutcomeFits s (issueStep s f) := by
  unfold issueStep
  split
  · exact outcomeFits_rehGoOn s _ _
  · split
    · exact outcomeFits_quadStep s _ _
    · split
      · exact outcomeFits_gripStep s _
      · exact OutcomeFits.next (FitKept.refl s)
    · exact OutcomeFits.ite (outcomeFits_runFocus_focus s _) (OutcomeFits.next (FitKept.refl s))
    · exact OutcomeFits.next (FitKept.refl s)

theorem outcomeFits_takeTurn (s : State) (t : Turn) : OutcomeFits s (takeTurn s t) := by
  cases t with
  | quad c q => exact outcomeFits_quadStep s c q
  | grip c => exact outcomeFits_gripStep s c
  | mgmt n => exact outcomeFits_runFocus_focus s (.mgmt n)
  | reh l c => exact outcomeFits_rehGoOn s l c

theorem outcomeFits_tryTurns (s : State) (xs : List (Nat × Turn)) : OutcomeFits s (tryTurns s xs) := by
  induction xs with
  | nil => exact OutcomeFits.next (FitKept.foldl _ (fun _ _ => fitKept_elapse _ _ _) _ _)
  | cons x xs ih =>
    have turn := outcomeFits_takeTurn s x.2
    unfold tryTurns
    split
    · rename_i t ht
      exact OutcomeFits.ite ih (OutcomeFits.next ((fitKept_elapse _ _ _).after (turn t ht)))
    · exact turn

theorem outcomeFits_autoStep (s : State) : OutcomeFits s (autoStep s) := by
  unfold autoStep
  refine OutcomeFits.ite (OutcomeFits.next (fitKept_finishTick s)) ?_
  split
  · rename_i t ht
    exact OutcomeFits.next (fitKept_firstChange (stepsFit_ownSteps s) ht)
  · exact outcomeFits_tryTurns s _

theorem outcomeFits_happenNow (s : State) (h : Happening) : OutcomeFits s (happenNow s h) := by
  cases h with
  | issue f => exact outcomeFits_issueStep s f
  | issueLate f =>
    have issue : OutcomeFits s (issueStep { s with deferring := some s.nextTag } f) :=
      OutcomeFits.of_kept (FitKept.fields (FitKept.refl s)) (outcomeFits_issueStep _ f)
    unfold happenNow
    dsimp only
    split
    · rename_i t ht
      exact OutcomeFits.next (FitKept.fields (issue t ht))
    · exact issue
  | perform id => exact OutcomeFits.next (fitKept_performLate s id)
  | elapse core clocks => exact OutcomeFits.next (fitKept_elapse s core clocks)
  | event i => exact outcomeFits_exec i s

theorem outcomeFits_happen (s : State) (h : Happening) : OutcomeFits s (happen s h) :=
  OutcomeFits.of_kept (FitKept.ite (fitKept_finishTick s) (FitKept.refl s)) (outcomeFits_happenNow _ h)

/-! ### Steps -/

theorem outcomeFits_step (s : State) : OutcomeFits s (step s) := by
  unfold step
  split
  · exact OutcomeFits.of_kept (FitKept.fields (FitKept.refl s)) (outcomeFits_happen _ _)
  · exact outcomeFits_autoStep s

end Sys2Proof.Machine

end

section
open Sys2Proof Sys2Proof.Machine

/-- Settles O30: groups start at the width of their launch record, which is at most 64, and no operation changes a group's width, so that
whatever a step does, by the agenda or by itself, it keeps every group at 64 lanes at most. -/
theorem stepKeepsGroupWidths : Obligations.StepKeepsGroupWidths := by
  unfold Obligations.StepKeepsGroupWidths
  exact fun s t h hs => outcomeFits_step s t hs h

end

section
/-! A posted result for a lane beyond its group's width: no such lane exits, and the group is over once the others have. -/

namespace Sys2Proof.Machine

/-- A group of four lanes that have all exited, in which register v0 of a fifth awaits posted result 9. -/
def overWithLaneFive : Group := { oneSlice plainSlice with exited := 15, regs := [(5, .empty 9)] }

/-- The result for that lane. -/
def resultForLaneFive : Posted := { id := 9, kind := .data, dests := [(.wave 2 5, 0, 1, false)], link := none }

def laneBeyondWidth : State :=
  { State.reset with work := { Work.reset with groups := [(2, overWithLaneFive)] }, posted := [resultForLaneFive] }

/-- The result lands, with it the group ends, and its registers go. -/
theorem laneElem_arrive_laneBeyondWidth : laneElem (arrive laneBeyondWidth 9) (.wave 2 5) 0 = .full 0 false := by decide +kernel

end Sys2Proof.Machine
end

section
open Sys2Proof Sys2Proof.Machine

/-- Refutes O48: the statement is about every state whose destinations are lanes below 64, also one in which a result is for a lane beyond its
group's width. That lane is not among the exited ones, but the group is over without it: the arrival of its last result ends the group, and
the element that has just been filled goes with the group's registers. -/
theorem not_resultsCausesSlateAndStreamEntriesArrive : ¬ Obligations.ResultsCausesSlateAndStreamEntriesArrive := by
  unfold Obligations.ResultsCausesSlateAndStreamEntriesArrive
  rintro ⟨arrival, -⟩
  obtain ⟨t, ht, -, fills⟩ := arrival laneBeyondWidth resultForLaneFive (by decide) (by decide) rfl (by decide)
  obtain rfl : arrive laneBeyondWidth 9 = t := by injection ht
  have filled := fills 2 5 0 1 false overWithLaneFive (by decide) (by decide) rfl (by decide) (by decide)
  have awaits : laneElem laneBeyondWidth (.wave 2 5) 0 = .empty 9 := by decide
  rw [laneElem_arrive_laneBeyondWidth, awaits] at filled
  exact absurd filled (by decide)

end

section
/-! What writes to registers and the bookkeeping of issue leave alone of groups and their slices: where a group sits, and the divergence
and the frames of each slice. -/

namespace Sys2Proof.Machine

/-- The divergence and the frames of a slice. -/
def Slice.stack (x : Slice) : Level × List Frame := (x.prog, x.frames)

/-- Where a group sits, and the stacks of its slices. -/
def Group.place (x : Group) : Nat × Nat × List Nat × List (Level × List Frame) := (x.team, x.width, x.seats, x.slices.map Slice.stack)

/-- `t` has the memory, the partitions, the teams and the stacks of `u`. -/
structure Stacked (u t : State) : Prop where
  mem : t.mem = u.mem
  parts : t.units.parts = u.units.parts
  launches : t.work.launches = u.work.launches
  teams : ∀ k, (team? t k).map (·.launch) = (team? u k).map (·.launch)
  groups : ∀ g, (group? t g).map Group.place = (group? u g).map Group.place

theorem Stacked.refl (s : State) : Stacked s s := by constructor <;> intros <;> rfl

theorem Stacked.trans {a b c : State} (h : Stacked a b) (k : Stacked b c) : Stacked a c where
  mem := k.mem.trans h.mem
  parts := k.parts.trans h.parts
  launches := k.launches.trans h.launches
  teams j := (k.teams j).trans (h.teams j)
  groups g := (k.groups g).trans (h.groups g)

theorem Stacked.foldl {α : Type} (f : State → α → State) (h : ∀ s a, Stacked s (f s a)) (as : List α) (s : State) :
    Stacked s (as.foldl f s) := by
  induction as generalizing s with
  | nil => exact Stacked.refl s
  | cons a as ih => exact (h s a).trans (ih _)

/-! ### Operations -/

theorem stacked_modGroup (s : State) (g : Nat) (f : Group → Group) (hf : ∀ x, (f x).place = x.place) : Stacked s (modGroup s g f) := by
  refine ⟨rfl, rfl, rfl, fun _ => rfl, fun h => ?_⟩
  rw [group?_modGroup]
  split
  case isTrue e =>
    subst e
    cases group? s h <;> simp [hf]
  case isFalse => rfl

theorem stacked_modSlice (s : State) (g n : Nat) (f : Slice → Slice) (hf : ∀ y, (f y).stack = y.stack) : Stacked s (modSlice s g n f) := by
  refine stacked_modGroup s g _ fun x => ?_
  have same : (modifyNth x.slices n f).map Slice.stack = x.slices.map Slice.stack := by
    refine List.ext_getElem? fun m => ?_
    rw [List.getElem?_map, List.getElem?_map, modifyNth_getElem?]
    split
    case isTrue e =>
      subst e
      cases x.slices[m]? <;> simp [hf]
    case isFalse => rfl
  simp only [Group.place, same]

theorem stacked_modSlot (s : State) (k : Nat) (f : Slot → Slot) : Stacked s (modSlot s k f) := by constructor <;> intros <;> rfl

theorem stacked_modTeam (s : State) (k : Nat) (f : Team → Team) (hf : ∀ x, (f x).launch = x.launch) : Stacked s (modTeam s k f) := by
  refine ⟨rfl, rfl, rfl, fun j => ?_, fun _ => rfl⟩
  rw [team?_modTeam]
  split
  case isTrue e =>
    subst e
    cases team? s j <;> simp [hf]
  case isFalse => rfl

theorem stacked_setMgmt (s : State) (ms : List Mgmt) : Stacked s { s with units := { s.units with mgmt := ms } } := by
  constructor <;> intros <;> rfl

theorem stacked_partFocus (s : State) : Stacked s (partFocus s) := by
  unfold partFocus
  split
  · refine Stacked.foldl _ (fun u e => ?_) _ s
    exact stacked_modSlice u _ _ _ fun _ => rfl
  · exact Stacked.refl s

theorem stacked_waveRetired (s : State) (k : Nat) (gs : List Nat) : Stacked s (waveRetired s k gs) := by
  refine (stacked_modSlot s k _).trans (Stacked.foldl _ (fun u g => ?_) _ _)
  exact stacked_modGroup u g _ fun _ => rfl

theorem stacked_noteRetired (s : State) (f : Focus) (as : List (LaneId × Act)) : Stacked s (noteRetired s f as) := by
  have named : Stacked s (match f with | .wave k gang => modSlot s k (fun x => { x with lastGang := gang }) | _ => s) := by
    cases f with
    | wave k gang => exact stacked_modSlot s k _
    | _ => exact Stacked.refl s
  unfold noteRetired
  extract_lets u
  refine Stacked.trans (b := u) named ?_
  clear_value u
  split
  · cases f with
    | wave k gang =>
      dsimp only
      split
      · exact stacked_waveRetired u k _
      · exact Stacked.refl u
    | grip t => exact stacked_modTeam u t _ fun _ => rfl
    | mgmt n => exact stacked_setMgmt u _
    | none => exact Stacked.refl u
  · exact Stacked.refl u

theorem stacked_clearFailed (s : State) (ls : List LaneId) : Stacked s (clearFailed s ls) := by
  refine Stacked.foldl _ (fun u l => ?_) ls s
  split
  · exact Stacked.refl u
  · cases l with
    | wave g i => exact stacked_modGroup u g _ fun _ => rfl
    | grip t => exact stacked_modTeam u t _ fun _ => rfl
    | mgmt n => exact stacked_setMgmt u _

theorem stacked_consumePops (s0 s : State) (f : Form) (as : List (LaneId × Act)) : Stacked s (consumePops s0 s f as) := by
  refine Stacked.foldl _ (fun u l => ?_) _ s
  cases l with
  | wave g i =>
    refine Stacked.foldl _ (fun v x => ?_) _ u
    exact stacked_modGroup v g _ fun _ => rfl
  | grip t => exact Stacked.refl u
  | mgmt n => exact Stacked.refl u

/-- The registers that a handler shares with its program are of the group, not of a frame (R85). -/
theorem stacked_setLaneElem (s : State) (l : LaneId) {r : Nat} (e : Elem) (hr : r < 56) : Stacked s (setLaneElem s l r e) := by
  cases l with
  | wave g i =>
    rw [setLaneElem_wave, if_pos hr]
    exact stacked_modGroup s g _ fun _ => rfl
  | grip t => exact stacked_modTeam s t _ fun _ => rfl
  | mgmt n => exact stacked_setMgmt s _

theorem stacked_writeLanes (s : State) (l : LaneId) (ws : List (Nat × Word)) (hw : ∀ w ∈ ws, w.1 < 56) : Stacked s (writeLanes s l ws) := by
  unfold writeLanes
  induction ws generalizing s with
  | nil => exact Stacked.refl s
  | cons w ws ih =>
    exact (stacked_setLaneElem s l _ (hw w List.mem_cons_self)).trans (ih _ fun v hv => hw v (List.mem_cons_of_mem w hv))

theorem stacked_writeAll (s : State) (ls : List LaneId) (ws : LaneId → List (Nat × Word)) (hw : ∀ l ∈ ls, ∀ w ∈ ws l, w.1 < 56) :
    Stacked s (writeAll s ls ws) := by
  unfold writeAll
  induction ls generalizing s with
  | nil => exact Stacked.refl s
  | cons l ls ih =>
    exact (stacked_writeLanes s l _ (hw l List.mem_cons_self)).trans (ih _ fun m hm => hw m (List.mem_cons_of_mem l hm))

/-! ### What stacked states share -/

theorem levelOf_of_stack {x y : Slice} (h : x.stack = y.stack) : levelOf x = levelOf y := by
  obtain ⟨hprog, hframes⟩ := Prod.ext_iff.1 h
  simp only [Slice.stack] at hprog hframes
  simp only [levelOf, hprog, hframes]

/-- The frames of a slot are counted from where its group sits and from the stacks. -/
theorem framesUsed_of_place {x y : Group} (h : x.place = y.place) (n : Nat) : framesUsed x n = framesUsed y n := by
  simp only [Group.place, Prod.mk.injEq] at h
  obtain ⟨-, hwidth, hseats, hstacks⟩ := h
  have count (m : Nat) :
      ((x.slices[m]?).map (fun c => c.frames.length)).getD 0 = ((y.slices[m]?).map (fun c => c.frames.length)).getD 0 := by
    have at_m := congrArg (fun l => (l[m]?).map (fun e => e.2.length)) hstacks
    simp only [List.getElem?_map, Option.map_map, Function.comp_def, Slice.stack] at at_m
    rw [at_m]
  unfold framesUsed seatSlices laneSeat
  rw [hwidth, hseats]
  simp only [count]

theorem Stacked.teamPart {u t : State} (h : Stacked u t) (k : Nat) : teamPart t k = teamPart u k := by
  have part (s : State) : Machine.teamPart s k =
      ((((team? s k).map (·.launch)).bind (tget? s.work.launches ·)).map (·.part)).getD 0 := by
    unfold Machine.teamPart teamLaunch? launch?
    cases team? s k <;> rfl
  rw [part, part, h.teams, h.launches]

theorem Stacked.bankReg {u t : State} (h : Stacked u t) (p n : Nat) : bankReg t p n = bankReg u p n := by
  simp only [Machine.bankReg, partOf, h.parts]

theorem Stacked.tvec {u t : State} (h : Stacked u t) (p : Nat) : tvec t p = tvec u p := by
  simp only [Machine.tvec, bankPair, h.bankReg]

theorem Stacked.group {u t : State} (h : Stacked u t) {g : Nat} {x : Group} (hx : group? u g = some x) :
    ∃ y, group? t g = some y ∧ y.place = x.place :=
  Option.map_eq_some_iff.1 ((h.groups g).trans (by rw [hx]; rfl))

theorem Stacked.slice {u t : State} (h : Stacked u t) {g n : Nat} {x : Slice} (hx : slice? u g n = some x) :
    ∃ y, slice? t g n = some y ∧ y.stack = x.stack := by
  obtain ⟨z, hz, hzx⟩ := Option.bind_eq_some_iff.1 hx
  obtain ⟨w, hw, hplace⟩ := h.group hz
  have hstacks : w.slices.map Slice.stack = z.slices.map Slice.stack := congrArg (·.2.2.2) hplace
  have at_n := congrArg (·[n]?) hstacks
  simp only [List.getElem?_map, hzx, Option.map_some] at at_n
  obtain ⟨y, hy, hyx⟩ := Option.map_eq_some_iff.1 at_n
  exact ⟨y, by rw [slice?, hw]; exact hy, hyx⟩

end Sys2Proof.Machine
end

section
/-! Issues in which some lanes take one cause and the others complete (R66): what the end of such an issue makes of each slice. -/

namespace Sys2Proof.Machine

/-! ### The outcomes of the lanes -/

/-- Outcomes in which the lanes `faults` take `cause` with TADDR `detail`, and every other completes with register writes; each lane has
its flags. -/
structure Mixed where
  cause : Nat
  faults : LaneId → Bool
  detail : LaneId → Nat
  writes : LaneId → List (Nat × Word)
  flags : LaneId → Flags

namespace Mixed

variable (m : Mixed)

def act (l : LaneId) : Act :=
  if m.faults l then .fault m.cause (m.detail l) (m.flags l) else .done (m.writes l) (m.flags l) none

def acts (ls : List LaneId) : List (LaneId × Act) := ls.map (fun l => (l, m.act l))

/-- The flags that a lane raises: those of a lane that takes a cause count for cause 0x0B only (R119). -/
def raises (l : LaneId) : Flags := actFlags (some m.cause) (m.act l)

/-- The lanes of some that complete. -/
def completing (ls : List LaneId) : List LaneId := ls.filter (fun l => !m.faults l)

variable {m}

theorem act_of_fault {l : LaneId} (h : m.faults l = true) : m.act l = .fault m.cause (m.detail l) (m.flags l) := if_pos h

theorem act_of_done {l : LaneId} (h : m.faults l = false) : m.act l = .done (m.writes l) (m.flags l) none := by
  simp [act, h]

theorem act_ne_wait (l : LaneId) : m.act l ≠ .wait := by unfold act; split <;> nofun

theorem act_ne_swap (l : LaneId) : m.act l ≠ .swap := by unfold act; split <;> nofun

/-- The parts of a list of outcomes that the end of an issue picks out are maps over its lanes. -/
theorem filterMap_acts {β : Type} (ls : List LaneId) (pick : LaneId × Act → Option β) (p : LaneId → Bool) (f : LaneId → β)
    (h : ∀ l, pick (l, m.act l) = if p l then some (f l) else none) : (m.acts ls).filterMap pick = (ls.filter p).map f := by
  induction ls with
  | nil => rfl
  | cons l ls ih =>
    change ((l, m.act l) :: m.acts ls).filterMap pick = _
    rw [List.filterMap_cons, h l, ih]
    cases hp : p l <;> simp [hp]

theorem leastOf_const (c : Nat) {ls : List LaneId} (h : ls ≠ []) : leastOf (ls.map (fun _ => c)) = some c := by
  have rest (ls : List LaneId) : (ls.map (fun _ => c)).foldl
      (fun m x => match m with | none => some x | some y => some (min x y)) (some c) = some c := by
    induction ls with
    | nil => rfl
    | cons l ls ih => simpa using ih
  cases ls with
  | nil => exact absurd rfl h
  | cons l ls => exact rest ls

theorem lowestCause_acts (ls : List LaneId) : lowestCause (m.acts ls) = if ls.any m.faults then some m.cause else none := by
  unfold lowestCause
  rw [filterMap_acts ls _ m.faults (fun _ => m.cause) fun l => by cases h : m.faults l <;> simp [act, h]]
  cases ha : ls.any m.faults with
  | true =>
    obtain ⟨l, hl, hf⟩ := List.any_eq_true.1 ha
    exact leastOf_const _ (List.ne_nil_of_mem (List.mem_filter.2 ⟨hl, hf⟩))
  | false =>
    have none : ls.filter m.faults = [] := List.filter_eq_nil_iff.2 fun l hl => by simpa using List.any_eq_false.1 ha l hl
    rw [none]
    rfl

theorem ofSlice_acts (s : State) (k : Nat × Nat) : ofSlice (m.acts (issuing s)) k = m.acts (lanesIn s k) := by
  unfold ofSlice acts lanesIn
  rw [List.filter_map]
  rfl

theorem mem_sliceKeys_acts {s : State} {g n : Nat} : (g, n) ∈ sliceKeys (m.acts (issuing s)) ↔ sliceIssues s g n := by
  rw [mem_sliceKeys]
  constructor
  · rintro ⟨a, ha, hk⟩
    obtain ⟨l, hl, rfl⟩ := List.mem_map.1 ha
    obtain ⟨i, rfl, hi, hn⟩ := mem_lanesIn.1 (List.mem_filter.2 ⟨hl, decide_eq_true hk⟩)
    exact ⟨i, hi, hn⟩
  · rintro ⟨i, hi, rfl⟩
    exact ⟨_, List.mem_map.2 ⟨_, hi, rfl⟩, rfl⟩

/-- The flags that a slice raises do not depend on whether a lane of it takes the cause. -/
theorem flags_acts (ls : List LaneId) :
    (m.acts ls).map (fun a => actFlags (lowestCause (m.acts ls)) a.2) = ls.map m.raises := by
  unfold acts
  rw [List.map_map]
  refine List.map_congr_left fun l hl => ?_
  change actFlags (lowestCause (m.acts ls)) (m.act l) = actFlags (some m.cause) (m.act l)
  cases hf : m.faults l with
  | true => rw [lowestCause_acts, if_pos (List.any_eq_true.2 ⟨l, hl, hf⟩)]
  | false => rw [act_of_done hf]; rfl

/-- The lanes that complete write their registers; a lane that takes a cause writes nothing. -/
theorem applyActs_acts (s0 : State) (form : Form) (plan : LaneId → List Word → Act) (active : List LaneId) (seen : List Nat)
    (ls : List LaneId) (s : State) :
    applyActs s0 (pureEntry form plan) active seen s (m.acts ls) = writeAll s (m.completing ls) m.writes := by
  induction ls generalizing seen s with
  | nil => rfl
  | cons l ls ih =>
    change applyActs s0 (pureEntry form plan) active seen s ((l, m.act l) :: m.acts ls) = _
    cases hf : m.faults l with
    | true =>
      have skip : m.completing (l :: ls) = m.completing ls := by simp [completing, hf]
      rw [act_of_fault hf, skip]
      simp only [applyActs]
      split
      · exact ih seen s
      · exact ih _ s
    | false =>
      have write : m.completing (l :: ls) = l :: m.completing ls := by simp [completing, hf]
      rw [act_of_done hf, write]
      exact ih seen _

end Mixed

end Sys2Proof.Machine
end

section
namespace Sys2Proof.Machine

/-! ### Slices settled one after another -/

/-- A slice settled: its group's flags are raised, and the slice changes. -/
def settleBy (fl : Nat × Nat → Flags) (f : Nat × Nat → Slice → Slice) (s : State) (k : Nat × Nat) : State :=
  modSlice (raiseFlags s k.1 (fl k)) k.1 k.2 (f k)

section
variable (fl : Nat × Nat → Flags) (f : Nat × Nat → Slice → Slice)

theorem group?_settleBy (s : State) (k : Nat × Nat) (g : Nat) :
    group? (settleBy fl f s k) g = if g = k.1 then (group? s g).map (fun x =>
      { x with fstat := x.fstat ||| w32 (fl k), slices := modifyNth x.slices k.2 (f k) }) else group? s g := by
  rw [settleBy, group?_modSlice]
  split
  case isTrue h =>
    rw [raiseFlags, group?_modGroup, if_pos rfl, h, Option.map_map]
    rfl
  case isFalse h => rw [raiseFlags, group?_modGroup, if_neg h]

theorem slice?_settleBy (s : State) (k : Nat × Nat) (g n : Nat) :
    slice? (settleBy fl f s k) g n = if (g, n) = k then (slice? s g n).map (f k) else slice? s g n := by
  obtain ⟨h, m⟩ := k
  have raised (g n : Nat) : slice? (raiseFlags s h (fl (h, m))) g n = slice? s g n := slice?_modGroup s h g n _ fun _ => rfl
  rw [settleBy, slice?_modSlice, raised, raised]
  simp only [Prod.mk.injEq]
  split
  case isTrue e =>
    obtain ⟨rfl, rfl⟩ := e
    rfl
  case isFalse => rfl

theorem slice?_settleBy_fold {K : List (Nat × Nat)} (hK : K.Nodup) (s : State) (g n : Nat) :
    slice? (K.foldl (settleBy fl f) s) g n = if (g, n) ∈ K then (slice? s g n).map (f (g, n)) else slice? s g n := by
  induction K generalizing s with
  | nil => simp
  | cons k K ih =>
    obtain ⟨hk, hK⟩ := List.nodup_cons.1 hK
    rw [List.foldl_cons, ih hK, slice?_settleBy]
    by_cases he : (g, n) = k
    · subst he
      simp [hk]
    · simp [he]

theorem fstat?_settleBy_fold (K : List (Nat × Nat)) (s : State) (g : Nat) (w : Word) (h : fstat? s g = some w) :
    ∃ w', fstat? (K.foldl (settleBy fl f) s) g = some w' ∧
      ∀ b, b < 32 → w'.getLsbD b = (w.getLsbD b || K.any (fun k => k.1 == g && (fl k).testBit b)) := by
  induction K generalizing s w with
  | nil => exact ⟨w, h, by simp⟩
  | cons k K ih =>
    obtain ⟨x, hx, rfl⟩ := Option.map_eq_some_iff.1 h
    by_cases he : g = k.1
    · obtain ⟨w', hw, hbits⟩ := ih (settleBy fl f s k) (x.fstat ||| w32 (fl k)) (by
        rw [fstat?, group?_settleBy, if_pos he, hx]
        rfl)
      refine ⟨w', hw, fun b hb => ?_⟩
      rw [hbits b hb, List.any_cons, BitVec.getLsbD_or, w32, BitVec.getLsbD_ofNat]
      simp [he, hb, Bool.or_assoc]
    · obtain ⟨w', hw, hbits⟩ := ih (settleBy fl f s k) x.fstat (by
        rw [fstat?, group?_settleBy, if_neg he, hx]
        rfl)
      refine ⟨w', hw, fun b hb => ?_⟩
      have other : (k.1 == g) = false := by simpa using Ne.symm he
      rw [hbits b hb, List.any_cons, other, Bool.false_and, Bool.false_or]

theorem mem_settleBy_fold (K : List (Nat × Nat)) (s : State) : (K.foldl (settleBy fl f) s).mem = s.mem := by
  induction K generalizing s with
  | nil => rfl
  | cons k K ih => exact ih _

theorem laneElem_settleBy_fold (K : List (Nat × Nat)) (s : State) (l : LaneId) {r : Nat} (hr : r < 56) :
    laneElem (K.foldl (settleBy fl f) s) l r = laneElem s l r := by
  induction K generalizing s with
  | nil => rfl
  | cons k K ih =>
    rw [List.foldl_cons, ih]
    cases l with
    | wave g i =>
      rw [laneElem_wave, laneElem_wave, if_pos hr, if_pos hr, group?_settleBy]
      split
      · rw [Option.map_map]
        rfl
      · rfl
    | grip t => rfl
    | mgmt n => rfl

end

/-! ### Room for the frames of an issue (R258) -/

theorem sum_map_le_succ {L : List Nat} (hL : L.Nodup) {f f' : Nat → Nat} (j : Nat) (hne : ∀ i, i ≠ j → f' i = f i)
    (hj : f' j ≤ f j + 1) : (L.map f').sum ≤ (L.map f).sum + 1 := by
  induction L with
  | nil => simp
  | cons i L ih =>
    obtain ⟨hi, hL⟩ := List.nodup_cons.1 hL
    rw [List.map_cons, List.sum_cons, List.map_cons, List.sum_cons]
    by_cases he : i = j
    · subst he
      have rest : L.map f' = L.map f := List.map_congr_left fun m hm => hne m (fun h => hi (h ▸ hm))
      rw [rest]
      omega
    · have := ih hL
      rw [hne i he]
      omega

/-- A slice that enters a handler adds one frame to those of its slot. -/
theorem framesUsed_modifyNth_le (x : Group) (w : Word) (j n : Nat) {f : Slice → Slice}
    (hf : ∀ y, (f y).frames.length ≤ y.frames.length + 1) :
    framesUsed { x with fstat := w, slices := modifyNth x.slices j f } n ≤ framesUsed x n + 1 := by
  unfold framesUsed
  rw [← List.sum_eq_foldl, ← List.sum_eq_foldl]
  refine sum_map_le_succ (List.nodup_range.filter _) j (fun i hi => ?_) ?_
  · simp only [modifyNth_getElem?, if_neg hi]
  · simp only [modifyNth_getElem?, if_true]
    cases x.slices[j]? with
    | none => simp
    | some y => simpa using hf y

/-- Each of some slices is there and can take cause `c` with a frame whose handler is at its group's vector `vec`, one after another. -/
def Room (u : State) (c : Nat) (vec : Nat → Addr) (K : List (Nat × Nat)) : Prop :=
  ∀ g n, (g, n) ∈ K → ∃ x y, group? u g = some x ∧ x.slices[n]? = some y ∧ (bankReg u (teamPart u x.team) 0x1E7).getLsbD c = false ∧
    tvec u (teamPart u x.team) = vec g ∧ vec g ≠ 0 ∧ framesUsed x n + K.countP (fun k => k.1 = g) ≤ 4

/-- Room for all is room for the rest once the first is settled. -/
theorem Room.rest {u : State} {c : Nat} {vec : Nat → Addr} {k : Nat × Nat} {K : List (Nat × Nat)} (h : Room u c vec (k :: K))
    (fl : Nat × Nat → Flags) {f : Nat × Nat → Slice → Slice} (hf : ∀ y, (f k y).frames.length ≤ y.frames.length + 1) :
    Room (settleBy fl f u k) c vec K := by
  intro g n hmem
  obtain ⟨x, y, hx, hy, hmask, hvec, hne, hframes⟩ := h g n (List.mem_cons_of_mem k hmem)
  rw [List.countP_cons] at hframes
  by_cases hg : g = k.1
  · have more := framesUsed_modifyNth_le x (x.fstat ||| w32 (fl k)) k.2 n hf
    have slice : ∃ y', (modifyNth x.slices k.2 (f k))[n]? = some y' := by
      rw [modifyNth_getElem?]
      split
      case isTrue e =>
        subst e
        exact ⟨f k y, by rw [hy]; rfl⟩
      case isFalse => exact ⟨y, hy⟩
    obtain ⟨y', hy'⟩ := slice
    refine ⟨{ x with fstat := x.fstat ||| w32 (fl k), slices := modifyNth x.slices k.2 (f k) }, y',
      by rw [group?_settleBy, if_pos hg, hx]; rfl, hy', hmask, hvec, hne, ?_⟩
    simp only [hg, decide_true, if_true] at hframes ⊢
    omega
  · refine ⟨x, y, by rw [group?_settleBy, if_neg hg, hx], hy, hmask, hvec, hne, ?_⟩
    simp only [Ne.symm hg, decide_false, Bool.false_eq_true, if_false] at hframes
    exact hframes

/-- A change of a slice that is as another for the slice that is there. -/
theorem modSlice_congr {s : State} {g n : Nat} {x : Group} {y : Slice} {f f' : Slice → Slice} (hx : group? s g = some x)
    (hy : x.slices[n]? = some y) (h : f y = f' y) : modSlice s g n f = modSlice s g n f' := by
  have slices : modifyNth x.slices n f = modifyNth x.slices n f' := by
    refine List.ext_getElem? fun m => ?_
    rw [modifyNth_getElem?, modifyNth_getElem?, hy, Option.map_some, Option.map_some, h]
  have hx' : tget? s.work.groups g = some x := hx
  simp only [modSlice, modGroup, tmod, hx', slices]

/-! ### The end of an issue for one slice -/

/-- The slice has entered its handler, at its instruction and with its running set (R257). -/
def Slice.entered (t : Trap) (vec : Addr) (y : Slice) : Slice :=
  { y with frames := trapFrame t (levelOf y).pc vec (levelOf y).running :: y.frames, redo := [], wait := .none, stepping := false }

/-- The slice has gone on past its instruction. -/
def Slice.passed (len : Nat) (ts : List (Nat × Option Addr)) (y : Slice) : Slice :=
  { setLevel y (placeLevel (levelOf y) len ts) with redo := [], stepping := false, skipBrk := skipAfter y }

theorem Slice.passed_frames (len : Nat) (ts : List (Nat × Option Addr)) (y : Slice) :
    (y.passed len ts).frames.length = y.frames.length := by
  change (setLevel y _).frames.length = _
  unfold setLevel
  cases y.frames <;> rfl

/-- The lanes that complete, with their targets, and those that take cause `c`, with their TADDR. -/
def completed (as : List (LaneId × Act)) : List (Nat × Option Addr) :=
  as.filterMap (fun a => match a.2 with | .done _ _ tgt => some (lidxOf a.1, tgt) | _ => none)
def faulted (c : Nat) (as : List (LaneId × Act)) : List (Nat × Nat) :=
  as.filterMap (fun a => match a.2 with | .fault c' d _ => if c' = c then some (lidxOf a.1, d) else none | _ => none)

/-- What a slice takes at an instruction that is no branch (R66). -/
def sliceTrap (s0 : State) (f : Form) (active : List LaneId) (kept : Bool) (c : Nat) (as : List (LaneId × Act)) : Trap :=
  { cause := c, tlanes := maskOf ((faulted c as).map (·.1)), tdone := maskOf ((completed as).map (·.1)), taddr := faulted c as,
    pops := slicePops s0 f active kept (as.map (·.1)) }

section
variable {s0 u : State} {e : Entry} {active : List LaneId} {kept : Bool} {g n : Nat} {as : List (LaneId × Act)}

theorem settleWaveSlice_passed (h : lowestCause as = none) : settleWaveSlice s0 u e active kept g n as =
    modSlice (raiseFlags u g ((as.map (fun a => actFlags (lowestCause as) a.2)).foldl flOr 0)) g n
      (Slice.passed e.form.len (completed as)) := by
  unfold settleWaveSlice
  rw [h]
  rfl

theorem settleWaveSlice_entered {c : Nat} {x : Group} {y : Slice} (h : lowestCause as = some c) (hb : e.branch = false)
    (hx : group? u g = some x) (hy : x.slices[n]? = some y) (hmask : (bankReg u (teamPart u x.team) 0x1E7).getLsbD c = false)
    (hvec : tvec u (teamPart u x.team) ≠ 0) (hframes : framesUsed x n < 4) : settleWaveSlice s0 u e active kept g n as =
    modSlice (raiseFlags u g ((as.map (fun a => actFlags (lowestCause as) a.2)).foldl flOr 0)) g n
      (Slice.entered (sliceTrap s0 e.form active kept c as) (tvec u (teamPart u x.team))) := by
  unfold settleWaveSlice
  simp only [h, hb, Bool.false_eq_true, if_false]
  generalize (as.map (fun a => actFlags (some c) a.2)).foldl flOr 0 = fl
  have hraised : group? (raiseFlags u g fl) g = some { x with fstat := x.fstat ||| w32 fl } := by
    rw [raiseFlags, group?_modGroup, if_pos rfl, hx]
    rfl
  simp only [hraised, Option.bind_some, hy]
  refine (takeTrap_frame n _ _ (sliceTrap s0 e.form active kept c as) hraised hmask hvec hframes).trans ?_
  exact modSlice_congr hraised hy rfl

end

namespace Mixed

variable (m : Mixed) (s : State) (form : Form)

/-- What a slice takes. -/
def trap (k : Nat × Nat) : Trap :=
  sliceTrap s form (issuing s) (groupDone (m.acts (issuing s)) k.1) m.cause (m.acts (lanesIn s k))

/-- A slice in which a lane takes the cause enters its handler, and every other goes on. -/
def settled (vec : Nat → Addr) (k : Nat × Nat) (y : Slice) : Slice :=
  if (lanesIn s k).any m.faults then y.entered (m.trap s form k) (vec k.1) else y.passed form.len (completed (m.acts (lanesIn s k)))

/-- The flags that a slice raises. -/
def raised (k : Nat × Nat) : Flags := ((lanesIn s k).map m.raises).foldl flOr 0

theorem settled_frames (vec : Nat → Addr) (k : Nat × Nat) (y : Slice) : (m.settled s form vec k y).frames.length ≤ y.frames.length + 1 := by
  unfold settled
  split
  · exact Nat.le_refl _
  · rw [Slice.passed_frames]
    exact Nat.le_succ _

variable {m s form}

theorem trap_tlanes (k : Nat × Nat) : (m.trap s form k).tlanes = issuingIn s k.1 k.2 m.faults := by
  have lanes : faulted m.cause (m.acts (lanesIn s k)) = ((lanesIn s k).filter m.faults).map (fun l => (lidxOf l, m.detail l)) :=
    filterMap_acts _ _ _ _ fun l => by cases h : m.faults l <;> simp [act, h]
  rw [issuingIn_eq]
  change maskOf ((faulted m.cause (m.acts (lanesIn s k))).map (·.1)) = _
  rw [lanes, List.map_map]
  rfl

theorem trap_tdone (k : Nat × Nat) : (m.trap s form k).tdone = issuingIn s k.1 k.2 (fun l => !m.faults l) := by
  have lanes : completed (m.acts (lanesIn s k)) = ((lanesIn s k).filter (fun l => !m.faults l)).map (fun l => (lidxOf l, none)) :=
    filterMap_acts _ _ (fun l => !m.faults l) _ fun l => by cases h : m.faults l <;> simp [act, h]
  rw [issuingIn_eq]
  change maskOf ((completed (m.acts (lanesIn s k))).map (·.1)) = _
  rw [lanes, List.map_map]
  rfl

/-- Each lane that takes the cause has its TADDR. -/
theorem trap_taddr {g i : Nat} (hi : .wave g i ∈ issuing s) (hf : m.faults (.wave g i) = true) :
    tget? (m.trap s form (g, i / 4)).taddr i = some (m.detail (.wave g i)) := by
  have lanes : (m.trap s form (g, i / 4)).taddr = ((lanesIn s (g, i / 4)).filter m.faults).map (fun l => (lidxOf l, m.detail l)) :=
    filterMap_acts _ _ _ _ fun l => by cases h : m.faults l <;> simp [act, h]
  have first (ls : List LaneId) (hw : ∀ l ∈ ls, ∃ j, l = .wave g j) (hm : .wave g i ∈ ls) :
      tget? (ls.map (fun l => (lidxOf l, m.detail l))) i = some (m.detail (.wave g i)) := by
    induction ls with
    | nil => cases hm
    | cons l ls ih =>
      obtain ⟨j, rfl⟩ := hw l List.mem_cons_self
      simp only [List.map_cons, tget?, lidxOf]
      split
      case isTrue e => rw [e]
      case isFalse e =>
        refine ih (fun l hl => hw l (List.mem_cons_of_mem _ hl)) ?_
        rcases List.mem_cons.1 hm with h | h
        · exact absurd (LaneId.wave.inj h).2.symm e
        · exact h
  rw [lanes]
  refine first _ (fun l hl => ?_) (List.mem_filter.2 ⟨mem_lanesIn.2 ⟨i, rfl, hi, rfl⟩, hf⟩)
  obtain ⟨j, rfl, -⟩ := mem_lanesIn.1 (List.mem_filter.1 hl).1
  exact ⟨j, rfl⟩

theorem settleWaveSlice_acts (plan : LaneId → List Word → Act) {u : State} {vec : Nat → Addr} {k : Nat × Nat} {K : List (Nat × Nat)}
    (hroom : Room u m.cause vec (k :: K)) :
    settleWaveSlice s u (pureEntry form plan) (issuing s) (groupDone (m.acts (issuing s)) k.1) k.1 k.2 (m.acts (lanesIn s k)) =
      settleBy (m.raised s) (m.settled s form vec) u k := by
  obtain ⟨g, n⟩ := k
  obtain ⟨x, y, hx, hy, hmask, hvec, hne, hframes⟩ := hroom g n List.mem_cons_self
  simp only [List.countP_cons, decide_true, if_true] at hframes
  have hcause := lowestCause_acts (m := m) (lanesIn s (g, n))
  unfold settleBy settled raised
  cases hany : (lanesIn s (g, n)).any m.faults with
  | true =>
    rw [hany, if_pos rfl] at hcause
    rw [settleWaveSlice_entered hcause rfl hx hy hmask (hvec ▸ hne) (by omega), flags_acts, hvec]
    simp only [if_true]
    rfl
  | false =>
    rw [hany, if_neg Bool.false_ne_true] at hcause
    rw [settleWaveSlice_passed hcause, flags_acts]
    simp only [Bool.false_eq_true, if_false]
    rfl

/-- The slices of an issue settled one after another. -/
theorem settleAll_acts (plan : LaneId → List Word → Act) {vec : Nat → Addr} (K : List (Nat × Nat)) (u : State)
    (hroom : Room u m.cause vec K) :
    K.foldl (fun u k => settleWaveSlice s u (pureEntry form plan) (issuing s) (groupDone (m.acts (issuing s)) k.1) k.1 k.2
      (m.acts (lanesIn s k))) u = K.foldl (settleBy (m.raised s) (m.settled s form vec)) u := by
  induction K generalizing u with
  | nil => rfl
  | cons k K ih =>
    rw [List.foldl_cons, List.foldl_cons, settleWaveSlice_acts plan hroom]
    exact ih _ (hroom.rest _ (settled_frames m s form vec k))

end Mixed

end Sys2Proof.Machine
end

section
namespace Sys2Proof.Machine

/-! ### The law -/

theorem issuingIn_ne_zero {s : State} (hfit : groupsFit s = true) {g n : Nat} {p : LaneId → Bool} :
    issuingIn s g n p ≠ 0 ↔ (lanesIn s (g, n)).any p = true := by
  have below : ∀ i ∈ ((lanesIn s (g, n)).filter p).map lidxOf, i < 64 := by
    intro i hi
    obtain ⟨l, hl, rfl⟩ := List.mem_map.1 hi
    exact lidx_issuing hfit (List.mem_filter.1 (List.mem_filter.1 hl).1).1
  rw [issuingIn_eq, ne_eq, maskOf_eq_zero below, List.map_eq_nil_iff, List.filter_eq_nil_iff, List.any_eq_true]
  simp

/-- The keys of a group's slices are no more than its issuing slices. -/
theorem countP_keys_le {s : State} (hfit : groupsFit s = true) (g : Nat) {K : List (Nat × Nat)} (hK : K.Nodup)
    (hissues : ∀ g n, (g, n) ∈ K → sliceIssues s g n) : K.countP (fun k => k.1 = g) ≤ slicesIssuing s g := by
  have keys (n : Nat) (h : n ∈ (K.filter (fun k => k.1 = g)).map (·.2)) : (g, n) ∈ K := by
    obtain ⟨k, hk, rfl⟩ := List.mem_map.1 h
    obtain ⟨hk, hg⟩ := List.mem_filter.1 hk
    rw [← of_decide_eq_true hg]
    exact hk
  have nodup : ((K.filter (fun k => k.1 = g)).map (·.2)).Nodup := by
    refine (hK.filter _).map_on fun a ha b hb hab => Prod.ext ?_ hab
    rw [of_decide_eq_true (List.mem_filter.1 ha).2, of_decide_eq_true (List.mem_filter.1 hb).2]
  have subset : (K.filter (fun k => k.1 = g)).map (·.2) ⊆ (List.range 16).filter (fun n => issuingIn s g n (fun _ => true) ≠ 0) := by
    intro n hn
    obtain ⟨i, hi, rfl⟩ := hissues g n (keys n hn)
    have below : i < 64 := lidx_issuing hfit hi
    have issues : issuingIn s g (i / 4) (fun _ => true) ≠ 0 :=
      (issuingIn_ne_zero hfit).2 (List.any_eq_true.2 ⟨_, mem_lanesIn.2 ⟨i, rfl, hi, rfl⟩, rfl⟩)
    exact List.mem_filter.2 ⟨List.mem_range.2 (by omega), decide_eq_true issues⟩
  rw [List.countP_eq_length_filter, ← List.length_map (f := (·.2))]
  exact (List.subperm_of_subset nodup subset).length_le

/-- The vector of a group's partition. -/
def groupVector (s : State) (g : Nat) : Addr := tvec s (groupPart s g)

theorem groupVector_eq {s : State} {g : Nat} {x : Group} (hx : group? s g = some x) : groupVector s g = tvec s (teamPart s x.team) := by
  rw [groupVector, groupPart, hx]
  rfl

theorem slice?_of_sliceIssues {s : State} {g n : Nat} (h : sliceIssues s g n) : ∃ x, slice? s g n = some x := by
  obtain ⟨i, hi, rfl⟩ := h
  rcases mem_issuing hi with ⟨_, _, g', i', x, -, he, hx, -⟩ | ⟨_, _, -, he, -⟩ | ⟨_, _, -, he, -⟩
  · cases he
    exact ⟨x, hx⟩
  · cases he
  · cases he

/-- Where every issuing slice can take a cause, there is room for all, also after the lanes that complete have written their registers. -/
theorem room_of_trapsFit {s u : State} {c : Nat} (hfit : groupsFit s = true) (hc : trapsFit s c) (hu : Stacked s u) {K : List (Nat × Nat)}
    (hK : K.Nodup) (hissues : ∀ g n, (g, n) ∈ K → sliceIssues s g n) : Room u c (groupVector s) K := by
  intro g n hmem
  have hs := hissues g n hmem
  obtain ⟨y₀, hy₀⟩ := slice?_of_sliceIssues hs
  obtain ⟨x₀, hx₀, -⟩ := Option.bind_eq_some_iff.1 hy₀
  obtain ⟨y, hy, -⟩ := hu.slice hy₀
  obtain ⟨x, hx, hxy⟩ := Option.bind_eq_some_iff.1 hy
  obtain ⟨x', hx', hplace⟩ := hu.group hx₀
  obtain rfl : x = x' := Option.some.inj (hx.symm.trans hx')
  have hteam : x.team = x₀.team := congrArg (·.1) hplace
  obtain ⟨hmask, hvec, hframes⟩ := hc g n x₀ hs hx₀
  have hcount := countP_keys_le hfit g hK hissues
  refine ⟨x, y, hx, hxy, ?_, ?_, ?_, ?_⟩
  · rw [hteam, hu.teamPart, hu.bankReg, hmask]
  · rw [hteam, hu.teamPart, hu.tvec, groupVector_eq hx₀]
  · rw [groupVector_eq hx₀]
    exact hvec
  · rw [framesUsed_of_place hplace]
    omega

namespace Mixed

variable {m : Mixed} {s : State}

theorem actsOf_eq {e : Entry} (word : Nat) (hlegal : ∀ l ∈ issuing s, legalFor s e l = true)
    (hact : ∀ l ∈ issuing s, laneAct s e (issuing s) l = m.act l) : actsOf s e word (issuing s) = m.acts (issuing s) := by
  unfold actsOf
  rw [if_pos (List.all_eq_true.2 hlegal)]
  exact List.map_congr_left fun l hl => congrArg (Prod.mk l) (hact l hl)

/-- The flags of the slices of a group are those of its lanes. -/
theorem raised_any (g b : Nat) :
    (sliceKeys (m.acts (issuing s))).any (fun k => k.1 == g && (m.raised s k).testBit b) =
      (issuing s).any (fun l => inGroup g l && (m.raises l).testBit b) := by
  rw [Bool.eq_iff_iff, List.any_eq_true, List.any_eq_true]
  constructor
  · rintro ⟨⟨h, n⟩, -, hk⟩
    obtain ⟨hg, hb⟩ := (Bool.and_eq_true _ _).mp hk
    rw [raised, foldl_flOr_testBit, Nat.zero_testBit, Bool.false_or, List.any_map, List.any_eq_true] at hb
    obtain ⟨l, hl, hb⟩ := hb
    obtain ⟨i, rfl, hi, -⟩ := mem_lanesIn.1 hl
    exact ⟨_, hi, (Bool.and_eq_true _ _).mpr ⟨hg, hb⟩⟩
  · rintro ⟨l, hl, hflag⟩
    obtain ⟨hg, hb⟩ := (Bool.and_eq_true _ _).mp hflag
    cases l with
    | grip t => cases hg
    | mgmt k => cases hg
    | wave h i =>
      refine ⟨(h, i / 4), mem_sliceKeys_acts.2 ⟨i, hl, rfl⟩, (Bool.and_eq_true _ _).mpr ⟨hg, ?_⟩⟩
      rw [raised, foldl_flOr_testBit, Nat.zero_testBit, Bool.false_or, List.any_map, List.any_eq_true]
      exact ⟨_, mem_lanesIn.2 ⟨i, rfl, hl, rfl⟩, hb⟩

/-- The state in which the slices of an issue are settled: the lanes that complete have written their registers, and
queues have moved on. -/
def written (m : Mixed) (s : State) (form : Form) : State :=
  consumePops s (writeAll s (m.completing (issuing s)) m.writes) form (m.acts (issuing s))

/-- The slices settled. -/
def settledAll (m : Mixed) (s : State) (form : Form) : State :=
  (sliceKeys (m.acts (issuing s))).foldl (settleBy (m.raised s) (m.settled s form (groupVector s))) (m.written s form)

/-- The state after the issue. -/
def ended (m : Mixed) (s : State) (form : Form) : State :=
  clearFailed (noteRetired (partFocus (m.settledAll s form)) s.focus (m.acts (issuing s))) (issuing s)

theorem focus_written (form : Form) : (m.written s form).focus = s.focus :=
  (booked_consumePops s _ form _).focus.trans (focus_writeAll _ _ _)

section
variable (hlow : ∀ l ∈ issuing s, m.faults l = false → ∀ w ∈ m.writes l, w.1 < 56)
include hlow

theorem stacked_written (form : Form) : Stacked s (m.written s form) := by
  refine (stacked_writeAll s _ _ fun l hl => ?_).trans (stacked_consumePops s _ form _)
  obtain ⟨hl, hf⟩ := List.mem_filter.1 hl
  exact hlow l hl (by simpa using hf)

theorem room_written (hfit : groupsFit s = true) (hc : trapsFit s m.cause) (form : Form) :
    Room (m.written s form) m.cause (groupVector s) (sliceKeys (m.acts (issuing s))) :=
  room_of_trapsFit hfit hc (stacked_written hlow form) (sliceKeys_nodup _) fun _ _ => mem_sliceKeys_acts.1

theorem runEntry_ended {k gang : Nat} (hfocus : s.focus = .wave k gang) (hfit : groupsFit s = true) (hne : issuing s ≠ [])
    (hc : trapsFit s m.cause) (i : Instr) {form : Form} {plan : LaneId → List Word → Act}
    (hlegal : ∀ l ∈ issuing s, legalFor s (pureEntry form plan) l = true)
    (hact : ∀ l ∈ issuing s, laneAct s (pureEntry form plan) (issuing s) l = m.act l) :
    runEntry s i (pureEntry form plan) = .next (m.ended s form) := by
  have hactive : activeLanes s s.focus = issuing s := rfl
  have hwait : (m.acts (issuing s)).any (fun a => decide (a.2 = .wait)) = false := by
    refine List.any_eq_false.2 fun a ha => ?_
    obtain ⟨l, -, rfl⟩ := List.mem_map.1 ha
    simpa using act_ne_wait l
  have hswap : (m.acts (issuing s)).any (fun a => decide (a.2 = .swap)) = false := by
    refine List.any_eq_false.2 fun a ha => ?_
    obtain ⟨l, -, rfl⟩ := List.mem_map.1 ha
    simpa using act_ne_swap l
  have hdone : applyDone s s (pureEntry form plan) (issuing s) (m.acts (issuing s)) = writeAll s (m.completing (issuing s)) m.writes :=
    applyActs_acts s form plan (issuing s) [] (issuing s) s
  have hsettle : settleAll s (m.written s form) (pureEntry form plan) (issuing s) (m.acts (issuing s)) =
      partFocus (m.settledAll s form) := by
    unfold settleAll
    rw [focus_written, hfocus]
    dsimp only
    rw [bySlice_eq, List.foldl_map]
    simp only [ofSlice_acts]
    rw [settleAll_acts plan _ _ (room_written hlow hfit hc form)]
    rfl
  unfold runEntry
  simp only [hactive, List.isEmpty_eq_false_iff.2 hne, actsOf_eq _ hlegal hact, Bool.false_eq_true, if_false, finish, hwait, hswap, hdone]
  exact congrArg (fun t => Host.Outcome.next (clearFailed (noteRetired t s.focus (m.acts (issuing s))) (issuing s))) hsettle

theorem trappedIn_ended (hfit : groupsFit s = true) (form : Form) :
    TrappedIn s (m.ended s form) m.cause m.faults m.detail m.raises := by
  have hwritten := stacked_written hlow form
  have htail := (stacked_partFocus (m.settledAll s form)).trans
    ((stacked_noteRetired _ s.focus (m.acts (issuing s))).trans (stacked_clearFailed _ (issuing s)))
  refine ⟨fun g n x y hs hne hx hy => ?_, ?_, raised_of_fstat fun g w hw => ?_⟩
  · obtain ⟨u, hu, hux⟩ := hwritten.slice hx
    obtain ⟨hprog, hframes⟩ := Prod.ext_iff.1 hux
    have hlevel := levelOf_of_stack hux
    have hsettled : slice? (m.settledAll s form) g n = some (u.entered (m.trap s form (g, n)) (groupVector s g)) := by
      unfold settledAll
      rw [slice?_settleBy_fold _ _ (sliceKeys_nodup _), if_pos (mem_sliceKeys_acts.2 hs), hu, Option.map_some, settled,
        if_pos ((issuingIn_ne_zero hfit).1 hne)]
    obtain ⟨z, hz, hzu⟩ := htail.slice hsettled
    obtain ⟨hzprog, hzframes⟩ := Prod.ext_iff.1 hzu
    have hvec : groupVector s g = tvec s (teamPart s y.team) := groupVector_eq hy
    refine ⟨z, trapFrame (m.trap s form (g, n)) (levelOf x).pc (tvec s (teamPart s y.team)) (levelOf x).running, hz, ?_,
      hzprog.trans hprog, rfl, rfl, rfl, trap_tlanes (form := form) (g, n), trap_tdone (form := form) (g, n), rfl, rfl, ?_⟩
    · refine hzframes.trans ?_
      rw [← hvec, ← hlevel]
      exact congrArg (trapFrame _ _ _ _ :: ·) hframes
    · rintro i hi rfl hf
      exact trap_taddr (form := form) hi hf
  · exact htail.mem.trans ((mem_settleBy_fold _ _ _ _).trans hwritten.mem)
  · have hbefore : fstat? (m.written s form) g = some w :=
      ((steady_consumePops s _ form _).fstat g).trans (((steady_writeAll s _ _).fstat g).trans hw)
    obtain ⟨w', hw', hbits⟩ :=
      fstat?_settleBy_fold (m.raised s) (m.settled s form (groupVector s)) (sliceKeys (m.acts (issuing s))) _ g w hbefore
    have hafter := (steady_partFocus (m.settledAll s form)).trans
      ((steady_noteRetired _ s.focus (m.acts (issuing s))).trans (steady_clearFailed _ (issuing s)))
    exact ⟨w', (hafter.fstat g).trans hw', fun b hb => (hbits b hb).trans (by rw [raised_any])⟩

end

/-- A program's registers are those that the completing lanes have written. -/
theorem laneElem_ended (form : Form) (l : LaneId) {r : Nat} (hr : r < 56) :
    laneElem (m.ended s form) l r = laneElem (writeAll s (m.completing (issuing s)) m.writes) l r := by
  have htail := (booked_partFocus (m.settledAll s form)).trans
    ((booked_noteRetired _ s.focus (m.acts (issuing s))).trans (booked_clearFailed _ (issuing s)))
  calc laneElem (m.ended s form) l r
      = laneElem (m.settledAll s form) l r := htail.laneElem l r
    _ = laneElem (m.written s form) l r := laneElem_settleBy_fold _ _ _ _ l hr
    _ = _ := (booked_consumePops s _ form _).laneElem l r

end Mixed

theorem focus_of_waves {s : State} (hne : issuing s ≠ []) (hw : ∀ l ∈ issuing s, ∃ g i, l = .wave g i) :
    ∃ k gang, s.focus = .wave k gang := by
  obtain ⟨l, hl⟩ := List.exists_mem_of_ne_nil _ hne
  obtain ⟨g, i, rfl⟩ := hw l hl
  rcases mem_issuing hl with ⟨k, gang, _, _, _, hfocus, -⟩ | ⟨_, _, -, he, -⟩ | ⟨_, _, -, he, -⟩
  · exact ⟨k, gang, hfocus⟩
  · cases he
  · cases he

/-- THE LAW OF AN ISSUE WITH MIXED OUTCOMES. When each issuing lane of a wave completes or takes one cause, and each issuing slice can take
that cause with a frame, the slices with a lane that takes it enter their handlers, and a program's registers are those that the other lanes
have written (R66). -/
theorem runEntry_mixed (m : Mixed) {s : State} (hfit : groupsFit s = true) (hne : issuing s ≠ [])
    (hw : ∀ l ∈ issuing s, ∃ g i, l = .wave g i) (hc : trapsFit s m.cause) (i : Instr) {form : Form} {plan : LaneId → List Word → Act}
    (hlegal : ∀ l ∈ issuing s, legalFor s (pureEntry form plan) l = true)
    (hact : ∀ l ∈ issuing s, laneAct s (pureEntry form plan) (issuing s) l = m.act l)
    (hlow : ∀ l ∈ issuing s, m.faults l = false → ∀ w ∈ m.writes l, w.1 < 56) :
    ∃ t, runEntry s i (pureEntry form plan) = .next t ∧ TrappedIn s t m.cause m.faults m.detail m.raises ∧
      ∀ l r, r < 56 → laneElem t l r = laneElem (writeAll s (m.completing (issuing s)) m.writes) l r := by
  obtain ⟨k, gang, hfocus⟩ := focus_of_waves hne hw
  exact ⟨m.ended s form, Mixed.runEntry_ended hlow hfocus hfit hne hc i hlegal hact, Mixed.trappedIn_ended hlow hfit form,
    fun l _ hr => Mixed.laneElem_ended form l hr⟩

theorem Mixed.raises_noFlags {m : Mixed} (h : m.flags = noFlags) : m.raises = noFlags := by
  funext l
  unfold raises
  cases hf : m.faults l with
  | true =>
    rw [act_of_fault hf, h]
    exact ite_self _
  | false =>
    rw [act_of_done hf, h]
    rfl

/-- A register that each completing lane writes, in every issuing lane. -/
theorem Mixed.laneElem_completing {m : Mixed} {s : State} (hfit : groupsFit s = true) {d : Reg} (hd : d.toNat < 56) {v : LaneId → Word}
    (hv : m.writes = one d v) {l : LaneId} (hl : l ∈ issuing s) :
    laneElem (writeAll s (m.completing (issuing s)) m.writes) l d.toNat =
      if m.faults l then laneElem s l d.toNat else .full (v l) false := by
  have issues : ∀ k ∈ m.completing (issuing s), k ∈ issuing s := fun k hk => (List.mem_filter.1 hk).1
  have below : ∀ k ∈ m.completing (issuing s), lidxOf k < 64 := fun k hk => lidx_issuing hfit (issues k hk)
  cases hf : m.faults l with
  | true =>
    refine laneElem_writeAll_ne s _ _ below (lidx_issuing hfit hl) fun h => ?_
    simpa [hf] using (List.mem_filter.1 h.1).2
  | false =>
    rw [hv]
    refine laneElem_writeAll s _ (one d v) below (fun _ _ => List.nodup_singleton _) (fun k hk w hw => ?_)
      (List.mem_filter.2 ⟨hl, by rw [hf]; rfl⟩) (List.mem_singleton_self (d.toNat, v l))
    rw [List.mem_singleton.1 hw]
    exact laneHas_of (issues k hk) fun _ _ _ => .inl hd

/-- The outcomes in which every lane takes cause `c`, without flags. -/
def Mixed.all (c : Nat) (detail : LaneId → Nat) : Mixed :=
  { cause := c, faults := fun _ => true, detail := detail, writes := fun _ => [], flags := noFlags }

/-- When every lane takes the cause, no register has changed. -/
theorem runEntry_trapped {s : State} {c : Nat} {detail : LaneId → Nat} (hfit : groupsFit s = true) (hne : issuing s ≠ [])
    (hw : ∀ l ∈ issuing s, ∃ g i, l = .wave g i) (hc : trapsFit s c) (i : Instr) {form : Form} {plan : LaneId → List Word → Act}
    (hlegal : ∀ l ∈ issuing s, legalFor s (pureEntry form plan) l = true)
    (hact : ∀ l ∈ issuing s, laneAct s (pureEntry form plan) (issuing s) l = .fault c (detail l) 0) :
    ∃ t, runEntry s i (pureEntry form plan) = .next t ∧ Trapped s t c detail := by
  obtain ⟨t, ht, hentry, hregs⟩ := runEntry_mixed (.all c detail) hfit hne hw hc i hlegal hact (fun _ _ h => by cases h)
  have hcompleting : (Mixed.all c detail).completing (issuing s) = [] := List.filter_eq_nil_iff.2 fun _ _ => Bool.false_ne_true
  refine ⟨t, ht, Mixed.raises_noFlags (m := .all c detail) rfl ▸ hentry, fun l r hr => ?_⟩
  rw [hregs l r hr, hcompleting]
  rfl

end Sys2Proof.Machine
end

section
/-! The outcome of a lane of an instruction with two register sources, by what the sources deliver (Table 16-1). -/

namespace Sys2Proof.Machine

/-! ### Sources -/

@[simp] theorem src_val (fld : Nat) (r : Reg) (e : Bool) : (src fld r e).val = r.toNat := rfl
@[simp] theorem src_e (fld : Nat) (r : Reg) (e : Bool) : (src fld r e).e = e := rfl
@[simp] theorem src_one (fld : Nat) (r : Reg) (e : Bool) : (src fld r e).one = false := rfl
@[simp] theorem srcAct_empty (n : Nat) (x : Src) : srcAct (.elem (.empty n)) x = if x.e then some (.fault 3 x.val 0) else some .wait := rfl
@[simp] theorem srcAct_full (w : Word) (q : Bool) (x : Src) : srcAct (.elem (.full w q)) x = none := rfl
@[simp] theorem srcAct_misuse (x : Src) : srcAct .misuse x = none := rfl
@[simp] theorem srcPoison_poisoned (w : Word) (x : Src) : srcPoison (.elem (.full w true)) x = some (.fault 0x10 x.val 0) := rfl
@[simp] theorem srcPoison_clean (w : Word) (x : Src) : srcPoison (.elem (.full w false)) x = none := rfl
@[simp] theorem srcPoison_misuse (x : Src) : srcPoison .misuse x = none := rfl
@[simp] theorem srcMisuse_elem (e : Elem) (x : Src) : srcMisuse (.elem e) x = none := rfl
@[simp] theorem srcMisuse_misuse (x : Src) : srcMisuse .misuse x = some (.fault 0x11 x.val 0) := rfl

/-! ### Lanes -/

section
variable {s : State} {active : List LaneId} {l : LaneId} {grip ea eb : Bool} {d a b : Reg} {plan : LaneId → List Word → Act} {ga gb : Got}

/-- Without a pair the fields of an instruction are legal on a wave. -/
theorem legalFor_regForm (g i : Nat) : legalFor s (pureEntry (regForm grip ea eb d a b) plan) (.wave g i) = true := by
  simp [legalFor, available, fieldsLegal, pureEntry, regForm]

theorem laneAct_of_oneAct {f : Form} {x : Act} (h : oneAct s f active l = some x) : laneAct s (pureEntry f plan) active l = x := by
  simp only [laneAct, pureEntry, h]

theorem laneAct_of_ownAct {f : Form} {x : Act} (hone : oneAct s f active l = none) (h : ownAct s f active l = some x) :
    laneAct s (pureEntry f plan) active l = x := by
  simp only [laneAct, pureEntry, hone, h]

theorem laneAct_of_none {f : Form} (hone : oneAct s f active l = none) (h : ownAct s f active l = none) :
    laneAct s (pureEntry f plan) active l = plan l (laneVals s f active l) := by
  simp only [laneAct, pureEntry, hone, h]

variable (ha : gather s active (regForm grip ea eb d a b).srcs l (src 0 a ea) = ga)
  (hb : gather s active (regForm grip ea eb d a b).srcs l (src 1 b eb) = gb)
include ha hb

theorem gathered_regForm : gathered s (regForm grip ea eb d a b) active l = [(ga, src 0 a ea), (gb, src 1 b eb)] := by
  subst ha hb
  rfl

/-- A wait for either source comes before every cause. -/
theorem oneAct_wait (h : srcAct ga (src 0 a ea) = some .wait ∨ srcAct gb (src 1 b eb) = some .wait) :
    oneAct s (regForm grip ea eb d a b) active l = some .wait := by
  unfold oneAct
  rw [gathered_regForm ha hb]
  rcases h with h | h
  · simp [h]
  · cases hg : srcAct ga (src 0 a ea) with
    | none => simp [hg, h]
    | some x => cases x <;> simp [hg, h]

/-- Without a wait nothing comes before a lane's own operands: no source is taken from one lane of the group. -/
theorem oneAct_none (hwa : srcAct ga (src 0 a ea) ≠ some .wait) (hwb : srcAct gb (src 1 b eb) ≠ some .wait) :
    oneAct s (regForm grip ea eb d a b) active l = none := by
  unfold oneAct
  rw [gathered_regForm ha hb]
  simp only [List.findSome?_cons, List.findSome?_nil]
  rfl

end

section
variable {s : State} {active : List LaneId} {l : LaneId} {grip ea eb : Bool} {d a b : Reg} {plan : LaneId → List Word → Act} {v w : Word}

/-- An empty source with E = 1. -/
theorem laneAct_empty {n : Nat} (ha : gather s active (regForm grip true eb d a b).srcs l (src 0 a true) = .elem (.empty n))
    (hb : gather s active (regForm grip true eb d a b).srcs l (src 1 b eb) = .elem (.full w false)) :
    laneAct s (pureEntry (regForm grip true eb d a b) plan) active l = .fault 3 a.toNat 0 :=
  laneAct_of_ownAct (oneAct_none ha hb (by simp) (by simp)) (by simp [ownAct, gathered_regForm ha hb, elemCause])

/-- A poisoned source, whatever word the other delivers. -/
theorem laneAct_poisoned {q : Bool} (ha : gather s active (regForm grip ea eb d a b).srcs l (src 0 a ea) = .elem (.full v true))
    (hb : gather s active (regForm grip ea eb d a b).srcs l (src 1 b eb) = .elem (.full w q)) :
    laneAct s (pureEntry (regForm grip ea eb d a b) plan) active l = .fault 0x10 a.toNat 0 :=
  laneAct_of_ownAct (oneAct_none ha hb (by simp) (by simp)) (by simp [ownAct, gathered_regForm ha hb, elemCause, List.findSome?_cons])

/-- A queue that holds no entry to come. -/
theorem laneAct_misuse (ha : gather s active (regForm grip ea eb d a b).srcs l (src 0 a ea) = .misuse)
    (hb : gather s active (regForm grip ea eb d a b).srcs l (src 1 b eb) = .elem (.full w false)) :
    laneAct s (pureEntry (regForm grip ea eb d a b) plan) active l = .fault 0x11 a.toNat 0 :=
  laneAct_of_ownAct (oneAct_none ha hb (by simp) (by simp)) (by simp [ownAct, gathered_regForm ha hb, elemCause, List.findSome?_cons])

variable (ha : gather s active (regForm grip ea eb d a b).srcs l (src 0 a ea) = .elem (.full v false))
  (hb : gather s active (regForm grip ea eb d a b).srcs l (src 1 b eb) = .elem (.full w false))
include ha hb

/-- A queue as the destination, outside a handler. -/
theorem laneAct_queueDestination (hd : 56 ≤ d.toNat) {g i : Nat} (hl : l = .wave g i) (hh : laneHandler s l = false) :
    laneAct s (pureEntry (regForm grip ea eb d a b) plan) active l = .fault 0x11 d.toNat 0 := by
  refine laneAct_of_ownAct (oneAct_none ha hb (by simp) (by simp)) ?_
  unfold ownAct
  rw [gathered_regForm ha hb, hl]
  rw [hl] at hh
  simp [elemCause, List.findSome?_cons, regForm, hd, hh]

/-- With both sources at hand and a register as its destination the lane completes. -/
theorem laneAct_full (hd : d.toNat < 56) :
    laneAct s (pureEntry (regForm grip ea eb d a b) plan) active l = plan l (laneVals s (regForm grip ea eb d a b) active l) := by
  refine laneAct_of_none (oneAct_none ha hb (by simp) (by simp)) ?_
  unfold ownAct
  rw [gathered_regForm ha hb]
  cases l <;> simp [elemCause, List.findSome?_cons, regForm, hd]

end

/-! ### Issues -/

/-- An issue with a lane that waits changes nothing. -/
theorem runEntry_waits {s : State} {e : Entry} (i : Instr) (hlegal : ∀ l ∈ issuing s, legalFor s e l = true) {l : LaneId}
    (hl : l ∈ issuing s) (hwait : laneAct s e (issuing s) l = .wait) : runEntry s i e = .next s := by
  have hactive : activeLanes s s.focus = issuing s := rfl
  have hacts : actsOf s e (wordOf i) (issuing s) = entryActs s e (issuing s) := if_pos (List.all_eq_true.2 hlegal)
  have hany : (entryActs s e (issuing s)).any (fun a => decide (a.2 = .wait)) = true :=
    List.any_eq_true.2 ⟨(l, .wait), List.mem_map.2 ⟨l, hl, by rw [hwait]⟩, rfl⟩
  unfold runEntry
  simp only [hactive, List.isEmpty_eq_false_iff.2 (List.ne_nil_of_mem hl), Bool.false_eq_true, if_false, hacts, finish, hany, if_true]

/-- The outcomes of d := g a b in the lanes of an issue, of which those that `p` names find source a empty. -/
def Mixed.emptySource (s : State) (eb : Bool) (d a b : Reg) (g : Word → Word → Word) (p : LaneId → Bool) : Mixed :=
  { cause := 3, faults := p, detail := fun _ => a.toNat, flags := noFlags
    writes := one d (fun l => g (operand s (regForm true true eb d a b) l 0) (operand s (regForm true true eb d a b) l 1)) }

section
variable {s : State} {ea eb : Bool} {d a b : Reg} (i : Instr) (g : Word → Word → Word)

theorem execBinary_waits (hw : ∀ l ∈ issuing s, ∃ g i, l = .wave g i) {l : LaneId} (hl : l ∈ issuing s)
    (h : oneAct s (regForm true ea eb d a b) (issuing s) l = some .wait) : execBinary i ea eb d a b g s = .next s := by
  refine runEntry_waits i (fun k hk => ?_) hl (laneAct_of_oneAct h)
  obtain ⟨g, j, rfl⟩ := hw k hk
  exact legalFor_regForm g j

variable (hfit : groupsFit s = true) (hne : issuing s ≠ []) (hw : ∀ l ∈ issuing s, ∃ g i, l = .wave g i)
include hfit hne hw

/-- Every lane takes a cause of its sources or of its destination. -/
theorem execBinary_trapped {c : Nat} {detail : LaneId → Nat} (hc : trapsFit s c)
    (hact : ∀ l ∈ issuing s, ∀ plan, laneAct s (pureEntry (regForm true ea eb d a b) plan) (issuing s) l = .fault c (detail l) 0) :
    ∃ t, execBinary i ea eb d a b g s = .next t ∧ Trapped s t c detail := by
  refine runEntry_trapped hfit hne hw hc i (fun l hl => ?_) fun l hl => hact l hl _
  obtain ⟨g, j, rfl⟩ := hw l hl
  exact legalFor_regForm g j

/-- Lanes that find source a empty with E = 1 take cause 0x03, and the others complete (R60, R66). -/
theorem execBinary_emptySource (hd : d.toNat < 56) (hc : trapsFit s 3) {p : LaneId → Bool}
    (hb : ∀ l ∈ issuing s, ∃ w, gather s (issuing s) (regForm true true eb d a b).srcs l (src 1 b eb) = .elem (.full w false))
    (hempty : ∀ l ∈ issuing s, p l = true → ∃ n, gather s (issuing s) (regForm true true eb d a b).srcs l (src 0 a true) = .elem (.empty n))
    (hfull : ∀ l ∈ issuing s, p l = false →
      ∃ w, gather s (issuing s) (regForm true true eb d a b).srcs l (src 0 a true) = .elem (.full w false)) :
    ∃ t, execBinary i true eb d a b g s = .next t ∧ TrappedIn s t 3 p (fun _ => a.toNat) noFlags ∧
      ∀ l ∈ issuing s, laneElem t l d.toNat = if p l then laneElem s l d.toNat
        else .full (g (operand s (regForm true true eb d a b) l 0) (operand s (regForm true true eb d a b) l 1)) false := by
  have hact : ∀ l ∈ issuing s, laneAct s (pureEntry (regForm true true eb d a b) fun _ vs => result d (g (val vs 0) (val vs 1)))
      (issuing s) l = (Mixed.emptySource s eb d a b g p).act l := by
    intro l hl
    obtain ⟨w, hb⟩ := hb l hl
    cases hp : p l with
    | true =>
      obtain ⟨n, ha⟩ := hempty l hl hp
      exact (laneAct_empty ha hb).trans (Mixed.act_of_fault (m := .emptySource s eb d a b g p) hp).symm
    | false =>
      obtain ⟨v, ha⟩ := hfull l hl hp
      exact (laneAct_full ha hb hd).trans (Mixed.act_of_done (m := .emptySource s eb d a b g p) hp).symm
  have hlow : ∀ l ∈ issuing s, p l = false → ∀ w ∈ (Mixed.emptySource s eb d a b g p).writes l, w.1 < 56 := by
    intro l _ _ w hw
    rw [List.mem_singleton.1 hw]
    exact hd
  obtain ⟨t, ht, hentry, hregs⟩ := runEntry_mixed (.emptySource s eb d a b g p) hfit hne hw hc i
    (fun l hl => by obtain ⟨g, j, rfl⟩ := hw l hl; exact legalFor_regForm g j) hact hlow
  exact ⟨t, ht, Mixed.raises_noFlags (m := .emptySource s eb d a b g p) rfl ▸ hentry,
    fun l hl => (hregs l _ hd).trans (Mixed.laneElem_completing (m := .emptySource s eb d a b g p) hfit hd rfl hl)⟩

end

end Sys2Proof.Machine
end

section
open Sys2Proof Sys2Proof.Machine

/-- Settles O31: what a lane's sources and destination make of the lane is Table 16-1, row by row; an issue with a waiting lane changes
nothing, and one in which lanes take a cause is the law of an issue with mixed outcomes. -/
theorem operandConditions : Obligations.OperandConditions := by
  unfold Obligations.OperandConditions
  intro ea d a b s hfit hne hwaves f got sa sb i
  refine ⟨?_, ?_, ?_, ?_, ?_⟩
  · rintro ⟨l, hl, n, hb | ⟨he, ha⟩⟩
    · exact execBinary_waits i _ hwaves hl (oneAct_wait rfl hb (.inr rfl))
    · subst he
      exact execBinary_waits i _ hwaves hl (oneAct_wait ha rfl (.inl rfl))
  · rintro rfl hd - - hc p hgot
    exact execBinary_emptySource i _ hfit hne hwaves hd hc (fun l hl => (hgot l hl).1) (fun l hl => (hgot l hl).2.1)
      fun l hl => (hgot l hl).2.2
  · intro hc hgot
    refine execBinary_trapped i _ hfit hne hwaves hc fun l hl plan => ?_
    obtain ⟨⟨v, ha⟩, w, q, hb⟩ := hgot l hl
    exact laneAct_poisoned ha hb
  · intro hc hgot
    refine execBinary_trapped i _ hfit hne hwaves hc fun l hl plan => ?_
    obtain ⟨ha, w, hb⟩ := hgot l hl
    exact laneAct_misuse ha hb
  · intro hc hd hgot
    refine execBinary_trapped i _ hfit hne hwaves hc fun l hl plan => ?_
    obtain ⟨hh, ⟨v, ha⟩, w, hb⟩ := hgot l hl
    obtain ⟨g, j, hwave⟩ := hwaves l hl
    exact laneAct_queueDestination ha hb hd hwave hh

end

section
/-! The fields of a 32-bit word, and the formats of Tables 4-1 to 4-11 as the words that have given fields: a format's encoder gives a word
exactly if the word's fields are its arguments. -/

namespace Sys2Proof

/-! ### Fields -/

theorem append_eq_append {m n : Nat} {x x' : BitVec m} {y y' : BitVec n} : x ++ y = x' ++ y' ↔ x = x' ∧ y = y' where
  mp h := ⟨by simpa only [BitVec.extractLsb'_append_eq_left] using congrArg (BitVec.extractLsb' n m) h,
    by simpa only [BitVec.extractLsb'_append_eq_right] using congrArg (BitVec.extractLsb' 0 n) h⟩
  mpr h := by rw [h.1, h.2]

theorem extractLsb'_eq_append {v : Nat} (w : BitVec v) (lo : Nat) {m n : Nat} (x : BitVec m) (y : BitVec n) :
    w.extractLsb' lo (m + n) = x ++ y ↔ w.extractLsb' (lo + n) m = x ∧ w.extractLsb' lo n = y := by
  rw [← append_eq_append, BitVec.extractLsb'_append_extractLsb'_eq_extractLsb' rfl]

theorem extractLsb'_eq_ofBool {v : Nat} (w : BitVec v) (k : Nat) (b : Bool) : w.extractLsb' k 1 = BitVec.ofBool b ↔ w.getLsbD k = b := by
  have h : w.extractLsb' k 1 = BitVec.ofBool (w.getLsbD k) := by
    refine BitVec.eq_of_getElem_eq fun i hi => ?_
    obtain rfl : i = 0 := by omega
    simp
  rw [h]
  cases w.getLsbD k <;> cases b <;> decide

theorem fld_eq_append (w : BitVec 32) (lo : Nat) {m n : Nat} (x : BitVec m) (y : BitVec n) :
    fld w lo (m + n) = x ++ y ↔ fld w (lo + n) m = x ∧ fld w lo n = y := extractLsb'_eq_append w lo x y

theorem fld_eq_ofBool (w : BitVec 32) (k : Nat) (b : Bool) : fld w k 1 = BitVec.ofBool b ↔ bitAt w k = b := extractLsb'_eq_ofBool w k b
@[simp] theorem fld_eq_zero (w : BitVec 32) (k : Nat) : fld w k 1 = 0#1 ↔ bitAt w k = false := fld_eq_ofBool w k false
@[simp] theorem fld_eq_one (w : BitVec 32) (k : Nat) : fld w k 1 = 1#1 ↔ bitAt w k = true := fld_eq_ofBool w k true

theorem fld_eq_of_toNat {w : BitVec 32} {lo n k : Nat} (h : (fld w lo n).toNat = k) : fld w lo n = BitVec.ofNat n k := by
  rw [← h, BitVec.ofNat_toNat, BitVec.setWidth_eq]

@[simp] theorem fD_eq (w : BitVec 32) : fD w = fld w 7 6 := rfl
@[simp] theorem fA_eq (w : BitVec 32) : fA w = fld w 13 6 := rfl
@[simp] theorem fB_eq (w : BitVec 32) : fB w = fld w 19 6 := rfl
@[simp] theorem fC_eq (w : BitVec 32) : fC w = fld w 25 5 := rfl
@[simp] theorem fM5_eq (w : BitVec 32) : fM5 w = fld w 27 5 := rfl
@[simp] theorem fM2_eq (w : BitVec 32) : fM2 w = fld w 30 2 := rfl
@[simp] theorem fImm9_eq (w : BitVec 32) : fImm9 w = fld w 23 9 := rfl
@[simp] theorem fF3_eq (w : BitVec 32) : fF3 w = fld w 20 3 := rfl
@[simp] theorem fImm16_eq (w : BitVec 32) : fImm16 w = fld w 16 16 := rfl
@[simp] theorem fWF3_eq (w : BitVec 32) : fWF3 w = fld w 13 3 := rfl

theorem word_eq_iff (w x : BitVec 32) : some (Code.word x) = some (Code.word w) ↔ fld w 0 32 = x := by
  rw [Option.some_inj, Code.word.injEq, eq_comm, fld, BitVec.extractLsb'_eq_self]

/-! ### Formats -/

section
variable (w : BitVec 32) (maj d a b : BitVec 6) (ea : Bool)

theorem encR3_eq_some (m5 : BitVec 5) (eb : Bool) : encR3 maj m5 ea eb d a b = some (.word w) ↔
    fld w 27 5 = m5 ∧ bitAt w 26 = eb ∧ bitAt w 25 = ea ∧ fld w 19 6 = b ∧ fld w 13 6 = a ∧ fld w 7 6 = d ∧ fld w 1 6 = maj ∧
      bitAt w 0 = true := by
  refine (word_eq_iff w _).trans ?_
  change fld w 0 (5 + 1 + 1 + 6 + 6 + 6 + 6 + 1) = _ ++ BitVec.ofBool true ↔ _
  simp only [fld_eq_append, fld_eq_ofBool, and_assoc]

theorem encR4_eq_some (m2 : BitVec 2) (c : Reg5) : encR4 maj m2 d a b c = some (.word w) ↔
    fld w 30 2 = m2 ∧ fld w 25 5 = c ∧ fld w 19 6 = b ∧ fld w 13 6 = a ∧ fld w 7 6 = d ∧ fld w 1 6 = maj ∧ bitAt w 0 = true := by
  refine (word_eq_iff w _).trans ?_
  change fld w 0 (2 + 5 + 6 + 6 + 6 + 6 + 1) = _ ++ BitVec.ofBool true ↔ _
  simp only [fld_eq_append, fld_eq_ofBool, and_assoc]

theorem encI_eq_some (f3 : BitVec 3) (imm : BitVec 9) : encI maj f3 ea d a imm = some (.word w) ↔
    fld w 23 9 = imm ∧ fld w 20 3 = f3 ∧ bitAt w 19 = ea ∧ fld w 13 6 = a ∧ fld w 7 6 = d ∧ fld w 1 6 = maj ∧ bitAt w 0 = true := by
  refine (word_eq_iff w _).trans ?_
  change fld w 0 (9 + 3 + 1 + 6 + 6 + 6 + 1) = _ ++ BitVec.ofBool true ↔ _
  simp only [fld_eq_append, fld_eq_ofBool, and_assoc]

theorem encW_eq_some (f3 : BitVec 3) (imm : BitVec 16) : encW maj f3 d imm = some (.word w) ↔
    fld w 16 16 = imm ∧ fld w 13 3 = f3 ∧ fld w 7 6 = d ∧ fld w 1 6 = maj ∧ bitAt w 0 = true := by
  refine (word_eq_iff w _).trans ?_
  change fld w 0 (16 + 3 + 6 + 6 + 1) = _ ++ BitVec.ofBool true ↔ _
  simp only [fld_eq_append, fld_eq_ofBool, and_assoc]

theorem encB_eq_some (off : BitVec 18) : encB maj ea a off = some (.word w) ↔
    fld w 14 18 = off ∧ bitAt w 13 = ea ∧ fld w 7 6 = a ∧ fld w 1 6 = maj ∧ bitAt w 0 = true := by
  refine (word_eq_iff w _).trans ?_
  change fld w 0 (18 + 1 + 6 + 6 + 1) = _ ++ BitVec.ofBool true ↔ _
  simp only [fld_eq_append, fld_eq_ofBool, and_assoc]

theorem encJ_eq_some (off : BitVec 25) : encJ maj off = some (.word w) ↔ fld w 7 25 = off ∧ fld w 1 6 = maj ∧ bitAt w 0 = true := by
  refine (word_eq_iff w _).trans ?_
  change fld w 0 (25 + 6 + 1) = _ ++ BitVec.ofBool true ↔ _
  simp only [fld_eq_append, fld_eq_ofBool, and_assoc]

theorem encM_eq_some (off : BitVec 6) (order scope size : BitVec 2) : encM maj off order scope size ea d a = some (.word w) ↔
    fld w 26 6 = off ∧ fld w 24 2 = order ∧ fld w 22 2 = scope ∧ fld w 20 2 = size ∧ bitAt w 19 = ea ∧ fld w 13 6 = a ∧
      fld w 7 6 = d ∧ fld w 1 6 = maj ∧ bitAt w 0 = true := by
  refine (word_eq_iff w _).trans ?_
  change fld w 0 (6 + 2 + 2 + 2 + 1 + 6 + 6 + 6 + 1) = _ ++ BitVec.ofBool true ↔ _
  simp only [fld_eq_append, fld_eq_ofBool, and_assoc]

theorem encA_eq_some (ar : Bool) (scope : BitVec 2) (op : BitVec 4) : encA maj ar scope op d a b = some (.word w) ↔
    bitAt w 31 = ar ∧ fld w 29 2 = scope ∧ fld w 25 4 = op ∧ fld w 19 6 = b ∧ fld w 13 6 = a ∧ fld w 7 6 = d ∧ fld w 1 6 = maj ∧
      bitAt w 0 = true := by
  refine (word_eq_iff w _).trans ?_
  change fld w 0 (1 + 2 + 4 + 6 + 6 + 6 + 6 + 1) = _ ++ BitVec.ofBool true ↔ _
  simp only [fld_eq_append, fld_eq_ofBool, and_assoc]

theorem encX_eq_some (k : BitVec 5) (m : XMode) : encX maj k m d a b = some (.word w) ↔
    fld w 27 5 = k ∧ fld w 25 2 = m.code ∧ fld w 19 6 = b ∧ fld w 13 6 = a ∧ fld w 7 6 = d ∧ fld w 1 6 = maj ∧ bitAt w 0 = true := by
  refine (word_eq_iff w _).trans ?_
  change fld w 0 (5 + 2 + 6 + 6 + 6 + 6 + 1) = _ ++ BitVec.ofBool true ↔ _
  simp only [fld_eq_append, fld_eq_ofBool, and_assoc]

end

/-! ### Fields in parts -/

section
variable (w : BitVec 32) (p q r : Bool)

@[simp] theorem fld27_eq_bits_rnd (c : BitVec 2) : fld w 27 5 = BitVec.ofBool p ++ BitVec.ofBool q ++ BitVec.ofBool r ++ c ↔
    bitAt w 31 = p ∧ bitAt w 30 = q ∧ bitAt w 29 = r ∧ fld w 27 2 = c := by
  change fld w 27 (1 + 1 + 1 + 2) = _ ↔ _
  simp only [fld_eq_append, fld_eq_ofBool, and_assoc]

@[simp] theorem fld27_eq_minMax (x : BitVec 3) (y : BitVec 1) : fld w 27 5 = x ++ BitVec.ofBool p ++ y ↔
    fld w 29 3 = x ∧ bitAt w 28 = p ∧ fld w 27 1 = y := by
  change fld w 27 (3 + 1 + 1) = _ ↔ _
  simp only [fld_eq_append, fld_eq_ofBool, and_assoc]

@[simp] theorem fld27_eq_el_rnd (x : BitVec 3) (c : BitVec 2) : fld w 27 5 = x ++ c ↔ fld w 29 3 = x ∧ fld w 27 2 = c := by
  change fld w 27 (3 + 2) = _ ↔ _
  simp only [fld_eq_append]

@[simp] theorem fld27_eq_sat_rnd (x c : BitVec 2) : fld w 27 5 = BitVec.ofBool p ++ x ++ c ↔
    bitAt w 31 = p ∧ fld w 29 2 = x ∧ fld w 27 2 = c := by
  change fld w 27 (1 + 2 + 2) = _ ↔ _
  simp only [fld_eq_append, fld_eq_ofBool, and_assoc]

@[simp] theorem fld27_eq_scan_op (c : BitVec 4) : fld w 27 5 = BitVec.ofBool p ++ c ↔ bitAt w 31 = p ∧ fld w 27 4 = c := by
  change fld w 27 (1 + 4) = _ ↔ _
  simp only [fld_eq_append, fld_eq_ofBool]

@[simp] theorem fld27_eq_queue (x : BitVec 2) (y : BitVec 3) : fld w 27 5 = x ++ y ↔ fld w 30 2 = x ∧ fld w 27 3 = y := by
  change fld w 27 (2 + 3) = _ ↔ _
  simp only [fld_eq_append]

@[simp] theorem fld27_eq_mma (x : BitVec 2) : fld w 27 5 = x ++ BitVec.ofBool p ++ BitVec.ofBool q ++ BitVec.ofBool r ↔
    fld w 30 2 = x ∧ bitAt w 29 = p ∧ bitAt w 28 = q ∧ bitAt w 27 = r := by
  change fld w 27 (2 + 1 + 1 + 1) = _ ↔ _
  simp only [fld_eq_append, fld_eq_ofBool, and_assoc]

@[simp] theorem fld30_eq_bit (x : BitVec 1) : fld w 30 2 = x ++ BitVec.ofBool p ↔ fld w 31 1 = x ∧ bitAt w 30 = p := by
  change fld w 30 (1 + 1) = _ ↔ _
  simp only [fld_eq_append, fld_eq_ofBool]

@[simp] theorem fld29_eq_bit (x : BitVec 1) : fld w 29 2 = x ++ BitVec.ofBool p ↔ fld w 30 1 = x ∧ bitAt w 29 = p := by
  change fld w 29 (1 + 1) = _ ↔ _
  simp only [fld_eq_append, fld_eq_ofBool]

@[simp] theorem fld24_eq_acquire (x : BitVec 1) : fld w 24 2 = x ++ BitVec.ofBool p ↔ fld w 25 1 = x ∧ bitAt w 24 = p := by
  change fld w 24 (1 + 1) = _ ↔ _
  simp only [fld_eq_append, fld_eq_ofBool]

@[simp] theorem fld24_eq_release (y : BitVec 1) : fld w 24 2 = BitVec.ofBool p ++ y ↔ bitAt w 25 = p ∧ fld w 24 1 = y := by
  change fld w 24 (1 + 1) = _ ↔ _
  simp only [fld_eq_append, fld_eq_ofBool]

@[simp] theorem fld22_eq_bit (x : BitVec 1) : fld w 22 2 = x ++ BitVec.ofBool p ↔ fld w 23 1 = x ∧ bitAt w 22 = p := by
  change fld w 22 (1 + 1) = _ ↔ _
  simp only [fld_eq_append, fld_eq_ofBool]

@[simp] theorem fld19_eq_bit (x : BitVec 5) : fld w 19 6 = x ++ BitVec.ofBool p ↔ fld w 20 5 = x ∧ bitAt w 19 = p := by
  change fld w 19 (5 + 1) = _ ↔ _
  simp only [fld_eq_append, fld_eq_ofBool]

@[simp] theorem fld19_eq_attr (x : BitVec 2) (n : BitVec 4) : fld w 19 6 = x ++ n ↔ fld w 23 2 = x ∧ fld w 19 4 = n := by
  change fld w 19 (2 + 4) = _ ↔ _
  simp only [fld_eq_append]

@[simp] theorem fld16_eq_bit (x : BitVec 15) : fld w 16 16 = x ++ BitVec.ofBool p ↔ fld w 17 15 = x ∧ bitAt w 16 = p := by
  change fld w 16 (15 + 1) = _ ↔ _
  simp only [fld_eq_append, fld_eq_ofBool]

@[simp] theorem fld16_eq_bar (x : BitVec 14) (y : BitVec 2) : fld w 16 16 = x ++ y ↔ fld w 18 14 = x ∧ fld w 16 2 = y := by
  change fld w 16 (14 + 2) = _ ↔ _
  simp only [fld_eq_append]

@[simp] theorem fld16_eq_mask (x : BitVec 8) (y : BitVec 8) : fld w 16 16 = x ++ y ↔ fld w 24 8 = x ∧ fld w 16 8 = y := by
  change fld w 16 (8 + 8) = _ ↔ _
  simp only [fld_eq_append]

@[simp] theorem fld23_eq_shift (x : BitVec 4) (y : BitVec 5) : fld w 23 9 = x ++ y ↔ fld w 28 4 = x ∧ fld w 23 5 = y := by
  change fld w 23 (4 + 5) = _ ↔ _
  simp only [fld_eq_append]

@[simp] theorem fld23_eq_bit (x : BitVec 8) : fld w 23 9 = x ++ BitVec.ofBool p ↔ fld w 24 8 = x ∧ bitAt w 23 = p := by
  change fld w 23 (8 + 1) = _ ↔ _
  simp only [fld_eq_append, fld_eq_ofBool]

@[simp] theorem fld13_eq_fence (c : BitVec 2) : fld w 13 3 = BitVec.ofBool p ++ c ↔ bitAt w 15 = p ∧ fld w 13 2 = c := by
  change fld w 13 (1 + 2) = _ ↔ _
  simp only [fld_eq_append, fld_eq_ofBool]

end

/-! ### Codes of named values -/

@[simp] theorem Rnd.ofCode_code (r : Rnd) : Rnd.ofCode r.code = r := by cases r <;> rfl
@[simp] theorem Rnd.code_ofCode (c : BitVec 2) : (Rnd.ofCode c).code = c := by revert c; decide
@[simp] theorem Scope.ofCode_code (r : Scope) : Scope.ofCode r.code = r := by cases r <;> rfl
@[simp] theorem Scope.code_ofCode (c : BitVec 2) : (Scope.ofCode c).code = c := by revert c; decide
@[simp] theorem Size.ofCode_code (r : Size) : Size.ofCode r.code = r := by cases r <;> rfl
@[simp] theorem Size.code_ofCode (c : BitVec 2) : (Size.ofCode c).code = c := by revert c; decide
@[simp] theorem XMode.ofCode_code (r : XMode) : XMode.ofCode r.code = r := by cases r <;> rfl
@[simp] theorem XMode.code_ofCode (c : BitVec 2) : (XMode.ofCode c).code = c := by revert c; decide
@[simp] theorem DotKind.ofCode_code (r : DotKind) : DotKind.ofCode r.code = r := by cases r <;> rfl
@[simp] theorem DotKind.code_ofCode (c : BitVec 2) : (DotKind.ofCode c).code = c := by revert c; decide

@[simp] theorem ICond.ofCode_eq_some (c : BitVec 5) (k : ICond) : ICond.ofCode c = some k ↔ c = k.code := by
  cases k <;> revert c <;> decide
@[simp] theorem FCond.ofCode_eq_some (c : BitVec 5) (k : FCond) : FCond.ofCode c = some k ↔ c = k.code := by
  cases k <;> revert c <;> decide
@[simp] theorem Cvt.ofCode_eq_some (c : BitVec 6) (k : Cvt) : Cvt.ofCode c = some k ↔ c = k.code := by
  cases k <;> revert c <;> decide
@[simp] theorem VoteKind.ofCode_eq_some (c : BitVec 5) (k : VoteKind) : VoteKind.ofCode c = some k ↔ c = k.code := by
  cases k <;> revert c <;> decide
@[simp] theorem RedOp.ofCode_eq_some (c : BitVec 4) (k : RedOp) : RedOp.ofCode c = some k ↔ c = k.code := by
  cases k <;> revert c <;> decide
@[simp] theorem AtomOp.ofCode_eq_some (c : BitVec 4) (k : AtomOp) : AtomOp.ofCode c = some k ↔ c = k.code := by
  cases k <;> revert c <;> decide
@[simp] theorem AttrKind.ofCode_eq_some (c : BitVec 6) (k : AttrKind) : AttrKind.ofCode c = some k ↔ c = k.code := by
  cases k <;> revert c <;> decide
@[simp] theorem PackFmt.ofCode_eq_some (c : BitVec 5) (k : PackFmt) : PackFmt.ofCode c = some k ↔ c = k.code := by
  cases k <;> revert c <;> decide

/-! ### The 16-bit format -/

theorem enc16_eq_some (w : BitVec 16) (op : BitVec 4) (k : Bool) (d s : Reg5) : enc16 op k d s = some (.half w) ↔
    w.getLsbD 15 = k ∧ w.extractLsb' 10 5 = s ∧ w.extractLsb' 5 5 = d ∧ w.extractLsb' 1 4 = op ∧ w.getLsbD 0 = false := by
  have hw (x : BitVec 16) : some (Code.half x) = some (Code.half w) ↔ w.extractLsb' 0 16 = x := by
    rw [Option.some_inj, Code.half.injEq, eq_comm, BitVec.extractLsb'_eq_self]
  refine (hw _).trans ?_
  change w.extractLsb' 0 (1 + 5 + 5 + 4 + 1) = _ ++ BitVec.ofBool false ↔ _
  simp only [extractLsb'_eq_append, extractLsb'_eq_ofBool, and_assoc]

/-! ### Checked decodes -/

@[simp] theorem checked_eq_ok (z : Bool) (i j : Instr) : checked z i = .ok j ↔ z = true ∧ i.wellFormed = true ∧ i = j := by
  unfold checked
  split <;> simp_all

@[simp] theorem selected_eq_ok {α : Type} (x : Option α) (f : α → Except DecodeError Instr) (i : Instr) :
    selected x f = .ok i ↔ ∃ y, x = some y ∧ f y = .ok i := by
  cases x <;> simp [selected]

end Sys2Proof
end

section
/-! What a byte sequence decodes to, by the word at its head (R4, R77). -/

namespace Sys2Proof

/-! ### The word at the head of a byte sequence -/

/-- Bit 0 of a word says how long it is (R77). -/
def Code.marked : Code → Bool
  | .half w => !w.getLsbD 0
  | .word w => w.getLsbD 0

theorem eq_append {m n : Nat} (w : BitVec (m + n)) (x : BitVec m) (y : BitVec n) :
    w = x ++ y ↔ w.extractLsb' n m = x ∧ w.extractLsb' 0 n = y := by
  have h := extractLsb'_eq_append w 0 x y
  rwa [BitVec.extractLsb'_eq_self, Nat.zero_add] at h

theorem getLsbD_zero_append {m : Nat} (x : BitVec m) (b : Byte) : (x ++ b).getLsbD 0 = b.getLsbD 0 := by
  rw [BitVec.getLsbD_append, if_pos (by decide)]

theorem half_eq_bytes (w : BitVec 16) : w = w.extractLsb' 8 8 ++ w.extractLsb' 0 8 :=
  (eq_append (m := 8) (n := 8) w _ _).2 ⟨rfl, rfl⟩

theorem word_eq_bytes (w : BitVec 32) :
    w = w.extractLsb' 24 8 ++ w.extractLsb' 16 8 ++ w.extractLsb' 8 8 ++ w.extractLsb' 0 8 := by
  have h : w.extractLsb' 0 (8 + 8 + 8 + 8) = w.extractLsb' 24 8 ++ w.extractLsb' 16 8 ++ w.extractLsb' 8 8 ++ w.extractLsb' 0 8 := by
    rw [extractLsb'_eq_append, extractLsb'_eq_append, extractLsb'_eq_append]
    exact ⟨⟨⟨rfl, rfl⟩, rfl⟩, rfl⟩
  exact BitVec.extractLsb'_eq_self.symm.trans h

theorem bytes_half (b0 b1 : Byte) : (Code.half (b1 ++ b0)).bytes = [b0, b1] := by
  obtain ⟨h1, h0⟩ := (eq_append (b1 ++ b0) b1 b0).1 rfl
  simp only [Code.bytes]
  rw [h0, h1]

theorem bytes_word (b0 b1 b2 b3 : Byte) : (Code.word (b3 ++ b2 ++ b1 ++ b0)).bytes = [b0, b1, b2, b3] := by
  have h : (b3 ++ b2 ++ b1 ++ b0).extractLsb' 0 (8 + 8 + 8 + 8) = b3 ++ b2 ++ b1 ++ b0 := BitVec.extractLsb'_eq_self
  simp only [extractLsb'_eq_append] at h
  obtain ⟨⟨⟨h3, h2⟩, h1⟩, h0⟩ := h
  simp only [Code.bytes]
  rw [h0, h1, h2, h3]

theorem splitCode_eq_some (bs rest : List Byte) (c : Code) :
    splitCode bs = some (c, rest) ↔ c.marked = true ∧ bs = c.bytes ++ rest := by
  constructor
  · intro h
    unfold splitCode at h
    split at h
    · split at h
      · split at h
        · next hb _ _ _ _ =>
          cases h
          exact ⟨(getLsbD_zero_append _ _).trans hb, by rw [bytes_word]; rfl⟩
        · cases h
      · next hb =>
        cases h
        exact ⟨congrArg Bool.not ((getLsbD_zero_append _ _).trans (Bool.eq_false_iff.2 hb)), by rw [bytes_half]; rfl⟩
    · cases h
  · rintro ⟨hc, rfl⟩
    cases c with
    | half w => simp_all [Code.marked, Code.bytes, splitCode, ← half_eq_bytes]
    | word w => simp_all [Code.marked, Code.bytes, splitCode, ← word_eq_bytes]

theorem decode_eq_ok (bs rest : List Byte) (i : Instr) :
    decode bs = .ok (i, rest) ↔ ∃ c, c.marked = true ∧ bs = c.bytes ++ rest ∧ decodeCode c = .ok i := by
  unfold decode
  constructor
  · intro h
    split at h
    · cases h
    · next c rest' hs =>
      split at h
      · next j hj =>
        cases h
        obtain ⟨hc, hb⟩ := (splitCode_eq_some _ _ _).1 hs
        exact ⟨c, hc, hb, hj⟩
      · cases h
  · rintro ⟨c, hc, hb, hi⟩
    rw [(splitCode_eq_some _ _ _).2 ⟨hc, hb⟩]
    simp only [hi]

end Sys2Proof
end

section
/-! The 32-bit decoder by its major opcode (Table 4-14): one equation for each major, and for each instruction of a major that has no
decoder of its own. -/

namespace Sys2Proof

section
variable {w : BitVec 32}

@[simp] theorem decode32_eq_decode01 (h : fld w 1 6 = 0x01#6) : decode32 w = decode01 w := by rw [decode32, h]; rfl
@[simp] theorem decode32_eq_decode02 (h : fld w 1 6 = 0x02#6) : decode32 w = decode02 w := by rw [decode32, h]; rfl
@[simp] theorem decode32_eq_decode03 (h : fld w 1 6 = 0x03#6) : decode32 w = decode03 w := by rw [decode32, h]; rfl
@[simp] theorem decode32_imad (h : fld w 1 6 = 0x04#6) : decode32 w = checked (fM2 w == 0#2) (.imad (fD w) (fA w) (fB w) (fC w)) := by
  rw [decode32, h]; rfl
@[simp] theorem decode32_imadwUint (h : fld w 1 6 = 0x05#6) (hm : fld w 30 2 = 0#2) : decode32 w =
    checked true (.imadwUint (fD w) (fA w) (fB w) (fC w)) := by rw [decode32, h, fM2, hm]; rfl
@[simp] theorem decode32_imadwInt (h : fld w 1 6 = 0x05#6) (hm : fld w 30 2 = 1#2) : decode32 w =
    checked true (.imadwInt (fD w) (fA w) (fB w) (fC w)) := by rw [decode32, h, fM2, hm]; rfl
@[simp] theorem decode32_iaddw (h : fld w 1 6 = 0x06#6) (hm : fld w 27 5 = 0#5) : decode32 w =
    checked true (.iaddw (bitAt w 25) (bitAt w 26) (fD w) (fA w) (fB w)) := by rw [decode32, h, fM5, hm]; rfl
@[simp] theorem decode32_isubw (h : fld w 1 6 = 0x06#6) (hm : fld w 27 5 = 1#5) : decode32 w =
    checked true (.isubw (bitAt w 25) (bitAt w 26) (fD w) (fA w) (fB w)) := by rw [decode32, h, fM5, hm]; rfl
@[simp] theorem decode32_shlw (h : fld w 1 6 = 0x06#6) (hm : fld w 27 5 = 2#5) : decode32 w =
    checked true (.shlw (bitAt w 25) (bitAt w 26) (fD w) (fA w) (fB w)) := by rw [decode32, h, fM5, hm]; rfl
@[simp] theorem decode32_icmp (h : fld w 1 6 = 0x07#6) : decode32 w =
    selected (ICond.ofCode (fM5 w)) fun k => .ok (.icmp k (bitAt w 25) (bitAt w 26) (fD w) (fA w) (fB w)) := by rw [decode32, h]; rfl
@[simp] theorem decode32_sel (h : fld w 1 6 = 0x08#6) : decode32 w = checked (fM2 w == 0#2) (.sel (fD w) (fA w) (fB w) (fC w)) := by
  rw [decode32, h]; rfl
@[simp] theorem decode32_bfe (h : fld w 1 6 = 0x09#6) (hm : fld w 30 2 = 0#2) : decode32 w =
    checked (fld w 19 6 == 0#6) (.bfe (fD w) (fA w) (fC w)) := by rw [decode32, h, fM2, hm]; rfl
@[simp] theorem decode32_bfeu (h : fld w 1 6 = 0x09#6) (hm : fld w 30 2 = 1#2) : decode32 w =
    checked (fld w 19 6 == 0#6) (.bfeu (fD w) (fA w) (fC w)) := by rw [decode32, h, fM2, hm]; rfl
@[simp] theorem decode32_bfi (h : fld w 1 6 = 0x09#6) (hm : fld w 30 2 = 2#2) : decode32 w = .ok (.bfi (fD w) (fA w) (fB w) (fC w)) := by
  rw [decode32, h, fM2, hm]; rfl
@[simp] theorem decode32_bperm (h : fld w 1 6 = 0x09#6) (hm : fld w 30 2 = 3#2) : decode32 w =
    .ok (.bperm (fD w) (fA w) (fB w) (fC w)) := by rw [decode32, h, fM2, hm]; rfl
@[simp] theorem decode32_movi (h : fld w 1 6 = 0x0A#6) (hm : fld w 13 3 = 0#3) : decode32 w = .ok (.movi (fD w) (fImm16 w)) := by
  rw [decode32, h, fWF3, hm]; rfl
@[simp] theorem decode32_movhi (h : fld w 1 6 = 0x0A#6) (hm : fld w 13 3 = 1#3) : decode32 w = .ok (.movhi (fD w) (fImm16 w)) := by
  rw [decode32, h, fWF3, hm]; rfl
@[simp] theorem decode32_fadd (h : fld w 1 6 = 0x0B#6) : decode32 w =
    .ok (.fadd (bitAt w 31) (bitAt w 30) (bitAt w 29) (Rnd.ofCode (fld w 27 2)) (bitAt w 25) (bitAt w 26) (fD w) (fA w) (fB w)) := by
  rw [decode32, h]; rfl
@[simp] theorem decode32_fmul (h : fld w 1 6 = 0x0C#6) : decode32 w =
    .ok (.fmul (bitAt w 31) (bitAt w 30) (bitAt w 29) (Rnd.ofCode (fld w 27 2)) (bitAt w 25) (bitAt w 26) (fD w) (fA w) (fB w)) := by
  rw [decode32, h]; rfl
@[simp] theorem decode32_fmax (h : fld w 1 6 = 0x0D#6) (hz : fld w 29 3 = 0#3) (hb : bitAt w 27 = true) : decode32 w =
    .ok (.fmax (bitAt w 28) (bitAt w 25) (bitAt w 26) (fD w) (fA w) (fB w)) := by rw [decode32, h, hz, hb]; rfl
@[simp] theorem decode32_fmin (h : fld w 1 6 = 0x0D#6) (hz : fld w 29 3 = 0#3) (hb : bitAt w 27 = false) : decode32 w =
    .ok (.fmin (bitAt w 28) (bitAt w 25) (bitAt w 26) (fD w) (fA w) (fB w)) := by rw [decode32, h, hz, hb]; rfl
@[simp] theorem decode32_ffma (h : fld w 1 6 = 0x0E#6) : decode32 w = .ok (.ffma (Rnd.ofCode (fM2 w)) (fD w) (fA w) (fB w) (fC w)) := by
  rw [decode32, h]; rfl
@[simp] theorem decode32_fcmp (h : fld w 1 6 = 0x0F#6) : decode32 w =
    selected (FCond.ofCode (fM5 w)) fun k => .ok (.fcmp k (bitAt w 25) (bitAt w 26) (fD w) (fA w) (fB w)) := by rw [decode32, h]; rfl
@[simp] theorem decode32_eq_decode10 (h : fld w 1 6 = 0x10#6) : decode32 w = decode10 w := by rw [decode32, h]; rfl
@[simp] theorem decode32_frnd (h : fld w 1 6 = 0x11#6) : decode32 w =
    checked (fld w 19 6 == 0#6 && !bitAt w 26 && fld w 29 3 == 0#3) (.frnd (Rnd.ofCode (fld w 27 2)) (bitAt w 25) (fD w) (fA w)) := by
  rw [decode32, h]; rfl
@[simp] theorem decode32_fcvt (h : fld w 1 6 = 0x12#6) : decode32 w =
    selected (Cvt.ofCode (fB w)) fun k =>
      checked (!bitAt w 26) (.fcvt k (fld w 29 3) (Rnd.ofCode (fld w 27 2)) (bitAt w 25) (fD w) (fA w)) := by
  rw [decode32, h]; rfl
@[simp] theorem decode32_eq_decode13 (h : fld w 1 6 = 0x13#6) : decode32 w = decode13 w := by rw [decode32, h]; rfl
@[simp] theorem decode32_hpfma (h : fld w 1 6 = 0x14#6) : decode32 w = .ok (.hpfma (Rnd.ofCode (fM2 w)) (fD w) (fA w) (fB w) (fC w)) := by
  rw [decode32, h]; rfl
@[simp] theorem decode32_bpfma (h : fld w 1 6 = 0x15#6) : decode32 w = .ok (.bpfma (Rnd.ofCode (fM2 w)) (fD w) (fA w) (fB w) (fC w)) := by
  rw [decode32, h]; rfl
@[simp] theorem decode32_fdot (h : fld w 1 6 = 0x16#6) : decode32 w = .ok (.fdot (DotKind.ofCode (fM2 w)) (fD w) (fA w) (fB w) (fC w)) := by
  rw [decode32, h]; rfl
@[simp] theorem decode32_sobol (h : fld w 1 6 = 0x17#6) : decode32 w =
    checked (!bitAt w 31) (.sobol (bitAt w 30) (fD w) (fA w) (fB w) (fC w)) := by rw [decode32, h]; rfl
@[simp] theorem decode32_xmov (h : fld w 1 6 = 0x18#6) : decode32 w =
    checked (fld w 19 6 == 0#6) (.xmov (XMode.ofCode (fld w 25 2)) (fM5 w) (fD w) (fA w)) := by rw [decode32, h]; rfl
@[simp] theorem decode32_xfadd (h : fld w 1 6 = 0x19#6) : decode32 w =
    .ok (.xfadd (XMode.ofCode (fld w 25 2)) (fM5 w) (fD w) (fA w) (fB w)) := by rw [decode32, h]; rfl
@[simp] theorem decode32_xiadd (h : fld w 1 6 = 0x1A#6) : decode32 w =
    .ok (.xiadd (XMode.ofCode (fld w 25 2)) (fM5 w) (fD w) (fA w) (fB w)) := by rw [decode32, h]; rfl
@[simp] theorem decode32_vote (h : fld w 1 6 = 0x1B#6) : decode32 w =
    selected (VoteKind.ofCode (fM5 w)) fun k => checked (fld w 19 6 == 0#6 && !bitAt w 26) (.vote k (bitAt w 25) (fD w) (fA w)) := by
  rw [decode32, h]; rfl
@[simp] theorem decode32_xred (h : fld w 1 6 = 0x1C#6) : decode32 w =
    selected (RedOp.ofCode (fld w 27 4)) fun k =>
      checked (fld w 19 6 == 0#6 && !bitAt w 26) (.xred k (bitAt w 31) (bitAt w 25) (fD w) (fA w)) := by
  rw [decode32, h]; rfl
@[simp] theorem decode32_eq_decode1D (h : fld w 1 6 = 0x1D#6) : decode32 w = decode1D w := by rw [decode32, h]; rfl
@[simp] theorem decode32_tex (h : fld w 1 6 = 0x1E#6) (hm : fld w 27 5 = 0#5) : decode32 w =
    checked true (.tex (bitAt w 25) (bitAt w 26) (fD w) (fA w) (fB w)) := by rw [decode32, h, fM5, hm]; rfl
@[simp] theorem decode32_texg (h : fld w 1 6 = 0x1E#6) (hm : fld w 27 5 = 1#5) : decode32 w =
    checked true (.texg (bitAt w 25) (bitAt w 26) (fD w) (fA w) (fB w)) := by rw [decode32, h, fM5, hm]; rfl
@[simp] theorem decode32_eq_decode1F (h : fld w 1 6 = 0x1F#6) : decode32 w = decode1F w := by rw [decode32, h]; rfl
@[simp] theorem decode32_bra (h : fld w 1 6 = 0x20#6) : decode32 w = .ok (.bra (bitAt w 13) (fld w 7 6) (fld w 14 18)) := by
  rw [decode32, h]; rfl
@[simp] theorem decode32_brz (h : fld w 1 6 = 0x21#6) : decode32 w = .ok (.brz (bitAt w 13) (fld w 7 6) (fld w 14 18)) := by
  rw [decode32, h]; rfl
@[simp] theorem decode32_jmp (h : fld w 1 6 = 0x22#6) : decode32 w = .ok (.jmp (fld w 7 25)) := by rw [decode32, h]; rfl
@[simp] theorem decode32_call (h : fld w 1 6 = 0x23#6) : decode32 w = .ok (.call (fld w 7 25)) := by rw [decode32, h]; rfl
@[simp] theorem decode32_ret (h : fld w 1 6 = 0x24#6) : decode32 w =
    checked (fld w 7 6 == 0#6 && (fld w 19 6 == 0#6 && !bitAt w 26) && fM5 w == 0#5) (.ret (bitAt w 25) (fA w)) := by rw [decode32, h]; rfl
@[simp] theorem decode32_brx (h : fld w 1 6 = 0x25#6) : decode32 w =
    checked (fld w 7 6 == 0#6 && fM5 w == 0#5) (.brx (bitAt w 25) (bitAt w 26) (fA w) (fB w)) := by rw [decode32, h]; rfl
@[simp] theorem decode32_regang (h : fld w 1 6 = 0x26#6) : decode32 w =
    checked (fld w 7 6 == 0#6 && fWF3 w == 0#3 && fld w 17 15 == 0#15) (.regang (bitAt w 16)) := by rw [decode32, h]; rfl
@[simp] theorem decode32_exit (h : fld w 1 6 = 0x27#6) : decode32 w =
    checked (fld w 7 6 == 0#6 && fWF3 w == 0#3 && fImm16 w == 0#16) .exit := by rw [decode32, h]; rfl
@[simp] theorem decode32_bar (h : fld w 1 6 = 0x28#6) (hm : fld w 13 3 = 0#3) : decode32 w =
    checked (fld w 7 6 == 0#6 && fld w 18 14 == 0#14) (.bar (fld w 16 2)) := by rw [decode32, h, fWF3, hm]; rfl
@[simp] theorem decode32_barTeam (h : fld w 1 6 = 0x28#6) (hm : fld w 13 3 = 1#3) : decode32 w =
    checked (fld w 7 6 == 0#6 && fImm16 w == 0#16) .barTeam := by rw [decode32, h, fWF3, hm]; rfl
@[simp] theorem decode32_yield (h : fld w 1 6 = 0x29#6) : decode32 w =
    checked (fld w 7 6 == 0#6 && fWF3 w == 0#3 && fImm16 w == 0#16) .yield := by rw [decode32, h]; rfl
@[simp] theorem decode32_fence (h : fld w 1 6 = 0x2A#6) : decode32 w =
    checked (fld w 7 6 == 0#6 && fImm16 w == 0#16) (.fence (Scope.ofCode (fld w 13 2)) (bitAt w 15)) := by rw [decode32, h]; rfl
@[simp] theorem decode32_qfence (h : fld w 1 6 = 0x2B#6) : decode32 w =
    checked (fld w 7 6 == 0#6 && fWF3 w == 0#3 && fld w 24 8 == 0#8) (.qfence (fld w 16 8)) := by rw [decode32, h]; rfl
@[simp] theorem decode32_sleep (h : fld w 1 6 = 0x2C#6) : decode32 w = checked (fld w 7 6 == 0#6 && fWF3 w == 0#3) (.sleep (fImm16 w)) := by
  rw [decode32, h]; rfl
@[simp] theorem decode32_eq_decode2D (h : fld w 1 6 = 0x2D#6) : decode32 w = decode2D w := by rw [decode32, h]; rfl
@[simp] theorem decode32_eq_decode2E (h : fld w 1 6 = 0x2E#6) : decode32 w = decode2E w := by rw [decode32, h]; rfl
@[simp] theorem decode32_eq_decodeMem0 (h : fld w 1 6 = 0x30#6) : decode32 w = decodeMem 0 w := by rw [decode32, h]; rfl
@[simp] theorem decode32_eq_decodeMem1 (h : fld w 1 6 = 0x31#6) : decode32 w = decodeMem 1 w := by rw [decode32, h]; rfl
@[simp] theorem decode32_eq_decodeMem2 (h : fld w 1 6 = 0x32#6) : decode32 w = decodeMem 2 w := by rw [decode32, h]; rfl
@[simp] theorem decode32_eq_decodeMem3 (h : fld w 1 6 = 0x33#6) : decode32 w = decodeMem 3 w := by rw [decode32, h]; rfl
@[simp] theorem decode32_atom (h : fld w 1 6 = 0x34#6) : decode32 w =
    selected (AtomOp.ofCode (fld w 25 4)) fun op =>
      checked true (.atom op (Scope.ofCode (fld w 29 2)) (bitAt w 31) (fD w) (fA w) (fB w)) := by
  rw [decode32, h]; rfl
@[simp] theorem decode32_atoml (h : fld w 1 6 = 0x35#6) : decode32 w =
    selected (AtomOp.ofCode (fld w 25 4)) fun op => checked (!bitAt w 30) (.atoml op (bitAt w 29) (bitAt w 31) (fD w) (fA w) (fB w)) := by
  rw [decode32, h]; rfl
@[simp] theorem decode32_eq_decode36 (h : fld w 1 6 = 0x36#6) : decode32 w = decode36 w := by rw [decode32, h]; rfl
@[simp] theorem decode32_eq_decode37 (h : fld w 1 6 = 0x37#6) : decode32 w = decode37 w := by rw [decode32, h]; rfl
@[simp] theorem decode32_cpy (h : fld w 1 6 = 0x38#6) : decode32 w =
    checked (fld w 7 6 == 0#6 && (fld w 19 6 == 0#6 && !bitAt w 26) && fM5 w == 0#5) (.cpy (bitAt w 25) (fA w)) := by rw [decode32, h]; rfl
@[simp] theorem decode32_eq_decode39 (h : fld w 1 6 = 0x39#6) : decode32 w = decode39 w := by rw [decode32, h]; rfl
@[simp] theorem decode32_qstrm (h : fld w 1 6 = 0x3A#6) : decode32 w =
    checked (fld w 7 6 == 0#6 && fld w 30 2 == 0#2) (.qstrm (fld w 27 3) (bitAt w 25) (bitAt w 26) (fA w) (fB w)) := by
  rw [decode32, h]; rfl
@[simp] theorem decode32_mma (h : fld w 1 6 = 0x3B#6) : decode32 w =
    checked (fld w 30 2 == 0#2) (.mma (bitAt w 29) (bitAt w 28) (bitAt w 27) (bitAt w 26) (bitAt w 25) (fD w) (fA w) (fB w)) := by
  rw [decode32, h]; rfl
@[simp] theorem decode32_mpack (h : fld w 1 6 = 0x3C#6) : decode32 w =
    selected (PackFmt.ofCode (fM5 w)) fun k => checked true (.mpack k (bitAt w 25) (bitAt w 26) (fD w) (fA w) (fB w)) := by
  rw [decode32, h]; rfl
@[simp] theorem decode32_mtake (h : fld w 1 6 = 0x3D#6) (hm : fld w 13 3 = 0#3) : decode32 w =
    checked (fld w 7 6 == 0#6 && fImm16 w == 0#16) .mtake := by rw [decode32, h, fWF3, hm]; rfl
@[simp] theorem decode32_mpass (h : fld w 1 6 = 0x3D#6) (hm : fld w 13 3 = 1#3) : decode32 w =
    checked (fld w 7 6 == 0#6) (.mpass (fImm16 w)) := by rw [decode32, h, fWF3, hm]; rfl
@[simp] theorem decode32_tspawn (h : fld w 1 6 = 0x3E#6) (hm : fld w 27 5 = 0#5) : decode32 w =
    checked (fld w 7 6 == 0#6 && (fld w 19 6 == 0#6 && !bitAt w 26)) (.tspawn (bitAt w 25) (fA w)) := by rw [decode32, h, fM5, hm]; rfl
@[simp] theorem decode32_tsucc (h : fld w 1 6 = 0x3E#6) (hm : fld w 27 5 = 1#5) : decode32 w =
    checked (fld w 7 6 == 0#6 && (fld w 19 6 == 0#6 && !bitAt w 26)) (.tsucc (bitAt w 25) (fA w)) := by rw [decode32, h, fM5, hm]; rfl

end

end Sys2Proof
end

section
/-! Every well-formed instruction that has an encoding decodes from it (R77 to R92): the decoder gives it for every word that has the fields
of its format. -/

namespace Sys2Proof

/-- An instruction has an encoding, which decodes to it whatever bytes follow. -/
def RoundTrips (i : Instr) : Prop := ∃ c, encode i = some c ∧ ∀ rest, decode (c.bytes ++ rest) = .ok (i, rest)

theorem roundTrips_of_decodeCode {i : Instr} {c : Code} (he : encode i = some c) (hc : c.marked = true) (h : decodeCode c = .ok i) :
    RoundTrips i :=
  ⟨c, he, fun _ => (decode_eq_ok _ _ _).2 ⟨c, hc, rfl, h⟩⟩

/-! ### By format -/

section
variable {i : Instr} {maj d a b : BitVec 6} {ea : Bool}

theorem roundTrips_R3 {m5 : BitVec 5} {eb : Bool} (he : encode i = encR3 maj m5 ea eb d a b)
    (h : ∀ w, fld w 27 5 = m5 ∧ bitAt w 26 = eb ∧ bitAt w 25 = ea ∧ fld w 19 6 = b ∧ fld w 13 6 = a ∧ fld w 7 6 = d ∧ fld w 1 6 = maj ∧
      bitAt w 0 = true → decode32 w = .ok i) : RoundTrips i :=
  have hw := (encR3_eq_some _ maj d a b ea m5 eb).1 rfl
  roundTrips_of_decodeCode he hw.2.2.2.2.2.2.2 (h _ hw)

theorem roundTrips_R4 {m2 : BitVec 2} {c : Reg5} (he : encode i = encR4 maj m2 d a b c)
    (h : ∀ w, fld w 30 2 = m2 ∧ fld w 25 5 = c ∧ fld w 19 6 = b ∧ fld w 13 6 = a ∧ fld w 7 6 = d ∧ fld w 1 6 = maj ∧ bitAt w 0 = true →
      decode32 w = .ok i) : RoundTrips i :=
  have hw := (encR4_eq_some _ maj d a b m2 c).1 rfl
  roundTrips_of_decodeCode he hw.2.2.2.2.2.2 (h _ hw)

theorem roundTrips_I {f3 : BitVec 3} {imm : BitVec 9} (he : encode i = encI maj f3 ea d a imm)
    (h : ∀ w, fld w 23 9 = imm ∧ fld w 20 3 = f3 ∧ bitAt w 19 = ea ∧ fld w 13 6 = a ∧ fld w 7 6 = d ∧ fld w 1 6 = maj ∧ bitAt w 0 = true →
      decode32 w = .ok i) : RoundTrips i :=
  have hw := (encI_eq_some _ maj d a ea f3 imm).1 rfl
  roundTrips_of_decodeCode he hw.2.2.2.2.2.2 (h _ hw)

theorem roundTrips_W {f3 : BitVec 3} {imm : BitVec 16} (he : encode i = encW maj f3 d imm)
    (h : ∀ w, fld w 16 16 = imm ∧ fld w 13 3 = f3 ∧ fld w 7 6 = d ∧ fld w 1 6 = maj ∧ bitAt w 0 = true → decode32 w = .ok i) :
    RoundTrips i :=
  have hw := (encW_eq_some _ maj d f3 imm).1 rfl
  roundTrips_of_decodeCode he hw.2.2.2.2 (h _ hw)

theorem roundTrips_B {off : BitVec 18} (he : encode i = encB maj ea a off)
    (h : ∀ w, fld w 14 18 = off ∧ bitAt w 13 = ea ∧ fld w 7 6 = a ∧ fld w 1 6 = maj ∧ bitAt w 0 = true → decode32 w = .ok i) :
    RoundTrips i :=
  have hw := (encB_eq_some _ maj a ea off).1 rfl
  roundTrips_of_decodeCode he hw.2.2.2.2 (h _ hw)

theorem roundTrips_J {off : BitVec 25} (he : encode i = encJ maj off)
    (h : ∀ w, fld w 7 25 = off ∧ fld w 1 6 = maj ∧ bitAt w 0 = true → decode32 w = .ok i) : RoundTrips i :=
  have hw := (encJ_eq_some _ maj off).1 rfl
  roundTrips_of_decodeCode he hw.2.2 (h _ hw)

theorem roundTrips_M {off : BitVec 6} {order scope size : BitVec 2} (he : encode i = encM maj off order scope size ea d a)
    (h : ∀ w, fld w 26 6 = off ∧ fld w 24 2 = order ∧ fld w 22 2 = scope ∧ fld w 20 2 = size ∧ bitAt w 19 = ea ∧ fld w 13 6 = a ∧
      fld w 7 6 = d ∧ fld w 1 6 = maj ∧ bitAt w 0 = true → decode32 w = .ok i) : RoundTrips i :=
  have hw := (encM_eq_some _ maj d a ea off order scope size).1 rfl
  roundTrips_of_decodeCode he hw.2.2.2.2.2.2.2.2 (h _ hw)

theorem roundTrips_A {ar : Bool} {scope : BitVec 2} {op : BitVec 4} (he : encode i = encA maj ar scope op d a b)
    (h : ∀ w, bitAt w 31 = ar ∧ fld w 29 2 = scope ∧ fld w 25 4 = op ∧ fld w 19 6 = b ∧ fld w 13 6 = a ∧ fld w 7 6 = d ∧
      fld w 1 6 = maj ∧ bitAt w 0 = true → decode32 w = .ok i) : RoundTrips i :=
  have hw := (encA_eq_some _ maj d a b ar scope op).1 rfl
  roundTrips_of_decodeCode he hw.2.2.2.2.2.2.2 (h _ hw)

theorem roundTrips_X {k : BitVec 5} {m : XMode} (he : encode i = encX maj k m d a b)
    (h : ∀ w, fld w 27 5 = k ∧ fld w 25 2 = m.code ∧ fld w 19 6 = b ∧ fld w 13 6 = a ∧ fld w 7 6 = d ∧ fld w 1 6 = maj ∧
      bitAt w 0 = true → decode32 w = .ok i) : RoundTrips i :=
  have hw := (encX_eq_some _ maj d a b k m).1 rfl
  roundTrips_of_decodeCode he hw.2.2.2.2.2.2 (h _ hw)

end

theorem roundTrips_16 {i : Instr} {op : BitVec 4} {k : Bool} {d s : Reg5} (he : encode i = enc16 op k d s)
    (h : ∀ w : BitVec 16, w.getLsbD 15 = k ∧ w.extractLsb' 10 5 = s ∧ w.extractLsb' 5 5 = d ∧ w.extractLsb' 1 4 = op ∧ w.getLsbD 0 = false →
      decode16 w = i) : RoundTrips i :=
  have hw := (enc16_eq_some _ op k d s).1 rfl
  roundTrips_of_decodeCode he (congrArg Bool.not hw.2.2.2.2) (congrArg Except.ok (h _ hw))

/-! ### By instruction -/

theorem roundTrips (i : Instr) (hwf : i.wellFormed = true) (he : i.encodable = true) : RoundTrips i := by
  cases i
  case iadd | isub | imul | imulh | imulhu | imin | imax | iminu | imaxu | and | or | xor | andn | shl | shr | sar | iadds | isubs =>
    exact roundTrips_R3 rfl fun w h => by simp [decode01, h]
  case iaddi | imuli | andi | ori | xori =>
    exact roundTrips_I rfl fun w h => by simp [decode02, h]
  case shli | shri | sari =>
    exact roundTrips_I rfl fun w h => by simp at h; simp [decode02, h, hwf]
  case mov | not | ineg | iabs | popc | clz | brev =>
    exact roundTrips_R3 rfl fun w h => by simp [decode03, h, hwf]
  case imad | imadwUint | imadwInt | sel | bfe | bfeu | bfi | bperm | ffma | hpfma | bpfma | fdot =>
    exact roundTrips_R4 rfl fun w h => by simp [h, hwf]
  case sobol =>
    exact roundTrips_R4 rfl fun w h => by simp at h; simp [h, hwf]
  case iaddw | isubw | shlw | icmp | fcmp | vote | tex | texg | ret | brx | cpy | mpack | tspawn | tsucc =>
    exact roundTrips_R3 rfl fun w h => by simp [h, hwf]
  case fadd | fmul | fmin | fmax | frnd | fcvt | xred | qstrm | mma =>
    exact roundTrips_R3 rfl fun w h => by simp at h; simp [h, hwf]
  case frcp | frsq | fsqrt | fexp2 | flog2 | fsin | fcos | fclass | fabs | fneg =>
    exact roundTrips_R3 rfl fun w h => by simp [decode10, h, hwf]
  case hpadd | hpmul =>
    exact roundTrips_R3 rfl fun w h => by simp at h; simp [decode13, h]
  case hpmin =>
    exact roundTrips_R3 rfl fun w h => by
      have hm := (fld27_eq_sat_rnd w false 2#2 0#2).1 h.1
      simp [decode13, h, hm, hwf]
  case hpmax =>
    exact roundTrips_R3 rfl fun w h => by
      have hm := (fld27_eq_sat_rnd w false 3#2 0#2).1 h.1
      simp [decode13, h, hm, hwf]
  case xmov | xfadd | xiadd =>
    exact roundTrips_X rfl fun w h => by simp [h, hwf]
  case emitv | emitp | disc | zout =>
    exact roundTrips_R3 rfl fun w h => by simp [decode1D, h, hwf]
  case attr | pxout =>
    exact roundTrips_R3 rfl fun w h => by simp at h; simp [decode1D, h, hwf]
  case tileld | tilest =>
    exact roundTrips_R3 rfl fun w h => by simp at h; simp [decode1F, h, hwf]
  case raygo =>
    exact roundTrips_R3 rfl fun w h => by simp [decode1F, h, hwf]
  case bra | brz =>
    exact roundTrips_B rfl fun w h => by simp [h]
  case jmp | call =>
    exact roundTrips_J rfl fun w h => by simp [h]
  case movi | movhi | exit | barTeam | yield | sleep | mtake | mpass =>
    exact roundTrips_W rfl fun w h => by simp [h, hwf]
  case regang | bar | fence | qfence =>
    exact roundTrips_W rfl fun w h => by simp at h; simp [h, hwf]
  case leaseReq | leaseFree | leaseQuery =>
    exact roundTrips_W rfl fun w h => by simp [decode2D, h, hwf]
  case sysrd | syswr | trap | rett | brk =>
    exact roundTrips_I rfl fun w h => by simp [decode2E, h, hwf]
  case cyc =>
    exact roundTrips_I rfl fun w h => by simp at h; simp [decode2E, h, hwf]
  case ld | st | ldl | stl =>
    exact roundTrips_M rfl fun w h => by simp at h; simp [decodeMem, h, hwf]
  case clinePf | clineWb | clineInv =>
    exact roundTrips_M rfl fun w h => by simp [decode36, h, hwf]
  case atom =>
    exact roundTrips_A rfl fun w h => by simp [h, hwf]
  case atoml =>
    exact roundTrips_A rfl fun w h => by simp at h; simp [h, hwf]
  case stashMap | stashUnmap | stashFlush =>
    exact roundTrips_R3 rfl fun w h => by simp [decode37, h, hwf]
  case slotw =>
    exact roundTrips_R3 rfl fun w h => by simp at h; simp [decode39, h, hwf]
  case slotr | slotp | slote =>
    exact roundTrips_R3 rfl fun w h => by simp [decode39, h, hwf]
  case mov16 | iadd16 | isub16 | imul16 | and16 | or16 | xor16 | shl16 | shr16 | sar16 | imin16 | imax16 | fadd16 | fsub16 | fmul16 |
      fmax16 =>
    exact roundTrips_16 rfl fun w h => by simp only [decode16, h]; rfl
  all_goals cases he

end Sys2Proof
end

section
/-! What decodes is the encoding of what it decodes to (R94): each decoder gives, for a word of its major, only instructions whose encoding
is the word. -/

namespace Sys2Proof

/-- A decode of the word `w` gives only well-formed instructions whose encoding is `w`. -/
def Reencodes (w : BitVec 32) (r : Except DecodeError Instr) : Prop :=
  ∀ i, r = .ok i → i.wellFormed = true ∧ encode i = some (.word w)

section
variable {w : BitVec 32} {i : Instr}

theorem reencodes_error (e : DecodeError) : Reencodes w (.error e) := fun _ h => by cases h

theorem reencodes_ok (hwf : i.wellFormed = true) (he : encode i = some (.word w)) : Reencodes w (.ok i) := by
  rintro _ ⟨⟩
  exact ⟨hwf, he⟩

theorem reencodes_checked {z : Bool} (he : z = true → encode i = some (.word w)) : Reencodes w (checked z i) := by
  intro j hj
  obtain ⟨hz, hwf, rfl⟩ := (checked_eq_ok _ _ _).1 hj
  exact ⟨hwf, he hz⟩

theorem reencodes_selected {α : Type} {x : Option α} {f : α → Except DecodeError Instr} (h : ∀ y, x = some y → Reencodes w (f y)) :
    Reencodes w (selected x f) := by
  intro j hj
  obtain ⟨y, hy, hf⟩ := (selected_eq_ok _ _ _).1 hj
  exact h y hy j hf

/-! ### The decoders of one major -/

variable (h0 : bitAt w 0 = true)
include h0

theorem reencodes_decode01 (hmaj : fld w 1 6 = 0x01#6) : Reencodes w (decode01 w) := by
  unfold decode01
  dsimp only
  split
  case h_19 => exact reencodes_error _
  all_goals
    rename_i hm
    exact reencodes_ok rfl ((encR3_eq_some ..).2 ⟨fld_eq_of_toNat hm, rfl, rfl, rfl, rfl, rfl, hmaj, h0⟩)

theorem reencodes_decode02 (hmaj : fld w 1 6 = 0x02#6) : Reencodes w (decode02 w) := by
  unfold decode02
  dsimp only
  split
  case h_6 | h_7 =>
    rename_i hm
    exact reencodes_checked fun hz => (encI_eq_some ..).2 ⟨by simpa using hz, fld_eq_of_toNat hm, rfl, rfl, rfl, hmaj, h0⟩
  case h_8 =>
    have hm : (fF3 w).toNat = 7 := by have := (fF3 w).isLt; simp only [imp_false] at *; omega
    exact reencodes_checked fun hz => (encI_eq_some ..).2 ⟨by simpa using hz, fld_eq_of_toNat hm, rfl, rfl, rfl, hmaj, h0⟩
  all_goals
    rename_i hm
    exact reencodes_ok rfl ((encI_eq_some ..).2 ⟨rfl, fld_eq_of_toNat hm, rfl, rfl, rfl, hmaj, h0⟩)

theorem reencodes_decode03 (hmaj : fld w 1 6 = 0x03#6) : Reencodes w (decode03 w) := by
  unfold decode03
  dsimp only
  split
  case h_8 => exact reencodes_error _
  all_goals
    rename_i hm
    exact reencodes_checked fun hz => (encR3_eq_some ..).2 (by simp at hz; simp [hz, fld_eq_of_toNat hm, hmaj, h0])

theorem reencodes_decode10 (hmaj : fld w 1 6 = 0x10#6) : Reencodes w (decode10 w) := by
  unfold decode10
  dsimp only
  split
  case h_11 => exact reencodes_error _
  all_goals
    rename_i hm
    exact reencodes_checked fun hz => (encR3_eq_some ..).2 (by simp at hz; simp [hz, fld_eq_of_toNat hm, hmaj, h0])

theorem reencodes_decode13 (hmaj : fld w 1 6 = 0x13#6) : Reencodes w (decode13 w) := by
  unfold decode13
  dsimp only
  split
  case h_1 | h_2 =>
    rename_i hm
    exact reencodes_ok rfl ((encR3_eq_some ..).2 (by simp [fld_eq_of_toNat hm, hmaj, h0]))
  case h_3 hm =>
    refine reencodes_checked fun hz => (encR3_eq_some ..).2 ?_
    simp at hz
    exact ⟨(fld27_eq_sat_rnd w false 2#2 0#2).2 ⟨hz.1, fld_eq_of_toNat hm, hz.2⟩, rfl, rfl, rfl, rfl, rfl, hmaj, h0⟩
  case h_4 =>
    have hm : (fld w 29 2).toNat = 3 := by have := (fld w 29 2).isLt; simp only [imp_false] at *; omega
    refine reencodes_checked fun hz => (encR3_eq_some ..).2 ?_
    simp at hz
    exact ⟨(fld27_eq_sat_rnd w false 3#2 0#2).2 ⟨hz.1, fld_eq_of_toNat hm, hz.2⟩, rfl, rfl, rfl, rfl, rfl, hmaj, h0⟩

theorem reencodes_decode1D (hmaj : fld w 1 6 = 0x1D#6) : Reencodes w (decode1D w) := by
  unfold decode1D
  dsimp only
  split
  case h_3 hm =>
    refine reencodes_selected fun k hk => reencodes_checked fun hz => (encR3_eq_some ..).2 ?_
    simp at hz hk
    simp [hz, hk, fld_eq_of_toNat hm, hmaj, h0]
  case h_7 => exact reencodes_error _
  all_goals
    rename_i hm
    exact reencodes_checked fun hz => (encR3_eq_some ..).2 (by simp at hz; simp [hz, fld_eq_of_toNat hm, hmaj, h0])

theorem reencodes_decode1F (hmaj : fld w 1 6 = 0x1F#6) : Reencodes w (decode1F w) := by
  unfold decode1F
  dsimp only
  split
  case h_4 => exact reencodes_error _
  all_goals
    rename_i hm
    exact reencodes_checked fun hz => (encR3_eq_some ..).2 (by simp at hz; simp [hz, fld_eq_of_toNat hm, hmaj, h0])

theorem reencodes_decode2D (hmaj : fld w 1 6 = 0x2D#6) : Reencodes w (decode2D w) := by
  unfold decode2D
  dsimp only
  split
  case h_1 hm => exact reencodes_ok rfl ((encW_eq_some ..).2 ⟨rfl, fld_eq_of_toNat hm, rfl, hmaj, h0⟩)
  case h_4 => exact reencodes_error _
  all_goals
    rename_i hm
    exact reencodes_checked fun hz => (encW_eq_some ..).2 (by simp at hz; simp [hz, fld_eq_of_toNat hm, hmaj, h0])

theorem reencodes_decode2E (hmaj : fld w 1 6 = 0x2E#6) : Reencodes w (decode2E w) := by
  unfold decode2E
  dsimp only
  split
  case h_7 => exact reencodes_error _
  all_goals
    rename_i hm
    exact reencodes_checked fun hz => (encI_eq_some ..).2 (by simp at hz; simp [hz, fld_eq_of_toNat hm, hmaj, h0])

theorem reencodes_decode36 (hmaj : fld w 1 6 = 0x36#6) : Reencodes w (decode36 w) := by
  unfold decode36
  dsimp only
  split
  case h_4 => exact reencodes_error _
  all_goals
    rename_i hm
    exact reencodes_checked fun hz => (encM_eq_some ..).2 (by simp at hz; simp [hz, show fld w 7 6 = _ from fld_eq_of_toNat hm, hmaj, h0])

theorem reencodes_decode37 (hmaj : fld w 1 6 = 0x37#6) : Reencodes w (decode37 w) := by
  unfold decode37
  dsimp only
  split
  case h_4 => exact reencodes_error _
  all_goals
    rename_i hm
    exact reencodes_checked fun hz => (encR3_eq_some ..).2 (by simp at hz; simp [hz, fld_eq_of_toNat hm, hmaj, h0])

theorem reencodes_decode39 (hmaj : fld w 1 6 = 0x39#6) : Reencodes w (decode39 w) := by
  unfold decode39
  dsimp only
  split
  case h_5 => exact reencodes_error _
  all_goals
    rename_i hm
    exact reencodes_checked fun hz => (encR3_eq_some ..).2 (by simp at hz; simp [hz, fld_eq_of_toNat hm, hmaj, h0])

theorem reencodes_decodeMem {n : Nat} (hn : n < 4) (hmaj : fld w 1 6 = BitVec.ofNat 6 (0x30 + n)) : Reencodes w (decodeMem n w) := by
  unfold decodeMem
  dsimp only
  split
  case h_4 =>
    obtain rfl : n = 3 := by simp only [imp_false] at *; omega
    exact reencodes_checked fun hz => (encM_eq_some ..).2 (by simp at hz; simp [hz, hmaj, h0])
  all_goals
    exact reencodes_checked fun hz => (encM_eq_some ..).2 (by simp at hz; simp [hz, hmaj, h0])

/-! ### All majors -/

theorem reencodes_decode32 : Reencodes w (decode32 w) := by
  unfold decode32
  dsimp only
  split
  case h_1 hm => exact reencodes_decode01 h0 (fld_eq_of_toNat hm)
  case h_2 hm => exact reencodes_decode02 h0 (fld_eq_of_toNat hm)
  case h_3 hm => exact reencodes_decode03 h0 (fld_eq_of_toNat hm)
  case h_16 hm => exact reencodes_decode10 h0 (fld_eq_of_toNat hm)
  case h_19 hm => exact reencodes_decode13 h0 (fld_eq_of_toNat hm)
  case h_29 hm => exact reencodes_decode1D h0 (fld_eq_of_toNat hm)
  case h_31 hm => exact reencodes_decode1F h0 (fld_eq_of_toNat hm)
  case h_45 hm => exact reencodes_decode2D h0 (fld_eq_of_toNat hm)
  case h_46 hm => exact reencodes_decode2E h0 (fld_eq_of_toNat hm)
  case h_47 hm | h_48 hm | h_49 hm | h_50 hm => exact reencodes_decodeMem h0 (by decide) (fld_eq_of_toNat hm)
  case h_53 hm => exact reencodes_decode36 h0 (fld_eq_of_toNat hm)
  case h_54 hm => exact reencodes_decode37 h0 (fld_eq_of_toNat hm)
  case h_56 hm => exact reencodes_decode39 h0 (fld_eq_of_toNat hm)
  case h_62 => exact reencodes_error _
  -- format R4: IMAD, SEL and SOBOL; FFMA, HPFMA, BPFMA and FDOT; IMADW; the bit fields
  case h_4 hm | h_8 hm | h_23 hm =>
    exact reencodes_checked fun hz => (encR4_eq_some ..).2 (by simp at hz; simp [hz, fld_eq_of_toNat hm, h0])
  case h_14 hm | h_20 hm | h_21 hm | h_22 hm =>
    exact reencodes_ok rfl ((encR4_eq_some ..).2 (by simp [fld_eq_of_toNat hm, h0]))
  case h_5 hmaj =>
    split
    case h_3 => exact reencodes_error _
    all_goals
      rename_i hm
      exact reencodes_checked fun hz => (encR4_eq_some ..).2 (by simp [fld_eq_of_toNat hmaj, fld_eq_of_toNat hm, h0])
  case h_9 hmaj =>
    split
    case h_1 hm | h_2 hm =>
      exact reencodes_checked fun hz => (encR4_eq_some ..).2 (by simp at hz; simp [hz, fld_eq_of_toNat hmaj, fld_eq_of_toNat hm, h0])
    case h_3 hm =>
      exact reencodes_ok rfl ((encR4_eq_some ..).2 (by simp [fld_eq_of_toNat hmaj, fld_eq_of_toNat hm, h0]))
    case h_4 =>
      have hm : (fM2 w).toNat = 3 := by have := (fM2 w).isLt; simp only [imp_false] at *; omega
      exact reencodes_ok rfl ((encR4_eq_some ..).2 (by simp [fld_eq_of_toNat hmaj, fld_eq_of_toNat hm, h0]))
  -- format R3
  case h_11 hm | h_12 hm =>
    exact reencodes_ok rfl ((encR3_eq_some ..).2 (by simp [fld_eq_of_toNat hm, h0]))
  case h_13 hm =>
    split
    · next hz =>
      split
      · next hb => exact reencodes_ok rfl ((encR3_eq_some ..).2 (by simp at hz; simp [hz, hb, fld_eq_of_toNat hm, h0]))
      · next hb => exact reencodes_ok rfl ((encR3_eq_some ..).2 (by simp at hz; simp [hz, hb, fld_eq_of_toNat hm, h0]))
    · exact reencodes_error _
  case h_17 hm | h_36 hm | h_37 hm | h_55 hm | h_57 hm | h_58 hm =>
    exact reencodes_checked fun hz => (encR3_eq_some ..).2 (by simp at hz; simp [hz, fld_eq_of_toNat hm, h0])
  case h_7 hm | h_15 hm =>
    exact reencodes_selected fun k hk => reencodes_ok rfl ((encR3_eq_some ..).2 (by simp at hk; simp [hk, fld_eq_of_toNat hm, h0]))
  case h_18 hm | h_27 hm | h_28 hm =>
    exact reencodes_selected fun k hk => reencodes_checked fun hz => (encR3_eq_some ..).2 (by
      simp at hk hz; simp [hk, hz, fld_eq_of_toNat hm, h0])
  case h_59 hm =>
    exact reencodes_selected fun k hk => reencodes_checked fun hz => (encR3_eq_some ..).2 (by
      simp at hk; simp [hk, fld_eq_of_toNat hm, h0])
  case h_6 hmaj =>
    split
    case h_4 => exact reencodes_error _
    all_goals
      rename_i hm
      exact reencodes_checked fun hz => (encR3_eq_some ..).2 (by simp [fld_eq_of_toNat hmaj, fld_eq_of_toNat hm, h0])
  case h_30 hmaj =>
    split
    case h_3 => exact reencodes_error _
    all_goals
      rename_i hm
      exact reencodes_checked fun hz => (encR3_eq_some ..).2 (by simp [fld_eq_of_toNat hmaj, fld_eq_of_toNat hm, h0])
  case h_61 hmaj =>
    split
    case h_3 => exact reencodes_error _
    all_goals
      rename_i hm
      exact reencodes_checked fun hz => (encR3_eq_some ..).2 (by simp at hz; simp [hz, fld_eq_of_toNat hmaj, fld_eq_of_toNat hm, h0])
  -- formats X, A, B and J
  case h_24 hm =>
    exact reencodes_checked fun hz => (encX_eq_some ..).2 (by simp at hz; simp [hz, fld_eq_of_toNat hm, h0])
  case h_25 hm | h_26 hm =>
    exact reencodes_ok rfl ((encX_eq_some ..).2 (by simp [fld_eq_of_toNat hm, h0]))
  case h_51 hm =>
    exact reencodes_selected fun k hk => reencodes_checked fun hz => (encA_eq_some ..).2 (by simp at hk; simp [hk, fld_eq_of_toNat hm, h0])
  case h_52 hm =>
    exact reencodes_selected fun k hk => reencodes_checked fun hz => (encA_eq_some ..).2 (by
      simp at hk hz; simp [hk, hz, fld_eq_of_toNat hm, h0])
  case h_32 hm | h_33 hm => exact reencodes_ok rfl ((encB_eq_some ..).2 ⟨rfl, rfl, rfl, fld_eq_of_toNat hm, h0⟩)
  case h_34 hm | h_35 hm => exact reencodes_ok rfl ((encJ_eq_some ..).2 ⟨rfl, fld_eq_of_toNat hm, h0⟩)
  -- format W
  case h_10 hmaj =>
    split
    case h_3 => exact reencodes_error _
    all_goals
      rename_i hm
      exact reencodes_ok rfl ((encW_eq_some ..).2 ⟨rfl, fld_eq_of_toNat hm, rfl, fld_eq_of_toNat hmaj, h0⟩)
  case h_38 hm | h_39 hm | h_41 hm | h_42 hm | h_43 hm | h_44 hm =>
    exact reencodes_checked fun hz => (encW_eq_some ..).2 (by simp at hz; simp [hz, fld_eq_of_toNat hm, h0])
  case h_40 hmaj | h_60 hmaj =>
    split
    case h_3 => exact reencodes_error _
    all_goals
      rename_i hm
      exact reencodes_checked fun hz => (encW_eq_some ..).2 (by simp at hz; simp [hz, fld_eq_of_toNat hmaj, fld_eq_of_toNat hm, h0])

end

/-! ### 16-bit words -/

theorem extractLsb'_eq_of_toNat {v : Nat} {w : BitVec v} {lo n k : Nat} (h : (w.extractLsb' lo n).toNat = k) :
    w.extractLsb' lo n = BitVec.ofNat n k := by
  rw [← h, BitVec.ofNat_toNat, BitVec.setWidth_eq]

theorem encode_decode16 {w : BitVec 16} (h0 : w.getLsbD 0 = false) : encode (decode16 w) = some (.half w) := by
  unfold decode16
  dsimp only
  split
  case h_16 =>
    have hm : (w.extractLsb' 1 4).toNat = 15 := by have := (w.extractLsb' 1 4).isLt; simp only [imp_false] at *; omega
    exact (enc16_eq_some ..).2 ⟨rfl, rfl, rfl, extractLsb'_eq_of_toNat hm, h0⟩
  all_goals
    rename_i hm
    exact (enc16_eq_some ..).2 ⟨rfl, rfl, rfl, extractLsb'_eq_of_toNat hm, h0⟩

/-- The sixteen 16-bit instructions (R80, R81). -/
def halfInstrs (k : Bool) (d s : Reg5) : List Instr :=
  [.mov16 k d s, .iadd16 k d s, .isub16 k d s, .imul16 k d s, .and16 k d s, .or16 k d s, .xor16 k d s, .shl16 k d s, .shr16 k d s,
    .sar16 k d s, .imin16 k d s, .imax16 k d s, .fadd16 k d s, .fsub16 k d s, .fmul16 k d s, .fmax16 k d s]

theorem decode16_mem (w : BitVec 16) : decode16 w ∈ halfInstrs (w.getLsbD 15) (w.extractLsb' 5 5) (w.extractLsb' 10 5) := by
  unfold decode16 halfInstrs
  dsimp only
  split <;> simp only [List.mem_cons, true_or, or_true]

theorem wellFormed_of_mem_halfInstrs {k : Bool} {d s : Reg5} {i : Instr} (h : i ∈ halfInstrs k d s) : i.wellFormed = true := by
  simp only [halfInstrs, List.mem_cons, List.not_mem_nil, or_false] at h
  rcases h with rfl | rfl | rfl | rfl | rfl | rfl | rfl | rfl | rfl | rfl | rfl | rfl | rfl | rfl | rfl | rfl <;> rfl

/-! ### Both directions -/

theorem hasWord (i : Instr) : Laws.HasWord.Statement i := by cases i <;> rfl

theorem encode_of_decodeCode {c : Code} {i : Instr} (hc : c.marked = true) (h : decodeCode c = .ok i) :
    i.wellFormed = true ∧ encode i = some c := by
  cases c with
  | half w =>
    cases h
    exact ⟨wellFormed_of_mem_halfInstrs (decode16_mem w), encode_decode16 (by simpa [Code.marked] using hc)⟩
  | word w => exact reencodes_decode32 hc i h

end Sys2Proof

open Sys2Proof

/-- Settles O25: the decoder gives an instruction for every word that has the fields of the instruction's format. -/
theorem encodeThenDecode : Obligations.EncodeThenDecode := by
  unfold Obligations.EncodeThenDecode
  intro i rest hwf he
  obtain ⟨c, hc, hd⟩ := roundTrips i hwf he
  exact ⟨c, hc, hd rest⟩

/-- Settles O26: each decoder checks the fields that the encoder sets, and gives the instruction only when they hold these values. -/
theorem decodeThenEncode : Obligations.DecodeThenEncode := by
  unfold Obligations.DecodeThenEncode
  intro bs rest i h
  obtain ⟨c, hc, hb, hi⟩ := (decode_eq_ok _ _ _).1 h
  obtain ⟨hwf, he⟩ := encode_of_decodeCode hc hi
  exact ⟨hwf, (hasWord i).trans (by rw [he]; rfl), c, he, hb⟩

/-- Settles O23: the decoder, evaluated on each word. -/
theorem tableWordsDecode : Obligations.TableWordsDecode := by
  unfold Obligations.TableWordsDecode
  decide

end

section
/-! The 16-bit forms (R80, Table 4-2): each is a register instruction with one result, of the shape that its operation says. -/

namespace Sys2Proof.Machine

/-! ### Operations as the statements spell them -/

theorem shlWord_eq (x y : Word) : shlWord x y = BitVec.ofNat 32 (x.toNat * 2 ^ (y.toNat % 32)) := by
  apply BitVec.eq_of_toNat_eq
  rw [shlWord, BitVec.toNat_shiftLeft, BitVec.toNat_ofNat, Nat.shiftLeft_eq]

theorem shrWord_eq (x y : Word) : shrWord x y = BitVec.ofNat 32 (x.toNat / 2 ^ (y.toNat % 32)) := by
  apply BitVec.eq_of_toNat_eq
  rw [shrWord, BitVec.toNat_ushiftRight, BitVec.toNat_ofNat, Nat.shiftRight_eq_div_pow,
    Nat.mod_eq_of_lt (Nat.lt_of_le_of_lt (Nat.div_le_self _ _) x.isLt)]

theorem sarWord_eq (x y : Word) : sarWord x y = BitVec.ofInt 32 (x.toInt / 2 ^ (y.toNat % 32)) := by
  rw [sarWord, BitVec.sshiftRight, Int.shiftRight_eq_div_pow]
  norm_cast

theorem minInt_eq (x y : Word) : minInt x y = if x.toInt ≤ y.toInt then x else y := by
  rcases lt_trichotomy x.toInt y.toInt with h | h | h
  · simp [minInt, BitVec.slt, h, h.le]
  · simp [minInt, BitVec.eq_of_toInt_eq h]
  · simp [minInt, BitVec.slt, h.not_gt, h.not_ge]

theorem maxInt_eq (x y : Word) : maxInt x y = if y.toInt ≤ x.toInt then x else y := by
  rcases lt_trichotomy x.toInt y.toInt with h | h | h
  · simp [maxInt, BitVec.slt, h.not_gt, h.not_ge]
  · simp [maxInt, BitVec.eq_of_toInt_eq h]
  · simp [maxInt, BitVec.slt, h, h.le]

theorem immFloat_eq (r : Reg5) : immFloat r = w32 (roundFp fp32 .rne false (.fin false r.toNat 1)).1 := by
  have h : numInt (r.toNat : Int) = .fin false r.toNat 1 := by simp [numInt]
  rw [immFloat, h]

theorem addWords_unsaturated (rm : RMode) (m : Word) (negB : Bool) (x y : Word) :
    addWords rm m false false negB x y = put32 rm m (numAdd rm (rd32 m x) (negIf negB (rd32 m y))) := by
  simp only [addWords, negIf, Bool.false_eq_true, if_false]

theorem mulWords_unsaturated (rm : RMode) (m : Word) (x y : Word) :
    mulWords rm m false false false x y = put32 rm m (numMul (rd32 m x) (rd32 m y)) := by
  simp only [mulWords, negIf, Bool.false_eq_true, if_false]

theorem toNat_reg5 (d : Reg5) : (reg5 d).toNat = d.toNat := by
  rw [reg5, BitVec.toNat_setWidth, Nat.mod_eq_of_lt (Nat.lt_of_lt_of_le d.isLt (by decide))]

/-! ### Shapes -/

/-- A 16-bit integer instruction gives `g` of its operands. -/
theorem gives_of_execHalf {i : Instr} {k : Bool} {d r : Reg5} {f : Word → Word → Word} (g : Word → Word → Word)
    (hi : ∀ s, exec i s = execHalf i k d r f s) (hfg : ∀ x y, f x y = g x y) :
    Gives i (halfForm true k d r) (fun s => one (reg5 d) (fun l =>
      g (operand s (halfForm true k d r) l 0) (if k then r.zeroExtend 32 else operand s (halfForm true k d r) l 1))) := by
  obtain rfl : f = g := funext fun x => funext (hfg x)
  intro s hr
  rw [hi]
  exact gives_half i k d r f hr

/-- A 16-bit floating-point instruction gives `g` of MODE and its operands. -/
theorem givesFloat_of_execHalfFp {i : Instr} {k : Bool} {d r : Reg5} {f : Word → Word → Word → Word × Flags}
    (g : Word → Word → Word → Word × Flags) (hi : ∀ s, exec i s = execHalfFp i k d r f s) (hfg : ∀ m x y, f m x y = g m x y) :
    GivesFloat i (halfForm false k d r) (reg5 d) (fun s l => g (laneMode s l) (operand s (halfForm false k d r) l 0)
      (if k then w32 (roundFp fp32 .rne false (.fin false r.toNat 1)).1 else operand s (halfForm false k d r) l 1)) := by
  obtain rfl : f = g := funext fun m => funext fun x => funext (hfg m x)
  intro s hr he
  rw [hi, execHalfFp, ← toNat_reg5, immFloat_eq]
  exact gives_fp i rfl (fun m vs => f m (val vs 0) (if k then _ else val vs 1)) hr he

end Sys2Proof.Machine
end

section
open Sys2Proof Sys2Proof.Machine

/-- Settles O4: MOV by the law of an instruction with one result, the others by the two shapes of 16-bit instructions. -/
theorem shortFormResults : Obligations.ShortFormResults := by
  unfold Obligations.ShortFormResults
  refine ⟨fun k d r => ⟨?mov, ?add, ?sub, ?mul, ?and, ?or, ?xor, ?shl, ?shr, ?sar, ?min, ?max⟩,
    fun k d r => ⟨?fadd, ?fsub, ?fmul, ?fmax⟩⟩
  case mov =>
    intro s hr
    exact gives_one (.mov16 k d r) rfl _ (fun l => (if k then r.zeroExtend 32 else operand s (moveForm k d r) l 0, 0)) hr fun _ _ => rfl
  case add => exact gives_of_execHalf (· + ·) (fun _ => rfl) fun _ _ => rfl
  case sub => exact gives_of_execHalf (· - ·) (fun _ => rfl) fun _ _ => rfl
  case mul => exact gives_of_execHalf (· * ·) (fun _ => rfl) fun _ _ => rfl
  case and => exact gives_of_execHalf (· &&& ·) (fun _ => rfl) fun _ _ => rfl
  case or => exact gives_of_execHalf (· ||| ·) (fun _ => rfl) fun _ _ => rfl
  case xor => exact gives_of_execHalf (· ^^^ ·) (fun _ => rfl) fun _ _ => rfl
  case shl => exact gives_of_execHalf _ (fun _ => rfl) shlWord_eq
  case shr => exact gives_of_execHalf _ (fun _ => rfl) shrWord_eq
  case sar => exact gives_of_execHalf _ (fun _ => rfl) sarWord_eq
  case min => exact gives_of_execHalf _ (fun _ => rfl) minInt_eq
  case max => exact gives_of_execHalf _ (fun _ => rfl) maxInt_eq
  case fadd =>
    exact givesFloat_of_execHalfFp (f := fun m => addWords (modeRm m) m false false false)
      (fun m x y => put32 (modeRm m) m (numAdd (modeRm m) (rd32 m x) (rd32 m y))) (fun _ => rfl)
      fun m => addWords_unsaturated (modeRm m) m false
  case fsub =>
    exact givesFloat_of_execHalfFp (f := fun m => addWords (modeRm m) m false false true)
      (fun m x y => put32 (modeRm m) m (numAdd (modeRm m) (rd32 m x) (numNeg (rd32 m y)))) (fun _ => rfl)
      fun m => addWords_unsaturated (modeRm m) m true
  case fmul =>
    exact givesFloat_of_execHalfFp (f := fun m => mulWords (modeRm m) m false false false)
      (fun m x y => put32 (modeRm m) m (numMul (rd32 m x) (rd32 m y))) (fun _ => rfl)
      fun m => mulWords_unsaturated (modeRm m) m
  case fmax =>
    exact givesFloat_of_execHalfFp (f := fun m => minMaxWords m false true) (fun m => minMaxWords m false true) (fun _ => rfl)
      fun _ _ _ => rfl

end

section
/-! An issue whose lanes take no cause 0x01 gives no slice a frame or a halt with that cause: the rules of the operations that the end of
an issue is made of. -/

namespace Sys2Proof.Machine

/-! ### Slices -/

/-- The new frames of `y`, and its halt if it is new, have other causes than 0x01. -/
structure Blameless (x y : Slice) : Prop where
  frames : ∃ cs, y.frames.map (·.cause) = cs ++ x.frames.map (·.cause) ∧ 1 ∉ cs
  halt : y.halt = x.halt ∨ ∃ h, y.halt = some h ∧ h.cause ≠ 1

namespace Blameless

theorem of_eq {x y : Slice} (hf : y.frames.map (·.cause) = x.frames.map (·.cause)) (hh : y.halt = x.halt) : Blameless x y :=
  ⟨⟨[], hf, by simp⟩, .inl hh⟩

theorem refl (x : Slice) : Blameless x x := of_eq rfl rfl

theorem trans {x y z : Slice} (h : Blameless x y) (k : Blameless y z) : Blameless x z := by
  obtain ⟨⟨cs, hcs, hc⟩, hh⟩ := h
  obtain ⟨⟨ds, hds, hd⟩, hk⟩ := k
  refine ⟨⟨ds ++ cs, by rw [hds, hcs, List.append_assoc], by simp [hc, hd]⟩, ?_⟩
  rcases hk with e | e
  · rw [e]
    exact hh
  · exact .inr e

/-- The top frame of a slice that has more frames is a new one. -/
theorem top {x y : Slice} (h : Blameless x y) {f : Frame} {fs : List Frame} (hy : y.frames = f :: fs)
    (hl : x.frames.length < y.frames.length) : f.cause ≠ 1 := by
  obtain ⟨cs, hcs, hc⟩ := h.frames
  cases cs with
  | nil =>
    have same := congrArg List.length hcs
    simp only [List.length_map, List.nil_append] at same
    omega
  | cons c cs =>
    rw [hy, List.map_cons, List.cons_append, List.cons.injEq] at hcs
    rw [hcs.1]
    exact fun e => hc (e ▸ List.mem_cons_self)

theorem new_halt {x y : Slice} (h : Blameless x y) {k : Halt} (hy : y.halt = some k) (hne : y.halt ≠ x.halt) : k.cause ≠ 1 := by
  rcases h.halt with e | ⟨k', hk, hc⟩
  · exact absurd e hne
  · rw [hy] at hk
    rwa [Option.some.inj hk]

end Blameless

theorem causes_setLevel (x : Slice) (v : Level) : (setLevel x v).frames.map (·.cause) = x.frames.map (·.cause) := by
  unfold setLevel
  cases x.frames <;> rfl

theorem halt_setLevel (x : Slice) (v : Level) : (setLevel x v).halt = x.halt := by
  unfold setLevel
  cases x.frames <;> rfl

/-! ### States -/

/-- Every slice is there, and blameless. -/
def Spared (s t : State) : Prop := ∀ g n x, slice? s g n = some x → ∃ y, slice? t g n = some y ∧ Blameless x y

namespace Spared

theorem of_slices {s t : State} (h : ∀ g n, slice? t g n = slice? s g n) : Spared s t :=
  fun g n x hx => ⟨x, (h g n).trans hx, Blameless.refl x⟩

theorem refl (s : State) : Spared s s := of_slices fun _ _ => rfl

theorem trans {a b c : State} (h : Spared a b) (k : Spared b c) : Spared a c := by
  intro g n x hx
  obtain ⟨y, hy, hxy⟩ := h g n x hx
  obtain ⟨z, hz, hyz⟩ := k g n y hy
  exact ⟨z, hz, hxy.trans hyz⟩

theorem foldl {α : Type} (f : State → α → State) (as : List α) (h : ∀ a ∈ as, ∀ s, Spared s (f s a)) (s : State) :
    Spared s (as.foldl f s) := by
  induction as generalizing s with
  | nil => exact refl s
  | cons a as ih => exact (h a List.mem_cons_self s).trans (ih (fun b hb => h b (List.mem_cons_of_mem a hb)) _)

theorem of_kept {s t : State} (h : Kept s t) : Spared s t := by
  intro g n x hx
  obtain ⟨y, hy, hframes, hhalt, -⟩ := h.frames g n x hx
  have causes := congrArg (List.map (·.1)) hframes
  rw [List.map_map, List.map_map] at causes
  exact ⟨y, hy, .of_eq causes hhalt⟩

end Spared

/-! ### Operations -/

theorem spared_modSlice (s : State) (g n : Nat) {f : Slice → Slice} (hf : ∀ x, Blameless x (f x)) : Spared s (modSlice s g n f) := by
  intro h m x hx
  rw [slice?_modSlice]
  split
  case isTrue e =>
    obtain ⟨rfl, rfl⟩ := e
    exact ⟨f x, by rw [hx]; rfl, hf x⟩
  case isFalse => exact ⟨x, hx, .refl x⟩

/-- A change of a group that changes each of its slices. -/
theorem spared_modGroup (s : State) (g : Nat) {f : Group → Group} {k : Slice → Slice} (hf : ∀ x, (f x).slices = x.slices.map k)
    (hk : ∀ y, Blameless y (k y)) : Spared s (modGroup s g f) := by
  intro h m x hx
  obtain ⟨w, hw, hwx⟩ := Option.bind_eq_some_iff.1 hx
  unfold slice?
  rw [group?_modGroup]
  split
  case isTrue e =>
    subst e
    refine ⟨k x, ?_, hk x⟩
    rw [hw, Option.map_some, Option.bind_some, hf, List.getElem?_map, hwx]
    rfl
  case isFalse => exact ⟨x, hx, .refl x⟩

theorem spared_squashRob (s : State) (g : Nat) : Spared s (squashRob s g) := by
  unfold squashRob
  split
  · exact .refl s
  · refine .foldl _ _ (fun _ _ _ => ?_) s
    exact .of_slices fun _ _ => rfl

theorem spared_squashGroup (s : State) (g : Nat) : Spared s (squashGroup s g) := by
  unfold squashGroup
  split
  · exact .refl s
  · extract_lets u waited u1
    have hu1 : Spared s u1 := (spared_squashRob s g).trans (spared_modGroup u g (fun _ => rfl) fun y => .of_eq rfl rfl)
    split
    · dsimp only
      split
      · exact hu1
      · exact hu1.trans (.of_slices fun _ _ => rfl)
    · exact hu1

theorem spared_stopGroup (s : State) (g : Nat) : Spared s (stopGroup s g) := by
  refine (spared_squashGroup s g).trans (.of_slices fun h n => slice?_modGroup _ _ _ _ _ fun x => ?_)
  split <;> rfl

theorem spared_stopTeam (s : State) (k : Nat) : Spared s (stopTeam s k) := by
  unfold stopTeam
  split
  · exact .refl s
  · exact (Spared.foldl _ _ (fun _ _ _ => spared_stopGroup _ _) s).trans (.of_slices fun _ _ => rfl)

theorem spared_halted (s : State) (g n : Nat) {h : Halt} (hc : h.cause ≠ 1) :
    Spared s (modSlice s g n (fun y => { y with halt := some h })) :=
  spared_modSlice s g n fun _ => ⟨⟨[], rfl, List.not_mem_nil⟩, .inr ⟨h, rfl, hc⟩⟩

theorem spared_escalate (s : State) (g n : Nat) (pc : Addr) (t : Trap) {c : Nat} (hc : c ≠ 1) : Spared s (escalate s g n pc t c) := by
  unfold escalate
  split
  · exact .refl s
  · dsimp only
    refine .trans (.trans ?_ (spared_stopGroup _ g)) (.of_slices fun _ _ => rfl)
    exact spared_halted s g n hc

theorem spared_debugStop (s : State) (g n : Nat) (pc : Addr) {t : Trap} (hc : t.cause ≠ 1) : Spared s (debugStop s g n pc t) := by
  unfold debugStop
  split
  · exact .refl s
  · refine .trans ?_ (spared_stopTeam _ _)
    exact spared_halted s g n hc

theorem spared_takeTrap (s : State) (g n : Nat) (pc : Addr) (lanes : LMask) {t : Trap} (hc : t.cause ≠ 1) :
    Spared s (takeTrap s g n pc lanes t) := by
  unfold takeTrap
  split
  · exact .refl s
  · dsimp only
    split
    · exact spared_debugStop s g n pc hc
    split
    · exact spared_escalate s g n pc t hc
    split
    · exact spared_escalate s g n pc t (by decide)
    · exact spared_modSlice s g n fun x => ⟨⟨[t.cause], rfl, by simpa using hc.symm⟩, .inl rfl⟩

theorem spared_gripTrap (s : State) (k c d : Nat) : Spared s (gripTrap s k c d) := by
  unfold gripTrap
  split
  · exact .refl s
  · dsimp only
    split
    · refine .trans ?_ (spared_stopTeam _ k)
      exact .of_slices fun _ _ => rfl
    · exact .of_slices fun _ _ => rfl

/-! ### The end of an issue -/

/-- An outcome that is no cause 0x01 and no absent page. -/
def Act.harmless : Act → Bool
  | .fault c _ _ => c != 1
  | .swap => false
  | _ => true

theorem leastOf_mem {cs : List Nat} {c : Nat} (h : leastOf cs = some c) : c ∈ cs := by
  have step (cs : List Nat) (m : Option Nat) (c : Nat)
      (h : cs.foldl (fun m x => match m with | none => some x | some y => some (min x y)) m = some c) : c ∈ cs ∨ m = some c := by
    induction cs generalizing m with
    | nil => exact .inr h
    | cons x cs ih =>
      rcases ih _ h with hc | hc
      · exact .inl (List.mem_cons_of_mem x hc)
      · cases m with
        | none => exact .inl (List.mem_cons.2 (.inl (Option.some.inj hc).symm))
        | some y =>
          rcases min_choice x y with e | e
          · exact .inl (List.mem_cons.2 (.inl (by rw [← Option.some.inj hc, e])))
          · exact .inr (by rw [← Option.some.inj hc, e])
  exact (step cs none c h).resolve_right nofun

theorem lowestCause_ne_one {as : List (LaneId × Act)} (has : ∀ a ∈ as, a.2.harmless = true) {c : Nat} (h : lowestCause as = some c) :
    c ≠ 1 := by
  obtain ⟨a, ha, hc⟩ := List.mem_filterMap.1 (leastOf_mem h)
  have harmless := has a ha
  split at hc
  · rename_i e
    rw [e, Act.harmless] at harmless
    rw [← Option.some.inj hc]
    simpa using harmless
  · cases hc

section
variable {form : Form} {plan : LaneId → List Word → Act} {as : List (LaneId × Act)}

theorem spared_settleWaveSlice (s0 s : State) (active : List LaneId) (kept : Bool) (g n : Nat)
    (has : ∀ a ∈ as, a.2.harmless = true) : Spared s (settleWaveSlice s0 s (pureEntry form plan) active kept g n as) := by
  unfold settleWaveSlice
  dsimp only
  split
  · exact (Spared.of_kept (booked_raiseFlags s g _).kept).trans
      (spared_modSlice _ g n fun x => .of_eq (causes_setLevel x _) (halt_setLevel x _))
  · rename_i c hc
    split
    · exact (Spared.of_kept (booked_raiseFlags s g _).kept).trans (spared_takeTrap _ g n _ _ (lowestCause_ne_one has hc))
    · exact .of_kept (booked_raiseFlags s g _).kept

theorem spared_settleSingle (s : State) (len : Nat) (l : LaneId) (a : Act) : Spared s (settleSingle s len l a) := by
  unfold settleSingle
  split
  · exact .of_slices fun _ _ => rfl
  · exact spared_gripTrap s _ _ _
  · exact .of_slices fun _ _ => rfl
  · exact .of_slices fun _ _ => rfl
  · exact .refl s

theorem spared_settleAll (s0 s : State) (active : List LaneId) (has : ∀ a ∈ as, a.2.harmless = true) :
    Spared s (settleAll s0 s (pureEntry form plan) active as) := by
  unfold settleAll
  split
  · refine (Spared.foldl _ _ (fun p hp u => spared_settleWaveSlice s0 u active _ _ _ fun a ha => ?_) s).trans
      (.of_kept (booked_partFocus _).kept)
    obtain ⟨k, -, rfl⟩ := List.mem_map.1 hp
    exact has a (List.mem_filter.1 ha).1
  · exact .foldl _ _ (fun a _ u => spared_settleSingle u _ a.1 a.2) s

/-- A register instruction's effects are writes of registers. -/
theorem kept_applyActs (s0 : State) (active : List LaneId) (seen : List Nat) (s : State) :
    Kept s (applyActs s0 (pureEntry form plan) active seen s as) := by
  induction as generalizing seen s with
  | nil => exact Kept.refl s
  | cons a as ih =>
    unfold applyActs
    split
    · exact (kept_writeLanes s a.1 _).trans (ih seen _)
    · split
      · exact ih seen s
      · exact ih _ s
    · exact ih seen s

theorem spared_finish (s : State) (active : List LaneId) (has : ∀ a ∈ as, a.2.harmless = true) :
    Spared s (finish s (pureEntry form plan) active as) := by
  have noSwap : as.any (fun a => decide (a.2 = .swap)) = false := by
    refine List.any_eq_false.2 fun a ha e => ?_
    have := has a ha
    rw [of_decide_eq_true e] at this
    cases this
  unfold finish
  split
  · exact .refl s
  · rw [noSwap]
    exact (((Spared.of_kept (kept_applyActs s active [] s)).trans (.of_kept (booked_consumePops s _ form as).kept)).trans
      (spared_settleAll s _ active has)).trans (.of_kept ((booked_noteRetired _ _ _).trans (booked_clearFailed _ _)).kept)

end

end Sys2Proof.Machine
end

section
/-! The 16-bit instructions (R81): in a wave each is a legal register instruction with no outcome of cause 0x01. -/

namespace Sys2Proof.Machine

/-! ### Outcomes -/

theorem harmless_of_findSome? {gs : List (Got × Src)} {f : Got → Src → Option Act}
    (hf : ∀ g x a, f g x = some a → a.harmless = true) {a : Act} (h : gs.findSome? (fun e => f e.1 e.2) = some a) : a.harmless = true := by
  obtain ⟨e, -, he⟩ := List.exists_of_findSome?_eq_some h
  exact hf _ _ _ he

theorem harmless_srcAct (g : Got) (x : Src) (a : Act) (h : srcAct g x = some a) : a.harmless = true := by
  unfold srcAct at h
  split at h
  · split at h <;> (cases h; rfl)
  · cases h

theorem harmless_srcPoison (g : Got) (x : Src) (a : Act) (h : srcPoison g x = some a) : a.harmless = true := by
  unfold srcPoison at h
  split at h <;> cases h
  rfl

theorem harmless_srcMisuse (g : Got) (x : Src) (a : Act) (h : srcMisuse g x = some a) : a.harmless = true := by
  unfold srcMisuse at h
  split at h <;> cases h
  rfl

theorem harmless_elemCause {gs : List (Got × Src)} {a : Act} (h : elemCause gs = some a) : a.harmless = true := by
  unfold elemCause at h
  split at h
  · rename_i ha
    cases h
    exact harmless_of_findSome? harmless_srcAct ha
  · exact harmless_of_findSome? harmless_srcPoison h

section
variable {s : State} {f : Form} {active : List LaneId} {l : LaneId} {a : Act}

theorem harmless_oneAct (h : oneAct s f active l = some a) : a.harmless = true := by
  unfold oneAct at h
  dsimp only at h
  split at h
  · rename_i ha
    cases h
    obtain ⟨e, -, he⟩ := List.exists_of_findSome?_eq_some ha
    split at he <;> cases he
    rfl
  · exact harmless_elemCause h

theorem harmless_ownAct (h : ownAct s f active l = some a) : a.harmless = true := by
  unfold ownAct at h
  dsimp only at h
  split at h
  · rename_i ha
    cases h
    exact harmless_elemCause ha
  split at h
  · rename_i ha
    cases h
    exact harmless_of_findSome? harmless_srcMisuse ha
  split at h
  · split at h <;> cases h
    rfl
  · cases h

end

/-- The outcomes of sources and destinations are harmless (Table 16-1). -/
theorem harmless_laneAct {s : State} {f : Form} {plan : LaneId → List Word → Act} (hp : ∀ l vs, (plan l vs).harmless = true)
    (active : List LaneId) (l : LaneId) : (laneAct s (pureEntry f plan) active l).harmless = true := by
  cases hone : oneAct s f active l with
  | some a => exact laneAct_of_oneAct (plan := plan) hone ▸ harmless_oneAct hone
  | none =>
    cases hown : ownAct s f active l with
    | some a => exact laneAct_of_ownAct (plan := plan) hone hown ▸ harmless_ownAct hown
    | none => exact laneAct_of_none (plan := plan) hone hown ▸ hp l _

theorem harmless_fpResult (m : Word) (d : Nat) (r : Word × Flags) : (fpResult m d r).harmless = true := by
  unfold fpResult
  split <;> rfl

/-! ### Instructions -/

/-- A register instruction without pairs whose own outcomes are harmless. -/
def Harmless (i : Instr) : Prop :=
  ∃ (f : Form) (plan : State → LaneId → List Word → Act), f.pairs = [] ∧ (∀ s l vs, (plan s l vs).harmless = true) ∧
    ∀ s, exec i s = runEntry s i (pureEntry f (plan s))

theorem harmless_of_execHalf {i : Instr} {k : Bool} {d r : Reg5} (f : Word → Word → Word)
    (hi : ∀ s, exec i s = execHalf i k d r f s) : Harmless i :=
  ⟨_, fun _ _ vs => result (reg5 d) (f (val vs 0) (if k then r.zeroExtend 32 else val vs 1)), rfl, fun _ _ _ => rfl, hi⟩

theorem harmless_of_execHalfFp {i : Instr} {k : Bool} {d r : Reg5} (f : Word → Word → Word → Word × Flags)
    (hi : ∀ s, exec i s = execHalfFp i k d r f s) : Harmless i :=
  ⟨_, fun s l vs => fpResult (laneMode s l) d.toNat (f (laneMode s l) (val vs 0) (if k then immFloat r else val vs 1)), rfl,
    fun _ _ _ => harmless_fpResult _ _ _, hi⟩

theorem harmless_of_mem_halfInstrs {k : Bool} {d r : Reg5} {i : Instr} (h : i ∈ halfInstrs k d r) : Harmless i := by
  simp only [halfInstrs, List.mem_cons, List.not_mem_nil, or_false] at h
  rcases h with rfl | rfl | rfl | rfl | rfl | rfl | rfl | rfl | rfl | rfl | rfl | rfl | rfl | rfl | rfl | rfl
  · exact ⟨_, fun _ _ vs => result (reg5 d) (if k then r.zeroExtend 32 else val vs 0), rfl, fun _ _ _ => rfl, fun _ => rfl⟩
  · exact harmless_of_execHalf (· + ·) fun _ => rfl
  · exact harmless_of_execHalf (· - ·) fun _ => rfl
  · exact harmless_of_execHalf (· * ·) fun _ => rfl
  · exact harmless_of_execHalf (· &&& ·) fun _ => rfl
  · exact harmless_of_execHalf (· ||| ·) fun _ => rfl
  · exact harmless_of_execHalf (· ^^^ ·) fun _ => rfl
  · exact harmless_of_execHalf shlWord fun _ => rfl
  · exact harmless_of_execHalf shrWord fun _ => rfl
  · exact harmless_of_execHalf sarWord fun _ => rfl
  · exact harmless_of_execHalf minInt fun _ => rfl
  · exact harmless_of_execHalf maxInt fun _ => rfl
  · exact harmless_of_execHalfFp (fun m => addWords (modeRm m) m false false false) fun _ => rfl
  · exact harmless_of_execHalfFp (fun m => addWords (modeRm m) m false false true) fun _ => rfl
  · exact harmless_of_execHalfFp (fun m => mulWords (modeRm m) m false false false) fun _ => rfl
  · exact harmless_of_execHalfFp (fun m => minMaxWords m false true) fun _ => rfl

/-- On a wave a register instruction without pairs is legal. -/
theorem legalFor_wave {s : State} {f : Form} {plan : LaneId → List Word → Act} (hf : f.pairs = []) (g i : Nat) :
    legalFor s (pureEntry f plan) (.wave g i) = true := by
  simp [legalFor, available, fieldsLegal, pureEntry, hf]

theorem Harmless.spared {i : Instr} (h : Harmless i) {s : State} (hne : issuing s ≠ []) (hw : ∀ l ∈ issuing s, ∃ g j, l = .wave g j) :
    ∃ t, exec i s = .next t ∧ Spared s t := by
  obtain ⟨f, plan, hf, hplan, hexec⟩ := h
  have hactive : activeLanes s s.focus = issuing s := rfl
  have hlegal : (issuing s).all (legalFor s (pureEntry f (plan s))) = true := by
    refine List.all_eq_true.2 fun l hl => ?_
    obtain ⟨g, j, rfl⟩ := hw l hl
    exact legalFor_wave hf g j
  rw [hexec, runEntry, hactive, List.isEmpty_eq_false_iff.2 hne, actsOf, if_pos hlegal]
  refine ⟨_, rfl, spared_finish s (issuing s) fun a ha => ?_⟩
  obtain ⟨l, -, rfl⟩ := List.mem_map.1 ha
  exact harmless_laneAct (hplan s) _ l

end Sys2Proof.Machine
end

section
namespace Sys2Proof.Machine

/-! ### Words -/

/-- The bytes of a 16-bit word whose lowest bit is 0 decode to one of the sixteen. -/
theorem decode_half_word (w : Nat) (heven : w % 2 = 0) :
    ∃ i, decode (leBytes 2 w) = .ok (i, []) ∧ ∃ (k : Bool) (d r : Reg5), i ∈ halfInstrs k d r := by
  let c := BitVec.ofNat 8 (w / 256) ++ BitVec.ofNat 8 w
  have marked : (Code.half c).marked = true := by
    have low : (BitVec.ofNat 8 w).getLsbD 0 = false := by
      rw [BitVec.getLsbD_ofNat, Nat.testBit_zero, heven]
      rfl
    simp only [Code.marked, c, getLsbD_zero_append, low, Bool.not_false]
  exact ⟨decode16 c, (decode_eq_ok ..).2 ⟨.half c, marked, (bytes_half _ _).symm, rfl⟩, _, _, _, decode16_mem c⟩

/-! ### MOV v0, v0 -/

section
variable {s : State} {active : List LaneId} {l : LaneId}

theorem gathered_move_self : gathered s (moveForm false 0 0) active l = [(.elem (laneElem s l 0), src 1 (reg5 0) false)] := by
  have source : gather s active [src 1 (reg5 0) false] l (src 1 (reg5 0) false) = .elem (laneElem s l 0) := by
    cases l <;> rfl
  exact congrArg (fun g => [(g, src 1 (reg5 0) false)]) source

theorem oneAct_move_self_empty {n : Nat} (h : laneElem s l 0 = .empty n) : oneAct s (moveForm false 0 0) active l = some .wait := by
  rw [oneAct, gathered_move_self, h]
  rfl

theorem commonAct_move_self_full {v : Word} (h : laneElem s l 0 = .full v false) : commonAct s (moveForm false 0 0) active l = none := by
  have one : oneAct s (moveForm false 0 0) active l = none := by
    rw [oneAct, gathered_move_self, h]
    rfl
  have own : ownAct s (moveForm false 0 0) active l = none := by
    unfold ownAct
    rw [gathered_move_self, h]
    cases l <;> simp [elemCause, moveForm, halfForm, reg5]
  rw [commonAct, one, own]

theorem operand_move_self {v : Word} (h : laneElem s l 0 = .full v false) : operand s (moveForm false 0 0) l 0 = v := by
  have words : laneVals s (moveForm false 0 0) (issuing s) l =
      (gathered s (moveForm false 0 0) (issuing s) l).map (fun e => gotWord e.1) := rfl
  rw [operand, words, gathered_move_self, h]
  rfl

end

section
variable {s : State} (hw : ∀ l ∈ issuing s, ∃ g j, l = .wave g j)
include hw

/-- An empty v0 holds the issue up. -/
theorem exec_move_self_waits {l : LaneId} {n : Nat} (hl : l ∈ issuing s) (h : laneElem s l 0 = .empty n) :
    exec (.mov16 false 0 0) s = .next s := by
  refine runEntry_waits _ (fun m hm => ?_) hl (laneAct_of_oneAct (oneAct_move_self_empty h))
  obtain ⟨g, j, rfl⟩ := hw m hm
  exact legalFor_wave rfl g j

theorem ready_move_self (hfit : groupsFit s = true) (hne : issuing s ≠ []) (h : ∀ l ∈ issuing s, ∃ v, laneElem s l 0 = .full v false) :
    ready s (moveForm false 0 0) = true := by
  rw [ready, hfit, List.isEmpty_eq_false_iff.2 hne]
  refine List.all_eq_true.2 fun l hl => ?_
  obtain ⟨g, j, rfl⟩ := hw l hl
  obtain ⟨v, hv⟩ := h _ hl
  rw [commonAct_move_self_full hv]
  simp [available, fieldsLegal, moveForm, halfForm]

/-- v0 takes its own words, and the lanes go on. -/
theorem exec_move_self_advances (hfit : groupsFit s = true) (hne : issuing s ≠ [])
    (h : ∀ l ∈ issuing s, ∃ v, laneElem s l 0 = .full v false) : ∃ t, exec (.mov16 false 0 0) s = .next t ∧ Advanced s t 2 ∧
      ∀ l r, lidxOf l < 64 → laneElem t l r = laneElem s l r := by
  obtain ⟨t, ht, done⟩ := gives_one (.mov16 false 0 0) (f := moveForm false 0 0) (d := reg5 0) rfl (fun _ vs => result (reg5 0) (val vs 0))
    (fun l => (operand s (moveForm false 0 0) l 0, 0)) (ready_move_self hw hfit hne h) fun _ _ => rfl
  refine ⟨t, ht, done.advanced, fun l r hr => ?_⟩
  by_cases hw : l ∈ issuing s ∧ r = 0
  · obtain ⟨hl, rfl⟩ := hw
    obtain ⟨v, hv⟩ := h l hl
    have result : laneElem t l 0 = .full (operand s (moveForm false 0 0) l 0) false :=
      done.wrote.results l hl _ (List.mem_singleton_self _)
    rw [result, operand_move_self hv, hv]
  · refine done.wrote.others l r hr fun ⟨hl, w, hwr, hr⟩ => hw ⟨hl, ?_⟩
    rw [← hr, List.mem_singleton.1 hwr]
    rfl

end

end Sys2Proof.Machine
end

section
open Sys2Proof Sys2Proof.Machine

/-- Settles O24: the opcode of a 16-bit word has sixteen values, one for each instruction; none of their outcomes is cause 0x01, and the end
of an issue adds no other cause but that of a missing frame. -/
theorem sixteenBitWordsAreDefined : Obligations.SixteenBitWordsAreDefined := by
  unfold Obligations.SixteenBitWordsAreDefined
  refine ⟨fun w _ heven => ?_, by decide, fun s hfit hne hwaves => ⟨?_, exec_move_self_advances hwaves hfit hne⟩⟩
  · obtain ⟨i, hi, k, d, r, hmem⟩ := decode_half_word w heven
    refine ⟨i, hi, ⟨k, d, r, hmem⟩, fun s hwaves hne => ?_⟩
    obtain ⟨t, ht, hst⟩ := (harmless_of_mem_halfInstrs hmem).spared hne hwaves
    refine ⟨t, ht, fun g n x y hx hy => ?_⟩
    obtain ⟨y', hy', hxy⟩ := hst g n x hx
    obtain rfl : y = y' := Option.some.inj (hy.symm.trans hy')
    exact ⟨fun f fs hf hl => hxy.top hf hl, fun h hh hne => hxy.new_halt hh hne⟩
  · rintro ⟨l, hl, n, hempty⟩
    exact exec_move_self_waits hwaves hl hempty

end

section
/-! A group whose lanes have all exited, and whose one slice runs a handler all the same. -/

namespace Sys2Proof.Machine

/-- A slice of four lanes that run the handler of a TRAP at 0x8000. -/
def handlingSlice : Slice :=
  { plainSlice with
    frames := [trapFrame { cause := 0x0D, tlanes := sliceMask 0, tdone := 0, taddr := [], pops := [] } 0x2000 0x8000 (sliceMask 0)] }

/-- Group 2 in its wave slot: v0 of lane 0 is 7, its lanes have all exited, and its slice runs a handler. -/
def exitedHandler : State :=
  let s := groupTwice handlingSlice []
  { s with work := { s.work with groups := [(2, { oneSlice handlingSlice with exited := sliceMask 0, regs := [(0, .full 7 false)] })] } }

theorem issuing_exitedHandler : issuing exitedHandler = [.wave 2 0, .wave 2 1, .wave 2 2, .wave 2 3] := by decide +kernel

/-- Its one slice has the vector, no debug mask and two frames to spare. -/
theorem trapsFit_exitedHandler : trapsFit exitedHandler 1 := by
  have lanes : ∀ l ∈ issuing exitedHandler, inGroup 2 l = true ∧ lidxOf l / 4 = 0 := by rw [issuing_exitedHandler]; decide
  rintro g n x ⟨i, hi, rfl⟩ hx
  obtain ⟨hg, hn⟩ := lanes _ hi
  obtain rfl : g = 2 := by simpa [inGroup] using hg
  change i / 4 = 0 at hn
  rw [hn]
  obtain rfl := Option.some.inj hx
  decide +kernel

theorem handling_exitedHandler : ∀ l ∈ issuing exitedHandler, (∃ g i, l = .wave g i) ∧ laneHandler exitedHandler l = true := by
  have handles : ∀ l ∈ issuing exitedHandler, laneHandler exitedHandler l = true := by rw [issuing_exitedHandler]; decide +kernel
  refine fun l hl => ⟨?_, handles l hl⟩
  rw [issuing_exitedHandler] at hl
  fin_cases hl <;> exact ⟨_, _, rfl⟩

/-- The end of the issue ends the group, which gives its registers up. -/
theorem bar_exitedHandler_register : (match exec (.bar 0) exitedHandler with
    | .next t => some (laneElem t (.wave 2 0) 0)
    | _ => none) = some (.full 0 false) := by
  decide +kernel

end Sys2Proof.Machine
end

section
open Sys2Proof Sys2Proof.Machine

/-- Refutes O32: the statement is about every state, also one in which a group's lanes run a handler after they have all exited. BAR takes
cause 0x01 there, but the end of an issue that may move slices looks whether the group is over: it ends the group, and the registers are
gone. -/
theorem not_contextConditions : ¬ Obligations.ContextConditions := by
  unfold Obligations.ContextConditions
  intro h
  obtain ⟨c, hc, -⟩ := encodeThenDecode (.bar 0) [] rfl rfl
  obtain ⟨bar, -⟩ := h exitedHandler (by decide +kernel) (by rw [issuing_exitedHandler]; nofun)
  obtain ⟨t, ht, trapped⟩ := bar handling_exitedHandler trapsFit_exitedHandler 0 c hc
  have kept : laneElem t (.wave 2 0) 0 = .full 7 false := trapped.regs (.wave 2 0) 0 (by decide)
  have gone := bar_exitedHandler_register
  rw [ht] at gone
  exact absurd (kept.symm.trans (Option.some.inj gone)) (by decide)

end

section
/-! Rounding to a format with infinities (R111, R114): magnitude codes are in the order of their values, the rounding of a magnitude starts
from the two neighbouring codes that enclose it, and each mode takes the one that it asks for. -/

namespace Sys2Proof.Machine

/-! ### Powers of two and exact values -/

theorem zpow_of_nonneg {e : Int} (h : 0 ≤ e) : (2 : ℚ) ^ e = 2 ^ e.toNat := by
  rw [← zpow_natCast, Int.toNat_of_nonneg h]

theorem zpow_of_neg {e : Int} (h : ¬ 0 ≤ e) : (2 : ℚ) ^ e = (2 ^ (-e).toNat)⁻¹ := by
  rw [← zpow_natCast, Int.toNat_of_nonneg (by omega), zpow_neg, inv_inv]

theorem isFin_scaled (neg : Bool) (m : Nat) (e : Int) : isFin (scaled neg m e) = true := by
  unfold scaled
  split
  · exact (isFin_fin _ _ _).2 one_ne_zero
  · exact (isFin_fin _ _ _).2 (pow_ne_zero _ two_ne_zero)

/-- A sign as a factor. -/
def signFactor (neg : Bool) : ℚ := if neg then -1 else 1

theorem numVal_eq (neg : Bool) (a b : Nat) : numVal (.fin neg a b) = signFactor neg * (a / b) := mul_div_assoc _ _ _

theorem numVal_scaled (neg : Bool) (m : Nat) (e : Int) : numVal (scaled neg m e) = signFactor neg * (m * 2 ^ e) := by
  unfold scaled
  split
  case isTrue h => simp [numVal_eq, zpow_of_nonneg h]
  case isFalse h => simp [numVal_eq, zpow_of_neg h, div_eq_mul_inv]

/-! ### The exponent and the quotient of a magnitude -/

theorem magExp_eq {num den : Nat} (hd : den ≠ 0) :
    magExp num den = if (num : ℚ) / den < 2 ^ ((num.log2 : Int) - den.log2) then (num.log2 : Int) - den.log2 - 1
      else (num.log2 : Int) - den.log2 := by
  have hden : (0 : ℚ) < den := by positivity
  unfold magExp
  dsimp only
  by_cases h : 0 ≤ (num.log2 : Int) - den.log2
  · have below : (num : ℚ) / den < 2 ^ ((num.log2 : Int) - den.log2) ↔ num < den * 2 ^ ((num.log2 : Int) - den.log2).toNat := by
      rw [div_lt_iff₀ hden, zpow_of_nonneg h, mul_comm]
      exact_mod_cast Iff.rfl
    simp only [h, below, if_true]
  · have below : (num : ℚ) / den < 2 ^ ((num.log2 : Int) - den.log2) ↔ num * 2 ^ (-((num.log2 : Int) - den.log2)).toNat < den := by
      rw [div_lt_iff₀ hden, zpow_of_neg h, inv_mul_eq_div, lt_div_iff₀ (by positivity)]
      exact_mod_cast Iff.rfl
    simp only [h, below, if_false]

/-- The exponent of a magnitude is the one of its leading bit. -/
theorem magExp_spec {num den : Nat} (hn : num ≠ 0) (hd : den ≠ 0) :
    (2 : ℚ) ^ magExp num den ≤ num / den ∧ (num : ℚ) / den < 2 ^ (magExp num den + 1) := by
  have hden : (0 : ℚ) < den := by positivity
  have numLow : (2 : ℚ) ^ num.log2 ≤ num := by exact_mod_cast Nat.log2_self_le hn
  have numHigh : (num : ℚ) < 2 ^ (num.log2 + 1) := by exact_mod_cast Nat.lt_log2_self
  have denLow : (2 : ℚ) ^ den.log2 ≤ den := by exact_mod_cast Nat.log2_self_le hd
  have denHigh : (den : ℚ) < 2 ^ (den.log2 + 1) := by exact_mod_cast Nat.lt_log2_self
  have low : (2 : ℚ) ^ ((num.log2 : Int) - den.log2 - 1) ≤ num / den := by
    have split : (2 : ℚ) ^ ((num.log2 : Int) - den.log2 - 1) = 2 ^ num.log2 / 2 ^ (den.log2 + 1) := by
      rw [sub_sub, zpow_sub₀ two_ne_zero]
      norm_cast
    rw [split]
    exact div_le_div₀ (by positivity) numLow hden denHigh.le
  have high : (num : ℚ) / den < 2 ^ ((num.log2 : Int) - den.log2 + 1) := by
    have split : (2 : ℚ) ^ ((num.log2 : Int) - den.log2 + 1) = 2 ^ (num.log2 + 1) / 2 ^ den.log2 := by
      rw [sub_add_eq_add_sub, zpow_sub₀ two_ne_zero]
      norm_cast
    rw [split]
    exact div_lt_div₀ numHigh denLow (by positivity) (by positivity)
  rw [magExp_eq hd]
  split
  case isTrue h => exact ⟨low, by rwa [sub_add_cancel]⟩
  case isFalse h => exact ⟨not_lt.1 h, high⟩

/-- A quotient and remainder over a power of two. -/
theorem divScaled_spec {num den : Nat} (hd : den ≠ 0) (q : Int) :
    (divScaled num den q).2.1 < (divScaled num den q).2.2 ∧
      (num : ℚ) / den = ((divScaled num den q).1 + (divScaled num den q).2.1 / (divScaled num den q).2.2) * 2 ^ q := by
  have euclid (n d : Nat) (h : d ≠ 0) : ((n / d : Nat) + (n % d : Nat) / (d : ℚ)) = n / d := by
    rw [eq_div_iff (by exact_mod_cast h), add_mul, div_mul_cancel₀ _ (by exact_mod_cast h)]
    exact_mod_cast Nat.div_add_mod' n d
  have hden : (den : ℚ) ≠ 0 := by exact_mod_cast hd
  unfold divScaled
  split
  case isTrue h =>
    have hscaled : den * 2 ^ q.toNat ≠ 0 := by positivity
    refine ⟨Nat.mod_lt _ (Nat.pos_of_ne_zero hscaled), ?_⟩
    rw [euclid _ _ hscaled, zpow_of_nonneg h]
    push_cast
    field_simp
  case isFalse h =>
    refine ⟨Nat.mod_lt _ (Nat.pos_of_ne_zero hd), ?_⟩
    rw [euclid _ _ hd, zpow_of_neg h]
    push_cast
    field_simp

/-! ### Magnitude codes -/

/-- The spacing of the codes of binade `j`, where binade 0 is that of the subnormals and of the least normals. -/
def spacing (f : Fmt) (j : Nat) : ℚ := 2 ^ ((j : Int) + 1 - f.bias - f.fbits)

theorem spacing_pos (f : Fmt) (j : Nat) : 0 < spacing f j := zpow_pos two_pos _

theorem spacing_succ (f : Fmt) (j : Nat) : spacing f (j + 1) = 2 * spacing f j := by
  unfold spacing
  rw [← zpow_one_add₀ two_ne_zero]
  congr 1
  push_cast
  ring

/-- The value of a magnitude code (R111), also of one that exceeds the format's largest. -/
def magVal (f : Fmt) (c : Nat) : ℚ :=
  if c / 2 ^ f.fbits = 0 then (c % 2 ^ f.fbits : Nat) * spacing f 0
  else (2 ^ f.fbits + c % 2 ^ f.fbits : Nat) * spacing f (c / 2 ^ f.fbits - 1)

/-- A code whose significand, `k` units of its binade, may have just outgrown the binade. -/
theorem magVal_binade (f : Fmt) {j k : Nat} (hk : k ≤ 2 ^ (f.fbits + 1)) (hj : j ≠ 0 → 2 ^ f.fbits ≤ k) :
    magVal f (j * 2 ^ f.fbits + k) = k * spacing f j := by
  have hpos : 0 < 2 ^ f.fbits := by positivity
  rw [pow_succ] at hk
  have quotient : (j * 2 ^ f.fbits + k) / 2 ^ f.fbits = j + k / 2 ^ f.fbits := by
    rw [add_comm, Nat.add_mul_div_right _ _ hpos, add_comm]
  have remainder : (j * 2 ^ f.fbits + k) % 2 ^ f.fbits = k % 2 ^ f.fbits := Nat.mul_add_mod' ..
  unfold magVal
  rw [quotient, remainder]
  rcases lt_or_ge k (2 ^ f.fbits) with hlow | hlow
  · obtain rfl : j = 0 := by by_contra h; exact absurd (hj h) hlow.not_ge
    rw [Nat.div_eq_of_lt hlow, Nat.mod_eq_of_lt hlow, if_pos rfl]
  · rcases lt_or_eq_of_le hk with hhigh | rfl
    · have one : k / 2 ^ f.fbits = 1 := Nat.div_eq_of_lt_le (by omega) (by omega)
      rw [one, if_neg (by omega), Nat.mod_eq_sub_mul_div, one, mul_one, Nat.add_sub_cancel' hlow, Nat.add_sub_cancel]
    · rw [Nat.mul_div_cancel_left _ hpos, Nat.mul_mod_right, if_neg (by omega), Nat.add_succ_sub_one, spacing_succ]
      push_cast
      ring

/-- The codes of a binade that a code and its successor are of. -/
theorem exists_binade (f : Fmt) (c : Nat) :
    ∃ j k, c = j * 2 ^ f.fbits + k ∧ k < 2 ^ (f.fbits + 1) ∧ (j ≠ 0 → 2 ^ f.fbits ≤ k) := by
  have hpos : 0 < 2 ^ f.fbits := by positivity
  have hmod := Nat.mod_lt c hpos
  have hdiv := Nat.div_add_mod' c (2 ^ f.fbits)
  rw [pow_succ]
  rcases Nat.eq_zero_or_pos (c / 2 ^ f.fbits) with h | h
  · rw [h] at hdiv
    exact ⟨0, c, by omega, by omega, by omega⟩
  · obtain ⟨j, hj⟩ := Nat.exists_eq_succ_of_ne_zero h.ne'
    rw [hj, Nat.succ_mul] at hdiv
    exact ⟨j, 2 ^ f.fbits + c % 2 ^ f.fbits, by omega, by omega, by omega⟩

theorem magVal_strictMono (f : Fmt) : StrictMono (magVal f) := by
  refine strictMono_nat_of_lt_succ fun c => ?_
  obtain ⟨j, k, rfl, hk, hj⟩ := exists_binade f c
  rw [add_assoc, magVal_binade f hk.le hj, magVal_binade f hk fun h => (hj h).trans k.le_succ]
  have := spacing_pos f j
  push_cast
  linarith

theorem magVal_zero (f : Fmt) : magVal f 0 = 0 := by simp [magVal]

theorem magVal_nonneg (f : Fmt) (c : Nat) : 0 ≤ magVal f c :=
  (magVal_zero f).symm.le.trans ((magVal_strictMono f).monotone c.zero_le)

/-- Every magnitude code is at or below a code, or at or above its successor. -/
theorem magVal_le_or_succ_le (f : Fmt) (lo c : Nat) : magVal f c ≤ magVal f lo ∨ magVal f (lo + 1) ≤ magVal f c :=
  (le_or_gt c lo).imp (fun h => (magVal_strictMono f).monotone h) fun h => (magVal_strictMono f).monotone h

/-! ### Rounded magnitudes -/

/-- A significand whose unit is fine enough for the leading bit fits the format. -/
theorem significand_lt {X : ℚ} {e q : Int} {k n : Nat} (hk : k * 2 ^ q ≤ X) (hX : X < 2 ^ (e + 1)) (hq : e - n ≤ q) : k < 2 ^ (n + 1) := by
  have top : (2 : ℚ) ^ (e + 1) ≤ 2 ^ (n + 1) * 2 ^ q := by
    rw [← zpow_natCast, ← zpow_add₀ two_ne_zero]
    exact zpow_le_zpow_right₀ one_le_two (by push_cast; omega)
  have := lt_of_mul_lt_mul_right (hk.trans_lt (hX.trans_le top)) (zpow_pos two_pos q).le
  exact_mod_cast this

/-- A significand whose unit is coarse enough for the leading bit has the format's leading bit. -/
theorem le_significand {X : ℚ} {e q : Int} {k n : Nat} (hk : X < (k + 1) * 2 ^ q) (hX : 2 ^ e ≤ X) (hq : q ≤ e - n) : 2 ^ n ≤ k := by
  have bottom : (2 : ℚ) ^ n * 2 ^ q ≤ 2 ^ e := by
    rw [← zpow_natCast, ← zpow_add₀ two_ne_zero]
    exact zpow_le_zpow_right₀ one_le_two (by omega)
  have := lt_of_mul_lt_mul_right ((bottom.trans hX).trans_lt hk) (zpow_pos two_pos q).le
  exact Nat.lt_succ_iff.1 (by exact_mod_cast this)

/-- A fraction of a unit. -/
theorem fraction_mem {r d : Nat} (h : r < d) : 0 ≤ (r : ℚ) / d ∧ (r : ℚ) / d < 1 :=
  ⟨by positivity, (div_lt_one (by exact_mod_cast r.zero_le.trans_lt h)).2 (by exact_mod_cast h)⟩

/-- A magnitude is rounded from the code `lo` below it, which it exceeds by `r / d` of the way to the next code: to that code or the next. -/
theorem roundMag_spec (f : Fmt) (rm : RMode) (neg : Bool) (num : Nat) {den : Nat} (hd : den ≠ 0) :
    ∃ lo k r d : Nat, r < d ∧ (num : ℚ) / den = magVal f lo + r / d * (magVal f (lo + 1) - magVal f lo) ∧
      (roundMag f rm neg num den).1 = if roundUp rm neg k r d then lo + 1 else lo := by
  unfold roundMag
  split
  case isTrue hn =>
    have down : roundUp rm neg 0 0 1 = false := by cases rm <;> rfl
    exact ⟨0, 0, 0, 1, one_pos, by simp [hn, magVal_zero], by rw [down]; rfl⟩
  case isFalse hn =>
    obtain ⟨low, high⟩ := magExp_spec hn hd
    have quotient := divScaled_spec (num := num) hd (max (magExp num den - f.fbits) (1 - (f.bias : Int) - f.fbits))
    dsimp only
    generalize hq : max (magExp num den - f.fbits) (1 - (f.bias : Int) - f.fbits) = q at quotient ⊢
    generalize divScaled num den q = x at quotient ⊢
    obtain ⟨k, r, d⟩ := x
    obtain ⟨hr, hx⟩ := quotient
    dsimp only at hr hx ⊢
    obtain ⟨hfrac, hfrac1⟩ := fraction_mem hr
    obtain ⟨j, hj⟩ : ∃ j : Nat, (j : Int) = q + f.fbits + f.bias - 1 := ⟨_, Int.toNat_of_nonneg (by omega)⟩
    have unit : spacing f j = 2 ^ q := by rw [spacing]; congr 1; omega
    have floor : k * 2 ^ q ≤ (num : ℚ) / den := by
      rw [hx]; exact mul_le_mul_of_nonneg_right (by linarith) (zpow_pos two_pos q).le
    have ceil : (num : ℚ) / den < (k + 1) * 2 ^ q := by
      rw [hx]; exact mul_lt_mul_of_pos_right (by linarith) (zpow_pos two_pos q)
    have hk : k < 2 ^ (f.fbits + 1) := significand_lt floor high (by omega)
    have hjk (h : j ≠ 0) : 2 ^ f.fbits ≤ k := le_significand ceil low (by omega)
    refine ⟨j * 2 ^ f.fbits + k, k, r, d, hr, ?_, ?_⟩
    · rw [add_assoc, magVal_binade f hk.le hjk, magVal_binade f hk fun h => (hjk h).trans k.le_succ, hx, unit]
      push_cast
      ring
    · rw [← hj, Int.toNat_natCast]
      split <;> rfl

/-! ### Finite codes -/

/-- The magnitude code of infinity: the finite ones are below it. -/
theorem fmtInf_eq {f : Fmt} (hi : f.hasInf = true) : fmtInf f = (2 ^ f.ebits - 1) * 2 ^ f.fbits := by simp [fmtInf, hi]

theorem lt_fmtInf_of_le_fmtMax {f : Fmt} (hi : f.hasInf = true) (he : f.ebits ≠ 0) {m : Nat} (hm : m ≤ fmtMax f) : m < fmtInf f := by
  have : 1 < 2 ^ f.ebits := Nat.one_lt_two_pow he
  have : 0 < (2 ^ f.ebits - 1) * 2 ^ f.fbits := Nat.mul_pos (by omega) (by positivity)
  rw [fmtInf_eq hi]
  simp only [fmtMax, hi, if_true] at hm
  omega

theorem div_lt_of_lt_fmtInf {f : Fmt} (hi : f.hasInf = true) {m : Nat} (hm : m < fmtInf f) : m / 2 ^ f.fbits < 2 ^ f.ebits - 1 := by
  rw [fmtInf_eq hi] at hm
  exact Nat.div_lt_of_lt_mul (by rwa [mul_comm])

theorem lt_pow_of_lt_fmtInf {f : Fmt} (hi : f.hasInf = true) {m : Nat} (hm : m < fmtInf f) : m < 2 ^ (f.ebits + f.fbits) := by
  rw [fmtInf_eq hi] at hm
  rw [pow_add]
  exact hm.trans_le (Nat.mul_le_mul_right _ (Nat.sub_le ..))

/-- The sign, exponent and fraction of a code with a sign. -/
theorem withSign_fields (f : Fmt) (neg : Bool) {m : Nat} (hm : m < 2 ^ (f.ebits + f.fbits)) :
    bit (withSign f neg m) (f.ebits + f.fbits) = neg ∧ withSign f neg m / 2 ^ f.fbits % 2 ^ f.ebits = m / 2 ^ f.fbits ∧
      withSign f neg m % 2 ^ f.fbits = m % 2 ^ f.fbits := by
  have hpos : 0 < 2 ^ f.fbits := by positivity
  have hex : m / 2 ^ f.fbits < 2 ^ f.ebits := Nat.div_lt_of_lt_mul (by rwa [mul_comm, ← pow_add])
  cases neg with
  | false => exact ⟨by simp [bit, withSign, Nat.div_eq_of_lt hm], Nat.mod_eq_of_lt hex, rfl⟩
  | true =>
    have top : (m + 2 ^ (f.ebits + f.fbits)) / 2 ^ (f.ebits + f.fbits) = 1 := by
      rw [Nat.add_div_right _ (by positivity), Nat.div_eq_of_lt hm]
    refine ⟨by simp [bit, withSign, top], ?_, ?_⟩
    · simp [withSign, pow_add, Nat.add_mul_div_right _ _ hpos, Nat.mod_eq_of_lt hex]
    · simp [withSign, pow_add]

theorem decodeFp_finite {f : Fmt} (hi : f.hasInf = true) (neg : Bool) {m : Nat} (hm : m < fmtInf f) :
    numVal (decodeFp f (withSign f neg m)) = signFactor neg * magVal f m := by
  obtain ⟨sign, exponent, fraction⟩ := withSign_fields f neg (lt_pow_of_lt_fmtInf hi hm)
  have finite := (div_lt_of_lt_fmtInf hi hm).ne
  unfold decodeFp magVal
  simp only [sign, exponent, fraction, hi, finite, decide_false, Bool.and_false, Bool.not_true, Bool.false_and, Bool.false_eq_true, if_false]
  split
  · rw [numVal_scaled]
    simp [spacing]
  case isFalse h =>
    rw [numVal_scaled, spacing]
    congr 3
    have := Nat.pos_of_ne_zero h
    omega

/-- Every finite code is a sign and a magnitude code below infinity's. -/
theorem exists_withSign_of_finite {f : Fmt} (hi : f.hasInf = true) {c : Nat} (hc : c < 2 ^ fmtWidth f) (hfin : isFin (decodeFp f c) = true) :
    ∃ neg m, m < fmtInf f ∧ c = withSign f neg m := by
  have hpos : 0 < 2 ^ (f.ebits + f.fbits) := by positivity
  obtain ⟨neg, m, hm, rfl⟩ : ∃ neg m, m < 2 ^ (f.ebits + f.fbits) ∧ c = withSign f neg m := by
    rw [fmtWidth, add_assoc, pow_add, pow_one] at hc
    by_cases h : c < 2 ^ (f.ebits + f.fbits)
    · exact ⟨false, c, h, rfl⟩
    · exact ⟨true, c - 2 ^ (f.ebits + f.fbits), by omega, by simp only [withSign, if_true]; omega⟩
  refine ⟨neg, m, ?_, rfl⟩
  obtain ⟨-, exponent, -⟩ := withSign_fields f neg hm
  have hne : m / 2 ^ f.fbits ≠ 2 ^ f.ebits - 1 := fun h => by
    unfold decodeFp at hfin
    simp only [exponent, h, hi, decide_true, Bool.and_true, if_true] at hfin
    split at hfin <;> cases hfin
  have hex : m / 2 ^ f.fbits < 2 ^ f.ebits := Nat.div_lt_of_lt_mul (by rwa [mul_comm, ← pow_add])
  rw [fmtInf_eq hi]
  exact (Nat.div_lt_iff_lt_mul (by positivity)).1 (by omega)

/-! ### Signs -/

theorem abs_signFactor_mul (neg : Bool) (q : ℚ) : |signFactor neg * q| = |q| := by cases neg <;> simp [signFactor]

/-- Seen from a sign, no finite value of either sign lies between two neighbouring magnitudes. -/
theorem exists_relative (f : Fmt) (neg neg' : Bool) (m lo : Nat) :
    ∃ t, signFactor neg' * magVal f m = signFactor neg * t ∧ |t| = magVal f m ∧ (t ≤ magVal f lo ∨ magVal f (lo + 1) ≤ t) := by
  have hm := magVal_nonneg f m
  have hlo := magVal_nonneg f lo
  rcases Bool.eq_or_eq_not neg' neg with rfl | rfl
  · exact ⟨magVal f m, rfl, abs_of_nonneg hm, magVal_le_or_succ_le f lo m⟩
  · exact ⟨-magVal f m, by cases neg <;> simp [signFactor], by rw [abs_neg, abs_of_nonneg hm], .inl (by linarith)⟩

/-! ### The choice between two neighbours -/

section
variable {A B X t ρ : ℚ} (hAB : A < B) (h0 : 0 ≤ ρ) (h1 : ρ < 1) (hX : X = A + ρ * (B - A)) (ht : t ≤ A ∨ B ≤ t)
include hAB h0 h1 hX ht

/-- The lower neighbour is the greatest value that is not above. -/
theorem lower_neighbour : A ≤ X ∧ (t ≤ X → t ≤ A) := by
  have : 0 ≤ ρ * (B - A) := mul_nonneg h0 (by linarith)
  have : ρ * (B - A) < 1 * (B - A) := mul_lt_mul_of_pos_right h1 (by linarith)
  refine ⟨by linarith, fun h => ?_⟩
  rcases ht with ht | ht
  · exact ht
  · linarith

/-- The upper neighbour, or the value itself where it is one of the format, is the least value that is not below. -/
theorem upper_neighbour : X ≤ (if ρ = 0 then A else B) ∧ (X ≤ t → (if ρ = 0 then A else B) ≤ t) := by
  have : ρ * (B - A) < 1 * (B - A) := mul_lt_mul_of_pos_right h1 (by linarith)
  split
  case isTrue h =>
    rw [h] at hX
    exact ⟨by linarith, fun _ => by linarith⟩
  case isFalse h =>
    have : 0 < ρ * (B - A) := mul_pos (h0.lt_of_ne' h) (by linarith)
    refine ⟨by linarith, fun h => ?_⟩
    rcases ht with ht | ht
    · linarith
    · exact ht

/-- A neighbour at least as near as the other is as near as any value. -/
theorem nearest_neighbour {up : Bool} (hup : if up then 1 ≤ 2 * ρ else 2 * ρ ≤ 1) : |(if up then B else A) - X| ≤ |t - X| := by
  have : 0 ≤ ρ * (B - A) := mul_nonneg h0 (by linarith)
  have : ρ * (B - A) < 1 * (B - A) := mul_lt_mul_of_pos_right h1 (by linarith)
  cases up with
  | false =>
    have : 2 * ρ * (B - A) ≤ 1 * (B - A) := mul_le_mul_of_nonneg_right hup (by linarith)
    rw [if_neg Bool.false_ne_true, abs_of_nonpos (by linarith)]
    rcases ht with ht | ht
    · exact (by linarith : _ ≤ -(t - X)).trans (neg_le_abs _)
    · exact (by linarith : _ ≤ t - X).trans (le_abs_self _)
  | true =>
    have : 1 * (B - A) ≤ 2 * ρ * (B - A) := mul_le_mul_of_nonneg_right hup (by linarith)
    rw [if_pos rfl, abs_of_nonneg (by linarith)]
    rcases ht with ht | ht
    · exact (by linarith : _ ≤ -(t - X)).trans (neg_le_abs _)
    · exact (by linarith : _ ≤ t - X).trans (le_abs_self _)

end

/-- Rounding to nearest goes to the neighbour at least as near. -/
theorem roundUp_rne {neg : Bool} {k r d : Nat} (h : r < d) :
    if roundUp .rne neg k r d then 1 ≤ 2 * ((r : ℚ) / d) else 2 * ((r : ℚ) / d) ≤ 1 := by
  have hd : (0 : ℚ) < d := by exact_mod_cast r.zero_le.trans_lt h
  rw [← mul_div_assoc]
  split
  case isTrue h =>
    simp only [roundUp, Bool.or_eq_true, Bool.and_eq_true, decide_eq_true_eq] at h
    exact (one_le_div hd).2 (by exact_mod_cast (by omega : d ≤ 2 * r))
  case isFalse h =>
    simp only [roundUp, Bool.or_eq_true, Bool.and_eq_true, decide_eq_true_eq] at h
    exact (div_le_one hd).2 (by exact_mod_cast (by omega : 2 * r ≤ d))

/-- Rounding away from zero goes up wherever there is a remainder. -/
theorem magVal_away (f : Fmt) (lo : Nat) {r d : Nat} (h : r < d) :
    magVal f (if (decide (r ≠ 0)) then lo + 1 else lo) = if (r : ℚ) / d = 0 then magVal f lo else magVal f (lo + 1) := by
  have hd : (d : ℚ) ≠ 0 := by exact_mod_cast (r.zero_le.trans_lt h).ne'
  by_cases hr : r = 0 <;> simp [hr, hd]

/-! ### Results -/

/-- A result without the overflow flag is the rounded magnitude with the sign of the exact value. -/
theorem roundFp_of_not_overflow {f : Fmt} {rm : RMode} {neg : Bool} {num den : Nat}
    (h : (roundFp f rm false (.fin neg num den)).2 / 4 % 2 = 0) :
    (roundMag f rm neg num den).1 ≤ fmtMax f ∧
      (roundFp f rm false (.fin neg num den)).1 = withSign f neg (roundMag f rm neg num den).1 := by
  unfold roundFp at h ⊢
  dsimp only at h ⊢
  by_cases hover : fmtMax f < (roundMag f rm neg num den).1
  · rw [if_pos hover] at h
    exact absurd h (show (flOvf + flInx) / 4 % 2 ≠ 0 by decide)
  · refine ⟨not_lt.1 hover, ?_⟩
    rw [if_neg hover, Bool.false_and, Bool.false_and, if_neg Bool.false_ne_true]
    split <;> rfl

end Sys2Proof.Machine
end

section
open Sys2Proof Sys2Proof.Machine

/-- Settles O6: the result is one of the two codes that enclose the exact magnitude, and every other finite value, of either sign, lies
beyond one of them. -/
theorem roundingChoosesTheNeighbour : Obligations.RoundingChoosesTheNeighbour := by
  intro f hf neg num den hden rm x r v _ hover c hc hfin
  obtain ⟨hi, he⟩ : f.hasInf = true ∧ f.ebits ≠ 0 := by rcases hf with rfl | rfl | rfl <;> decide
  obtain ⟨hmax, hr⟩ := roundFp_of_not_overflow hover
  obtain ⟨lo, k, rem, d, hrem, hx, hcode⟩ := roundMag_spec f rm neg num hden
  obtain ⟨neg', m, hm, rfl⟩ := exists_withSign_of_finite hi hc hfin
  obtain ⟨h0, h1⟩ := fraction_mem hrem
  have next : magVal f lo < magVal f (lo + 1) := magVal_strictMono f lo.lt_succ_self
  have hv : v = signFactor neg * magVal f (roundMag f rm neg num den).1 := by
    change numVal (decodeFp f (roundFp f rm false (.fin neg num den)).1) = _
    rw [hr, decodeFp_finite hi neg (lt_fmtInf_of_le_fmtMax hi he hmax)]
  have hx' : x = signFactor neg * (num / den) := numVal_eq neg num den
  obtain ⟨t, ht, habs, beyond⟩ := exists_relative f neg neg' m lo
  have down := lower_neighbour next h0 h1 hx beyond
  have up := upper_neighbour next h0 h1 hx beyond
  rw [← magVal_away f lo hrem] at up
  rw [decodeFp_finite hi neg' hm, ht, hv, hx', hcode]
  cases rm with
  | rne =>
    have nearest := nearest_neighbour next h0 h1 hx beyond (roundUp_rne (neg := neg) (k := k) hrem)
    dsimp only
    rw [← mul_sub, ← mul_sub, abs_signFactor_mul, abs_signFactor_mul, apply_ite (magVal f)]
    exact nearest
  | rtz =>
    have magnitude := lower_neighbour next h0 h1 hx (magVal_le_or_succ_le f lo m)
    have positive : (0 : ℚ) ≤ num / den := by positivity
    simp only [abs_signFactor_mul, habs, abs_of_nonneg (magVal_nonneg f _), abs_of_nonneg positive]
    exact magnitude
  | rup =>
    cases neg with
    | false => simpa [signFactor, roundUp] using up
    | true => simpa [signFactor, roundUp] using down
  | rdn =>
    cases neg with
    | false => simpa [signFactor, roundUp] using down
    | true => simpa [signFactor, roundUp] using up

end

section
/-! SYSRD and CYC (R46, R120, R415): issues that complete with one result and at most move on in the open choices, and what each control
register gives. -/

namespace Sys2Proof.Machine

/-! ### Issues that move on in the open choices -/

theorem Kept.freeIx {s t : State} (h : Kept s t) (n : Nat) : Kept s { t with freeIx := n } := { h with }

theorem Steady.freeIx {s t : State} (h : Steady s t) (n : Nat) : Steady s { t with freeIx := n } := { h with }

theorem laneElem_freeIx (s : State) (n : Nat) (l : LaneId) (r : Nat) : laneElem { s with freeIx := n } l r = laneElem s l r := by
  cases l <;> rfl

theorem setLaneElem_freeIx (s : State) (n : Nat) (l : LaneId) (r : Nat) (e : Elem) :
    setLaneElem { s with freeIx := n } l r e = { setLaneElem s l r e with freeIx := n } := by
  cases l with
  | wave g i => rw [setLaneElem_wave, setLaneElem_wave]; split <;> rfl
  | grip k => rfl
  | mgmt k => rfl

theorem writeLanes_freeIx (s : State) (n : Nat) (l : LaneId) (ws : List (Nat × Word)) :
    writeLanes { s with freeIx := n } l ws = { writeLanes s l ws with freeIx := n } := by
  unfold writeLanes
  induction ws generalizing s with
  | nil => rfl
  | cons w ws ih => exact (congrArg (List.foldl _ · ws) (setLaneElem_freeIx s n l w.1 _)).trans (ih _)

/-- Effects that only move on in the open choices leave the state after the writes, but for the place in those choices. -/
theorem effects_freeIx (s : State) (e : Entry) (ws : LaneId → List (Nat × Word)) (he : ∀ l vs u, ∃ n, e.eff l vs u = { u with freeIx := n }) :
    ∃ n, effects s e ws = { writeAll s (issuing s) ws with freeIx := n } := by
  have fold (ls : List LaneId) (u : State) (n : Nat) : ∃ k,
      ls.foldl (fun u l => e.eff l (laneVals s e.form (issuing s) l) (writeLanes u l (ws l))) { u with freeIx := n } =
        { writeAll u ls ws with freeIx := k } := by
    induction ls generalizing u n with
    | nil => exact ⟨n, rfl⟩
    | cons l ls ih =>
      obtain ⟨k, hk⟩ := he l (laneVals s e.form (issuing s) l) (writeLanes { u with freeIx := n } l (ws l))
      rw [List.foldl_cons, hk, writeLanes_freeIx]
      exact ih (writeLanes u l (ws l)) k
  exact fold (issuing s) s s.freeIx

/-- The law of a register instruction whose effects move on in the open choices. -/
theorem runEntry_completed (s : State) (i : Instr) (e : Entry) (ws : LaneId → List (Nat × Word)) (fl : LaneId → Flags)
    (hr : ready s e.form = true) (hl : ∀ l ∈ issuing s, e.legal l = true)
    (hb : ∀ l ∈ issuing s, e.before l (laneVals s e.form (issuing s) l) = none) (ho : e.once = none)
    (he : ∀ l vs u, ∃ n, e.eff l vs u = { u with freeIx := n })
    (hp : ∀ l ∈ issuing s, e.plan l (laneVals s e.form (issuing s) l) = .done (ws l) (fl l) none)
    (hh : ∀ l ∈ issuing s, ∀ w ∈ ws l, laneHas s l w.1) (hn : ∀ l ∈ issuing s, ((ws l).map (·.1)).Nodup) :
    ∃ t, runEntry s i e = .next t ∧ Completed s t e.form.len ws fl := by
  have h64 : ∀ l ∈ issuing s, lidxOf l < 64 := fun l h => lidx_issuing (ready_fit hr) h
  obtain ⟨n, heff⟩ := effects_freeIx s e ws he
  have kept := (kept_writeAll s (issuing s) ws).freeIx n
  have steady := (steady_writeAll s (issuing s) ws).freeIx n
  rw [← heff] at kept steady
  have focus : (effects s e ws).focus = s.focus := by rw [heff]; exact focus_writeAll s (issuing s) ws
  have elem (l : LaneId) (r : Nat) : laneElem (effects s e ws) l r = laneElem (writeAll s (issuing s) ws) l r := by
    rw [heff, laneElem_freeIx]
  obtain ⟨t, ht, booked, raised, -⟩ := runEntry_moved s i e ws fl (fun _ => none) hr hl hb ho hp focus steady
  obtain ⟨t', ht', -, wave, grip, mgmt⟩ := runEntry_done s i e ws fl (fun _ => none) hr hl hb ho hp focus
  obtain rfl : t = t' := by simpa [ht] using ht'
  refine ⟨t, ht, ⟨fun l hl w hw => ?_, fun l r hl hne => ?_⟩, raised, kept.trans booked.kept, ?_⟩
  · rw [booked.laneElem, elem]
    exact laneElem_writeAll s (issuing s) ws h64 hn hh hl hw
  · rw [booked.laneElem, elem]
    exact laneElem_writeAll_ne s (issuing s) ws h64 hl hne
  · refine advanced_of_done steady (fun g n x hx => ?_) ?_ ?_ booked (fun k gang hf => (wave k gang hf).1) (fun k hf => (grip k hf).2)
      fun n hf => (mgmt n hf).2
    · obtain ⟨y, hy, hframes, -⟩ := kept.frames g n x hx
      exact ⟨y, hy, by simpa using congrArg List.length hframes⟩
    · rw [heff]
      exact grip_writeAll s (issuing s) ws
    · rw [heff]
      exact mgmt_writeAll s (issuing s) ws

/-! ### SYSRD -/

/-- The word that a reading gives: its value, or the open bits of the choice that is next. -/
def Reading.word (s : State) : Reading → Word
  | .value v => w32 v
  | .openBits m => Config.freeWord s.freeIx &&& w32 m
  | .unassigned => 0

/-- SYSRD of a register within reach completes with its reading. -/
theorem sysrd_completes {s : State} {d : Reg} {n : BitVec 9} (r : LaneId → Word) (hr : ready s { plainForm true with dst := some d } = true)
    (h : ∀ l ∈ issuing s, outOfReach l n.toNat = false ∧ (n = 1 → flagsInFlight s l = false) ∧
      sysReading s l n.toNat ≠ .unassigned ∧ (sysReading s l n.toNat).word s = r l) :
    ∃ t, exec (.sysrd d n) s = .next t ∧ Completed s t 4 (one d r) noFlags := by
  refine runEntry_completed s (.sysrd d n) (ws := one d r) (fl := noFlags) _ hr (fun l hl => ?legal) (fun _ _ => rfl) rfl (fun l vs u => ?eff)
    (fun l hl => ?plan) (fun l hl w hw => ?has) (fun _ _ => List.nodup_singleton _)
  case legal =>
    obtain ⟨hreach, -, hassigned, -⟩ := h l hl
    simp [regNamed, hassigned]
  case eff =>
    dsimp only
    split
    · exact ⟨u.freeIx, rfl⟩
    · exact ⟨u.freeIx + 1, rfl⟩
  case plan =>
    obtain ⟨hreach, hflags, hassigned, hword⟩ := h l hl
    have noWait : (decide (n.toNat = 1) && flagsInFlight s l) = false := by
      by_cases h1 : n.toNat = 1
      · rw [hflags (BitVec.eq_of_toNat_eq h1), Bool.and_false]
      · rw [decide_eq_false h1, Bool.false_and]
    dsimp only
    rw [hreach, noWait, if_neg Bool.false_ne_true, if_neg Bool.false_ne_true]
    cases hread : sysReading s l n.toNat with
    | value v =>
      rw [hread] at hword
      exact congrArg (result d) hword
    | openBits m =>
      rw [hread] at hword
      exact congrArg (result d) hword
    | unassigned => exact absurd hread hassigned
  case has =>
    rw [List.mem_singleton.1 hw]
    exact laneHas_dst hr rfl hl

/-! ### What the numbers below 0x100 give (Tables 2-2, 3-2, 10-5, 11-1 and 14-1) -/

theorem userReading_unassigned {s : State} {l : LaneId} {n : Nat} (h : 0x100 ≤ n) : userReading s l n = .unassigned := by
  unfold userReading
  split
  case h_31 => rfl
  all_goals omega

/-- SYSRD completes with the values of user registers. -/
theorem sysrd_gives_values {s : State} {d : Reg} {n : BitVec 9} (v : LaneId → Nat) (hr : ready s { plainForm true with dst := some d } = true)
    (h : ∀ l ∈ issuing s, (n = 1 → flagsInFlight s l = false) ∧ userReading s l n.toNat = .value (v l)) :
    ∃ t, exec (.sysrd d n) s = .next t ∧ Completed s t 4 (one d (fun l => BitVec.ofNat 32 (v l))) noFlags := by
  refine sysrd_completes _ hr fun l hl => ?_
  obtain ⟨hflags, hv⟩ := h l hl
  have below : n.toNat < 0x100 := by
    by_contra hge
    rw [userReading_unassigned (not_lt.1 hge)] at hv
    cases hv
  rw [sysReading, if_pos below, hv]
  exact ⟨by cases l <;> simp [outOfReach, below], hflags, nofun, rfl⟩

/-- The registers of a lane's core. -/
def heatRegs (s : State) (l : LaneId) : List (Nat × Nat) :=
  [(0x032, thotWord (coreOf s (laneCore s l))), (0x033, (laneMigreq s l).toNat)]

/-- The registers of the module and of a lane's partition. -/
def moduleRegs (s : State) (l : LaneId) : List (Nat × Nat) :=
  [(0x030, meltf s), (0x034, s.units.power.count * 65536 + (if s.units.power.refreeze then 1 else 0)),
    (0x040, (bankReg s (lanePart s l) 0x040).toNat), (0x060, s.units.ready.toNat), (0x061, (caps s.units.fuses).toNat),
    (0x062, (caps2 s.units.fuses).toNat)]

/-- The registers of a lane's team. -/
def teamRegs (s : State) (l : LaneId) (m : Team) (gidx : Nat) : List (Nat × Nat) :=
  [(0x011, laneSide s l * 2 ^ 25 + (if m.pair then 2 ^ 24 else 0) + m.groups.length * 2 ^ 16 + widthCode s m * 2 ^ 8 + gidx),
    (0x012, m.no), (0x013, m.tx.toNat), (0x014, m.ty.toNat), (0x015, m.tz.toNat), (0x017, lanePart s l)]

/-- The registers of a wave's lane and its group, but for the trap frame. -/
def laneRegs (s : State) (g i : Nat) (x : Group) (m : Team) : List (Nat × Nat) :=
  [(0x000, x.mode.toNat), (0x001, x.fstat.toNat), (0x010, slotSlice x (i / 4) * 65536 + lanePos x i * 256 + i),
    (0x016, m.lcore + laneSide s (.wave g i)), (0x018, x.view.toNat), (0x019, mrank s g x i), (0x020, x.merr0.toNat),
    (0x021, x.merr1.toNat), (0x031, leaseRem s (.wave g i))]

/-- The registers of a trap frame, to lane `i` of its slice. -/
def frameRegs (x : Group) (i : Nat) (fr : Frame) (rest : List Frame) : List (Nat × Nat) :=
  let a := if fr.tlanes.getLsbD i then tgetD fr.taddr i 0 else 0
  [(0x050, fr.cause + 256 * (a / 2 ^ 32 % 2 ^ 24)), (0x051, fr.pc.toNat % 2 ^ 32), (0x052, a % 2 ^ 32), (0x053, byPosition x fr.tlanes),
    (0x054, byPosition x (fr.tdone &&& fr.lanes)), (0x055, fr.pc.toNat / 2 ^ 32 * 256 + slotSlice x (i / 4)), (0x056, 1 + rest.length)]

section
variable {s : State} {l : LaneId} {n v : Nat}

theorem userReading_module (h : (n, v) ∈ moduleRegs s l) : userReading s l n = .value v := by
  simp only [moduleRegs, List.mem_cons, Prod.mk.injEq, List.not_mem_nil, or_false] at h
  rcases h with ⟨rfl, rfl⟩ | ⟨rfl, rfl⟩ | ⟨rfl, rfl⟩ | ⟨rfl, rfl⟩ | ⟨rfl, rfl⟩ | ⟨rfl, rfl⟩ <;> rfl

theorem userReading_heat (hl : ∀ k, l ≠ .mgmt k) (h : (n, v) ∈ heatRegs s l) : userReading s l n = .value v := by
  simp only [heatRegs, List.mem_cons, Prod.mk.injEq, List.not_mem_nil, or_false] at h
  cases l with
  | mgmt k => exact absurd rfl (hl k)
  | wave g i => rcases h with ⟨rfl, rfl⟩ | ⟨rfl, rfl⟩ <;> rfl
  | grip k => rcases h with ⟨rfl, rfl⟩ | ⟨rfl, rfl⟩ <;> rfl

/-- The registers of a team that are the same to each of its lanes, and GROUP. -/
theorem userReading_team {m : Team} {gidx : Nat} (hl : ∀ k, l ≠ .mgmt k) (hm : team? s (laneTeam s l) = some m)
    (hgroup : identity s l m 0x011 = .value (groupWord s m (laneSide s l) gidx)) (h : (n, v) ∈ teamRegs s l m gidx) :
    userReading s l n = .value v := by
  simp only [teamRegs, List.mem_cons, Prod.mk.injEq, List.not_mem_nil, or_false] at h
  have identified (k : Nat) (hk : k ∈ List.range' 0x010 8) : userReading s l k = identity s l m k := by
    cases l with
    | mgmt j => exact absurd rfl (hl j)
    | wave g i => fin_cases hk <;> simp [userReading, hm]
    | grip j => fin_cases hk <;> simp [userReading, hm]
  rcases h with ⟨rfl, rfl⟩ | ⟨rfl, rfl⟩ | ⟨rfl, rfl⟩ | ⟨rfl, rfl⟩ | ⟨rfl, rfl⟩ | ⟨rfl, rfl⟩
  · exact (identified _ (by decide)).trans hgroup
  all_goals exact identified _ (by decide)

/-- A register of a lane's group or of the lane itself. -/
theorem userReading_lane {g i : Nat} {x : Group} {m : Team} (hx : group? s g = some x) (hm : team? s x.team = some m)
    (h : (n, v) ∈ laneRegs s g i x m) : userReading s (.wave g i) n = .value v := by
  have team : team? s (laneTeam s (.wave g i)) = some m := by simp [laneTeam, hx, hm]
  simp only [laneRegs, List.mem_cons, Prod.mk.injEq, List.not_mem_nil, or_false] at h
  rcases h with ⟨rfl, rfl⟩ | ⟨rfl, rfl⟩ | ⟨rfl, rfl⟩ | ⟨rfl, rfl⟩ | ⟨rfl, rfl⟩ | ⟨rfl, rfl⟩ | ⟨rfl, rfl⟩ | ⟨rfl, rfl⟩ | ⟨rfl, rfl⟩ <;>
    simp [userReading, groupReading, identity, powerReading, laneWord, team, hx]

theorem userReading_frame (h : n ∈ List.range' 0x050 7) : userReading s l n = .value (frameReading s l n) := by
  fin_cases h <;> rfl

theorem frameReading_outside {g i : Nat} {x : Group} {y : Slice} (hx : group? s g = some x) (hy : x.slices[i / 4]? = some y)
    (hf : y.frames = []) : frameReading s (.wave g i) n = 0 := by
  simp [frameReading, sliceOf, hx, hy, hf]

theorem frameReading_inside {g i : Nat} {x : Group} {y : Slice} {fr : Frame} {rest : List Frame} (hx : group? s g = some x)
    (hy : x.slices[i / 4]? = some y) (hf : y.frames = fr :: rest) (h : (n, v) ∈ frameRegs x i fr rest) :
    n ∈ List.range' 0x050 7 ∧ frameReading s (.wave g i) n = v := by
  simp only [frameRegs, List.mem_cons, Prod.mk.injEq, List.not_mem_nil, or_false] at h
  rcases h with ⟨rfl, rfl⟩ | ⟨rfl, rfl⟩ | ⟨rfl, rfl⟩ | ⟨rfl, rfl⟩ | ⟨rfl, rfl⟩ | ⟨rfl, rfl⟩ | ⟨rfl, rfl⟩ <;>
    refine ⟨by decide, ?_⟩ <;> simp [frameReading, sliceOf, hx, hy, hf, add_comm, mul_comm]

end

/-- What a lane of a wave reads. -/
theorem userReading_wave {s : State} {g i n v : Nat} {x : Group} {m : Team} {y : Slice} (hx : group? s g = some x) (hm : team? s x.team = some m)
    (hy : x.slices[i / 4]? = some y)
    (h : (n, v) ∈ heatRegs s (.wave g i) ++ moduleRegs s (.wave g i) ++ teamRegs s (.wave g i) m x.gidx ++ laneRegs s g i x m ∨
      (y.frames = [] ∧ 0x050 ≤ n ∧ n ≤ 0x056 ∧ v = 0) ∨ ∃ fr rest, y.frames = fr :: rest ∧ (n, v) ∈ frameRegs x i fr rest) :
    userReading s (.wave g i) n = .value v := by
  have team : team? s (laneTeam s (.wave g i)) = some m := by simp [laneTeam, hx, hm]
  rcases h with h | ⟨hf, low, high, rfl⟩ | ⟨fr, rest, hf, h⟩
  · simp only [List.mem_append] at h
    obtain ((heat | ofModule) | teams) | lane := h
    · exact userReading_heat nofun heat
    · exact userReading_module ofModule
    · exact userReading_team nofun team (by simp [identity, hx]) teams
    · exact userReading_lane hx hm lane
  · rw [userReading_frame (by simp; omega), frameReading_outside hx hy hf]
  · obtain ⟨hn, hv⟩ := frameReading_inside (s := s) (g := g) hx hy hf h
    rw [userReading_frame hn, hv]

/-- A grip context runs on the first core of its team's pair. -/
theorem laneSide_grip {s : State} {k : Nat} {m : Team} (hm : team? s k = some m) : laneSide s (.grip k) = 0 := by
  simp [laneSide, laneTeam, laneCore, hm]

/-- What a grip context reads. -/
theorem userReading_grip {s : State} {k n v : Nat} {m : Team} (hm : team? s k = some m)
    (h : (n, v) ∈ heatRegs s (.grip k) ++ moduleRegs s (.grip k) ++ teamRegs s (.grip k) m 0 ++ [(0x010, 0), (0x016, m.lcore)]) :
    userReading s (.grip k) n = .value v := by
  simp only [List.mem_append] at h
  obtain ((heat | ofModule) | teams) | own := h
  · exact userReading_heat nofun heat
  · exact userReading_module ofModule
  · exact userReading_team nofun hm (by simp [identity, laneSide_grip hm]) teams
  · simp only [List.mem_cons, Prod.mk.injEq, List.not_mem_nil, or_false] at own
    rcases own with ⟨rfl, rfl⟩ | ⟨rfl, rfl⟩ <;> simp [userReading, laneTeam, identity, laneSide_grip hm, hm]

/-! ### What a management core reads -/

/-- The registers that belong to a lane, with the bits that are open to a management core. -/
def openRegs : List (Nat × Nat) :=
  [(0x010, 0x71F3F), (0x011, 0x33F031F), (0x016, 0x7F), (0x017, 0xF), (0x031, 0x8000FFFF), (0x032, 0xFFFF0003), (0x033, 0x7)]

theorem sysReading_open {s : State} {k n m : Nat} (h : (n, m) ∈ openRegs) : sysReading s (.mgmt k) n = .openBits m := by
  simp only [openRegs, List.mem_cons, Prod.mk.injEq, List.not_mem_nil, or_false] at h
  rcases h with ⟨rfl, rfl⟩ | ⟨rfl, rfl⟩ | ⟨rfl, rfl⟩ | ⟨rfl, rfl⟩ | ⟨rfl, rfl⟩ | ⟨rfl, rfl⟩ | ⟨rfl, rfl⟩ <;> rfl

/-- A privileged register of a partition's bank or of the module. -/
def privWord (s : State) (r : RegSpec) (n : Nat) : Word := if r.banked then bankReg s (psel s) n else sysReg s n

/-- A privileged register that does not show the state of a command reads as it stands, its write-only bits 0. -/
theorem sysReading_priv {s : State} {l : LaneId} {n : Nat} {r : RegSpec} (hr : regSpec n = some r) (hn : 0x100 ≤ n) (h1 : n ≠ 0x194)
    (h2 : n ≠ 0x1D6) (h3 : n ≠ 0x1E0) : sysReading s l n = .value ((privWord s r n).toNat &&& (r.rw ||| r.w1c ||| r.ro)) := by
  rw [sysReading, if_neg (by omega), privReading, hr]
  dsimp only
  split
  case h_4 => rfl
  all_goals contradiction

theorem w32_and (w : Word) (m : Nat) : w32 (w.toNat &&& m) = w &&& BitVec.ofNat 32 m := by
  rw [w32, BitVec.ofNat_and, BitVec.ofNat_toNat, BitVec.setWidth_eq]

/-! ### Cycle counters (R46, R252, R357) -/

theorem cycleCount_wave {s : State} {g i : Nat} {x : Group} {w : Slot} (hx : group? s g = some x) (hw : slot? s (laneSeat x i) = some w) :
    cycleCount s (.wave g i) = if teamReh s x.team then w.retired else (coreOf s (slotCore (laneSeat x i))).clk := by
  simp [cycleCount, laneTeam, laneCore, hx, hw]

theorem cycleCount_grip {s : State} {k : Nat} {m : Team} (hm : team? s k = some m) : cycleCount s (.grip k) = (coreOf s m.core).clk := by
  simp [cycleCount, laneCore, hm]

theorem cycleCount_mgmt {s : State} {k : Nat} {m : Mgmt} (hm : s.units.mgmt[k]? = some m) : cycleCount s (.mgmt k) = m.clk := by
  simp [cycleCount, hm]

end Sys2Proof.Machine
end

section
open Sys2Proof Sys2Proof.Machine

/-- Settles O33: a SYSRD within reach completes with its reading, and each number's reading is the one of its table. CYC is a register
instruction with the cycle counter as its result. -/
theorem controlRegisterReads : Obligations.ControlRegisterReads := by
  refine ⟨?sysrd, ?cyc⟩
  case sysrd =>
    intro d n s v f hready heat module_ team
    refine ⟨fun h => ?wave, fun k m hk hm h => ?grip, fun k hk h => ?mgmt, fun k r hk hr hn h1 h2 h3 => ?priv, fun k m hk h => ?opened⟩
    case wave =>
      refine sysrd_gives_values v hready fun l hl => ?_
      obtain ⟨hflags, g, i, x, m, y, rfl, hx, hm, hy, hv⟩ := h l hl
      exact ⟨hflags, userReading_wave hx hm hy hv⟩
    case grip =>
      refine sysrd_gives_values v hready fun l hl => ?_
      obtain rfl : l = .grip k := by simpa [hk] using hl
      exact ⟨fun _ => rfl, userReading_grip hm h⟩
    case mgmt =>
      refine sysrd_gives_values v hready fun l hl => ?_
      obtain rfl : l = .mgmt k := by simpa [hk] using hl
      exact ⟨fun _ => rfl, userReading_module h⟩
    case priv =>
      refine sysrd_completes _ hready fun l hl => ?_
      obtain rfl : l = .mgmt k := by simpa [hk] using hl
      have ne (a : BitVec 9) (h : n ≠ a) : n.toNat ≠ a.toNat := fun e => h (BitVec.eq_of_toNat_eq e)
      rw [sysReading_priv hr hn (ne _ h1) (ne _ h2) (ne _ h3)]
      exact ⟨rfl, fun _ => rfl, nofun, w32_and _ _⟩
    case opened =>
      obtain ⟨t, ht, completed⟩ := sysrd_completes (fun _ => Config.freeWord s.freeIx &&& w32 m) hready fun l hl => by
        obtain rfl : l = .mgmt k := by simpa [hk] using hl
        rw [sysReading_open h]
        exact ⟨rfl, fun _ => rfl, nofun, rfl⟩
      refine ⟨t, _, ht, completed, fun b hb => ?_⟩
      simp [w32, BitVec.getLsbD_ofNat, hb]
  case cyc =>
    intro hi d f half s hready
    obtain ⟨t, ht, completed⟩ := gives_one (.cyc d hi) (f := f) rfl
      (fun l _ => result d (w32 (if hi then cycleCount s l / 2 ^ 32 else cycleCount s l)))
      (fun l => (half (cycleCount s l), 0)) hready fun _ _ => rfl
    refine ⟨t, _, ht, completed, fun l _ => ⟨?_, ?_, ?_⟩⟩
    · rintro g i x w rfl hx hw
      exact congrArg half (cycleCount_wave hx hw)
    · rintro k m rfl hm
      exact congrArg half (cycleCount_grip hm)
    · rintro k m rfl hm
      exact congrArg half (cycleCount_mgmt hm)

end

section
/-! A store to a stash window that another lane of the group has still to perform. -/

namespace Sys2Proof.Machine

/-- Lane 0 runs at 0x2000, and the other lanes of its slice are to run at 0x3000. -/
def partedSlice : Slice :=
  { plainSlice with prog := { pc := 0x2000, running := 1, pending := [⟨0x3000, 14⟩], parked := [] } }

/-- Window 0 binds the sector at 0x1000 to the scratchpad from 0; the sector is filled, and its first byte is dirty. -/
def dirtyWindow : Window :=
  { side := 0, num := 0, gaddr := 0x1000, soff := 0, len := 128, sectors := [(0, { dirty := 1 })], pages := [(0, 0x1000)] }

def windowTeam : Team := { oneTeam with scr := 4096, windows := [dirtyWindow] }

/-- The store of a byte 7 to offset 0 that lane 1 has retired and not yet performed. -/
def lateByte : Late :=
  { id := 5, issue := 0, lane := .wave 2 1, op := .store [7], place := some (1, 0), addr := 0, ga := some 0x1000, size := 1, g := true,
    sc := .grp, acq := false, rel := false, tag := false, post := 0, dst := 0, fenced := false }

/-- Lane 0 is to flush the window while lane 1's store to it is still to be performed. -/
def storeBeforeFlush : State :=
  let s := groupTwice partedSlice []
  { s with work := { s.work with groups := [(2, oneSlice partedSlice)], teams := [(1, windowTeam)] }, late := [lateByte] }

theorem unfilledSectors_dirtyWindow : unfilledSectors dirtyWindow = [] := by decide

theorem sectorFilled_dirtyWindow (j : Nat) : sectorFilled dirtyWindow j = decide (j = 0) := by
  cases j <;> rfl

theorem l1_storeBeforeFlush (c : Nat) : (coreOf storeBeforeFlush c).l1 = [] := by
  change (tgetD [(0, _)] c Core.reset).l1 = []
  unfold tgetD tget?
  split <;> rfl

theorem mapped_storeBeforeFlush : Mapped storeBeforeFlush 0 0 0x1000 1 0x1000 [.w] := by
  intro i hi a ha
  obtain rfl : i = 0 := by omega
  obtain rfl := List.mem_singleton.mp ha
  exact ⟨flatEntry, by decide +kernel, by decide +kernel⟩

theorem issuing_storeBeforeFlush : issuing storeBeforeFlush = [.wave 2 0] := by decide +kernel

/-- The flush performs the store first, and its byte goes to memory. -/
theorem flush_storeBeforeFlush_byte : (match exec (.stashFlush false 0) storeBeforeFlush with
    | .next t => some (memGet t.mem 0x1000)
    | _ => none) = some 7 := by
  decide +kernel

end Sys2Proof.Machine
end

section
open Sys2Proof Sys2Proof.Machine

/-- Refutes O39: the statement of STASH.flush is about every state in which no access of an issuing lane is still to be performed, also one
in which a store of another lane to the window is. STASH.map's clause leaves such a state out, STASH.flush's does not: the flush performs
the store first, and memory takes the stored byte, where the statement has it take the byte that the scratchpad held before. -/
theorem not_cacheLinesAndStashWindows : ¬ Obligations.CacheLinesAndStashWindows := by
  unfold Obligations.CacheLinesAndStashWindows
  rintro ⟨-, stash⟩
  have lane (l : LaneId) (hl : l ∈ issuing storeBeforeFlush) : l = .wave 2 0 := by
    simpa [issuing_storeBeforeFlush] using hl
  obtain ⟨-, -, flush⟩ := stash false 0 0 storeBeforeFlush (.wave 2 0) 1 windowTeam
    (fun l hl m hm => by rw [lane l hl, lane m hm]; rfl) (by rw [issuing_storeBeforeFlush]; exact List.mem_singleton_self _)
    nofun (by decide +kernel) rfl (fun l hl => by rw [lane l hl]; decide +kernel)
  obtain ⟨-, written⟩ := flush (by decide +kernel) (by decide +kernel) (by decide +kernel) fun w hw _ _ off hoff => by
    obtain rfl := List.mem_singleton.mp hw
    rw [unfilledSectors_dirtyWindow] at hoff
    cases hoff
  obtain ⟨t, -, ht, -, -, -, bytes⟩ := written dirtyWindow 0 { dirty := 1 } 0x1000 rfl rfl (by decide +kernel) (by decide +kernel) rfl rfl
    (by decide +kernel) (by decide +kernel) (fun c y hy => by rw [l1_storeBeforeFlush] at hy; cases hy)
    mapped_storeBeforeFlush (fun j (hj : j < 1) hne => absurd (Nat.lt_one_iff.mp hj) hne) sectorFilled_dirtyWindow (by decide)
  have old : memGet t.mem 0x1000 = 0 := by
    rw [bytes 0x1000, if_pos (by decide)]
    decide +kernel
  have new := flush_storeBeforeFlush_byte
  rw [ht] at new
  exact absurd (old.symm.trans (Option.some.inj new)) (by decide)

end

section
/-! Numbers in memory, stores of the device itself while no stash window is bound, and what the service of a page leaves alone. -/

namespace Sys2Proof.Machine

/-! ### Numbers as bytes -/

@[simp] theorem leBytes_length (n v : Nat) : (leBytes n v).length = n := by
  induction n generalizing v with
  | zero => rfl
  | succ n ih => simp [leBytes, ih]

theorem leNat_leBytes (n v : Nat) : leNat (leBytes n v) = v % 256 ^ n := by
  induction n generalizing v with
  | zero => simp [leBytes, leNat, Nat.mod_one]
  | succ n ih => rw [leBytes, leNat, ih, BitVec.toNat_ofNat, pow_succ' 256, Nat.mod_mul]

theorem leNat_lt (bs : List Byte) : leNat bs < 256 ^ bs.length := by
  induction bs with
  | nil => exact Nat.one_pos
  | cons b bs ih =>
    have hb := b.isLt
    rw [leNat, List.length_cons, pow_succ']
    omega

theorem readNum_lt (s : State) (pa n : Nat) : readNum s pa n < 256 ^ n := by
  simpa [readNum, readMem_length] using leNat_lt (readMem s pa n)

theorem readMem_congr {s t : State} (h : t.mem = s.mem) (pa n : Nat) : readMem t pa n = readMem s pa n := by
  simp only [readMem, h]

theorem readNum_congr {s t : State} (h : t.mem = s.mem) (pa n : Nat) : readNum t pa n = readNum s pa n :=
  congrArg leNat (readMem_congr h pa n)

/-! ### Stores of the device itself -/

theorem stashHolders_of_noWindows {s : State} (h : NoWindows s) (pa : Nat) : stashHolders s pa = [] := by
  simp only [stashHolders, List.flatMap_eq_nil_iff]
  intro e he
  rw [h e he]
  nofun

/-- Without stash windows there is nothing to recall. -/
theorem storeDev_of_noWindows {s : State} (h : NoWindows s) (pa : Nat) (bs : List Byte) : storeDev s pa bs = storeSnoop s pa bs := by
  have none (as : List Nat) : as.foldl (fun s a => (stashHolders s a).foldl recallOne s) s = s :=
    List.foldl_fixed' (fun a => by rw [stashHolders_of_noWindows h]; rfl) as
  simp only [storeDev, recallDev, none]

theorem memGet_storeSnoop (s : State) (pa c : Nat) (bs : List Byte) (hm : Memory.wf s.mem = true) :
    memGet (storeSnoop s pa bs).mem c = memWith (memGet s.mem) pa bs c := memGet_memPuts s.mem pa c bs hm

theorem readMem_storeSnoop (s : State) (pa : Nat) (bs : List Byte) (hm : Memory.wf s.mem = true) :
    readMem (storeSnoop s pa bs) pa bs.length = bs := readMem_storeMem s pa bs hm

theorem readMem_storeSnoop_apart (s : State) (pa pb n : Nat) (bs : List Byte) (hm : Memory.wf s.mem = true) (h : apart pa bs.length pb n) :
    readMem (storeSnoop s pa bs) pb n = readMem s pb n := readMem_storeMem_apart s pa pb n bs hm h

/-- A number that was stored is read back. -/
theorem readMem_storeSnoop_num (s : State) (pa n v : Nat) (hm : Memory.wf s.mem = true) :
    readMem (storeSnoop s pa (leBytes n v)) pa n = leBytes n v := by
  simpa using readMem_storeSnoop s pa (leBytes n v) hm

theorem readMem_storeSnoop_num_apart (s : State) (pa n v pb k : Nat) (hm : Memory.wf s.mem = true) (h : apart pa n pb k) :
    readMem (storeSnoop s pa (leBytes n v)) pb k = readMem s pb k :=
  readMem_storeSnoop_apart s pa pb k _ hm (by rwa [leBytes_length])

/-- Bytes that were copied read as those that they were copied from. -/
theorem readMem_storeSnoop_copy (s : State) (pa pb n : Nat) (hm : Memory.wf s.mem = true) :
    readMem (storeSnoop s pa (readMem s pb n)) pa n = readMem s pb n := by
  simpa only [readMem_length] using readMem_storeSnoop s pa (readMem s pb n) hm

theorem mem_poisonAt (s : State) (as : List Nat) : (poisonAt s as).mem = s.mem := rfl

/-! ### Partitions -/

theorem partOf_modPart_self (s : State) (p : Nat) (f : Part → Part) : partOf (modPart s p f) p = f (partOf s p) := by
  simp [partOf]

/-- A change of a partition that keeps its operations keeps those of every partition. -/
theorem reads_modPart (s : State) (p q : Nat) (f : Part → Part) (hf : ∀ x, (f x).reads = x.reads) :
    (partOf (modPart s p f) q).reads = (partOf s q).reads := by
  by_cases h : q = p
  · subst h
    rw [partOf_modPart_self, hf]
  · simp only [partOf, modPart_units_parts, tgetD_tput_ne _ _ _ h]

/-! ### What the service of a page leaves alone -/

/-- The groups, the teams and the operations of every partition are as before, and events have at most been added. -/
structure ServiceKept (s t : State) : Prop where
  work : t.work = s.work
  reads : ∀ p, (partOf t p).reads = (partOf s p).reads
  events : ∃ es, t.units.events = s.units.events ++ es

theorem ServiceKept.refl (s : State) : ServiceKept s s := ⟨rfl, fun _ => rfl, [], by simp⟩

theorem ServiceKept.trans {a b c : State} (h : ServiceKept a b) (k : ServiceKept b c) : ServiceKept a c := by
  obtain ⟨es, hes⟩ := h.events
  obtain ⟨fs, hfs⟩ := k.events
  exact ⟨k.work.trans h.work, fun p => (k.reads p).trans (h.reads p), es ++ fs, by rw [hfs, hes, List.append_assoc]⟩

theorem ServiceKept.noWindows {s t : State} (h : ServiceKept s t) (hs : NoWindows s) : NoWindows t := by
  rw [NoWindows, h.work]
  exact hs

theorem ServiceKept.teamsGoOn {s t : State} (h : ServiceKept s t) (hs : TeamsGoOn s) : TeamsGoOn t := by
  unfold TeamsGoOn GoesOn team? group?
  rw [h.work]
  exact hs

theorem serviceKept_storeDev {s : State} (hw : NoWindows s) (pa : Nat) (bs : List Byte) : ServiceKept s (storeDev s pa bs) := by
  rw [storeDev_of_noWindows hw]
  exact ⟨rfl, fun _ => rfl, [], by simp [storeSnoop, storeMem]⟩

theorem serviceKept_raiseEvent (s : State) (r : List Byte) : ServiceKept s (raiseEvent s r) := ⟨rfl, fun _ => rfl, [r], rfl⟩

theorem serviceKept_tlbDrop (s : State) (f : TlbEntry → Bool) : ServiceKept s (tlbDrop s f) :=
  ⟨rfl, fun _ => rfl, [], by simp [tlbDrop]⟩

theorem serviceKept_poisonAt (s : State) (as : List Nat) : ServiceKept s (poisonAt s as) :=
  ⟨rfl, fun _ => rfl, [], by simp [poisonAt]⟩

theorem serviceKept_modPart (s : State) (p : Nat) (f : Part → Part) (hf : ∀ x, (f x).reads = x.reads) : ServiceKept s (modPart s p f) :=
  ⟨rfl, fun q => reads_modPart s p q f hf, [], by simp⟩

theorem serviceKept_giveFrame {s : State} (hw : NoWindows s) (p f : Nat) : ServiceKept s (giveFrame s p f) := by
  unfold giveFrame
  dsimp only
  split
  · exact serviceKept_raiseEvent _ _
  · have first := serviceKept_storeDev hw (readNum s (poolHead s p + 16) 8 + 8 * (readNum s (poolHead s p + 4) 4 % readNum s (poolHead s p + 8) 4))
      (leBytes 8 f)
    exact first.trans (serviceKept_storeDev (first.noWindows hw) _ _)

/-! ### The end of a page read or a copy -/

/-- Reads of a table whose values are mapped. -/
theorem tget?_map_snd {α β : Type} (t : Tab α) (f : α → β) (k : Nat) : tget? (t.map (fun e => (e.1, f e.2))) k = (tget? t k).map f := by
  induction t with
  | nil => rfl
  | cons e t ih =>
    simp only [List.map_cons, tget?]
    split
    · rfl
    · exact ih

/-- A team that has ended, or goes on, does not end. -/
theorem tryEndTeam_of_goesOn {s : State} {k : Nat} (h : ∀ x, team? s k = some x → x.ended = true ∨ GoesOn s x) : tryEndTeam s k = s := by
  unfold tryEndTeam
  split
  · rfl
  · rename_i x hx
    rw [if_neg]
    intro hc
    simp only [Bool.and_eq_true, Bool.not_eq_true'] at hc
    obtain ⟨⟨live, ended⟩, -⟩ := hc
    rcases h x hx with hx | ⟨g, hg, y, hy, goes⟩
    · rw [live] at hx
      cases hx
    · have := List.all_eq_true.mp ended g hg
      simp [hy, goes] at this

/-- A group that no longer waits for a page, with the entry of a read that failed. -/
def Group.readOver (x : Group) (id entry : Nat) (failed : Bool) : Group :=
  { x with pages := x.pages.filter (· != id), failed := if failed && x.pages.contains id then insertNat entry x.failed else x.failed }

/-- A team whose grip context no longer waits for a page. -/
def Team.readOver (x : Team) (id entry : Nat) (failed : Bool) : Team :=
  { x with grip := x.grip.map (fun k =>
      { k with pages := k.pages.filter (· != id), failed := if failed && k.pages.contains id then insertNat entry k.failed else k.failed }) }

theorem mem_insertNat_self (k : Nat) (xs : List Nat) : k ∈ insertNat k xs := by
  induction xs with
  | nil => simp [insertNat]
  | cons x xs ih =>
    unfold insertNat
    split
    · simp
    · split
      · simp_all
      · simp [ih]

theorem Group.not_mem_pages_readOver (x : Group) (id entry : Nat) (failed : Bool) : id ∉ (x.readOver id entry failed).pages := by
  simp [Group.readOver]

theorem Group.mem_failed_readOver {x : Group} {id : Nat} (entry : Nat) (h : id ∈ x.pages) : entry ∈ (x.readOver id entry true).failed := by
  simp [Group.readOver, h, mem_insertNat_self]

/-- An operation has left its partition's queue, no group waits for it, and nothing else of memory, of the events and of the groups has
changed. -/
structure ReadOver (s t : State) (p id entry : Nat) (failed : Bool) : Prop where
  mem : t.mem = s.mem
  events : t.units.events = s.units.events
  reads : (partOf t p).reads = (partOf s p).reads.filter (fun q => q.id != id)
  groups : ∀ g, group? t g = (group? s g).map (fun x => x.readOver id entry failed)

theorem ReadOver.gone {s t : State} {p id entry : Nat} {failed : Bool} (h : ReadOver s t p id entry failed) :
    ∀ q ∈ (partOf t p).reads, q.id ≠ id := by
  intro q hq
  rw [h.reads, List.mem_filter] at hq
  simpa using hq.2

/-- While every team of the module has ended or goes on, no team ends with an operation. -/
theorem readOver_endRead {s : State} (h : TeamsGoOn s) (p : Nat) (r : PageRead) (failed : Bool) :
    ReadOver s (endRead s p r failed) p r.id r.entry failed := by
  unfold endRead
  extract_lets less more work units u v
  have groups (g : Nat) : group? v g = (group? s g).map (fun x => x.readOver r.id r.entry failed) :=
    tget?_map_snd s.work.groups (fun x => x.readOver r.id r.entry failed) g
  have goOn : TeamsGoOn v := by
    intro k x hx
    have hteam : team? v k = (team? s k).map (fun x => x.readOver r.id r.entry failed) := tget?_map_snd s.work.teams (fun x => x.readOver r.id r.entry failed) k
    rw [hteam] at hx
    obtain ⟨y, hy, rfl⟩ := Option.map_eq_some_iff.mp hx
    refine (h k y hy).imp id ?_
    rintro ⟨g, hg, z, hz, goes⟩
    exact ⟨g, hg, z.readOver r.id r.entry failed, by rw [groups, hz]; rfl, goes⟩
  have still : v.work.teams.foldl (fun s e => tryEndTeam s e.1) v = v :=
    List.foldl_fixed' (fun e : Nat × Team => tryEndTeam_of_goesOn fun x hx => goOn e.1 x hx) _
  rw [still]
  exact ⟨rfl, rfl, by rw [partOf_modPart_self]; rfl, groups⟩

end Sys2Proof.Machine
end

section
/-! Page reads (R158): an NVMe completion is noted with its read, and the read ends once it is the oldest operation of its queue. -/

namespace Sys2Proof.Machine

/-- The completion of the read with number `id` has come to the queue of partition `p`. -/
def withResult (s : State) (p id : Nat) (res : Byte × Byte × List Byte) : State :=
  modPart s p (fun x => { x with reads := x.reads.map (fun q => if q.id = id then { q with result := some res } else q) })

theorem reads_withResult (s : State) (p id : Nat) (res : Byte × Byte × List Byte) : (partOf (withResult s p id res) p).reads =
    (partOf s p).reads.map (fun q => if q.id = id then { q with result := some res } else q) := by
  rw [withResult, partOf_modPart_self]

/-! ### The oldest operation of a queue -/

theorem serviceStep_of_awaited {s : State} {p : Nat} {q : PageRead} (h : (partOf s p).reads.head? = some q) (hc : q.cow = false)
    (hr : q.result = none) : serviceStep s p = s := by
  obtain ⟨qs, hqs⟩ := List.head?_eq_some_iff.mp h
  simp [serviceStep, hqs, hc, hr]

theorem serviceStep_of_result {s : State} {p : Nat} {q : PageRead} {sct sc : Byte} {block : List Byte}
    (h : (partOf s p).reads.head? = some q) (hc : q.cow = false) (hr : q.result = some (sct, sc, block)) :
    serviceStep s p = finishRead s p q sct sc block := by
  obtain ⟨qs, hqs⟩ := List.head?_eq_some_iff.mp h
  simp [serviceStep, hqs, hc, hr]

theorem serviceStep_of_cow {s : State} {p : Nat} {q : PageRead} (h : (partOf s p).reads.head? = some q) (hc : q.cow = true) :
    serviceStep s p = cowPart s p q := by
  obtain ⟨qs, hqs⟩ := List.head?_eq_some_iff.mp h
  simp [serviceStep, hqs, hc]

/-! ### The end of a read -/

/-- A read that succeeds ends after its block and the leaf are stored, or its frame is given back. -/
theorem finishRead_of_success {s : State} (hw : NoWindows s) (p : Nat) (r : PageRead) {sct sc : Byte} (block : List Byte)
    (h : sct = 0 ∧ sc = 0) : ∃ u, finishRead s p r sct sc block = endRead u p r false ∧ ServiceKept s u ∧
      (readNum s r.entry 8 = r.value.toNat →
        u.mem = (storeSnoop (storeSnoop s r.frame block) r.entry (leBytes 8 (readLeaf r.value.toNat r.frame))).mem) := by
  have landed := serviceKept_storeDev hw r.frame block
  by_cases he : readNum s r.entry 8 = r.value.toNat
  · refine ⟨storeDev (storeDev s r.frame block) r.entry (leBytes 8 (readLeaf r.value.toNat r.frame)), ?_,
      landed.trans (serviceKept_storeDev (landed.noWindows hw) _ _), fun _ => ?_⟩
    · simp only [finishRead, h.1, h.2, he, decide_true, Bool.and_self, if_true]
    · rw [storeDev_of_noWindows (landed.noWindows hw), storeDev_of_noWindows hw]
  · refine ⟨giveFrame (storeDev s r.frame block) p r.frame, ?_, landed.trans (serviceKept_giveFrame (landed.noWindows hw) _ _),
      fun e => absurd e he⟩
    simp only [finishRead, h.1, h.2, he, decide_true, Bool.and_self, if_true, if_false]

/-- A read that fails ends after its event. -/
theorem finishRead_of_failure {s : State} (hw : NoWindows s) (p : Nat) (r : PageRead) {sct sc : Byte} (block : List Byte)
    (h : ¬ (sct = 0 ∧ sc = 0)) : ∃ u, finishRead s p r sct sc block =
      endRead (raiseEvent u (eventRec 3 p 0 r.port 0 sct.toNat sc.toNat r.nsid 0 r.lba)) p r true ∧ ServiceKept s u := by
  have given := serviceKept_giveFrame hw p r.frame
  refine ⟨if readNum s r.entry 8 = r.value.toNat then storeDev (giveFrame s p r.frame) r.entry (leBytes 8 (readNum s r.entry 8 - 0x8000))
    else giveFrame s p r.frame, ?_, ?_⟩
  · have hb : (decide (sct = 0) && decide (sc = 0)) = false := by simpa [Bool.and_eq_true] using h
    simp only [finishRead, hb, Bool.false_eq_true, if_false]
  · split
    · exact given.trans (serviceKept_storeDev (given.noWindows hw) _ _)
    · exact given

/-! ### Completions -/

/-- The read that a completion of an entry is for. -/
def ReadAwaits (s : State) (entry p : Nat) (r : PageRead) : Prop :=
  (List.range 16).findSome? (fun p =>
    ((partOf s p).reads.find? (fun r => r.entry = entry && !r.cow && r.result.isNone)).map (fun r => (p, r))) = some (p, r)

theorem ReadAwaits.spec {s : State} {entry p : Nat} {r : PageRead} (h : ReadAwaits s entry p r) : r.entry = entry ∧ r.cow = false := by
  obtain ⟨q, -, hq⟩ := List.exists_of_findSome?_eq_some h
  obtain ⟨r', hr, e⟩ := Option.map_eq_some_iff.mp hq
  cases e
  have hp := List.find?_some hr
  simp only [Bool.and_eq_true, decide_eq_true_eq, Bool.not_eq_true'] at hp
  exact hp.1

theorem nvmeStep_of_awaited {s : State} {entry p : Nat} {r : PageRead} (sct sc : Byte) (block : List Byte)
    (hready : s.units.ready.getLsbD 6 = true) (h : ReadAwaits s entry p r) :
    nvmeStep s entry sct sc block = serviceStep (withResult s p r.id (sct, sc, block)) p := by
  unfold ReadAwaits at h
  simp only [nvmeStep, hready, Bool.not_true, Bool.false_eq_true, if_false, h]
  rfl

/-- Behind another read that has no completion yet, the completion is noted and that is all. -/
theorem nvmeStep_behind {s : State} {entry p : Nat} {r q : PageRead} (sct sc : Byte) (block : List Byte)
    (hready : s.units.ready.getLsbD 6 = true) (h : ReadAwaits s entry p r) (hq : (partOf s p).reads.head? = some q) (hne : q.id ≠ r.id)
    (hc : q.cow = false) (hr : q.result = none) : nvmeStep s entry sct sc block = withResult s p r.id (sct, sc, block) := by
  rw [nvmeStep_of_awaited sct sc block hready h]
  refine serviceStep_of_awaited (q := q) ?_ hc hr
  rw [reads_withResult, List.head?_map, hq, Option.map_some, if_neg hne]

/-- At the head of its queue the read ends. -/
theorem nvmeStep_head {s : State} {entry p : Nat} {r : PageRead} (sct sc : Byte) (block : List Byte)
    (hready : s.units.ready.getLsbD 6 = true) (h : ReadAwaits s entry p r) (hq : (partOf s p).reads.head? = some r) :
    nvmeStep s entry sct sc block =
      finishRead (withResult s p r.id (sct, sc, block)) p { r with result := some (sct, sc, block) } sct sc block := by
  rw [nvmeStep_of_awaited sct sc block hready h]
  refine serviceStep_of_result ?_ h.spec.2 rfl
  rw [reads_withResult, List.head?_map, hq, Option.map_some, if_pos rfl]

/-- The end of a read in its turn, with its effects: its waiters go on; the block and the leaf are in memory where it succeeds, and else an
event is the last. -/
theorem nvmeStep_head_spec {s : State} {entry p : Nat} {r : PageRead} (sct sc : Byte) (block : List Byte)
    (hready : s.units.ready.getLsbD 6 = true) (h : ReadAwaits s entry p r) (hq : (partOf s p).reads.head? = some r) (hw : NoWindows s)
    (hgo : TeamsGoOn s) : ∃ u, ReadOver u (nvmeStep s entry sct sc block) p r.id entry (!(decide (sct = 0 ∧ sc = 0))) ∧ u.work = s.work ∧
      (sct = 0 ∧ sc = 0 → readNum s entry 8 = r.value.toNat →
        u.mem = (storeSnoop (storeSnoop s r.frame block) entry (leBytes 8 (readLeaf r.value.toNat r.frame))).mem) ∧
      (¬ (sct = 0 ∧ sc = 0) → ∃ es, u.units.events =
        s.units.events ++ es ++ [eventRec 3 p 0 r.port 0 sct.toNat sc.toNat r.nsid 0 r.lba]) := by
  let v := withResult s p r.id (sct, sc, block)
  let r' : PageRead := { r with result := some (sct, sc, block) }
  rw [nvmeStep_head sct sc block hready h hq]
  obtain ⟨rfl, -⟩ := h.spec
  by_cases ok : sct = 0 ∧ sc = 0
  · obtain ⟨u, heq, kept, hmem⟩ := finishRead_of_success (s := v) hw p r' block ok
    refine ⟨u, ?_, kept.work, fun _ he => hmem he, fun bad => absurd ok bad⟩
    rw [heq, decide_eq_true ok]
    exact readOver_endRead (kept.teamsGoOn hgo) p r' false
  · obtain ⟨u, heq, kept⟩ := finishRead_of_failure (s := v) hw p r' block ok
    have raised := kept.trans (serviceKept_raiseEvent u (eventRec 3 p 0 r.port 0 sct.toNat sc.toNat r.nsid 0 r.lba))
    obtain ⟨es, hes⟩ := kept.events
    refine ⟨_, ?_, raised.work, fun good => absurd good ok, fun _ => ⟨es, by rw [raiseEvent, hes]; rfl⟩⟩
    rw [heq, decide_eq_false ok]
    exact readOver_endRead (raised.teamsGoOn hgo) p r' true

end Sys2Proof.Machine
end

section
/-! Copies on write (R162): the last sharer keeps the frame; otherwise a frame is taken and the page copied, and then COUNT and the entry
change. -/

namespace Sys2Proof.Machine

/-! ### Fields of a dedup-shared entry -/

theorem entryDesc_eq (e : Nat) : entryDesc e = 64 * (e / 64 % 2 ^ 46) := Nat.mul_comm _ _

theorem bit_zero_iff (n : Nat) : bit n 0 = true ↔ n % 2 = 1 := by simp [bit]

theorem ownLeaf_eq (e f : Nat) : ownLeaf e f = f + 0x200 + e / 32 % 2 * 0x40 + e / 16 % 2 * 0x20 + 0x1D := by
  have flag (n v : Nat) : (if bit e n then v else 0) = e / 2 ^ n % 2 * v := by
    unfold bit
    rcases Nat.mod_two_eq_zero_or_one (e / 2 ^ n) with h | h <;> simp [h]
  simp only [ownLeaf, flag]
  rfl

/-! ### The parts of a copy -/

theorem promote_of_noTags {s : State} (h : s.units.tags = []) (team : Option Nat) (line : Nat) : promote s team line = s := by
  simp [promote, h]

theorem performThose_of_noLate {s : State} (h : s.late = []) (seed : Late → Bool) : performThose s seed = s := by
  rw [performThose, h]
  rfl

/-- Without stash windows no sector has to be known by another address. -/
theorem movePages_of_noWindows {s : State} (h : NoWindows s) (p va f : Nat) : movePages s p va f = s := by
  have same : s.work.teams.map (fun e => if teamPart s e.1 ≠ p then e
      else (e.1, { e.2 with windows := e.2.windows.map (fun w => { w with pages := w.pages.map (fun x =>
        let a := w.gaddr + 128 * x.1
        if a / 4096 = va / 4096 then (x.1, f + a % 4096) else x) }) })) = s.work.teams := by
    refine (List.map_congr_left fun e he => ?_).trans (List.map_id _)
    split
    · rfl
    · have none := h e he
      obtain ⟨k, x⟩ := e
      cases x
      simp_all
  unfold movePages
  rw [same]

theorem mem_retireDesc {s : State} (hw : NoWindows s) (p d : Nat) :
    (retireDesc s p d).mem = (storeSnoop s d (leBytes 8 (readNum s d 8 / 2 * 2))).mem := by
  unfold retireDesc
  extract_lets u v
  have hu : NoWindows u := hw
  change v.mem = _
  rw [show v = storeSnoop u d _ from storeDev_of_noWindows hu _ _]
  rfl

theorem serviceKept_retireDesc {s : State} (hw : NoWindows s) (p d : Nat) : ServiceKept s (retireDesc s p d) := by
  have indexed := serviceKept_modPart s p (fun x => { x with index := x.index.filter (fun e => e.desc != d) }) fun _ => rfl
  exact indexed.trans ((serviceKept_storeDev (indexed.noWindows hw) _ _).trans (serviceKept_tlbDrop _ _))

/-- The entry takes the normal leaf while it holds what it held. -/
theorem installOwn_of_match {s : State} (hw : NoWindows s) (p va : Nat) {entry e : Nat} (f : Nat) (taken : Bool) (h : readNum s entry 8 = e) :
    ServiceKept s (installOwn s p va entry e f taken) ∧
      (installOwn s p va entry e f taken).mem = (storeSnoop s entry (leBytes 8 (ownLeaf e f))).mem := by
  have stored := serviceKept_storeDev hw entry (leBytes 8 (ownLeaf e f))
  have dropped := stored.trans (serviceKept_tlbDrop _ (fun x => x.part = p && x.entry = entry))
  rw [installOwn, if_pos h, movePages_of_noWindows (dropped.noWindows hw)]
  refine ⟨dropped, ?_⟩
  rw [storeDev_of_noWindows hw]
  rfl

/-- The frame that a pool gives is its HEAD's, and HEAD alone is stored. -/
theorem takeFrame_store {s u : State} {p f : Nat} (h : takeFrame s p = some (f, u)) : ∃ v, u = storeDev s (poolHead s p) (leBytes 4 v) := by
  unfold takeFrame at h
  split at h
  · cases h
  · simp only [Option.some.injEq, Prod.mk.injEq] at h
    obtain ⟨-, rfl⟩ := h
    exact ⟨_, rfl⟩

theorem cowBegin_of_last {s : State} {e : Nat} (p va entry : Nat) (live : readNum s (entryDesc e) 8 % 2 = 1)
    (one : readNum s (entryDesc e + 8) 4 = 1) : cowBegin s p va entry e =
      (installOwn (retireDesc (storeDev s (entryDesc e + 8) (leBytes 4 0)) p (entryDesc e)) p va entry e (descFrame s (entryDesc e)) false,
        .over) := by
  simp [cowBegin, (bit_zero_iff _).mpr live, one]

theorem cowBegin_of_shared {s u : State} {e f : Nat} (p va entry : Nat) (live : readNum s (entryDesc e) 8 % 2 = 1)
    (many : readNum s (entryDesc e + 8) 4 ≠ 1) (h : takeFrame s p = some (f, u)) : ∃ bad, cowBegin s p va entry e =
      (poisonAt (storeDev u f (readMem u (descFrame u (entryDesc e)) 4096)) bad, .copied f) := by
  simp only [cowBegin, (bit_zero_iff _).mpr live, Bool.not_true, Bool.false_eq_true, if_false, many, h]
  exact ⟨_, rfl⟩

theorem cowEnd_of_shared {s : State} {e : Nat} (p va entry f : Nat) (many : readNum s (entryDesc e + 8) 4 ≠ 1) : cowEnd s p va entry e f =
    installOwn (storeDev s (entryDesc e + 8) (leBytes 4 ((readNum s (entryDesc e + 8) 4 + 2 ^ 32 - 1) % 2 ^ 32))) p va entry e f true := by
  unfold cowEnd
  simp only [many, if_false]

/-! ### Steps of a copy at the head of its queue -/

section
variable {s : State} {p entry : Nat} {r : PageRead} (hm : Memory.wf s.mem = true) (hp : readInProgress s entry true = some (p, r))
  (hq : (partOf s p).reads.head? = some r) (late : s.late = []) (tags : s.units.tags = []) (hw : NoWindows s) (hgo : TeamsGoOn s)

include hp in
theorem readInProgress_spec : r.entry = entry ∧ r.cow = true := by
  obtain ⟨q, -, h⟩ := List.exists_of_findSome?_eq_some hp
  obtain ⟨r', hr, e⟩ := Option.map_eq_some_iff.mp h
  cases e
  simpa using List.find?_some hr

include hp hq in
theorem cowStep_head : cowStep s entry = cowPart s p r := by
  obtain ⟨he, hc⟩ := readInProgress_spec hp
  obtain ⟨qs, hqs⟩ := List.head?_eq_some_iff.mp hq
  simp [cowStep, hp, hqs, he, hc, serviceStep_of_cow hq hc]

include late tags in
/-- With no access to be performed first and no tag, a copy whose frame is taken ends. -/
theorem cowPart_of_taken (p : Nat) (h : r.taken = true) :
    cowPart s p r = endRead (cowEnd s p r.va r.entry r.value.toNat r.frame) p r false := by
  simp only [cowPart, promote_of_noTags tags, drainFrame, performThose_of_noLate late, h, if_true]

include late tags in
theorem cowPart_of_over {p : Nat} {u : State} (h : r.taken = false) (hb : cowBegin s p r.va r.entry r.value.toNat = (u, .over)) :
    cowPart s p r = endRead u p r false := by
  simp only [cowPart, promote_of_noTags tags, drainFrame, performThose_of_noLate late, h, Bool.false_eq_true, if_false, hb]

include late tags in
theorem cowPart_of_copied {p f : Nat} {u : State} (h : r.taken = false) (hb : cowBegin s p r.va r.entry r.value.toNat = (u, .copied f)) :
    cowPart s p r =
      modPart u p (fun x => { x with reads := x.reads.map (fun q => if q.id = r.id then { q with frame := f, taken := true } else q) }) := by
  simp only [cowPart, promote_of_noTags tags, drainFrame, performThose_of_noLate late, h, Bool.false_eq_true, if_false, hb]

include hm hp hq late tags hw

include hgo in
/-- The last sharer's copy: the entry has the frame, and the descriptor is neither counted nor live. -/
theorem cowStep_of_last (ht : r.taken = false) (live : readNum s (entryDesc r.value.toNat) 8 % 2 = 1)
    (one : readNum s (entryDesc r.value.toNat + 8) 4 = 1) (he : readNum s entry 8 = r.value.toNat)
    (ha : apart entry 8 (entryDesc r.value.toNat) 12) :
    readMem (cowStep s entry) entry 8 = leBytes 8 (ownLeaf r.value.toNat (descFrame s (entryDesc r.value.toNat))) ∧
      readNum (cowStep s entry) (entryDesc r.value.toNat + 8) 4 = 0 ∧ readNum (cowStep s entry) (entryDesc r.value.toNat) 8 % 2 = 0 ∧
      ∀ q ∈ (partOf (cowStep s entry) p).reads, q.id ≠ r.id := by
  obtain ⟨rfl, -⟩ := readInProgress_spec hp
  set e := r.value.toNat
  set d := entryDesc e
  set a := storeDev s (d + 8) (leBytes 4 0)
  set b := retireDesc a p d
  have counted : a = storeSnoop s (d + 8) (leBytes 4 0) := storeDev_of_noWindows hw _ _
  have ka : ServiceKept s a := serviceKept_storeDev hw _ _
  have wa : Memory.wf a.mem = true := by rw [counted]; exact formKept_storeSnoop _ _ _ hm
  have kb : ServiceKept s b := ka.trans (serviceKept_retireDesc (ka.noWindows hw) _ _)
  have retired : b.mem = _ := mem_retireDesc (ka.noWindows hw) p d
  have wb : Memory.wf b.mem = true := by rw [retired]; exact formKept_storeSnoop _ _ _ wa
  have holds : readNum b r.entry 8 = e := by
    rw [readNum, readMem_congr retired, readMem_storeSnoop_num_apart _ _ _ _ _ _ wa (by unfold apart at *; omega), counted,
      readMem_storeSnoop_num_apart _ _ _ _ _ _ hm (by unfold apart at *; omega)]
    exact he
  obtain ⟨kc, installed⟩ := installOwn_of_match (kb.noWindows hw) p r.va (descFrame s d) false holds
  have ended := readOver_endRead ((kb.trans kc).teamsGoOn hgo) p r false
  rw [← cowPart_of_over late tags ht (cowBegin_of_last p r.va r.entry live one), ← cowStep_head hp hq] at ended
  have mem := ended.mem.trans installed
  refine ⟨?_, ?_, ?_, ended.gone⟩
  · rw [readMem_congr mem, readMem_storeSnoop_num _ _ _ _ wb]
  · rw [readNum, readMem_congr mem, readMem_storeSnoop_num_apart _ _ _ _ _ _ wb (by unfold apart at *; omega), readMem_congr retired,
      readMem_storeSnoop_num_apart _ _ _ _ _ _ wa (by unfold apart; omega), counted, readMem_storeSnoop_num _ _ _ _ hm, leNat_leBytes]
    rfl
  · rw [readNum, readMem_congr mem, readMem_storeSnoop_num_apart _ _ _ _ _ _ wb (by unfold apart at *; omega), readMem_congr retired,
      readMem_storeSnoop_num _ _ _ _ wa, leNat_leBytes, Nat.mod_mod_of_dvd _ (by decide)]
    omega

/-- A copy with other sharers: the page is in the frame that was taken, and the copy goes on. -/
theorem cowStep_of_shared {f : Nat} {u : State} (ht : r.taken = false) (live : readNum s (entryDesc r.value.toNat) 8 % 2 = 1)
    (many : readNum s (entryDesc r.value.toNat + 8) 4 ≠ 1) (hf : takeFrame s p = some (f, u))
    (hpage : apart (poolHead s p) 4 (descFrame s (entryDesc r.value.toNat)) 4096) (hdesc : apart (poolHead s p) 4 (entryDesc r.value.toNat) 8) :
    readMem (cowStep s entry) f 4096 = readMem s (descFrame s (entryDesc r.value.toNat)) 4096 ∧
      (partOf (cowStep s entry) p).reads.head? = some { r with frame := f, taken := true } := by
  obtain ⟨bad, hb⟩ := cowBegin_of_shared p r.va r.entry live many hf
  obtain ⟨v, hu⟩ := takeFrame_store hf
  have ku : ServiceKept s u := hu ▸ serviceKept_storeDev hw _ _
  have kept := (ku.trans (serviceKept_storeDev (ku.noWindows hw) f (readMem u (descFrame u (entryDesc r.value.toNat)) 4096))).trans
    (serviceKept_poisonAt _ bad)
  rw [storeDev_of_noWindows hw] at hu
  have wu : Memory.wf u.mem = true := by rw [hu]; exact formKept_storeSnoop _ _ _ hm
  have frame : descFrame u (entryDesc r.value.toNat) = descFrame s (entryDesc r.value.toNat) := by
    rw [descFrame, readNum, hu, readMem_storeSnoop_num_apart _ _ _ _ _ _ hm hdesc]
    rfl
  have page : readMem u (descFrame s (entryDesc r.value.toNat)) 4096 = readMem s (descFrame s (entryDesc r.value.toNat)) 4096 := by
    rw [hu, readMem_storeSnoop_num_apart _ _ _ _ _ _ hm hpage]
  rw [cowStep_head hp hq, cowPart_of_copied late tags ht hb]
  constructor
  · rw [readMem_congr (modPart_mem _ _ _), readMem_congr (mem_poisonAt _ _), storeDev_of_noWindows (ku.noWindows hw), frame,
      readMem_storeSnoop_copy _ _ _ _ wu, page]
  · rw [partOf_modPart_self, List.head?_map, kept.reads p, hq, Option.map_some, if_pos rfl]

include hgo in
/-- The second part: COUNT falls by one, and the entry has the copy. -/
theorem cowStep_of_taken (ht : r.taken = true) (many : readNum s (entryDesc r.value.toNat + 8) 4 ≠ 1)
    (he : readNum s entry 8 = r.value.toNat) (ha : apart (entryDesc r.value.toNat + 8) 4 entry 8) :
    readMem (cowStep s entry) entry 8 = leBytes 8 (ownLeaf r.value.toNat r.frame) ∧
      readNum (cowStep s entry) (entryDesc r.value.toNat + 8) 4 = (readNum s (entryDesc r.value.toNat + 8) 4 + 2 ^ 32 - 1) % 2 ^ 32 ∧
      ∀ q ∈ (partOf (cowStep s entry) p).reads, q.id ≠ r.id := by
  obtain ⟨rfl, -⟩ := readInProgress_spec hp
  set e := r.value.toNat
  set d := entryDesc e
  have cowed := cowEnd_of_shared p r.va r.entry r.frame many
  obtain ⟨c, hc⟩ : ∃ c, c = (readNum s (d + 8) 4 + 2 ^ 32 - 1) % 2 ^ 32 := ⟨_, rfl⟩
  rw [← hc] at cowed ⊢
  set a := storeDev s (d + 8) (leBytes 4 c)
  have counted : a = storeSnoop s (d + 8) (leBytes 4 c) := storeDev_of_noWindows hw _ _
  have ka : ServiceKept s a := serviceKept_storeDev hw _ _
  have wa : Memory.wf a.mem = true := by rw [counted]; exact formKept_storeSnoop _ _ _ hm
  have holds : readNum a r.entry 8 = e := by
    rw [readNum, counted, readMem_storeSnoop_num_apart _ _ _ _ _ _ hm ha]
    exact he
  obtain ⟨kc, installed⟩ := installOwn_of_match (ka.noWindows hw) p r.va r.frame true holds
  have ended := readOver_endRead ((ka.trans kc).teamsGoOn hgo) p r false
  rw [← cowed, ← cowPart_of_taken late tags p ht, ← cowStep_head hp hq] at ended
  have mem := ended.mem.trans (congrArg State.mem cowed |>.trans installed)
  refine ⟨?_, ?_, ended.gone⟩
  · rw [readMem_congr mem, readMem_storeSnoop_num _ _ _ _ wa]
  · rw [readNum, readMem_congr mem, readMem_storeSnoop_num_apart _ _ _ _ _ _ wa (by unfold apart at *; omega), counted,
      readMem_storeSnoop_num _ _ _ _ hm, leNat_leBytes, Nat.mod_eq_of_lt (hc ▸ Nat.mod_lt _ (by decide))]

end

end Sys2Proof.Machine
end

section
/-! Stash fills (R140): a sector that a TLB answers for takes the bytes of memory while no home holds bytes of its own. -/

namespace Sys2Proof.Machine

/-! ### Accesses to the L2 without bytes of a home's own -/

/-- Memory and the work are as before, and no home holds bytes of its own. -/
structure Unowned (s t : State) : Prop where
  mem : t.mem = s.mem
  work : t.work = s.work
  own : ∀ y ∈ t.units.l2, y.own = []

theorem Unowned.trans {a b c : State} (h : Unowned a b) (k : Unowned b c) : Unowned a c := ⟨k.mem.trans h.mem, k.work.trans h.work, k.own⟩

theorem Unowned.of_l2 {s t u : State} (h : Unowned s t) (hm : u.mem = t.mem) (hw : u.work = t.work) (hl : u.units.l2 = t.units.l2) :
    Unowned s u := ⟨hm.trans h.mem, hw.trans h.work, hl ▸ h.own⟩

theorem unowned_snoopRead {s : State} (h : ∀ y ∈ s.units.l2, y.own = []) (line : Nat) : Unowned s (snoopRead s line) := by
  unfold snoopRead
  split <;> exact ⟨rfl, rfl, h⟩

theorem unowned_charge {s : State} (h : ∀ y ∈ s.units.l2, y.own = []) (p lo n : Nat) : Unowned s (charge s p lo n) := ⟨rfl, rfl, h⟩

/-- Where no byte is written, no home begins to hold bytes of its own. -/
theorem unowned_keepHomes {s : State} (h : ∀ y ∈ s.units.l2, y.own = []) (home line : Nat) {hit : Nat → Bool} (hh : ∀ a, hit a = false) :
    Unowned s (keepHomes s home line hit) := by
  unfold keepHomes
  split
  · refine ⟨rfl, rfl, fun y hy => ?_⟩
    obtain ⟨x, hx, rfl⟩ := List.mem_map.mp hy
    split
    · exact h x hx
    · split
      · simp [h x hx]
      · simp [ownAfter, hh, h x hx]
  · exact ⟨rfl, rfl, h⟩

theorem unowned_ownBack {s : State} (h : ∀ y ∈ s.units.l2, y.own = []) {l : L2Line} (hl : l.own = []) : Unowned s (ownBack s l) := by
  simp only [ownBack, hl, List.filter_nil, List.foldl_nil]
  exact unowned_keepHomes h _ _ fun _ => rfl

/-- A victim without bytes of its own leaves no byte behind. -/
theorem unowned_evictWith {s : State} (h : ∀ y ∈ s.units.l2, y.own = []) (l : L2Line) : Unowned s (evictWith (fun s _ => s) s l) := by
  unfold evictWith
  extract_lets u
  have hu : Unowned s u := by
    dsimp only [u]
    split <;> exact ⟨rfl, rfl, h⟩
  clear_value u
  split
  · exact hu
  · rename_i v hv
    have charged := hu.trans (unowned_charge hu.own v.part 0x162 (sectorCount v.dirty))
    have back := charged.trans (unowned_ownBack charged.own (hu.own v (List.mem_of_find?_eq_some hv)))
    exact ⟨back.mem, back.work, fun y hy => back.own y (List.mem_filter.mp hy).1⟩

theorem unowned_touchWith {s : State} (h : ∀ y ∈ s.units.l2, y.own = []) (p : Nat) (g write : Bool) (pa : Nat) :
    Unowned s (touchWith (fun s _ => s) s p g write pa) := by
  unfold touchWith
  split
  · exact ⟨rfl, rfl, h⟩
  · extract_lets line u sec home present sameSet u0 units u1 missing u2
    have hu : Unowned s u := unowned_snoopRead h _
    have hu1 : Unowned s u1 := by
      dsimp only [u1]
      split
      · exact hu
      · have hu0 : Unowned s u0 := by
          dsimp only [u0]
          split
          · exact hu
          · split
            · exact hu.trans (unowned_evictWith hu.own _)
            · exact hu
        refine ⟨hu0.mem, hu0.work, fun y hy => ?_⟩
        rcases List.mem_append.mp hy with hy | hy
        · exact hu0.own y hy
        · obtain rfl := List.mem_singleton.mp hy
          rfl
    have hu2 : Unowned s u2 := by
      dsimp only [u2]
      split
      · exact hu1.trans (unowned_charge hu1.own _ _ _)
      · exact hu1
    refine ⟨hu2.mem, hu2.work, fun y hy => ?_⟩
    obtain ⟨x, hx, rfl⟩ := List.mem_map.mp hy
    split <;> exact hu2.own x hx

/-- Without releaser tags an access to a line's tag writes nothing back. -/
theorem unowned_touchL2 {s : State} (tags : s.units.tags = []) (h : ∀ y ∈ s.units.l2, y.own = []) (p : Nat) (g write : Bool) (pa : Nat) :
    Unowned s (touchL2 s p g write pa) := by
  rw [touchL2, tags]
  exact unowned_touchWith h p g write pa

/-- Homes without bytes of their own give the bytes of memory. -/
theorem l2Read_of_unowned {s : State} (h : ∀ y ∈ s.units.l2, y.own = []) (p : Nat) (g : Bool) (pa n : Nat) :
    l2Read s p g pa n = readMem s pa n := by
  unfold l2Read
  split
  · rename_i x hx
    have := List.find?_some hx
    simp [h x (List.mem_of_find?_eq_some hx)] at this
  · rfl

/-! ### Accesses that a TLB answers, and clean sectors -/

theorem translate_of_tlbHit {s : State} {core p va : Nat} {a : Acc} {e : TlbEntry} (h : tlbHit s core p va a = some e) :
    translate s core p va a = reach s va e := by simp [translate, h]

theorem noteAccess_of_tlbHit {s : State} {core p va : Nat} {a : Acc} {e : TlbEntry} (h : tlbHit s core p va a = some e) :
    noteAccess s core p va a = s := by simp [noteAccess, h]

theorem cleanSector_of_clean (s : State) (c : Nat) {x : L1Sector} (h : x.dirty = 0) : cleanSector s c x = s := by
  simp [cleanSector, cleanWith, h]

/-! ### The bytes of a sector -/

/-- A byte that was stored is read back, wherever the store lies. -/
theorem scratchGet_scratchPut_self (t : Team) (side off : Nat) (bs : List Byte) {i : Nat} (hi : i < bs.length) :
    scratchGet (scratchPut t side off bs) side (off + i) = bs.getD i 0 := by
  unfold scratchGet scratchPut
  dsimp only
  have only (j : Nat) : decide (scratchKey side (off + j) = scratchKey side (off + i)) = decide (j = i) := by
    unfold scratchKey
    rw [decide_eq_decide]
    omega
  rw [tgetD_puts bs (fun j => scratchKey side (off + j)), List.filter_congr (q := fun j => decide (j = i)) fun j _ => only j,
    range_filter_eq hi]
  rfl

/-- A sector of a window filled with no byte of it dirty. -/
def Window.filled (w : Window) (n pa : Nat) : Window := { w with sectors := tput w.sectors n { dirty := 0 }, pages := tput w.pages n pa }

theorem fillWindow_windows (t : Team) (w : Window) {n : Nat} (pa : Nat) (bs : List Byte) (bad : List Nat) (hd : sectorDirty w n = 0)
    (ht : t.windows = [w]) : (fillWindow t w n pa bs bad).windows = [w.filled n pa] := by
  simp [fillWindow, setWindow, scratchPut, ht, hd, Window.filled]

theorem fillWindow_scratch (t : Team) (w : Window) {n : Nat} (pa : Nat) (bs : List Byte) (bad : List Nat) (hd : sectorDirty w n = 0)
    {i : Nat} (hi : i < 128) : scratchGet (fillWindow t w n pa bs bad) w.side (w.soff + 128 * n + i) = bs.getD i 0 := by
  have stored : (fillWindow t w n pa bs bad).scratch = (scratchPut t w.side (w.soff + 128 * n) ((List.range 128).map (fun i => bs.getD i 0))).scratch := by
    simp [fillWindow, setWindow, hd]
  have read := scratchGet_scratchPut_self t w.side (w.soff + 128 * n) ((List.range 128).map (fun i => bs.getD i 0)) (i := i) (by simpa using hi)
  rw [scratchGet, stored]
  refine read.trans ?_
  simp [List.getD_eq_getElem?_getD, hi]

/-! ### The fill -/

/-- An unfilled sector that a TLB answers for is filled, with no earlier operation in its partition's queue and no dirty byte of the core's
L1. -/
theorem stashFillAt_of_tlbHit {s : State} {k side off n pa : Nat} {x : Team} {w : Window} {e : TlbEntry} (hx : team? s k = some x)
    (hw : windowAt x side off = some (w, n)) (hf : sectorFilled w n = false) (hr : (partOf s (teamPart s k)).reads = [])
    (hc : ∀ y ∈ (coreOf s (x.core + side)).l1, y.dirty = 0)
    (hit : tlbHit s (x.core + side) (teamPart s k) (w.gaddr + 128 * n) .r = some e) (hp : reach s (w.gaddr + 128 * n) e = .ok pa e.g) :
    ∃ bad, stashFillAt s k side off =
      modTeam (mergeL1 (touchL2 s (teamPart s k) e.g false pa) (x.core + side) pa (BitVec.allOnes 128)
        (l2Read (touchL2 s (teamPart s k) e.g false pa) (teamPart s k) e.g pa 128)) k
        (fun t => fillWindow t w n pa (l2Read (touchL2 s (teamPart s k) e.g false pa) (teamPart s k) e.g pa 128) bad) := by
  have clean (y : L1Sector) (hy : l1Find s (x.core + side) pa = some y) : cleanSector s (x.core + side) y = s :=
    cleanSector_of_clean _ _ (hc y (List.mem_of_find?_eq_some hy))
  cases held : l1Find s (x.core + side) pa
  all_goals simp only [stashFillAt, hx, hw, hf, translate_of_tlbHit hit, hp, hr, noteAccess_of_tlbHit hit, held, List.isEmpty_nil,
    Bool.not_true, Bool.false_eq_true, if_false]
  case none => exact ⟨_, rfl⟩
  case some y =>
    rw [clean y held]
    exact ⟨_, rfl⟩

/-- The fill of the one window of a team: its bytes are those of memory, and the sector is clean and known by its address. -/
theorem fillSector_of_tlbHit {s : State} {k sector pa : Nat} {x : Team} {w : Window} {e : TlbEntry} (hx : team? s k = some x)
    (hws : x.windows = [w]) (hlen : 128 * sector < w.len) (hs : tget? w.sectors sector = none) (hf : sectorFilled w sector = false)
    (hr : (partOf s (teamPart s k)).reads = []) (tags : s.units.tags = []) (own : ∀ y ∈ s.units.l2, y.own = [])
    (hc : ∀ y ∈ (coreOf s (x.core + w.side)).l1, y.dirty = 0)
    (hit : tlbHit s (x.core + w.side) (teamPart s k) (w.gaddr + 128 * sector) .r = some e)
    (hp : reach s (w.gaddr + 128 * sector) e = .ok pa e.g) :
    (fillSector s k w.side w.num sector).mem = s.mem ∧ ∃ y, team? (fillSector s k w.side w.num sector) k = some y ∧
      y.windows = [w.filled sector pa] ∧
      ∀ i, i < 128 → scratchGet y w.side (w.soff + 128 * sector + i) = (readMem s pa 128).getD i 0 := by
  have bound : windowAt x w.side (w.soff + 128 * sector) = some (w, sector) := by
    simp [windowAt, hws, hlen]
  have hd : sectorDirty w sector = 0 := by simp [sectorDirty, hs]
  obtain ⟨bad, fill⟩ := stashFillAt_of_tlbHit hx bound hf hr hc hit hp
  have whole : fillSector s k w.side w.num sector = stashFillAt s k w.side (w.soff + 128 * sector) := by
    simp [fillSector, hx, hws, hlen]
  have quiet := unowned_touchL2 tags own (teamPart s k) e.g false pa
  rw [l2Read_of_unowned quiet.own, readMem_congr quiet.mem] at fill
  rw [whole, fill]
  refine ⟨quiet.mem, _, ?_, fillWindow_windows x w pa _ bad hd hws, fun i hi => fillWindow_scratch x w pa _ bad hd hi⟩
  have found : team? (touchL2 s (teamPart s k) e.g false pa) k = some x := by rw [team?, quiet.work]; exact hx
  rw [team?_modTeam, if_pos rfl]
  exact congrArg (Option.map _) found

end Sys2Proof.Machine
end

section
/-! The placement of a group that was swapped out (R159): what the moves of its wave leave of the groups. -/

namespace Sys2Proof.Machine

/-! ### Moves of register lines -/

/-- A group without its registers. -/
def Group.unread (x : Group) : Group := { x with regs := [] }

/-- The groups are as before but for their registers. -/
def LinesOnly (s t : State) : Prop := ∀ g, (group? t g).map Group.unread = (group? s g).map Group.unread

theorem LinesOnly.refl (s : State) : LinesOnly s s := fun _ => rfl

theorem LinesOnly.trans {a b c : State} (h : LinesOnly a b) (k : LinesOnly b c) : LinesOnly a c := fun g => (k g).trans (h g)

theorem LinesOnly.foldl {α : Type} (f : State → α → State) (h : ∀ s a, LinesOnly s (f s a)) (as : List α) (s : State) :
    LinesOnly s (as.foldl f s) := by
  induction as generalizing s with
  | nil => exact LinesOnly.refl s
  | cons a as ih => exact (h s a).trans (ih _)

theorem LinesOnly.of_groups {s t : State} (h : t.work.groups = s.work.groups) : LinesOnly s t := fun g => by rw [group?, h]; rfl

theorem ContextsKept.linesOnly {s t : State} (h : ContextsKept s t) : LinesOnly s t := .of_groups (congrArg Contexts.groups h)

theorem linesOnly_modGroup (s : State) (g : Nat) (f : Group → Group) (hf : ∀ x, (f x).unread = x.unread) : LinesOnly s (modGroup s g f) := by
  intro h
  rw [group?_modGroup]
  split
  · rename_i e
    subst e
    cases group? s h <;> simp [hf]
  · rfl

theorem linesOnly_modSlot (s : State) (k : Nat) (f : Slot → Slot) : LinesOnly s (modSlot s k f) := .of_groups rfl

theorem linesOnly_fetchLine (s : State) (k r : Nat) : LinesOnly s (fetchLine s k r) := by
  unfold fetchLine
  split
  · exact .refl _
  · split
    · refine LinesOnly.trans (LinesOnly.foldl _ (fun u pos => ?_) _ s) (linesOnly_modSlot _ _ _)
      split
      · exact linesOnly_modGroup _ _ _ fun x => by split <;> rfl
      · exact .refl _
    · exact .refl _

theorem linesOnly_fetchLines (s : State) (k : Nat) : LinesOnly s (fetchLines s k) := by
  unfold fetchLines
  split
  · exact LinesOnly.foldl _ (fun _ _ => linesOnly_fetchLine _ _ _) _ _
  · exact .refl _

theorem linesOnly_storeLine (s : State) (base r : Nat) (es : List Elem) : LinesOnly s (storeLine s base r es) :=
  ((contextsKept_storeDev _ _ _).trans (contextsKept_storeDev _ _ _)).linesOnly

theorem linesOnly_evictReg (s : State) (k r : Nat) : LinesOnly s (evictReg s k r) :=
  (linesOnly_storeLine _ _ _ _).trans (linesOnly_modSlot _ _ _)

/-- A wave's lines that follow it touch no field of a group but its registers. -/
theorem linesOnly_moveLines (s : State) (k j : Nat) : LinesOnly s (moveLines s k j) := by
  unfold moveLines
  split
  · exact .refl _
  · rename_i x _
    split
    · exact .refl _
    · extract_lets cleared near evicted base there stored copied
      have hcleared : LinesOnly s cleared := LinesOnly.foldl _ (fun _ _ => linesOnly_fetchLines _ _) _ _
      have hevicted : LinesOnly cleared evicted := by
        dsimp only [evicted]
        split
        · exact .refl _
        · exact LinesOnly.foldl _ (fun _ _ => linesOnly_evictReg _ _ _) _ _
      have hcopied : LinesOnly evicted copied := LinesOnly.foldl _ (fun _ _ => linesOnly_storeLine _ _ _ _) _ _
      have moved := hcleared.trans (hevicted.trans hcopied)
      split
      · exact moved
      · exact moved.trans (linesOnly_modSlot _ _ _)

theorem linesOnly_resumeSlot (s : State) (k : Nat) : LinesOnly s (resumeSlot s k) := by
  unfold resumeSlot
  dsimp only
  split <;> exact .of_groups rfl

/-! ### Seats -/

theorem LinesOnly.map_eq {α : Type} {s t : State} (h : LinesOnly s t) (f : Group → α) (hf : ∀ x, f x.unread = f x) (g : Nat) :
    (group? t g).map f = (group? s g).map f := by
  have e := congrArg (Option.map f) (h g)
  simpa only [Option.map_map, Function.comp_def, hf] using e

/-- A group whose wave has gone from slot `k` to slot `j`. -/
def Group.reseated (x : Group) (k j : Nat) : Group :=
  if x.ended then x else { x with seats := x.seats.map (fun n => if n = k then j else n) }

theorem group?_moveSlot_eq (s : State) (k j g : Nat) :
    group? (moveSlot s k j) g = (group? (moveLines s k j) g).map (fun x => x.reseated k j) :=
  tget?_map_snd (moveLines s k j).work.groups (fun x => x.reseated k j) g

/-- A group that goes on takes the new seat in the place of the old one, with the slices that it had. -/
theorem group?_moveSlot {s : State} {g k j : Nat} {x : Group} (hx : group? s g = some x) (live : x.ended = false) (hk : x.seats = [k]) :
    (group? (moveSlot s k j) g).map (fun y => (y.seats, y.slices)) = some ([j], x.slices) := by
  have lines := (linesOnly_moveLines s k j).map_eq (fun y => (y.ended, y.seats, y.slices)) (fun _ => rfl) g
  rw [hx, Option.map_some, live, hk] at lines
  obtain ⟨y, hy, e⟩ := Option.map_eq_some_iff.mp lines
  simp only [Prod.mk.injEq] at e
  obtain ⟨hended, hseats, hslices⟩ := e
  simp [group?_moveSlot_eq, Group.reseated, hy, hended, hseats, hslices]

/-! ### Placement -/

/-- A group whose wave still holds its slots runs where it is. -/
theorem placeSwapped_of_seated {s : State} {g : Nat} {x : Group} {m : Team} (hx : group? s g = some x) (hm : team? s x.team = some m)
    (hs : x.status = .swapped) (hp : x.pages = []) (hgo : m.stopped = false) (seated : ∀ k ∈ x.seats, k < 3072) :
    (group? (placeSwapped s g) g).map (fun y => (y.status, y.seats, y.slices)) = some (.run, x.seats, x.slices) := by
  have all : x.seats.all (· < 3072) = true := by simpa using seated
  simp [placeSwapped, hx, hm, hs, hp, hgo, all, group?_modGroup]

/-- A group whose wave gave its slot up runs in the slot that it takes, once its operations are complete. -/
theorem placeSwapped_of_returned {s : State} {g k j : Nat} {x : Group} {m : Team} (hx : group? s g = some x) (hm : team? s x.team = some m)
    (hs : x.status = .swapped) (hp : x.pages = []) (hgo : m.stopped = false) (hk : x.seats = [k]) (gave : 3072 ≤ k) (live : x.ended = false)
    (ready : groupsAwait s ((slotGroups s k).map (·.1)) = false) (slot : returnSlots s (slotCore k) [k] = some [j]) :
    (group? (placeSwapped s g) g).map (fun y => (y.status, y.seats, y.slices)) = some (.run, [j], x.slices) := by
  have away : ([k].all (· < 3072)) = false := by simpa using gave
  have moved := group?_moveSlot (j := j) hx live hk
  rw [← (linesOnly_resumeSlot (moveSlot s k j) j).map_eq (fun y => (y.seats, y.slices)) (fun _ => rfl) g] at moved
  obtain ⟨y, hy, e⟩ := Option.map_eq_some_iff.mp moved
  obtain ⟨hseats, hslices⟩ := Prod.mk.inj e
  simp [placeSwapped, hx, hm, hs, hp, hgo, hk, away, ready, slot, group?_modGroup, hy, hseats, hslices]

end Sys2Proof.Machine
end

section
open Sys2Proof Sys2Proof.Machine

/-- Settles O49: while no window is bound and no team is about to end, the service of a page comes down to stores at known places and the
end of an operation; a fill's access to the L2 leaves memory alone while no home holds bytes of its own; and the moves of a wave's lines
leave its groups' seats and slices to the move itself. -/
theorem pagesAndStashSectorsAreServed : Obligations.PagesAndStashSectorsAreServed := by
  unfold Obligations.PagesAndStashSectorsAreServed
  refine ⟨?fill, ?read, ?placement, ?cow⟩
  case fill =>
    intro s k sector pa x w hx hws hlen hs hf hr tags own hc mapped
    obtain ⟨e, hit, hp⟩ := mapped 0 Nat.one_pos .r (List.mem_singleton_self _)
    obtain ⟨hmem, y, hy, hyw, bytes⟩ := fillSector_of_tlbHit hx hws hlen hs hf hr tags own hc hit hp
    refine ⟨_, rfl, fun a => congrArg (memGet · a) hmem, ⟨y, hy, fun i hi => bytes i (by rwa [readMem_length] at hi)⟩, y, _, hy, hyw, ?_, ?_⟩
    · exact tget?_tput_self _ _ _
    · exact tget?_tput_self _ _ _
  case read =>
    intro s p entry sct sc block r hready awaits
    refine ⟨fun q qs hq hne hc hr => ?_, fun hq hw hgo => ?_⟩
    · refine ⟨_, rfl, ?_⟩
      rw [nvmeStep_behind sct sc block hready awaits (by rw [hq]; rfl) hne hc hr]
      exact ⟨fun _ => rfl, reads_withResult _ _ _ _⟩
    · obtain ⟨u, ended, work, good, bad⟩ := nvmeStep_head_spec sct sc block hready awaits hq hw hgo
      refine ⟨_, rfl, ended.gone, fun g x hx => ?_, fun hm ok _ he _ => ?_, fun fails => ?_⟩
      · have hg := ended.groups g
        rw [group?, group?, work] at hg
        refine ⟨_, hg.trans (congrArg _ hx), x.not_mem_pages_readOver _ _ _, fun fails waited => ?_⟩
        rw [decide_eq_false fails]
        exact Group.mem_failed_readOver entry waited
      · funext a
        rw [ended.mem, good ok he, memGet_storeSnoop _ _ _ _ (formKept_storeSnoop _ _ _ hm),
          funext fun a => memGet_storeSnoop s r.frame a block hm]
        rfl
      · obtain ⟨es, hes⟩ := bad fails
        exact ⟨es, ended.events.trans hes⟩
  case placement =>
    intro s g x m hx hm hs hp hgo
    exact ⟨fun seated => ⟨_, rfl, placeSwapped_of_seated hx hm hs hp hgo seated⟩, fun k j hk gave live ready slot =>
      ⟨_, rfl, placeSwapped_of_returned hx hm hs hp hgo hk gave live ready slot⟩⟩
  case cow =>
    intro s p entry r hm hp hq late tags hw hgo
    dsimp only
    rw [← entryDesc_eq]
    simp only [← ownLeaf_eq]
    refine ⟨fun ht live one he ha => ⟨_, rfl, cowStep_of_last hm hp hq late tags hw hgo ht live one he ha⟩,
      fun f u ht live many hf _ hpage hdesc => ⟨_, rfl, cowStep_of_shared hm hp hq late tags hw ht live many hf hpage hdesc⟩,
      fun ht many he ha => ⟨_, rfl, cowStep_of_taken hm hp hq late tags hw hgo ht many he ha⟩⟩

end

section
/-! A wave whose lanes run on two cores: the table of groups lists group 3 twice, and the two entries sit in slots of different cores. -/

namespace Sys2Proof.Machine

/-- One lane that runs at 0x2000. -/
def loneSlice : Slice := { plainSlice with prog := { plainSlice.prog with running := 1 } }

/-- A tagged store at device scope of lane 0 of group 2, left by the instruction of issue 7 to be performed. -/
def lateStore : Late :=
  { id := 5, issue := 7, lane := .wave 2 0, op := .store [7], place := none, addr := 0x1000, ga := none, size := 1, g := true,
    sc := .dev, acq := false, rel := false, tag := true, post := 0, dst := 0, fenced := false }

/-- A load of the same byte by lane 0 of group 3, of the same instruction. -/
def lateLoad : Late := { lateStore with id := 6, lane := .wave 3 0, op := .load, tag := false }

/-- Wave slot 0 of core 0 holds group 2 and the second entry of group 3; the first entry of group 3 sits in wave slot 24, of core 1. -/
def groupOnTwoCores : State :=
  let s := groupTwice loneSlice []
  let far := { oneSlice loneSlice with seats := [24], base := 4 }
  { s with work := { s.work with groups := [(2, oneSlice loneSlice), (3, far), (3, { far with seats := [0] })] }, late := [lateStore, lateLoad] }

theorem issuing_groupOnTwoCores : issuing groupOnTwoCores = [.wave 2 0, .wave 3 0] := by decide +kernel

/-- The fence of group 3's lane, on core 1, performs the load and the store before it, whose tag names core 0. -/
theorem fence_groupOnTwoCores_tags : (match exec (.fence .dev false) groupOnTwoCores with
    | .next t => some t.units.tags
    | _ => none) = some [{ line := 0x10, core := 0, team := 1 }] := by
  decide +kernel

end Sys2Proof.Machine
end

section
open Sys2Proof Sys2Proof.Machine

/-- Refutes O19: the statement is about every state, also one whose table lists a group twice, so that one wave has lanes on two cores. The
FENCE of the first lane takes the tags of core 0 away and leaves its store to be performed; that of the second lane, on core 1, performs
the store, and with it the line is tagged for core 0 again. -/
theorem not_fencesAndQueueWaits : ¬ Obligations.FencesAndQueueWaits := by
  unfold Obligations.FencesAndQueueWaits
  rintro ⟨fence, -⟩
  have first : .wave 2 0 ∈ issuing groupOnTwoCores := by rw [issuing_groupOnTwoCores]; exact List.mem_cons_self
  have filled : ∀ l ∈ issuing groupOnTwoCores,
      stashAbsent groupOnTwoCores (laneTeam groupOnTwoCores l) (laneSide groupOnTwoCores l) (fun _ => true) = none := by
    rw [issuing_groupOnTwoCores]
    decide +kernel
  obtain ⟨t, ht, -, -, -, -, wide⟩ := fence .dev false groupOnTwoCores (by decide +kernel) fun _ l hl => .inr (filled l hl)
  obtain ⟨-, untagged⟩ := (wide rfl).2 (.wave 2 0) first nofun
  have tags := fence_groupOnTwoCores_tags
  rw [ht] at tags
  have tagged : { line := 0x10, core := 0, team := 1 } ∈ t.units.tags := by
    rw [show t.units.tags = _ from Option.some.inj tags]
    exact List.mem_singleton_self _
  exact untagged _ tagged (by decide +kernel)

end

section
/-! Accesses while no cache is ahead of memory (Calm): what a lane's release, acquire, drain and promotion do then, and that an access to the
L2 changes nothing but its lines and the charges of a partition. -/

namespace Sys2Proof.Machine

/-! ### States that agree but for memory, the L2 and the partitions -/

/-- A state without memory, the host's copies of lines, the lines of the L2, and the partitions. -/
def beyondL2 (s : State) : State :=
  { s with mem := [], memPoison := [], outside := Outside.reset, units := { s.units with l2 := [], parts := [] } }

/-- `t` is `s` but for memory, the host's copies of lines, the lines of the L2, and the partitions. -/
def SameBeyondL2 (s t : State) : Prop := beyondL2 t = beyondL2 s

namespace SameBeyondL2
variable {s t u : State}

theorem refl (s : State) : SameBeyondL2 s s := rfl
theorem trans (h : SameBeyondL2 s t) (k : SameBeyondL2 t u) : SameBeyondL2 s u := Eq.trans k h

/-- What does not look at memory, the L2 or the partitions is the same. -/
theorem field {α : Type} (h : SameBeyondL2 s t) (f : State → α) (hf : ∀ x, f (beyondL2 x) = f x) : f t = f s := by
  rw [← hf t, ← hf s, show beyondL2 t = beyondL2 s from h]

theorem work (h : SameBeyondL2 s t) : t.work = s.work := h.field (·.work) fun _ => rfl
theorem late (h : SameBeyondL2 s t) : t.late = s.late := h.field (·.late) fun _ => rfl
theorem tags (h : SameBeyondL2 s t) : t.units.tags = s.units.tags := h.field (·.units.tags) fun _ => rfl
theorem cores (h : SameBeyondL2 s t) : t.units.cores = s.units.cores := h.field (·.units.cores) fun _ => rfl
theorem dieTlb (h : SameBeyondL2 s t) : t.units.dieTlb = s.units.dieTlb := h.field (·.units.dieTlb) fun _ => rfl
theorem sysRegs (h : SameBeyondL2 s t) : t.units.sysRegs = s.units.sysRegs := h.field (·.units.sysRegs) fun _ => rfl
theorem fuses (h : SameBeyondL2 s t) : t.units.fuses = s.units.fuses := h.field (·.units.fuses) fun _ => rfl
theorem linkDown (h : SameBeyondL2 s t) : t.units.linkDown = s.units.linkDown := h.field (·.units.linkDown) fun _ => rfl
theorem readyBits (h : SameBeyondL2 s t) : t.units.ready = s.units.ready := h.field (·.units.ready) fun _ => rfl

theorem sysReg (h : SameBeyondL2 s t) (n : Nat) : sysReg t n = sysReg s n := by rw [Machine.sysReg, h.sysRegs, Machine.sysReg]

theorem coreOf (h : SameBeyondL2 s t) (c : Nat) : coreOf t c = coreOf s c := by rw [Machine.coreOf, h.cores, Machine.coreOf]

theorem laneCore (h : SameBeyondL2 s t) (l : LaneId) : laneCore t l = laneCore s l := by
  cases l <;> simp only [Machine.laneCore, group?, team?, h.work]

theorem lanePart (h : SameBeyondL2 s t) (l : LaneId) : lanePart t l = lanePart s l := by
  cases l <;> simp only [Machine.lanePart, groupPart, teamPart, teamLaunch?, group?, team?, launch?, psel, h.work, h.sysReg]

theorem paTarget (h : SameBeyondL2 s t) (pa : Nat) : paTarget t pa = paTarget s pa := by
  unfold Machine.paTarget capacity
  rw [h.fuses]

theorem paOk (h : SameBeyondL2 s t) (pa : Nat) : paOk t pa = paOk s pa := by
  simp only [Machine.paOk, h.paTarget, peerReach, h.sysReg, h.fuses, h.linkDown]

theorem unitsReady (h : SameBeyondL2 s t) (pa : Nat) : unitsReady t pa = unitsReady s pa := by
  unfold Machine.unitsReady
  rw [h.paTarget, h.readyBits]

theorem reach (h : SameBeyondL2 s t) (va : Nat) (e : TlbEntry) : reach t va e = reach s va e := by
  unfold Machine.reach
  dsimp only
  rw [h.paOk, h.unitsReady]

/-- What a TLB answers a lane does not depend on memory or the L2. -/
theorem hits (h : SameBeyondL2 s t) {l : LaneId} {va pa : Nat} {a : Acc} (k : Hits s l va a pa) : Hits t l va a pa := by
  unfold Hits tlbHit at *
  simpa only [h.laneCore, h.lanePart, h.coreOf, h.dieTlb, h.reach] using k

end SameBeyondL2

/-! ### Charges -/

theorem enqs_modPart (s : State) (p q : Nat) (f : Part → Part) (hf : ∀ x, (f x).enqs = x.enqs) :
    (partOf (modPart s p f) q).enqs = (partOf s q).enqs := by
  by_cases h : q = p
  · subst h
    rw [partOf_modPart_self, hf]
  · simp only [partOf, modPart_units_parts, tgetD_tput_ne _ _ _ h]

theorem bankReg_setBankReg_ne (s : State) (p q : Nat) {n m : Nat} (v : Word) (h : m ≠ n) : bankReg (setBankReg s p n v) q m = bankReg s q m := by
  by_cases hq : q = p
  · subst hq
    rw [bankReg, setBankReg, partOf_modPart_self, tgetD_tput_ne _ _ _ h, bankReg]
  · simp only [bankReg, setBankReg, partOf, modPart_units_parts, tgetD_tput_ne _ _ _ hq]

/-- Beyond memory and the lines of the L2 only charges of partitions may have changed (R151). -/
structure Charged (s t : State) : Prop where
  beyond : SameBeyondL2 s t
  enqs : ∀ q, (partOf t q).enqs = (partOf s q).enqs
  slices : ∀ q, bankReg t q 0x1E3 = bankReg s q 0x1E3

theorem Charged.refl (s : State) : Charged s s := ⟨.refl s, fun _ => rfl, fun _ => rfl⟩

theorem Charged.trans {s t u : State} (h : Charged s t) (k : Charged t u) : Charged s u :=
  ⟨h.beyond.trans k.beyond, fun q => (k.enqs q).trans (h.enqs q), fun q => (k.slices q).trans (h.slices q)⟩

theorem Charged.of_parts {s t : State} (h : SameBeyondL2 s t) (hp : t.units.parts = s.units.parts) : Charged s t :=
  ⟨h, fun q => by simp only [partOf, hp], fun q => by simp only [bankReg, partOf, hp]⟩

theorem Charged.foldl {α : Type} (f : State → α → State) (h : ∀ s a, Charged s (f s a)) (as : List α) (s : State) :
    Charged s (as.foldl f s) := by
  induction as generalizing s with
  | nil => exact Charged.refl s
  | cons a as ih => exact (h s a).trans (ih _)

/-- The home of a line depends on no charge. -/
theorem Charged.homeSlice {s t : State} (h : Charged s t) (p : Nat) (g : Bool) (line : Nat) : homeSlice t p g line = homeSlice s p g line := by
  simp only [Machine.homeSlice, homeSlices, h.beyond.sysReg, h.beyond.fuses, h.slices]

theorem charged_snoopRead (s : State) (line : Nat) : Charged s (snoopRead s line) := by
  unfold snoopRead
  split <;> exact .of_parts rfl rfl

theorem charged_setBankReg (s : State) (p : Nat) {n : Nat} (v : Word) (h : 0x1E3 ≠ n) : Charged s (setBankReg s p n v) :=
  ⟨rfl, fun q => enqs_modPart s p q _ fun _ => rfl, fun q => bankReg_setBankReg_ne s p q v h⟩

theorem charged_charge (s : State) (p n : Nat) {lo : Nat} (h : lo + 1 < 0x1E3) : Charged s (charge s p lo n) :=
  (charged_setBankReg _ _ _ (by omega)).trans (charged_setBankReg _ _ _ (by omega))

theorem charged_storeSnoop (s : State) (pa : Nat) (bs : List Byte) : Charged s (storeSnoop s pa bs) := .of_parts rfl rfl

theorem charged_keepHomes (s : State) (home line : Nat) (hit : Nat → Bool) : Charged s (keepHomes s home line hit) := by
  unfold keepHomes
  split <;> exact .of_parts rfl rfl

theorem charged_ownBack (s : State) (l : L2Line) : Charged s (ownBack s l) :=
  (charged_keepHomes s _ _ _).trans (Charged.foldl _ (fun _ _ => charged_storeSnoop _ _ _) _ _)

theorem charged_evictWith {s : State} (tags : s.units.tags = []) (wb : State → Nat → State) (l : L2Line) : Charged s (evictWith wb s l) := by
  unfold evictWith
  rw [tags]
  dsimp only [List.find?_nil]
  split
  · exact .refl s
  · exact ((charged_charge s _ _ (by decide)).trans (charged_ownBack _ _)).trans (.of_parts rfl rfl)

theorem charged_touchWith {s : State} (tags : s.units.tags = []) (wb : State → Nat → State) (p : Nat) (g write : Bool) (pa : Nat) :
    Charged s (touchWith wb s p g write pa) := by
  unfold touchWith
  split
  · exact .refl s
  · extract_lets line u sec home present sameSet u0 units u1 missing u2
    have hu : Charged s u := charged_snoopRead s _
    have hu0 : Charged u u0 := by
      dsimp only [u0]
      split
      · exact .refl u
      · split
        · exact charged_evictWith (hu.beyond.tags.trans tags) wb _
        · exact .refl u
    have hu1 : Charged u u1 := by
      dsimp only [u1]
      split
      · exact .refl u
      · exact hu0.trans (.of_parts rfl rfl)
    have hu2 : Charged u1 u2 := by
      dsimp only [u2]
      split
      · exact charged_charge u1 _ _ (by decide)
      · exact .refl u1
    exact (hu.trans (hu1.trans hu2)).trans (.of_parts rfl rfl)

/-- Without releaser tags an access to a line's tag changes lines and charges only. -/
theorem charged_touchL2 {s : State} (tags : s.units.tags = []) (p : Nat) (g write : Bool) (pa : Nat) : Charged s (touchL2 s p g write pa) := by
  rw [touchL2, tags]
  exact charged_touchWith tags _ p g write pa

theorem charged_landL2 (s : State) (p : Nat) (g : Bool) (pa : Nat) (bs : List Byte) : Charged s (landL2 s p g pa bs) :=
  (charged_keepHomes s _ _ _).trans (charged_storeSnoop _ _ _)

/-! ### One home for a line (R147) -/

/-- The L2 holds a line for one home only. -/
def HeldAt (home line : Nat) (s : State) : Prop := ∀ x ∈ s.units.l2, x.line = line → x.slice = home

theorem HeldAt.of_l2 {home line : Nat} {s t : State} (h : HeldAt home line s) (hl : t.units.l2 = s.units.l2) : HeldAt home line t := by
  unfold HeldAt
  rw [hl]
  exact h

/-- Lines changed where they stand keep their homes. -/
theorem HeldAt.map {home line : Nat} {s t : State} (h : HeldAt home line s) {f : L2Line → L2Line} (hl : t.units.l2 = s.units.l2.map f)
    (hf : ∀ x, (f x).line = x.line ∧ (f x).slice = x.slice) : HeldAt home line t := by
  intro y hy hline
  rw [hl] at hy
  obtain ⟨x, hx, rfl⟩ := List.mem_map.mp hy
  rw [(hf x).2]
  exact h x hx ((hf x).1.symm.trans hline)

theorem heldAt_keepHomes {home line : Nat} {s : State} (h : HeldAt home line s) (k m : Nat) (hit : Nat → Bool) :
    HeldAt home line (keepHomes s k m hit) := by
  unfold keepHomes
  split
  · refine h.map rfl fun x => ?_
    split
    · exact ⟨rfl, rfl⟩
    · split <;> exact ⟨rfl, rfl⟩
  · exact h

theorem l2_foldl_storeSnoop {α : Type} (addr : α → Nat) (bs : α → List Byte) (as : List α) (s : State) :
    (as.foldl (fun s a => storeSnoop s (addr a) (bs a)) s).units.l2 = s.units.l2 := by
  induction as generalizing s with
  | nil => rfl
  | cons a as ih => exact (ih _).trans rfl

theorem heldAt_ownBack {home line : Nat} {s : State} (h : HeldAt home line s) (l : L2Line) : HeldAt home line (ownBack s l) := by
  unfold ownBack
  extract_lets mine
  exact (heldAt_keepHomes h _ _ _).of_l2 (l2_foldl_storeSnoop (fun b : Nat × Byte => 256 * l.line + b.1) (fun b => [b.2]) mine _)

theorem heldAt_evictWith {home line : Nat} {s : State} (h : HeldAt home line s) (tags : s.units.tags = []) (wb : State → Nat → State)
    (l : L2Line) : HeldAt home line (evictWith wb s l) := by
  unfold evictWith
  rw [tags]
  dsimp only [List.find?_nil]
  split
  · exact h
  · rename_i v _
    have charged : HeldAt home line (charge s v.part 0x162 (sectorCount v.dirty)) := h.of_l2 rfl
    exact fun y hy => heldAt_ownBack charged v y (List.mem_filter.mp hy).1

/-- An access to a line at its home leaves the line at that home only. -/
theorem heldAt_touchWith {s : State} {p : Nat} {g : Bool} {pa : Nat} (h : HeldAt (homeSlice s p g (pa / 256)) (pa / 256) s)
    (tags : s.units.tags = []) (wb : State → Nat → State) (write : Bool) :
    HeldAt (homeSlice s p g (pa / 256)) (pa / 256) (touchWith wb s p g write pa) := by
  unfold touchWith
  split
  · exact h
  · extract_lets line u sec home present sameSet u0 units u1 missing u2
    have hu : Charged s u := charged_snoopRead s _
    have held : HeldAt (homeSlice s p g line) line u := by
      refine h.of_l2 ?_
      dsimp only [u, snoopRead]
      split <;> rfl
    have hhome : homeSlice s p g line = home := (hu.homeSlice p g line).symm
    rw [hhome] at held ⊢
    have held0 : HeldAt home line u0 := by
      dsimp only [u0]
      split
      · exact held
      · split
        · exact heldAt_evictWith held (hu.beyond.tags.trans tags) wb _
        · exact held
    have held1 : HeldAt home line u1 := by
      dsimp only [u1]
      split
      · exact held
      · intro y hy hline
        rcases List.mem_append.mp hy with hy | hy
        · exact held0 y hy hline
        · obtain rfl := List.mem_singleton.mp hy
          rfl
    have held2 : HeldAt home line u2 := by
      dsimp only [u2]
      split
      · exact held1.of_l2 rfl
      · exact held1
    refine held2.map rfl fun x => ?_
    split <;> exact ⟨rfl, rfl⟩

theorem heldAt_touchL2 {s : State} {p : Nat} {g : Bool} {pa : Nat} (h : HeldAt (homeSlice s p g (pa / 256)) (pa / 256) s)
    (tags : s.units.tags = []) (write : Bool) : HeldAt (homeSlice s p g (pa / 256)) (pa / 256) (touchL2 s p g write pa) := by
  rw [touchL2, tags]
  exact heldAt_touchWith h tags _ write

/-- Bytes written at the only home of their line give no home bytes of its own: every home reads as memory. -/
theorem unowned_keepHomes_of_heldAt {home line : Nat} {s : State} (h : HeldAt home line s) (own : ∀ y ∈ s.units.l2, y.own = [])
    (hit : Nat → Bool) : Unowned s (keepHomes s home line hit) := by
  unfold keepHomes
  split
  · refine ⟨rfl, rfl, fun y hy => ?_⟩
    obtain ⟨x, hx, rfl⟩ := List.mem_map.mp hy
    split
    · exact own x hx
    · rename_i hline
      rw [if_pos (h x hx (not_not.mp hline))]
      simp [own x hx]
  · exact ⟨rfl, rfl, own⟩

end Sys2Proof.Machine
end

section
/-! TSPAWN and TSUCC (R185, R242, R243) while no cache is ahead of memory: each is an access of each lane to the L2, and an enqueue. -/

namespace Sys2Proof.Machine

/-! ### Caches that are not ahead of memory -/

/-- No access is left to be performed, and no releaser tag, stash window, home or L1 sector holds what memory does not. -/
structure Quiet (s : State) : Prop where
  late : s.late = []
  tags : s.units.tags = []
  windows : ∀ k x, team? s k = some x → x.windows = []
  lists : NoWindows s
  homes : ∀ x ∈ s.units.l2, x.own = []
  clean : ∀ c, ∀ x ∈ (coreOf s c).l1, x.dirty = 0

theorem Calm.quiet {s : State} (h : Calm s) : Quiet s where
  late := h.late
  tags := h.tags
  windows := h.windows
  lists := h.lists
  homes := h.homes
  clean c x hx := (h.sectors c x hx).2.1

theorem SameBeyondL2.contexts {s t : State} (h : SameBeyondL2 s t) : ContextsKept s t := h.field Machine.contexts fun _ => rfl

theorem SameBeyondL2.quiet {s t : State} (h : SameBeyondL2 s t) (hs : Quiet s) (homes : ∀ y ∈ t.units.l2, y.own = []) : Quiet t where
  late := h.late.trans hs.late
  tags := h.tags.trans hs.tags
  windows k x hx := hs.windows k x (by rwa [team?, h.work] at hx)
  lists := by rw [NoWindows, h.work]; exact hs.lists
  homes := homes
  clean c := by rw [h.coreOf]; exact hs.clean c

namespace Quiet
variable {s : State} (h : Quiet s)
include h

theorem recallStash_eq (pa : Nat) : recallStash s pa = s := by
  rw [recallStash, recallWith, stashHolders_of_noWindows h.lists]
  rfl

theorem shareStore_eq (pa : Nat) (bs : List Byte) : shareStore s pa bs = s := by
  rw [shareStore, stashHolders_of_noWindows h.lists]
  rfl

theorem stashAbsent_eq_none (k side : Nat) (pick : Window → Bool) : stashAbsent s k side pick = none := by
  unfold stashAbsent
  split
  · rfl
  · rename_i x hx
    rw [h.windows k x hx]
    rfl

theorem stashCleanAll_eq (k side : Nat) (unfill : Bool) : stashCleanAll s k side unfill = s := by
  unfold stashCleanAll
  split
  · rfl
  · rename_i x hx
    rw [h.windows k x hx]
    rfl

theorem writebackL1_eq (c : Nat) : writebackL1 s c = s := by
  have fold (xs : List L1Sector) (hx : ∀ x ∈ xs, x.dirty = 0) : xs.foldl (fun s x => cleanWith touchL2 s c x) s = s := by
    induction xs with
    | nil => rfl
    | cons x xs ih =>
      obtain ⟨hd, hxs⟩ := List.forall_mem_cons.1 hx
      rw [List.foldl_cons, show cleanWith touchL2 s c x = s from cleanSector_of_clean s c hd]
      exact ih hxs
  exact fold _ (h.clean c)

theorem dropTags_eq (f : RelTag → Bool) : dropTags s f = s := by
  unfold dropTags
  simp only [h.tags, List.filter_nil, List.map_nil, List.contains_nil, Bool.not_false, List.filter_true]
  rw [← h.tags]

theorem releaseLane_eq (l : LaneId) (sc : Scope) : releaseLane s l sc = s := by
  unfold releaseLane
  split
  · rfl
  · split
    · rw [releaseWide, h.stashCleanAll_eq, h.writebackL1_eq, h.dropTags_eq]
    · split
      · split
        · exact h.writebackL1_eq _
        · rfl
      · rfl

theorem drainLane_eq (l : LaneId) : drainLane s l = s := performThose_of_noLate h.late _

theorem promoteFor_eq (l : LaneId) (sc : Scope) (pa : Nat) : promoteFor s l sc pa = s := by
  unfold promoteFor
  split
  · exact promote_of_noTags h.tags _ _
  · rfl

/-- An acquire at device scope changes L1s only. -/
theorem acquireLane_cores (l : LaneId) : ∃ cs, acquireLane s l .dev = { s with units := { s.units with cores := cs } } := by
  have emptied (c : Nat) : ∃ cs, invalidateL1 s c = { s with units := { s.units with cores := cs } } :=
    ⟨_, by rw [invalidateL1, h.writebackL1_eq]; rfl⟩
  cases l with
  | mgmt n => exact ⟨_, rfl⟩
  | wave g i => exact emptied _
  | grip k => exact emptied _

theorem releaseAbsent_eq_none (l : LaneId) (sc : Scope) (rel : Bool) : releaseAbsent s l sc rel = none := by
  unfold releaseAbsent
  split
  · rfl
  · split
    · exact h.stashAbsent_eq_none _ _ _
    · rfl

theorem touched (p : Nat) (g write : Bool) (pa : Nat) : Charged s (touchL2 s p g write pa) ∧ Unowned s (touchL2 s p g write pa) :=
  ⟨charged_touchL2 h.tags p g write pa, unowned_touchL2 h.tags h.homes p g write pa⟩

/-- A store at the only home of its line. -/
theorem writeL2_spec {p : Nat} {g : Bool} {pa : Nat} (held : HeldAt (homeSlice s p g (pa / 256)) (pa / 256) s) (bs : List Byte) :
    Charged s (writeL2 s p g pa bs) ∧ (∀ y ∈ (writeL2 s p g pa bs).units.l2, y.own = []) ∧
      (writeL2 s p g pa bs).mem = (storeSnoop s pa bs).mem := by
  obtain ⟨charged, unowned⟩ := h.touched p g true pa
  have home := heldAt_touchL2 held h.tags true
  rw [← charged.homeSlice p g] at home
  have kept := unowned_keepHomes_of_heldAt home unowned.own (fun a => pa ≤ a && a < pa + bs.length)
  have landed : Charged s (landL2 (touchL2 s p g true pa) p g pa bs) := charged.trans (charged_landL2 _ p g pa bs)
  have eq : writeL2 s p g pa bs = landL2 (touchL2 s p g true pa) p g pa bs := by
    rw [writeL2, h.recallStash_eq]
    exact (landed.beyond.quiet h kept.own).shareStore_eq pa bs
  rw [eq]
  exact ⟨landed, kept.own, congrArg (memPuts · pa bs) (kept.mem.trans unowned.mem)⟩

end Quiet

/-! ### Translations that a TLB answers -/

section
variable {s : State} {l : LaneId} {va pa : Nat} {a : Acc} {e : TlbEntry} (hit : tlbHit s (laneCore s l) (lanePart s l) va a = some e)
  (hr : reach s va e = .ok pa e.g)
include hit hr

theorem laneTrans_of_tlbHit : laneTrans s l va a = .ok pa e.g := by
  rw [laneTrans, translate_of_tlbHit hit, hr]
  rfl

theorem noteLane_of_tlbHit : noteLane s l va a = s := by
  unfold noteLane
  dsimp only
  rw [translate_of_tlbHit hit, hr]
  exact noteAccess_of_tlbHit hit

end

/-! ### TSPAWN -/

/-- The enqueue that a lane starts, of the record with some bytes. -/
def enqueueOf (s : State) (l : LaneId) (bs : List Byte) : EnqOp :=
  { part := lanePart s l, group := (match l with | .wave g i => some (g, laneBit i) | _ => none),
    grip := (match l with | .grip k => some k | _ => none), mgmt := (match l with | .mgmt n => some n | _ => none),
    words := wordsOf bs, slot := none, written := false, failed := false }

theorem enqs_addEnqueue (s : State) (l : LaneId) (bs : List Byte) :
    (partOf (addEnqueue s l (wordsOf bs)) (lanePart s l)).enqs = (partOf s (lanePart s l)).enqs ++ [enqueueOf s l bs] := by
  unfold addEnqueue
  rw [partOf_modPart_self]
  rfl

theorem enqueueOf_congr {s t : State} {l : LaneId} (h : lanePart t l = lanePart s l) (bs : List Byte) : enqueueOf t l bs = enqueueOf s l bs := by
  unfold enqueueOf
  rw [h]

theorem Quiet.spawnLane_eq {s : State} (h : Quiet s) {l : LaneId} {va pa : Nat} (hit : Hits s l va .r pa) :
    ∃ g, spawnLane l va s = addEnqueue (touchL2 s (lanePart s l) g false pa) l (wordsOf (readMem s pa 64)) := by
  obtain ⟨e, hit, hr⟩ := hit
  obtain ⟨charged, unowned⟩ := h.touched (lanePart s l) e.g false pa
  refine ⟨e.g, ?_⟩
  unfold spawnLane
  rw [laneTrans_of_tlbHit hit hr, noteLane_of_tlbHit hit hr, h.drainLane_eq, h.releaseLane_eq]
  dsimp only
  rw [(charged.beyond.quiet h unowned.own).promoteFor_eq, l2Read_of_unowned unowned.own, readMem_congr unowned.mem]

/-- Lanes have started the enqueues `es` in partition `p`; memory is as before, and no cache is ahead of it. -/
structure Spawned (p : Nat) (s t : State) (es : List EnqOp) : Prop where
  beyond : SameBeyondL2 s t
  mem : t.mem = s.mem
  homes : ∀ y ∈ t.units.l2, y.own = []
  enqs : (partOf t p).enqs = (partOf s p).enqs ++ es

theorem Spawned.snoc {p : Nat} {s t : State} {es : List EnqOp} (h : Quiet s) (ht : Spawned p s t es) {l : LaneId} {va pa : Nat}
    (hp : lanePart s l = p) (hit : Hits s l va .r pa) : Spawned p s (spawnLane l va t) (es ++ [enqueueOf s l (readMem s pa 64)]) := by
  have quiet := ht.beyond.quiet h ht.homes
  obtain ⟨g, eq⟩ := quiet.spawnLane_eq (ht.beyond.hits hit)
  obtain ⟨charged, unowned⟩ := quiet.touched (lanePart t l) g false pa
  have beyond := ht.beyond.trans charged.beyond
  rw [eq, readMem_congr ht.mem]
  refine ⟨beyond.trans rfl, unowned.mem.trans ht.mem, unowned.own, ?_⟩
  have added := enqs_addEnqueue (touchL2 t (lanePart t l) g false pa) l (readMem s pa 64)
  rwa [enqueueOf_congr (beyond.lanePart l), beyond.lanePart, hp, charged.enqs, ht.enqs, List.append_assoc] at added

theorem spawned_foldl {p : Nat} {s : State} (h : Quiet s) {va pa : LaneId → Nat} (ls : List LaneId) {t : State} {es : List EnqOp}
    (ht : Spawned p s t es) (hl : ∀ l ∈ ls, lanePart s l = p ∧ Hits s l (va l) .r (pa l)) :
    Spawned p s (ls.foldl (fun u l => spawnLane l (va l) u) t) (es ++ ls.map (fun l => enqueueOf s l (readMem s (pa l) 64))) := by
  induction ls generalizing t es with
  | nil => simpa using ht
  | cons l ls ih =>
    obtain ⟨⟨hp, hit⟩, hls⟩ := List.forall_mem_cons.1 hl
    simpa using ih (ht.snoc h hp hit) hls

/-! ### TSUCC -/

/-- Bytes have been stored at a physical address, and no home holds bytes of its own. -/
structure StoredAt (s t : State) (pa : Nat) (bs : List Byte) : Prop where
  contexts : ContextsKept s t
  mem : t.mem = (storeSnoop s pa bs).mem
  homes : ∀ y ∈ t.units.l2, y.own = []
  part : ∀ l, lanePart t l = lanePart s l
  enqs : ∀ q, (partOf t q).enqs = (partOf s q).enqs

theorem Quiet.storedAt {s : State} (h : Quiet s) {p : Nat} {g : Bool} {pa : Nat} (held : HeldAt (homeSlice s p g (pa / 256)) (pa / 256) s)
    (bs : List Byte) (l : LaneId) : StoredAt s (acquireLane (writeL2 s p g pa bs) l .dev) pa bs := by
  obtain ⟨charged, own, mem⟩ := h.writeL2_spec held bs
  generalize writeL2 s p g pa bs = v at *
  obtain ⟨cs, hcs⟩ := (charged.beyond.quiet h own).acquireLane_cores l
  rw [hcs]
  exact ⟨charged.beyond.contexts, mem, own, charged.beyond.lanePart, charged.enqs⟩

/-- The counter has been decremented, and from 1 the record behind it is being enqueued. -/
structure Decremented (s t : State) (l : LaneId) (pa : Nat) : Prop where
  contexts : ContextsKept s t
  counter : readNum t pa 4 = (readNum s pa 4 + 2 ^ 32 - 1) % 2 ^ 32
  mem : ∀ b, ¬ (pa ≤ b ∧ b < pa + 4) → memGet t.mem b = memGet s.mem b
  enqs : (partOf t (lanePart s l)).enqs =
    (partOf s (lanePart s l)).enqs ++ (if readNum s pa 4 = 1 then [enqueueOf s l (readMem s (pa + 64) 64)] else [])

theorem StoredAt.decremented {s t u : State} {pa : Nat} {l : LaneId} (wf : Memory.wf s.mem = true)
    (ht : StoredAt s t pa (leBytes 4 ((readNum s pa 4 + 2 ^ 32 - 1) % 2 ^ 32))) (hc : ContextsKept t u) (hm : u.mem = t.mem)
    (he : (partOf u (lanePart s l)).enqs =
      (partOf t (lanePart s l)).enqs ++ (if readNum s pa 4 = 1 then [enqueueOf s l (readMem s (pa + 64) 64)] else [])) :
    Decremented s u l pa := by
  have mem := hm.trans ht.mem
  refine ⟨ht.contexts.trans hc, ?_, fun b hb => ?_, he.trans (by rw [ht.enqs])⟩
  · rw [readNum_congr mem, readNum, readMem_storeSnoop_num s pa 4 _ wf, leNat_leBytes]
    omega
  · rw [mem, memGet_storeSnoop s pa b _ wf, memWith, leBytes_length, if_neg hb]

theorem Quiet.decremented_succLane {s : State} (h : Quiet s) (wf : Memory.wf s.mem = true) {l : LaneId} {va pa : Nat} (hit : Hits s l va .rw pa)
    (span : OneHomeSpan s (lanePart s l) pa 128) : Decremented s (succLane l va s) l pa := by
  obtain ⟨e, hit, hr⟩ := hit
  obtain ⟨homes, held⟩ := span pa (Nat.le_refl pa) (by omega)
  rw [← homes e.g] at held
  have stored := h.storedAt held (leBytes 4 ((readNum s pa 4 + 2 ^ 32 - 1) % 2 ^ 32)) l
  unfold succLane
  rw [laneTrans_of_tlbHit hit hr, noteLane_of_tlbHit hit hr, h.drainLane_eq, h.releaseLane_eq]
  dsimp only
  rw [h.promoteFor_eq, h.recallStash_eq, show l2Num s (lanePart s l) e.g pa 4 = readNum s pa 4 from
    congrArg leNat (l2Read_of_unowned h.homes _ _ _ _)]
  generalize acquireLane _ l .dev = t at stored
  have record : l2Read t (lanePart t l) e.g (pa + 64) 64 = readMem s (pa + 64) 64 := by
    rw [l2Read_of_unowned stored.homes, readMem_congr stored.mem]
    exact readMem_storeSnoop_num_apart s pa 4 _ _ _ wf (by unfold apart; omega)
  rw [record]
  split
  · rename_i one
    refine stored.decremented wf rfl rfl ?_
    rw [if_pos one, ← stored.part, ← enqueueOf_congr (stored.part l)]
    exact enqs_addEnqueue t l _
  · rename_i more
    exact stored.decremented wf rfl rfl (by rw [if_neg more, List.append_nil])

/-! ### The issue -/

/-- An issue without targets or results that completes in every lane, with effects that leave every context. -/
theorem runEntry_advanced (s : State) (i : Instr) (e : Entry) (hr : ready s e.form = true) (hl : ∀ l ∈ issuing s, e.legal l = true)
    (hb : ∀ l ∈ issuing s, e.before l (laneVals s e.form (issuing s) l) = none) (ho : e.once = none)
    (hp : ∀ l ∈ issuing s, e.plan l (laneVals s e.form (issuing s) l) = .done [] 0 none)
    (kept : ContextsKept s (effects s e (fun _ => []))) :
    ∃ t, runEntry s i e = .next t ∧ Settled (effects s e (fun _ => [])) t ∧ Advanced s t e.form.len ∧ ∀ l r, laneElem t l r = laneElem s l r := by
  have still := kept.undisturbed
  obtain ⟨t, ht, booked, wave, grip, mgmt⟩ := runEntry_done s i e (fun _ => []) noFlags (fun _ => none) hr hl hb ho hp still.focus
  refine ⟨t, ht, booked.settled, advanced_of_done still.steady (fun g n x hx => ⟨x, ?_, rfl⟩) (fun k x hx => ⟨x, ?_, rfl, rfl⟩)
    (fun n x hx => ⟨x, ?_, rfl⟩) booked (fun k gang hf => (wave k gang hf).1) (fun k hf => (grip k hf).2) (fun n hf => (mgmt n hf).2),
    fun l r => (booked.laneElem l r).trans (still.elems l r)⟩
  · rwa [slice?, group?, kept.groups]
  · exact (congrArg (fun c : Contexts => c.grips k) kept).trans hx
  · exact (congrArg (fun c : Contexts => c.mgmt[n]?) kept).trans hx

/-- The checks of TSPAWN and TSUCC pass. -/
theorem taskAct_done {s : State} (h : Quiet s) {l : LaneId} {va pa : Nat} {succ : Bool} (ring : awaitsRing s l = false) (hv : va < 2 ^ 56)
    (aligned : va % (if succ then 128 else 64) = 0) (hit : Hits s l va (if succ then .rw else .r) pa) :
    taskAct s l succ va = .done [] 0 none := by
  obtain ⟨e, hit, hr⟩ := hit
  rw [taskAct, if_neg (Nat.not_le.2 hv), if_neg (not_not.2 aligned), laneTrans_of_tlbHit hit hr, transAct, afterRing, ring, h.releaseAbsent_eq_none]
  rfl

/-- TSPAWN and TSUCC as entries, with the effect of a lane whose register pair holds an address. -/
def taskEntry (ea : Bool) (a : Reg) (s : State) (succ : Bool) (eff : LaneId → Nat → State → State) : Entry :=
  { form := taskForm ea a, legal := fun _ => true, plan := fun l vs => taskAct s l succ (pairNat (val vs 0) (val vs 1)),
    note := fun l vs t => taskNote l succ (pairNat (val vs 0) (val vs 1)) t, eff := fun l vs t => eff l (pairNat (val vs 0) (val vs 1)) t,
    branch := false }

theorem effects_taskEntry (ea : Bool) (a : Reg) (s : State) (succ : Bool) (eff : LaneId → Nat → State → State) :
    effects s (taskEntry ea a s succ eff) (fun _ => []) = (issuing s).foldl (fun u l => eff l (operand2 s (taskForm ea a) l 0) u) s := rfl

section
variable {ea : Bool} {a : Reg} {s : State} (hr : ready s (taskForm ea a) = true) (hc : Calm s)
  (hv : ∀ l ∈ issuing s, operand2 s (taskForm ea a) l 0 < 2 ^ 56)
include hr hc hv

/-- An issue of TSPAWN or TSUCC whose lanes pass their checks. -/
theorem runEntry_task (i : Instr) (succ : Bool) (eff : LaneId → Nat → State → State) {pa : LaneId → Nat}
    (hl : ∀ l ∈ issuing s, operand2 s (taskForm ea a) l 0 % (if succ then 128 else 64) = 0 ∧
      Hits s l (operand2 s (taskForm ea a) l 0) (if succ then .rw else .r) (pa l))
    (kept : ContextsKept s (effects s (taskEntry ea a s succ eff) (fun _ => []))) :
    ∃ t, runEntry s i (taskEntry ea a s succ eff) = .next t ∧ Settled (effects s (taskEntry ea a s succ eff) (fun _ => [])) t ∧
      Advanced s t 4 ∧ ∀ l r, laneElem t l r = laneElem s l r :=
  runEntry_advanced s i (taskEntry ea a s succ eff) hr (fun _ _ => rfl) (fun _ _ => rfl) rfl
    (fun l h => taskAct_done hc.quiet (hc.rings l h) (hv l h) (hl l h).1 (hl l h).2) kept

theorem execTspawn_enqueues {p : Nat} {pa : LaneId → Nat} (hl : ∀ l ∈ issuing s, lanePart s l = p ∧ operand2 s (taskForm ea a) l 0 % 64 = 0 ∧
      Hits s l (operand2 s (taskForm ea a) l 0) .r (pa l)) :
    ∃ t, execTspawn ea a s = .next t ∧ Advanced s t 4 ∧ (∀ l r, laneElem t l r = laneElem s l r) ∧ t.mem = s.mem ∧
      (partOf t p).enqs = (partOf s p).enqs ++ (issuing s).map (fun l => enqueueOf s l (readMem s (pa l) 64)) := by
  have start : Spawned p s s [] := ⟨.refl s, rfl, hc.homes, (List.append_nil _).symm⟩
  have done := spawned_foldl hc.quiet (issuing s) start fun l h => ⟨(hl l h).1, (hl l h).2.2⟩
  rw [← effects_taskEntry ea a s false spawnLane] at done
  obtain ⟨t, ht, settled, advanced, elems⟩ := runEntry_task hr hc hv (.tspawn ea a) false spawnLane (fun l h => (hl l h).2) done.beyond.contexts
  refine ⟨t, ht, advanced, elems, settled.mem.trans done.mem, ?_⟩
  rw [partOf, settled.parts]
  exact done.enqs

theorem execTsucc_decrements {l : LaneId} {pa : Nat} (one : issuing s = [l]) (aligned : operand2 s (taskForm ea a) l 0 % 128 = 0)
    (hit : Hits s l (operand2 s (taskForm ea a) l 0) .rw pa) (span : OneHomeSpan s (lanePart s l) pa 128) :
    ∃ t u, execTsucc ea a s = .next t ∧ Advanced s t 4 ∧ (∀ l r, laneElem t l r = laneElem s l r) ∧ Decremented s u l pa ∧ t.mem = u.mem ∧
      t.units.parts = u.units.parts := by
  have done := hc.quiet.decremented_succLane hc.wf hit span
  have eff := effects_taskEntry ea a s true succLane
  rw [one, List.foldl_cons, List.foldl_nil] at eff
  rw [← eff] at done
  obtain ⟨t, ht, settled, advanced, elems⟩ := runEntry_task hr hc hv (.tsucc ea a) true succLane (pa := fun _ => pa)
    (fun m h => by rw [one, List.mem_singleton] at h; subst h; exact ⟨aligned, hit⟩) done.contexts
  exact ⟨t, _, ht, advanced, elems, done, settled.mem, settled.parts⟩

end

end Sys2Proof.Machine
end

section
open Sys2Proof Sys2Proof.Machine

/-- Settles O43: while no cache is ahead of memory a lane's release and acquire leave memory alone, so that TSPAWN reads its record, and
TSUCC its counter and the record behind it, as memory holds them; the counter's line has one home, and no other keeps the old number. -/
theorem taskInstructions : Obligations.TaskInstructions := by
  unfold Obligations.TaskInstructions
  intro ea a s _ f va hr hc hv enq
  refine ⟨fun p pa hl => ?_, fun l pa one aligned hit span => ?_⟩
  · obtain ⟨t, ht, advanced, elems, mem, enqs⟩ := execTspawn_enqueues hr hc hv hl
    exact ⟨t, ht, advanced, fun b => by rw [mem], fun l r _ => elems l r, enqs⟩
  · obtain ⟨t, u, ht, advanced, elems, done, mem, parts⟩ := execTsucc_decrements hr hc hv one aligned hit span
    refine ⟨t, ht, advanced, fun l r _ => elems l r, (readNum_congr mem pa 4).trans done.counter, fun b hb => ?_, ?_⟩
    · rw [mem]
      exact done.mem b hb
    · rw [partOf, parts]
      exact done.enqs

end

section
/-! Issues of a grip context: what the end of such an issue makes of its one outcome, and the queues that CPY and QSTRM fill (R192, R206). -/

namespace Sys2Proof.Machine

/-! ### The end of an issue on a grip context -/

theorem focus_of_issuing_grip {s : State} {k : Nat} (one : issuing s = [.grip k]) : s.focus = .grip k := by
  have mem : LaneId.grip k ∈ issuing s := by rw [one]; exact List.mem_singleton_self _
  rcases mem_issuing mem with ⟨_, _, _, _, _, -, he, -⟩ | ⟨j, _, hf, he, -⟩ | ⟨_, _, -, he, -⟩
  · cases he
  · cases he; exact hf
  · cases he

/-- The failed reads of a grip context that are forgotten are nothing of its counter, its stop or its halt record. -/
theorem stop_clearFailed (s : State) (ls : List LaneId) (k : Nat) :
    (grip? (clearFailed s ls) k).map (fun y => (y.pc, y.stopped, y.halt)) = (grip? s k).map (fun y => (y.pc, y.stopped, y.halt)) := by
  induction ls generalizing s with
  | nil => rfl
  | cons l ls ih =>
    refine (ih _).trans ?_
    dsimp only
    split
    · rfl
    · cases l with
      | wave g i => rfl
      | mgmt n => rfl
      | grip j =>
        simp only [grip?, team?_modTeam]
        split
        · rename_i hj
          subst hj
          cases hx : team? s k with
          | none => rfl
          | some x => cases hg : x.grip <;> simp [hg]
        · rfl

/-- Without a debugger's mask for the cause the context stops at its instruction, and its team goes on (R191, R260). -/
theorem gripStopped_gripTrap {s : State} {k c : Nat} (d : Nat) (unmasked : (bankReg s (teamPart s k) 0x1E7).getLsbD c = false) :
    GripStopped s (gripTrap s k c d) k c d := by
  unfold GripStopped gripTrap
  cases hg : grip? s k with
  | none =>
    rw [grip?] at hg
    simp [grip?, hg]
  | some x =>
    obtain ⟨y, hy, hyx⟩ := Option.bind_eq_some_iff.1 hg
    rw [grip?] at hg
    rw [team?] at hy
    simp [unmasked, grip?, team?, tget?_tmod, hy, hyx]

/-- The groups keep what an issue of a grip context gave them: its end is a matter of the context alone. -/
theorem groups_noteRetired_grip (s : State) (k : Nat) (as : List (LaneId × Act)) :
    (noteRetired s (.grip k) as).work.groups = s.work.groups := by
  unfold noteRetired
  dsimp only
  split <;> rfl

theorem groups_clearFailed_grip (s : State) (k : Nat) : (clearFailed s [.grip k]).work.groups = s.work.groups := by
  simp only [clearFailed, List.foldl_cons, List.foldl_nil]
  split <;> rfl

theorem leads_singleton (l : LaneId) : leads [l] = [l] := by
  have lead : leadLane [l] l = l := by cases h : sameGroup l l <;> simp [leadLane, h]
  simp [leads, lead]

/-- A grip context pops no queue. -/
theorem consumePops_grip (s0 s : State) (f : Form) (k : Nat) (a : Act) : consumePops s0 s f [(.grip k, a)] = s := by
  cases a with
  | done ws fl tgt =>
    have done : doneLanes [(LaneId.grip k, Act.done ws fl tgt)] = [.grip k] := rfl
    rw [consumePops, done, leads_singleton]
    rfl
  | fault c d fl => rfl
  | wait => rfl
  | swap => rfl

/-- The end of an issue on a grip context that neither waits nor meets an absent page. -/
theorem finish_grip {s u : State} {e : Entry} {k : Nat} {a : Act} (focus : s.focus = .grip k) (wait : a ≠ .wait) (swap : a ≠ .swap)
    (acted : applyDone s s e [.grip k] [(.grip k, a)] = u) (still : u.focus = s.focus) : finish s e [.grip k] [(.grip k, a)] =
      clearFailed (noteRetired (settleSingle u e.form.len (.grip k) a) (.grip k) [(.grip k, a)]) [.grip k] := by
  simp [finish, wait, swap, acted, consumePops_grip, settleAll, still, focus]

section
variable {s : State} {k : Nat} {e : Entry} (i : Instr) (one : issuing s = [.grip k]) (hr : ready s e.form = true)
  (hl : e.legal (.grip k) = true) (hb : ∀ vs, e.before (.grip k) vs = none) (ho : e.once = none)
include one hr hl hb

/-- A grip context whose operands are at hand does what its instruction's plan says. -/
theorem runEntry_of_grip :
    runEntry s i e = .next (finish s e [.grip k] [(.grip k, e.plan (.grip k) (laneVals s e.form [.grip k] (.grip k)))]) := by
  simp only [ready, one, Bool.and_eq_true, List.all_cons, List.all_nil, and_true, Option.isNone_iff_eq_none] at hr
  obtain ⟨-, ⟨available, fields⟩, common⟩ := hr
  obtain ⟨oneLane, own⟩ := commonAct_none common
  have active : activeLanes s s.focus = [.grip k] := one
  simp [runEntry, active, actsOf, legalFor, available, fields, hl, entryActs, laneAct, oneLane, own, hb]

/-- A plan that waits. -/
theorem runEntry_grip_waits (hp : e.plan (.grip k) (laneVals s e.form (issuing s) (.grip k)) = .wait) : runEntry s i e = .next s := by
  rw [one] at hp
  rw [runEntry_of_grip i one hr hl hb, hp]
  rfl

include ho

/-- A plan that takes a cause other than 0x04, which no debugger's mask names. -/
theorem runEntry_grip_stops {c d : Nat} {fl : Flags} (hp : e.plan (.grip k) (laneVals s e.form (issuing s) (.grip k)) = .fault c d fl)
    (hc : c ≠ 4) (unmasked : (bankReg s (teamPart s k) 0x1E7).getLsbD c = false) :
    ∃ t, runEntry s i e = .next t ∧ GripStopped s t k c d := by
  rw [one] at hp
  have acted : applyDone s s e [.grip k] [(.grip k, .fault c d fl)] = s := by simp [applyDone, applyActs, groupEffects, ho, hc]
  refine ⟨_, runEntry_of_grip i one hr hl hb, ?_⟩
  rw [hp, finish_grip (focus_of_issuing_grip one) (by nofun) (by nofun) acted rfl]
  exact (stop_clearFailed _ _ _).trans (gripStopped_gripTrap d unmasked)

/-- A plan that completes, with an effect that leaves levels, slices and one-lane contexts alone. -/
theorem runEntry_grip_completes {u : State} (hp : e.plan (.grip k) (laneVals s e.form (issuing s) (.grip k)) = .done [] 0 none)
    (effect : e.eff (.grip k) (laneVals s e.form (issuing s) (.grip k)) s = u) (still : Steady s u) (focus : u.focus = s.focus)
    (slices : ∀ g n, slice? u g n = slice? s g n) (grips : ∀ j, grip? u j = grip? s j) (mgmt : u.units.mgmt = s.units.mgmt) :
    ∃ t, runEntry s i e = .next t ∧ Booked u t ∧ t.work.groups = u.work.groups ∧ Advanced s t e.form.len := by
  have eff : effects s e (fun _ => []) = u := by
    simp only [effects, one, List.foldl_cons, List.foldl_nil]
    rw [one] at effect
    exact effect
  have only {P : LaneId → Prop} (h : P (.grip k)) : ∀ l ∈ issuing s, P l := fun l hm => by
    rw [one, List.mem_singleton] at hm
    rwa [hm]
  obtain ⟨t, ht, booked, wave, grip, mgmtPc⟩ := runEntry_done s i e (fun _ => []) noFlags (fun _ => none) hr (only hl) (only (hb _)) ho
    (only hp) (by rw [eff, focus])
  rw [eff] at booked wave grip mgmtPc
  refine ⟨t, ht, booked, ?_, advanced_of_done still (fun g n x hx => ⟨x, (slices g n).trans hx, rfl⟩)
    (fun j x hx => ⟨x, (grips j).trans hx, rfl, rfl⟩) (fun n x hx => ⟨x, by rwa [mgmt], rfl⟩) booked (fun q gang hf => (wave q gang hf).1)
    (fun j hf => (grip j hf).2) fun n hf => (mgmtPc n hf).2⟩
  rw [one] at hp effect
  obtain rfl := Host.Outcome.next.inj ((runEntry_of_grip i one hr hl hb).symm.trans ht)
  have acted : applyDone s s e [.grip k] [(.grip k, .done [] 0 none)] = u := by
    simp [applyDone, applyActs, groupEffects, ho, writeLanes, effect]
  rw [hp, finish_grip (focus_of_issuing_grip one) (by nofun) (by nofun) acted focus, groups_clearFailed_grip, groups_noteRetired_grip]
  rfl

end

/-! ### Operands and stash sectors -/

/-- The first words of an instruction's sources are its first operands. -/
theorem take_laneVals (s : State) (f : Form) (l : LaneId) {n : Nat} (h : n ≤ f.srcs.length) :
    (laneVals s f (issuing s) l).take n = (List.range n).map (operand s f l) := by
  have len : (laneVals s f (issuing s) l).length = f.srcs.length := List.length_map _
  refine List.ext_getElem (by simp [len, h]) fun j hj _ => ?_
  have inside : j < (laneVals s f (issuing s) l).length := (List.length_take_le' _ _).trans_lt' hj
  simp [operand, val, List.getD_eq_getElem?_getD, inside]

section
variable {s : State} {k side off : Nat} {x : Team} (hx : team? s k = some x) (filled : stashNeed s k x side off = none)
include filled

theorem fillAct_of_filled (l : LaneId) (ok : Act) : fillAct s l k x side off ok = ok := by
  rw [fillAct, filled]

include hx

theorem stashFillAt_of_filled : stashFillAt s k side off = s := by
  unfold stashNeed at filled
  unfold stashFillAt
  rw [hx]
  dsimp only
  cases hw : windowAt x side off with
  | none => rfl
  | some w =>
    rw [hw] at filled
    dsimp only at filled ⊢
    split at filled
    · rename_i h
      rw [if_pos h]
    · cases filled

theorem fillNote_of_filled (l : LaneId) : fillNote l k side off s = s := by
  simp only [fillNote, hx, Option.bind_some, filled, stashFillAt_of_filled hx filled]

end

/-! ### CPY -/

/-- Reserved fields, or a length or a number of rows that R193 excludes. -/
def cmdReserved (c : List Word) : Prop :=
  wordAt c 0 / 8192 % 8 ≠ 0 ∨ wordAt c 6 = 0 ∨ 65536 < wordAt c 6 ∨ wordAt c 5 % 256 = 128 ∨ cmdLen c = 0

theorem cmdFields_of_reserved (x : Team) {c : List Word} (h : cmdReserved c) : cmdFields x c = some (0x11, 0) := by
  refine if_pos ?_
  simp only [Bool.or_eq_true, decide_eq_true_eq]
  rcases h with h | h | h | h | h
  · have : bits (wordAt c 0) 15 13 ≠ 0 := h
    simp [this]
  · simp [cmdRows, h]
  · simp [cmdRows, h]
  · simp [h]
  · simp [cmdOlen, h]

theorem cmdCheck_eq_none_iff {x : Team} {c : List Word} : cmdCheck x c = none ↔ cmdFields x c = none ∧ cmdRing? x c = none := by
  unfold cmdCheck
  cases cmdFields x c <;> simp

section
variable {s : State} {k : Nat} {x : Team} {cmd : List Word} (hx : team? s k = some x)
include hx

theorem cpyAct_of_reserved (a : Reg) (h : cmdReserved cmd) : cpyAct s (.grip k) a cmd = .fault 0x11 a.toNat 0 := by
  simp only [cpyAct, laneTeam, hx, cmdFields_of_reserved x h, if_true]

theorem laneCore_grip : laneCore s (.grip k) = x.core := by
  simp [laneCore, hx]

variable (filled : cmdHasRing cmd = true → stashNeed s k x 0 (cmdHeader cmd) = none)
include filled

/-- A command that passes its checks waits for its core's queue only. -/
theorem cpyAct_of_passed (a : Reg) (passed : cmdCheck x cmd = none) : cpyAct s (.grip k) a cmd =
    if 64 ≤ (coreOf s x.core).copies.length || strayCopies s k x.core then .wait else .done [] 0 none := by
  obtain ⟨fields, ring⟩ := cmdCheck_eq_none_iff.1 passed
  cases has : cmdHasRing cmd with
  | false => simp [cpyAct, laneTeam, hx, fields, ring, has]
  | true => simp [cpyAct, laneTeam, hx, fields, ring, has, fillAct_of_filled (filled has), stashFillAt_of_filled hx (filled has)]

theorem cpyFill_of_filled : cpyFill s (.grip k) cmd = s := by
  unfold cpyFill
  split
  · rename_i has
    exact fillNote_of_filled hx (filled has) _
  · rfl

end

/-- CPY's sources. -/
def copyForm (ea : Bool) (a : Reg) : Form := { plainForm true with srcs := (List.range 8).map (fun n => srcN 0 a n ea false) }

/-- The command of a grip context. -/
def copyCommand (s : State) (ea : Bool) (a : Reg) (k : Nat) : List Word := (List.range 8).map (operand s (copyForm ea a) (.grip k))

theorem take_laneVals_copyForm (s : State) (ea : Bool) (a : Reg) (k : Nat) :
    (laneVals s (copyForm ea a) (issuing s) (.grip k)).take 8 = copyCommand s ea a k :=
  take_laneVals s _ _ (by simp [copyForm])

theorem laneVals_copyForm (s : State) (ea : Bool) (a : Reg) (k : Nat) :
    laneVals s (copyForm ea a) (issuing s) (.grip k) = copyCommand s ea a k := by
  rw [← take_laneVals_copyForm, List.take_of_length_le]
  simp [laneVals, copyForm]

/-- A copy that a team has queued. -/
def copyOf (k : Nat) (cmd : List Word) : CopyOp := { team := k, cmd := cmd, dest := none, parts := 0, swap := none, moved := false }

/-- A copy at the end of a core's queue. -/
def withCopy (s : State) (core k : Nat) (cmd : List Word) : State := modCore s core (fun c => { c with copies := c.copies ++ [copyOf k cmd] })

theorem copies_withCopy (s : State) (core k : Nat) (cmd : List Word) :
    (coreOf (withCopy s core k cmd) core).copies = (coreOf s core).copies ++ [copyOf k cmd] :=
  congrArg Core.copies (tgetD_tput_self _ _ _ _)

section
variable {ea : Bool} {a : Reg} {s : State} {k : Nat} {x : Team} (hr : ready s (copyForm ea a) = true) (one : issuing s = [.grip k])
  (hx : team? s k = some x)
include hr one hx

theorem execCpy_reserved (h : cmdReserved (copyCommand s ea a k)) (unmasked : (bankReg s (teamPart s k) 0x1E7).getLsbD 0x11 = false) :
    ∃ t, execCpy ea a s = .next t ∧ GripStopped s t k 0x11 a.toNat := by
  rw [← laneVals_copyForm] at h
  exact runEntry_grip_stops _ one hr rfl (fun _ => rfl) rfl (cpyAct_of_reserved hx a h) (by decide) unmasked

variable (stray : strayCopies s k x.core = false)
  (filled : cmdHasRing (copyCommand s ea a k) = true → stashNeed s k x 0 (cmdHeader (copyCommand s ea a k)) = none)
  (passed : cmdCheck x (copyCommand s ea a k) = none)
include filled passed

theorem execCpy_waits (full : 64 ≤ (coreOf s x.core).copies.length) : execCpy ea a s = .next s := by
  rw [← laneVals_copyForm] at filled passed
  refine runEntry_grip_waits _ one hr rfl (fun _ => rfl) ((cpyAct_of_passed hx filled a passed).trans ?_)
  simp [full]

include stray

theorem execCpy_queues (room : (coreOf s x.core).copies.length < 64) :
    ∃ t, execCpy ea a s = .next t ∧ Advanced s t 4 ∧ t.mem = s.mem ∧ (∀ l r, laneElem t l r = laneElem s l r) ∧
      (coreOf t x.core).copies = (coreOf s x.core).copies ++
        [{ team := k, cmd := copyCommand s ea a k, dest := none, parts := 0, swap := none, moved := false }] := by
  have act := cpyAct_of_passed hx filled a passed
  rw [if_neg (by simp [stray, room]), ← laneVals_copyForm] at act
  have still : Undisturbed s (withCopy s x.core k (copyCommand s ea a k)) := (contextsKept_modCore s x.core _).undisturbed
  have effect : withCopy (cpyFill s (.grip k) (laneVals s (copyForm ea a) (issuing s) (.grip k))) (laneCore s (.grip k)) k
      ((laneVals s (copyForm ea a) (issuing s) (.grip k)).take 8) = withCopy s x.core k (copyCommand s ea a k) := by
    rw [take_laneVals_copyForm, laneVals_copyForm, cpyFill_of_filled hx filled, laneCore_grip hx]
  obtain ⟨t, ht, booked, -, advanced⟩ : ∃ t, execCpy ea a s = .next t ∧ Booked (withCopy s x.core k (copyCommand s ea a k)) t ∧
      t.work.groups = s.work.groups ∧ Advanced s t 4 :=
    runEntry_grip_completes (.cpy ea a) one hr rfl (fun _ => rfl) rfl act effect still.steady still.focus
      (fun _ _ => rfl) (fun _ => rfl) rfl
  refine ⟨t, ht, advanced, booked.mem, fun l r => (booked.laneElem l r).trans (still.elems l r), ?_⟩
  rw [coreOf, booked.unit Units.cores fun _ => rfl]
  exact copies_withCopy s x.core k _

end

/-! ### QSTRM -/

theorem queueKey_eq (q : BitVec 3) (tgt : Nat) : queueKey q tgt = 8 * (tgt / 32 % 2) + q.toNat := by
  unfold queueKey bit
  rcases Nat.mod_two_eq_zero_or_one (tgt / 32) with h | h <;> simp [h]

/-- Reserved bits, or a count of 0. -/
def streamReserved (d : List Word) (tgt : Nat) : Prop :=
  65536 ≤ wordAt d 1 ∨ 64 ≤ tgt ∨ wordAt d 2 % 65536 = 0 ∨ wordAt d 3 < 65536

section
variable {s : State} {k : Nat} {x : Team} (hx : team? s k = some x) (q : BitVec 3) (a : Reg) {d : List Word} {tgt : Nat}
include hx

theorem qstrmAct_of_reserved (h : streamReserved d tgt) : qstrmAct s (.grip k) q a d tgt = .fault 0x11 a.toNat 0 := by
  simp only [qstrmAct, laneTeam, hx]
  refine if_pos ?_
  rcases h with h | h | h | h
  · simp [Nat.div_eq_zero_iff, h]
  · simp [Nat.div_eq_zero_iff, h]
  · simp [streamDims, h]
  · simp [streamDims, Nat.div_eq_of_lt h]

/-- An earlier stream that is not popped out holds up a descriptor without a fault. -/
theorem qstrmAct_of_busy {g : Nat} {y : Group} {old : Queue} (hg : teamGroup s x (tgt % 32) = some (g, y))
    (held : tget? y.queues (queueKey q tgt) = some old) (busy : old.popped < queueTotal old)
    (sound : ∀ c e fl, qstrmAct s (.grip k) q a d tgt ≠ .fault c e fl) : qstrmAct s (.grip k) q a d tgt = .wait := by
  have outcome : (∃ c e fl, qstrmAct s (.grip k) q a d tgt = .fault c e fl) ∨ qstrmAct s (.grip k) q a d tgt = .wait := by
    simp only [qstrmAct, laneTeam, hx, hg, held, busy, if_true]
    split
    · exact .inl ⟨_, _, _, rfl⟩
    split
    · exact .inl ⟨_, _, _, rfl⟩
    split
    · exact .inl ⟨_, _, _, rfl⟩
    split
    · exact .inl ⟨_, _, _, rfl⟩
    split
    · exact .inl ⟨_, _, _, rfl⟩
    · exact .inl ⟨_, _, _, rfl⟩
    · exact .inr rfl
  exact outcome.resolve_left fun ⟨c, e, fl, h⟩ => sound c e fl h

end

theorem group?_of_teamGroup {s : State} {x : Team} {n g : Nat} {y : Group} (h : teamGroup s x n = some (g, y)) : group? s g = some y := by
  obtain ⟨j, -, hj⟩ := List.exists_of_findSome?_eq_some h
  split at hj
  · rename_i z hz
    split at hj
    · cases hj
      exact hz
    · cases hj
  · cases hj

/-- A group's queue bound to a stream with nothing popped. -/
def withStream (s : State) (g key : Nat) (d : List Word) : State :=
  modGroup s g (fun y => { y with queues := tput y.queues key { desc := d, popped := 0, entries := [] } })

theorem group?_withStream {s : State} {g : Nat} {y : Group} (key : Nat) (d : List Word) (h : group? s g = some y) :
    group? (withStream s g key d) g = some { y with queues := tput y.queues key { desc := d, popped := 0, entries := [] } } := by
  rw [withStream, group?_modGroup, if_pos rfl, h]
  rfl

theorem undisturbed_withStream (s : State) (g key : Nat) (d : List Word) : Undisturbed s (withStream s g key d) :=
  ⟨steady_modGroup s g _ (fun _ => by rfl) fun _ => by rfl, laneElem_modGroup s g _ (fun _ => by rfl) fun _ => by rfl, rfl⟩

/-- What a lane with the words `vs` binds: the queue of the group of its team that its target names, if there is one. -/
def bindStream (q : BitVec 3) (l : LaneId) (vs : List Word) (s : State) : State :=
  match (team? s (laneTeam s l)).bind (fun x => teamGroup s x ((val vs 8).toNat % 32)) with
  | some (g, _) => withStream s g (queueKey q (val vs 8).toNat) (vs.take 8)
  | none => s

theorem bindStream_of_teamGroup {s : State} {k g : Nat} {x : Team} {y : Group} {vs : List Word} (q : BitVec 3) (hx : team? s k = some x)
    (hg : teamGroup s x ((val vs 8).toNat % 32) = some (g, y)) :
    bindStream q (.grip k) vs s = withStream s g (queueKey q (val vs 8).toNat) (vs.take 8) := by
  simp only [bindStream, laneTeam, hx, Option.bind_some, hg]

/-- QSTRM's sources: the descriptor and the target. -/
def streamForm (ea eb : Bool) (a b : Reg) : Form :=
  { plainForm true with srcs := (List.range 8).map (fun n => srcN 0 a n ea false) ++ [src 1 b eb] }

section
variable (s : State) (ea eb : Bool) (a b : Reg) (k : Nat)

/-- The descriptor and the target of a grip context. -/
def streamDesc : List Word := (List.range 8).map (operand s (streamForm ea eb a b) (.grip k))
def streamTarget : Nat := (operand s (streamForm ea eb a b) (.grip k) 8).toNat

theorem take_laneVals_streamForm : (laneVals s (streamForm ea eb a b) (issuing s) (.grip k)).take 8 = streamDesc s ea eb a b k :=
  take_laneVals s _ _ (by simp [streamForm])

end

section
variable {q : BitVec 3} {ea eb : Bool} {a b : Reg} {s : State} {k : Nat} {x : Team} (hr : ready s (streamForm ea eb a b) = true)
  (one : issuing s = [.grip k])
include hr one

theorem execQstrm_waits (act : qstrmAct s (.grip k) q a (streamDesc s ea eb a b k) (streamTarget s ea eb a b k) = .wait) :
    execQstrm q ea eb a b s = .next s := by
  rw [← take_laneVals_streamForm] at act
  exact runEntry_grip_waits _ one hr rfl (fun _ => rfl) act

variable (hx : team? s k = some x)
include hx

theorem execQstrm_reserved (h : streamReserved (streamDesc s ea eb a b k) (streamTarget s ea eb a b k))
    (unmasked : (bankReg s (teamPart s k) 0x1E7).getLsbD 0x11 = false) :
    ∃ t, execQstrm q ea eb a b s = .next t ∧ GripStopped s t k 0x11 a.toNat := by
  have act := qstrmAct_of_reserved hx q a h
  rw [← take_laneVals_streamForm] at act
  exact runEntry_grip_stops _ one hr rfl (fun _ => rfl) rfl act (by decide) unmasked

theorem execQstrm_binds {g : Nat} {y : Group} (hg : teamGroup s x (streamTarget s ea eb a b k % 32) = some (g, y))
    (act : qstrmAct s (.grip k) q a (streamDesc s ea eb a b k) (streamTarget s ea eb a b k) = .done [] 0 none) :
    ∃ t, execQstrm q ea eb a b s = .next t ∧ Advanced s t 4 ∧ t.mem = s.mem ∧ (∀ l r, laneElem t l r = laneElem s l r) ∧
      ∃ z, group? t g = some z ∧ z.queues =
        tput y.queues (queueKey q (streamTarget s ea eb a b k)) { desc := streamDesc s ea eb a b k, popped := 0, entries := [] } := by
  have bound := bindStream_of_teamGroup (vs := laneVals s (streamForm ea eb a b) (issuing s) (.grip k)) q hx hg
  rw [take_laneVals_streamForm] at bound
  rw [← take_laneVals_streamForm] at act
  have still := undisturbed_withStream s g (queueKey q (streamTarget s ea eb a b k)) (streamDesc s ea eb a b k)
  obtain ⟨t, ht, booked, groups, advanced⟩ : ∃ t, execQstrm q ea eb a b s = .next t ∧
      Booked (withStream s g (queueKey q (streamTarget s ea eb a b k)) (streamDesc s ea eb a b k)) t ∧
      t.work.groups = (withStream s g (queueKey q (streamTarget s ea eb a b k)) (streamDesc s ea eb a b k)).work.groups ∧
      Advanced s t 4 :=
    runEntry_grip_completes (.qstrm q ea eb a b) one hr rfl (fun _ => rfl) rfl act bound still.steady still.focus
      (fun h m => slice?_modGroup s g h m _ fun _ => by rfl) (fun _ => rfl) rfl
  refine ⟨t, ht, advanced, booked.mem, fun l r => (booked.laneElem l r).trans (still.elems l r), ?_⟩
  rw [group?, groups]
  exact ⟨_, group?_withStream _ _ (group?_of_teamGroup hg), rfl⟩

end

end Sys2Proof.Machine
end

section
open Sys2Proof Sys2Proof.Machine

/-- Settles O40: a grip context issues alone, so that its plan's one outcome is the issue's, and CPY's and QSTRM's plans come down to the
checks of their commands and to the state of the queue. -/
theorem copiesAndStreamsAreQueued : Obligations.CopiesAndStreamsAreQueued := by
  unfold Obligations.CopiesAndStreamsAreQueued
  constructor
  · intro ea a s k x f i cmd hr one hx stray filled
    refine ⟨fun passed room => ?_, execCpy_waits hr one hx filled, execCpy_reserved hr one hx⟩
    obtain ⟨t, ht, advanced, mem, elems, copies⟩ := execCpy_queues hr one hx stray filled passed room
    exact ⟨t, ht, advanced, mem, fun l r _ => elems l r, copies⟩
  · intro q ea eb a b s k x f i d tgt hr one hx
    refine ⟨fun g y hg act => ?_, fun g y old hg held busy sound => ?_, execQstrm_reserved hr one hx⟩
    · obtain ⟨t, ht, advanced, mem, elems, z, hz, queues⟩ := execQstrm_binds hr one hx hg act
      refine ⟨t, ht, advanced, mem, fun l r _ => elems l r, z, hz, fun n => ?_⟩
      rw [queues, tget?_tput, queueKey_eq]
      rfl
    · rw [← queueKey_eq] at held
      exact execQstrm_waits hr one (qstrmAct_of_busy hx q a hg held busy sound)

end

section
/-! A wave whose issuing lane sits in a wave slot of another core: the table of groups lists group 3 twice, and reads find the entry that
sits elsewhere. -/

namespace Sys2Proof.Machine

/-- A tile record of one row of one block at offset 64 (Table 9-2). -/
def oneBlockRecord : Tab Byte := [(0, 64), (8, 1), (10, 1)]

/-- Wave slot 0 of core 0 holds the second entry of group 3; the first sits in wave slot 24, of core 1. Offset 0 of the team's scratchpad holds a
tile record. -/
def groupSeatedElsewhere : State :=
  let s := groupTwice loneSlice []
  let far := { oneSlice loneSlice with seats := [24] }
  { s with work := { s.work with groups := [(3, far), (3, { far with seats := [0] })],
                                 teams := [(1, { oneTeam with groups := [3], scr := 128, scratch := oneBlockRecord })] } }

theorem issuing_groupSeatedElsewhere : issuing groupSeatedElsewhere = [.wave 3 0] := by decide +kernel

/-- MTAKE takes the free slate of core 1, where the first entry sits, and not that of core 0, whose wave issues. -/
theorem mtake_groupSeatedElsewhere_slates : (match exec .mtake groupSeatedElsewhere with
    | .next t => some ((quadOf t 0 0).slate, (quadOf t 1 0).slate)
    | _ => none) = some (none, some 24) := by
  decide +kernel

/-- The same wave, once it holds the slate of its own quadrant. -/
def slateHeldElsewhere : State := setSlate groupSeatedElsewhere 0 0 (some 0)

theorem issuing_slateHeldElsewhere : issuing slateHeldElsewhere = [.wave 3 0] := by decide +kernel

/-- MMA waits for the slate of core 1 and leaves the matrix queue of core 0 empty. -/
theorem mma_slateHeldElsewhere_queue : (match exec (.mma false false false false false 0 0 0) slateHeldElsewhere with
    | .next t => some (quadOf t 0 0).mq
    | _ => none) = some [] := by
  decide +kernel

end Sys2Proof.Machine
end

section
open Sys2Proof Sys2Proof.Machine

/-- Refutes O41: the statement is about every state, also one whose table lists a group twice, so that the lane that issues for wave slot 0
sits in a slot of another core. MTAKE takes the slate of that core, and the free slate of the issuing wave's quadrant stays free. -/
theorem not_slateAndSlotRingInstructions : ¬ Obligations.SlateAndSlotRingInstructions := by
  unfold Obligations.SlateAndSlotRingInstructions
  rintro ⟨slate, -⟩
  have alive : ∀ g x, group? groupSeatedElsewhere g = some x → (∃ n, sliceIssues groupSeatedElsewhere g n) → x.exited ≠ allLanes x := by
    rintro g x hx ⟨n, i, hi, -⟩
    rw [issuing_groupSeatedElsewhere, List.mem_singleton] at hi
    obtain ⟨rfl, rfl⟩ := LaneId.wave.inj hi
    obtain rfl : { oneSlice loneSlice with seats := [24] } = x := Option.some.inj hx
    decide
  obtain ⟨take, -⟩ := slate 0 groupSeatedElsewhere 0 0 (by decide +kernel) rfl (by decide +kernel) alive (by decide +kernel)
  obtain ⟨t, ht, -, held⟩ := take (.inr (by decide +kernel))
  have slates := mtake_groupSeatedElsewhere_slates
  rw [ht] at slates
  have free : (quadOf t 0 0).slate = none := congrArg Prod.fst (Option.some.inj slates)
  exact absurd (free.symm.trans held) nofun

/-- Refutes O42: the statement is about every state, also one whose table lists a group twice, so that the lane that issues for wave slot 0
sits in a slot of another core. The wave holds the slate of its own quadrant, but MMA waits for that of the other core and enters no queue. -/
theorem not_matrixOperationsAndPackedAccumulators : ¬ Obligations.MatrixOperationsAndPackedAccumulators := by
  unfold Obligations.MatrixOperationsAndPackedAccumulators
  rintro ⟨mma, -⟩
  have oneGroup : OneGroup slateHeldElsewhere := by
    intro l hl m hm
    rw [issuing_slateHeldElsewhere, List.mem_singleton] at hl hm
    subst hl hm
    rfl
  obtain ⟨enters, -⟩ := mma false false false false false 0 0 0 slateHeldElsewhere 0 0 3 0
    { oneTeam with groups := [3], scr := 128, scratch := oneBlockRecord } (by decide +kernel) (by decide +kernel) oneGroup
    (by rw [issuing_slateHeldElsewhere]; exact List.mem_singleton_self _) rfl (by decide +kernel) (by decide +kernel) (by decide +kernel)
  obtain ⟨t, p, o, ht, -, -, -, -, -, -, queued, -⟩ := enters
    (by rw [issuing_slateHeldElsewhere]; decide +kernel) (by decide +kernel)
  have queue := mma_slateHeldElsewhere_queue
  rw [ht] at queue
  have empty : (quadOf t 0 0).mq = [] := Option.some.inj queue
  change (quadOf t 0 0).mq = _ ++ [o] at queued
  rw [empty] at queued
  exact absurd queued (by simp)

end

section
/-! The queues of the matrix engines and of the texture units through memory and its caches. Whatever is accessed, a core changes only in its
L1 and its TLB: each operation leaves the queues because it writes no field of theirs, or because it is put together from operations that
leave them. -/

namespace Sys2Proof.Machine

/-- A core's quadrants, with their matrix queues, and its texture queue. -/
def Core.engines (x : Core) : List Quad × List TexOp := (x.quads, x.tex)

/-- The quadrants and the texture queue of every core. -/
def engines (s : State) (c : Nat) : List Quad × List TexOp := (coreOf s c).engines

theorem quadOf_congr {s t : State} (h : engines t = engines s) (c q : Nat) : quadOf t c q = quadOf s c q := by
  unfold quadOf
  rw [show (coreOf t c).quads = (coreOf s c).quads from congrArg Prod.fst (congrFun h c)]

theorem tex_congr {s t : State} (h : engines t = engines s) (c : Nat) : (coreOf t c).tex = (coreOf s c).tex :=
  congrArg Prod.snd (congrFun h c)

theorem engines_foldl {α : Type} {f : State → α → State} (h : ∀ s a, engines (f s a) = engines s) (as : List α) (s : State) :
    engines (as.foldl f s) = engines s := by
  induction as generalizing s with
  | nil => rfl
  | cons a as ih => rw [List.foldl_cons, ih, h]

theorem engines_modCore (s : State) (c : Nat) {f : Core → Core} (hf : ∀ x, (f x).engines = x.engines) : engines (modCore s c f) = engines s := by
  funext j
  by_cases h : j = c
  · subst h
    simp [engines, coreOf, hf]
  · simp [engines, coreOf, modCore_units_cores, tgetD_tput_ne _ _ _ h]

/-- An access changes a core in its L1 alone, or in its TLB alone. -/
@[simp] theorem engines_modCore_l1 (s : State) (c : Nat) (f : Core → List L1Sector) :
    engines (modCore s c fun k => { k with l1 := f k }) = engines s :=
  engines_modCore s c fun _ => rfl

@[simp] theorem engines_storeMem (s : State) (pa : Nat) (bs : List Byte) : engines (storeMem s pa bs) = engines s := rfl

@[simp] theorem engines_storeSnoop (s : State) (pa : Nat) (bs : List Byte) : engines (storeSnoop s pa bs) = engines s := rfl

@[simp] theorem engines_modTeam (s : State) (k : Nat) (f : Team → Team) : engines (modTeam s k f) = engines s := rfl

@[simp] theorem engines_poisonAt (s : State) (as : List Nat) : engines (poisonAt s as) = engines s := rfl

@[simp] theorem engines_charge (s : State) (p lo n : Nat) : engines (charge s p lo n) = engines s := rfl

@[simp] theorem engines_dropTags (s : State) (f : RelTag → Bool) : engines (dropTags s f) = engines s := rfl

@[simp] theorem engines_stashLeave (s : State) (tm : Nat) (w : Window) (sec pa : Nat) (u : Bool) :
    engines (stashLeave s tm w sec pa u) = engines s := rfl

@[simp] theorem engines_stashFails (s : State) (tm va c : Nat) : engines (stashFails s tm va c) = engines s := rfl

@[simp] theorem engines_poolEvent (s : State) (p : Nat) : engines (poolEvent s p) = engines s := rfl

@[simp] theorem engines_addRead (s : State) (p : Nat) (r : PageRead) : engines (addRead s p r) = engines s := rfl

@[simp] theorem engines_lateValue (s : State) (e : Late) (bs : List Byte) (bad : Bool) : engines (lateValue s e bs bad) = engines s := rfl

@[simp] theorem engines_mergeL1 (s : State) (c base : Nat) (m : BitVec 128) (d : List Byte) : engines (mergeL1 s c base m d) = engines s :=
  engines_modCore_l1 s c _

@[simp] theorem engines_patchL1 (s : State) (c pa : Nat) (bs : List Byte) (dirty : Bool) : engines (patchL1 s c pa bs dirty) = engines s :=
  engines_modCore_l1 s c _

@[simp] theorem engines_tlbFill (s : State) (c : Nat) (e : TlbEntry) : engines (tlbFill s c e) = engines s :=
  engines_modCore s c (f := fun k => { k with tlb := ((k.tlb.filter (fun x => !(x.part = e.part && x.va = e.va && x.bits = e.bits))) ++ [e]).reverse.take 256 |>.reverse })
    fun _ => rfl

@[simp] theorem engines_snoopRead (s : State) (line : Nat) : engines (snoopRead s line) = engines s := by
  unfold snoopRead
  split <;> rfl

@[simp] theorem engines_keepHomes (s : State) (home line : Nat) (hit : Nat → Bool) : engines (keepHomes s home line hit) = engines s := by
  unfold keepHomes
  split <;> rfl

@[simp] theorem engines_noteLinkAt (s : State) (l : LaneId) (pa id : Nat) : engines (noteLinkAt s l pa id) = engines s := by
  unfold noteLinkAt
  split <;> rfl

@[simp] theorem engines_noteTagRead (s : State) (l : LaneId) (pa : Nat) : engines (noteTagRead s l pa) = engines s := by
  unfold noteTagRead
  split <;> rfl

@[simp] theorem engines_countAccess (s : State) (l : LaneId) (g load : Bool) (pa : Nat) : engines (countAccess s l g load pa) = engines s := by
  unfold countAccess
  dsimp only
  split <;> split <;> rfl

/-! Bytes written at a home, and stores of the device itself. -/

@[simp] theorem engines_landL2 (s : State) (p : Nat) (g : Bool) (pa : Nat) (bs : List Byte) : engines (landL2 s p g pa bs) = engines s := by
  simp [landL2]

@[simp] theorem engines_landMask (s : State) (p : Nat) (g : Bool) (base : Nat) (m : BitVec 128) (d : List Byte) :
    engines (landMask s p g base m d) = engines s := by
  unfold landMask
  rw [engines_foldl fun s i => by split <;> simp, engines_keepHomes]

@[simp] theorem engines_ownBack (s : State) (l : L2Line) : engines (ownBack s l) = engines s := by
  unfold ownBack
  rw [engines_foldl fun _ _ => engines_storeSnoop _ _ _, engines_keepHomes]

@[simp] theorem engines_stashLand (s : State) (t : Team) (w : Window) (sec p : Nat) (g : Bool) (pa : Nat) :
    engines (stashLand s t w sec p g pa) = engines s := by
  simp [stashLand]

@[simp] theorem engines_recallOne (s : State) (h : Nat × Window × Nat) : engines (recallOne s h) = engines s := by
  unfold recallOne
  split
  · rfl
  · dsimp only
    split
    · simp
    · split
      · split <;> simp [setD]
      · simp
      · rfl

@[simp] theorem engines_storeDev (s : State) (pa : Nat) (bs : List Byte) : engines (storeDev s pa bs) = engines s := by
  unfold storeDev recallDev
  rw [engines_storeSnoop, engines_foldl fun s a => engines_foldl engines_recallOne _ s]

@[simp] theorem engines_landImage (s : State) (k r pos : Nat) (e : Elem) : engines (landImage s k r pos e) = engines s := by
  unfold landImage
  split
  · split <;> simp
  · rfl

/-! What an access leaves behind in translation. -/

theorem engines_takeFrame {s t : State} {p f : Nat} (h : takeFrame s p = some (f, t)) : engines t = engines s := by
  unfold takeFrame at h
  split at h
  · cases h
  · obtain ⟨-, rfl⟩ := Prod.mk.inj (Option.some.inj h)
    exact engines_storeDev _ _ _

@[simp] theorem engines_startRead (s : State) (p va entry e : Nat) : engines (startRead s p va entry e) = engines s := by
  unfold startRead
  dsimp only
  split
  · rfl
  · split
    · split <;> simp
    · rename_i taken
      split <;> simp [engines_takeFrame taken]

@[simp] theorem engines_startCow (s : State) (p va entry e : Nat) : engines (startCow s p va entry e) = engines s := by
  unfold startCow
  split <;> simp

@[simp] theorem engines_noteAccess (s : State) (core p va : Nat) (a : Acc) : engines (noteAccess s core p va a) = engines s := by
  unfold noteAccess
  split
  · rfl
  · split
    · split <;> simp
    · simp
    · split <;> simp
    · rfl
    · rfl

/-! Writebacks, each over the access to a line's tag that it makes. -/

/-- An access to tags that leaves the queues of the engines. -/
def TouchKeepsEngines (touch : Touch) : Prop := ∀ s p g w pa, engines (touch s p g w pa) = engines s

theorem engines_stashCleanOne {touch : Touch} (k : TouchKeepsEngines touch) (s : State) (tm side num sec : Nat) (u : Bool) :
    engines (stashCleanOne touch s tm side num sec u) = engines s := by
  unfold stashCleanOne
  split
  · rfl
  · split
    · rfl
    · split
      · simp
      · dsimp only
        split
        · simp [k _ _ _ _ _]
        · simp
        · simp
        · split <;> simp
        · rfl

theorem engines_cleanWith {touch : Touch} (k : TouchKeepsEngines touch) (s : State) (c : Nat) (x : L1Sector) :
    engines (cleanWith touch s c x) = engines s := by
  unfold cleanWith recallWith
  split
  · rfl
  · dsimp only
    rw [engines_modCore_l1, engines_landMask, k, engines_foldl fun _ _ => engines_stashCleanOne k _ _ _ _ _ _]

theorem engines_writebackWith {touch : Touch} (k : TouchKeepsEngines touch) (s : State) (c : Nat) :
    engines (writebackWith touch s c) = engines s :=
  engines_foldl (fun _ _ => engines_cleanWith k _ _ _) _ s

theorem engines_evictWith {wb : State → Nat → State} (k : ∀ s c, engines (wb s c) = engines s) (s : State) (l : L2Line) :
    engines (evictWith wb s l) = engines s := by
  unfold evictWith
  extract_lets u
  have written : engines u = engines s := by
    dsimp only [u]
    split
    · rw [k, engines_dropTags]
    · rfl
  rw [← written]
  split
  · rfl
  · exact (engines_ownBack _ _).trans (engines_charge _ _ _ _)

theorem touchKeepsEngines_touchWith {wb : State → Nat → State} (k : ∀ s c, engines (wb s c) = engines s) : TouchKeepsEngines (touchWith wb) := by
  intro s p g w pa
  unfold touchWith
  split
  · rfl
  · extract_lets line u sec home present sameSet room units u1 missing u2
    have filled : engines u1 = engines u := by
      dsimp only [u1]
      split
      · rfl
      · change engines room = engines u
        dsimp only [room]
        split
        · rfl
        · split
          · exact engines_evictWith k _ _
          · rfl
    have charged : engines u2 = engines u1 := by
      dsimp only [u2]
      split
      · exact engines_charge _ _ _ _
      · rfl
    exact charged.trans (filled.trans (engines_snoopRead _ _))

theorem touchKeepsEngines_touchL2 : TouchKeepsEngines touchL2 := by
  have fuel (n : Nat) : TouchKeepsEngines (touchFuel n) := by
    induction n with
    | zero => exact touchKeepsEngines_touchWith fun _ _ => rfl
    | succ n ih => exact touchKeepsEngines_touchWith fun s c => engines_writebackWith ih s c
  exact fun s => fuel s.units.tags.length s

@[simp] theorem engines_touchL2 (s : State) (p : Nat) (g write : Bool) (pa : Nat) : engines (touchL2 s p g write pa) = engines s :=
  touchKeepsEngines_touchL2 s p g write pa

@[simp] theorem engines_stashCleanOne_touchL2 (s : State) (tm side num sec : Nat) (u : Bool) :
    engines (stashCleanOne touchL2 s tm side num sec u) = engines s :=
  engines_stashCleanOne touchKeepsEngines_touchL2 s tm side num sec u

@[simp] theorem engines_cleanSector (s : State) (c : Nat) (x : L1Sector) : engines (cleanSector s c x) = engines s :=
  engines_cleanWith touchKeepsEngines_touchL2 s c x

@[simp] theorem engines_writebackL1 (s : State) (c : Nat) : engines (writebackL1 s c) = engines s :=
  engines_writebackWith touchKeepsEngines_touchL2 s c

@[simp] theorem engines_recallStash (s : State) (pa : Nat) : engines (recallStash s pa) = engines s :=
  engines_foldl (fun _ _ => engines_stashCleanOne_touchL2 _ _ _ _ _ _) _ s

@[simp] theorem engines_clearTag (s : State) (t : RelTag) : engines (clearTag s t) = engines s := by
  simp [clearTag]

@[simp] theorem engines_promote (s : State) (team : Option Nat) (line : Nat) : engines (promote s team line) = engines s := by
  unfold promote
  split
  · split <;> simp
  · rfl

@[simp] theorem engines_shareStore (s : State) (pa : Nat) (bs : List Byte) : engines (shareStore s pa bs) = engines s := by
  refine engines_foldl (fun s h => ?_) _ s
  dsimp only
  split
  · split <;> simp
  · rfl

@[simp] theorem engines_writeL2 (s : State) (p : Nat) (g : Bool) (pa : Nat) (bs : List Byte) : engines (writeL2 s p g pa bs) = engines s := by
  simp [writeL2]

@[simp] theorem engines_fillL1 (s : State) (c p : Nat) (g : Bool) (pa : Nat) : engines (fillL1 s c p g pa) = engines s := by
  unfold fillL1
  dsimp only
  split
  · simp
  · rw [engines_modCore_l1, engines_touchL2]
    split
    · rfl
    · rw [engines_modCore_l1, engines_foldl fun _ _ => engines_cleanSector _ _ _]

@[simp] theorem engines_invalidateL1 (s : State) (c : Nat) : engines (invalidateL1 s c) = engines s :=
  (engines_modCore_l1 _ c _).trans (engines_writebackL1 s c)

/-! The scratchpad and its stash windows. -/

@[simp] theorem engines_stashFillAt (s : State) (tm side off : Nat) : engines (stashFillAt s tm side off) = engines s := by
  unfold stashFillAt
  split
  · rfl
  · split
    · rfl
    · split
      · rfl
      · dsimp only
        split
        · split
          · rfl
          · split <;> simp
        · simp

@[simp] theorem engines_scratchReady (s : State) (tm side off n : Nat) : engines (scratchReady s tm side off n) = engines s :=
  engines_foldl (fun _ _ => engines_stashFillAt _ _ _ _) _ s

@[simp] theorem engines_scratchStore (s : State) (tm side off : Nat) (bs : List Byte) : engines (scratchStore s tm side off bs) = engines s := by
  simp [scratchStore]

@[simp] theorem engines_stashClean (s : State) (tm side num sec : Nat) (u : Bool) : engines (stashClean s tm side num sec u) = engines s := by
  unfold stashClean
  split
  · rfl
  · dsimp only
    rw [engines_stashCleanOne_touchL2]
    split
    · exact engines_foldl (fun s h => by split <;> simp) _ s
    · rfl

@[simp] theorem engines_stashCleanAll (s : State) (tm side : Nat) (u : Bool) : engines (stashCleanAll s tm side u) = engines s := by
  unfold stashCleanAll
  split
  · rfl
  · refine engines_foldl (fun s w => ?_) _ s
    split
    · exact engines_foldl (fun _ _ => engines_stashClean _ _ _ _ _ _) _ s
    · rfl

@[simp] theorem engines_releaseWide (s : State) (tm core side : Nat) : engines (releaseWide s tm core side) = engines s := by
  simp [releaseWide]

/-! Accesses of lanes. -/

@[simp] theorem engines_ownStash (s : State) (l : LaneId) (pa : Nat) : engines (ownStash s l pa) = engines s := by
  unfold ownStash
  split
  · rfl
  · refine engines_foldl (fun s h => ?_) _ s
    split
    · split <;> simp
    · rfl

@[simp] theorem engines_laneFetch (s : State) (l : LaneId) (g narrow : Bool) (pa : Nat) : engines (laneFetch s l g narrow pa) = engines s := by
  unfold laneFetch
  split
  · simp
  · split <;> simp

@[simp] theorem engines_releaseLane (s : State) (l : LaneId) (sc : Scope) : engines (releaseLane s l sc) = engines s := by
  unfold releaseLane
  split
  · rfl
  · split
    · simp
    · split
      · split <;> simp
      · rfl

@[simp] theorem engines_acquireLane (s : State) (l : LaneId) (sc : Scope) : engines (acquireLane s l sc) = engines s := by
  unfold acquireLane
  split
  · rfl
  · split
    · simp
    · split
      · split <;> simp
      · rfl

@[simp] theorem engines_promoteFor (s : State) (l : LaneId) (sc : Scope) (pa : Nat) : engines (promoteFor s l sc pa) = engines s := by
  unfold promoteFor
  split <;> simp

@[simp] theorem engines_setTag (s : State) (l : LaneId) (pa : Nat) : engines (setTag s l pa) = engines s := by
  unfold setTag
  dsimp only
  split
  · split
    · rfl
    · exact engines_clearTag _ _
  · rfl

@[simp] theorem engines_loadAt (s : State) (l : LaneId) (sc : Scope) (acq g : Bool) (pa n : Nat) :
    engines (loadAt s l sc acq g pa n).1 = engines s := by
  unfold loadAt
  dsimp only
  rw [engines_laneFetch]
  split <;> simp

@[simp] theorem engines_storeAt (s : State) (l : LaneId) (sc : Scope) (rel tag g : Bool) (pa : Nat) (bs : List Byte) :
    engines (storeAt s l sc rel tag g pa bs) = engines s := by
  unfold storeAt
  extract_lets u bs c u1 u2
  have released : engines u = engines s := by
    dsimp only [u]
    split <;> simp
  have written : engines u2 = engines u := by
    dsimp only [u2, u1]
    split <;> simp
  rw [← released]
  split
  · simp
  · split <;> simp [written]

@[simp] theorem engines_yieldLine (s : State) (pa : Nat) : engines (yieldLine s pa) = engines s :=
  engines_foldl (fun s l => engines_evictWith engines_writebackL1 s l) _ s

@[simp] theorem engines_atomAt (s : State) (l : LaneId) (op : AtomOp) (sc : Scope) (ar tag g : Bool) (pa : Nat) (v c1 : Word) :
    engines (atomAt s l op sc ar tag g pa v c1).1 = engines s := by
  unfold atomAt
  extract_lets u c u1 u2 u3 old bad patch u4
  have released : engines u = engines s := by
    dsimp only [u]
    rw [engines_noteTagRead]
    split <;> simp
  have cleaned : engines u1 = engines u := by
    dsimp only [u1]
    split <;> simp
  have yielded : engines u3 = engines u1 := by
    dsimp only [u3, u2]
    split <;> simp
  have patched (v : State) (w : Word) : engines (patch v w) = engines v := by
    dsimp only [patch]
    split <;> simp
  have written : engines u4 = engines u3 := by
    dsimp only [u4]
    split
    · split <;> split <;> simp [patched]
    · split <;> simp [patched]
  exact written.trans (yielded.trans (cleaned.trans released))

@[simp] theorem engines_loadScratchAt (s : State) (tm side off n : Nat) (ga : Option Nat) :
    engines (loadScratchAt s tm side off n ga).1 = engines s := by
  unfold loadScratchAt
  dsimp only
  split
  · split
    · split <;> simp
    · simp
  · simp

@[simp] theorem engines_atomScratchAt (s : State) (op : AtomOp) (tm side off : Nat) (ga : Option Nat) (v c1 : Word) :
    engines (atomScratchAt s op tm side off ga v c1).1 = engines s := by
  unfold atomScratchAt
  dsimp only
  split <;> simp

theorem engines_performOne (s : State) (e : Late) : engines (performOne s e) = engines s := by
  unfold performOne
  extract_lets u done before
  have kept : engines u = engines s := rfl
  have acquired (v : State) : engines (done v) = engines v := by
    dsimp only [done]
    split <;> simp
  have released (v : State) : engines (before v) = engines v := by
    dsimp only [before]
    split <;> simp
  rw [← kept]
  split
  · rw [acquired, engines_noteLinkAt, engines_lateValue, engines_loadAt, engines_countAccess]
  · simp [acquired]
  · split <;> simp [released]
  · simp [released]
  · split
    · exact released u
    · rw [acquired, engines_noteLinkAt, engines_lateValue, engines_atomAt, engines_countAccess]
  · simp [acquired, released]

@[simp] theorem engines_performThose (s : State) (seed : Late → Bool) : engines (performThose s seed) = engines s :=
  engines_foldl engines_performOne _ s

/-- The reads of a range leave the queues of the engines. -/
@[simp] theorem engines_spanNote (s : State) (core p va n : Nat) (a : Acc) : engines (spanNote s core p va n a) = engines s := by
  refine engines_foldl (fun s c => ?_) _ s
  split <;> simp

/-! The end of a team. -/

@[simp] theorem engines_tryEndTeam (s : State) (tm : Nat) : engines (tryEndTeam s tm) = engines s := by
  have ended (u : State) : engines (endTeam u tm) = engines u := by
    unfold endTeam
    split
    · rfl
    · rename_i t _
      change engines (if t.pair then stashCleanAll (stashCleanAll u tm 0 true) tm 1 true else stashCleanAll u tm 0 true) = engines u
      split <;> simp
  unfold tryEndTeam
  split
  · rfl
  · split
    · dsimp only
      split
      · simp [drainTeam]
      · simp [ended, drainTeam]
    · rfl

/-- The groups are as they were: a team's end is no end of a group. -/
theorem groups_tryEndTeam (s : State) (tm : Nat) : (tryEndTeam s tm).work.groups = s.work.groups := by
  have kept {u v : State} (h : ContextsKept u v) : v.work.groups = u.work.groups := congrArg Contexts.groups h
  have ended (u : State) : (endTeam u tm).work.groups = u.work.groups := by
    unfold endTeam
    split
    · rfl
    · rename_i t _
      change (if t.pair then stashCleanAll (stashCleanAll u tm 0 true) tm 1 true else stashCleanAll u tm 0 true).work.groups = u.work.groups
      have first := contextsKept_stashCleanAll u tm 0 true
      split
      · exact kept (first.trans (contextsKept_stashCleanAll _ _ _ _))
      · exact kept first
  have drained := kept (contextsKept_performThose s fun e => laneTeam s e.lane = tm)
  unfold tryEndTeam
  split
  · rfl
  · split
    · dsimp only
      split
      · exact (kept (contextsKept_noteAccess _ _ _ _ _)).trans drained
      · exact (ended _).trans drained
    · rfl

end Sys2Proof.Machine
end

section
/-! A result that lands (R56 to R58): the elements of one group that await it, each named once, take their values, unless their lane has exited,
and no operation enters or leaves a queue. -/

namespace Sys2Proof.Machine

/-! ### What a landing leaves alone -/

/-- The numbers of the operations in each matrix queue of a core, and its texture queue. -/
def queued (s : State) (c : Nat) : List (List Nat) × List TexOp :=
  ((coreOf s c).quads.map (fun q => q.mq.map (·.id)), (coreOf s c).tex)

/-- Which lanes of each group have exited, and how many it has. -/
def lives (s : State) (g : Nat) : Option (LMask × Nat) := (group? s g).map (fun x => (x.exited, x.width))

theorem queued_of_engines {s t : State} (h : engines t = engines s) : queued t = queued s := by
  funext c
  have quads : (coreOf t c).quads = (coreOf s c).quads := congrArg Prod.fst (congrFun h c)
  rw [queued, quads, tex_congr h, queued]

theorem ids_of_queued (s : State) (c q : Nat) : (quadOf s c q).mq.map (·.id) = (queued s c).1.getD q [] := by
  rw [quadOf, queued, List.getD_eq_getElem?_getD, List.getD_eq_getElem?_getD, List.getElem?_map]
  cases (coreOf s c).quads[q]? <;> rfl

theorem laneExited_of_lives {s t : State} (h : lives t = lives s) (g i : Nat) : laneExited t g i = laneExited s g i := by
  have exited (u : State) : laneExited u g i = (lives u g).any (fun e => e.1.getLsbD i) := by
    rw [laneExited, lives]
    cases group? u g <;> rfl
  rw [exited, exited, h]

theorem lives_of_contexts {s t : State} (h : ContextsKept s t) : lives t = lives s := by
  funext g
  exact congrArg (fun c : Contexts => (tget? c.groups g).map fun x => (x.exited, x.width)) h

theorem lives_modGroup (s : State) (g : Nat) {f : Group → Group} (hf : ∀ x, ((f x).exited, (f x).width) = (x.exited, x.width)) :
    lives (modGroup s g f) = lives s := by
  funext h
  rw [lives, group?_modGroup]
  split
  case isTrue e =>
    subst e
    rw [Option.map_map, lives]
    exact congrArg (fun p => (group? s h).map p) (funext hf)
  case isFalse => rfl

theorem lives_setLaneElem (s : State) (g i r : Nat) (e : Elem) : lives (setLaneElem s (.wave g i) r e) = lives s := by
  rw [setLaneElem_wave]
  split
  · exact lives_modGroup s g fun _ => rfl
  · exact lives_modGroup s g fun _ => rfl

theorem laneElem_wave_of_groups {s t : State} (h : t.work.groups = s.work.groups) (g i r : Nat) :
    laneElem t (.wave g i) r = laneElem s (.wave g i) r := by
  simp only [laneElem, group?, h]

theorem contextsKept_landImage (s : State) (k r pos : Nat) (e : Elem) : ContextsKept s (landImage s k r pos e) := by
  unfold landImage
  split
  · split
    · exact (contextsKept_storeDev _ _ _).trans (contextsKept_storeDev _ _ _)
    · exact ContextsKept.refl s
  · exact ContextsKept.refl s

/-! ### One element -/

theorem lives_landElem (s : State) (id g i r : Nat) (v : Word) (bad : Bool) : lives (landElem s id (.wave g i) r v bad) = lives s := by
  unfold landElem
  dsimp only
  split
  · rfl
  · split
    · split
      · split
        · exact (lives_of_contexts (contextsKept_landImage _ _ _ _ _)).trans (lives_setLaneElem _ _ _ _ _)
        · rfl
      · rfl
    · exact lives_modGroup s g fun _ => rfl

theorem engines_setLaneElem_wave (s : State) (g i r : Nat) (e : Elem) : engines (setLaneElem s (.wave g i) r e) = engines s := by
  rw [setLaneElem_wave]
  split <;> rfl

theorem engines_landElem (s : State) (id g i r : Nat) (v : Word) (bad : Bool) : engines (landElem s id (.wave g i) r v bad) = engines s := by
  unfold landElem
  dsimp only
  split
  · rfl
  · split
    · split
      · split
        · rw [engines_landImage, engines_setLaneElem_wave]
        · rfl
      · rfl
    · rfl

/-- The element that awaits a result takes it; every other one is as before. -/
theorem laneElem_landElem (s : State) (id g : Nat) {i r : Nat} (v : Word) (bad : Bool) (hi : i < 64) (h j q : Nat) (hj : j < 64) (hq : q < 56) :
    laneElem (landElem s id (.wave g i) r v bad) (.wave h j) q =
      if (LaneId.wave h j, q) = (LaneId.wave g i, r) ∧ laneExited s g i = false ∧ laneElem s (.wave g i) r = .empty id then .full v bad
      else laneElem s (.wave h j) q := by
  unfold landElem
  dsimp only
  by_cases exited : laneExited s g i = true
  · simp [exited]
  rw [if_neg exited]
  by_cases hr : r < 56
  · rw [if_pos hr]
    by_cases awaits : laneElem s (.wave g i) r = .empty id
    · rw [if_pos awaits]
      cases hx : group? s g with
      | none => simp [laneElem_wave, hr, hx] at awaits
      | some x =>
        rw [(contextsKept_landImage _ _ _ _ _).undisturbed.elems]
        by_cases same : (LaneId.wave h j, q) = (LaneId.wave g i, r)
        · rw [if_pos ⟨same, Bool.not_eq_true _ ▸ exited, awaits⟩, (Prod.mk.inj same).1, (Prod.mk.inj same).2]
          exact laneElem_setLaneElem_self s _ _ _ ⟨by rw [hx]; rfl, .inl hr⟩
        · rw [if_neg fun e => same e.1]
          exact laneElem_setLaneElem_ne s _ hi hj fun e => same (Prod.ext e.1 e.2)
    · rw [if_neg awaits, if_neg fun e => awaits e.2.2]
  · have other : ¬ (LaneId.wave h j, q) = (LaneId.wave g i, r) := fun e => hr ((Prod.mk.inj e).2 ▸ hq)
    rw [if_neg hr, if_neg fun e => other e.1, laneElem_wave, laneElem_wave, if_pos hq, if_pos hq, group?_modSlice]
    split
    · rename_i e
      subst e
      cases group? s h <;> rfl
    · rfl

/-! ### Accumulator inputs -/

/-- A core whose matrix operations are changed by `f`. -/
def Core.mapOps (f : MatOp → MatOp) (x : Core) : Core := { x with quads := x.quads.map (fun q => { q with mq := q.mq.map f }) }

theorem coreOf_mapOps (s : State) (f : MatOp → MatOp) (c : Nat) :
    coreOf { s with units := { s.units with cores := s.units.cores.map (fun e => (e.1, e.2.mapOps f)) } } c = (coreOf s c).mapOps f := by
  simp only [coreOf, tgetD, tget?_map_snd s.units.cores (Core.mapOps f) c]
  cases tget? s.units.cores c <;> rfl

/-- The inputs that an operation awaits from a result are no part of its number. -/
theorem queued_landInputs (s : State) (id g i r : Nat) (v : Word) (bad : Bool) : queued (landInputs s id g i r v bad) = queued s := by
  let f (o : MatOp) : MatOp := if o.group = g then { o with accIn := o.accIn.map (fun x => if x.1 = i then
    (x.1, x.2.zipIdx.map (fun y => if y.1 = .empty id && o.d + y.2 = r then .full v bad else y.1)) else x) } else o
  have number (o : MatOp) : (f o).id = o.id := by
    dsimp only [f]
    split <;> rfl
  have core (c : Nat) : coreOf (landInputs s id g i r v bad) c = (coreOf s c).mapOps f := coreOf_mapOps s f c
  funext c
  simp only [queued, core, Core.mapOps, List.map_map, Function.comp_def, number]

/-! ### The destinations of a result -/

/-- One destination of a result lands. -/
def landDest (id : Nat) (s : State) (d : LaneId × Nat × Word × Bool) : State :=
  let t := landElem s id d.1 d.2.1 d.2.2.1 d.2.2.2
  match d.1 with
  | .wave g i => landInputs t id g i d.2.1 d.2.2.1 d.2.2.2
  | _ => t

/-- Some destinations are elements of one group, each named once. -/
structure OfGroup (g : Nat) (ds : List (LaneId × Nat × Word × Bool)) : Prop where
  lanes : ∀ d ∈ ds, ∃ i, i < 64 ∧ d.1 = .wave g i
  once : (ds.map (fun d => (d.1, d.2.1))).Nodup

theorem OfGroup.tail {g : Nat} {d : LaneId × Nat × Word × Bool} {ds : List (LaneId × Nat × Word × Bool)} (h : OfGroup g (d :: ds)) : OfGroup g ds :=
  ⟨fun e he => h.lanes e (List.mem_cons_of_mem d he), (List.nodup_cons.mp h.once).2⟩

theorem lives_landDest {id g i : Nat} (s : State) {d : LaneId × Nat × Word × Bool} (hd : d.1 = .wave g i) : lives (landDest id s d) = lives s := by
  rw [landDest, hd]
  exact lives_landElem s id g i _ _ _

theorem queued_landDest {id g i : Nat} (s : State) {d : LaneId × Nat × Word × Bool} (hd : d.1 = .wave g i) :
    queued (landDest id s d) = queued s := by
  rw [landDest, hd]
  exact (queued_landInputs _ _ _ _ _ _ _).trans (queued_of_engines (engines_landElem s id g i _ _ _))

theorem laneElem_landDest {id g i : Nat} (s : State) {d : LaneId × Nat × Word × Bool} (hd : d.1 = .wave g i) (hi : i < 64) (h j q : Nat)
    (hj : j < 64) (hq : q < 56) : laneElem (landDest id s d) (.wave h j) q =
      if (LaneId.wave h j, q) = (d.1, d.2.1) ∧ laneExited s g i = false ∧ laneElem s d.1 d.2.1 = .empty id then .full d.2.2.1 d.2.2.2
      else laneElem s (.wave h j) q := by
  rw [landDest, hd]
  exact laneElem_landElem s id g d.2.2.1 d.2.2.2 hi h j q hj hq

/-- What the landing of all destinations leaves of the lanes and of the queues. -/
theorem landDests_keep (id g : Nat) (ds : List (LaneId × Nat × Word × Bool)) (s : State) (hds : OfGroup g ds) :
    lives (ds.foldl (landDest id) s) = lives s ∧ queued (ds.foldl (landDest id) s) = queued s := by
  induction ds generalizing s with
  | nil => exact ⟨rfl, rfl⟩
  | cons d ds ih =>
    obtain ⟨i, -, hd⟩ := hds.lanes d List.mem_cons_self
    obtain ⟨alive, waiting⟩ := ih (landDest id s d) hds.tail
    exact ⟨alive.trans (lives_landDest s hd), waiting.trans (queued_landDest s hd)⟩

/-- An element that is no destination is as before. -/
theorem laneElem_landDests_ne (id g : Nat) (ds : List (LaneId × Nat × Word × Bool)) (s : State) (hds : OfGroup g ds) {h j q : Nat} (hj : j < 64)
    (hq : q < 56) (apart : (LaneId.wave h j, q) ∉ ds.map (fun d => (d.1, d.2.1))) :
    laneElem (ds.foldl (landDest id) s) (.wave h j) q = laneElem s (.wave h j) q := by
  induction ds generalizing s with
  | nil => rfl
  | cons d ds ih =>
    obtain ⟨i, hi, hd⟩ := hds.lanes d List.mem_cons_self
    rw [List.map_cons, List.mem_cons, not_or] at apart
    rw [List.foldl_cons, ih _ hds.tail apart.2, laneElem_landDest s hd hi h j q hj hq, if_neg fun e => apart.1 e.1]

/-- A destination whose lane has not exited takes its value if it still awaits it. -/
theorem laneElem_landDests (id g : Nat) (ds : List (LaneId × Nat × Word × Bool)) (s : State) (hds : OfGroup g ds) {i r : Nat} {v : Word}
    {bad : Bool} (mem : (LaneId.wave g i, r, v, bad) ∈ ds) (hr : r < 56) (alive : laneExited s g i = false) :
    laneElem (ds.foldl (landDest id) s) (.wave g i) r =
      if laneElem s (.wave g i) r = .empty id then .full v bad else laneElem s (.wave g i) r := by
  induction ds generalizing s with
  | nil => cases mem
  | cons d ds ih =>
    obtain ⟨j, hj, hd⟩ := hds.lanes d List.mem_cons_self
    obtain ⟨fresh, -⟩ := List.nodup_cons.mp hds.once
    rw [List.foldl_cons]
    rcases List.mem_cons.mp mem with rfl | later
    · obtain ⟨-, rfl⟩ := LaneId.wave.inj hd
      rw [laneElem_landDests_ne id g ds _ hds.tail hj hr fresh, laneElem_landDest s hd hj g i r hj hr]
      simp only [alive, true_and]
    · obtain ⟨k, hk, he⟩ := hds.lanes _ mem
      obtain ⟨-, rfl⟩ := LaneId.wave.inj he
      have apart : ¬ (LaneId.wave g i, r) = (d.1, d.2.1) := fun e =>
        fresh (List.mem_map.mpr ⟨_, later, e⟩)
      have still : laneElem (landDest id s d) (.wave g i) r = laneElem s (.wave g i) r := by
        rw [laneElem_landDest s hd hj g i r hk hr, if_neg fun e => apart e.1]
      rw [ih _ hds.tail later (by rw [laneExited_of_lives (lives_landDest s hd), alive]), still]

/-! ### The landing -/

theorem mem_insertNat {k a : Nat} {xs : List Nat} (h : a ∈ insertNat k xs) : a = k ∨ a ∈ xs := by
  induction xs with
  | nil => simpa [insertNat] using h
  | cons x xs ih =>
    unfold insertNat at h
    split at h
    · simpa using h
    · split at h
      · exact .inr h
      · rcases List.mem_cons.mp h with rfl | later
        · exact .inr List.mem_cons_self
        · exact (ih later).imp_right (List.mem_cons_of_mem x)

theorem mem_sortNat {a : Nat} {xs : List Nat} (h : a ∈ sortNat xs) : a ∈ xs := by
  have grown (ys : List Nat) : a ∈ xs.foldl (fun acc x => insertNat x acc) ys → a ∈ ys ∨ a ∈ xs := by
    clear h
    induction xs generalizing ys with
    | nil => exact .inl
    | cons x xs ih =>
      intro h
      rcases ih _ h with h | h
      · rcases mem_insertNat h with rfl | h
        · exact .inr List.mem_cons_self
        · exact .inl h
      · exact .inr (List.mem_cons_of_mem x h)
  exact (grown [] h).resolve_left List.not_mem_nil

/-- A group with a lane that has not exited does not end. -/
theorem tryEndGroup_of_alive {s : State} {g : Nat} (h : ∀ x, group? s g = some x → x.exited ≠ allLanes x) : tryEndGroup s g = s := by
  unfold tryEndGroup
  split
  · rfl
  · rename_i x hx
    simp [h x hx]

/-- A result for one group of which some lane goes on: what it fills, and what it leaves alone. -/
theorem landPosted_group {s : State} {g : Nat} {p : Posted} {x : Group} (hlink : p.link = none) (hds : OfGroup g p.dests)
    (hx : group? s g = some x) (hlive : x.exited ≠ allLanes x) :
    queued (landPosted s p) = queued s ∧ ∀ i r v bad, (LaneId.wave g i, r, v, bad) ∈ p.dests → r < 56 → laneExited s g i = false →
      laneElem (landPosted s p) (.wave g i) r =
        if laneElem s (.wave g i) r = .empty p.id then .full v bad else laneElem s (.wave g i) r := by
  let u : State := { s with posted := s.posted.filter (fun q => q.id != p.id) }
  let t := p.dests.foldl (landDest p.id) u
  obtain ⟨alive, waiting⟩ := landDests_keep p.id g p.dests u hds
  have goes : ∀ y, group? t g = some y → y.exited ≠ allLanes y := by
    intro y hy
    have same : (y.exited, y.width) = (x.exited, x.width) := by
      have := congrFun alive g
      rw [lives, hy, lives, show group? u g = some x from hx] at this
      exact Option.some.inj this
    obtain ⟨exited, width⟩ := Prod.mk.inj same
    rwa [exited, allLanes, width]
  have whole : landPosted s p = t := by
    have ends : landPosted s p = (sortNat (p.dests.filterMap (fun d => match d.1 with | .wave g _ => some g | _ => none))).foldl tryEndGroup t := by
      unfold landPosted
      rw [show noteReply u p = u by simp only [noteReply, hlink]]
      rfl
    rw [ends]
    refine List.foldlRecOn (motive := fun v => v = t) _ _ rfl fun v hv k hk => ?_
    obtain ⟨d, hd, hk⟩ := List.mem_filterMap.mp (mem_sortNat hk)
    obtain ⟨i, -, hi⟩ := hds.lanes d hd
    rw [hi] at hk
    obtain rfl := Option.some.inj hk
    rw [hv, tryEndGroup_of_alive goes]
  rw [whole]
  exact ⟨waiting, fun i r v bad mem hr out => laneElem_landDests p.id g p.dests u hds mem hr out⟩

/-- Rows of results, each row for its own lane and each result for its own register, are elements of one group that are named once. -/
theorem ofGroup_rows {α β : Type} (g d : Nat) (rows : List α) (lane : α → Nat) (cells : α → List β)
    (mk : α → β × Nat → LaneId × Nat × Word × Bool) (hlane : ∀ e c, (mk e c).1 = .wave g (lane e)) (hreg : ∀ e c, (mk e c).2.1 = d + c.2)
    (h64 : ∀ e ∈ rows, lane e < 64) (once : (rows.map lane).Nodup) : OfGroup g (rows.flatMap (fun e => (cells e).zipIdx.map (mk e))) := by
  constructor
  · intro t ht
    obtain ⟨e, he, ht⟩ := List.mem_flatMap.mp ht
    obtain ⟨c, -, rfl⟩ := List.mem_map.mp ht
    exact ⟨lane e, h64 e he, hlane e c⟩
  · have keys : (rows.flatMap (fun e => (cells e).zipIdx.map (mk e))).map (fun t => (t.1, t.2.1)) =
        rows.flatMap (fun e => (List.range (cells e).length).map (fun n => (LaneId.wave g (lane e), d + n))) := by
      rw [List.map_flatMap]
      refine List.flatMap_congr fun e _ => ?_
      rw [List.map_map, List.range_eq_range', ← List.zipIdx_map_snd, List.map_map]
      refine List.map_congr_left fun c _ => ?_
      simp only [Function.comp_apply, hlane, hreg]
    rw [keys, List.nodup_flatMap]
    refine ⟨fun e _ => List.Nodup.map (fun a b => by simp) List.nodup_range, ?_⟩
    rw [List.Nodup, List.pairwise_map] at once
    refine once.imp fun apart => ?_
    simp only [Function.onFun, List.disjoint_left, List.mem_map]
    rintro _ ⟨n, -, rfl⟩ ⟨m, -, same⟩
    exact apart (LaneId.wave.inj (Prod.mk.inj same).1).2.symm

end Sys2Proof.Machine
end

section
/-! MATRIX_OPERATION and TEXTURE_OPERATION (R222 to R226, R418, R419) while nothing keeps the engine from what it reads: the operation at the
head of its queue leaves it, and its results land. -/

namespace Sys2Proof.Machine

/-! ### A team without stash windows -/

theorem windowAt_of_noWindows {t : Team} (h : t.windows = []) (side off : Nat) : windowAt t side off = none := by
  simp [windowAt, h]

theorem stashNeed_of_noWindows {t : Team} (h : t.windows = []) (s : State) (k side off : Nat) : stashNeed s k t side off = none := by
  rw [stashNeed, windowAt_of_noWindows h]

theorem scratchBlock_of_noWindows {t : Team} (h : t.windows = []) (s : State) (eng k side off n : Nat) : scratchBlock s eng k t side off n = none := by
  simp only [scratchBlock, windowAt_of_noWindows h, List.findSome?_eq_none_iff, implies_true]

theorem scratchReady_of_noWindows {s : State} {k : Nat} {t : Team} (hk : team? s k = some t) (h : t.windows = []) (side off n : Nat) :
    scratchReady s k side off n = s :=
  List.foldl_fixed' (fun c : Nat × Nat => stashFillAt_of_filled hk (stashNeed_of_noWindows h s k side c.1)) _

/-! ### The matrix operation at the head of its queue -/

theorem quadOf_modQuad_self {s : State} {c q : Nat} (h : q < (coreOf s c).quads.length) (f : Quad → Quad) :
    quadOf (modQuad s c q f) c q = f (quadOf s c q) := by
  have core : coreOf (modQuad s c q f) c = { coreOf s c with quads := modifyNth (coreOf s c).quads q f } := by
    simp [modQuad, coreOf]
  rw [quadOf, core, quadOf, List.getD_eq_getElem?_getD, List.getD_eq_getElem?_getD, modifyNth_getElem?, if_pos rfl,
    List.getElem?_eq_getElem h]
  rfl

theorem mmaAwaits_of_full {o : MatOp} (h : ∀ e ∈ o.accIn, ∀ v ∈ e.2, ∃ w q, v = .full w q) : mmaAwaits o = false := by
  rw [mmaAwaits, List.any_eq_false]
  intro e he
  rw [Bool.not_eq_true, List.any_eq_false]
  intro v hv
  obtain ⟨w, q, rfl⟩ := h e he v hv
  exact Bool.false_ne_true

/-- What an operation's results are for, and what they are. -/
def matDests (m : Team) (o : MatOp) : List (LaneId × Nat × Word × Bool) :=
  (mmaResults m o).1.map (fun r => (.wave o.group r.1, o.d + r.2.1, r.2.2.1, r.2.2.2))

/-- The results of an operation are one for each of its lanes and each of 16 columns. -/
theorem ofGroup_matDests (m : Team) (o : MatOp) : OfGroup o.group (matDests m o) := by
  unfold matDests mmaResults
  dsimp only
  rw [List.map_flatMap]
  simp only [List.map_map]
  refine ofGroup_rows o.group o.d _ (·.1) (fun _ => _) _ (fun e c => ?_) (fun e c => ?_) (fun e he => ?_) ?_
  · dsimp only [Function.comp_apply]
    split <;> rfl
  · dsimp only [Function.comp_apply]
    split <;> rfl
  · obtain ⟨n, hn, rfl⟩ := List.mem_map.mp he
    exact List.mem_range.mp (List.mem_filter.mp hn).1
  · rw [List.map_map, Function.comp_def, List.map_id'']
    · exact List.nodup_range.filter _
    · exact fun _ => rfl

/-- The numbers that stay in a queue. -/
def withoutOp (id : Nat) (q : Quad) : Quad := { q with mq := q.mq.filter (fun x => x.id != id) }

/-- The head operation, which has its inputs and meets no stash sector, lands its results. -/
theorem matrixStep_of_ready {s : State} {core quad : Nat} {o : MatOp} {rest : List MatOp} {x : Group} {m : Team}
    (hq : (quadOf s core quad).mq = o :: rest) (hx : group? s o.group = some x) (hm : team? s x.team = some m) (hw : m.windows = [])
    (full : ∀ e ∈ o.accIn, ∀ v ∈ e.2, ∃ w q, v = .full w q) :
    matrixStep s core quad = tryEndTeam (landPosted (modQuad (noteDamage s o.group (mmaResults m o).2) core quad (withoutOp o.id))
      { id := o.id, kind := .matrix, dests := matDests m o, link := none }) x.team := by
  have block (eng off n : Nat) := scratchBlock_of_noWindows hw s eng x.team o.side off n
  have ready (rs : List (Nat × Nat)) : rs.foldl (fun s r => scratchReady s x.team o.side r.1 r.2) s = s :=
    List.foldl_fixed' (fun r : Nat × Nat => scratchReady_of_noWindows hm hw o.side r.1 r.2) rs
  have waits (rs : List (Nat × Nat)) : rs.findSome? (fun _ => (none : Option (Nat × Acc))) = none :=
    List.findSome?_eq_none_iff.mpr fun _ _ => rfl
  have faults (rs : List (Nat × Nat)) : rs.filterMap (fun _ => (none : Option (Nat × Nat))) = [] :=
    List.filterMap_eq_nil_iff.mpr fun _ _ => rfl
  unfold matrixStep
  rw [hq]
  simp only [hx, hm, mmaAwaits_of_full full, block, ready, waits, faults, Bool.false_eq_true, if_false]
  rfl

/-- A group with a damage noted in FSTAT and, where they are free, in its logs (R226). -/
def Group.hurt (x : Group) (d : Damage) : Group :=
  let x := { x with fstat := x.fstat ||| 0x20 }
  if x.merr0.getLsbD 31 then x else { x with merr0 := merrWord d, merr1 := w32 d.off }

theorem noteDamage_cons (s : State) (g : Nat) (d : Damage) (ds : List Damage) : noteDamage s g (d :: ds) = modGroup s g (·.hurt d) := rfl

/-- A note of damage is none of registers, slices or exits. -/
theorem Group.hurt_keeps (x : Group) (d : Damage) :
    (x.hurt d).regs = x.regs ∧ (x.hurt d).slices = x.slices ∧ ((x.hurt d).exited, (x.hurt d).width) = (x.exited, x.width) := by
  unfold Group.hurt
  dsimp only
  split <;> exact ⟨rfl, rfl, rfl⟩

theorem laneElem_noteDamage (s : State) (g : Nat) (ds : List Damage) (l : LaneId) (r : Nat) : laneElem (noteDamage s g ds) l r = laneElem s l r := by
  cases ds with
  | nil => rfl
  | cons d ds =>
    rw [noteDamage_cons]
    exact laneElem_modGroup s g _ (fun x => (x.hurt_keeps d).1) (fun x => (x.hurt_keeps d).2.1) l r

theorem lives_noteDamage (s : State) (g : Nat) (ds : List Damage) : lives (noteDamage s g ds) = lives s := by
  cases ds with
  | nil => rfl
  | cons d ds =>
    rw [noteDamage_cons]
    exact lives_modGroup s g fun x => (x.hurt_keeps d).2.2

theorem engines_noteDamage (s : State) (g : Nat) (ds : List Damage) : engines (noteDamage s g ds) = engines s := by
  cases ds <;> rfl

/-- A group of which some lane goes on has such a lane wherever its lanes and their exits are the same. -/
theorem goes_of_lives {s t : State} (h : lives t = lives s) {g : Nat} {x : Group} (hx : group? s g = some x) (hlive : x.exited ≠ allLanes x) :
    ∃ y, group? t g = some y ∧ y.exited ≠ allLanes y := by
  have same := congrFun h g
  rw [lives, lives, hx] at same
  obtain ⟨y, hy, same⟩ := Option.map_eq_some_iff.mp same
  obtain ⟨exited, width⟩ := Prod.mk.inj same
  exact ⟨y, hy, by rwa [exited, allLanes, width]⟩

/-- The operation leaves its queue, and each of its results is in the element that awaited it. -/
theorem matrixStep_lands {s : State} {core quad : Nat} {o : MatOp} {rest : List MatOp} {x : Group} {m : Team}
    (hq : (quadOf s core quad).mq = o :: rest) (hlen : quad < (coreOf s core).quads.length) (hx : group? s o.group = some x)
    (hlive : x.exited ≠ allLanes x) (hm : team? s x.team = some m) (hw : m.windows = [])
    (full : ∀ e ∈ o.accIn, ∀ v ∈ e.2, ∃ w q, v = .full w q) :
    ((quadOf (matrixStep s core quad) core quad).mq).map (·.id) = (rest.map (·.id)).filter (fun n => n ≠ o.id) ∧
      ∀ r ∈ (mmaResults m o).1, o.d + r.2.1 < 56 → laneExited s o.group r.1 = false →
        laneElem (matrixStep s core quad) (.wave o.group r.1) (o.d + r.2.1) =
          if laneElem s (.wave o.group r.1) (o.d + r.2.1) = .empty o.id then .full r.2.2.1 r.2.2.2
          else laneElem s (.wave o.group r.1) (o.d + r.2.1) := by
  let n := noteDamage s o.group (mmaResults m o).2
  let u := modQuad n core quad (withoutOp o.id)
  let p : Posted := { id := o.id, kind := .matrix, dests := matDests m o, link := none }
  have whole : matrixStep s core quad = tryEndTeam (landPosted u p) x.team := matrixStep_of_ready hq hx hm hw full
  have damaged : engines n = engines s := engines_noteDamage _ _ _
  have alive : lives u = lives s := lives_noteDamage _ _ _
  obtain ⟨y, hy, goes⟩ := goes_of_lives alive hx hlive
  obtain ⟨waiting, fills⟩ := landPosted_group (p := p) rfl (ofGroup_matDests m o) hy goes
  rw [whole]
  constructor
  · have left : (quadOf u core quad).mq = rest.filter (fun x => x.id != o.id) := by
      rw [quadOf_modQuad_self (by rwa [show (coreOf n core).quads = _ from congrArg Prod.fst (congrFun damaged core)]), quadOf_congr damaged,
        withoutOp, hq]
      simp
    rw [ids_of_queued, queued_of_engines (engines_tryEndTeam _ _), waiting, ← ids_of_queued, left, List.filter_map]
    refine congrArg (List.map _) (List.filter_congr fun x _ => ?_)
    simp [bne, Bool.beq_eq_decide_eq]
  · intro r hr below out
    rw [laneElem_wave_of_groups (groups_tryEndTeam _ _), fills r.1 (o.d + r.2.1) r.2.2.1 r.2.2.2 (List.mem_map_of_mem hr) below
      (by rw [laneExited_of_lives alive, out])]
    have same : laneElem u (.wave o.group r.1) (o.d + r.2.1) = laneElem s (.wave o.group r.1) (o.d + r.2.1) :=
      (laneElem_wave_of_groups (s := n) (t := u) rfl _ _ _).trans (laneElem_noteDamage s o.group _ _ _)
    rw [same]

/-! ### The texture operation at the head of its queue -/

theorem mem_chunks {unit : Nat} (hu : 0 < unit) {k va n : Nat} {c : Nat × Nat} (h : c ∈ chunks unit k va n) : va ≤ c.1 ∧ c.1 < va + n := by
  induction k generalizing va n with
  | zero => cases h
  | succ k ih =>
    unfold chunks at h
    split at h
    · cases h
    · rename_i some
      have := Nat.mod_lt va hu
      rcases List.mem_cons.mp h with rfl | h
      · exact ⟨Nat.le_refl _, by dsimp only; omega⟩
      · have := ih h
        omega

/-- A TLB that answers for each byte of a range leaves nothing to wait for there. -/
theorem spanBlock_of_mapped {s : State} {core p va n pa : Nat} {a : Acc} (h : Mapped s core p va n pa [a]) (eng : Nat) :
    spanBlock s eng core p va n a = none := by
  rw [spanBlock, List.findSome?_eq_none_iff]
  intro c hc
  obtain ⟨low, high⟩ := mem_chunks (by decide) hc
  obtain ⟨e, hit, reached⟩ := h (c.1 - va) (by omega) a (List.mem_singleton_self a)
  rw [show va + (c.1 - va) = c.1 by omega] at hit reached
  simp [pageBlock, translate_of_tlbHit hit, reached, hit]

/-- A note of a read, made or not, is none of contexts and queues. -/
theorem spanNote_keeps (s : State) (core p va n : Nat) (a : Acc) (noted : Bool) :
    ContextsKept s (if noted then spanNote s core p va n a else s) ∧ engines (if noted then spanNote s core p va n a else s) = engines s := by
  cases noted with
  | true => exact ⟨contextsKept_spanNote _ _ _ _ _ _, engines_spanNote _ _ _ _ _ _⟩
  | false => exact ⟨ContextsKept.refl s, rfl⟩

/-- What a lane's results are for, and what they are, poisoned where `bad` says so. -/
def texDest (o : TexOp) (bad : List (Nat × Rat) → Bool) (e : Nat × List (Nat × Rat)) (w : Word × Nat) : LaneId × Nat × Word × Bool :=
  (.wave o.group e.1, o.d + w.2, w.1, bad e.2)

/-- The lanes of an operation with the taps that they fetch. -/
def texRows (o : TexOp) : List (Nat × List (Nat × Rat)) := o.coords.map (fun c => (c.1, texFetched o.desc o.gather c.2.1 c.2.2))

/-- A lane's result words, with the texels as a core reads them. -/
def texWords (s : State) (core p : Nat) (o : TexOp) (taps : List (Nat × Rat)) : List Word :=
  texResult o.desc o.gather taps (fun va => spanRead s core p va (tdSize o.desc) .r)

/-- The results of an operation, poisoned where `bad` says so. -/
def texLanded (s : State) (core p : Nat) (o : TexOp) (bad : List (Nat × Rat) → Bool) : Posted where
  id := o.id
  kind := .texture
  dests := (texRows o).flatMap (fun e => (texWords s core p o e.2).zipIdx.map (texDest o bad e))
  link := none

/-- The head operation, whose texels can all be read, lands its results, after what the reads leave behind. -/
theorem textureStep_of_mapped {s : State} {core : Nat} {o : TexOp} {rest : List TexOp} {x : Group} (hq : (coreOf s core).tex = o :: rest)
    (hx : group? s o.group = some x)
    (clear : ∀ e ∈ texRows o, ∀ t ∈ e.2, t.1 < 2 ^ 56 ∧ spanBlock s (engTex core) core (teamPart s x.team) t.1 (tdSize o.desc) .r = none) :
    ∃ t bad, ContextsKept s t ∧ engines t = engines s ∧ textureStep s core =
      tryEndTeam (landPosted (modCore t core (fun k => { k with tex := rest })) (texLanded s core (teamPart s x.team) o bad)) x.team := by
  let p := teamPart s x.team
  let block (va : Nat) : Option Block :=
    if 2 ^ 56 ≤ va then some (.fault 4 va) else spanBlock s (engTex core) core p va (tdSize o.desc) .r
  let fault (taps : List (Nat × Rat)) : Option (Nat × Nat) :=
    taps.findSome? (fun t => match block t.1 with | some (.fault c _) => some (c, t.1) | _ => none)
  have open_ (e : Nat × List (Nat × Rat)) (he : e ∈ texRows o) (t : Nat × Rat) (ht : t ∈ e.2) : block t.1 = none := by
    obtain ⟨below, none⟩ := clear e he t ht
    exact (if_neg (Nat.not_le.mpr below)).trans none
  have sound (e : Nat × List (Nat × Rat)) (he : e ∈ texRows o) : fault e.2 = none :=
    List.findSome?_eq_none_iff.mpr fun t ht => by rw [open_ e he t ht]
  unfold textureStep
  rw [hq]
  dsimp only
  rw [hx]
  dsimp only
  split
  · rename_i held
    obtain ⟨va, hva, waits⟩ := List.exists_of_findSome?_eq_some held
    obtain ⟨e, he, tap⟩ := List.mem_flatMap.mp hva
    obtain ⟨t, ht, rfl⟩ := List.mem_map.mp tap
    change (match block t.1 with | some (.wait w a) => some (w, a) | _ => none) = _ at waits
    rw [open_ e he t ht] at waits
    cases waits
  · split
    · rename_i failed
      obtain ⟨e, he, fails⟩ := List.exists_of_findSome?_eq_some failed
      change (fault e.2).map _ = _ at fails
      rw [sound e he] at fails
      cases fails
    · refine ⟨_, fun taps => taps.any (fun t => spanBad s core p t.1 (tdSize o.desc) .r), ?_, ?_,
        congrArg (fun q => tryEndTeam (landPosted (modCore _ core _) q) x.team) ?_⟩
      · exact ContextsKept.foldl _ (fun u va => (spanNote_keeps u core p va (tdSize o.desc) .r (block va).isNone).1) _ s
      · exact engines_foldl (fun u va => (spanNote_keeps u core p va (tdSize o.desc) .r (block va).isNone).2) _ s
      · refine congrArg (fun ds => Posted.mk o.id .texture ds none) (List.flatMap_congr fun e he => ?_)
        change List.map (fun w : Word × Nat => ((LaneId.wave o.group e.1, o.d + w.2, w.1, _ && (fault e.2).isNone) : LaneId × Nat × Word × Bool))
          (match fault e.2 with | some _ => List.replicate 4 (0 : Word) | none => texWords s core p o e.2).zipIdx = _
        rw [sound e he]
        simp only [Option.isNone_none, Bool.and_true]
        rfl

/-- The operation leaves its queue, and each of its results is in the element that awaited it. -/
theorem textureStep_lands {s : State} {core : Nat} {o : TexOp} {rest : List TexOp} {x : Group} (hq : (coreOf s core).tex = o :: rest)
    (hx : group? s o.group = some x) (hlive : x.exited ≠ allLanes x) (once : (o.coords.map (·.1)).Nodup)
    (mapped : ∀ c ∈ o.coords, c.1 < 64 ∧ ∀ e ∈ texFetched o.desc o.gather c.2.1 c.2.2, e.1 < 2 ^ 56 ∧
      ∃ pa, Mapped s core (teamPart s x.team) e.1 (tdSize o.desc) pa [.r]) :
    (coreOf (textureStep s core) core).tex = rest ∧ ∀ c ∈ o.coords, ∀ k w, o.d + k < 56 → laneExited s o.group c.1 = false →
      (texWords s core (teamPart s x.team) o (texFetched o.desc o.gather c.2.1 c.2.2))[k]? = some w →
      laneElem s (.wave o.group c.1) (o.d + k) = .empty o.id →
      ∃ bad, laneElem (textureStep s core) (.wave o.group c.1) (o.d + k) = .full w bad := by
  obtain ⟨t, bad, contexts, waiting, whole⟩ := textureStep_of_mapped hq hx fun e he v hv => by
    obtain ⟨c, hc, rfl⟩ := List.mem_map.mp he
    obtain ⟨below, pa, hits⟩ := (mapped c hc).2 v hv
    exact ⟨below, spanBlock_of_mapped hits _⟩
  let u := modCore t core (fun k => { k with tex := rest })
  let p := texLanded s core (teamPart s x.team) o bad
  have alive : lives u = lives s := lives_of_contexts contexts
  obtain ⟨y, hy, goes⟩ := goes_of_lives alive hx hlive
  have rows : OfGroup o.group p.dests := by
    refine ofGroup_rows o.group o.d _ (·.1) _ _ (fun _ _ => rfl) (fun _ _ => rfl) (fun e he => ?_) ?_
    · obtain ⟨c, hc, rfl⟩ := List.mem_map.mp he
      exact (mapped c hc).1
    · rwa [texRows, List.map_map]
  obtain ⟨queues, fills⟩ := landPosted_group (p := p) rfl rows hy goes
  rw [whole]
  constructor
  · rw [tex_congr (engines_tryEndTeam _ _), show (coreOf (landPosted u p) core).tex = _ from congrArg Prod.snd (congrFun queues core)]
    simp [queued, u, coreOf]
  · intro c hc k w below out found awaits
    have mem : (LaneId.wave o.group c.1, o.d + k, w, bad (texFetched o.desc o.gather c.2.1 c.2.2)) ∈ p.dests := by
      refine List.mem_flatMap.mpr ⟨_, List.mem_map_of_mem hc, List.mem_map.mpr ⟨(w, k), ?_, rfl⟩⟩
      rw [List.mem_zipIdx_iff_getElem?]
      exact found
    have same : laneElem u (.wave o.group c.1) (o.d + k) = .empty o.id :=
      ((laneElem_wave_of_groups (s := t) (t := u) rfl _ _ _).trans (contexts.undisturbed.elems _ _)).trans awaits
    refine ⟨bad (texFetched o.desc o.gather c.2.1 c.2.2), ?_⟩
    rw [laneElem_wave_of_groups (groups_tryEndTeam _ _), fills c.1 (o.d + k) w _ mem below (by rw [laneExited_of_lives alive, out])]
    exact if_pos same

end Sys2Proof.Machine
end

section
/-! What the ray units read (R313): the launches of the clusters have no part in it. -/

namespace Sys2Proof.Machine

/-- A state with other launches in its clusters. -/
def withClusters (s : State) (cs : List (Nat × Cluster)) : State := { s with units := { s.units with clusters := cs } }

section
variable (s : State) (cs : List (Nat × Cluster))

theorem readNum_withClusters : readNum (withClusters s cs) = readNum s := rfl
theorem paOk_withClusters : paOk (withClusters s cs) = paOk s := rfl
theorem inRim_withClusters : inRim (withClusters s cs) = inRim s := rfl
theorem unitsReady_withClusters : unitsReady (withClusters s cs) = unitsReady s := rfl
theorem bankPair_withClusters : bankPair (withClusters s cs) = bankPair s := rfl
theorem nsConfigured_withClusters : nsConfigured (withClusters s cs) = nsConfigured s := rfl
theorem contigLeaf_withClusters : contigLeaf (withClusters s cs) = contigLeaf s := rfl
theorem descFrame_withClusters : descFrame (withClusters s cs) = descFrame s := rfl
theorem tlbHit_withClusters : tlbHit (withClusters s cs) = tlbHit s := rfl
theorem reach_withClusters : reach (withClusters s cs) = reach s := rfl
theorem joinsRead_withClusters : joinsRead (withClusters s cs) = joinsRead s := rfl
theorem joinsCow_withClusters : joinsCow (withClusters s cs) = joinsCow s := rfl
theorem poolEmpty_withClusters : poolEmpty (withClusters s cs) = poolEmpty s := rfl
theorem engFailed_withClusters : engFailed (withClusters s cs) = engFailed s := rfl
theorem l2Read_withClusters : l2Read (withClusters s cs) = l2Read s := rfl

theorem walkLevel_withClusters (p va : Nat) (a : Acc) (n : Nat) : walkLevel (withClusters s cs) p va a n = walkLevel s p va a n := by
  funext table
  induction n generalizing table with
  | zero => rfl
  | succ n ih =>
    unfold walkLevel
    rw [readNum_withClusters, paOk_withClusters, unitsReady_withClusters, nsConfigured_withClusters, contigLeaf_withClusters,
      show walkLevel (withClusters s cs) p va a n = walkLevel s p va a n from funext ih]

theorem walk_withClusters : walk (withClusters s cs) = walk s := by
  funext p va a
  unfold walk
  rw [walkLevel_withClusters, bankPair_withClusters, inRim_withClusters, paOk_withClusters, descFrame_withClusters]

theorem translate_withClusters : translate (withClusters s cs) = translate s := by
  funext core p va a
  unfold translate
  rw [tlbHit_withClusters, walk_withClusters, reach_withClusters, joinsRead_withClusters, joinsCow_withClusters, poolEmpty_withClusters,
    readNum_withClusters]

theorem spanBlock_withClusters : spanBlock (withClusters s cs) = spanBlock s := by
  have page : pageBlock (withClusters s cs) = pageBlock s := by
    funext eng core p va a
    unfold pageBlock
    rw [translate_withClusters, tlbHit_withClusters, walk_withClusters, joinsRead_withClusters, joinsCow_withClusters, poolEmpty_withClusters,
      readNum_withClusters, engFailed_withClusters]
  funext eng core p va n a
  rw [spanBlock, page, spanBlock]

theorem spanRead_withClusters : spanRead (withClusters s cs) = spanRead s := by
  funext core p va n a
  unfold spanRead
  rw [translate_withClusters, l2Read_withClusters]

theorem rayRead_withClusters : rayRead (withClusters s cs) = rayRead s := by
  funext cl core p va n
  unfold rayRead
  rw [spanBlock_withClusters, spanRead_withClusters]

theorem visit_withClusters : visit (withClusters s cs) = visit s := by
  funext cl core p w o d fuel
  induction fuel with
  | zero =>
    funext rs f
    cases rs <;> rfl
  | succ k ih =>
    funext rs f
    cases rs with
    | nil => rfl
    | cons r rs =>
      unfold visit
      rw [rayRead_withClusters, ih]

theorem maskBit_withClusters : maskBit (withClusters s cs) = maskBit s := by
  have scratch : peek (withClusters s cs) = peek s := by
    funext k t side off n
    unfold peek
    rw [show stashNeed (withClusters s cs) = stashNeed s by
      funext k t side off
      unfold stashNeed
      rw [translate_withClusters]
      rfl, translate_withClusters]
    rfl
  funext o k
  unfold maskBit
  rw [scratch]
  rfl

theorem rayRecords_withClusters (cl core p : Nat) (o : RayOp) (view m : List Word) (gaze : Int × Int) :
    rayRecords (withClusters s cs) cl core p o view m gaze = rayRecords s cl core p o view m gaze := by
  funext fuel
  induction fuel with
  | zero =>
    funext k n
    cases n <;> rfl
  | succ fuel ih =>
    funext k n
    cases n with
    | zero => rfl
    | succ n =>
      unfold rayRecords
      rw [maskBit_withClusters, visit_withClusters, ih]
      rfl

end
end Sys2Proof.Machine
end

section
/-! RAY_LAUNCH (R313 to R315) on a team without stash windows: the records of the next rays go into the free slot of the launch's ring, which is
published, and a launch without another ray leaves its queue and ends its ring. -/

namespace Sys2Proof.Machine

/-! ### Stores into a team's scratchpad -/

/-- `t` has `m` for its team `k`, and the groups of `s`. -/
structure TeamSet (s t : State) (k : Nat) (m : Team) : Prop where
  team : team? t k = some m
  groups : t.work.groups = s.work.groups

theorem TeamSet.trans {s t u : State} {k : Nat} {m n : Team} (h : TeamSet s t k m) (g : TeamSet t u k n) : TeamSet s u k n :=
  ⟨g.team, g.groups.trans h.groups⟩

theorem teamSet_scratchStore {s : State} {k : Nat} {m : Team} (hk : team? s k = some m) (hw : m.windows = []) (side off : Nat) (bs : List Byte) :
    TeamSet s (scratchStore s k side off bs) k (scratchPut m side off bs) := by
  unfold scratchStore
  rw [scratchReady_of_noWindows hk hw]
  refine ⟨?_, rfl⟩
  rw [team?_modTeam, if_pos rfl, hk]
  refine congrArg some (List.foldl_fixed' (fun i => ?_) _)
  rw [windowAt_of_noWindows (show (scratchPut m side off bs).windows = [] from hw)]

theorem teamSet_ringChange {s : State} {k : Nat} {m : Team} (hk : team? s k = some m) (hw : m.windows = []) (side off j : Nat) (f : Nat → Nat) :
    TeamSet s (ringChange s k side off j f) k (scratchPut m side (off + 4 * j) (leBytes 4 (f (ringWord m side off j)))) := by
  unfold ringChange
  rw [scratchReady_of_noWindows hk hw]
  dsimp only
  rw [hk]
  exact teamSet_scratchStore hk hw _ _ _

theorem scratchGet_scratchPut_apart (m : Team) {side off o : Nat} {bs : List Byte} (h : off + bs.length ≤ 2 ^ 24) (ho : o < 2 ^ 24)
    (outside : o < off ∨ off + bs.length ≤ o) : scratchGet (scratchPut m side off bs) side o = scratchGet m side o := by
  rw [scratchGet_scratchPut m side off bs side o h ho, if_neg (by omega)]

/-- A header's word that a store does not reach. -/
theorem ringWord_scratchPut_apart (m : Team) {side off h j : Nat} {bs : List Byte} (hb : off + bs.length ≤ 2 ^ 24) (hh : h + 4 * j + 4 ≤ 2 ^ 24)
    (outside : h + 4 * j + 4 ≤ off ∨ off + bs.length ≤ h + 4 * j) : ringWord (scratchPut m side off bs) side h j = ringWord m side h j := by
  unfold ringWord scratchNum scratchRead
  refine congrArg leNat (List.map_congr_left fun i hi => ?_)
  have := List.mem_range.mp hi
  exact scratchGet_scratchPut_apart m hb (by omega) (by omega)

/-! ### Records -/

theorem bytesOf_length (ws : List Word) : (bytesOf ws).length = 4 * ws.length := by
  simp [bytesOf, List.length_flatMap, Nat.mul_comm]

theorem hitRecord_length (i j : Nat) (f : Found) (ix : Nat) : (hitRecord i j f ix).length = 32 := by
  unfold hitRecord
  dsimp only
  split <;> simp [bytesOf_length]

theorem padRecord_length (ix : Nat) : (padRecord ix).length = 32 := by
  simp [padRecord, bytesOf_length]

theorem rayRecords_fit {s : State} {cl core p : Nat} {o : RayOp} {view mat : List Word} {gaze : Int × Int} {fuel k n next : Nat}
    {rs : List (List Byte)} (h : rayRecords s cl core p o view mat gaze fuel k n = .ok (rs, next)) :
    rs.length ≤ n ∧ ∀ r ∈ rs, r.length = 32 := by
  induction fuel generalizing k n rs next with
  | zero =>
    cases n <;>
    · obtain ⟨rfl, -⟩ := Prod.mk.inj (Except.ok.inj h)
      exact ⟨Nat.zero_le _, fun _ hr => absurd hr List.not_mem_nil⟩
  | succ fuel ih =>
    cases n with
    | zero =>
      obtain ⟨rfl, -⟩ := Prod.mk.inj (Except.ok.inj h)
      exact ⟨Nat.le_refl _, fun _ hr => absurd hr List.not_mem_nil⟩
    | succ n =>
      unfold rayRecords at h
      dsimp only at h
      split at h
      · obtain ⟨rfl, -⟩ := Prod.mk.inj (Except.ok.inj h)
        exact ⟨Nat.zero_le _, fun _ hr => absurd hr List.not_mem_nil⟩
      · split at h
        · exact ih h
        · split at h
          · cases h
          · split at h
            · cases h
            · rename_i later
              obtain ⟨rfl, -⟩ := Prod.mk.inj (Except.ok.inj h)
              obtain ⟨count, each⟩ := ih later
              exact ⟨Nat.succ_le_succ count, List.forall_mem_cons.mpr ⟨hitRecord_length _ _ _ _, each⟩⟩

/-- The bytes of a slot: its records, and padding records behind them. -/
def slotBytes (ix per : Nat) (rs : List (List Byte)) : List Byte :=
  rs.flatten ++ (List.range (per - rs.length)).flatMap (fun n => padRecord (ix + 5 * per + 8 * n))

theorem flatten_length {rs : List (List Byte)} (h : ∀ r ∈ rs, r.length = 32) : rs.flatten.length = 32 * rs.length := by
  rw [List.length_flatten, List.map_congr_left h, List.map_const', List.sum_replicate_nat, Nat.mul_comm]

theorem slotBytes_length (ix : Nat) {per : Nat} {rs : List (List Byte)} (fits : rs.length ≤ per) (h : ∀ r ∈ rs, r.length = 32) :
    (slotBytes ix per rs).length = 32 * per := by
  rw [slotBytes, List.length_append, flatten_length h, List.length_flatMap]
  simp only [padRecord_length, List.map_const', List.length_range, List.sum_replicate_nat]
  omega

/-! ### The steps of a launch -/

/-- A launch without another ray ends its ring and leaves its queue. -/
def rayDone (s : State) (cl : Nat) (o : RayOp) : State :=
  tryEndTeam (setCluster (ringFlag s o.team o.side (ryRing o.words) 1) cl
    { clusterOf s cl with rays := (clusterOf s cl).rays.tail }) o.team

/-- A launch goes on at ray `k`. -/
def rayKeep (s : State) (cl k : Nat) : State :=
  setCluster s cl { clusterOf s cl with rays := modifyNth (clusterOf s cl).rays 0 (fun q => { q with next := k }) }

/-- Whether a launch has no ray from sample `k` on. -/
def rayEnds (s : State) (cl : Nat) (m : Team) (o : RayOp) (view mat : List Byte) (gaze : Word × Word) (k : Nat) : Bool :=
  match rayRecords s cl (m.core + o.side) (teamPart s o.team) o (wordsOf view) (wordsOf mat) (gaze.1.toInt, gaze.2.toInt)
    (ryIw o.words * ryJh o.words) k 1 with
  | .ok ([], _) => true
  | _ => false

/-- Records go into the free slot of a launch's ring, whose WIDX advances. -/
def rayPublish (s : State) (m : Team) (o : RayOp) (rs : List (List Byte)) : State :=
  let h := ryRing o.words
  let per := ringSize m o.side h / 32
  let off := ringBase m o.side h + ringWidx m o.side h % max 1 (ringCount m o.side h) * ringSize m o.side h
  ringAdvance (scratchWrite { s with freeIx := s.freeIx + 13 * per } o.team o.side off (slotBytes s.freeIx per rs) false) o.team o.side h 0

/-- The gaze of the head launch, read now or before, and what the read leaves behind. -/
theorem rayGaze_of_read {s : State} {cl core p : Nat} {o : RayOp} {rest : List RayOp} {gz : List Byte} (hq : (clusterOf s cl).rays = o :: rest)
    (tags : s.units.tags = []) (hr : rayRead s cl core p (dwordAt o.words 2) 8 = .ok gz) :
    ∃ cs, rayGaze s cl core p o = .ok (withClusters s cs, o.gaze.getD (clampGaze gz)) ∧ (clusterOf (withClusters s cs) cl).rays.tail = rest := by
  generalize looked : rayGaze s cl core p o = r
  unfold rayGaze at looked
  split at looked
  · rename_i g hg
    rw [hg]
    exact ⟨s.units.clusters, looked.symm, by rw [show clusterOf (withClusters s s.units.clusters) cl = clusterOf s cl from rfl, hq]; rfl⟩
  · rename_i hg
    extract_lets va u at looked
    have same : u = s := by
      dsimp only [u]
      split
      · exact promote_of_noTags tags _ _
      · rfl
    rw [same, show va = dwordAt o.words 2 from rfl, hr] at looked
    rw [hg]
    refine ⟨_, looked.symm, ?_⟩
    rw [clusterOf, withClusters, tgetD_tput_self, hq]
    rfl

/-- One step of the head launch, whose memory can be read and whose ring is valid and open. -/
theorem rayStep_of_records {s : State} {cl : Nat} {o : RayOp} {rest : List RayOp} {m : Team} {view mat gz : List Byte} {rs : List (List Byte)}
    {next : Nat} (hq : (clusterOf s cl).rays = o :: rest) (tags : s.units.tags = []) (hm : team? s o.team = some m) (hw : m.windows = [])
    (valid : ringValid m o.side (ryRing o.words) = true) (err : ringErr m o.side (ryRing o.words) = false)
    (eos : ringEos m o.side (ryRing o.words) = false)
    (hview : rayRead s cl (m.core + o.side) (teamPart s o.team) (dwordAt o.words 0) 128 = .ok view)
    (hmat : rayRead s cl (m.core + o.side) (teamPart s o.team) (dwordAt o.words 4) 64 = .ok mat)
    (hgz : rayRead s cl (m.core + o.side) (teamPart s o.team) (dwordAt o.words 2) 8 = .ok gz)
    (hrs : rayRecords s cl (m.core + o.side) (teamPart s o.team) o (wordsOf view) (wordsOf mat)
      ((o.gaze.getD (clampGaze gz)).1.toInt, (o.gaze.getD (clampGaze gz)).2.toInt) (ryIw o.words * ryJh o.words) o.next
      (ringSize m o.side (ryRing o.words) / 32) = .ok (rs, next)) :
    ∃ cs, (clusterOf (withClusters s cs) cl).rays.tail = rest ∧ rayStep s cl =
      if rs.isEmpty then rayDone (withClusters s cs) cl o
      else if ringCount m o.side (ryRing o.words) ≤ ringUsed m o.side (ryRing o.words) then withClusters s cs
      else if rayEnds s cl m o view mat (o.gaze.getD (clampGaze gz)) next then rayDone (rayPublish (withClusters s cs) m o rs) cl o
      else rayKeep (rayPublish (withClusters s cs) m o rs) cl next := by
  obtain ⟨cs, looked, left⟩ := rayGaze_of_read hq tags hgz
  have team : team? (withClusters s cs) o.team = some m := hm
  refine ⟨cs, left, ?_⟩
  unfold rayStep
  rw [hq]
  dsimp only
  rw [hm]
  dsimp only
  rw [looked]
  simp only [scratchBlock_of_noWindows hw, scratchReady_of_noWindows team hw, team, Option.getD_some, valid, err, eos, Bool.not_true, Bool.or_self,
    Bool.false_eq_true, if_false, ite_self, rayRead_withClusters, rayRecords_withClusters, hview, hmat, sint, hrs]
  rfl

end Sys2Proof.Machine
end

section
/-! What a step of a ray launch leaves in its team's scratchpad (R314, R315), and the obligation that rests on it. -/

namespace Sys2Proof.Machine

/-! ### Bytes that a scratchpad holds -/

/-- A side of a scratchpad holds some bytes. -/
def HoldsBytes (m : Team) (side off : Nat) (bs : List Byte) : Prop := ∀ i, i < bs.length → scratchGet m side (off + i) = bs.getD i 0

theorem holdsBytes_scratchPut (m : Team) (side off : Nat) (bs : List Byte) : HoldsBytes (scratchPut m side off bs) side off bs :=
  fun _ hi => scratchGet_scratchPut_self m side off bs hi

namespace HoldsBytes
variable {m : Team} {side off : Nat} {bs cs : List Byte}

/-- A store elsewhere leaves them. -/
theorem after (h : HoldsBytes m side off bs) {at_ : Nat} (outside : apart off bs.length at_ cs.length) (hb : off + bs.length ≤ 2 ^ 24)
    (hc : at_ + cs.length ≤ 2 ^ 24) : HoldsBytes (scratchPut m side at_ cs) side off bs := by
  intro i hi
  unfold apart at outside
  rw [scratchGet_scratchPut_apart m hc (by omega) (by omega), h i hi]

/-- The first of them. -/
theorem first (h : HoldsBytes m side off (bs ++ cs)) (n : Nat) : HoldsBytes m side off (bs.take n) := by
  intro i hi
  rw [List.length_take] at hi
  rw [h i (by rw [List.length_append]; omega), List.getD_append _ _ _ _ (by omega), List.getD_eq_getElem?_getD, List.getD_eq_getElem?_getD,
    List.getElem?_take_of_lt (by omega)]

theorem scratchIs (h : HoldsBytes m side off bs) {t : State} {k : Nat} (team : team? t k = some m) : ScratchIs t k side off bs := ⟨m, team, h⟩

end HoldsBytes

/-! ### A valid ring -/

/-- A valid ring, its header and its slots, lies in the allocation. -/
theorem bounds_of_ringValid {m : Team} {side h : Nat} (valid : ringValid m side h = true) :
    h + 64 ≤ m.scr ∧ 0 < ringCount m side h ∧ ringSize m side h % 128 = 0 ∧
      ringBase m side h + ringCount m side h * ringSize m side h ≤ m.scr := by
  simp only [ringValid, ringInside, powTwo, Bool.and_eq_true, decide_eq_true_eq] at valid
  omega

/-- The next free slot of a ring. -/
def ringSlot (m : Team) (side h : Nat) : Nat := ringBase m side h + ringWidx m side h % ringCount m side h * ringSize m side h

theorem ringSlot_inside {m : Team} {side h : Nat} (some : 0 < ringCount m side h) : ringBase m side h ≤ ringSlot m side h ∧
    ringSlot m side h + ringSize m side h ≤ ringBase m side h + ringCount m side h * ringSize m side h := by
  have below := Nat.mul_le_mul_right (ringSize m side h) (Nat.mod_lt (ringWidx m side h) some)
  rw [Nat.succ_mul] at below
  unfold ringSlot
  omega

/-! ### What the steps leave -/

/-- A team that goes on does so wherever the groups are the same. -/
theorem TeamSet.goesOn {s t : State} {k : Nat} {m n : Team} (h : TeamSet s t k m) (same : m.groups = n.groups) (goes : GoesOn s n) : GoesOn t m := by
  obtain ⟨g, hg, y, hy, live⟩ := goes
  exact ⟨g, same ▸ hg, y, by rw [group?, h.groups]; exact hy, live⟩

theorem teamSet_ringFlag {s : State} {k : Nat} {m : Team} (hk : team? s k = some m) (hw : m.windows = []) (side off f : Nat) :
    TeamSet s (ringFlag s k side off f) k (scratchPut m side (off + 20) (leBytes 4 (ringWord m side off 5 ||| f))) :=
  teamSet_ringChange hk hw side off 5 (fun v => v ||| f)

theorem rayDone_leaves {s : State} {cl : Nat} {o : RayOp} {m : Team} (hm : team? s o.team = some m) (hw : m.windows = []) (goes : GoesOn s m) :
    (clusterOf (rayDone s cl o) cl).rays = (clusterOf s cl).rays.tail ∧ team? (rayDone s cl o) o.team =
      some (scratchPut m o.side (ryRing o.words + 20) (leBytes 4 (ringWord m o.side (ryRing o.words) 5 ||| 1))) := by
  have flagged := teamSet_ringFlag hm hw o.side (ryRing o.words) 1
  unfold rayDone
  generalize ringFlag s o.team o.side (ryRing o.words) 1 = v at flagged ⊢
  have stays (c : Cluster) : tryEndTeam (setCluster v cl c) o.team = setCluster v cl c := tryEndTeam_of_goesOn fun x hx => by
    obtain rfl := Option.some.inj (flagged.team.symm.trans hx)
    exact .inr (flagged.goesOn rfl goes)
  rw [stays]
  exact ⟨by rw [clusterOf, setCluster, tgetD_tput_self], flagged.team⟩

theorem rayKeep_leaves (s : State) (cl next k : Nat) : team? (rayKeep s cl next) k = team? s k := rfl

/-- The team of a launch after the publication of a slot with some bytes. -/
def publishedTeam (m : Team) (side h : Nat) (bs : List Byte) : Team :=
  scratchPut (scratchPut m side (ringSlot m side h) bs) side h (leBytes 4 ((ringWidx (scratchPut m side (ringSlot m side h) bs) side h + 1) % 2 ^ 32))

theorem teamSet_rayPublish {s : State} {o : RayOp} {m : Team} (hm : team? s o.team = some m) (hw : m.windows = [])
    (some : 0 < ringCount m o.side (ryRing o.words)) (rs : List (List Byte)) : TeamSet s (rayPublish s m o rs) o.team
      (publishedTeam m o.side (ryRing o.words) (slotBytes s.freeIx (ringSize m o.side (ryRing o.words) / 32) rs)) := by
  let u : State := { s with freeIx := s.freeIx + 13 * (ringSize m o.side (ryRing o.words) / 32) }
  have written := teamSet_scratchStore (s := u) (k := o.team) (m := m) hm hw o.side (ringSlot m o.side (ryRing o.words))
    (slotBytes s.freeIx (ringSize m o.side (ryRing o.words) / 32) rs)
  have advanced := teamSet_ringChange written.team hw o.side (ryRing o.words) 0 (fun v => (v + 1) % 2 ^ 32)
  have moved : TeamSet s u o.team m := ⟨hm, rfl⟩
  unfold rayPublish
  dsimp only
  rw [show max 1 (ringCount m o.side (ryRing o.words)) = ringCount m o.side (ryRing o.words) by omega]
  exact moved.trans (written.trans advanced)

/-- A published slot holds the records, and WIDX has advanced. -/
theorem publishedTeam_holds {m : Team} {side h ix : Nat} {rs : List (List Byte)} (valid : ringValid m side h = true) (small : m.scr ≤ 786432)
    (fits : rs.length ≤ ringSize m side h / 32) (each : ∀ r ∈ rs, r.length = 32)
    (outside : apart h 64 (ringBase m side h) (ringCount m side h * ringSize m side h)) :
    let n := publishedTeam m side h (slotBytes ix (ringSize m side h / 32) rs)
    HoldsBytes n side (ringSlot m side h) (rs.flatten.take (ringSize m side h)) ∧
      HoldsBytes n side h (leBytes 4 ((ringWidx m side h + 1) % 2 ^ 32)) := by
  obtain ⟨header, some, whole, slots⟩ := bounds_of_ringValid valid
  obtain ⟨low, high⟩ := ringSlot_inside some
  have size : (slotBytes ix (ringSize m side h / 32) rs).length = ringSize m side h := by
    rw [slotBytes_length ix fits each]
    omega
  unfold apart at outside
  have widx : ringWidx (scratchPut m side (ringSlot m side h) (slotBytes ix (ringSize m side h / 32) rs)) side h = ringWidx m side h :=
    ringWord_scratchPut_apart m (by omega) (by omega) (by omega)
  unfold publishedTeam
  rw [widx]
  have records := (holdsBytes_scratchPut m side (ringSlot m side h) (slotBytes ix (ringSize m side h / 32) rs)).after (at_ := h)
    (cs := leBytes 4 ((ringWidx m side h + 1) % 2 ^ 32)) (by rw [apart, leBytes_length]; omega) (by omega) (by rw [leBytes_length]; omega)
  exact ⟨records.first _, holdsBytes_scratchPut _ _ _ _⟩

/-- What a published slot and WIDX hold stays while the launch goes on, and when it ends its ring. -/
theorem scratchIs_published {s : State} {cl next : Nat} {o : RayOp} {m : Team} {rs : List (List Byte)} (hm : team? s o.team = some m)
    (hw : m.windows = []) (goes : GoesOn s m) (valid : ringValid m o.side (ryRing o.words) = true) (small : m.scr ≤ 786432)
    (fits : rs.length ≤ ringSize m o.side (ryRing o.words) / 32) (each : ∀ r ∈ rs, r.length = 32)
    (outside : apart (ryRing o.words) 64 (ringBase m o.side (ryRing o.words))
      (ringCount m o.side (ryRing o.words) * ringSize m o.side (ryRing o.words))) (last : Bool) :
    let t := if last then rayDone (rayPublish s m o rs) cl o else rayKeep (rayPublish s m o rs) cl next
    ScratchIs t o.team o.side (ringSlot m o.side (ryRing o.words)) (rs.flatten.take (ringSize m o.side (ryRing o.words))) ∧
      ScratchIs t o.team o.side (ryRing o.words) (leBytes 4 ((ringWidx m o.side (ryRing o.words) + 1) % 2 ^ 32)) := by
  obtain ⟨header, some, -, slots⟩ := bounds_of_ringValid valid
  obtain ⟨low, high⟩ := ringSlot_inside some
  have published := teamSet_rayPublish hm hw some rs
  obtain ⟨records, widx⟩ := publishedTeam_holds (ix := s.freeIx) valid small fits each outside
  generalize rayPublish s m o rs = v at published ⊢
  cases last with
  | false =>
    have team := (rayKeep_leaves v cl next o.team).trans published.team
    rw [if_neg Bool.false_ne_true]
    exact ⟨records.scratchIs team, widx.scratchIs team⟩
  | true =>
    rw [if_pos rfl]
    obtain ⟨-, team⟩ := rayDone_leaves (cl := cl) published.team hw (published.goesOn rfl goes)
    have short := List.length_take_le (ringSize m o.side (ryRing o.words)) rs.flatten
    unfold apart at outside
    exact ⟨(records.after (by rw [apart, leBytes_length]; omega) (by omega) (by rw [leBytes_length]; omega)).scratchIs team,
      (widx.after (by rw [apart, leBytes_length, leBytes_length]; omega) (by rw [leBytes_length]; omega)
        (by rw [leBytes_length]; omega)).scratchIs team⟩

end Sys2Proof.Machine
end

section
/-! The family of matrix engines, texture units and ray units. -/

open Sys2Proof Sys2Proof.Machine

/-- Settles O51: nothing keeps the engines from what they read, so that the head operation of a matrix or a texture queue goes and its results land
in the elements that await them, and the head launch of a cluster writes its next records into the free slot of its ring, or ends its ring. -/
theorem matrixTextureAndRayOperationsComplete : Obligations.MatrixTextureAndRayOperationsComplete := by
  unfold Obligations.MatrixTextureAndRayOperationsComplete
  refine ⟨fun s core quad o rest x m hq hlen hx hlive hm hw full => ⟨_, rfl, matrixStep_lands hq hlen hx hlive hm hw full⟩,
    fun s core o rest x hq hx hlive once mapped => ⟨_, rfl, textureStep_lands hq hx hlive once mapped⟩, ?_⟩
  intro s cl o rest m view mat gz rs next core p h size gaze slot hq tags hm hw goes small valid err eos hview hmat hgz hrs
  obtain ⟨cs, left, step⟩ := rayStep_of_records hq tags hm hw valid err eos hview hmat hgz hrs
  have team : team? (withClusters s cs) o.team = some m := hm
  refine ⟨fun ended => ⟨rayStep s cl, rfl, ?_⟩, fun more room outside => ⟨rayStep s cl, rfl, ?_⟩⟩
  · rw [step, ended, List.isEmpty_nil, if_pos rfl]
    obtain ⟨queue, held⟩ := rayDone_leaves (cl := cl) team hw goes
    exact ⟨queue.trans left, (holdsBytes_scratchPut m o.side (h + 20) _).scratchIs held⟩
  · obtain ⟨fits, each⟩ := rayRecords_fit hrs
    rw [step, if_neg (by rwa [List.isEmpty_iff]), if_neg (Nat.not_le.mpr room)]
    exact scratchIs_published team hw goes valid small fits each outside _
end

section
/-! What memory never changes: whatever is accessed through the caches, a state stays as it was but for memory itself, the caches, the TLBs,
the partitions, the events, and each team's scratchpad and stash windows. Each operation on memory has this as an equation of `beyondMemory`,
because it writes no other field, or because it is put together from operations that have it. -/

namespace Sys2Proof.Machine

/-- A team without what accesses change: its scratchpad, its stash windows, and the flag of a failed writeback. -/
def Team.beyondMemory (x : Team) : Team := { x with scratch := [], bad := [], windows := [], stashErr := false }

/-- The registers of the partitions but for the counters 0x160 to 0x163, which accesses charge (R151). -/
def uncharged (s : State) (p n : Nat) : Word := if n / 4 = 0x58 then 0 else bankReg s p n

/-- A state without what accesses to memory change; its teams and its partitions' registers by their numbers. -/
def beyondMemory (s : State) : State × (Nat → Option Team) × (Nat → Nat → Word) :=
  ({ s with
      mem := [], memPoison := [], outside := Outside.reset, nextTag := 0, work := { s.work with teams := [] },
      units := { s.units with cores := [], dieTlb := [], parts := [], l2 := [], tags := [], tagReads := [], events := [] } },
    fun k => (team? s k).map Team.beyondMemory, uncharged s)

section
variable {s t : State} (h : beyondMemory t = beyondMemory s)
include h

/-- What does not look at memory, the caches, the partitions, the events or the teams is the same. -/
theorem field_of_beyondMemory {α : Type} (f : State → α) (hf : ∀ x, f (beyondMemory x).1 = f x) : f t = f s := by
  rw [← hf t, ← hf s, h]

theorem launch?_of_beyondMemory (k : Nat) : launch? t k = launch? s k := field_of_beyondMemory h (launch? · k) fun _ => rfl

theorem nextId_of_beyondMemory : t.work.nextId = s.work.nextId := field_of_beyondMemory h (·.work.nextId) fun _ => rfl

theorem clusterOf_of_beyondMemory (c : Nat) : clusterOf t c = clusterOf s c := field_of_beyondMemory h (clusterOf · c) fun _ => rfl

theorem group?_of_beyondMemory (g : Nat) : group? t g = group? s g := field_of_beyondMemory h (group? · g) fun _ => rfl

theorem team?_of_beyondMemory {k : Nat} {x : Team} (hx : team? s k = some x) : ∃ y, team? t k = some y ∧ y.beyondMemory = x.beyondMemory := by
  have same : (team? t k).map Team.beyondMemory = (team? s k).map Team.beyondMemory := congrFun (congrArg (·.2.1) h) k
  rw [hx] at same
  exact Option.map_eq_some_iff.mp same

theorem bankReg_of_beyondMemory (p : Nat) {n : Nat} (hn : n / 4 ≠ 0x58) : bankReg t p n = bankReg s p n := by
  have same : uncharged t p n = uncharged s p n := congrFun (congrFun (congrArg (·.2.2) h) p) n
  rwa [uncharged, uncharged, if_neg hn, if_neg hn] at same

end

theorem beyondMemory_foldl {α : Type} {f : State → α → State} (h : ∀ s a, beyondMemory (f s a) = beyondMemory s) (as : List α) (s : State) :
    beyondMemory (as.foldl f s) = beyondMemory s := by
  induction as generalizing s with
  | nil => rfl
  | cons a as ih => rw [List.foldl_cons, ih, h]

theorem beyondMemory_modTeam (s : State) (k : Nat) {f : Team → Team} (hf : ∀ x, (f x).beyondMemory = x.beyondMemory) :
    beyondMemory (modTeam s k f) = beyondMemory s := by
  have teams (j : Nat) : (team? (modTeam s k f) j).map Team.beyondMemory = (team? s j).map Team.beyondMemory := by
    rw [team?_modTeam]
    split
    · rename_i same
      rw [same, Option.map_map]
      exact congrArg (Option.map · (team? s k)) (funext hf)
    · rfl
  exact Prod.ext rfl (Prod.ext (funext teams) rfl)


@[simp] theorem beyondMemory_modCore (s : State) (c : Nat) (f : Core → Core) : beyondMemory (modCore s c f) = beyondMemory s := rfl

theorem beyondMemory_modPart (s : State) (p : Nat) (f : Part → Part) (hf : ∀ x, (f x).regs = x.regs := by intro _; rfl) :
    beyondMemory (modPart s p f) = beyondMemory s := by
  have regs (q n : Nat) : bankReg (modPart s p f) q n = bankReg s q n := by
    by_cases same : q = p
    · rw [same, bankReg, partOf_modPart_self, hf, bankReg]
    · simp only [bankReg, partOf, modPart_units_parts, tgetD_tput_ne _ _ _ same]
  have kept : uncharged (modPart s p f) = uncharged s := by
    funext q n
    rw [uncharged, regs, uncharged]
  exact Prod.ext rfl (Prod.ext rfl kept)

theorem beyondMemory_setBankReg (s : State) (p : Nat) {n : Nat} (v : Word) (hn : n / 4 = 0x58) :
    beyondMemory (setBankReg s p n v) = beyondMemory s := by
  have kept : uncharged (setBankReg s p n v) = uncharged s := by
    funext q m
    unfold uncharged
    split
    · rfl
    · rename_i hm
      exact bankReg_setBankReg_ne s p q v fun e => hm (e ▸ hn)
  exact Prod.ext rfl (Prod.ext rfl kept)

@[simp] theorem beyondMemory_raiseEvent (s : State) (r : List Byte) : beyondMemory (raiseEvent s r) = beyondMemory s := rfl

@[simp] theorem beyondMemory_storeSnoop (s : State) (pa : Nat) (bs : List Byte) : beyondMemory (storeSnoop s pa bs) = beyondMemory s := rfl

@[simp] theorem beyondMemory_poisonAt (s : State) (as : List Nat) : beyondMemory (poisonAt s as) = beyondMemory s := rfl

theorem beyondMemory_charge (s : State) (p : Nat) {lo : Nat} (n : Nat) (hl : lo / 4 = 0x58) (hh : (lo + 1) / 4 = 0x58) :
    beyondMemory (charge s p lo n) = beyondMemory s :=
  (beyondMemory_setBankReg _ p _ hh).trans (beyondMemory_setBankReg s p _ hl)

@[simp] theorem beyondMemory_dropTags (s : State) (f : RelTag → Bool) : beyondMemory (dropTags s f) = beyondMemory s := rfl

@[simp] theorem beyondMemory_stashLeave (s : State) (tm : Nat) (w : Window) (sec pa : Nat) (u : Bool) :
    beyondMemory (stashLeave s tm w sec pa u) = beyondMemory s :=
  beyondMemory_modTeam s tm fun _ => rfl

@[simp] theorem beyondMemory_stashFails (s : State) (tm va c : Nat) : beyondMemory (stashFails s tm va c) = beyondMemory s :=
  (beyondMemory_raiseEvent _ _).trans (beyondMemory_modTeam s tm (f := fun x => { x with stashErr := true }) fun _ => rfl)

@[simp] theorem beyondMemory_poolEvent (s : State) (p : Nat) : beyondMemory (poolEvent s p) = beyondMemory s := rfl

@[simp] theorem beyondMemory_addRead (s : State) (p : Nat) (r : PageRead) : beyondMemory (addRead s p r) = beyondMemory s :=
  beyondMemory_modPart { s with nextTag := r.id + 1 } p _

@[simp] theorem beyondMemory_mergeL1 (s : State) (c base : Nat) (m : BitVec 128) (d : List Byte) :
    beyondMemory (mergeL1 s c base m d) = beyondMemory s := rfl

@[simp] theorem beyondMemory_tlbFill (s : State) (c : Nat) (e : TlbEntry) : beyondMemory (tlbFill s c e) = beyondMemory s := rfl

@[simp] theorem beyondMemory_setD (s : State) (e : TlbEntry) : beyondMemory (setD s e) = beyondMemory s := rfl

@[simp] theorem beyondMemory_snoopRead (s : State) (line : Nat) : beyondMemory (snoopRead s line) = beyondMemory s := by
  unfold snoopRead
  split <;> rfl

@[simp] theorem beyondMemory_keepHomes (s : State) (home line : Nat) (hit : Nat → Bool) :
    beyondMemory (keepHomes s home line hit) = beyondMemory s := by
  unfold keepHomes
  split <;> rfl

/-! Bytes written at a home, and stores of the device itself. -/

@[simp] theorem beyondMemory_landL2 (s : State) (p : Nat) (g : Bool) (pa : Nat) (bs : List Byte) :
    beyondMemory (landL2 s p g pa bs) = beyondMemory s := by
  simp [landL2]

@[simp] theorem beyondMemory_landMask (s : State) (p : Nat) (g : Bool) (base : Nat) (m : BitVec 128) (d : List Byte) :
    beyondMemory (landMask s p g base m d) = beyondMemory s := by
  unfold landMask
  rw [beyondMemory_foldl fun s i => by split <;> simp, beyondMemory_keepHomes]

@[simp] theorem beyondMemory_ownBack (s : State) (l : L2Line) : beyondMemory (ownBack s l) = beyondMemory s := by
  unfold ownBack
  rw [beyondMemory_foldl fun _ _ => beyondMemory_storeSnoop _ _ _, beyondMemory_keepHomes]

@[simp] theorem beyondMemory_stashLand (s : State) (t : Team) (w : Window) (sec p : Nat) (g : Bool) (pa : Nat) :
    beyondMemory (stashLand s t w sec p g pa) = beyondMemory s := by
  simp [stashLand]

@[simp] theorem beyondMemory_recallOne (s : State) (h : Nat × Window × Nat) : beyondMemory (recallOne s h) = beyondMemory s := by
  unfold recallOne
  split
  · rfl
  · dsimp only
    split
    · simp
    · split
      · split <;> simp
      · simp
      · rfl

@[simp] theorem beyondMemory_storeDev (s : State) (pa : Nat) (bs : List Byte) : beyondMemory (storeDev s pa bs) = beyondMemory s := by
  unfold storeDev recallDev
  rw [beyondMemory_storeSnoop, beyondMemory_foldl fun s a => beyondMemory_foldl beyondMemory_recallOne _ s]

/-! What an access leaves behind in translation. -/

theorem beyondMemory_takeFrame {s t : State} {p f : Nat} (h : takeFrame s p = some (f, t)) : beyondMemory t = beyondMemory s := by
  unfold takeFrame at h
  split at h
  · cases h
  · obtain ⟨-, rfl⟩ := Prod.mk.inj (Option.some.inj h)
    exact beyondMemory_storeDev _ _ _

@[simp] theorem beyondMemory_startRead (s : State) (p va entry e : Nat) : beyondMemory (startRead s p va entry e) = beyondMemory s := by
  unfold startRead
  dsimp only
  split
  · rfl
  · split
    · split <;> simp
    · rename_i taken
      split <;> simp [beyondMemory_takeFrame taken]

@[simp] theorem beyondMemory_startCow (s : State) (p va entry e : Nat) : beyondMemory (startCow s p va entry e) = beyondMemory s := by
  unfold startCow
  split <;> simp

@[simp] theorem beyondMemory_noteAccess (s : State) (core p va : Nat) (a : Acc) : beyondMemory (noteAccess s core p va a) = beyondMemory s := by
  unfold noteAccess
  split
  · rfl
  · split
    · split <;> simp
    · simp
    · split <;> simp
    · rfl
    · rfl

/-! Writebacks, each over the access to a line's tag that it makes. -/

/-- An access to tags that changes only what accesses to memory change. -/
def TouchStaysInMemory (touch : Touch) : Prop := ∀ s p g w pa, beyondMemory (touch s p g w pa) = beyondMemory s

theorem beyondMemory_stashCleanOne {touch : Touch} (k : TouchStaysInMemory touch) (s : State) (tm side num sec : Nat) (u : Bool) :
    beyondMemory (stashCleanOne touch s tm side num sec u) = beyondMemory s := by
  unfold stashCleanOne
  split
  · rfl
  · split
    · rfl
    · split
      · simp
      · dsimp only
        split
        · simp [k _ _ _ _ _]
        · simp
        · simp
        · split <;> simp
        · rfl

theorem beyondMemory_cleanWith {touch : Touch} (k : TouchStaysInMemory touch) (s : State) (c : Nat) (x : L1Sector) :
    beyondMemory (cleanWith touch s c x) = beyondMemory s := by
  unfold cleanWith recallWith
  split
  · rfl
  · dsimp only
    rw [beyondMemory_modCore, beyondMemory_landMask, k, beyondMemory_foldl fun _ _ => beyondMemory_stashCleanOne k _ _ _ _ _ _]

theorem beyondMemory_writebackWith {touch : Touch} (k : TouchStaysInMemory touch) (s : State) (c : Nat) :
    beyondMemory (writebackWith touch s c) = beyondMemory s :=
  beyondMemory_foldl (fun _ _ => beyondMemory_cleanWith k _ _ _) _ s

theorem beyondMemory_evictWith {wb : State → Nat → State} (k : ∀ s c, beyondMemory (wb s c) = beyondMemory s) (s : State) (l : L2Line) :
    beyondMemory (evictWith wb s l) = beyondMemory s := by
  unfold evictWith
  extract_lets u
  have written : beyondMemory u = beyondMemory s := by
    dsimp only [u]
    split
    · rw [k, beyondMemory_dropTags]
    · rfl
  rw [← written]
  split
  · rfl
  · exact (beyondMemory_ownBack _ _).trans (beyondMemory_charge _ _ _ rfl rfl)

theorem touchStaysInMemory_touchWith {wb : State → Nat → State} (k : ∀ s c, beyondMemory (wb s c) = beyondMemory s) :
    TouchStaysInMemory (touchWith wb) := by
  intro s p g w pa
  unfold touchWith
  split
  · rfl
  · extract_lets line u sec home present sameSet room units u1 missing u2
    have filled : beyondMemory u1 = beyondMemory u := by
      dsimp only [u1]
      split
      · rfl
      · change beyondMemory room = beyondMemory u
        dsimp only [room]
        split
        · rfl
        · split
          · exact beyondMemory_evictWith k _ _
          · rfl
    have charged : beyondMemory u2 = beyondMemory u1 := by
      dsimp only [u2]
      split
      · exact beyondMemory_charge _ _ _ rfl rfl
      · rfl
    exact charged.trans (filled.trans (beyondMemory_snoopRead _ _))

theorem touchStaysInMemory_touchL2 : TouchStaysInMemory touchL2 := by
  have fuel (n : Nat) : TouchStaysInMemory (touchFuel n) := by
    induction n with
    | zero => exact touchStaysInMemory_touchWith fun _ _ => rfl
    | succ n ih => exact touchStaysInMemory_touchWith fun s c => beyondMemory_writebackWith ih s c
  exact fun s => fuel s.units.tags.length s

@[simp] theorem beyondMemory_touchL2 (s : State) (p : Nat) (g write : Bool) (pa : Nat) : beyondMemory (touchL2 s p g write pa) = beyondMemory s :=
  touchStaysInMemory_touchL2 s p g write pa

@[simp] theorem beyondMemory_writebackL1 (s : State) (c : Nat) : beyondMemory (writebackL1 s c) = beyondMemory s :=
  beyondMemory_writebackWith touchStaysInMemory_touchL2 s c

@[simp] theorem beyondMemory_recallStash (s : State) (pa : Nat) : beyondMemory (recallStash s pa) = beyondMemory s :=
  beyondMemory_foldl (fun _ _ => beyondMemory_stashCleanOne touchStaysInMemory_touchL2 _ _ _ _ _ _) _ s

@[simp] theorem beyondMemory_promote (s : State) (team : Option Nat) (line : Nat) : beyondMemory (promote s team line) = beyondMemory s := by
  unfold promote
  split
  · split <;> simp [clearTag]
  · rfl

@[simp] theorem beyondMemory_shareStore (s : State) (pa : Nat) (bs : List Byte) : beyondMemory (shareStore s pa bs) = beyondMemory s := by
  refine beyondMemory_foldl (fun s h => ?_) _ s
  dsimp only
  split
  · split
    · exact beyondMemory_modTeam _ _ fun _ => rfl
    · rfl
  · rfl

@[simp] theorem beyondMemory_writeL2 (s : State) (p : Nat) (g : Bool) (pa : Nat) (bs : List Byte) :
    beyondMemory (writeL2 s p g pa bs) = beyondMemory s := by
  simp [writeL2]

@[simp] theorem beyondMemory_freshL1 (s : State) (c : Nat) (pair : Bool) : beyondMemory (freshL1 s c pair) = beyondMemory s := by
  unfold freshL1
  split <;> simp [invalidateL1]

/-! The dispatcher's own accesses. -/

@[simp] theorem beyondMemory_devPromote (s : State) (p va : Nat) : beyondMemory (devPromote s p va) = beyondMemory s := by
  unfold devPromote
  split <;> simp

@[simp] theorem beyondMemory_ownWait (s : State) (p va : Nat) (a : Acc) : beyondMemory (ownWait s p va a) = beyondMemory s := by
  unfold ownWait spanWait
  extract_lets join
  have joined (entry : Nat) (u : State) : beyondMemory (join entry u) = beyondMemory u := beyondMemory_modPart u p _
  split
  · rw [joined, beyondMemory_noteAccess]
  · rw [joined, beyondMemory_noteAccess]
  · exact beyondMemory_noteAccess _ _ _ _ _

@[simp] theorem beyondMemory_putDesc (s : State) (p : Nat) (at? : Option Nat) (off v : Nat) :
    beyondMemory (putDesc s p at? off v) = beyondMemory s := by
  have put (va n v : Nat) : beyondMemory (devPut s p va n v) = beyondMemory s := by
    unfold devPut devWrite
    split <;> simp
  unfold putDesc
  split
  · exact put _ _ _
  · rfl

@[simp] theorem beyondMemory_noteDesc (s : State) (p : Nat) (raster : Bool) (q : Nat) : beyondMemory (noteDesc s p raster q) = beyondMemory s := by
  unfold noteDesc
  extract_lets k u
  have promoted : beyondMemory u = beyondMemory s := by
    dsimp only [u]
    split <;> simp
  rw [← promoted]
  split
  · split
    · rfl
    · exact (beyondMemory_raiseEvent _ _).trans ((beyondMemory_modPart _ p _).trans (beyondMemory_modPart u p _))
  · exact beyondMemory_ownWait _ _ _ _
  · rfl

/-- The dispatcher's look at the queues is accesses to memory, changes of partitions and events. -/
@[simp] theorem beyondMemory_refreshQueues (s : State) : beyondMemory (refreshQueues s) = beyondMemory s :=
  (beyondMemory_foldl (fun u p => beyondMemory_modPart u p _) _ _).trans
    (beyondMemory_foldl (fun u p => beyondMemory_foldl (fun _ _ => beyondMemory_noteDesc _ _ _ _) _ u) _ s)

end Sys2Proof.Machine
end

section
/-! Enqueues and completions (R241 to R243, R248) while no cache is ahead of memory: what the device's own reads and writes do then. -/

namespace Sys2Proof.Machine

/-! ### The device's own accesses -/

/-- No releaser tag, no stash window and no home of a line holds what memory does not. -/
structure L2Plain (s : State) : Prop where
  tags : s.units.tags = []
  lists : NoWindows s
  homes : ∀ y ∈ s.units.l2, y.own = []

theorem Quiet.l2Plain {s : State} (h : Quiet s) : L2Plain s := ⟨h.tags, h.lists, h.homes⟩

/-- A home without bytes of its own gives the bytes of memory, whatever other homes hold. -/
theorem l2Read_of_homeUnowned {s : State} {p : Nat} {g : Bool} {pa : Nat}
    (h : ∀ y ∈ s.units.l2, y.line = pa / 256 → y.slice = homeSlice s p g (pa / 256) → y.own = []) (n : Nat) :
    l2Read s p g pa n = readMem s pa n := by
  unfold l2Read
  split
  · rename_i x hx
    have found := List.find?_some hx
    simp only [Bool.and_eq_true, decide_eq_true_eq] at found
    obtain ⟨⟨line, owned⟩, home⟩ := found
    rw [h x (List.mem_of_find?_eq_some hx) line home] at owned
    cases owned
  · rfl

/-- A write leaves its own home, and the homes of other lines, without bytes of their own. -/
theorem own_keepHomes {s : State} (own : ∀ y ∈ s.units.l2, y.own = []) (home line : Nat) (hit : Nat → Bool) :
    ∀ y ∈ (keepHomes s home line hit).units.l2, y.line ≠ line ∨ y.slice = home → y.own = [] := by
  unfold keepHomes
  split
  · intro y hy free
    obtain ⟨x, hx, rfl⟩ := List.mem_map.mp hy
    split
    · exact own x hx
    · rename_i hline
      split
      · simp [own x hx]
      · rename_i away
        rw [if_neg hline, if_neg away] at free
        exact absurd free (by simpa using ⟨not_not.mp hline, away⟩)
  · exact fun y hy _ => own y hy

theorem Mapped.first {s : State} {core p va n pa : Nat} {as : List Acc} (h : Mapped s core p va n pa as) (pos : 0 < n) {a : Acc} (ha : a ∈ as) :
    ∃ e, tlbHit s core p va a = some e ∧ reach s va e = .ok pa e.g := by
  simpa using h 0 pos a ha

namespace L2Plain
variable {s : State} (h : L2Plain s)
include h

theorem of_beyondL2 {t : State} (k : SameBeyondL2 s t) (homes : ∀ y ∈ t.units.l2, y.own = []) : L2Plain t :=
  ⟨k.tags.trans h.tags, by rw [NoWindows, k.work]; exact h.lists, homes⟩

theorem recallStash_eq (pa : Nat) : recallStash s pa = s := by
  rw [recallStash, recallWith, stashHolders_of_noWindows h.lists]
  rfl

theorem writeL2_eq (p : Nat) (g : Bool) (pa : Nat) (bs : List Byte) : writeL2 s p g pa bs = landL2 (touchL2 s p g true pa) p g pa bs := by
  have landed := (charged_touchL2 h.tags p g true pa).trans (charged_landL2 _ p g pa bs)
  rw [writeL2, h.recallStash_eq, shareStore, stashHolders_of_noWindows]
  · rfl
  · rw [NoWindows, landed.beyond.work]
    exact h.lists

/-- A write at the L2 stores its bytes in memory and charges a partition; of the homes of its line only others than its own keep bytes. -/
theorem writeL2_stores (p : Nat) (g : Bool) (pa : Nat) (bs : List Byte) :
    Charged s (writeL2 s p g pa bs) ∧ (writeL2 s p g pa bs).mem = (storeSnoop s pa bs).mem ∧
      ∀ y ∈ (writeL2 s p g pa bs).units.l2, y.line ≠ pa / 256 ∨ y.slice = homeSlice s p g (pa / 256) → y.own = [] := by
  have charged := charged_touchL2 h.tags p g true pa
  have unowned := unowned_touchL2 h.tags h.homes p g true pa
  rw [h.writeL2_eq]
  refine ⟨charged.trans (charged_landL2 _ p g pa bs), ?_, ?_⟩
  · have kept : (landL2 (touchL2 s p g true pa) p g pa bs).mem = memPuts (touchL2 s p g true pa).mem pa bs := by
      unfold landL2 keepHomes
      split <;> rfl
    rw [kept, unowned.mem]
    rfl
  · rw [← charged.homeSlice]
    exact own_keepHomes unowned.own _ _ _

/-- The writer reads at its home what memory holds after its write. -/
theorem l2Read_writeL2 (p : Nat) (g : Bool) (pa : Nat) (bs : List Byte) (pb n : Nat) :
    l2Read (writeL2 s p g pa bs) p g pb n = readMem (storeSnoop s pa bs) pb n := by
  obtain ⟨charged, mem, own⟩ := h.writeL2_stores p g pa bs
  rw [l2Read_of_homeUnowned fun y hy line home => own y hy ?_, readMem_congr mem]
  rw [charged.homeSlice] at home
  by_cases same : y.line = pa / 256
  · exact .inr (by rw [home, ← line, same])
  · exact .inl same

/-- Where the line has one home, no home keeps bytes of its own. -/
theorem writeL2_oneHome {p : Nat} {g : Bool} {pa : Nat} (held : HeldAt (homeSlice s p g (pa / 256)) (pa / 256) s) (bs : List Byte) :
    L2Plain (writeL2 s p g pa bs) := by
  obtain ⟨charged, -, own⟩ := h.writeL2_stores p g pa bs
  refine h.of_beyondL2 charged.beyond fun y hy => own y hy ?_
  by_cases line : y.line = pa / 256
  · rw [h.writeL2_eq] at hy
    have home : HeldAt (homeSlice s p g (pa / 256)) (pa / 256) (landL2 (touchL2 s p g true pa) p g pa bs) :=
      (heldAt_keepHomes (heldAt_touchL2 held h.tags true) _ _ _).of_l2 rfl
    exact .inr (home y hy line)
  · exact .inl line

/-- The device reads what memory holds where its die's TLB answers. -/
theorem ownRead_of_mapped {p va n pa : Nat} {as : List Acc} (mapped : Mapped s 0 p va n pa as) (pos : 0 < n) {a : Acc} (ha : a ∈ as) :
    ownRead s p va n a = .ok (readMem s pa n) := by
  obtain ⟨e, hit, hr⟩ := mapped.first pos ha
  unfold ownRead devRead
  rw [translate_of_tlbHit hit, hr]
  exact congrArg DevRead.ok (l2Read_of_unowned h.homes p e.g pa n)

end L2Plain

theorem SameBeyondL2.mapped {s t : State} (h : SameBeyondL2 s t) {core p va n pa : Nat} {as : List Acc} (k : Mapped s core p va n pa as) :
    Mapped t core p va n pa as := by
  unfold Mapped tlbHit at *
  simpa only [h.coreOf, h.dieTlb, h.reach] using k

/-- A write of the device that a TLB answers is a write at the home of its line. -/
theorem devWrite_of_mapped {s : State} {p va n pa : Nat} {as : List Acc} (mapped : Mapped s 0 p va n pa as) {i : Nat} (hi : i < n)
    (ha : .w ∈ as) (bs : List Byte) : ∃ g, devWrite s p (va + i) bs = some (writeL2 s p g (pa + i) bs) := by
  obtain ⟨e, hit, hr⟩ := mapped i hi .w ha
  refine ⟨e.g, ?_⟩
  unfold devWrite
  rw [translate_of_tlbHit hit, hr, noteAccess_of_tlbHit hit]

theorem OneHomeSpan.heldAt {s : State} {p pa n b : Nat} (span : OneHomeSpan s p pa n) (low : pa ≤ b) (high : b < pa + n) (g : Bool) :
    HeldAt (homeSlice s p g (b / 256)) (b / 256) s := by
  obtain ⟨homes, held⟩ := span b low high
  rw [homes g]
  exact held

end Sys2Proof.Machine
end

section
/-! LAUNCH_COMPLETION (R248): the decrement of a launch's counter by the device, and the launch's end. -/

namespace Sys2Proof.Machine

/-- The enqueue that the device starts for the record with some words. -/
def deviceEnqueueOf (p : Nat) (words : List Word) : EnqOp :=
  { part := p, group := none, grip := none, mgmt := none, words := words, slot := none, written := false, failed := false }

/-- The device has decremented a counter of partition `p` at `pa`, and from 1 it enqueues the record behind it. -/
structure CountedDown (s t : State) (p pa : Nat) : Prop where
  work : t.work = s.work
  counter : readNum t pa 4 = (readNum s pa 4 + 2 ^ 32 - 1) % 2 ^ 32
  mem : ∀ b, ¬ (pa ≤ b ∧ b < pa + 4) → memGet t.mem b = memGet s.mem b
  enqs : (partOf t p).enqs =
    (partOf s p).enqs ++ (if readNum s pa 4 = 1 then [deviceEnqueueOf p (wordsOf (readMem s (pa + 64) 64))] else [])

/-- What the write of the decreased number leaves of memory. -/
theorem countedDown_of_mem {s t : State} (wf : Memory.wf s.mem = true) {p pa : Nat} (work : t.work = s.work)
    (mem : t.mem = (storeSnoop s pa (leBytes 4 ((readNum s pa 4 + 2 ^ 32 - 1) % 2 ^ 32))).mem)
    (enqs : (partOf t p).enqs =
      (partOf s p).enqs ++ (if readNum s pa 4 = 1 then [deviceEnqueueOf p (wordsOf (readMem s (pa + 64) 64))] else [])) :
    CountedDown s t p pa := by
  refine ⟨work, ?_, fun b hb => ?_, enqs⟩
  · rw [readNum_congr mem, readNum, readMem_storeSnoop_num s pa 4 _ wf, leNat_leBytes]
    omega
  · rw [mem, memGet_storeSnoop s pa b _ wf, memWith, leBytes_length, if_neg hb]

theorem L2Plain.deviceSucc_of_mapped {s : State} (h : L2Plain s) (wf : Memory.wf s.mem = true) {p va pa : Nat} (hv : va < 2 ^ 56)
    (aligned : va % 128 = 0) (mapped : Mapped s 0 p va 1 pa [.rw]) : ∃ t, deviceSucc s p va = some (t, false) ∧ CountedDown s t p pa := by
  obtain ⟨e, hit, hr⟩ := mapped.first Nat.one_pos (List.mem_singleton.mpr rfl)
  have old : l2Num s p e.g pa 4 = readNum s pa 4 := congrArg leNat (l2Read_of_unowned h.homes p e.g pa 4)
  have record := h.l2Read_writeL2 p e.g pa (leBytes 4 ((readNum s pa 4 + 2 ^ 32 - 1) % 2 ^ 32)) (pa + 64) 64
  rw [readMem_storeSnoop_num_apart s pa 4 _ _ _ wf (by unfold apart; omega)] at record
  obtain ⟨charged, mem, -⟩ := h.writeL2_stores p e.g pa (leBytes 4 ((readNum s pa 4 + 2 ^ 32 - 1) % 2 ^ 32))
  have fields : (decide (2 ^ 56 ≤ va) || decide (va % 128 ≠ 0)) = false := by
    rw [decide_eq_false (Nat.not_le.mpr hv), decide_eq_false (not_not.mpr aligned), Bool.or_self]
  unfold deviceSucc
  rw [fields, translate_of_tlbHit hit, hr]
  simp only [Bool.false_eq_true, if_false, noteAccess_of_tlbHit hit, promote_of_noTags h.tags, h.recallStash_eq, old]
  rw [record]
  generalize writeL2 s p e.g pa _ = v at charged mem ⊢
  split
  · rename_i one
    refine ⟨_, rfl, countedDown_of_mem wf charged.beyond.work mem ?_⟩
    rw [partOf_modPart_self, if_pos one, charged.enqs]
    rfl
  · rename_i more
    exact ⟨_, rfl, countedDown_of_mem wf charged.beyond.work mem (by rw [if_neg more, List.append_nil, charged.enqs])⟩

theorem beyondMemory_performWrites (s : State) : beyondMemory (performWrites s) = beyondMemory s :=
  beyondMemory_foldl (fun u _ => beyondMemory_writebackL1 u _) _ s

/-- Clean L1s have nothing to write back. -/
theorem Quiet.performWrites_eq {s : State} (h : Quiet s) : performWrites s = s := List.foldl_fixed' (fun e => h.writebackL1_eq e.1) _

/-- A launch of a task queue whose teams have all ended, none of them killed. -/
structure LaunchEnds (s : State) (lid : Nat) (l : Launch) : Prop where
  launch : launch? s lid = some l
  live : l.complete = false
  ended : launchOver l = true
  queued : isQueued l.src = true

theorem launch?_modLaunch_self {s : State} {lid : Nat} {l : Launch} (h : launch? s lid = some l) (f : Launch → Launch) :
    launch? (modLaunch s lid f) lid = some (f l) := by
  rw [launch?, modLaunch_work_launches, tget?_tmod, if_pos rfl]
  exact congrArg (Option.map f) h

namespace LaunchEnds
variable {s : State} {lid : Nat} {l : Launch} (h : LaunchEnds s lid l)
include h

theorem passes_checks : (l.complete || !launchOver l || !isQueued l.src) = false := by
  rw [h.live, h.ended, h.queued]
  rfl

theorem completeLaunch_plain (plain : trSucc l.words = 0) : launch? (completeLaunch s lid) lid = some { l with complete := true } := by
  unfold completeLaunch
  simp only [h.launch, h.passes_checks, Bool.false_eq_true, if_false, if_pos plain]
  exact launch?_modLaunch_self ((launch?_of_beyondMemory (beyondMemory_performWrites s) lid).trans h.launch) fun l => { l with complete := true }

theorem completeLaunch_counts (calm : Calm s) (counted : trSucc l.words ≠ 0) {t : State}
    (succ : deviceSucc s l.part (trSucc l.words) = some (t, false)) :
    completeLaunch s lid = modLaunch t lid fun l => { l with complete := true } := by
  unfold completeLaunch
  simp only [h.launch, h.passes_checks, Bool.false_eq_true, if_false, if_neg counted, calm.quiet.performWrites_eq, succ]

end LaunchEnds

end Sys2Proof.Machine
end

section
/-! DEVICE_ENQUEUE (R241): an enqueue with a slot writes its record there and publishes it, while no cache is ahead of memory. -/

namespace Sys2Proof.Machine

/-- The table of descriptors stays where it is. -/
theorem descAddr_of_beyondMemory {s t : State} (h : beyondMemory t = beyondMemory s) (p : Nat) (raster : Bool) (q : Nat) :
    descAddr t p raster q = descAddr s p raster q := by
  have pair (lo hi : Nat) (hl : lo / 4 ≠ 0x58) (hh : hi / 4 ≠ 0x58) : bankPair t p lo hi = bankPair s p lo hi := by
    rw [bankPair, bankReg_of_beyondMemory h p hl, bankReg_of_beyondMemory h p hh, bankPair]
  unfold descAddr
  rw [pair 0x1A0 0x1A1 (by decide) (by decide), pair 0x180 0x181 (by decide) (by decide)]

/-- A descriptor of the table of task queues, at `pa`, that the device can read and write there. -/
structure DescAt (s : State) (n q va pa : Nat) (d : QDesc) : Prop where
  addr : descAddr s n false q = some va
  mapped : Mapped s 0 n va 64 pa [.rw, .w]
  desc : parseDesc false (readMem s pa 64) = d

theorem DescAt.readDesc_eq {s : State} {n q va pa : Nat} {d : QDesc} (hd : DescAt s n q va pa d) (h : L2Plain s) :
    readDesc s n false q = .ok d := by
  rw [readDesc, hd.addr, descAt, h.ownRead_of_mapped hd.mapped (by omega) List.mem_cons_self, ← hd.desc]

/-- An enqueue of partition `n` that has slot `k`, with the descriptor of its queue (R241). -/
structure HasSlot (s : State) (n : Nat) (e : EnqOp) (k va pa : Nat) (d : QDesc) : Prop where
  plain : L2Plain s
  part : e.part = n
  slot : e.slot = some k
  class_le : trClass e.words ≤ 15
  desc : DescAt s n (trClass e.words) va pa d

namespace HasSlot
variable {s : State} {n k va pa : Nat} {e : EnqOp} {d : QDesc} (h : HasSlot s n e k va pa d)
include h

/-- An enqueue with a slot writes its record once its queue has room. -/
theorem enqNext_write {pb : Nat} (unwritten : e.written = false) (going : e.failed = false) (room : (k + 2 ^ 32 - d.head) % 2 ^ 32 < d.cap)
    (mapped : Mapped s 0 n (slotAddr d k) 64 pb [.w]) : enqNext s e = .write k d := by
  obtain ⟨x, hit, hr⟩ := mapped.first (by omega) List.mem_cons_self
  have free : (e.failed || decide (d.cap ≤ (k + 2 ^ 32 - d.head) % 2 ^ 32)) = false := by
    rw [going, decide_eq_false (Nat.not_le.mpr room), Bool.or_self]
  unfold enqNext
  simp only [Nat.not_lt.mpr h.class_le, if_false, h.part, h.slot, h.desc.readDesc_eq h.plain, unwritten, free, Bool.false_eq_true,
    translate_of_tlbHit hit, hr]

/-- A record in its slot is published once the earlier ones are. -/
theorem enqNext_publish (written : e.written = true) (next : d.tail = k) : enqNext s e = .publish k := by
  unfold enqNext
  simp only [Nat.not_lt.mpr h.class_le, if_false, h.part, h.slot, h.desc.readDesc_eq h.plain, written, if_true, next]

/-- The oldest enqueue goes on when its record can be written. -/
theorem enqReady_write {es : List EnqOp} (first : (partOf s n).enqs = e :: es) (goes : enqNext s e = .write k d) :
    enqReady s n = some (0, e, .write k d) := by
  have ahead : enqBehind (e :: es) 0 = false := by simp [enqBehind, h.slot]
  unfold enqReady
  rw [first]
  dsimp only
  rw [List.length_cons, List.range_succ_eq_map, List.findSome?_cons]
  simp only [ahead, Bool.false_eq_true, if_false, List.getElem?_cons_zero, Option.bind_some, goes]

/-- The step of a partition whose oldest enqueue can write its record. -/
theorem enqueueStep_writes {es : List EnqOp} (ready : s.units.ready.getLsbD 4 = true) (first : (partOf s n).enqs = e :: es)
    (goes : enqNext s e = .write k d) : enqueueStep s n = writeRecord s n 0 k d e := by
  unfold enqueueStep
  rw [ready, h.enqReady_write first goes]
  rfl

/-- A publication writes TAIL, and its enqueue is over. -/
theorem publishRecord_spec {es : List EnqOp} (first : (partOf s n).enqs = e :: es) :
    (partOf (publishRecord s n 0 k e) n).enqs = es ∧
      (publishRecord s n 0 k e).mem = (storeSnoop s (pa + 4) (leBytes 4 ((k + 1) % 2 ^ 32))).mem := by
  obtain ⟨g, put⟩ := devWrite_of_mapped h.desc.mapped (i := 4) (by omega) (List.mem_cons_of_mem _ List.mem_cons_self)
    (leBytes 4 ((k + 1) % 2 ^ 32))
  obtain ⟨charged, mem, -⟩ := h.plain.writeL2_stores n g (pa + 4) (leBytes 4 ((k + 1) % 2 ^ 32))
  unfold publishRecord
  rw [h.desc.addr]
  dsimp only [putDesc]
  rw [devPut, put, Option.getD_some]
  refine ⟨?_, mem⟩
  rw [partOf_modPart_self, charged.enqs, first]
  rfl

end HasSlot

/-- Where neither the registers nor the descriptor has changed, an enqueue still has its slot. -/
theorem HasSlot.transfer {s t : State} {n k va pa : Nat} {e f : EnqOp} {d : QDesc} (h : HasSlot s n e k va pa d) (plain : L2Plain t)
    (beyond : SameBeyondL2 s t) (regs : beyondMemory t = beyondMemory s) (mem : readMem t pa 64 = readMem s pa 64)
    (part : f.part = e.part) (slot : f.slot = e.slot) (words : f.words = e.words) : HasSlot t n f k va pa d := by
  refine ⟨plain, part.trans h.part, slot.trans h.slot, words ▸ h.class_le, ?_, beyond.mapped h.desc.mapped, ?_⟩
  · rw [descAddr_of_beyondMemory regs, words]
    exact h.desc.addr
  · rw [mem]
    exact h.desc.desc

theorem L2Plain.modPart {s : State} (h : L2Plain s) (p : Nat) (f : Part → Part) : L2Plain (modPart s p f) := ⟨h.tags, h.lists, h.homes⟩

/-- A record is written, and published when it is the next one. -/
theorem HasSlot.writeRecord_spec {s : State} {n k va pa pb : Nat} {e : EnqOp} {es : List EnqOp} {d : QDesc} (h : HasSlot s n e k va pa d)
    (wf : Memory.wf s.mem = true) (first : (partOf s n).enqs = e :: es) (size : (bytesOf e.words).length = 64) (next : d.tail = k)
    (mapped : Mapped s 0 n (slotAddr d k) 64 pb [.w]) (clear : apart pa 64 pb 64) (span : OneHomeSpan s n pb 64) :
    (partOf (writeRecord s n 0 k d e) n).enqs = es ∧
      memGet (writeRecord s n 0 k d e).mem = memWith (memWith (memGet s.mem) pb (bytesOf e.words)) (pa + 4) (leBytes 4 ((k + 1) % 2 ^ 32)) := by
  obtain ⟨g, put⟩ := devWrite_of_mapped mapped (i := 0) (by omega) List.mem_cons_self (bytesOf e.words)
  rw [Nat.add_zero, Nat.add_zero] at put
  obtain ⟨charged, mem, -⟩ := h.plain.writeL2_stores n g pb (bytesOf e.words)
  have plain := h.plain.writeL2_oneHome (span.heldAt (Nat.le_refl pb) (by omega) g) (bytesOf e.words)
  have regs := beyondMemory_writeL2 s n g pb (bytesOf e.words)
  unfold writeRecord
  simp only [put, Option.getD_some]
  generalize writeL2 s n g pb (bytesOf e.words) = v at charged mem plain regs ⊢
  have kept : readMem v pa 64 = readMem s pa 64 := (readMem_congr mem pa 64).trans
    (readMem_storeSnoop_apart s pb pa 64 _ wf (by unfold apart at *; omega))
  have slot := h.transfer (f := { e with written := true })
    (plain.modPart n fun x => { x with enqs := x.enqs.set 0 { e with written := true } }) (charged.beyond.trans rfl)
    ((beyondMemory_modPart v n _).trans regs) kept rfl rfl rfl
  have enqs : (partOf (modPart v n fun x => { x with enqs := x.enqs.set 0 { e with written := true } }) n).enqs =
      { e with written := true } :: es := by
    rw [partOf_modPart_self, charged.enqs, first]
    rfl
  have stored := (modPart_mem v n fun x => { x with enqs := x.enqs.set 0 { e with written := true } }).trans mem
  generalize modPart v n _ = u at slot enqs stored ⊢
  rw [slot.enqNext_publish rfl next]
  obtain ⟨gone, published⟩ := slot.publishRecord_spec enqs
  refine ⟨gone, funext fun b => ?_⟩
  rw [published, memGet_storeSnoop u _ _ _ (stored ▸ storeMem_wf s pb _ wf), stored]
  congr 1
  exact funext fun c => memGet_storeSnoop s pb c _ wf

end Sys2Proof.Machine
end

section
/-! The start of a team (R236, R237): its groups in their seats, with their slices at the kernel and the registers that the record gives. -/

namespace Sys2Proof.Machine

/-! ### The registers of a record -/

theorem tget?_append {α : Type} (t u : Tab α) (k : Nat) : tget? (t ++ u) k = (tget? t k).or (tget? u k) := by
  induction t with
  | nil => rfl
  | cons e t ih =>
    simp only [List.cons_append, tget?]
    split
    · rfl
    · exact ih

theorem tget?_eq_none {α : Type} {t : Tab α} {k : Nat} (h : k ∉ t.map (·.1)) : tget? t k = none := by
  induction t with
  | nil => rfl
  | cons e t ih =>
    rw [List.map_cons, List.mem_cons, not_or] at h
    rw [tget?, if_neg (Ne.symm h.1), ih h.2]

/-- Words of 0 need not be listed where 0 is read for what is not. -/
theorem tgetD_filter_ne_zero {t : Tab Word} (h : (t.map (·.1)).Nodup) (k : Nat) : tgetD (t.filter (fun e => e.2 ≠ 0)) k 0 = tgetD t k 0 := by
  induction t with
  | nil => rfl
  | cons e t ih =>
    obtain ⟨fresh, rest⟩ := List.nodup_cons.mp h
    have tail := ih rest
    unfold tgetD at *
    by_cases zero : e.2 = 0
    · rw [List.filter_cons_of_neg (by simpa using zero), tail, tget?]
      split
      · rename_i same
        rw [tget?_eq_none (same ▸ fresh), zero]
        rfl
      · rfl
    · rw [List.filter_cons_of_pos (by simpa using zero), tget?, tget?]
      split
      · rfl
      · exact tail

/-- The elements of one register in the lanes of a group. -/
theorem tget?_lanes {α : Type} (x : α) {width i : Nat} (q r : Nat) (hi : i < width) (hw : width ≤ 64) :
    tget? ((List.range width).map (fun l => (64 * q + l, x))) (64 * r + i) = if q = r then some x else none := by
  split
  · rename_i same
    subst same
    have found (ls : List Nat) (hm : i ∈ ls) : tget? (ls.map (fun l => (64 * q + l, x))) (64 * q + i) = some x := by
      induction ls with
      | nil => cases hm
      | cons l ls ih =>
        rw [List.map_cons, tget?]
        split
        · rfl
        · rename_i other
          exact ih ((List.mem_cons.mp hm).resolve_left fun e => other (by rw [e]))
    exact found _ (List.mem_range.mpr hi)
  · rename_i other
    refine tget?_eq_none fun hm => ?_
    simp only [List.map_map, List.mem_map, List.mem_range, Function.comp_apply] at hm
    obtain ⟨l, hl, same⟩ := hm
    omega

theorem tget?_startRegs (ws : List (Nat × Word)) {width i : Nat} (r : Nat) (hi : i < width) (hw : width ≤ 64) :
    tget? (ws.flatMap (fun e => (List.range width).map (fun l => (64 * e.1 + l, Elem.full e.2 false)))) (64 * r + i) =
      (tget? ws r).map (Elem.full · false) := by
  induction ws with
  | nil => rfl
  | cons e ws ih =>
    rw [List.flatMap_cons, tget?_append, tget?_lanes _ _ _ hi hw, ih, tget?]
    split <;> rfl

/-- Each lane of a group starts with the words of its record in the registers that task start sets (R237). -/
theorem regElem_startRegs (w : List Word) {width i r v : Nat} (hi : i < width) (hw : width ≤ 64)
    (named : (r, v) ∈ [(0, 2), (1, 3), (2, 12), (3, 13), (4, 14), (5, 15)]) : regElem (startRegs w width) r i = .full (w.getD v 0) false := by
  have word : tgetD (startWords w) r 0 = w.getD v 0 := by
    unfold startWords
    rw [tgetD_filter_ne_zero]
    · fin_cases named <;> rfl
    · change [0, 1, 2, 3, 4, 5].Nodup
      decide
  rw [regElem, startRegs, tgetD, tget?_startRegs _ _ hi hw, ← word, tgetD]
  cases tget? (startWords w) r <;> rfl

/-! ### The groups of a team that starts -/

/-- A group without the gangs of its slices. -/
def Group.ungang (x : Group) : Group := { x with slices := x.slices.map (fun y => { y with gang := 0 }) }

/-- The start of gangs changes nothing else of a group. -/
theorem ungang_startGangs (s : State) (gs old : List Nat) (g : Nat) :
    (group? (startGangs s gs old) g).map Group.ungang = (group? s g).map Group.ungang := by
  unfold startGangs
  induction gs generalizing s with
  | nil => rfl
  | cons h gs ih =>
    rw [List.foldl_cons, ih, group?_modGroup]
    split
    · rename_i same
      rw [same]
      cases group? s h with
      | none => rfl
      | some x =>
        simp only [Option.map_some, Group.ungang, List.map_map]
        congr 2
        conv_rhs => rw [← List.zipIdx_map_fst 0 x.slices, List.map_map]
        rfl
    · rfl

/-- Groups put in the table one after another under keys of their own are all found. -/
theorem group?_foldl_setGroup {α : Type} (key : α → Nat) (val : State → α → Group) (as : List α) (distinct : (as.map key).Nodup)
    (s : State) {a : α} (ha : a ∈ as) : ∃ u, group? (as.foldl (fun s a => setGroup s (key a) (val s a)) s) (key a) = some (val u a) := by
  have others (bs : List α) (g : Nat) (hg : g ∉ bs.map key) (s : State) :
      group? (bs.foldl (fun s a => setGroup s (key a) (val s a)) s) g = group? s g := by
    induction bs generalizing s with
    | nil => rfl
    | cons b bs ih =>
      rw [List.map_cons, List.mem_cons, not_or] at hg
      rw [List.foldl_cons, ih hg.2]
      exact tget?_tput_ne _ _ hg.1
  induction as generalizing s with
  | nil => cases ha
  | cons b as ih =>
    rw [List.map_cons] at distinct
    obtain ⟨fresh, distinct⟩ := List.nodup_cons.mp distinct
    rcases List.mem_cons.mp ha with rfl | ha
    · exact ⟨s, by rw [List.foldl_cons, others as _ fresh]; exact tget?_tput_self _ _ _⟩
    · exact ih distinct _ ha

/-- What the dispatcher binds: the groups' numbers with their seats, in order. -/
theorem mem_bound {n j : Nat} {seats : List (List Nat × Nat)} {e : List Nat × Nat} (h : seats[j]? = some e) :
    ((n + j, e), j) ∈ (((List.range seats.length).map (n + ·)).zip seats).zipIdx := by
  obtain ⟨hj, -⟩ := List.getElem?_eq_some_iff.mp h
  rw [List.mk_mem_zipIdx_iff_getElem?, List.getElem?_zip_eq_some]
  exact ⟨by simp [hj], h⟩

theorem bound_distinct (n : Nat) (seats : List (List Nat × Nat)) :
    (((((List.range seats.length).map (n + ·)).zip seats).zipIdx).map (·.1.1)).Nodup := by
  have keys : ((((List.range seats.length).map (n + ·)).zip seats).zipIdx).map (·.1.1) = (List.range seats.length).map (n + ·) := by
    rw [show (fun e : (Nat × List Nat × Nat) × Nat => e.1.1) = Prod.fst ∘ Prod.fst from rfl, ← List.map_map, List.zipIdx_map_fst,
      List.map_fst_zip (by simp)]
  rw [keys]
  exact List.nodup_range.map fun _ _ h => Nat.add_left_cancel h

/-- A team has started with number `n`: its groups sit in their seats, at the kernel `pc`, with the registers that the record gives (R237). -/
structure Started (t : State) (n lid no : Nat) (coord : Word × Word × Word) (core : Nat) (w : List Word) (pc : Addr)
    (seats : List (List Nat × Nat)) : Prop where
  team : ∃ y, team? t n = some y ∧ y.launch = lid ∧ y.no = no ∧ y.core = core ∧ (y.tx, y.ty, y.tz) = coord ∧ y.pair = trPair w ∧
    y.scr = trScr w ∧ y.groups = (List.range seats.length).map (n + 1 + ·)
  group : ∀ j e, seats[j]? = some e → ∃ z clk, group? t (n + 1 + j) = some z ∧
    z.ungang = (freshGroup w n j e.1 e.2 clk pc computeRole).ungang

theorem startTeam_starts (s : State) (lid : Nat) (l : Launch) (no : Nat) (coord : Word × Word × Word) (core : Nat)
    (seats : List (List Nat × Nat)) (grip : Bool) :
    Started (startTeam s lid l no coord core seats computeRole grip) s.work.nextId lid no coord core l.words l.exec seats := by
  unfold startTeam
  dsimp -zeta only [freshId]
  extract_lets w work gids old next u1 u2 u3 u4 ctx t
  refine ⟨⟨t, tget?_tput_self _ _ _, rfl, rfl, rfl, rfl, rfl, rfl, rfl⟩, fun j e he => ?_⟩
  have fresh : group? (modLaunch (setTeam (freshL1 u4 core (trPair w)) s.work.nextId t) lid fun l => { l with started := l.started + 1 })
      (s.work.nextId + 1 + j) = group? u4 (s.work.nextId + 1 + j) := group?_of_beyondMemory (beyondMemory_freshL1 u4 core (trPair w)) _
  obtain ⟨v, put⟩ := group?_foldl_setGroup (fun e => e.1.1)
    (fun u e => freshGroup w s.work.nextId e.2 e.1.2.1 e.1.2.2 (coreOf u (slotCore (e.1.2.1.headD 0))).clk l.exec computeRole) _
    (bound_distinct (s.work.nextId + 1) seats) u2 (mem_bound he)
  have gangs := ungang_startGangs u3 gids old (s.work.nextId + 1 + j)
  have placed : group? u3 (s.work.nextId + 1 + j) = _ := put
  rw [placed] at gangs
  obtain ⟨z, hz, same⟩ := Option.map_eq_some_iff.mp gangs
  exact ⟨z, _, fresh.trans hz, same⟩

theorem Started.of_beyondMemory {s t : State} {n lid no : Nat} {coord : Word × Word × Word} {core : Nat} {w : List Word} {pc : Addr}
    {seats : List (List Nat × Nat)} (h : Started s n lid no coord core w pc seats) (same : beyondMemory t = beyondMemory s) :
    Started t n lid no coord core w pc seats := by
  obtain ⟨y, hy, launch, no, core, coord, pair, scr, groups⟩ := h.team
  obtain ⟨x, hx, erased⟩ := team?_of_beyondMemory same hy
  have field {α : Type} (f : Team → α) (hf : ∀ z, f z.beyondMemory = f z) : f x = f y := by rw [← hf x, ← hf y, erased]
  refine ⟨⟨x, hx, ?_, ?_, ?_, ?_, ?_, ?_, ?_⟩, fun j e he => ?_⟩
  · rw [field (·.launch) fun _ => rfl, launch]
  · rw [field (·.no) fun _ => rfl, no]
  · rw [field (·.core) fun _ => rfl, core]
  · rw [field (fun z => (z.tx, z.ty, z.tz)) fun _ => rfl, coord]
  · rw [field (·.pair) fun _ => rfl, pair]
  · rw [field (·.scr) fun _ => rfl, scr]
  · rw [field (·.groups) fun _ => rfl, groups]
  · rw [group?_of_beyondMemory same]
    exact h.group j e he

/-- The slices of a group that starts are at its kernel, and its lanes hold the words of the record. -/
theorem Started.lanes {t : State} {n lid no : Nat} {coord : Word × Word × Word} {core : Nat} {w : List Word} {pc : Addr}
    {seats : List (List Nat × Nat)} (h : Started t n lid no coord core w pc seats) {j : Nat} {e : List Nat × Nat} (he : seats[j]? = some e) :
    ∃ z, group? t (n + 1 + j) = some z ∧ z.team = n ∧ z.gidx = j ∧ z.width = trWidth w ∧ z.seats = e.1 ∧
      (∀ m, m < trWidth w / 4 → (slice? t (n + 1 + j) m).map (·.prog) =
        some { pc := pc, running := sliceMask m, pending := [], parked := [] }) ∧
      ∀ i r v, i < trWidth w → (r, v) ∈ [(0, 2), (1, 3), (2, 12), (3, 13), (4, 14), (5, 15)] →
        laneElem t (.wave (n + 1 + j) i) r = .full (w.getD v 0) false := by
  obtain ⟨z, clk, hz, same⟩ := h.group j e he
  have field {α : Type} (f : Group → α) (hf : ∀ x : Group, f x.ungang = f x) : f z = f (freshGroup w n j e.1 e.2 clk pc computeRole) := by
    rw [← hf z, same, hf]
  refine ⟨z, hz, field (·.team) fun _ => rfl, field (·.gidx) fun _ => rfl, field (·.width) fun _ => rfl, field (·.seats) fun _ => rfl,
    fun m hm => ?_, fun i r v hi named => ?_⟩
  · have prog := field (fun x => (x.slices[m]?).map (·.prog)) fun x => by simp [Group.ungang, Function.comp_def]
    have all : sliceMask m &&& 18446744073709551615#64 = sliceMask m := BitVec.and_allOnes
    rw [slice?, hz, Option.bind_some, prog]
    simp [freshGroup, freshLevel, computeRole, hm, all]
  · have low : r < 56 := by fin_cases named <;> decide
    rw [laneElem_wave, if_pos low, hz, Option.map_some, Option.getD_some, field (·.regs) fun _ => rfl]
    exact regElem_startRegs w hi (width_freshGroup w n j e.1 e.2 clk pc computeRole) named

end Sys2Proof.Machine
end

section
/-! TASK_DISPATCH (R244 to R247) for a partition with one queue to go on with: what the dispatcher finds there, that it picks it, and the
start of its first team. -/

namespace Sys2Proof.Machine

/-! ### Deficit round robin among one queue -/

theorem rotateFrom_singleton (q cursor : Nat) : rotateFrom [q] cursor = [q] := by
  unfold rotateFrom
  by_cases h : cursor ≤ q
  · simp [h]
  · simp [h, Nat.lt_of_not_le h]

/-- After the rounds that only add the quantum, at most one visit is left before the deficit is positive (R246). -/
theorem drrNeed_leaves (quant : Nat → Int) (ds : Tab Int) (q : Nat) (pos : 1 ≤ quant q) :
    0 < tgetD ds q 0 + quant q * (min (drrNeed quant ds q - 1) (drrNeed quant ds q) : Nat) + quant q := by
  unfold drrNeed
  dsimp only
  split
  · rename_i ready
    simp only [Nat.zero_sub, Nat.min_self, Nat.cast_zero, mul_zero, add_zero]
    omega
  · rename_i spent
    have rounds : (((-(tgetD ds q 0)) / quant q).toNat : Int) = -(tgetD ds q 0) / quant q :=
      Int.toNat_of_nonneg (Int.ediv_nonneg (by omega) (by omega))
    have rest := Int.emod_lt_of_pos (-(tgetD ds q 0)) (show 0 < quant q by omega)
    have whole := Int.mul_ediv_add_emod (-(tgetD ds q 0)) (quant q)
    rw [Nat.add_sub_cancel, Nat.min_eq_left (Nat.le_succ _), rounds]
    omega

/-- A backlogged queue that is ready and alone is chosen, whatever its deficit. -/
theorem drrChoose_singleton {quant : Nat → Int} {ready : Nat → Bool} {q : Nat} (pos : 1 ≤ quant q) (goes : ready q = true) (cursor : Nat)
    (ds : Tab Int) : (drrChoose quant ready [q] cursor ds).1 = some q := by
  unfold drrChoose
  rw [List.filter_cons_of_pos goes, rotateFrom_singleton]
  have visits (d : Int) (ds : Tab Int) (hd : tgetD ds q 0 = d) (last : 0 < d + quant q) :
      (drrVisits quant ready ([q] ++ [q] ++ [q]) ds).1 = some q := by
    simp only [List.cons_append, List.nil_append, drrVisits, hd, goes, if_true, tgetD_tput_self, last]
    split <;> rfl
  exact visits _ _ (tgetD_tput_self _ _ _ _) (drrNeed_leaves quant ds q pos)

/-! ### The head of a queue -/

/-- A head record that no team has been started of, and a place for one: the queue is backlogged and the core its home. -/
theorem headState_place {s : State} {p q core head header : Nat} {w : List Word} {seats : List (List Nat × Nat)}
    (h : headState s p q core = .place head none w header seats) : (∃ d, headDesc s p false q = .ok d ∧ backlogged d = true) ∧
      ∃ grip, homeCore s p s.work.nextId w grip none = some (core, seats) := by
  unfold headState at h
  split at h
  · cases h
  · cases h
  · cases h
  · rename_i d hd
    split at h
    · cases h
    · rename_i more
      refine ⟨⟨d, hd, by simpa using more⟩, ?_⟩
      split at h
      · split at h
        · cases h
        · split at h
          · split at h <;> cases h
          · cases h
      · split at h
        · cases h
        · cases h
        · dsimp only at h
          split at h
          · cases h
          · cases h
          · split at h
            · rename_i home
              split at h
              · rename_i here
                cases h
                exact ⟨_, here ▸ home⟩
              · cases h
            · cases h

/-- The home of a team is a core on which its partition places teams. -/
theorem mayHost_of_homeCore {s : State} {p lid core : Nat} {w : List Word} {grip : Bool} {only : Option Nat} {seats : List (List Nat × Nat)}
    (h : homeCore s p lid w grip only = some (core, seats)) : mayHost s p core = true := by
  obtain ⟨c, -, room⟩ := List.exists_of_findSome?_eq_some h
  obtain ⟨b, room, same⟩ := Option.map_eq_some_iff.mp room
  obtain ⟨rfl, -⟩ := Prod.mk.inj same
  by_contra closed
  simp [roomOn, closed] at room

/-- An enabled descriptor has a quantum of at least 1. -/
theorem quant_of_headDesc {s : State} {p q : Nat} {d : QDesc} (h : headDesc s p false q = .ok d) (enabled : d.en = true) : 1 ≤ d.quant := by
  unfold headDesc descAt at h
  split at h
  · cases h
  · split at h
    · cases h
      simp only [parseDesc, Bool.and_eq_true, Bool.false_eq_true, if_false, decide_eq_true_eq] at enabled
      exact enabled.2.1
    · cases h
    · cases h

/-! ### The step -/

/-- One partition runs, and one of its queues has something for the core: a team to place. -/
structure OneHead (u : State) (p q core head : Nat) (w : List Word) (header : Nat) (seats : List (List Nat × Nat)) : Prop where
  part : runningParts u = [p]
  queue : q < 16
  place : headState u p q core = .place head none w header seats
  others : ∀ j, j < 16 → j ≠ q → headState u p j core = .idle

/-- The heads of a partition's queues, seen from a core. -/
def queueHeads (u : State) (p core : Nat) : List (Nat × HeadState) := (List.range 16).map (fun j => (j, headState u p j core))

namespace OneHead
variable {u : State} {p q core head header : Nat} {w : List Word} {seats : List (List Nat × Nat)} (h : OneHead u p q core head w header seats)
include h

theorem mem_queueHeads : (q, .place head none w header seats) ∈ queueHeads u p core :=
  List.mem_map.mpr ⟨q, List.mem_range.mpr h.queue, by rw [h.place]⟩

theorem any_ready : (queueHeads u p core).any (fun e => headReady e.2) = true :=
  List.any_eq_true.mpr ⟨_, h.mem_queueHeads, rfl⟩

theorem any_ready_here : (queueHeads u p core).any (fun e => decide (e.1 = q) && headReady e.2) = true :=
  List.any_eq_true.mpr ⟨_, h.mem_queueHeads, by simp [headReady]⟩

theorem busy_queues : ((queueHeads u p core).filter (fun e => decide (e.2 ≠ .idle))).map (·.1) = [q] := by
  have busy (j : Nat) (hj : j ∈ List.range 16) : decide (headState u p j core ≠ .idle) = decide (j = q) := by
    by_cases same : j = q
    · simp [same, h.place]
    · simp [same, h.others j (List.mem_range.mp hj) same]
  rw [queueHeads, List.filter_map, List.map_map, ← range_filter_eq h.queue, ← List.filter_congr busy]
  exact List.map_id _

theorem find_queue : (queueHeads u p core).find? (fun e => decide (e.1 = q)) = some (q, .place head none w header seats) := by
  have here : (List.range 16).find? (fun j => decide (j = q)) = some q := by
    have low := h.queue
    clear h
    revert q
    decide
  rw [queueHeads, List.find?_map, ← h.place]
  exact congrArg (Option.map fun j => (j, headState u p j core)) here

end OneHead

/-- The dispatcher places the team after it has noted the visits. -/
theorem dispatchStep_places {s : State} {core p q head header : Nat} {w : List Word} {seats : List (List Nat × Nat)}
    (ready : s.units.ready &&& 0x18 = 0x18) (noMesh : s.work.passes = []) (h : OneHead (refreshQueues s) p q core head w header seats) :
    ∃ f : Part → Part, (∀ x, (f x).regs = x.regs) ∧
      dispatchStep s core = refreshQueues (placeHead (modPart (refreshQueues s) p f) p q core head none w header seats) := by
  obtain ⟨⟨d, desc, waiting⟩, grip, home⟩ := headState_place h.place
  have mesh : meshPlacement s core = none := by rw [meshPlacement, noMesh]; rfl
  have hosts : (runningParts (refreshQueues s)).filter (fun p => mayHost (refreshQueues s) p core) = [p] := by
    rw [h.part, List.filter_singleton, mayHost_of_homeCore home]
    rfl
  unfold dispatchStep
  rw [if_neg (not_not.mpr ready), mesh]
  dsimp only
  rw [hosts]
  have busy := h.busy_queues
  have found := h.find_queue
  have ready := h.any_ready
  unfold queueHeads at busy found ready
  rw [List.filter_singleton, ready]
  dsimp only [cond_true, argMin]
  rw [busy, drrChoose_singleton]
  · dsimp only
    rw [found]
    refine ⟨_, ?_, rfl⟩
    exact fun _ => rfl
  · rw [desc]
    have enabled : d.en = true := (Bool.and_eq_true_iff.mp waiting).1
    exact Int.ofNat_le.mpr (quant_of_headDesc desc enabled)
  · exact h.any_ready_here

/-- The next team of a launch whose core is awake starts, and with the last team HEAD moves on (R247). -/
theorem placeHead_starts {s : State} {p q core head lid header : Nat} {l : Launch} {seats : List (List Nat × Nat)}
    (on : (clusterOf s (core / 4)).gate = .on) (hl : launch? s lid = some l) :
    Started (placeHead s p q core head (some lid) l.words header seats) s.work.nextId lid l.started (trCoord l.words l.started) core l.words
      l.exec seats := by
  have awake : wakeFor s core = (true, s) := by
    unfold wakeFor
    simp only [on]
  unfold placeHead
  simp only [awake, hl, Bool.not_true, Bool.false_eq_true, if_false]
  generalize noted : modLaunch s lid _ = v
  have started := startTeam_starts v lid l l.started (trCoord l.words l.started) core seats (launchGrip l)
  rw [show v.work.nextId = s.work.nextId by rw [← noted]; rfl] at started
  refine started.of_beyondMemory ?_
  split
  · exact (beyondMemory_putDesc _ _ _ _ _).trans (beyondMemory_modPart _ p _)
  · rfl

/-- The launch made of a queue's head record (R235, R236). -/
def headLaunched (s : State) (p q head : Nat) (w : List Word) (header : Nat) : State :=
  modPart { s with work := { s.work with
      nextId := s.work.nextId + 1
      launches := tput s.work.launches s.work.nextId (newLaunch p (.queue q) head (descAddr s p false q) w header) } } p
    (fun x => { x with heads := tput x.heads q { launch := s.work.nextId, head := head } })

theorem placeHead_none (s : State) (p q core head : Nat) (w : List Word) (header : Nat) (seats : List (List Nat × Nat)) :
    placeHead s p q core head none w header seats =
      placeHead (headLaunched s p q head w header) p q core head (some s.work.nextId) w header seats := rfl

/-- A head record that no team has been started of becomes a launch, and its first team starts. -/
theorem placeHead_starts_first {s : State} {p q core head header : Nat} {w : List Word} {seats : List (List Nat × Nat)}
    (on : (clusterOf s (core / 4)).gate = .on) :
    Started (placeHead s p q core head none w header seats) (s.work.nextId + 1) s.work.nextId 0 (trCoord w 0) core w
      (BitVec.ofNat 56 (trEntry w + 8)) seats := by
  have launched : launch? (headLaunched s p q head w header) s.work.nextId = some (newLaunch p (.queue q) head (descAddr s p false q) w header) :=
    tget?_tput_self _ _ _
  have awake : (clusterOf (headLaunched s p q head w header) (core / 4)).gate = .on := on
  have number : (headLaunched s p q head w header).work.nextId = s.work.nextId + 1 := rfl
  have started := placeHead_starts (p := p) (q := q) (head := head) (header := header) (seats := seats) awake launched
  rw [number] at started
  rw [placeHead_none]
  exact started

/-- The dispatcher and the task queues are ready where bits 3 and 4 of READY are. -/
theorem ready_of_bits {r : BitVec 13} (h3 : r.getLsbD 3 = true) (h4 : r.getLsbD 4 = true) : r &&& 0x18 = 0x18 := by
  apply BitVec.eq_of_getLsbD_eq
  intro i hi
  rw [BitVec.getLsbD_and]
  interval_cases i <;> simp [h3, h4]

/-- TASK_DISPATCH starts the first team of the one record that it can place. -/
theorem dispatchStep_starts {s : State} {core p q head header : Nat} {w : List Word} {seats : List (List Nat × Nat)}
    (ready : s.units.ready &&& 0x18 = 0x18) (noMesh : s.work.passes = []) (on : (clusterOf s (core / 4)).gate = .on)
    (h : OneHead (refreshQueues s) p q core head w header seats) :
    Started (dispatchStep s core) (s.work.nextId + 1) s.work.nextId 0 (trCoord w 0) core w (BitVec.ofNat 56 (trEntry w + 8)) seats := by
  obtain ⟨f, regs, step⟩ := dispatchStep_places ready noMesh h
  have same : beyondMemory (modPart (refreshQueues s) p f) = beyondMemory s := (beyondMemory_modPart _ p f regs).trans (beyondMemory_refreshQueues s)
  rw [← nextId_of_beyondMemory same, step]
  refine (placeHead_starts_first ?_).of_beyondMemory (beyondMemory_refreshQueues _)
  rw [clusterOf_of_beyondMemory same]
  exact on

end Sys2Proof.Machine
end

section
/-! The family of scheduling tasks. -/

open Sys2Proof Sys2Proof.Machine

/-- Settles O52: accesses to memory keep the numbers, the launches and the teams that a dispatch leaves behind, deficit round robin picks a queue
that is alone, and while no cache is ahead of memory an enqueue and a completion write memory as their queue's and counter's bytes say. -/
theorem tasksAreEnqueuedDispatchedAndCompleted : Obligations.TasksAreEnqueuedDispatchedAndCompleted := by
  unfold Obligations.TasksAreEnqueuedDispatchedAndCompleted
  refine ⟨?_, ?_, ?_⟩
  · intro s core p q head header w seats u n ready3 ready4 noMesh part queue place others on
    have started := dispatchStep_starts (ready_of_bits ready3 ready4) noMesh on ⟨part, queue, place, others⟩
    exact ⟨_, rfl, started.team, fun j e he => started.lanes he⟩
  · intro s n k pa pb va e es d ready wf tags lists first part slot going unwritten size class_le addr mappedA _ next room mappedB clear
      homes _ spanB
    have h : HasSlot s n e k va pa d := ⟨⟨tags, lists, homes⟩, part, slot, class_le, addr, mappedA, rfl⟩
    have goes := h.enqNext_write unwritten going room mappedB
    refine ⟨enqueueStep s n, rfl, ?_⟩
    rw [h.enqueueStep_writes ready first goes]
    exact h.writeRecord_spec wf first (by rw [bytesOf_length, size]) next mappedB clear spanB
  · intro s lid c l launch live src started ended notKilled
    have h : LaunchEnds s lid l :=
      ⟨launch, live, by simp [launchOver, started, ended, notKilled], by rw [src]; rfl⟩
    refine ⟨fun plain => ⟨_, rfl, h.completeLaunch_plain plain⟩, fun pa calm counted low aligned mapped => ?_⟩
    obtain ⟨t, succ, down⟩ := calm.quiet.l2Plain.deviceSucc_of_mapped calm.wf low aligned mapped
    refine ⟨completeLaunch s lid, rfl, ?_⟩
    rw [h.completeLaunch_counts calm counted succ]
    have same : launch? t lid = some l := by rw [launch?, down.work]; exact launch
    exact ⟨launch?_modLaunch_self same fun l => { l with complete := true }, down.counter, down.mem, down.enqs⟩
end
